-- ==== Sys2Proof/Word.lean ====
section
/-!
DEFINITION. The word types of the DLG-9600 and the index types of its units.
Counts of units follow R27; register width follows R15; stream IDs follow R399.
-/

namespace Sys2Proof

/-- One byte. -/
abbrev Byte := BitVec 8

/-- One 32-bit register (R15), also one FP32 bit pattern (R118). -/
abbrev Word := BitVec 32

/-- A 64-bit value held in a LO/HI register pair (R15). -/
abbrev DWord := BitVec 64

/-- A module physical address (48 bits, R259 and R602). -/
abbrev PAddr := BitVec 48

/-- Field dies FD0 to FD3 (R27). -/
abbrev Die := Fin 4

/-- Physical acres A00 to A67 of one field die (R27). -/
abbrev PAcre := Fin 68

/-- Logical acres 0 to 63 of one field die (R255). -/
abbrev LAcre := Fin 64

/-- Logical Furrow macros 0 to 63 of one acre (R48). -/
abbrev LMacro := Fin 64

/-- Scratchpad banks B0 to B7 (R289). -/
abbrev Bank := Fin 8

/-- Holdings HLD0 to HLD3; holding n belongs to host port n (R42). -/
abbrev Holding := Fin 4

/-- HBM stacks MEM0 to MEM11 (R27). -/
abbrev Stack := Fin 12

/-- Flume ports (R1). -/
abbrev FPort := Fin 2

/-- Queue pairs of one holding (R508). -/
abbrev QPair := Fin 64

/-- Micro-batches 0 to 3 (R37). -/
abbrev MBatch := Fin 4

/-- Stream IDs (R399). -/
abbrev StreamId := BitVec 20

/-- Stream handles: ID in [19:0], generation in [31:20] (R399). -/
abbrev Handle := BitVec 32

/-- Basin indices of *Table: Basin index* (R135). -/
abbrev BasinIx := BitVec 21

/-- Plot indices, the upper 13 bits of a basin index (R135). -/
abbrev PlotIx := BitVec 13

/-- A sparse map: pairs in strictly rising key order, none equal to the default of its key. -/
abbrev NatMap (α : Type) := List (Nat × α)

end Sys2Proof
end

