-- ==== Sys2Proof/Syntax.lean ====
section
/-!
DEFINITION. The commands of the block: ONE inductive `Instr`, one constructor per row of
spec/opcode_table.json, with the operands that a sender, a unit's clock, a sensor, a link or a host supplies.
-/

namespace Sys2Proof

/-- The path an access comes by (R601, R619): a holding's host port, the management cores, the
management port or the TAP. -/
inductive Path
  | host (n : Holding)
  | cores
  | mgmt
  | tap
  deriving DecidableEq, Repr

/-- Input formats of a Furrow or basin pass (R55). -/
inductive XFmt | int8 | uint8 | int4 | uint4
  deriving DecidableEq, Repr

/-- The work an issue belongs to (R251, R390): the step of a micro-batch, the prompt sweep, a training step, or
module-owned work of the management cores. -/
inductive Work
  | step (m : MBatch)
  | sweep
  | train
  | module
  deriving DecidableEq, Repr

/-- One issue of a course or a collective (R251): image handle, COURSE_ID or COLL_ID, up to 16 bound values, and
the work it belongs to. -/
structure Issue where
  image : Nat := 0
  id    : Nat := 0
  cb    : List Word := []
  work  : Work := .module
  deriving DecidableEq, Repr

/-- A hardware error of a pass (R79): the deviation of one channel of one macro from its exact output. -/
structure PassErr where
  lm    : LMacro
  chan  : Nat
  delta : Int
  deriving DecidableEq, Repr

/-- How a stored word reads under its error code (R322, R323, R581): clean, one flipped bit corrected,
uncorrectable once and correctable in the repeat, or uncorrectable twice. -/
inductive ReadErr
  | clean
  | corrected
  | transient
  | lasting
  deriving DecidableEq, Repr

/-- A neuron of a mask (R232): its gate channel and its up channel in the basin group. -/
structure NeuronPair where
  gate : Fin 512
  up   : Fin 512
  deriving DecidableEq, Repr

/-- Where a command of *Table: Command set* comes from: the k-th command that waits behind the submission queues, or the
board management controller with a handle and ARG0. -/
inductive CmdSrc
  | host (k : Nat)
  | board (handle : Nat) (arg0 : Nat)
  deriving DecidableEq, Repr

/-- A cell that did not verify within 32 iterations (R180, R186): its column, where it stopped in 1/128 level, and whether
it holds within 0.05 level of the end that it is driven to. -/
structure CellStop where
  col  : Fin 518
  at_  : Fin 1921
  held : Bool := true
  deriving DecidableEq, Repr

/-- A cell that a read-back finds off its stored level (R197): row, column, reading in 1/64 level. -/
structure CellRead where
  row : Fin 512
  col : Fin 518
  at_ : Fin 961
  deriving DecidableEq, Repr

/-- What a correction step serves (R209, R210): a tile of the k-th BASIN course of a controller, or a fill of the
MATMUL course of an acre. -/
inductive CorrTarget
  | basin (run : Nat)
  | fill (acre : PAcre) (fill : Nat)
  deriving DecidableEq, Repr

/-- What executes a course (R252, R253): an acre, or the k-th course of a Cistern controller. -/
inductive Executor
  | acre (die : Die) (acre : PAcre)
  | controller (die : Die) (run : Nat)
  deriving DecidableEq, Repr

/-- An error code result of one word of a scratchpad access or scrub (R321 to R323): word within the access, what the
code found, the column of a corrected bit. -/
structure WordErr where
  word : Nat
  err  : ReadErr
  col  : Nat := 0
  deriving DecidableEq, Repr

/-- One access to a scratchpad window (R290, R291, R306): task, direction, window offset, length, write data, error
code results, the acre cycle, the half-cycles a DMA access waited, and the executor behind task 2. -/
structure SpadAcc where
  die   : Die
  acre  : LAcre
  task  : Fin 4
  write : Bool
  off   : Nat
  len   : Nat
  data  : List Byte := []
  errs  : List WordErr := []
  cycle : Nat := 0
  defer : Nat := 0
  by_   : Option (Die × PAcre) := none
  deriving DecidableEq, Repr

/-- The rails of *Table: On-module rails* (R629), and the input undervoltage monitor's alert line (R626). -/
inductive Rail
  | v12ib | vstby | vddHg | vioHg
  | vddFd (n : Die) | vddsFd (n : Die) | vioFd (n : Die) | vcis (n : Die) | varr (n : Die) | vhbm (n : Die)
  | input
  deriving DecidableEq, Repr

/-- A direction of a die-to-die link (R364, R579): a ring port of a field die, E or W; a star link or a stack link (number), toward
the stack or away. -/
inductive LinkDir
  | ring (die : Die) (west : Bool)
  | star (die : Die) (up : Bool)
  | stack (n : Fin 16) (up : Bool)
  deriving DecidableEq, Repr

/-- A read of host memory by the module that times out or fails (R519, R520): the data of the k-th waiting command, or the
prompt of a stream in STAGING. -/
inductive HostRead
  | command (k : Nat)
  | prompt (stream : StreamId)
  deriving DecidableEq, Repr

/-- MCTP control messages (R529). -/
inductive MctpMsg
  | discovery
  | assignEid (eid : BitVec 8)
  deriving DecidableEq, Repr

/-- The sensors of PLDM Type 2 (R529): input power, coolant at the supply and return coupling (the latter with its reading in
0.125 °C, which no other rule uses), the hottest die of each kind, and DPW_THERM of a field die. -/
inductive Sensor
  | inputPower
  | supply
  | return_ (reading : Nat)
  | hotAcre
  | hotPlot
  | hotHbm
  | therm (die : Die)
  deriving DecidableEq, Repr

/-- An SPDM connection (R549): the DOE mailbox of a host port, or the management port. -/
inductive SpdmPort
  | host (h : Holding)
  | mgmt
  deriving DecidableEq, Repr

/-- IDE key management on a selective stream of a host port (R502, R554): program a key set, switch to it, stop. -/
inductive IdeMsg
  | program (set : Fin 2)
  | go (set : Fin 2)
  | stop
  deriving DecidableEq, Repr

/-- What the self-test of an acre finds (R576): it passes, spare columns (bank, column) can repair it, or it fails. -/
inductive TestRes
  | pass
  | columns (cols : List (Bank × Fin 580))
  | fail
  deriving DecidableEq, Repr

/-- What a readout while frozen reads (R595): a register, a scratchpad word, an accumulator entry, a row of a weight set, an
entry of the event log, or another part of the engine state of *Table: Freeze readout*. -/
inductive Readout
  | reg (addr : PAddr)
  | spad (die : Die) (acre : PAcre) (off : Fin 0x200000)
  | acc (die : Die) (acre : PAcre) (acc : Fin 2) (entry : Fin 8192)
  | weights (die : Die) (acre : PAcre) (macro_ : LMacro) (setB : Bool) (row : Fin 64)
  | log (seq : Nat)
  | engine (offset : Nat)
  deriving DecidableEq, Repr

/-- The commands of the block: one constructor per row of spec/opcode_table.json. -/
inductive Instr
  /-- REGISTER_WRITE (R605): A plain write to a register that has no row of its own is checked for ownership and byte enables and applied or discarded and counted in ERR_CNT. -/
  | registerWrite (p : Path) (addr : PAddr) (data : Word) (be : BitVec 4)
  /-- REGISTER_ALIAS_WRITE (R606): A write through a block's bit-set or bit-clear alias performs one atomic read-modify-write on the rw fields of the register. -/
  | registerAliasWrite (p : Path) (addr : PAddr) (data : Word) (be : BitVec 4)
  /-- LO_READ (R607): A read of the LO register of a pair fills the reading path's latch with the current HI value. -/
  | loRead (p : Path) (addr : PAddr)
  /-- HI_READ (R607): A read of the HI register of a pair returns and empties the path's latch, or returns the live HI value when the latch is empty. -/
  | hiRead (p : Path) (addr : PAddr)
  /-- LO_WRITE (R608): A plain write of the LO register of a writable pair is staged in the path's latch without taking effect. -/
  | loWrite (p : Path) (addr : PAddr) (data : Word)
  /-- HI_WRITE (R608): A plain write of the HI register of a writable pair makes the full 64-bit value take effect at once. -/
  | hiWrite (p : Path) (addr : PAddr) (data : Word)
  /-- STR_CREDIT (R608): A write of STR_CREDIT_HI adds the staged 64-bit signed credit to the selected holding's energy balance, saturating. -/
  | strCredit (p : Path) (data : Word)
  /-- IRQ_STAT_CLEAR (R612): A w1c write to IRQ_STAT clears pending interrupt bits, except bits set by an event in the same cycle. -/
  | irqStatClear (p : Path) (addr : PAddr) (data : Word)
  /-- IRQ_FORCE (R612): A write to IRQ_FORCE sets the PEND bits of implemented interrupt sources. -/
  | irqForce (p : Path) (addr : PAddr) (data : Word)
  /-- ERR_CLR (R611): A write of 1 to BLK_CTRL.ERR_CLR clears ERR_CNT, ERR_FIRST and ERR_LAST, keeping any access counted in the same cycle. -/
  | errClr (p : Path) (addr : PAddr) (data : Word)
  /-- ROLE_REQUEST (R622): A write of MOD_ROLE.REQ that differs from CURRENT starts the role change of R418 or replaces the target of one in progress. -/
  | roleRequest (p : Path) (data : Word)
  /-- ROLE_SWITCH (R418): Once no course or collective runs during a role change, the role changes, is journalled and admission reopens. -/
  | roleSwitch
  /-- MOD_ALERT_CLEAR (R623): A write of 1 to MOD_ALERT.CLEAR releases MOD_ALERT_N unless a qualifying log entry is written in the same cycle. -/
  | modAlertClear (p : Path) (data : Word)
  /-- SHARE_WRITE (R422): A write of a share register changes a holding's water share, clamping or refusing Cistern plot shares and acting on running streams at the next boundary. -/
  | shareWrite (p : Path) (reg : Fin 4) (data : Word)
  /-- CAP_WRITE (R476): A write of DRD_CAP sets the board management controller's cap, applied at the next ring fence. -/
  | capWrite (p : Path) (data : Word)
  /-- DEEP_REQUEST (R497): Setting DRD_LEVEL.DEEP_REQ requests Deep, which waits until the module is Idle. -/
  | deepRequest (p : Path) (data : Word)
  /-- DEEP_REQUEST_END (R497): Clearing DRD_LEVEL.DEEP_REQ ends the Deep request and starts the wake. -/
  | deepRequestEnd (p : Path) (data : Word)
  /-- SLUICE_GO (R303): A write of GO in SPD_SLUICE checks a bank handover and either refuses it or stops the bank accepting accesses from its current owner. -/
  | sluiceGo (p : Path) (die : Die) (acre : PAcre) (data : Word)
  /-- SLUICE_COMPLETE (R303): When the bank's accesses in flight have completed, the owner changes, CIRC takes effect and RESULT shows done. -/
  | sluiceComplete (die : Die) (acre : PAcre)
  /-- BIST_RUN (R311): A write of RUN in SPD_BIST starts the March C- self-test of a bank that TEST owns in circular mode. -/
  | bistRun (p : Path) (die : Die) (acre : PAcre) (data : Word)
  /-- BIST_DONE (R311): The bank self-test ends and reports PASS and the first failing column, starting a column repair where a spare exists. -/
  | bistDone (die : Die) (acre : PAcre) (fail : Option (Fin 580))
  /-- SPARE_TEST_RUN (R90): A write of RUN in FRW_SPTEST starts the self-test of every eligible spare macro and restarts the interval count. -/
  | spareTestRun (p : Path) (die : Die) (acre : PAcre) (data : Word)
  /-- SPARE_SELF_TEST (R88): The FRW_SPTEST interval expires and the self-test of each unmapped, unretired spare macro starts. -/
  | spareSelfTest (die : Die) (acre : PAcre)
  /-- SPARE_TEST_DONE (R88): A spare macro's self-test ends; a second consecutive failure retires the spare. -/
  | spareTestDone (die : Die) (acre : PAcre) (sp : Fin 2) (fail : Bool)
  /-- ACRE_TEST_REQUEST (R577): A write of GO in RLY_TESTREQ queues the self-test of a physical acre or of every acre of a die behind rotation. -/
  | acreTestRequest (p : Path) (data : Word)
  /-- SCRATCHPAD_ACCESS (R306): A scratchpad access by a task is checked against its base/bound pairs and bank owner, arbitrated for a port half-cycle and performed or faulted. -/
  | scratchpadAccess (a : SpadAcc)
  /-- SCRATCHPAD_ALIAS_WRITE (R299): A 64-bit write to a scratchpad bit-set or bit-clear alias ORs or clears bits in one atomic read-modify-write. -/
  | scratchpadAliasWrite (a : SpadAcc) (set : Bool)
  /-- CIRC_WRITE (R310): A write to a circular port appends at WPTR or, when the ring is full, returns an error without moving a pointer. -/
  | circWrite (die : Die) (acre : PAcre) (bank : Bank) (data : List Byte)
  /-- CIRC_READ (R310): A read of a circular port takes data at RPTR or, when the ring is empty, returns an error without moving a pointer. -/
  | circRead (die : Die) (acre : PAcre) (bank : Bank) (line : Bool)
  /-- ECC_WRITEBACK (R322): A corrected scratchpad word is written back in the next idle write half-cycle unless the line was written since the read. -/
  | eccWriteback (die : Die) (acre : PAcre) (word : Nat)
  /-- COLUMN_REPAIR_DONE (R326): Column migration completes and SPAD_COLUMN_SPARED is logged. -/
  | columnRepairDone (die : Die) (acre : PAcre) (bank : Bank)
  /-- SCRUB_LINE (R324): The scrub interval expires and one line of each bank is read and corrected in an idle read half-cycle. -/
  | scrubLine (die : Die) (acre : PAcre) (errs : List (Bank × WordErr)) (cycle : Nat)
  /-- MGMT_WORD_TIMEOUT (R298): A management core word access that waited 65,536 cycles completes with an error response. -/
  | mgmtWordTimeout (die : Die) (acre : LAcre) (off : Nat) (write : Bool)
  /-- RESERVOIR_SCRUB (R334): A reservoir line is scrubbed; an uncorrectable clean line is refetched and a dirty or resident one is poisoned. -/
  | reservoirScrub (die : Die) (line : Nat) (err : ReadErr) (dirty : Bool) (loc : Option (Nat × Nat × Nat))
  /-- ATOMIC_ADD (R113): An atomic add arrives at its reservoir slice or HBM controller and is applied in arrival order, saturating INT32. -/
  | atomicAdd (die : Die) (acre : PAcre)
  /-- FURROW_PASS (R59): The course sequencer issues a pass to the acre's macros, applying one bit-plane per cycle to the computing weight set. -/
  | furrowPass (die : Die) (acre : PAcre) (stall : Nat)
  /-- PASS_RESIDUE_COMPARE (R78): A pass result reaches its residue compare; a match commits its channel groups into the accumulator and a mismatch stops issue and starts a repeat. -/
  | passResidueCompare (die : Die) (acre : PAcre) (errs : List PassErr)
  /-- RESIDUE_REPEAT_DONE (R82): A repeated pass reaches its compare; a match is transient and commits, a mismatch or third transient retires the macro. -/
  | residueRepeatDone (die : Die) (acre : PAcre) (m : LMacro) (errs : List PassErr) (cycle : Nat)
  /-- WEIGHT_LOAD_START (R72): A load writes the first row of a weight set once the set is no longer ACTIVE. -/
  | weightLoadStart (die : Die) (acre : PAcre) (m : LMacro)
  /-- WEIGHT_LOAD_DONE (R69): A load writes row 63 and the weight set becomes READY. -/
  | weightLoadDone (die : Die) (acre : PAcre) (m : LMacro)
  /-- SET_NOT_READY (R73): A pass has waited 65,536 cycles for its weight set and the course faults. -/
  | setNotReady (die : Die) (acre : PAcre)
  /-- ACC_PRELOAD_START (R104): An accumulator starts a preload of the course's kind, refusing a PARTIAL exponent byte above 2. -/
  | accPreloadStart (die : Die) (acre : PAcre)
  /-- ACC_PRELOAD_DONE (R100): The last preload cycle ends and the accumulator becomes READY. -/
  | accPreloadDone (die : Die) (acre : PAcre) (acc1 : Bool)
  /-- ACC_DRAIN (R102): At the cycle after a tile's last commit the accumulator drains 64 entries per cycle through the Lateral engine with scales, or as INT32 or atomic adds. -/
  | accDrain (die : Die) (acre : PAcre) (acc1 : Bool)
  /-- ACC_DRAIN_DONE (R100): The last drain cycle ends, the accumulator becomes IDLE and the output tile is written. -/
  | accDrainDone (die : Die) (acre : PAcre) (acc1 : Bool)
  /-- COURSE_YIELD (R96): A generation course needs an acre running a prompt course, which completes its open fill, drains both accumulators and yields at the tile boundary. -/
  | courseYield (die : Die) (acre : PAcre)
  /-- COURSE_RESUME (R96): A yielded prompt course resumes at its next output tile and reloads its weight sets. -/
  | courseResume (die : Die) (acre : PAcre)
  /-- COURSE_START (R94): A pending course moves to the running slot of an acre when the running course ends, taking its CB bank and task pairs. -/
  | courseStart (die : Die) (acre : PAcre)
  /-- MATMUL_COURSE (R261): A MATMUL course is issued, checked by the Intake and walks its loop levels running Furrow passes on weight tiles. -/
  | matmulCourse (iss : Issue)
  /-- BASIN_COURSE (R258): A BASIN course is issued, checked by the Intake and runs basin passes on its basin groups in the Cistern controller. -/
  | basinCourse (iss : Issue)
  /-- ATTEND_COURSE (R350): An ATTEND course is issued, checked, appends new keys and values and walks key/value pages with online softmax. -/
  | attendCourse (iss : Issue) (table : List Byte)
  /-- ATTEND_MERGE (R352): An ATTEND course with one level and a gather chain merges partial attention states into outputs. -/
  | attendMerge (iss : Issue)
  /-- RMS_NORMALISATION (R124): A VECTOR course with OP 0x10 RMS-normalises each row, optionally quantising it. -/
  | rmsNormalisation (iss : Issue)
  /-- LAYER_NORMALISATION (R124): A VECTOR course with OP 0x11 layer-normalises each row, optionally quantising it. -/
  | layerNormalisation (iss : Issue)
  /-- INT8_QUANTISATION (R125): A VECTOR course with OP 0x12 quantises each row to INT8 with a per-vector scale. -/
  | int8Quantisation (iss : Issue)
  /-- SOFTMAX_BLOCK (R126): A VECTOR course with OP 0x13 runs one online softmax block per row. -/
  | softmaxBlock (iss : Issue)
  /-- ROUTING (R127): A VECTOR course with OP 0x14 selects the top-k experts and gates per token and writes the selection histogram. -/
  | routing (iss : Issue)
  /-- VECTOR_ADD (R652): A VECTOR course with OP 0x15 adds two rows element by element. -/
  | vectorAdd (iss : Issue)
  /-- VECTOR_MULTIPLY (R652): A VECTOR course with OP 0x16 multiplies two rows element by element. -/
  | vectorMultiply (iss : Issue)
  /-- SAMPLING (R129): A VECTOR course with OP 0x17 turns each row of logits into one token ID by temperature, top-k, top-p and the seeded draw. -/
  | sampling (iss : Issue) (rows : List StreamId)
  /-- ORDERED_SUM (R116): Once every contributor slot of a gather chain is full, the summing engine adds the partials in ascending contributor index. -/
  | orderedSum (iss : Issue)
  /-- FILL (R312): A MOVE course with OP 0x20 writes a pattern to every in-bound element. -/
  | fill (iss : Issue)
  /-- COPY (R312): A MOVE course with OP 0x21 copies each tile from X to Y. -/
  | copy (iss : Issue)
  /-- TRANSPOSE (R313): A MOVE course with OP 0x22 transposes 4 KiB blocks into Y. -/
  | transpose (iss : Issue)
  /-- STRIDE (R312): A MOVE course with OP 0x23 gathers strided elements into contiguous Y. -/
  | stride (iss : Issue)
  /-- EXPAND (R315): A MOVE course with OP 0x24 checks each Screen frame and writes its dense vector and scale. -/
  | expand (iss : Issue)
  /-- READ_BEFORE_FILL (R281): A consumer has waited GATE_TIMEOUT cycles on an empty slot and faults. -/
  | readBeforeFill (ex : Executor)
  /-- OVERWRITE_BEFORE_DRAIN (R281): A producer has waited GATE_TIMEOUT cycles on a full slot and faults. -/
  | overwriteBeforeDrain (ex : Executor)
  /-- BOUND_UNREADABLE (R271): A memory bound read at issue times out on its slot's gate or reads uncorrectable, and the course is refused. -/
  | boundUnreadable (iss : Issue) (coll : Bool)
  /-- CHAIN_BROKEN (R282): A course on a chain whose other course faulted reaches a gate wait and ends with CHAIN_BROKEN. -/
  | chainBroken (ex : Executor)
  /-- COURSE_RECORD_RECEIVED (R521): A course or collective completion record reaches its issuer, which folds it into the step and on a fault discards tokens and repeats the step once. -/
  | courseRecordReceived
  /-- BASIN_PASS (R148): The Cistern controller runs a basin pass, forming weir groups and converting columns plane by plane, and combines the trimmed codes. -/
  | basinPass (die : Die) (run : Nat) (mask : Option (List NeuronPair)) (theta : Int) (hold : Bool)
  /-- WEIR_GROUP_RESUME (R162): A weir group paused for the allotment, Trickle or a thermal rate limit starts when allowed, with the same trims. -/
  | weirGroupResume (die : Die) (run : Nat)
  /-- CLIP_WINDOW_CLOSE (R155): A basin's window of 2^20 weir groups closes, logging CLIP_SPLIT or lowering the weir limit. -/
  | clipWindowClose (basin : BasinIx)
  /-- REFERENCE_SLOT (R158): After 256 weir groups a reference slot converts REF_A or REF_B and the trims are refitted. -/
  | referenceSlot (basin : BasinIx)
  /-- PLOT_TEMP_READ (R161): Plot sensors are read every 10 µs, gating weir groups at 85 °C, rate-limiting from 83 °C and requesting trim refreshes. -/
  | plotTempRead (die : Die) (readings : List (PlotIx × Nat))
  /-- PLOT_THROTTLED_REPORT (R161): Once per second while a plot is rate-limited, PLOT_THROTTLED is reported in telemetry. -/
  | plotThrottledReport (plot : PlotIx)
  /-- IMAGE_OPEN (R518): The IMAGE_OPEN command allocates a staging ring and opens a STAGE channel. -/
  | imageOpen (src : CmdSrc)
  /-- IMAGE_CONTROL_CHECK (R249): When the control sections have arrived the Intake checks header, digest and every control section, allocates regions and binds plots, or refuses the image. -/
  | imageControlCheck (image : Nat)
  /-- BASIN_RECORD (R176): A basin record has arrived whole; its DIGEST is checked and it is programmed or asked for again. -/
  | basinRecord (image : Nat)
  /-- PROGRAM_ROW (R180): The controller programs and verifies one basin row by pulses, pinning cells that do not verify within 32 iterations. -/
  | programRow (basin : BasinIx) (stuck : List CellStop) (pulsed : List (Fin 518)) (range : Fin 3)
  /-- BASIN_SWAP (R197): An armed swap takes effect at the next pass boundary of the basin's group, bringing in the spare or the original. -/
  | basinSwap (basin : BasinIx)
  /-- SPARE_BASIN_TEST (R195): Every 24 powered hours one free spare basin per Cistern die is pattern-tested and retired if it fails. -/
  | spareBasinTest (basin : BasinIx) (unusable : Nat) (offgrid : Bool)
  /-- RECAL_DUE (R196): A basin's recalibration interval expires and it is queued for recalibration. -/
  | recalDue (basin : BasinIx)
  /-- RECALIBRATION (R197): A queued basin starts recalibration by mirroring: read-back against check words, then programming of a spare. -/
  | recalibration (basin : BasinIx) (reads : List CellRead)
  /-- CAL_OVERDUE (R199): A basin reaches 1.5 × I powered hours without recalibration and is logged overdue. -/
  | calOverdue (basin : BasinIx)
  /-- CAL_REQUEST (R201): The CAL_REQUEST command queues every programmed basin of a plot for recalibration. -/
  | calRequest (src : CmdSrc)
  /-- IMAGE_ACTIVATE (R177): The IMAGE_ACTIVATE command makes a READY image ACTIVE, assigning layer slots and locking reservoir regions. -/
  | imageActivate (src : CmdSrc)
  /-- IMAGE_RELEASE (R179): The IMAGE_RELEASE command releases an image, its plots entering RELEASING once its courses complete. -/
  | imageRelease (src : CmdSrc)
  /-- IMAGE_STATUS (R518): The IMAGE_STATUS command returns the image state, records programmed and latest refusal. -/
  | imageStatus (src : CmdSrc)
  /-- CORRECTION_STEP (R221): The Siphon lanes walk their list segments and merge exact corrections into the destination tile. -/
  | correctionStep (die : Die) (tgt : CorrTarget) (lanes repairBad : Bool) (time : Nat)
  /-- LANE_BORROW (R219): An idle lane takes the chunk offered by the nearest busy lane within distance 8. -/
  | laneBorrow (die : Die) (lane : Fin 16384) (walked : List (Fin 16384 × Nat))
  /-- LANE_CHANNEL_SEND (R222): A lane with all lent chunks merged checks its residue and sends the channel, repeating it on a mismatch. -/
  | laneChannelSend (die : Die) (lane : Fin 16384) (bad : Fin 3) (cycle : Nat) (time : Nat)
  /-- PREDICTOR_OFF (R239): The PREDICTOR command with ARG0 0 turns the predictor off for a whole model from the next step boundary. -/
  | predictorOff (src : CmdSrc)
  /-- PREDICTOR_ON (R239): The PREDICTOR command with ARG0 1 turns the predictor back on for the layers that have not tripped. -/
  | predictorOn (src : CmdSrc)
  /-- REARM (R238): The REARM command clears a tripped layer's window and re-enables its predictor at the next step boundary. -/
  | rearm (src : CmdSrc)
  /-- KV_IMPORT_HEADER (R360): An arriving key/value export header is checked against the admitted image and the whole stream refused on mismatch. -/
  | kvImportHeader (stream : StreamId)
  /-- KV_IMPORT_RECORD (R360): A page record arrives whole and is written into a new frame in IMPORT, then OPEN or SEALED once its CRC checks. -/
  | kvImportRecord (stream : StreamId)
  /-- RING_FLIT_RECEIVE (R392): A link flit arrives; a CRC failure is resent once and a lasting failure spares the lane or retires the direction. -/
  | ringFlitReceive (link : LinkDir) (lane : Fin 528) (ok again acked : Bool) (cycle : Nat)
  /-- LINK_RETRAIN_DONE (R392): A direction finishes its 5 µs retrain and resends every unacknowledged flit. -/
  | linkRetrainDone (link : LinkDir)
  /-- ALL_REDUCE (R373): An ALL_REDUCE collective is issued and, after its fence, sums chunks through the confluence adders and distributes the result. -/
  | allReduce (iss : Issue)
  /-- REDUCE_SCATTER (R373): A REDUCE_SCATTER collective is issued and sums each chunk to the die that owns it. -/
  | reduceScatter (iss : Issue)
  /-- ALL_GATHER (R373): An ALL_GATHER collective is issued and distributes each die's part to every die. -/
  | allGather (iss : Issue)
  /-- BROADCAST (R373): A BROADCAST collective is issued and sends ROOT's input to every die. -/
  | broadcast (iss : Issue)
  /-- FENCE_RECORD (R380): A FENCE collective is issued and opens a ring fence that moves no data. -/
  | fenceRecord (iss : Issue)
  /-- FENCE_ARRIVAL (R380): A die arrives at a fence when its input slots are full or its earlier courses completed, and sends its stamped arrival on VC 7. -/
  | fenceArrival (coll : Nat) (die : Die)
  /-- FENCE_MESSAGE (R380): A fence arrival or break mark from a die is received; with all four known the fence completes and deferred actions apply. -/
  | fenceMessage (coll : Nat) (die : Die)
  /-- COLLECTIVE_DONE (R385): A collective completes on a die, its output slots become full and its completion record is sent. -/
  | collectiveDone (coll : Nat) (die : Die)
  /-- MANAGEMENT_FENCE (R382): No fence has completed for 100 µs, or an action is due, and the ring engine runs a management fence. -/
  | managementFence
  /-- SKEW_WINDOW_CLOSE (R386): A 1 ms skew window closes and a frequency-limited slow die causes matched speed from the next fence. -/
  | skewWindowClose
  /-- TRAIN_STEP (R390): The TRAIN_STEP command runs adapter training steps with gradient reduction and optimizer update. -/
  | trainStep (src : CmdSrc) (ended : Bool)
  /-- ADMIT_PROMPT (R408): An ADMIT for a prompt is checked, allocates a stream ID in STAGING and reads the prompt from host memory. -/
  | admitPrompt (k : Nat) (desc : List Byte)
  /-- ADMIT_IMPORT (R408): An ADMIT for an import is checked and allocates a stream in STAGING that accepts page records on its channel. -/
  | admitImport (k : Nat) (desc : List Byte)
  /-- PROMPT_STAGED (R517): The prompt has been read into PROMPT_BUF, the stream becomes WAITING and the ADMIT response is issued. -/
  | promptStaged (stream : StreamId) (tokens : List Word)
  /-- ABORT (R425): The ABORT command ends a stream at once or at its next boundary, or answers ALREADY_COMPLETE after the commit point. -/
  | abort (src : CmdSrc)
  /-- PARK (R405): The PARK command parks a stream at its next step or sweep boundary. -/
  | park (src : CmdSrc)
  /-- RESUME (R420): The RESUME command clears a HOST or FAULT park cause and returns the stream to WAITING when no automatic cause holds. -/
  | resume (src : CmdSrc)
  /-- EXPORT (R421): The EXPORT command sends a parked or cached stream's pages on its Flume channel. -/
  | exportStream (src : CmdSrc)
  /-- QUERY (R405): The QUERY command writes the stream context, without SEED, to host memory. -/
  | query (src : CmdSrc)
  /-- LIST (R518): The LIST command writes the holding's stream handles in ascending ID for the selected states. -/
  | list (src : CmdSrc)
  /-- STEP_BOUNDARY (R412): A micro-batch's last layer produces its tokens; aborts, deliveries, ends, parks and due actions run, frames are reserved, slots filled and the next step issued. -/
  | stepBoundary (m : MBatch)
  /-- SWEEP_BOUNDARY (R415): A prompt sweep ends and the next is fixed with up to SWEEP_MAX tokens; finished prompts move on. -/
  | sweepBoundary
  /-- DONE_HOLD_EXPIRE (R404): DONE_HOLD elapses and the stream ID returns to FREE. -/
  | doneHoldExpire (stream : StreamId)
  /-- ATTRIBUTION_EPOCH (R438): A 1 ms epoch ends and measured energy is attributed to streams and overheads; records of terminal events complete. -/
  | attributionEpoch (ein : Nat) (ed volts : List Nat)
  /-- PAGE_CLOSE_TIME (R446): 250 ms after the page opened it closes with its overhead records. -/
  | pageCloseTime
  /-- PAGE_SIGN (R449): The signer takes the next closed page, reserves a durable index and signs with ECDSA and HSS, checked by the other unit. -/
  | pageSign (unit : Fin 2) (bad : Fin 3) (cycle : Nat) (writes : List (Bool × Bool))
  /-- PAGE_SIGNED (R456): A signed page is released and its records delivered to each holding's ledger ring and queue. -/
  | pageSigned
  /-- LMS_TREE_BUILT (R450): The next bottom-level LMS tree finishes building in the background. -/
  | lmsTreeBuilt
  /-- JUNCTION_READ (R482): Every 10 µs the junction sensors are read and thermal limits applied to field dies, HBM stacks and the Headgate. -/
  | junctionRead (die : Die) (hot h0 h1 h2 head : Nat)
  /-- THERMAL_RECOVERY_STEP (R482): Each 1 ms below the release temperature a throttled die rises 25 MHz toward its permitted frequency. -/
  | thermalRecoveryStep (die : Die)
  /-- THERMAL_STILL_TIMEOUT (R483): A die's acres have stayed in Still for 10 ms and the event is logged as outside R3. -/
  | thermalStillTimeout (die : Die)
  /-- POWER_10US_MEAN (R475): A 10 µs input power mean completes and drives the excursion timer and the emergency limit. -/
  | power10usMean (watts : Nat)
  /-- CAP_UNREACHABLE (R479): The lowest settings leave the 1 ms mean above the cap for 10 ms and UNREACH is set. -/
  | capUnreachable
  /-- DROOP_DETECT (R486): An acre's supply falls 40 mV below set point and its clock is stretched until recovery. -/
  | droopDetect (die : Die) (mv ns : Nat)
  /-- DROOP_HOLD_END (R487): The 1 ms droop hold ends and the die rises at the next fence. -/
  | droopHoldEnd (die : Die)
  /-- REGULATOR_ALERT (R488): A regulator alert line asserts and the module enters Trickle within 2 µs. -/
  | regulatorAlert (rail : Rail)
  /-- REGULATOR_ALERT_CLEAR (R489): The alert clears and Trickle is held for 1 ms more. -/
  | regulatorAlertClear (rail : Rail)
  /-- TRICKLE_HOLD_END (R489): The 1 ms hold ends and at the next fence every die rises and conversion resumes. -/
  | trickleHoldEnd
  /-- PHASE_DISABLE (R489): The alert is still asserted 2 ms after entry and the failing phase is disabled, setting the phase-loss limit. -/
  | phaseDisable (rail : Rail) (phase : Nat)
  /-- RAIL_OFF (R489): The alert is still asserted 8 ms after entry and the alerting rail is turned off, its units leaving service. -/
  | railOff (rail : Rail)
  /-- AGEING_MONITOR (R471): Once per second replica paths measure margin, raising the ageing guard or lowering the life fmax. -/
  | ageingMonitor (die : Die) (acre : PAcre)
  /-- ACRE_STILL (R490): An idle acre reaches STILL_DELAY and its clocks stop. -/
  | acreStill (die : Die) (acre : PAcre)
  /-- ACRE_DRY (R490): An acre in Still reaches DRY_DELAY and enters Dry, keeping only retained banks. -/
  | acreDry (die : Die) (acre : PAcre)
  /-- ACRE_WAKE (R492): A course, DMA, chain write or pre-wake targets an acre not in Flow and its WAKE_TABLE sequence starts. -/
  | acreWake (die : Die) (acre : PAcre)
  /-- ACRE_WAKE_DONE (R494): An acre's wake sequence ends and it is in Flow; held issues proceed. -/
  | acreWakeDone (die : Die) (acre : PAcre)
  /-- IDLE_ENTRY (R496): No work has been present for IDLE_DELAY and the module enters Idle. -/
  | idleEntry
  /-- DEEP_ENTRY (R496): A pending Deep request meets Idle and the module powers down to Deep. -/
  | deepEntry
  /-- DEEP_WAKE_DONE (R494): The Deep to Idle sequence of WAKE_TABLE entry 8 completes. -/
  | deepWakeDone
  /-- COOLANT_OUT_OF_SPEC (R484): Coolant readings show an inlet above 45 °C or flow below 2.5 L/min and the module runs as under removal of coolant. -/
  | coolantOutOfSpec
  /-- POWER_SHARE (R480): The POWER_SHARE command lowers the holding's own effective power share. -/
  | powerShare (src : CmdSrc)
  /-- PORT_RESET (R506): PERST_N, hot reset, link-down or function level reset of a host port resets that holding's view and disables its queues. -/
  | portReset (h : Holding)
  /-- SQ_DOORBELL (R509): A write of SQ_TAIL makes the module read new submission entries in order. -/
  | sqDoorbell (h : Holding) (qp : QPair) (data : Word)
  /-- SUBMISSION_ENTRY (R514): A submission entry arrives and is checked by the Headgate before it passes to the stream pipeline. -/
  | submissionEntry (h : Holding) (qp : QPair) (entry : List Byte)
  /-- CQ_DOORBELL (R511): A write of CQ_HEAD frees completion entries so waiting responses and tokens can be written. -/
  | cqDoorbell (h : Holding) (qp : QPair) (data : Word)
  /-- LEDGER_DOORBELL (R522): A write of LEDGER_HEAD frees ledger queue units so further ledger elements can be delivered. -/
  | ledgerDoorbell (h : Holding) (data : Word)
  /-- COALESCE_TIMEOUT (R512): COAL_T passes since the first unsignalled completion and the pair's vector is signalled. -/
  | coalesceTimeout (h : Holding) (qp : QPair)
  /-- QUEUE_ENABLE (R508): A write of HQ_QCFG.EN = 1 with a valid depth enables a queue pair. -/
  | queueEnable (p : Path) (h : Holding) (data : Word)
  /-- QUEUE_DISABLE (R508): A write of HQ_QCFG.EN = 0 requests disable of a queue pair once its reads in flight end. -/
  | queueDisable (p : Path) (h : Holding) (data : Word)
  /-- QUEUE_DISABLE_DONE (R508): The pair's reads in flight end and the queue pair becomes disabled. -/
  | queueDisableDone (h : Holding) (qp : QPair)
  /-- HOST_READ_TIMEOUT (R520): A module read of host memory times out and the command needing it is refused with HOST_READ_FAILED. -/
  | hostReadTimeout (r : HostRead)
  /-- ADAPTER_LOAD (R518): The ADAPTER_LOAD command loads adapter weights arriving on a channel into HBM. -/
  | adapterLoad (src : CmdSrc)
  /-- ADAPTER_RELEASE (R518): The ADAPTER_RELEASE command stops later ADMITs naming the adapter. -/
  | adapterRelease (src : CmdSrc)
  /-- TELEMETRY (R531): The TELEMETRY command writes the holding's telemetry report to host memory. -/
  | telemetry (src : CmdSrc)
  /-- CHANNEL_OPEN (R524): The CHANNEL_OPEN command binds a Flume channel to a target and sends OPEN with its key. -/
  | channelOpen (k : Nat) (req : List Byte)
  /-- CHANNEL_CLOSE (R526): The CHANNEL_CLOSE command sends CLOSE once every burst in flight is acknowledged or abandoned. -/
  | channelClose (src : CmdSrc)
  /-- FLUME_WRITE (R525): A WRITE datagram is CRC-checked and its burst placed by address and handed to the target in address order. -/
  | flumeWrite (port : FPort) (ip : Nat) (dgram : List Byte)
  /-- FLUME_READ_REQ (R525): A READ_REQ on a REGION channel is answered with READ_DATA bursts. -/
  | flumeReadReq (port : FPort) (ip : Nat) (dgram : List Byte)
  /-- FLUME_READ_DATA (R525): A READ_DATA datagram is received and placed by address. -/
  | flumeReadData (port : FPort) (ip : Nat) (dgram : List Byte)
  /-- FLUME_ACK (R526): An ACK updates acknowledged bursts and credit, frees exported pages and triggers fast retransmission. -/
  | flumeAck (port : FPort) (ip : Nat) (dgram : List Byte)
  /-- FLUME_NAK (R527): A NAK names a failed record's range and its bursts are sent again. -/
  | flumeNak (port : FPort) (ip : Nat) (dgram : List Byte)
  /-- FLUME_OPEN (R524): An OPEN datagram is key-checked and answered with OPEN_ACK or CLOSE. -/
  | flumeOpen (port : FPort) (ip : Nat) (dgram : List Byte)
  /-- FLUME_OPEN_ACK (R524): An OPEN_ACK returns the channel generation and completes the opener's command. -/
  | flumeOpenAck (port : FPort) (ip : Nat) (dgram : List Byte)
  /-- FLUME_CLOSE (R526): A CLOSE datagram closes the channel or refuses the opener on key mismatch. -/
  | flumeClose (port : FPort) (ip : Nat) (dgram : List Byte)
  /-- ACK_TIMER (R526): 10 µs pass and the receiver sends an ACK with next SEQ, bitmap and CREDIT. -/
  | ackTimer (chan : Nat)
  /-- RETRANSMIT_TIMEOUT (R526): A burst's retransmit time expires and it is sent again, or the transfer is abandoned after 8 sends. -/
  | retransmitTimeout (chan seq : Nat)
  /-- CHANNEL_ACK_TIMEOUT (R526): A channel receives no ACK for 1 s and its transfer is abandoned. -/
  | channelAckTimeout (chan : Nat)
  /-- FLUME_LINK_DOWN (R528): A Flume port's link goes down and its channels continue on the other port or are abandoned. -/
  | flumeLinkDown (port : FPort)
  /-- MCTP_CONTROL (R529): An MCTP control message performs endpoint discovery or EID assignment. -/
  | mctpControl (msg : MctpMsg)
  /-- PLDM_SENSOR_READ (R529): A PLDM Type 2 request returns module sensor readings. -/
  | pldmSensorRead (sensor : Sensor)
  /-- PLDM_FIRMWARE_STAGE (R560): PLDM firmware update stages a manifest and components into the uncommitted slot and checks them. -/
  | pldmFirmwareStage (slot : List Byte)
  /-- ACTIVATE_FIRMWARE (R561): A firmware activation request resets the standby pair to boot the staged slot as trial. -/
  | activateFirmware
  /-- STANDBY_BOOT_DONE (R561): The standby pair has booted the trial slot and management state copying starts. -/
  | standbyBootDone
  /-- HEALTH_WINDOW_EXPIRE (R563): The health window closes without fault and the update commits, raising floors and blowing revoke fuses. -/
  | healthWindowExpire
  /-- GET_VERSION (R549): An SPDM GET_VERSION request is answered. -/
  | getVersion (conn : SpdmPort) (msg : List Byte)
  /-- GET_CAPABILITIES (R549): An SPDM GET_CAPABILITIES request is answered. -/
  | getCapabilities (conn : SpdmPort) (msg : List Byte)
  /-- NEGOTIATE_ALGORITHMS (R549): An SPDM NEGOTIATE_ALGORITHMS request selects P-384, SHA-384, secp384r1 and AES-256-GCM. -/
  | negotiateAlgorithms (conn : SpdmPort) (msg : List Byte)
  /-- GET_DIGESTS (R549): An SPDM GET_DIGESTS request returns certificate chain digests. -/
  | getDigests (conn : SpdmPort) (msg : List Byte)
  /-- GET_CERTIFICATE (R549): An SPDM GET_CERTIFICATE request returns the chain of slot 0 or 1. -/
  | getCertificate (conn : SpdmPort) (msg : List Byte) (slot : Fin 8)
  /-- CHALLENGE (R549): An SPDM CHALLENGE is answered with an ALIAS-signed CHALLENGE_AUTH. -/
  | challenge (conn : SpdmPort) (msg : List Byte)
  /-- GET_MEASUREMENTS (R551): An SPDM GET_MEASUREMENTS request returns the requester's visible measurements, optionally signed. -/
  | getMeasurements (conn : SpdmPort) (msg : List Byte) (index : Option (BitVec 8)) (signed : Bool)
  /-- KEY_EXCHANGE (R549): An SPDM KEY_EXCHANGE request starts a secure session. -/
  | keyExchange (conn : SpdmPort) (msg : List Byte)
  /-- FINISH (R549): An SPDM FINISH request completes session establishment. -/
  | finish (conn : SpdmPort) (msg : List Byte)
  /-- KEY_UPDATE (R549): An SPDM KEY_UPDATE request updates the session keys. -/
  | keyUpdate (conn : SpdmPort) (msg : List Byte)
  /-- HEARTBEAT (R549): An SPDM HEARTBEAT request keeps a session alive. -/
  | heartbeat (conn : SpdmPort) (msg : List Byte)
  /-- END_SESSION (R549): An SPDM END_SESSION request ends a session. -/
  | endSession (conn : SpdmPort) (msg : List Byte)
  /-- HSS_CHAIN (R550): The vendor HSS_CHAIN request returns the HSS certificates of slots 0 and 1. -/
  | hssChain (conn : SpdmPort) (msg : List Byte)
  /-- HSS_SIGN (R550): The vendor HSS_SIGN request returns the ALIAS_HSS signature over the latest signed response, or UnexpectedRequest. -/
  | hssSign (conn : SpdmPort) (msg : List Byte) (writes : List (Bool × Bool))
  /-- ALIAS_TREE_BUILT (R541): The ALIAS_HSS top tree rebuild completes and SPDM signatures are served. -/
  | aliasTreeBuilt
  /-- GET_NONCE (R556): The GET_NONCE message returns a fresh nonce valid for one token, voiding the previous one. -/
  | getNonce
  /-- NONCE_EXPIRE (R556): A nonce is void 60 s after issue. -/
  | nonceExpire
  /-- FREEZE_TOKEN (R557): A freeze token is checked and, when accepted, freezes the module by command. -/
  | freezeToken (token : List Byte)
  /-- DEBUG_READOUT_TOKEN (R559): A debug readout token is checked and, while frozen, opens the readout instructions until thaw. -/
  | debugReadoutToken (token : List Byte)
  /-- FULL_DEBUG_TOKEN (R557): A full debug token is checked and opens every TAP instruction where the Charter permits. -/
  | fullDebugToken (token : List Byte)
  /-- OWNER_CHANGE_TOKEN (R557): An owner change token fuses the next owner slot and logs OWNER_CHANGED. -/
  | ownerChangeToken (token : List Byte)
  /-- CHARTER_RESTRICTION_TOKEN (R557): A Charter restriction token blows the DEBUG, FREEZE, HOLDINGS or IDE_REQ fuses it names. -/
  | charterRestrictionToken (token : List Byte)
  /-- ENTER_RETURN_TOKEN (R557): An enter RETURN token releases every image and blows LIFECYCLE once the last plot has verified. -/
  | enterReturnToken (token : List Byte)
  /-- FREEZE_RELEASE_COMMAND (R593): A management command releases a command-held freeze, thawing when the pin also releases. -/
  | freezeReleaseCommand
  /-- MODULE_RESET (R643): The MODULE_RESET message aborts every stream, closes and signs the ledger page and resets the field dies and stream engine. -/
  | moduleReset
  /-- MODULE_IMAGE_OPEN (R175): A management message opens a module-owned image for staging through the management port. -/
  | moduleImageOpen (mib size : Nat)
  /-- MODULE_IMAGE_ACTIVATE (R177): The board management controller activates a module-owned image through the management port. -/
  | moduleImageActivate (image : Nat)
  /-- HOLDING_MASK_WRITE (R43): The board management controller sets the holding mask of a module-owned image, effective for later ADMIT checks. -/
  | holdingMaskWrite (image : Nat) (mask : BitVec 4)
  /-- MODULE_CHANNEL_OPEN (R524): The board management controller opens a module-owned Flume channel through the management port. -/
  | moduleChannelOpen (req : List Byte)
  /-- SIGNATURE_BLOCK_READ (R457): The board management controller reads a page's signature block from a ledger ring on request. -/
  | signatureBlockRead (seq : Nat)
  /-- EVENT_LOG_READ (R587): The board management controller reads event log entries through the management port. -/
  | eventLogRead (seq n : Nat)
  /-- LATERAL_PARITY_ERROR (R571): A Lateral parity error reissues the operation, and a lasting error replaces the acre. -/
  | lateralParityError (die : Die) (acre : PAcre) (again : Bool) (cycle : Nat)
  /-- ACC_PARITY_ERROR (R571): An accumulator parity error reruns the fill from its preload, and a lasting error replaces the acre. -/
  | accParityError (die : Die) (acre : PAcre) (acc : Fin 2) (again : Bool) (cycle : Nat)
  /-- SEQUENCER_PARITY_ERROR (R571): A course sequencer parity error repeats the running course from its start. -/
  | sequencerParityError (die : Die) (acre : PAcre) (cycle : Nat)
  /-- SEQUENCER_WATCHDOG (R571): The 2^24-cycle sequencer watchdog expires and the running course is repeated from its start. -/
  | sequencerWatchdog (die : Die) (acre : PAcre) (cycle : Nat)
  /-- ACRE_COPY_DONE (R574): The copy of banks, gate table, task pairs and CB banks to the spare ends, the logical acre is remapped and the old acre leaves service. -/
  | acreCopyDone (die : Die) (acre : PAcre)
  /-- ACRE_SWAP (R575): A planned swap's running course completes and copying to the woken spare begins. -/
  | acreSwap (die : Die) (acre : PAcre)
  /-- ACRE_BIST_ROTATION (R576): ACRE_BIST_H powered hours pass and an in-service acre is swapped out for self-test. -/
  | acreBistRotation (die : Die) (acre : PAcre)
  /-- ACRE_SELF_TEST_DONE (R576): An acre self-test ends and the acre becomes a spare, is repaired or is retired. -/
  | acreSelfTestDone (die : Die) (acre : PAcre) (res : TestRes)
  /-- LOCKSTEP_MISMATCH (R580): A management core pair mismatches, its outputs block and the standby pair resumes from the checkpoint. -/
  | lockstepMismatch (pair : Fin 2)
  /-- MGMT_CHECKPOINT (R580): Every 1 ms the active pair writes a checkpoint of management state. -/
  | mgmtCheckpoint
  /-- CORE_PAIR_SELF_TEST_DONE (R580): The old core pair's logic self-test ends, making it standby or retiring it. -/
  | corePairSelfTestDone (ok : Bool)
  /-- HBM_READ (R581): An HBM read is decoded, corrected and written back, or repeated and poisoned when uncorrectable. -/
  | hbmRead (addr : PAddr) (err : ReadErr) (reader : Option Executor)
  /-- HBM_PAGE_MIGRATE_DONE (R582): The page copy ends, the page is remapped and held accesses resume. -/
  | hbmPageMigrateDone (page : Nat) (poisoned : List PAddr)
  /-- HBM_PATROL_SCRUB (R586): The HBM patrol scrubber reads the next codeword of a stack and corrects it. -/
  | hbmPatrolScrub (stack : Stack) (addr : PAddr) (err : ReadErr)
  /-- SRAM_SCRUB (R586): The stream cache and Headgate SRAM scrubber corrects the next location. -/
  | sramScrub (cache : Bool) (loc : Nat) (err : ReadErr) (stuck : Bool)
  /-- METER_CHECK (R590): A second of residuals all outside 0% to 12% logs METER_DISAGREE. -/
  | meterCheck
  /-- IMBALANCE_WINDOW (R592): A 1 s channel window closes and a busiest channel above 4 times the mean logs HASH_IMBALANCE. -/
  | imbalanceWindow (die : Die) (chan : Fin 96) (busiest total region : Nat)
  /-- FREEZE_CAPTURE (R594): A capture edge of FREEZE_N or a command stops every clock except the freeze island within 40 ns. -/
  | freezeCapture (pin : Bool)
  /-- HBM_FREEZE_STOP (R594): The HBM controllers have put every stack in self-refresh and stop. -/
  | hbmFreezeStop
  /-- TAP_READOUT (R595): A TAP or management readout while frozen reads state without changing it. -/
  | tapReadout (what : Readout)
  /-- THAW (R596): The release edge restarts the HBM controllers, which exit self-refresh and retrain. -/
  | thaw
  /-- THAW_CLOCK_START (R596): Every other clock starts at one reference edge, the module counter resumes and MODULE_FROZEN is logged. -/
  | thawClockStart
  /-- COLD_POWER_ON (R636): The input has been at or above 45 V for 10 ms and cold start-up begins. -/
  | coldPowerOn (pins : Fin 8) (ref : Bool) (inlet flow : Nat)
  /-- RAIL_GOOD (R630): The rails of a sequence step have held 90% of set point for 100 µs and the next step starts. -/
  | railGood (step : Fin 7)
  /-- RAIL_TIMEOUT (R630): A rail does not regulate within 5 ms and the sequence stops. -/
  | railTimeout (rail : Rail)
  /-- COOLANT_RESUME (R638): Cooling returns to specification and held start-up resumes. -/
  | coolantResume
  /-- INPUT_POWER_LOSS (R631): The input has been below 42 V for 1 ms and the module powers down. -/
  | inputPowerLoss
  /-- INPUT_UNDERVOLTAGE (R626): The input has been below 46 V for 50 µs and the undervoltage alert drives Trickle. -/
  | inputUndervoltage
  /-- INPUT_UNDERVOLTAGE_CLEAR (R626): The input has been at or above 46.5 V for 1 ms and the undervoltage alert clears. -/
  | inputUndervoltageClear
  /-- INPUT_HIGH (R625): The input rises into 56 V to 57 V and INPUT_HIGH is logged once. -/
  | inputHigh
  /-- INPUT_OVERVOLTAGE (R625): The input rises above 57 V and the hot-swap controller opens. -/
  | inputOvervoltage
  /-- OVERVOLTAGE_RESTART (R625): The input has been at or below 56 V for 1 s after an overvoltage and a cold power-on starts. -/
  | overvoltageRestart (pins : Fin 8) (ref : Bool) (inlet flow : Nat)
  /-- BLADE_FUSE_OPEN (R628): A blade pair's fuse opens and the phase-loss limit of the module becomes 2,300 W. -/
  | bladeFuseOpen (pair : Fin 2)
  /-- REFCLK_LOST (R634): REFCLK25 is absent or outside ±200 ppm and the island switches to its internal oscillator. -/
  | refclkLost
  /-- REFCLK_RETURN (R634): The reference has been within ±50 ppm for 10 ms and the module returns to it. -/
  | refclkReturn
  /-- FLUME_LINK_UP (R528): A Flume port's link comes up, FLM_STAT.LINK changes and channels allowed on that port may use it again. -/
  | flumeLinkUp (port : FPort)
  /-- HOST_PORT_LINK_UP (R506): A host port finishes link training and reaches L0, so its configuration space and BARs are reachable again. -/
  | hostPortLinkUp (h : Holding)
  /-- COOLANT_READING (R485): The coupling sensors are read and the coolant derate is set from the inlet temperature, changing the effective cap. -/
  | coolantReading (inlet flow : Nat)
  /-- FIRMWARE_WATCHDOG_EXPIRY (R563): A watchdog of new firmware expires within the health window and the update reverts. -/
  | firmwareWatchdogExpiry
  /-- IDE_KEY_MANAGEMENT (R554): An IDE key management message on a host port's DOE mailbox programs or switches the keys of an IDE selective stream. -/
  | ideKeyManagement (h : Holding) (stream : Fin 2) (msg : IdeMsg)
  /-- CONFIG_REQUEST (R637): A PCIe configuration request to a host port is answered with Request Retry Status before 119.7 ms, and served afterwards. -/
  | configRequest (h : Holding)
  /-- REGISTER_READ (R22): A read of a register the path does not own, or of a reserved or unmapped offset, returns zero and is counted in ERR_CNT and ERR_FIRST/ERR_LAST, setting the ERR interrupt. -/
  | registerRead (p : Path) (addr : PAddr)
  /-- SHUTDOWN_REQUEST (R446): A shutdown requested through the management port closes the open ledger page with CAUSE 0x2. -/
  | shutdownRequest
  deriving DecidableEq, Repr

end Sys2Proof
end

