-- ==== Sys2Proof/Decode.lean ====
section
/-!
DEFINITION. The commands that words spell: none, since no row of spec/opcode_table.json gives a command any bits. Commands reach
the module as accesses, entries, datagrams, messages and events, and their operands are those of Syntax.lean.
-/

namespace Sys2Proof

/-- The command that a word of the opcode table spells: no row gives bits (log entry 1). -/
def decodeTableWord (_nbits _w : Nat) : Option Instr := none

end Sys2Proof
end

