-- ==== Sys2Proof/Config.lean ====
section
/-!
DEFINITION. What an implementation fixes and the spec leaves open: the free values of the model.
Every constant here is opaque: no proof can see its value, and a claim holds whatever it is.
Each is named in a row of notes/assumptions.
-/

namespace Sys2Proof.Config

/-- Functions of the Lateral engine whose result R119 bounds to a few ULP and does not fix (log entry 10). -/
opaque exp2 : Word → Word
/-- See `exp2`. -/
opaque log2 : Word → Word
/-- See `exp2`. -/
opaque rcp : Word → Word
/-- See `exp2`. -/
opaque rsqrt : Word → Word
/-- See `exp2`. -/
opaque sqrt : Word → Word
/-- See `exp2`. -/
opaque tanh : Word → Word
/-- See `exp2`. -/
opaque sigmoid : Word → Word
/-- See `exp2`. -/
opaque silu : Word → Word
/-- See `exp2`. -/
opaque gelu : Word → Word

/-- The converter code of a weir group, half or reference conversion (R145, R147, R158): the analogue
result, fresh for each conversion (first argument) and dependent on the exact column sum and range
exponent (log entry 11). -/
opaque conversion : Nat → Int → Nat → BitVec 8

/-- Which lines of an access of n lines to a cached region miss its home reservoir (R284, R329, log entry 27): the
contents of the cache follow from a hash that the spec does not give. -/
opaque rsvMisses : Nat → Nat → Nat

/-- The severity of a log entry where no rule gives it (R587, log entry 12): by status code and event number. -/
opaque severity : Nat → Nat → BitVec 2

/-- A fresh byte string of a length: nonces, keys, salts (R556, R541; log entry 13). -/
opaque freshBytes : Nat → Nat → List (BitVec 8)

/-- An ECDSA P-384 signature of a message (log entry 13): key, message, fresh. -/
opaque ecdsaSign : Nat → List (BitVec 8) → Nat → List (BitVec 8)
/-- Does an ECDSA P-384 signature verify (log entry 13): public key, message, signature? -/
opaque ecdsaVerify : List (BitVec 8) → List (BitVec 8) → List (BitVec 8) → Bool
/-- An LMS/HSS signature: key, index q, message, fresh (log entry 13). -/
opaque hssSign : Nat → Nat → List (BitVec 8) → Nat → List (BitVec 8)
/-- Does an HSS signature verify under the parameters of R535 (log entry 13): public key, message, signature? -/
opaque hssVerify : List (BitVec 8) → List (BitVec 8) → List (BitVec 8) → Bool
/-- A public key of the module (log entry 13): key, lifecycle. -/
opaque publicKey : Nat → Nat → List (BitVec 8)
/-- Key hashes that the factory fused (R536, log entry 60): vendor keys 0 to 3, then owner slot 0 (4); ECDSA, then HSS. -/
opaque fusedKeys : Nat → List (BitVec 8) × List (BitVec 8)
/-- The contents of a firmware slot that no command has staged (log entry 60): slot. -/
opaque factorySlot : Nat → List (BitVec 8)
/-- The boot ROM's measurement (R551, log entry 60). -/
opaque romDigest : List (BitVec 8)
/-- A certificate or certificate chain (R540, R550; log entry 13): which one, and for which layer. -/
opaque certificate : Nat → Nat → List (BitVec 8)
/-- The body of an SPDM reply whose bytes the DMTF documents give and the spec does not (R549; log entry 13). -/
opaque spdmBody : Nat → List (BitVec 8) → Nat → List (BitVec 8)

/-- The point that the firmware's power model predicts for an effective cap (R476, log entry 14), as a number of steps
down the order of R477: cap in W, fresh. -/
opaque predictedPoint : Nat → Nat → Nat
/-- The size of a Cistern step of the cap loop beyond 1 W (R477, log entry 14): fresh. -/
opaque cistStep : Nat → Nat
/-- The phase-loss limit of the module in W of input power (R474, R489, log entry 14): rail, phases lost. -/
opaque phaseCap : Nat → Nat → Nat
/-- The frequency in MHz to which a die's phase-loss limit binds it (R489, log entry 14): rail, phases lost. -/
opaque phaseFreq : Nat → Nat → Nat

/-- The coefficient of an activity class in 0.1 pJ (R435, log entry 50): coefficient set, class. -/
opaque coefficient : Nat → Nat → Nat
/-- The reference voltage of a metering domain in mV (R435, log entry 50). -/
opaque vref : Nat → Nat

/-- A value that the spec leaves open and that is taken fresh at each use (first argument). -/
opaque freeWord : Nat → Word

end Sys2Proof.Config
end

