-- ==== Sys2Proof/Machine/RegTable.lean ====
section
/-!
DEFINITION. The register fields of every block, written from the field tables of the spec's chapters
(offset within the slot, low bit, width, access code of R20, sticky mark of R21, reset value).
Rules: R89, R131, R288, R337, R362, R397, R429, R464, R495, R501, R530, R566, R599, R611 and the chapters' register tables.
A reset that names the fuse map is the value "without factory repair" (log entry 5);
a reset that names a window of another field of the state is 0 here and the window supplies the value.
-/

namespace Sys2Proof.Machine

/-- Access codes of R20. -/
inductive Access | rw | ro | w1c | w1s | rc | wo | rsv
  deriving DecidableEq, Repr

/-- One field of a register table. -/
structure Fld where
  off : Nat
  lo  : Nat
  w   : Nat
  acc : Access
  st  : Bool
  rst : Nat
  deriving DecidableEq, Repr

/-- Kinds of register block (the tags of R615 and R616). -/
inductive BlkTag
  | mod | cht | fwu | rly | drd | tly | str | itk | flm | hq
  | fdc | cst | sph | scr | tns | rsv | kvc | rng | dpw
  | frw | acr | crs | spd
  deriving DecidableEq, Repr

end Sys2Proof.Machine

namespace Sys2Proof.Machine.F

/-- FRW_RETIRED_LO.RET_LO (R89). -/
def frwRetiredLoRetLo : Fld := ⟨0x140, 0, 32, .ro, true, 0x0⟩
/-- FRW_RETIRED_HI.RET_HI (R89). -/
def frwRetiredHiRetHi : Fld := ⟨0x144, 0, 32, .ro, true, 0x0⟩
/-- FRW_SPARE.RET_SP (R89). -/
def frwSpareRetSp : Fld := ⟨0x148, 0, 2, .ro, true, 0x0⟩
/-- FRW_SPARE.SPARES_LEFT (R89). -/
def frwSpareSparesLeft : Fld := ⟨0x148, 8, 2, .ro, true, 0x2⟩
/-- FRW_EVT.TRANSIENTS (R89). -/
def frwEvtTransients : Fld := ⟨0x150, 0, 16, .ro, true, 0x0⟩
/-- FRW_EVT.LASTING (R89). -/
def frwEvtLasting : Fld := ⟨0x150, 16, 8, .ro, true, 0x0⟩
/-- FRW_LASTEVT.STATUS (R89). -/
def frwLastevtStatus : Fld := ⟨0x154, 0, 32, .ro, true, 0x0⟩
/-- FRW_PROBE.LMACRO (R89). -/
def frwProbeLmacro : Fld := ⟨0x158, 0, 6, .rw, false, 0x0⟩
/-- FRW_PROBE_STAT.SET_A (R89). -/
def frwProbeStatSetA : Fld := ⟨0x15c, 0, 2, .ro, false, 0x0⟩
/-- FRW_PROBE_STAT.SET_B (R89). -/
def frwProbeStatSetB : Fld := ⟨0x15c, 2, 2, .ro, false, 0x0⟩
/-- FRW_PROBE_STAT.CSET (R89). -/
def frwProbeStatCset : Fld := ⟨0x15c, 4, 1, .ro, false, 0x0⟩
/-- FRW_PROBE_STAT.FMT_A (R89). -/
def frwProbeStatFmtA : Fld := ⟨0x15c, 5, 1, .ro, false, 0x0⟩
/-- FRW_PROBE_STAT.FMT_B (R89). -/
def frwProbeStatFmtB : Fld := ⟨0x15c, 6, 1, .ro, false, 0x0⟩
/-- FRW_PROBE_STAT.ROWS (R89). -/
def frwProbeStatRows : Fld := ⟨0x15c, 8, 7, .ro, false, 0x0⟩
/-- FRW_PROBE_STAT.PHYS (R89). -/
def frwProbeStatPhys : Fld := ⟨0x15c, 16, 7, .ro, false, 0x0⟩
/-- FRW_PASS_LO.PASS_LO (R89). -/
def frwPassLoPassLo : Fld := ⟨0x160, 0, 32, .ro, true, 0x0⟩
/-- FRW_PASS_HI.PASS_HI (R89). -/
def frwPassHiPassHi : Fld := ⟨0x164, 0, 32, .ro, true, 0x0⟩
/-- FRW_SPTEST.INTERVAL_LOG2 (R89). -/
def frwSptestIntervalLog2 : Fld := ⟨0x170, 0, 6, .rw, false, 0x1e⟩
/-- FRW_SPTEST.RUN (R89). -/
def frwSptestRun : Fld := ⟨0x170, 8, 1, .wo, false, 0x0⟩
/-- FRW_SPTEST.FAIL (R89). -/
def frwSptestFail : Fld := ⟨0x170, 16, 2, .ro, true, 0x0⟩
/-- FRW_SPTEST.BUSY (R89). -/
def frwSptestBusy : Fld := ⟨0x170, 24, 2, .ro, false, 0x0⟩
/-- ACR_ACCSTAT.ACC0_STATE (R131). -/
def acrAccstatAcc0State : Fld := ⟨0x100, 0, 3, .ro, false, 0x0⟩
/-- ACR_ACCSTAT.ACC0_EXP (R131). -/
def acrAccstatAcc0Exp : Fld := ⟨0x100, 4, 2, .ro, false, 0x0⟩
/-- ACR_ACCSTAT.ACC1_STATE (R131). -/
def acrAccstatAcc1State : Fld := ⟨0x100, 8, 3, .ro, false, 0x0⟩
/-- ACR_ACCSTAT.ACC1_EXP (R131). -/
def acrAccstatAcc1Exp : Fld := ⟨0x100, 12, 2, .ro, false, 0x0⟩
/-- ACR_SPILL.REPEAT1 (R131). -/
def acrSpillRepeat1 : Fld := ⟨0x104, 0, 16, .ro, true, 0x0⟩
/-- ACR_SPILL.REPEAT2 (R131). -/
def acrSpillRepeat2 : Fld := ⟨0x104, 16, 12, .ro, true, 0x0⟩
/-- ACR_SPILL.FAULTS (R131). -/
def acrSpillFaults : Fld := ⟨0x104, 28, 4, .ro, true, 0x0⟩
/-- ACR_STALL_LO.STALL_LO (R131). -/
def acrStallLoStallLo : Fld := ⟨0x108, 0, 32, .ro, true, 0x0⟩
/-- ACR_STALL_HI.STALL_HI (R131). -/
def acrStallHiStallHi : Fld := ⟨0x10c, 0, 32, .ro, true, 0x0⟩
/-- ACR_ATOMIC.SAT (R131). -/
def acrAtomicSat : Fld := ⟨0x110, 0, 16, .ro, true, 0x0⟩
/-- ACR_ROUTE.MAX_LOAD (R131). -/
def acrRouteMaxLoad : Fld := ⟨0x114, 0, 9, .ro, false, 0x0⟩
/-- ACR_ROUTE.MAX_EXPERT (R131). -/
def acrRouteMaxExpert : Fld := ⟨0x114, 16, 8, .ro, false, 0x0⟩
/-- ACR_ROUTE.K (R131). -/
def acrRouteK : Fld := ⟨0x114, 24, 4, .ro, false, 0x0⟩
/-- ACR_LASTEVT.STATUS (R131). -/
def acrLastevtStatus : Fld := ⟨0x118, 0, 32, .ro, true, 0x0⟩
/-- CST_CFG.TRIM_DT (R168). -/
def cstCfgTrimDt : Fld := ⟨0x100, 0, 4, .rw, false, 0x8⟩
/-- CST_CFG.REF_EVERY_LOG2 (R168). -/
def cstCfgRefEveryLog2 : Fld := ⟨0x100, 4, 4, .rw, false, 0x8⟩
/-- CST_CFG.CLIP_WIN_LOG2 (R168). -/
def cstCfgClipWinLog2 : Fld := ⟨0x100, 8, 5, .ro, false, 0x14⟩
/-- CST_CFG.CLIP_LIMIT (R168). -/
def cstCfgClipLimit : Fld := ⟨0x100, 16, 10, .ro, false, 0x100⟩
/-- CST_BSEL.BASIN (R168). -/
def cstBselBasin : Fld := ⟨0x104, 0, 8, .rw, false, 0x0⟩
/-- CST_BSEL.PLOT (R168). -/
def cstBselPlot : Fld := ⟨0x104, 8, 7, .rw, false, 0x0⟩
/-- CST_BSEL.DIE (R168). -/
def cstBselDie : Fld := ⟨0x104, 15, 3, .rw, false, 0x0⟩
/-- CST_BSEL.STACK (R168). -/
def cstBselStack : Fld := ⟨0x104, 18, 1, .rw, false, 0x0⟩
/-- CST_BSEL.CONV (R168). -/
def cstBselConv : Fld := ⟨0x104, 19, 4, .rw, false, 0x0⟩
/-- CST_BSTAT.STATE (R168). -/
def cstBstatState : Fld := ⟨0x108, 0, 3, .ro, false, 0x0⟩
/-- CST_BSTAT.FORMAT (R168). -/
def cstBstatFormat : Fld := ⟨0x108, 3, 1, .ro, false, 0x0⟩
/-- CST_BSTAT.RANGE_S (R168). -/
def cstBstatRangeS : Fld := ⟨0x108, 4, 2, .ro, false, 0x0⟩
/-- CST_BSTAT.LOWERED (R168). -/
def cstBstatLowered : Fld := ⟨0x108, 6, 1, .ro, true, 0x0⟩
/-- CST_BSTAT.THROTTLED (R168). -/
def cstBstatThrottled : Fld := ⟨0x108, 7, 1, .ro, false, 0x0⟩
/-- CST_BSTAT.OWNER (R168). -/
def cstBstatOwner : Fld := ⟨0x108, 8, 4, .ro, false, 0xf⟩
/-- CST_BSTAT.COLD (R168). -/
def cstBstatCold : Fld := ⟨0x108, 12, 1, .ro, false, 0x0⟩
/-- CST_BSTAT.GROUP (R168). -/
def cstBstatGroup : Fld := ⟨0x108, 16, 16, .ro, false, 0x0⟩
/-- CST_BCLIP.WIN_SPLITS (R168). -/
def cstBclipWinSplits : Fld := ⟨0x10c, 0, 10, .ro, false, 0x0⟩
/-- CST_BCLIP.WINDOWS (R168). -/
def cstBclipWindows : Fld := ⟨0x10c, 16, 16, .ro, true, 0x0⟩
/-- CST_BTRIM.GAIN (R168). -/
def cstBtrimGain : Fld := ⟨0x110, 0, 12, .ro, false, 0x0⟩
/-- CST_BTRIM.OFFSET (R168). -/
def cstBtrimOffset : Fld := ⟨0x110, 12, 8, .ro, false, 0x0⟩
/-- CST_BTRIM.TK (R168). -/
def cstBtrimTk : Fld := ⟨0x110, 20, 12, .ro, false, 0x0⟩
/-- CST_SPLITS_LO.SPLITS_LO (R168). -/
def cstSplitsLoSplitsLo : Fld := ⟨0x118, 0, 32, .ro, true, 0x0⟩
/-- CST_SPLITS_HI.SPLITS_HI (R168). -/
def cstSplitsHiSplitsHi : Fld := ⟨0x11c, 0, 32, .ro, true, 0x0⟩
/-- CST_THERM.HOTTEST (R168). -/
def cstThermHottest : Fld := ⟨0x120, 0, 10, .ro, false, 0x0⟩
/-- CST_THERM.THROTTLED (R168). -/
def cstThermThrottled : Fld := ⟨0x120, 16, 12, .ro, false, 0x0⟩
/-- CST_LOWERED.COUNT (R168). -/
def cstLoweredCount : Fld := ⟨0x124, 0, 20, .ro, true, 0x0⟩
/-- CST_COLD_LO.COLD_LO (R168). -/
def cstColdLoColdLo : Fld := ⟨0x128, 0, 32, .ro, true, 0x0⟩
/-- CST_COLD_HI.COLD_HI (R168). -/
def cstColdHiColdHi : Fld := ⟨0x12c, 0, 32, .ro, true, 0x0⟩
/-- CST_LASTEVT.STATUS (R168). -/
def cstLastevtStatus : Fld := ⟨0x130, 0, 32, .ro, true, 0x0⟩
/-- CST_CALCFG.BASE_H (R204). -/
def cstCalcfgBaseH : Fld := ⟨0x140, 0, 8, .rw, false, 0x48⟩
/-- CST_CALCFG.MIN_H (R204). -/
def cstCalcfgMinH : Fld := ⟨0x140, 8, 8, .rw, false, 0x6⟩
/-- CST_CALCFG.HOT_C (R204). -/
def cstCalcfgHotC : Fld := ⟨0x140, 16, 8, .rw, false, 0x46⟩
/-- CST_CALCFG.MIRROR_MAX (R204). -/
def cstCalcfgMirrorMax : Fld := ⟨0x140, 24, 4, .rw, false, 0x4⟩
/-- CST_MONCFG.REF_MEAN (R204). -/
def cstMoncfgRefMean : Fld := ⟨0x144, 0, 8, .rw, false, 0x5⟩
/-- CST_MONCFG.REF_RMS (R204). -/
def cstMoncfgRefRms : Fld := ⟨0x144, 8, 8, .rw, false, 0xa⟩
/-- CST_MONCFG.NEAR_LOG2 (R204). -/
def cstMoncfgNearLog2 : Fld := ⟨0x144, 16, 4, .rw, false, 0x6⟩
/-- CST_MONCFG.CELL_WARN (R204). -/
def cstMoncfgCellWarn : Fld := ⟨0x144, 20, 7, .rw, false, 0x30⟩
/-- CST_BCAL.UNUSABLE (R204). -/
def cstBcalUnusable : Fld := ⟨0x148, 0, 7, .ro, true, 0x0⟩
/-- CST_BCAL.OFFGRID (R204). -/
def cstBcalOffgrid : Fld := ⟨0x148, 7, 1, .ro, true, 0x0⟩
/-- CST_BCAL.AGE_H (R204). -/
def cstBcalAgeH : Fld := ⟨0x148, 8, 12, .ro, true, 0x0⟩
/-- CST_BCAL.OVERDUE (R204). -/
def cstBcalOverdue : Fld := ⟨0x148, 20, 1, .ro, false, 0x0⟩
/-- CST_BCAL.QUEUED (R204). -/
def cstBcalQueued : Fld := ⟨0x148, 21, 1, .ro, false, 0x0⟩
/-- CST_BCAL.UNBOUND (R204). -/
def cstBcalUnbound : Fld := ⟨0x148, 22, 1, .ro, false, 0x0⟩
/-- CST_SPARES.MIN_FREE (R204). -/
def cstSparesMinFree : Fld := ⟨0x14c, 0, 12, .ro, false, 0x800⟩
/-- CST_SPARES.MIN_DIE (R204). -/
def cstSparesMinDie : Fld := ⟨0x14c, 12, 3, .ro, false, 0x0⟩
/-- CST_SPARES.MIN_STACK (R204). -/
def cstSparesMinStack : Fld := ⟨0x14c, 15, 1, .ro, false, 0x0⟩
/-- CST_SPARES.RESERVE (R204). -/
def cstSparesReserve : Fld := ⟨0x14c, 16, 5, .ro, false, 0x10⟩
/-- CST_PROG.PROGRAMMING (R204). -/
def cstProgProgramming : Fld := ⟨0x150, 0, 11, .ro, false, 0x0⟩
/-- CST_PROG.MIRRORING (R204). -/
def cstProgMirroring : Fld := ⟨0x150, 16, 8, .ro, false, 0x0⟩
/-- SPH_PROD_LO.PROD_LO (R243). -/
def sphProdLoProdLo : Fld := ⟨0x100, 0, 32, .ro, true, 0x0⟩
/-- SPH_PROD_HI.PROD_HI (R243). -/
def sphProdHiProdHi : Fld := ⟨0x104, 0, 32, .ro, true, 0x0⟩
/-- SPH_LENT_LO.LENT_LO (R243). -/
def sphLentLoLentLo : Fld := ⟨0x108, 0, 32, .ro, true, 0x0⟩
/-- SPH_LENT_HI.LENT_HI (R243). -/
def sphLentHiLentHi : Fld := ⟨0x10c, 0, 32, .ro, true, 0x0⟩
/-- SPH_LANES.IN_SERVICE (R243). -/
def sphLanesInService : Fld := ⟨0x110, 0, 15, .ro, true, 0x4000⟩
/-- SPH_LANES.TRANSIENTS (R243). -/
def sphLanesTransients : Fld := ⟨0x110, 16, 16, .ro, true, 0x0⟩
/-- SPH_LSEL.SLOT (R243). -/
def sphLselSlot : Fld := ⟨0x114, 0, 10, .rw, false, 0x0⟩
/-- SPH_LDENS.DENSITY (R243). -/
def sphLdensDensity : Fld := ⟨0x118, 0, 20, .ro, false, 0x0⟩
/-- SPH_LDENS.STEP_TIME (R243). -/
def sphLdensStepTime : Fld := ⟨0x118, 20, 12, .ro, false, 0x0⟩
/-- SPH_LMAXROW.MAX_NENT (R243). -/
def sphLmaxrowMaxNent : Fld := ⟨0x11c, 0, 15, .ro, false, 0x0⟩
/-- SPH_SAT.SAT (R243). -/
def sphSatSat : Fld := ⟨0x120, 0, 16, .ro, true, 0x0⟩
/-- SPH_LASTEVT.STATUS (R243). -/
def sphLastevtStatus : Fld := ⟨0x124, 0, 32, .ro, true, 0x0⟩
/-- SCR_ELEM_LO.ELEM_LO (R243). -/
def scrElemLoElemLo : Fld := ⟨0x100, 0, 32, .ro, true, 0x0⟩
/-- SCR_ELEM_HI.ELEM_HI (R243). -/
def scrElemHiElemHi : Fld := ⟨0x104, 0, 32, .ro, true, 0x0⟩
/-- SCR_NZ_LO.NZ_LO (R243). -/
def scrNzLoNzLo : Fld := ⟨0x108, 0, 32, .ro, true, 0x0⟩
/-- SCR_NZ_HI.NZ_HI (R243). -/
def scrNzHiNzHi : Fld := ⟨0x10c, 0, 32, .ro, true, 0x0⟩
/-- SCR_DENSE.DENSE (R243). -/
def scrDenseDense : Fld := ⟨0x110, 0, 32, .ro, true, 0x0⟩
/-- TNS_CFG.WIN_LOG2 (R243). -/
def tnsCfgWinLog2 : Fld := ⟨0x100, 0, 5, .rw, false, 0x10⟩
/-- TNS_CFG.MISS_LOG2 (R243). -/
def tnsCfgMissLog2 : Fld := ⟨0x100, 8, 4, .rw, false, 0x8⟩
/-- TNS_CFG.AUDIT_LOG2 (R243). -/
def tnsCfgAuditLog2 : Fld := ⟨0x100, 16, 4, .ro, false, 0x6⟩
/-- TNS_LSEL.SLOT (R243). -/
def tnsLselSlot : Fld := ⟨0x104, 0, 10, .rw, false, 0x0⟩
/-- TNS_LSTAT.STATE (R243). -/
def tnsLstatState : Fld := ⟨0x108, 0, 2, .ro, false, 0x0⟩
/-- TNS_LSTAT.ACTR (R243). -/
def tnsLstatActr : Fld := ⟨0x108, 2, 6, .ro, false, 0x0⟩
/-- TNS_LSTAT.LAYER (R243). -/
def tnsLstatLayer : Fld := ⟨0x108, 8, 8, .ro, false, 0x0⟩
/-- TNS_LSTAT.OWNER (R243). -/
def tnsLstatOwner : Fld := ⟨0x108, 16, 4, .ro, false, 0xf⟩
/-- TNS_LSTAT.TRIPS (R243). -/
def tnsLstatTrips : Fld := ⟨0x108, 20, 8, .ro, false, 0x0⟩
/-- TNS_LWIN.AUDITS (R243). -/
def tnsLwinAudits : Fld := ⟨0x10c, 0, 21, .ro, false, 0x0⟩
/-- TNS_LWIN.MISSES (R243). -/
def tnsLwinMisses : Fld := ⟨0x10c, 21, 11, .ro, false, 0x0⟩
/-- TNS_LSKIP_LO.SKIP_LO (R243). -/
def tnsLskipLoSkipLo : Fld := ⟨0x110, 0, 32, .ro, false, 0x0⟩
/-- TNS_LSKIP_HI.SKIP_HI (R243). -/
def tnsLskipHiSkipHi : Fld := ⟨0x114, 0, 32, .ro, false, 0x0⟩
/-- TNS_LATE.LATE (R243). -/
def tnsLateLate : Fld := ⟨0x118, 0, 32, .ro, true, 0x0⟩
/-- TNS_LASTEVT.STATUS (R243). -/
def tnsLastevtStatus : Fld := ⟨0x11c, 0, 32, .ro, true, 0x0⟩
/-- CRS_STAT.RUN (R288). -/
def crsStatRun : Fld := ⟨0x140, 0, 2, .ro, false, 0x0⟩
/-- CRS_STAT.PEND (R288). -/
def crsStatPend : Fld := ⟨0x140, 2, 1, .ro, false, 0x0⟩
/-- CRS_STAT.PARKING (R288). -/
def crsStatParking : Fld := ⟨0x140, 3, 1, .ro, false, 0x0⟩
/-- CRS_STAT.KIND (R288). -/
def crsStatKind : Fld := ⟨0x140, 4, 4, .ro, false, 0x0⟩
/-- CRS_STAT.HOLDING (R288). -/
def crsStatHolding : Fld := ⟨0x140, 8, 8, .ro, false, 0xf⟩
/-- CRS_STAT.RED_IT (R288). -/
def crsStatRedIt : Fld := ⟨0x140, 16, 3, .ro, false, 0x0⟩
/-- CRS_RUN_ID.ID (R288). -/
def crsRunIdId : Fld := ⟨0x144, 0, 32, .ro, false, 0xffffffff⟩
/-- CRS_PEND_ID.ID (R288). -/
def crsPendIdId : Fld := ⟨0x148, 0, 32, .ro, false, 0xffffffff⟩
/-- CRS_DONE_LO.DONE_LO (R288). -/
def crsDoneLoDoneLo : Fld := ⟨0x150, 0, 32, .ro, true, 0x0⟩
/-- CRS_DONE_HI.DONE_HI (R288). -/
def crsDoneHiDoneHi : Fld := ⟨0x154, 0, 32, .ro, true, 0x0⟩
/-- CRS_REFUSED.REFUSED (R288). -/
def crsRefusedRefused : Fld := ⟨0x158, 0, 16, .ro, true, 0x0⟩
/-- CRS_REFUSED.FAULTS (R288). -/
def crsRefusedFaults : Fld := ⟨0x158, 16, 16, .ro, true, 0x0⟩
/-- CRS_LASTEVT.STATUS (R288). -/
def crsLastevtStatus : Fld := ⟨0x15c, 0, 32, .ro, true, 0x0⟩
/-- CRS_GATECFG.TIMEOUT_LOG2 (R288). -/
def crsGatecfgTimeoutLog2 : Fld := ⟨0x160, 0, 5, .rw, false, 0x10⟩
/-- ITK_IMG.ACCEPTED (R288). -/
def itkImgAccepted : Fld := ⟨0x100, 0, 16, .ro, true, 0x0⟩
/-- ITK_IMG.REFUSED (R288). -/
def itkImgRefused : Fld := ⟨0x100, 16, 16, .ro, true, 0x0⟩
/-- ITK_ISSUE_LO.ISSUE_LO (R288). -/
def itkIssueLoIssueLo : Fld := ⟨0x104, 0, 32, .ro, true, 0x0⟩
/-- ITK_ISSUE_HI.ISSUE_HI (R288). -/
def itkIssueHiIssueHi : Fld := ⟨0x108, 0, 32, .ro, true, 0x0⟩
/-- ITK_LAST.STATUS (R288). -/
def itkLastStatus : Fld := ⟨0x10c, 0, 32, .ro, true, 0x0⟩
/-- ITK_LASTLOC.INDEX (R288). -/
def itkLastlocIndex : Fld := ⟨0x110, 0, 24, .ro, true, 0x0⟩
/-- ITK_LASTLOC.ITEM (R288). -/
def itkLastlocItem : Fld := ⟨0x110, 24, 4, .ro, true, 0x0⟩
/-- ITK_LASTOFF.OFFSET (R288). -/
def itkLastoffOffset : Fld := ⟨0x114, 0, 16, .ro, true, 0xffff⟩
/-- SPD_SLUICE.BANK (R337). -/
def spdSluiceBank : Fld := ⟨0x100, 0, 3, .rw, false, 0x0⟩
/-- SPD_SLUICE.TO (R337). -/
def spdSluiceTo : Fld := ⟨0x100, 4, 2, .rw, false, 0x1⟩
/-- SPD_SLUICE.CIRC (R337). -/
def spdSluiceCirc : Fld := ⟨0x100, 6, 1, .rw, false, 0x0⟩
/-- SPD_SLUICE.GO (R337). -/
def spdSluiceGo : Fld := ⟨0x100, 8, 1, .wo, false, 0x0⟩
/-- SPD_SLUICE.RESULT (R337). -/
def spdSluiceResult : Fld := ⟨0x100, 16, 2, .ro, false, 0x0⟩
/-- SPD_OWNERS.OWNER0 (R337). -/
def spdOwnersOwner0 : Fld := ⟨0x104, 0, 2, .ro, false, 0x1⟩
/-- SPD_OWNERS.OWNER1 (R337). -/
def spdOwnersOwner1 : Fld := ⟨0x104, 4, 2, .ro, false, 0x1⟩
/-- SPD_OWNERS.OWNER2 (R337). -/
def spdOwnersOwner2 : Fld := ⟨0x104, 8, 2, .ro, false, 0x1⟩
/-- SPD_OWNERS.OWNER3 (R337). -/
def spdOwnersOwner3 : Fld := ⟨0x104, 12, 2, .ro, false, 0x1⟩
/-- SPD_OWNERS.OWNER4 (R337). -/
def spdOwnersOwner4 : Fld := ⟨0x104, 16, 2, .ro, false, 0x1⟩
/-- SPD_OWNERS.OWNER5 (R337). -/
def spdOwnersOwner5 : Fld := ⟨0x104, 20, 2, .ro, false, 0x1⟩
/-- SPD_OWNERS.OWNER6 (R337). -/
def spdOwnersOwner6 : Fld := ⟨0x104, 24, 2, .ro, false, 0x1⟩
/-- SPD_OWNERS.OWNER7 (R337). -/
def spdOwnersOwner7 : Fld := ⟨0x104, 28, 2, .ro, false, 0x1⟩
/-- SPD_OWNERS.CIRC0 (R337). -/
def spdOwnersCirc0 : Fld := ⟨0x104, 2, 1, .ro, false, 0x0⟩
/-- SPD_OWNERS.CIRC1 (R337). -/
def spdOwnersCirc1 : Fld := ⟨0x104, 6, 1, .ro, false, 0x0⟩
/-- SPD_OWNERS.CIRC2 (R337). -/
def spdOwnersCirc2 : Fld := ⟨0x104, 10, 1, .ro, false, 0x0⟩
/-- SPD_OWNERS.CIRC3 (R337). -/
def spdOwnersCirc3 : Fld := ⟨0x104, 14, 1, .ro, false, 0x0⟩
/-- SPD_OWNERS.CIRC4 (R337). -/
def spdOwnersCirc4 : Fld := ⟨0x104, 18, 1, .ro, false, 0x0⟩
/-- SPD_OWNERS.CIRC5 (R337). -/
def spdOwnersCirc5 : Fld := ⟨0x104, 22, 1, .ro, false, 0x0⟩
/-- SPD_OWNERS.CIRC6 (R337). -/
def spdOwnersCirc6 : Fld := ⟨0x104, 26, 1, .ro, false, 0x0⟩
/-- SPD_OWNERS.CIRC7 (R337). -/
def spdOwnersCirc7 : Fld := ⟨0x104, 30, 1, .ro, false, 0x0⟩
/-- SPD_RETAIN.RETAIN_MASK (R337). -/
def spdRetainRetainMask : Fld := ⟨0x108, 0, 8, .rw, false, 0x0⟩
/-- SPD_CIRC.BANK (R337). -/
def spdCircBank : Fld := ⟨0x10c, 0, 3, .rw, false, 0x0⟩
/-- SPD_CIRC.RPTR (R337). -/
def spdCircRptr : Fld := ⟨0x10c, 4, 12, .ro, false, 0x0⟩
/-- SPD_CIRC.WPTR (R337). -/
def spdCircWptr : Fld := ⟨0x10c, 16, 12, .ro, false, 0x0⟩
/-- SPD_CIRC.EMPTY (R337). -/
def spdCircEmpty : Fld := ⟨0x10c, 28, 1, .ro, false, 0x1⟩
/-- SPD_CIRC.FULL (R337). -/
def spdCircFull : Fld := ⟨0x10c, 29, 1, .ro, false, 0x0⟩
/-- SPD_TSEL.TASK (R337). -/
def spdTselTask : Fld := ⟨0x110, 0, 2, .rw, false, 0x0⟩
/-- SPD_TSEL.PAIR (R337). -/
def spdTselPair : Fld := ⟨0x110, 2, 2, .rw, false, 0x0⟩
/-- SPD_TBASE.BASE (R337). -/
def spdTbaseBase : Fld := ⟨0x114, 6, 15, .rw, false, 0x0⟩
/-- SPD_TBOUND.BOUND (R337). -/
def spdTboundBound : Fld := ⟨0x118, 6, 16, .rw, false, 0x0⟩
/-- SPD_TBOUND.R (R337). -/
def spdTboundR : Fld := ⟨0x118, 29, 1, .rw, false, 0x0⟩
/-- SPD_TBOUND.W (R337). -/
def spdTboundW : Fld := ⟨0x118, 30, 1, .rw, false, 0x0⟩
/-- SPD_TBOUND.VALID (R337). -/
def spdTboundValid : Fld := ⟨0x118, 31, 1, .rw, false, 0x0⟩
/-- SPD_ECC.CORRECTED (R337). -/
def spdEccCorrected : Fld := ⟨0x11c, 0, 16, .ro, true, 0x0⟩
/-- SPD_ECC.UNCORR (R337). -/
def spdEccUncorr : Fld := ⟨0x11c, 16, 8, .ro, true, 0x0⟩
/-- SPD_ECC.POISONED (R337). -/
def spdEccPoisoned : Fld := ⟨0x11c, 24, 8, .ro, false, 0x0⟩
/-- SPD_SCRUB.INTERVAL_LOG2 (R337). -/
def spdScrubIntervalLog2 : Fld := ⟨0x120, 0, 5, .rw, false, 0xa⟩
/-- SPD_SCRUB.PASSES (R337). -/
def spdScrubPasses : Fld := ⟨0x120, 16, 16, .ro, true, 0x0⟩
/-- SPD_DEFER_LO.DEFER_LO (R337). -/
def spdDeferLoDeferLo : Fld := ⟨0x124, 0, 32, .ro, true, 0x0⟩
/-- SPD_DEFER_HI.DEFER_HI (R337). -/
def spdDeferHiDeferHi : Fld := ⟨0x128, 0, 32, .ro, true, 0x0⟩
/-- SPD_COLSPARE.LEFT0 (R337). -/
def spdColspareLeft0 : Fld := ⟨0x12c, 0, 3, .ro, true, 0x4⟩
/-- SPD_COLSPARE.LEFT1 (R337). -/
def spdColspareLeft1 : Fld := ⟨0x12c, 4, 3, .ro, true, 0x4⟩
/-- SPD_COLSPARE.LEFT2 (R337). -/
def spdColspareLeft2 : Fld := ⟨0x12c, 8, 3, .ro, true, 0x4⟩
/-- SPD_COLSPARE.LEFT3 (R337). -/
def spdColspareLeft3 : Fld := ⟨0x12c, 12, 3, .ro, true, 0x4⟩
/-- SPD_COLSPARE.LEFT4 (R337). -/
def spdColspareLeft4 : Fld := ⟨0x12c, 16, 3, .ro, true, 0x4⟩
/-- SPD_COLSPARE.LEFT5 (R337). -/
def spdColspareLeft5 : Fld := ⟨0x12c, 20, 3, .ro, true, 0x4⟩
/-- SPD_COLSPARE.LEFT6 (R337). -/
def spdColspareLeft6 : Fld := ⟨0x12c, 24, 3, .ro, true, 0x4⟩
/-- SPD_COLSPARE.LEFT7 (R337). -/
def spdColspareLeft7 : Fld := ⟨0x12c, 28, 3, .ro, true, 0x4⟩
/-- SPD_BIST.BANK (R337). -/
def spdBistBank : Fld := ⟨0x130, 0, 3, .rw, false, 0x0⟩
/-- SPD_BIST.RUN (R337). -/
def spdBistRun : Fld := ⟨0x130, 4, 1, .wo, false, 0x0⟩
/-- SPD_BIST.BUSY (R337). -/
def spdBistBusy : Fld := ⟨0x130, 5, 1, .ro, false, 0x0⟩
/-- SPD_BIST.PASS (R337). -/
def spdBistPass : Fld := ⟨0x130, 6, 1, .ro, false, 0x0⟩
/-- SPD_BIST.FAILCOL (R337). -/
def spdBistFailcol : Fld := ⟨0x130, 8, 10, .ro, false, 0x3ff⟩
/-- SPD_GATE.ALLOC (R337). -/
def spdGateAlloc : Fld := ⟨0x134, 0, 14, .ro, false, 0x0⟩
/-- SPD_GATE.FULL (R337). -/
def spdGateFull : Fld := ⟨0x134, 16, 14, .ro, false, 0x0⟩
/-- SPD_LASTEVT.STATUS (R337). -/
def spdLastevtStatus : Fld := ⟨0x138, 0, 32, .ro, true, 0x0⟩
/-- RSV_LOCK.LOCKED_MIB (R337). -/
def rsvLockLockedMib : Fld := ⟨0x100, 0, 6, .ro, false, 0x0⟩
/-- RSV_MISS_LO.MISS_LO (R337). -/
def rsvMissLoMissLo : Fld := ⟨0x104, 0, 32, .ro, true, 0x0⟩
/-- RSV_MISS_HI.MISS_HI (R337). -/
def rsvMissHiMissHi : Fld := ⟨0x108, 0, 32, .ro, true, 0x0⟩
/-- RSV_ECC.CORRECTED (R337). -/
def rsvEccCorrected : Fld := ⟨0x10c, 0, 16, .ro, true, 0x0⟩
/-- RSV_ECC.UNCORR (R337). -/
def rsvEccUncorr : Fld := ⟨0x10c, 16, 16, .ro, true, 0x0⟩
/-- RSV_GATE.ALLOC (R337). -/
def rsvGateAlloc : Fld := ⟨0x110, 0, 17, .ro, false, 0x0⟩
/-- RSV_LASTEVT.STATUS (R337). -/
def rsvLastevtStatus : Fld := ⟨0x114, 0, 32, .ro, true, 0x0⟩
/-- KVC_APPEND_LO.APPEND_LO (R362). -/
def kvcAppendLoAppendLo : Fld := ⟨0x100, 0, 32, .ro, true, 0x0⟩
/-- KVC_APPEND_HI.APPEND_HI (R362). -/
def kvcAppendHiAppendHi : Fld := ⟨0x104, 0, 32, .ro, true, 0x0⟩
/-- KVC_RESCALE.RESCALE (R362). -/
def kvcRescaleRescale : Fld := ⟨0x108, 0, 32, .ro, true, 0x0⟩
/-- KVC_FRAMES.FRAMES (R362). -/
def kvcFramesFrames : Fld := ⟨0x10c, 0, 24, .ro, false, 0x0⟩
/-- KVC_EXPORT.EXPORT (R362). -/
def kvcExportExport : Fld := ⟨0x110, 0, 32, .ro, true, 0x0⟩
/-- KVC_IMPORT.IMPORT (R362). -/
def kvcImportImport : Fld := ⟨0x114, 0, 32, .ro, true, 0x0⟩
/-- KVC_FAULTS.MAP_INVALID (R362). -/
def kvcFaultsMapInvalid : Fld := ⟨0x118, 0, 16, .ro, true, 0x0⟩
/-- KVC_FAULTS.IMPORT_REFUSED (R362). -/
def kvcFaultsImportRefused : Fld := ⟨0x118, 16, 16, .ro, true, 0x0⟩
/-- KVC_LASTEVT.STATUS (R362). -/
def kvcLastevtStatus : Fld := ⟨0x11c, 0, 32, .ro, true, 0x0⟩
/-- RNG_CFG.SKEW_LIMIT (R397). -/
def rngCfgSkewLimit : Fld := ⟨0x100, 0, 8, .rw, false, 0x14⟩
/-- RNG_CFG.MATCH_EN (R397). -/
def rngCfgMatchEn : Fld := ⟨0x100, 8, 1, .rw, false, 0x1⟩
/-- RNG_CFG.IDLE_FENCE (R397). -/
def rngCfgIdleFence : Fld := ⟨0x100, 16, 8, .rw, false, 0x64⟩
/-- RNG_STAT.MODE (R397). -/
def rngStatMode : Fld := ⟨0x104, 0, 3, .ro, false, 0x0⟩
/-- RNG_STAT.BREAK (R397). -/
def rngStatBreak : Fld := ⟨0x104, 3, 2, .ro, false, 0x0⟩
/-- RNG_STAT.CFG_NO (R397). -/
def rngStatCfgNo : Fld := ⟨0x104, 8, 8, .ro, true, 0x0⟩
/-- RNG_STAT.VC_BUSY (R397). -/
def rngStatVcBusy : Fld := ⟨0x104, 16, 8, .ro, false, 0x0⟩
/-- RNG_LANES.E_SPARES (R397). -/
def rngLanesESpares : Fld := ⟨0x108, 0, 5, .ro, true, 0x10⟩
/-- RNG_LANES.E_RETIRED (R397). -/
def rngLanesERetired : Fld := ⟨0x108, 5, 1, .ro, true, 0x0⟩
/-- RNG_LANES.W_SPARES (R397). -/
def rngLanesWSpares : Fld := ⟨0x108, 8, 5, .ro, true, 0x10⟩
/-- RNG_LANES.W_RETIRED (R397). -/
def rngLanesWRetired : Fld := ⟨0x108, 13, 1, .ro, true, 0x0⟩
/-- RNG_LANES.REPLAYS (R397). -/
def rngLanesReplays : Fld := ⟨0x108, 16, 16, .ro, true, 0x0⟩
/-- RNG_FENCE_LO.FENCE_LO (R397). -/
def rngFenceLoFenceLo : Fld := ⟨0x10c, 0, 32, .ro, true, 0x0⟩
/-- RNG_FENCE_HI.FENCE_HI (R397). -/
def rngFenceHiFenceHi : Fld := ⟨0x110, 0, 32, .ro, true, 0x0⟩
/-- RNG_SKEW.SUM (R397). -/
def rngSkewSum : Fld := ⟨0x114, 0, 16, .ro, false, 0x0⟩
/-- RNG_SKEW.LATE_DIE (R397). -/
def rngSkewLateDie : Fld := ⟨0x114, 16, 2, .ro, false, 0x0⟩
/-- RNG_SKEW.FENCES (R397). -/
def rngSkewFences : Fld := ⟨0x114, 24, 8, .ro, false, 0x0⟩
/-- RNG_MATCH.ACTIVE (R397). -/
def rngMatchActive : Fld := ⟨0x118, 0, 1, .ro, false, 0x0⟩
/-- RNG_MATCH.SLOW_DIE (R397). -/
def rngMatchSlowDie : Fld := ⟨0x118, 1, 2, .ro, false, 0x0⟩
/-- RNG_MATCH.FREQ (R397). -/
def rngMatchFreq : Fld := ⟨0x118, 16, 12, .ro, false, 0x0⟩
/-- RNG_TX_LO.TX_LO (R397). -/
def rngTxLoTxLo : Fld := ⟨0x11c, 0, 32, .ro, true, 0x0⟩
/-- RNG_TX_HI.TX_HI (R397). -/
def rngTxHiTxHi : Fld := ⟨0x120, 0, 32, .ro, true, 0x0⟩
/-- RNG_SAT.SAT (R397). -/
def rngSatSat : Fld := ⟨0x124, 0, 16, .ro, true, 0x0⟩
/-- RNG_SAT.BROKEN (R397). -/
def rngSatBroken : Fld := ⟨0x124, 16, 16, .ro, true, 0x0⟩
/-- RNG_LASTEVT.STATUS (R397). -/
def rngLastevtStatus : Fld := ⟨0x128, 0, 32, .ro, true, 0x0⟩
/-- STR_CFG.DONE_HOLD_LOG2 (R429). -/
def strCfgDoneHoldLog2 : Fld := ⟨0x100, 0, 5, .rw, false, 0xa⟩
/-- STR_CFG.SWEEP_MAX (R429). -/
def strCfgSweepMax : Fld := ⟨0x100, 8, 5, .rw, false, 0x18⟩
/-- STR_HSEL.HOLDING (R429). -/
def strHselHolding : Fld := ⟨0x104, 0, 2, .rw, false, 0x0⟩
/-- STR_SHR0.STREAMS (R429). -/
def strShr0Streams : Fld := ⟨0x108, 0, 21, .rw, false, 0x40000⟩
/-- STR_SHR1.SLOTS (R429). -/
def strShr1Slots : Fld := ⟨0x10c, 0, 11, .rw, false, 0x180⟩
/-- STR_SHR1.POWER (R429). -/
def strShr1Power : Fld := ⟨0x10c, 16, 12, .rw, false, 0x384⟩
/-- STR_SHR2.PAGES (R429). -/
def strShr2Pages : Fld := ⟨0x110, 0, 19, .rw, false, 0x12000⟩
/-- STR_SHR3.PLOTS (R429). -/
def strShr3Plots : Fld := ⟨0x114, 0, 13, .rw, false, 0x780⟩
/-- STR_SHR3.BUDGET_EN (R429). -/
def strShr3BudgetEn : Fld := ⟨0x114, 16, 1, .rw, false, 0x0⟩
/-- STR_SHR3.HARD_BUDGET (R429). -/
def strShr3HardBudget : Fld := ⟨0x114, 17, 1, .rw, false, 0x0⟩
/-- STR_BUDGET_LO.BAL_LO (R429). -/
def strBudgetLoBalLo : Fld := ⟨0x118, 0, 32, .ro, false, 0x0⟩
/-- STR_BUDGET_HI.BAL_HI (R429). -/
def strBudgetHiBalHi : Fld := ⟨0x11c, 0, 32, .ro, false, 0x0⟩
/-- STR_CREDIT_LO.CR_LO (R429). -/
def strCreditLoCrLo : Fld := ⟨0x120, 0, 32, .wo, false, 0x0⟩
/-- STR_CREDIT_HI.CR_HI (R429). -/
def strCreditHiCrHi : Fld := ⟨0x124, 0, 32, .wo, false, 0x0⟩
/-- STR_USE0.STREAMS (R429). -/
def strUse0Streams : Fld := ⟨0x128, 0, 21, .ro, false, 0x0⟩
/-- STR_USE0.SLOTS (R429). -/
def strUse0Slots : Fld := ⟨0x128, 21, 11, .ro, false, 0x0⟩
/-- STR_USE1.PAGES (R429). -/
def strUse1Pages : Fld := ⟨0x12c, 0, 19, .ro, false, 0x0⟩
/-- STR_USE1.PLOTS (R429). -/
def strUse1Plots : Fld := ⟨0x12c, 19, 13, .ro, false, 0x0⟩
/-- STR_ACTIVE.ACTIVE (R429). -/
def strActiveActive : Fld := ⟨0x130, 0, 11, .ro, false, 0x0⟩
/-- STR_ACTIVE.PROMPT (R429). -/
def strActivePrompt : Fld := ⟨0x130, 11, 8, .ro, false, 0x0⟩
/-- STR_ACTIVE.CLOSED (R429). -/
def strActiveClosed : Fld := ⟨0x130, 19, 1, .ro, false, 0x0⟩
/-- STR_MISS_LO.MISS_LO (R429). -/
def strMissLoMissLo : Fld := ⟨0x134, 0, 32, .ro, true, 0x0⟩
/-- STR_MISS_HI.MISS_HI (R429). -/
def strMissHiMissHi : Fld := ⟨0x138, 0, 32, .ro, true, 0x0⟩
/-- STR_EVT.REFUSED (R429). -/
def strEvtRefused : Fld := ⟨0x13c, 0, 16, .ro, true, 0x0⟩
/-- STR_EVT.PARKS (R429). -/
def strEvtParks : Fld := ⟨0x13c, 16, 16, .ro, true, 0x0⟩
/-- STR_LASTSHR.STATUS (R429). -/
def strLastshrStatus : Fld := ⟨0x140, 0, 32, .ro, false, 0x0⟩
/-- TLY_STAT.OPEN_RECS (R464). -/
def tlyStatOpenRecs : Fld := ⟨0x100, 0, 13, .ro, false, 0x0⟩
/-- TLY_STAT.QUEUE (R464). -/
def tlyStatQueue : Fld := ⟨0x100, 16, 8, .ro, false, 0x0⟩
/-- TLY_STAT.SIGNING (R464). -/
def tlyStatSigning : Fld := ⟨0x100, 24, 1, .ro, false, 0x0⟩
/-- TLY_STAT.JOURNAL_A (R464). -/
def tlyStatJournalA : Fld := ⟨0x100, 25, 1, .ro, false, 0x1⟩
/-- TLY_STAT.JOURNAL_B (R464). -/
def tlyStatJournalB : Fld := ⟨0x100, 26, 1, .ro, false, 0x1⟩
/-- TLY_STAT.HALTED (R464). -/
def tlyStatHalted : Fld := ⟨0x100, 27, 1, .ro, false, 0x0⟩
/-- TLY_STAT.BOTTOM_READY (R464). -/
def tlyStatBottomReady : Fld := ⟨0x100, 28, 1, .ro, false, 0x0⟩
/-- TLY_STAT.UNCLEAN (R464). -/
def tlyStatUnclean : Fld := ⟨0x100, 29, 1, .ro, true, 0x0⟩
/-- TLY_SEQ_LO.SEQ_LO (R464). -/
def tlySeqLoSeqLo : Fld := ⟨0x104, 0, 32, .ro, false, 0x0⟩
/-- TLY_SEQ_HI.SEQ_HI (R464). -/
def tlySeqHiSeqHi : Fld := ⟨0x108, 0, 8, .ro, false, 0x0⟩
/-- TLY_RES_LO.RES_LO (R464). -/
def tlyResLoResLo : Fld := ⟨0x10c, 0, 32, .ro, true, 0x0⟩
/-- TLY_RES_HI.RES_HI (R464). -/
def tlyResHiResHi : Fld := ⟨0x110, 0, 8, .ro, true, 0x0⟩
/-- TLY_EIN_LO.EIN_LO (R464). -/
def tlyEinLoEinLo : Fld := ⟨0x114, 0, 32, .ro, false, 0x0⟩
/-- TLY_EIN_HI.EIN_HI (R464). -/
def tlyEinHiEinHi : Fld := ⟨0x118, 0, 32, .ro, false, 0x0⟩
/-- TLY_CLAMP.CLAMPS (R464). -/
def tlyClampClamps : Fld := ⟨0x11c, 0, 16, .ro, true, 0x0⟩
/-- TLY_CLAMP.NEGRES (R464). -/
def tlyClampNegres : Fld := ⟨0x11c, 16, 16, .ro, true, 0x0⟩
/-- TLY_COEF.IN_FORCE (R464). -/
def tlyCoefInForce : Fld := ⟨0x120, 0, 16, .ro, false, 0x0⟩
/-- TLY_COEF.INSTALLED (R464). -/
def tlyCoefInstalled : Fld := ⟨0x120, 16, 16, .ro, false, 0x0⟩
/-- TLY_LASTEVT.STATUS (R464). -/
def tlyLastevtStatus : Fld := ⟨0x124, 0, 32, .ro, true, 0x0⟩
/-- DRD_CAP.BMC_CAP (R501). -/
def drdCapBmcCap : Fld := ⟨0x100, 0, 12, .rw, false, 0xe10⟩
/-- DRD_CAP.EFFECTIVE (R501). -/
def drdCapEffective : Fld := ⟨0x100, 16, 12, .ro, false, 0xe10⟩
/-- DRD_CAP.LIMIT (R501). -/
def drdCapLimit : Fld := ⟨0x100, 28, 2, .ro, false, 0x0⟩
/-- DRD_CAP.UNREACH (R501). -/
def drdCapUnreach : Fld := ⟨0x100, 31, 1, .ro, false, 0x0⟩
/-- DRD_LEVEL.LEVEL (R501). -/
def drdLevelLevel : Fld := ⟨0x104, 0, 2, .ro, false, 0x0⟩
/-- DRD_LEVEL.DEEP_REQ (R501). -/
def drdLevelDeepReq : Fld := ⟨0x104, 2, 1, .rw, false, 0x0⟩
/-- DRD_LEVEL.PENDING (R501). -/
def drdLevelPending : Fld := ⟨0x104, 3, 1, .ro, false, 0x0⟩
/-- DRD_LEVEL.AUTO_WAKE (R501). -/
def drdLevelAutoWake : Fld := ⟨0x104, 4, 1, .rw, false, 0x1⟩
/-- DRD_LEVEL.IDLE_DELAY (R501). -/
def drdLevelIdleDelay : Fld := ⟨0x104, 8, 8, .rw, false, 0xa⟩
/-- DRD_POWER.P10US (R501). -/
def drdPowerP10us : Fld := ⟨0x108, 0, 13, .ro, false, 0x0⟩
/-- DRD_POWER.P1MS (R501). -/
def drdPowerP1ms : Fld := ⟨0x108, 16, 13, .ro, false, 0x0⟩
/-- DRD_EXCUR.TIMER (R501). -/
def drdExcurTimer : Fld := ⟨0x10c, 0, 9, .ro, false, 0x0⟩
/-- DRD_EXCUR.EMERG (R501). -/
def drdExcurEmerg : Fld := ⟨0x10c, 16, 16, .ro, true, 0x0⟩
/-- DRD_CIST.BUDGET (R501). -/
def drdCistBudget : Fld := ⟨0x110, 0, 10, .rw, false, 0x258⟩
/-- DRD_CIST.IN_FORCE (R501). -/
def drdCistInForce : Fld := ⟨0x110, 16, 10, .ro, false, 0x258⟩
/-- DRD_FLOOR.COMPUTE_FLOOR (R501). -/
def drdFloorComputeFloor : Fld := ⟨0x114, 0, 11, .rw, false, 0x258⟩
/-- DRD_FLOOR.SLOW_GAP (R501). -/
def drdFloorSlowGap : Fld := ⟨0x114, 16, 8, .rw, false, 0x32⟩
/-- DRD_TRICKLE.ENTRIES (R501). -/
def drdTrickleEntries : Fld := ⟨0x118, 0, 16, .ro, true, 0x0⟩
/-- DRD_TRICKLE.LONGEST (R501). -/
def drdTrickleLongest : Fld := ⟨0x118, 16, 16, .ro, true, 0x0⟩
/-- DRD_LASTEVT.EVENT (R501). -/
def drdLastevtEvent : Fld := ⟨0x11c, 0, 8, .ro, true, 0x0⟩
/-- DRD_LASTEVT.CLASS (R501). -/
def drdLastevtClass : Fld := ⟨0x11c, 8, 8, .ro, true, 0x0⟩
/-- DRD_LASTEVT.INDEX (R501). -/
def drdLastevtIndex : Fld := ⟨0x11c, 16, 8, .ro, true, 0x0⟩
/-- DPW_STAT.FREQ (R501). -/
def dpwStatFreq : Fld := ⟨0x100, 0, 11, .ro, false, 0x12c⟩
/-- DPW_STAT.VOLT (R501). -/
def dpwStatVolt : Fld := ⟨0x100, 16, 10, .ro, false, 0x226⟩
/-- DPW_STAT.CAUSE (R501). -/
def dpwStatCause : Fld := ⟨0x100, 26, 3, .ro, false, 0x0⟩
/-- DPW_ASEL.ACRE (R501). -/
def dpwAselAcre : Fld := ⟨0x104, 0, 7, .rw, false, 0x0⟩
/-- DPW_ASTAT.STATE (R501). -/
def dpwAstatState : Fld := ⟨0x108, 0, 2, .ro, false, 0x3⟩
/-- DPW_ASTAT.SPARE (R501). -/
def dpwAstatSpare : Fld := ⟨0x108, 2, 1, .ro, false, 0x0⟩
/-- DPW_ASTAT.LIFE_FMAX (R501). -/
def dpwAstatLifeFmax : Fld := ⟨0x108, 4, 11, .ro, true, 0x4b0⟩
/-- DPW_ASTAT.FUSED_FMAX (R501). -/
def dpwAstatFusedFmax : Fld := ⟨0x108, 16, 11, .ro, false, 0x4b0⟩
/-- DPW_ASTAT.GUARD (R501). -/
def dpwAstatGuard : Fld := ⟨0x108, 27, 3, .ro, true, 0x0⟩
/-- DPW_THERM.HOT_ACRE (R501). -/
def dpwThermHotAcre : Fld := ⟨0x10c, 0, 10, .ro, false, 0x0⟩
/-- DPW_THERM.HOT_HBM (R501). -/
def dpwThermHotHbm : Fld := ⟨0x10c, 16, 10, .ro, false, 0x0⟩
/-- DPW_THERM.HBM_LIMIT (R501). -/
def dpwThermHbmLimit : Fld := ⟨0x10c, 26, 2, .ro, false, 0x0⟩
/-- DPW_DROOP.STRETCH (R501). -/
def dpwDroopStretch : Fld := ⟨0x110, 0, 20, .ro, true, 0x0⟩
/-- DPW_DROOP.EMERG (R501). -/
def dpwDroopEmerg : Fld := ⟨0x110, 20, 12, .ro, true, 0x0⟩
/-- DPW_CIST.ALLOT (R501). -/
def dpwCistAllot : Fld := ⟨0x114, 0, 10, .ro, false, 0x96⟩
/-- DPW_CIST.USED (R501). -/
def dpwCistUsed : Fld := ⟨0x114, 16, 10, .ro, false, 0x0⟩
/-- HQ_QSEL.QP (R532). -/
def hqQselQp : Fld := ⟨0x100, 0, 6, .rw, false, 0x0⟩
/-- HQ_SQB_LO.BASE_LO (R532). -/
def hqSqbLoBaseLo : Fld := ⟨0x104, 12, 20, .rw, false, 0x0⟩
/-- HQ_CQB_LO.BASE_LO (R532). -/
def hqCqbLoBaseLo : Fld := ⟨0x10c, 12, 20, .rw, false, 0x0⟩
/-- HQ_SQB_HI.BASE_HI (R532). -/
def hqSqbHiBaseHi : Fld := ⟨0x108, 0, 32, .rw, false, 0x0⟩
/-- HQ_CQB_HI.BASE_HI (R532). -/
def hqCqbHiBaseHi : Fld := ⟨0x110, 0, 32, .rw, false, 0x0⟩
/-- HQ_QCFG.DEPTH (R532). -/
def hqQcfgDepth : Fld := ⟨0x114, 0, 13, .rw, false, 0x0⟩
/-- HQ_QCFG.VECTOR (R532). -/
def hqQcfgVector : Fld := ⟨0x114, 16, 6, .rw, false, 0x0⟩
/-- HQ_QCFG.BUSY (R532). -/
def hqQcfgBusy : Fld := ⟨0x114, 30, 1, .ro, false, 0x0⟩
/-- HQ_QCFG.EN (R532). -/
def hqQcfgEn : Fld := ⟨0x114, 31, 1, .rw, false, 0x0⟩
/-- HQ_COAL.COAL_N (R532). -/
def hqCoalCoalN : Fld := ⟨0x118, 0, 8, .rw, false, 0x1⟩
/-- HQ_COAL.COAL_T (R532). -/
def hqCoalCoalT : Fld := ⟨0x118, 16, 12, .rw, false, 0x0⟩
/-- HQ_LDB_LO.BASE_LO (R532). -/
def hqLdbLoBaseLo : Fld := ⟨0x11c, 12, 20, .rw, false, 0x0⟩
/-- HQ_LDB_HI.BASE_HI (R532). -/
def hqLdbHiBaseHi : Fld := ⟨0x120, 0, 32, .rw, false, 0x0⟩
/-- HQ_LCFG.SIZE_4K (R532). -/
def hqLcfgSize4k : Fld := ⟨0x124, 0, 15, .rw, false, 0x0⟩
/-- HQ_LCFG.VECTOR (R532). -/
def hqLcfgVector : Fld := ⟨0x124, 16, 6, .rw, false, 0x0⟩
/-- HQ_LCFG.EN (R532). -/
def hqLcfgEn : Fld := ⟨0x124, 31, 1, .rw, false, 0x0⟩
/-- HQ_STAT.DROPPED (R532). -/
def hqStatDropped : Fld := ⟨0x128, 0, 16, .ro, false, 0x0⟩
/-- HQ_STAT.BAD_DOORBELL (R532). -/
def hqStatBadDoorbell : Fld := ⟨0x128, 16, 8, .ro, false, 0x0⟩
/-- HQ_STAT.READ_FAIL (R532). -/
def hqStatReadFail : Fld := ⟨0x128, 24, 8, .ro, false, 0x0⟩
/-- HQ_IRQCFG.VECTOR (R623). -/
def hqIrqcfgVector : Fld := ⟨0x12c, 0, 6, .rw, false, 0x0⟩
/-- FLM_CFG.PFC_EN (R532). -/
def flmCfgPfcEn : Fld := ⟨0x100, 0, 1, .rw, false, 0x0⟩
/-- FLM_CFG.PRIO (R532). -/
def flmCfgPrio : Fld := ⟨0x100, 1, 3, .rw, false, 0x3⟩
/-- FLM_STAT.LINK (R532). -/
def flmStatLink : Fld := ⟨0x104, 0, 1, .ro, false, 0x0⟩
/-- FLM_STAT.CHANNELS (R532). -/
def flmStatChannels : Fld := ⟨0x104, 8, 8, .ro, false, 0x0⟩
/-- FLM_RETX.RETX (R532). -/
def flmRetxRetx : Fld := ⟨0x108, 0, 16, .ro, true, 0x0⟩
/-- FLM_RETX.CRC_DROPS (R532). -/
def flmRetxCrcDrops : Fld := ⟨0x108, 16, 8, .ro, true, 0x0⟩
/-- FLM_RETX.ABANDONED (R532). -/
def flmRetxAbandoned : Fld := ⟨0x108, 24, 8, .ro, true, 0x0⟩
/-- FLM_TX_LO.TX_LO (R532). -/
def flmTxLoTxLo : Fld := ⟨0x10c, 0, 32, .ro, true, 0x0⟩
/-- FLM_TX_HI.TX_HI (R532). -/
def flmTxHiTxHi : Fld := ⟨0x110, 0, 32, .ro, true, 0x0⟩
/-- CHT_LIFE.LIFECYCLE (R566). -/
def chtLifeLifecycle : Fld := ⟨0x100, 0, 2, .ro, false, 0x1⟩
/-- CHT_LIFE.OWNER_ACTIVE (R566). -/
def chtLifeOwnerActive : Fld := ⟨0x100, 2, 3, .ro, false, 0x0⟩
/-- CHT_LIFE.VENDOR_REVOKE (R566). -/
def chtLifeVendorRevoke : Fld := ⟨0x100, 8, 4, .ro, false, 0x0⟩
/-- CHT_LIFE.DEBUG (R566). -/
def chtLifeDebug : Fld := ⟨0x100, 12, 2, .ro, false, 0x0⟩
/-- CHT_LIFE.FREEZE (R566). -/
def chtLifeFreeze : Fld := ⟨0x100, 14, 2, .ro, false, 0x0⟩
/-- CHT_LIFE.HOLDINGS (R566). -/
def chtLifeHoldings : Fld := ⟨0x100, 16, 2, .ro, false, 0x0⟩
/-- CHT_LIFE.IDE_REQ (R566). -/
def chtLifeIdeReq : Fld := ⟨0x100, 20, 4, .ro, false, 0x0⟩
/-- CHT_LIFE.UDS_LOCKED (R566). -/
def chtLifeUdsLocked : Fld := ⟨0x100, 24, 1, .ro, false, 0x0⟩
/-- CHT_LIFE.RECOVERY (R566). -/
def chtLifeRecovery : Fld := ⟨0x100, 25, 1, .ro, false, 0x0⟩
/-- CHT_LIFE.TAP_OPEN (R566). -/
def chtLifeTapOpen : Fld := ⟨0x100, 26, 1, .ro, false, 0x0⟩
/-- CHT_SVN.SVN_HG (R566). -/
def chtSvnSvnHg : Fld := ⟨0x104, 0, 6, .ro, false, 0x0⟩
/-- CHT_SVN.SVN_FD (R566). -/
def chtSvnSvnFd : Fld := ⟨0x104, 8, 6, .ro, false, 0x0⟩
/-- CHT_SVN.SVN_CC (R566). -/
def chtSvnSvnCc : Fld := ⟨0x104, 16, 6, .ro, false, 0x0⟩
/-- FWU_STAT.COMMITTED (R566). -/
def fwuStatCommitted : Fld := ⟨0x100, 0, 1, .ro, true, 0x0⟩
/-- FWU_STAT.SLOT_A (R566). -/
def fwuStatSlotA : Fld := ⟨0x100, 1, 3, .ro, true, 0x0⟩
/-- FWU_STAT.SLOT_B (R566). -/
def fwuStatSlotB : Fld := ⟨0x100, 4, 3, .ro, true, 0x0⟩
/-- FWU_STAT.STANDBY_READY (R566). -/
def fwuStatStandbyReady : Fld := ⟨0x100, 7, 1, .ro, false, 0x0⟩
/-- FWU_STAT.PHASE (R566). -/
def fwuStatPhase : Fld := ⟨0x100, 8, 3, .ro, false, 0x0⟩
/-- FWU_STAT.HEALTH_WIN (R566). -/
def fwuStatHealthWin : Fld := ⟨0x100, 16, 8, .rw, false, 0x3c⟩
/-- FWU_STAT.REMAIN (R566). -/
def fwuStatRemain : Fld := ⟨0x100, 24, 8, .ro, false, 0x0⟩
/-- FWU_LASTEVT.STATUS (R566). -/
def fwuLastevtStatus : Fld := ⟨0x104, 0, 32, .ro, true, 0x0⟩
/-- RLY_ASEL.LACRE (R599). -/
def rlyAselLacre : Fld := ⟨0x100, 0, 6, .rw, false, 0x0⟩
/-- RLY_ASEL.DIE (R599). -/
def rlyAselDie : Fld := ⟨0x100, 6, 2, .rw, false, 0x0⟩
/-- RLY_AMAP.PHYS (R599). -/
def rlyAmapPhys : Fld := ⟨0x104, 0, 7, .ro, true, 0x0⟩
/-- RLY_AMAP.DOUBLED (R599). -/
def rlyAmapDoubled : Fld := ⟨0x104, 7, 1, .ro, true, 0x0⟩
/-- RLY_SPARES.SPARE0 (R599). -/
def rlySparesSpare0 : Fld := ⟨0x108, 0, 3, .ro, true, 0x4⟩
/-- RLY_SPARES.SPARE1 (R599). -/
def rlySparesSpare1 : Fld := ⟨0x108, 8, 3, .ro, true, 0x4⟩
/-- RLY_SPARES.SPARE2 (R599). -/
def rlySparesSpare2 : Fld := ⟨0x108, 16, 3, .ro, true, 0x4⟩
/-- RLY_SPARES.SPARE3 (R599). -/
def rlySparesSpare3 : Fld := ⟨0x108, 24, 3, .ro, true, 0x4⟩
/-- RLY_SPARES.DOUBLED0 (R599). -/
def rlySparesDoubled0 : Fld := ⟨0x108, 3, 3, .ro, true, 0x0⟩
/-- RLY_SPARES.DOUBLED1 (R599). -/
def rlySparesDoubled1 : Fld := ⟨0x108, 11, 3, .ro, true, 0x0⟩
/-- RLY_SPARES.DOUBLED2 (R599). -/
def rlySparesDoubled2 : Fld := ⟨0x108, 19, 3, .ro, true, 0x0⟩
/-- RLY_SPARES.DOUBLED3 (R599). -/
def rlySparesDoubled3 : Fld := ⟨0x108, 27, 3, .ro, true, 0x0⟩
/-- RLY_TESTREQ.ACRE (R599). -/
def rlyTestreqAcre : Fld := ⟨0x10c, 0, 7, .rw, false, 0x0⟩
/-- RLY_TESTREQ.DIE (R599). -/
def rlyTestreqDie : Fld := ⟨0x10c, 7, 2, .rw, false, 0x0⟩
/-- RLY_TESTREQ.ALL (R599). -/
def rlyTestreqAll : Fld := ⟨0x10c, 9, 1, .rw, false, 0x0⟩
/-- RLY_TESTREQ.GO (R599). -/
def rlyTestreqGo : Fld := ⟨0x10c, 10, 1, .wo, false, 0x0⟩
/-- RLY_TESTSTAT.QUEUED (R599). -/
def rlyTeststatQueued : Fld := ⟨0x110, 0, 9, .ro, false, 0x0⟩
/-- RLY_TESTSTAT.NO_SPARE (R599). -/
def rlyTeststatNoSpare : Fld := ⟨0x110, 9, 1, .ro, false, 0x0⟩
/-- RLY_TESTSTAT.LAST_ACRE (R599). -/
def rlyTeststatLastAcre : Fld := ⟨0x110, 16, 7, .ro, false, 0x0⟩
/-- RLY_TESTSTAT.LAST_DIE (R599). -/
def rlyTeststatLastDie : Fld := ⟨0x110, 23, 2, .ro, false, 0x0⟩
/-- RLY_TESTSTAT.RESULT (R599). -/
def rlyTeststatResult : Fld := ⟨0x110, 25, 2, .ro, false, 0x0⟩
/-- RLY_BISTCFG.ACRE_BIST_H (R599). -/
def rlyBistcfgAcreBistH : Fld := ⟨0x114, 0, 12, .rw, false, 0xa8⟩
/-- RLY_HBMRET.STACK (R599). -/
def rlyHbmretStack : Fld := ⟨0x118, 0, 4, .rw, false, 0x0⟩
/-- RLY_HBMRET.SPARES (R599). -/
def rlyHbmretSpares : Fld := ⟨0x118, 4, 7, .ro, true, 0x40⟩
/-- RLY_HBMRET.RETIRED (R599). -/
def rlyHbmretRetired : Fld := ⟨0x118, 16, 16, .ro, true, 0x0⟩
/-- RLY_IMBAL.RATIO (R599). -/
def rlyImbalRatio : Fld := ⟨0x11c, 0, 12, .ro, false, 0x0⟩
/-- RLY_IMBAL.CHANNEL (R599). -/
def rlyImbalChannel : Fld := ⟨0x11c, 12, 7, .ro, false, 0x0⟩
/-- RLY_IMBAL.DIE (R599). -/
def rlyImbalDie : Fld := ⟨0x11c, 19, 2, .ro, false, 0x0⟩
/-- RLY_LOGSEQ_LO.SEQ_LO (R599). -/
def rlyLogseqLoSeqLo : Fld := ⟨0x120, 0, 32, .ro, true, 0x0⟩
/-- RLY_LOGSEQ_HI.SEQ_HI (R599). -/
def rlyLogseqHiSeqHi : Fld := ⟨0x124, 0, 32, .ro, true, 0x0⟩
/-- RLY_CORES.ACTIVE (R599). -/
def rlyCoresActive : Fld := ⟨0x128, 0, 1, .ro, false, 0x0⟩
/-- RLY_CORES.STANDBY (R599). -/
def rlyCoresStandby : Fld := ⟨0x128, 1, 2, .ro, false, 0x0⟩
/-- RLY_CORES.SIGNERS (R599). -/
def rlyCoresSigners : Fld := ⟨0x128, 4, 2, .ro, true, 0x3⟩
/-- RLY_FREEZE.FROZEN (R599). -/
def rlyFreezeFrozen : Fld := ⟨0x130, 0, 1, .ro, false, 0x0⟩
/-- RLY_FREEZE.BY_PIN (R599). -/
def rlyFreezeByPin : Fld := ⟨0x130, 1, 1, .ro, false, 0x0⟩
/-- RLY_FREEZE.BY_CMD (R599). -/
def rlyFreezeByCmd : Fld := ⟨0x130, 2, 1, .ro, false, 0x0⟩
/-- RLY_FREEZE.READOUT (R599). -/
def rlyFreezeReadout : Fld := ⟨0x130, 3, 1, .ro, false, 0x0⟩
/-- RLY_FRZDUR_LO.DUR_LO (R599). -/
def rlyFrzdurLoDurLo : Fld := ⟨0x134, 0, 32, .ro, true, 0x0⟩
/-- RLY_FRZDUR_HI.DUR_HI (R599). -/
def rlyFrzdurHiDurHi : Fld := ⟨0x138, 0, 32, .ro, true, 0x0⟩
/-- BLK_ID.TAG (R611). -/
def blkIdTag : Fld := ⟨0x0, 0, 32, .ro, false, 0x0⟩
/-- BLK_REV.REV (R611). -/
def blkRevRev : Fld := ⟨0x4, 0, 8, .ro, false, 0x0⟩
/-- BLK_REV.INSTANCE (R611). -/
def blkRevInstance : Fld := ⟨0x4, 8, 8, .ro, false, 0x0⟩
/-- BLK_REV.DIE (R611). -/
def blkRevDie : Fld := ⟨0x4, 16, 4, .ro, false, 0x0⟩
/-- BLK_CAPS.IRQ_IMPL (R611). -/
def blkCapsIrqImpl : Fld := ⟨0x8, 0, 16, .ro, false, 0x0⟩
/-- BLK_CAPS.HAS_LASTEVT (R611). -/
def blkCapsHasLastevt : Fld := ⟨0x8, 16, 1, .ro, false, 0x0⟩
/-- BLK_CTRL.IRQ_MASTER (R611). -/
def blkCtrlIrqMaster : Fld := ⟨0xc, 0, 1, .rw, false, 0x1⟩
/-- BLK_CTRL.ERR_CLR (R611). -/
def blkCtrlErrClr : Fld := ⟨0xc, 8, 1, .wo, false, 0x0⟩
/-- BLK_STAT.UNIT (R611). -/
def blkStatUnit : Fld := ⟨0x10, 0, 2, .ro, false, 0x0⟩
/-- BLK_STAT.PWR (R611). -/
def blkStatPwr : Fld := ⟨0x10, 2, 2, .ro, false, 0x0⟩
/-- IRQ_STAT.PEND (R611). -/
def irqStatPend : Fld := ⟨0x14, 0, 16, .w1c, false, 0x0⟩
/-- IRQ_EN.ENABLE (R611). -/
def irqEnEnable : Fld := ⟨0x18, 0, 16, .rw, false, 0x0⟩
/-- IRQ_FORCE.FORCE (R611). -/
def irqForceForce : Fld := ⟨0x1c, 0, 16, .wo, false, 0x0⟩
/-- ERR_CNT.COUNT (R611). -/
def errCntCount : Fld := ⟨0x20, 0, 16, .ro, false, 0x0⟩
/-- ERR_FIRST.OFFSET (R611). -/
def errFirstOffset : Fld := ⟨0x24, 0, 14, .ro, false, 0x0⟩
/-- ERR_LAST.OFFSET (R611). -/
def errLastOffset : Fld := ⟨0x28, 0, 14, .ro, false, 0x0⟩
/-- ERR_FIRST.WRITE (R611). -/
def errFirstWrite : Fld := ⟨0x24, 14, 1, .ro, false, 0x0⟩
/-- ERR_LAST.WRITE (R611). -/
def errLastWrite : Fld := ⟨0x28, 14, 1, .ro, false, 0x0⟩
/-- ERR_FIRST.REQ (R611). -/
def errFirstReq : Fld := ⟨0x24, 16, 4, .ro, false, 0x0⟩
/-- ERR_LAST.REQ (R611). -/
def errLastReq : Fld := ⟨0x28, 16, 4, .ro, false, 0x0⟩
/-- ERR_FIRST.KIND (R611). -/
def errFirstKind : Fld := ⟨0x24, 20, 2, .ro, false, 0x0⟩
/-- ERR_LAST.KIND (R611). -/
def errLastKind : Fld := ⟨0x28, 20, 2, .ro, false, 0x0⟩
/-- ERR_FIRST.VALID (R611). -/
def errFirstValid : Fld := ⟨0x24, 31, 1, .ro, false, 0x0⟩
/-- ERR_LAST.VALID (R611). -/
def errLastValid : Fld := ⟨0x28, 31, 1, .ro, false, 0x0⟩
/-- OWNER.OWNER (R611). -/
def ownerOwner : Fld := ⟨0x2c, 0, 4, .ro, false, 0x0⟩
/-- MOD_CTR_LO.CTR_LO (R621). -/
def modCtrLoCtrLo : Fld := ⟨0x100, 0, 32, .ro, true, 0x0⟩
/-- MOD_CTR_HI.CTR_HI (R621). -/
def modCtrHiCtrHi : Fld := ⟨0x104, 0, 32, .ro, true, 0x0⟩
/-- MOD_EPOCH.EPOCH (R621). -/
def modEpochEpoch : Fld := ⟨0x108, 0, 32, .ro, true, 0x0⟩
/-- MOD_ROLE.REQ (R621). -/
def modRoleReq : Fld := ⟨0x10c, 0, 2, .rw, false, 0x0⟩
/-- MOD_ROLE.CURRENT (R621). -/
def modRoleCurrent : Fld := ⟨0x10c, 4, 2, .ro, false, 0x0⟩
/-- MOD_ROLE.CHANGING (R621). -/
def modRoleChanging : Fld := ⟨0x10c, 8, 1, .ro, false, 0x0⟩
/-- MOD_ROLE.STEP (R621). -/
def modRoleStep : Fld := ⟨0x10c, 9, 3, .ro, false, 0x0⟩
/-- MOD_SERIAL_LO.SER_LO (R622). -/
def modSerialLoSerLo : Fld := ⟨0x110, 0, 32, .ro, false, 0x1⟩
/-- MOD_SERIAL_HI.SER_HI (R622). -/
def modSerialHiSerHi : Fld := ⟨0x114, 0, 32, .ro, false, 0x0⟩
/-- MOD_PINS.MOD_ADDR (R622). -/
def modPinsModAddr : Fld := ⟨0x118, 0, 3, .ro, false, 0x0⟩
/-- MOD_PINS.FREEZE_N (R622). -/
def modPinsFreezeN : Fld := ⟨0x118, 3, 1, .ro, false, 0x0⟩
/-- MOD_PINS.PERST_N (R622). -/
def modPinsPerstN : Fld := ⟨0x118, 4, 4, .ro, false, 0x0⟩
/-- MOD_ALERT.ASSERTED (R622). -/
def modAlertAsserted : Fld := ⟨0x11c, 0, 1, .ro, false, 0x0⟩
/-- MOD_ALERT.CLEAR (R622). -/
def modAlertClear : Fld := ⟨0x11c, 1, 1, .wo, false, 0x0⟩
/-- MOD_ALERT.SEV_MIN (R622). -/
def modAlertSevMin : Fld := ⟨0x11c, 4, 2, .rw, false, 0x2⟩
/-- MOD_IRQ.HG (R623). -/
def modIrqHg : Fld := ⟨0x120, 0, 16, .ro, false, 0x0⟩
/-- MOD_IRQ.FD (R623). -/
def modIrqFd : Fld := ⟨0x120, 16, 4, .ro, false, 0x0⟩
/-- FDC_IRQ_DIE.DIE (R623). -/
def fdcIrqDieDie : Fld := ⟨0x100, 0, 16, .ro, false, 0x0⟩
/-- FDC_IRQ_A0.ACRES (R623). -/
def fdcIrqA0Acres : Fld := ⟨0x104, 0, 32, .ro, false, 0x0⟩
/-- FDC_IRQ_A1.ACRES (R623). -/
def fdcIrqA1Acres : Fld := ⟨0x108, 0, 32, .ro, false, 0x0⟩
/-- FDC_IRQ_A2.ACRES (R623). -/
def fdcIrqA2Acres : Fld := ⟨0x10c, 0, 4, .ro, false, 0x0⟩

/-- PHYSk of FRW_MAPn (R89): the macro of logical macro 4n + k, reset 4n + k without factory repair. -/
def frwMap (lm : Nat) : Fld := ⟨0x100 + 4 * (lm / 4), 8 * (lm % 4), 7, .ro, true, lm⟩
/-- CRS_CBn (R288). -/
def crsCb (n : Nat) : Fld := ⟨0x100 + 4 * n, 0, 32, .ro, false, 0⟩

/-- Default counts and SCALE of WAKE_TABLE entries 0 to 11 (R494, R495): STEP0 to STEP4, SCALE. -/
def wakeDefault : List (List Nat) :=
  [[0, 0, 0, 0, 1, 0],
   [100, 25, 50, 75, 50, 0],
   [200, 25, 50, 15, 10, 1],
   [0, 0, 0, 0, 1, 0],
   [50, 25, 50, 0, 0, 0],
   [25, 100, 0, 0, 0, 0],
   [3, 3, 35, 0, 0, 0],
   [125, 5, 0, 0, 0, 0],
   [400, 200, 600, 200, 200, 3],
   [40, 80, 80, 0, 0, 3],
   [50, 25, 0, 0, 0, 0],
   [25, 5, 0, 0, 0, 0]]

/-- STEPk of WAKE_TABLE entry n (R495). -/
def wakeStep (n k : Nat) : Fld :=
  ⟨0x200 + 8 * n + 4 * (k / 3), 10 * (k % 3), 10, .rw, false, ((wakeDefault.getD n []).getD k 0)⟩
/-- SCALE of WAKE_TABLE entry n (R495). -/
def wakeScale (n : Nat) : Fld := ⟨0x204 + 8 * n, 20, 2, .ro, false, ((wakeDefault.getD n []).getD 5 0)⟩

end Sys2Proof.Machine.F

namespace Sys2Proof.Machine

/-- Fields of the FRW block. -/
def fieldsFrw : List Fld :=
    [F.frwRetiredLoRetLo, F.frwRetiredHiRetHi, F.frwSpareRetSp, F.frwSpareSparesLeft, F.frwEvtTransients, F.frwEvtLasting, F.frwLastevtStatus, F.frwProbeLmacro, F.frwProbeStatSetA, F.frwProbeStatSetB, F.frwProbeStatCset, F.frwProbeStatFmtA]
    ++ [F.frwProbeStatFmtB, F.frwProbeStatRows, F.frwProbeStatPhys, F.frwPassLoPassLo, F.frwPassHiPassHi, F.frwSptestIntervalLog2, F.frwSptestRun, F.frwSptestFail, F.frwSptestBusy]
    ++ (List.range 64).map F.frwMap
/-- Fields of the ACR block. -/
def fieldsAcr : List Fld :=
    [F.acrAccstatAcc0State, F.acrAccstatAcc0Exp, F.acrAccstatAcc1State, F.acrAccstatAcc1Exp, F.acrSpillRepeat1, F.acrSpillRepeat2, F.acrSpillFaults, F.acrStallLoStallLo, F.acrStallHiStallHi, F.acrAtomicSat, F.acrRouteMaxLoad, F.acrRouteMaxExpert]
    ++ [F.acrRouteK, F.acrLastevtStatus]
/-- Fields of the CST block. -/
def fieldsCst : List Fld :=
    [F.cstCfgTrimDt, F.cstCfgRefEveryLog2, F.cstCfgClipWinLog2, F.cstCfgClipLimit, F.cstBselBasin, F.cstBselPlot, F.cstBselDie, F.cstBselStack, F.cstBselConv, F.cstBstatState, F.cstBstatFormat, F.cstBstatRangeS]
    ++ [F.cstBstatLowered, F.cstBstatThrottled, F.cstBstatOwner, F.cstBstatCold, F.cstBstatGroup, F.cstBclipWinSplits, F.cstBclipWindows, F.cstBtrimGain, F.cstBtrimOffset, F.cstBtrimTk, F.cstSplitsLoSplitsLo, F.cstSplitsHiSplitsHi]
    ++ [F.cstThermHottest, F.cstThermThrottled, F.cstLoweredCount, F.cstColdLoColdLo, F.cstColdHiColdHi, F.cstLastevtStatus, F.cstCalcfgBaseH, F.cstCalcfgMinH, F.cstCalcfgHotC, F.cstCalcfgMirrorMax, F.cstMoncfgRefMean, F.cstMoncfgRefRms]
    ++ [F.cstMoncfgNearLog2, F.cstMoncfgCellWarn, F.cstBcalUnusable, F.cstBcalOffgrid, F.cstBcalAgeH, F.cstBcalOverdue, F.cstBcalQueued, F.cstBcalUnbound, F.cstSparesMinFree, F.cstSparesMinDie, F.cstSparesMinStack, F.cstSparesReserve]
    ++ [F.cstProgProgramming, F.cstProgMirroring]
/-- Fields of the SPH block. -/
def fieldsSph : List Fld :=
    [F.sphProdLoProdLo, F.sphProdHiProdHi, F.sphLentLoLentLo, F.sphLentHiLentHi, F.sphLanesInService, F.sphLanesTransients, F.sphLselSlot, F.sphLdensDensity, F.sphLdensStepTime, F.sphLmaxrowMaxNent, F.sphSatSat, F.sphLastevtStatus]
/-- Fields of the SCR block. -/
def fieldsScr : List Fld :=
    [F.scrElemLoElemLo, F.scrElemHiElemHi, F.scrNzLoNzLo, F.scrNzHiNzHi, F.scrDenseDense]
/-- Fields of the TNS block. -/
def fieldsTns : List Fld :=
    [F.tnsCfgWinLog2, F.tnsCfgMissLog2, F.tnsCfgAuditLog2, F.tnsLselSlot, F.tnsLstatState, F.tnsLstatActr, F.tnsLstatLayer, F.tnsLstatOwner, F.tnsLstatTrips, F.tnsLwinAudits, F.tnsLwinMisses, F.tnsLskipLoSkipLo]
    ++ [F.tnsLskipHiSkipHi, F.tnsLateLate, F.tnsLastevtStatus]
/-- Fields of the CRS block. -/
def fieldsCrs : List Fld :=
    [F.crsStatRun, F.crsStatPend, F.crsStatParking, F.crsStatKind, F.crsStatHolding, F.crsStatRedIt, F.crsRunIdId, F.crsPendIdId, F.crsDoneLoDoneLo, F.crsDoneHiDoneHi, F.crsRefusedRefused, F.crsRefusedFaults]
    ++ [F.crsLastevtStatus, F.crsGatecfgTimeoutLog2]
    ++ (List.range 16).map F.crsCb
/-- Fields of the ITK block. -/
def fieldsItk : List Fld :=
    [F.itkImgAccepted, F.itkImgRefused, F.itkIssueLoIssueLo, F.itkIssueHiIssueHi, F.itkLastStatus, F.itkLastlocIndex, F.itkLastlocItem, F.itkLastoffOffset]
/-- Fields of the SPD block. -/
def fieldsSpd : List Fld :=
    [F.spdSluiceBank, F.spdSluiceTo, F.spdSluiceCirc, F.spdSluiceGo, F.spdSluiceResult, F.spdOwnersOwner0, F.spdOwnersOwner1, F.spdOwnersOwner2, F.spdOwnersOwner3, F.spdOwnersOwner4, F.spdOwnersOwner5, F.spdOwnersOwner6]
    ++ [F.spdOwnersOwner7, F.spdOwnersCirc0, F.spdOwnersCirc1, F.spdOwnersCirc2, F.spdOwnersCirc3, F.spdOwnersCirc4, F.spdOwnersCirc5, F.spdOwnersCirc6, F.spdOwnersCirc7, F.spdRetainRetainMask, F.spdCircBank, F.spdCircRptr]
    ++ [F.spdCircWptr, F.spdCircEmpty, F.spdCircFull, F.spdTselTask, F.spdTselPair, F.spdTbaseBase, F.spdTboundBound, F.spdTboundR, F.spdTboundW, F.spdTboundValid, F.spdEccCorrected, F.spdEccUncorr]
    ++ [F.spdEccPoisoned, F.spdScrubIntervalLog2, F.spdScrubPasses, F.spdDeferLoDeferLo, F.spdDeferHiDeferHi, F.spdColspareLeft0, F.spdColspareLeft1, F.spdColspareLeft2, F.spdColspareLeft3, F.spdColspareLeft4, F.spdColspareLeft5, F.spdColspareLeft6]
    ++ [F.spdColspareLeft7, F.spdBistBank, F.spdBistRun, F.spdBistBusy, F.spdBistPass, F.spdBistFailcol, F.spdGateAlloc, F.spdGateFull, F.spdLastevtStatus]
/-- Fields of the RSV block. -/
def fieldsRsv : List Fld :=
    [F.rsvLockLockedMib, F.rsvMissLoMissLo, F.rsvMissHiMissHi, F.rsvEccCorrected, F.rsvEccUncorr, F.rsvGateAlloc, F.rsvLastevtStatus]
/-- Fields of the KVC block. -/
def fieldsKvc : List Fld :=
    [F.kvcAppendLoAppendLo, F.kvcAppendHiAppendHi, F.kvcRescaleRescale, F.kvcFramesFrames, F.kvcExportExport, F.kvcImportImport, F.kvcFaultsMapInvalid, F.kvcFaultsImportRefused, F.kvcLastevtStatus]
/-- Fields of the RNG block. -/
def fieldsRng : List Fld :=
    [F.rngCfgSkewLimit, F.rngCfgMatchEn, F.rngCfgIdleFence, F.rngStatMode, F.rngStatBreak, F.rngStatCfgNo, F.rngStatVcBusy, F.rngLanesESpares, F.rngLanesERetired, F.rngLanesWSpares, F.rngLanesWRetired, F.rngLanesReplays]
    ++ [F.rngFenceLoFenceLo, F.rngFenceHiFenceHi, F.rngSkewSum, F.rngSkewLateDie, F.rngSkewFences, F.rngMatchActive, F.rngMatchSlowDie, F.rngMatchFreq, F.rngTxLoTxLo, F.rngTxHiTxHi, F.rngSatSat, F.rngSatBroken]
    ++ [F.rngLastevtStatus]
/-- Fields of the STR block. -/
def fieldsStr : List Fld :=
    [F.strCfgDoneHoldLog2, F.strCfgSweepMax, F.strHselHolding, F.strShr0Streams, F.strShr1Slots, F.strShr1Power, F.strShr2Pages, F.strShr3Plots, F.strShr3BudgetEn, F.strShr3HardBudget, F.strBudgetLoBalLo, F.strBudgetHiBalHi]
    ++ [F.strCreditLoCrLo, F.strCreditHiCrHi, F.strUse0Streams, F.strUse0Slots, F.strUse1Pages, F.strUse1Plots, F.strActiveActive, F.strActivePrompt, F.strActiveClosed, F.strMissLoMissLo, F.strMissHiMissHi, F.strEvtRefused]
    ++ [F.strEvtParks, F.strLastshrStatus]
/-- Fields of the TLY block. -/
def fieldsTly : List Fld :=
    [F.tlyStatOpenRecs, F.tlyStatQueue, F.tlyStatSigning, F.tlyStatJournalA, F.tlyStatJournalB, F.tlyStatHalted, F.tlyStatBottomReady, F.tlyStatUnclean, F.tlySeqLoSeqLo, F.tlySeqHiSeqHi, F.tlyResLoResLo, F.tlyResHiResHi]
    ++ [F.tlyEinLoEinLo, F.tlyEinHiEinHi, F.tlyClampClamps, F.tlyClampNegres, F.tlyCoefInForce, F.tlyCoefInstalled, F.tlyLastevtStatus]
/-- Fields of the DRD block. -/
def fieldsDrd : List Fld :=
    [F.drdCapBmcCap, F.drdCapEffective, F.drdCapLimit, F.drdCapUnreach, F.drdLevelLevel, F.drdLevelDeepReq, F.drdLevelPending, F.drdLevelAutoWake, F.drdLevelIdleDelay, F.drdPowerP10us, F.drdPowerP1ms, F.drdExcurTimer]
    ++ [F.drdExcurEmerg, F.drdCistBudget, F.drdCistInForce, F.drdFloorComputeFloor, F.drdFloorSlowGap, F.drdTrickleEntries, F.drdTrickleLongest, F.drdLastevtEvent, F.drdLastevtClass, F.drdLastevtIndex]
    ++ (List.range 12).flatMap (fun n => (List.range 5).map (F.wakeStep n) ++ [F.wakeScale n])
/-- Fields of the DPW block. -/
def fieldsDpw : List Fld :=
    [F.dpwStatFreq, F.dpwStatVolt, F.dpwStatCause, F.dpwAselAcre, F.dpwAstatState, F.dpwAstatSpare, F.dpwAstatLifeFmax, F.dpwAstatFusedFmax, F.dpwAstatGuard, F.dpwThermHotAcre, F.dpwThermHotHbm, F.dpwThermHbmLimit]
    ++ [F.dpwDroopStretch, F.dpwDroopEmerg, F.dpwCistAllot, F.dpwCistUsed]
/-- Fields of the HQ block. -/
def fieldsHq : List Fld :=
    [F.hqQselQp, F.hqSqbLoBaseLo, F.hqCqbLoBaseLo, F.hqSqbHiBaseHi, F.hqCqbHiBaseHi, F.hqQcfgDepth, F.hqQcfgVector, F.hqQcfgBusy, F.hqQcfgEn, F.hqCoalCoalN, F.hqCoalCoalT, F.hqLdbLoBaseLo]
    ++ [F.hqLdbHiBaseHi, F.hqLcfgSize4k, F.hqLcfgVector, F.hqLcfgEn, F.hqStatDropped, F.hqStatBadDoorbell, F.hqStatReadFail, F.hqIrqcfgVector]
/-- Fields of the FLM block. -/
def fieldsFlm : List Fld :=
    [F.flmCfgPfcEn, F.flmCfgPrio, F.flmStatLink, F.flmStatChannels, F.flmRetxRetx, F.flmRetxCrcDrops, F.flmRetxAbandoned, F.flmTxLoTxLo, F.flmTxHiTxHi]
/-- Fields of the CHT block. -/
def fieldsCht : List Fld :=
    [F.chtLifeLifecycle, F.chtLifeOwnerActive, F.chtLifeVendorRevoke, F.chtLifeDebug, F.chtLifeFreeze, F.chtLifeHoldings, F.chtLifeIdeReq, F.chtLifeUdsLocked, F.chtLifeRecovery, F.chtLifeTapOpen, F.chtSvnSvnHg, F.chtSvnSvnFd]
    ++ [F.chtSvnSvnCc]
/-- Fields of the FWU block. -/
def fieldsFwu : List Fld :=
    [F.fwuStatCommitted, F.fwuStatSlotA, F.fwuStatSlotB, F.fwuStatStandbyReady, F.fwuStatPhase, F.fwuStatHealthWin, F.fwuStatRemain, F.fwuLastevtStatus]
/-- Fields of the RLY block. -/
def fieldsRly : List Fld :=
    [F.rlyAselLacre, F.rlyAselDie, F.rlyAmapPhys, F.rlyAmapDoubled, F.rlySparesSpare0, F.rlySparesSpare1, F.rlySparesSpare2, F.rlySparesSpare3, F.rlySparesDoubled0, F.rlySparesDoubled1, F.rlySparesDoubled2, F.rlySparesDoubled3]
    ++ [F.rlyTestreqAcre, F.rlyTestreqDie, F.rlyTestreqAll, F.rlyTestreqGo, F.rlyTeststatQueued, F.rlyTeststatNoSpare, F.rlyTeststatLastAcre, F.rlyTeststatLastDie, F.rlyTeststatResult, F.rlyBistcfgAcreBistH, F.rlyHbmretStack, F.rlyHbmretSpares]
    ++ [F.rlyHbmretRetired, F.rlyImbalRatio, F.rlyImbalChannel, F.rlyImbalDie, F.rlyLogseqLoSeqLo, F.rlyLogseqHiSeqHi, F.rlyCoresActive, F.rlyCoresStandby, F.rlyCoresSigners, F.rlyFreezeFrozen, F.rlyFreezeByPin, F.rlyFreezeByCmd]
    ++ [F.rlyFreezeReadout, F.rlyFrzdurLoDurLo, F.rlyFrzdurHiDurHi]
/-- Fields of the common header. -/
def fieldsHdr : List Fld :=
    [F.blkIdTag, F.blkRevRev, F.blkRevInstance, F.blkRevDie, F.blkCapsIrqImpl, F.blkCapsHasLastevt, F.blkCtrlIrqMaster, F.blkCtrlErrClr, F.blkStatUnit, F.blkStatPwr, F.irqStatPend, F.irqEnEnable]
    ++ [F.irqForceForce, F.errCntCount, F.errFirstOffset, F.errLastOffset, F.errFirstWrite, F.errLastWrite, F.errFirstReq, F.errLastReq, F.errFirstKind, F.errLastKind, F.errFirstValid, F.errLastValid]
    ++ [F.ownerOwner]
/-- Fields of the MOD block. -/
def fieldsMod : List Fld :=
    [F.modCtrLoCtrLo, F.modCtrHiCtrHi, F.modEpochEpoch, F.modRoleReq, F.modRoleCurrent, F.modRoleChanging, F.modRoleStep, F.modSerialLoSerLo, F.modSerialHiSerHi, F.modPinsModAddr, F.modPinsFreezeN, F.modPinsPerstN]
    ++ [F.modAlertAsserted, F.modAlertClear, F.modAlertSevMin, F.modIrqHg, F.modIrqFd]
/-- Fields of the FDC block. -/
def fieldsFdc : List Fld :=
    [F.fdcIrqDieDie, F.fdcIrqA0Acres, F.fdcIrqA1Acres, F.fdcIrqA2Acres]

/-- The fields of a block above the common header. -/
def fieldsOf : BlkTag → List Fld
  | .mod => fieldsMod | .cht => fieldsCht | .fwu => fieldsFwu | .rly => fieldsRly | .drd => fieldsDrd
  | .tly => fieldsTly | .str => fieldsStr | .itk => fieldsItk | .flm => fieldsFlm | .hq => fieldsHq
  | .fdc => fieldsFdc | .cst => fieldsCst | .sph => fieldsSph | .scr => fieldsScr | .tns => fieldsTns
  | .rsv => fieldsRsv | .kvc => fieldsKvc | .rng => fieldsRng | .dpw => fieldsDpw
  | .frw => fieldsFrw | .acr => fieldsAcr | .crs => fieldsCrs | .spd => fieldsSpd

end Sys2Proof.Machine
end

