-- ==== Sys2Proof/Machine/State.lean ====
section
/-!
DEFINITION. The state of the DLG-9600 as plain data, the reasons a step can stop, and the state after reset.
Every structure names the rules of spec/ that give it.
-/

namespace Sys2Proof.Machine

/-! ### Furrow macros and acres (chapters 2 and 3) -/

/-- States of a weight set (R69). -/
inductive SetState | empty | loading | ready | active
  deriving DecidableEq, Repr

/-- One weight set of a macro (R47, R50, R51): its rows as written, and the tile it holds
(serial of the course run, weight tile number of the walk). -/
structure WSet where
  st    : SetState := .empty
  int4  : Bool := false
  rows  : NatMap (BitVec 512) := []
  tile  : Option (Nat × Nat) := none
  deriving DecidableEq, Repr

/-- One logical macro of an acre: both weight sets, the set of the latest pass (CSET), the rows written by the
latest load (ROWS), and the acre cycle counts of its transient events (R83). -/
structure Macro where
  a    : WSet := {}
  b    : WSet := {}
  cset : Bool := false
  rows : Nat := 0
  transients : List Nat := []
  deriving DecidableEq, Repr

/-- A pass round in flight (R59): the weight set (true: B), the accumulator (true: ACC1), the fill and tile, the
token of the tile, the input vectors as applied by logical macro, the outputs of macros whose compare matched,
and the macros in residue repeat. -/
structure Round where
  setB : Bool := false
  acc  : Bool := false
  fill : Nat := 0
  tile : Nat := 0
  tok  : Nat := 0
  xs   : List (List Int) := []
  outs : NatMap (List Int) := []
  bad  : List Nat := []
  compared : Bool := false
  deriving DecidableEq, Repr

/-- States of an output-tile accumulator (R100). -/
inductive AccState | idle | preload | ready | fill | drain | repeatFill
  deriving DecidableEq, Repr

/-- One output-tile accumulator (R97 to R101): state, exponent e, exponent e_src of its PARTIAL preload (R106),
the entries (unlisted ones are 0), the fill it serves, the pass rounds of the fill issued and committed so far. -/
structure Acc where
  st    : AccState := .idle
  e     : Nat := 0
  eSrc  : Nat := 0
  ents  : NatMap Int := []
  fill  : Nat := 0
  issued : Nat := 0
  commits : Nat := 0
  deriving DecidableEq, Repr

/-- Power states of an acre (R490). -/
inductive AcrePw | flow | still | dry | fallow
  deriving DecidableEq, Repr

/-- Bank owners (R301), coded as the TO field. -/
inductive BankOwner | none_ | seq | mgmt | test
  deriving DecidableEq, Repr

/-- One scratchpad bank (R301, R309): owner, circular mode, ring pointers and fill in 64-bit words. -/
structure BankSt where
  owner : BankOwner := .seq
  circ  : Bool := false
  rptr  : Nat := 0
  wptr  : Nat := 0
  cnt   : Nat := 0
  deriving DecidableEq, Repr

/-- A base/bound pair (R306), in bytes. -/
structure Pair where
  base  : Nat := 0
  bound : Nat := 0
  r     : Bool := false
  w     : Bool := false
  valid : Bool := false
  deriving DecidableEq, Repr

/-- Activity counts of one course or collective (R435, R436): the key is field die × 16 + activity class. -/
abbrev Activity := NatMap Nat

/-- A course in a slot of an acre or in a Cistern controller (R94, R252, R253): its issue, descriptor as
relocated, bounds B_k and CB bank fixed at issue (R273), the position of its walk (R261), the histogram of a
routing operation (R128), and the streams of an ATTEND course with their part of its work (R436). -/
structure CourseRun where
  sn      : Nat := 0
  issue   : Issue := {}
  holding : Nat := 15
  desc    : List Byte := []
  bounds  : List Nat := []
  startCtr : Nat := 0
  tile    : Nat := 0
  nextFill : Nat := 0
  drained : Nat := 0
  yielding : Bool := false
  yielded : Bool := false
  replaced : Bool := false
  spillExp : Nat := 0
  spillTiles : Nat := 0
  code    : Nat := 0
  act     : Activity := []
  hist    : NatMap Nat := []
  shares  : List (Nat × Nat) := []
  deriving DecidableEq, Repr

/-- A pending atomic add of a drain (R113): format FP32 or INT32, target address, value. -/
structure AtomicAdd where
  fp   : Bool := false
  addr : Nat := 0
  val  : Word := 0
  deriving DecidableEq, Repr

/-- One physical acre. `soft` holds the running softmax (m, l, latest alpha) of each row that the Lateral engine
carries (R126). -/
structure Acre where
  pw      : AcrePw := .fallow
  macros  : NatMap Macro := []
  rounds  : List Round := []
  held    : Bool := false
  acc0    : Acc := {}
  acc1    : Acc := {}
  run     : Option CourseRun := none
  pend    : Option CourseRun := none
  aside   : Option CourseRun := none
  extra   : List CourseRun := []
  atomics : List AtomicAdd := []
  banks   : NatMap BankSt := []
  sluice  : Option (Nat × BankOwner × Bool) := none
  pairs   : NatMap Pair := []
  bist    : Option Nat := none
  poison  : NatMap Bool := []
  colErr  : NatMap (List Nat) := []
  wordErr : NatMap (List Nat) := []
  colRepair : List (Nat × Nat) := []
  spadCorr : NatMap Nat := []
  soft    : NatMap (Word × Word × Word) := []
  wbPend  : List Nat := []
  scrubLine : Nat := 0
  spadLogged : NatMap Nat := []
  spTest  : Nat := 0
  spFails : NatMap Nat := []
  retired : Bool := false
  life    : Nat := 1200
  fused   : Nat := 1200
  guard   : Nat := 0
  wake    : Option Nat := none
  latTrans : List Nat := []
  accTrans : List Nat := []
  seqTrans : List Nat := []
  seqRep  : Option Nat := none
  bistAge : Nat := 0
  testedAt : Nat := 0
  fresh   : Nat := 255
  deriving DecidableEq, Repr

/-- Gate entry of a chain slot (R316). -/
structure Gate where
  full : Bool := false
  cnt  : Nat := 0
  deriving DecidableEq, Repr

/-- The completion record that an executor or the ring sends to the issuer (R521); `pred` where a basin pass skipped a
neuron (R240), `shares` the streams that an ATTEND course names, with their part of its work (R427, R436). -/
structure CourseRec where
  issue   : Issue := {}
  coll    : Bool := false
  holding : Nat := 15
  exec    : Nat := 0
  status  : Word := 0
  spillExp : Nat := 0
  spillTiles : Nat := 0
  startCtr : Nat := 0
  endCtr  : Nat := 0
  act     : Activity := []
  pred    : Bool := false
  shares  : List (Nat × Nat) := []
  deriving DecidableEq, Repr

/-! ### Images and the Intake (chapters 5 and 7) -/

/-- A region of an accepted image (R247, R650): region number, kind (true: reservoir-resident), field die, hash key,
base address, size, initial data. -/
structure Region where
  num  : Nat
  res  : Bool
  die  : Nat
  hkey : Nat
  base : Nat := 0
  size : Nat
  init : Bool := false
  dataOff : Nat := 0
  dataLen : Nat := 0
  deriving DecidableEq, Repr

/-- An entry of the chain table (R276), its LOC relocated. -/
structure Chain where
  loc    : Nat
  bytes  : Nat
  slots  : Nat
  gather : Bool
  fmt    : Nat
  producer : Nat
  ncons  : Nat
  consumers : List Nat
  deriving DecidableEq, Repr

/-- Image states (R177). -/
inductive ImageState | staging | programming | ready | active | releasing | refused
  deriving DecidableEq, Repr

/-- A tensor's outlier or repair list (R208 to R214): where its header lies, whether it is marked bad (R224). -/
structure SiphonList where
  addr : Nat
  bad  : Bool := false
  deriving DecidableEq, Repr

/-- An image of the module (R175 to R179, R246 to R250): the staged bytes not yet consumed, what the Intake took from
the control part at acceptance (sections as type, offset, length; `storeRuns` the page runs of regions and stores as
first page key and count), and its progress: `arrived` bytes, `freed` bytes no longer in the ring, records taken
(`nrec`) and programmed, the digests of records that are programmed, the ring's size and pages. -/
structure Image where
  handle  : Nat
  owner   : Nat
  st      : ImageState := .staging
  mask    : Nat := 0
  size    : Nat := 0
  ctl     : NatMap Byte := []
  arrived : Nat := 0
  accepted : Bool := false
  roles   : Nat := 0
  layers  : Nat := 0
  ctxP    : Nat := 0
  kvhd    : Nat := 0
  kvd     : Nat := 0
  name    : List Byte := []
  kvmodel : List Byte := []
  digest  : List Byte := []
  regions : List Region := []
  plots   : List (Nat × Nat) := []
  plotFmt : List Nat := []
  copies  : List (List Byte) := []
  chains  : List Chain := []
  courses : List (List Byte) := []
  colls   : List (List Byte) := []
  sip     : List SiphonList := []
  pages   : Nat := 0
  programmed : Nat := 0
  status  : Word := 0
  ring    : Nat := 0
  ringList : List Nat := []
  cleared : Bool := false
  freed   : Nat := 0
  ctlEnd  : Nat := 0
  sects   : List (Nat × Nat × Nat) := []
  nrec    : Nat := 0
  recDone : List (List Byte) := []
  storeRuns : List (Nat × Nat) := []
  channel : Option Nat := none
  deriving DecidableEq, Repr

/-! ### Cistern (chapters 4 and 5) -/

/-- A converter's trim (R157): gain, offset in codes, temperature coefficient, temperature T_k; FP32. -/
structure Trim where
  g : Word := 0x3F800000
  o : Word := 0
  alpha : Word := 0
  t : Word := 0
  deriving DecidableEq, Repr

/-- One reference slot (R158): REF_B or REF_A, conducting rows, the 16 codes, the plot temperature. -/
structure RefSlot where
  refB : Bool
  n    : Nat
  codes : List (BitVec 8)
  temp : Nat
  deriving DecidableEq, Repr

/-- Basin states (CST_BSTAT.STATE, R168). -/
inductive BasinState | unprog | service | mirrored | retired | spareFree | spareIn
  deriving DecidableEq, Repr

/-- A swap that is armed (R197): the spare stands in, or the original returns. -/
inductive Swap | bringIn | bringBack
  deriving DecidableEq, Repr

/-- One basin: cells, basin map entry (R172), trims, monitors and the procedures that run on it. The key of a cell
is row × 518 + column: columns 0 to 511 weights, 512 REF_A, 513 REF_B, 514 to 517 CHK0 to CHK3 (R170, R180). -/
structure Basin where
  st      : BasinState := .unprog
  owner   : Nat := 15
  image   : Option Nat := none
  group   : Nat := 0xFFFF
  int8    : Bool := false
  s       : Nat := 0
  lowered : Bool := false
  levels  : NatMap Nat := []
  target  : NatMap Nat := []
  pins    : NatMap Nat := []
  wear    : NatMap Nat := []
  offgrid : Bool := false
  digest  : List Byte := []
  programming : Bool := false
  row     : Nat := 0
  trims   : NatMap Trim := []
  newTrims : Option (NatMap Trim) := none
  refs    : List RefSlot := []
  refCnt  : Nat := 0
  refB    : Bool := false
  burst   : Nat := 0
  refDue  : List Nat := []
  winGroups : Nat := 0
  winSplits : Nat := 0
  winCarry : Nat := 0
  windows : Nat := 0
  nearConv : Nat := 0
  nearHits : Nat := 0
  mon1    : Nat := 0
  worn    : NatMap Nat := []
  intended : NatMap Nat := []
  ageH    : Nat := 0
  ageFrom : Nat := 0
  overdue : Bool := false
  queued  : Bool := false
  recal   : Bool := false
  standIn : Option Nat := none
  home    : Option Nat := none
  armed   : Option Swap := none
  deferred : Bool := false
  retireDue : Bool := false
  overdueN : Nat := 0
  deriving DecidableEq, Repr

/-- A calibration request of a plot (R201, R202): requester (holding, or 15), basins left, counts. -/
structure CalReq where
  by_  : Nat
  qp   : Nat := 0
  left : List Nat
  done : Nat := 0
  unusable : Nat := 0
  retired : Nat := 0
  deriving DecidableEq, Repr

/-- States of an allocable plot (R175, R179). -/
inductive PlotState | free | bound | releasing
  deriving DecidableEq, Repr

/-- One plot: owner, image and logical plot, latest reading in 0.125 °C, the powered hour's mean (R196), the rate
limit in eighths (R161), programming hold (R183), whether PLOT_THROTTLED was reported this second, requests. -/
structure Plot where
  st      : PlotState := .free
  owner   : Nat := 15
  image   : Option Nat := none
  lplot   : Nat := 0
  temp    : Nat := 0
  hour    : Nat := 0
  hourSum : Nat := 0
  hourCnt : Nat := 0
  hourMean : Nat := 0
  limit   : Nat := 0
  reported : Nat := 0
  progHold : Bool := false
  reqs    : List CalReq := []
  deriving DecidableEq, Repr

/-- A predicted-inactive neuron of a basin pass (R232): its gate and up channels in the group. -/
structure Neuron where
  gate : Nat
  up   : Nat
  deriving DecidableEq, Repr

/-- A BASIN course in a Cistern controller (R253). Of the tile that it is at: the next token, the routed sums by
token × 512 + channel, the pass that waits with its mask (R162), the audits to be judged once the tile is merged
(token, gate channel, threshold; R236), and whether the tile waits for its Siphon correction (R209). -/
structure BasinRun where
  c       : CourseRun
  tok     : Nat := 0
  sums    : NatMap Int := []
  paused  : Bool := false
  mask    : Option (List Neuron) := none
  theta   : Int := 0
  audits  : List (Nat × Nat × Int) := []
  corr    : Bool := false
  used    : Bool := false
  deriving DecidableEq, Repr

/-- What a correction step serves (R209, R210): a tile of a BASIN course of the die, by serial of its run, or a fill
of a MATMUL course of an acre. -/
inductive CorrFor
  | basin (sn : Nat)
  | fill (g : Nat) (sn : Nat) (f : Nat)
  deriving DecidableEq, Repr

/-- A channel of a list segment (R211): its number and its entries (row, value). -/
structure ListChan where
  ch   : Nat
  ents : List (Nat × Int)
  deriving DecidableEq, Repr

/-- A correction step that the lanes of a die walk (R216 to R221): the channels that each lane still has, the
borrowed chunks by borrowing lane (owner, chunk), the chunks of a lane's current channel that others took, and the
corrections sent, by channel. -/
structure CorrStep where
  for_  : CorrFor
  left  : NatMap (List ListChan) := []
  lent  : NatMap (Nat × Nat) := []
  taken : NatMap (List Nat) := []
  sent  : NatMap (List Int) := []
  deriving DecidableEq, Repr

/-- One layer slot of a field die (R241): the layer it is assigned to, the state of its predictor, what becomes of it
at the next fence or step boundary (R237 to R239), the audit window (R236), and its correction load (R243). -/
structure LSlot where
  image  : Nat := 0
  layer  : Nat := 0
  owner  : Nat := 15
  used   : Bool := false
  pred   : Bool := false
  tripped : Bool := false
  off    : Bool := false
  tripDue : Bool := false
  fired  : Bool := false
  rearmDue : Bool := false
  offDue : Option Bool := none
  actr   : Nat := 0
  audits : Nat := 0
  misses : Nat := 0
  trips  : Nat := 0
  skips  : Nat := 0
  winLog : Nat := 16
  missLog : Nat := 8
  dens   : Nat := 0
  time   : Nat := 0
  maxNent : Nat := 0
  last   : Option (Work × Nat) := none
  deriving DecidableEq, Repr

/-- A repair entry of a layer (R190, R214): image, basin, input row, output channel, residual; new entries
take effect, and superseded ones (`gone`) end, at the next step boundary. `basin` is the physical basin. -/
structure Repair where
  image : Nat
  basin : Nat
  row   : Nat
  chan  : Nat
  val   : Int
  live  : Bool := false
  gone  : Bool := false
  deriving DecidableEq, Repr

/-- The Cistern: basins by basin index, plots by the upper 13 bits, and per field die the BASIN courses in issue
order; Cistern dies that logged BASIN_SPARES_LOW; repair entries; basins queued for recalibration. The Siphon: the correction
step that lanes walk, by die, the layer slots by die × 1024 + slot, retired lanes and the cycles of lane transients by
die × 16384 + lane; the counter of each Cistern die's latest spare test (R195). -/
structure Cistern where
  basins  : NatMap Basin := []
  plots   : NatMap Plot := []
  runs    : NatMap (List BasinRun) := []
  lowLogged : List Nat := []
  repairs : List Repair := []
  queue   : List Nat := []
  steps   : NatMap CorrStep := []
  lslots  : NatMap LSlot := []
  lanesOut : List Nat := []
  laneTrans : NatMap (List Nat) := []
  spareTests : NatMap Nat := []
  deriving DecidableEq, Repr

/-! ### Acre replacement and swaps (chapter 16) -/

/-- Why a logical acre changes its physical acre (R574 to R577, R473). -/
inductive SwapWhy | fault | rotation | request | slow
  deriving DecidableEq, Repr

/-- Phases of a replacement: the spare wakes, the running course completes (planned swaps), the copy runs. -/
inductive SwapPhase | waking | waiting | copying
  deriving DecidableEq, Repr

/-- A replacement or planned swap in progress: old and new physical acre. -/
structure SwapJob where
  old   : Nat
  new   : Nat
  why   : SwapWhy
  phase : SwapPhase := .waking
  deriving DecidableEq, Repr

/-! ### Host ports (chapter 14) -/

/-- A command taken from a submission queue (R514), or one of the board management controller (`by_` = 15). -/
structure HostCmd where
  by_    : Nat
  qp     : Nat := 0
  cid    : Nat := 0
  op     : Nat
  fence  : Bool := false
  handle : Nat := 0
  addr   : Nat := 0
  len    : Nat := 0
  arg0   : Nat := 0
  arg1   : Nat := 0
  deriving DecidableEq, Repr

/-- A completion entry (R515) before its queue's phase and SQ_HEAD are known. -/
structure Cpl where
  kind    : Nat := 0
  cid     : Nat := 0xFFFF
  status  : Word := 0
  handle  : Nat := 0
  tag     : Nat := 0
  counter : Nat := 0
  v0      : Nat := 0
  v1      : Nat := 0
  v2      : Nat := 0
  deriving DecidableEq, Repr

/-- One queue pair (R508 to R512): bases, depth, vector, enable and busy; last written tail, entries read of the
submission ring, entries consumed; tail, head and phase of the completion ring; entries since the last signal and
the counter of the first of them. -/
structure QPSt where
  sqb    : Nat := 0
  cqb    : Nat := 0
  depth  : Nat := 0
  vector : Nat := 0
  en     : Bool := false
  busy   : Bool := false
  sqTail : Nat := 0
  sqRead : Nat := 0
  consumed : Nat := 0
  cqTail : Nat := 0
  cqHead : Nat := 0
  phase  : Bool := true
  unsig  : Nat := 0
  unsigAt : Nat := 0
  deriving DecidableEq, Repr

/-- Head and tail of a holding's ledger queue, in 64-byte units (R522). -/
structure LedgerQ where
  head : Nat := 0
  tail : Nat := 0
  deriving DecidableEq, Repr

/-- A key set of an IDE selective stream (R554): programmed, and switched to. -/
structure IdeStream where
  programmed : List Nat := []
  active : Bool := false
  deriving DecidableEq, Repr

/-! ### Flume channels (chapter 14) -/

/-- Channel targets (R524). -/
inductive ChanKind | stage | kvOut | kvIn | region
  deriving DecidableEq, Repr

/-- A channel: its OPEN is out, it is open, or its CLOSE waits for the bursts in flight (R524, R526). -/
inductive ChanSt | opening | open_ | closing
  deriving DecidableEq, Repr

/-- A burst that this end sends (R525, R526): kept until it is acknowledged. -/
structure Burst where
  seq   : Nat
  addr  : Nat
  data  : List Byte
  last  : Bool := false
  cont  : Bool := false
  rd    : Bool := false
  sends : Nat := 0
  due   : Nat := 0
  deriving DecidableEq, Repr

/-- A WRITE burst with CONT whose predecessor has not arrived. -/
structure HeldBurst where
  data : List Byte
  last : Bool
  deriving DecidableEq, Repr

/-- One Flume channel. Receive side: placed bursts by SEQ with their address range, held CONT bursts, next SEQ expected,
bytes placed and not handed on, the address below which all is handed on, the address below which records are
checked, the next SEQ to acknowledge, failures by record, bursts since the last ACK and its counter. Send side:
next SEQ, bursts queued and unacknowledged, the peer's CREDIT, the counter of the last ACK received. -/
structure Chan where
  kind   : ChanKind
  bind   : Nat := 0
  sub    : Nat := 0
  peerIp : Nat := 0
  peerChan : Nat := 0
  key    : Nat := 0
  ports  : Nat := 3
  st     : ChanSt := .open_
  gen    : Nat := 0
  cmd    : Option HostCmd := none
  placed : NatMap (Nat × Nat) := []
  heldB  : NatMap HeldBurst := []
  rxNext : Nat := 0
  rxData : NatMap Byte := []
  handed : Nat := 0
  checked : Nat := 0
  ackNext : Nat := 0
  fails  : NatMap Nat := []
  sinceAck : Nat := 0
  ackAt  : Nat := 0
  txNext : Nat := 0
  queue  : List Burst := []
  unacked : List Burst := []
  credit : Nat := 0
  lastAck : Nat := 0
  deriving DecidableEq, Repr

/-! ### The Herbera ring (chapter 10) -/

/-- A collective from its issue to its completion record (R368, R372, R380, R384, R385): its record, the token count,
the arrivals sent and known by die (true: a break mark) in order, and, once the fence has completed, the output of each
die, the dies that have completed, and the dies whose confluence adders saturated. -/
structure CollRun where
  sn     : Nat
  issue  : Issue
  holding : Nat
  desc   : List Byte
  vc     : Nat
  tokens : Nat
  startCtr : Nat
  sent   : List (Nat × Nat × Bool) := []
  known  : List (Nat × Nat × Bool) := []
  moving : Bool := false
  broken : Bool := false
  outs   : NatMap (List Byte) := []
  done   : List Nat := []
  sat    : List Nat := []
  act    : Activity := []
  deriving DecidableEq, Repr

/-- One outgoing direction of a die: its flits not acknowledged, whether it retrains, the lane transients (lane × link cycle). -/
structure RingDir where
  unacked : List Nat := []
  nextFlit : Nat := 0
  retrain : Bool := false
  resent  : List Nat := []
  trans   : NatMap (List Nat) := []
  deriving DecidableEq, Repr

/-- The ring: collectives in issue order, directions by die × 2 (port E) or die × 2 + 1 (port W), the counter of the
latest fence, a mode change that waits for the next fence, the skew sums of the open window by die, its start and fences,
and the die that is to be matched at the next fence (R386). -/
structure Ring where
  colls  : List CollRun := []
  dirs   : NatMap RingDir := []
  lastFence : Nat := 0
  modeDue : Bool := false
  skew   : NatMap Nat := []
  winFrom : Nat := 0
  winFences : Nat := 0
  slow   : Option Nat := none
  matchDue : Bool := false
  deriving DecidableEq, Repr
/-! ### The Ditchrider (chapter 13) -/

/-- A field die's clock and limits (R468, R469, R478, R482, R487, R386), frequencies in MHz: f_die; the die fmax in force; the
thermal limit and whether the 105 °C row holds; the counter since which the hottest acre reads below 98 °C, that of the stop
under the 110 °C row and the acres stopped; the droop limit, the end of its hold, whether the next fence ends it; the
emergency limit; the matched frequency; the die's fused curve offset in mV; converter slots since the latest fence. -/
structure DieClk where
  f      : Nat := 300
  fmax   : Nat := 1200
  therm  : Nat := 1200
  trip   : Bool := false
  cool   : Option Nat := none
  still  : Option Nat := none
  stopped : List Nat := []
  stillLogged : Bool := false
  droop  : Nat := 1200
  droopTo : Nat := 0
  droopEnd : Bool := false
  emerg  : Nat := 1200
  matched : Nat := 1200
  offset : Int := 0
  slots  : Nat := 0
  deriving DecidableEq, Repr

/-- An HBM stack's thermal actions (R482): refresh doubled; traffic limit 0 none, 1 half, 2 quarter. -/
structure HbmTherm where
  fast  : Bool := false
  limit : Nat := 0
  deriving DecidableEq, Repr

/-- A star or stack link direction (R579): spare lanes left, half width, lane transients (lane × link cycles), retraining,
flits not acknowledged. -/
structure LinkSt where
  spares : Nat := 16
  half   : Bool := false
  trans  : NatMap (List Nat) := []
  retrain : Bool := false
  unacked : List Nat := []
  nextFlit : Nat := 0
  deriving DecidableEq, Repr

/-- The Ditchrider: dies; the cap and budget in force; the frequency and Cistern budget that the cap allows; the effective cap
at the latest fence; the latest 100 input power means; counters since which the 1 ms mean is below 97% of the cap, and
above the cap at the lowest settings; coolant inlet in 0.125 °C and flow in 0.1 L/min, as read, and whether out of
specification; HBM stacks; the Headgate's halved command rate; alert lines asserted, the counter of Trickle's entry, of
the latest clearing, whether Trickle ends at the next fence; phases disabled and rails off; blade pairs open; whether the
Deep wake runs; star and stack links; the level to log INPUT_HIGH once. -/
structure Ditch where
  dies   : NatMap DieClk := []
  bmc    : Nat := 3600
  budget : Nat := 600
  capF   : Nat := 1200
  cist   : Nat := 600
  capSeen : Nat := 3600
  means  : List Nat := []
  low    : Option Nat := none
  above  : Option Nat := none
  inlet  : Nat := 0
  flow   : Nat := 40
  coolOut : Bool := false
  hbm    : NatMap HbmTherm := []
  headHot : Bool := false
  alerts : List Rail := []
  trickleAt : Nat := 0
  clearAt : Nat := 0
  exitDue : Bool := false
  phases : List (Rail × Nat) := []
  railsOff : List Rail := []
  blades : List Nat := []
  phaseDone : List Rail := []
  deepWake : Bool := false
  links  : NatMap LinkSt := []
  inputHigh : Bool := false
  capDue : Bool := false
  lastSecond : NatMap Nat := []
  deriving DecidableEq, Repr

/-! ### Charter, boot and trust (chapter 15) -/

/-- One SPDM connection (R549, R550): how far it is negotiated (1 version, 2 capabilities, 3 algorithms), the messages exchanged
since GET_VERSION, the message of the signed response that HSS_SIGN may follow, the session (0 none, 1 keys exchanged, 2
established), its key updates. -/
structure SpdmConn where
  stage : Nat := 0
  trans : List Byte := []
  signed : Option (List Byte) := none
  session : Nat := 0
  keyGen : Nat := 0
  deriving DecidableEq, Repr

/-- A firmware update (R561 to R563): its slot, whether it holds new Headgate firmware and new field die or Cistern firmware,
whether the handover and the bank swap are made, the counter at which the health window closes. -/
structure Update where
  slot   : Nat
  hg     : Bool
  fd     : Bool
  handed : Bool := false
  swapped : Bool := false
  endAt  : Nat := 0
  deriving DecidableEq, Repr

/-- Trust: firmware slots that were staged, by slot; the trial slot of the boot record and whether it was tried; key hashes
of the owner slots that owner changes fused; the nonce with the counter of its issue; measurements by index; whether the
top tree of ALIAS_HSS is built, the measurements 3 to 5 that the alias pair certifies and the number of the pair; next index
and reservation of DEVICE_ID_HSS and ALIAS_HSS; whether ATTEST_KEYS_LOW was logged; SPDM connections by host port, 4 for
the management port; the update; whether RETURN waits for the last plot. -/
structure Trust where
  slots  : NatMap (List Byte) := []
  trial  : Option Nat := none
  tried  : Bool := false
  owners : NatMap (List Byte) := []
  nonce  : Option (List Byte × Nat) := none
  meas   : NatMap (List Byte) := []
  treeUp : Bool := false
  aliasFor : List Byte := []
  aliasNo : Nat := 0
  devQ   : Nat := 64
  devRes : Nat := 64
  aliasQ : Nat := 64
  aliasRes : Nat := 64
  keysLow : Bool := false
  spdm   : NatMap SpdmConn := []
  update : Option Update := none
  retDue : Bool := false
  deriving DecidableEq, Repr

/-! ### Reliability, freeze and start-up (chapters 16 and 18) -/

/-- Reliability: corrected codewords by HBM page (stack × 2^20 + page) in the patrol pass that runs, pages retired (page, spare), pages retired since
manufacture and spares used by stack, pages that migrate, the codewords that the patrol of each stack has read in its pass, stream cache locations
disabled, the counter of the latest HASH_IMBALANCE by die (plus 1; 0 while it does not hold), the counter of the latest checkpoint,
whether both core pairs are lost, whether FREEZE_N is low, whether the HBM controllers have stopped, and whether a thaw runs. -/
structure Rely where
  pageErr : NatMap Nat := []
  moved  : NatMap Nat := []
  retired : NatMap Nat := []
  used   : NatMap Nat := []
  migrating : List Nat := []
  patrol : NatMap Nat := []
  cacheOff : List Nat := []
  imbAt  : NatMap Nat := []
  ckpt   : Nat := 0
  coresLost : Bool := false
  pinLow : Bool := false
  hbmDown : Bool := false
  thawing : Bool := false
  deriving DecidableEq, Repr

/-- Power phases (R630, R636, R638, R641, R546): off, the start-up sequence, its hold for coolant, in service, recovery, stopped
by a rail. -/
inductive PowerPhase | off | starting | hold | service | recovery | railStop
  deriving DecidableEq, Repr

/-- Power and the sideband: phase, steps of R630 that are up, whether the internal oscillator runs, whether the
next step waits for the undervoltage alert, whether the sequence follows a cold power-on, whether the hot-swap controller opened on overvoltage, whether COOLANT_OUT_OF_SPEC was logged in this start-up, the levels of
MOD_ADDR and its sample, the endpoint ID that MCTP assigned. -/
structure Power where
  phase : PowerPhase := .service
  step  : Nat := 6
  osc   : Bool := false
  wait  : Bool := false
  cold  : Bool := false
  opened : Bool := false
  coolLogged : Bool := false
  addrPins : Nat := 7
  addr  : Nat := 7
  eid   : Nat := 0
  deriving DecidableEq, Repr


/-! ### Holdings and streams (chapter 11) -/

/-- A holding's water shares and use (R44, R422): the share registers at their reset values, the energy balance in µJ, the
power share that the holding itself set (R480) and its power as last reported in mW. -/
structure Hold where
  shStreams : Nat := 0x40000
  shSlots : Nat := 0x180
  shPower : Nat := 0x384
  shPages : Nat := 0x12000
  shPlots : Nat := 0x780
  budgetEn : Bool := false
  hardBudget : Bool := false
  balance : Int := 0
  ownPower : Option Nat := none
  powerMw : Nat := 0
  deriving DecidableEq, Repr

/-- Stream states (R403); FREE is an ID that no entry lists. -/
inductive StreamState | staging | waiting | prompt | active | parked | exporting | cached | done
  deriving DecidableEq, Repr

/-- Park causes (R419). -/
inductive ParkCause | host | share | budget | hbm | backpressure | split | role | fault
  deriving DecidableEq, Repr

/-- A page record that an export sent: the offset of its last byte, and its die, layer, head and page (R357). -/
structure ExpRec where
  upto  : Nat
  die   : Nat
  layer : Nat
  head  : Nat
  page  : Nat
  deriving DecidableEq, Repr

/-- The context of a stream (R402) with what the stream engine keeps beside it: admission order, park causes, tokens not
delivered (token, position), tokens of its chunk in the sweep that runs, the terminal status that waits before the
commit point (R454, R456), commands to answer, the pages of maps and prompt buffer, the records of its export, the
header of its import (records, positions), and the counter up to which slot and frame time are counted. -/
structure Stream where
  id     : Nat
  gen    : Nat
  st     : StreamState := .staging
  holding : Nat
  mb     : Nat := 0
  slot   : Option Nat := none
  abortDue : Bool := false
  parkDue : Bool := false
  imported : Bool := false
  promptComplete : Bool := false
  predUsed : Bool := false
  image  : Nat
  adapter : Nat := 0xFFFF
  qp     : Nat := 0
  nctx   : Nat := 0
  promptLen : Nat := 0
  promptDone : Nat := 0
  maxNew : Nat := 1
  new    : Nat := 0
  stops  : List Nat := []
  temp   : Word := 0
  topk   : Nat := 0
  topp   : Word := 0
  seed   : Nat := 0
  tag    : Nat := 0
  admitCtr : Nat := 0
  stateCtr : Nat := 0
  slotTime : Nat := 0
  status : Word := 0
  maps   : List Nat := []
  promptBuf : Nat := 0
  nextIn : Nat := 0
  xchan  : Nat := 0
  xack   : Nat := 0
  toExport : Bool := false
  order  : Nat := 0
  causes : List ParkCause := []
  toks   : List (Nat × Nat) := []
  chunk  : Nat := 0
  ending : Option Word := none
  abortCmds : List HostCmd := []
  runs   : List (Nat × Nat) := []
  bufRun : List (Nat × Nat) := []
  expRecs : List ExpRec := []
  impHdr : Option (Nat × Nat) := none
  impNext : Nat := 0
  slotFrom : Nat := 0
  frameFrom : Nat := 0
  froze  : Bool := false
  admitCmd : Option HostCmd := none
  lost   : Bool := false
  deriving DecidableEq, Repr

/-- A step of a micro-batch or a prompt sweep that runs (R412, R415, R427): its streams in order, the tokens that sampling
gave, whether a course or collective of it faulted, whether it is the repeat, the streams that faulting courses named
(none: every stream), the status word for the log, and its number. -/
structure StepRun where
  running : Bool := false
  streams : List Nat := []
  toks   : NatMap Nat := []
  faulted : Bool := false
  repeat_ : Bool := false
  named  : List Nat := []
  all    : Bool := false
  split  : Bool := false
  why    : Word := 0
  number : Nat := 0
  deriving DecidableEq, Repr

/-- An adapter (R518): image, channel, region bytes arrived. -/
structure Adapter where
  image  : Nat
  owner  : Nat
  chan   : Nat
  released : Bool := false
  deriving DecidableEq, Repr

/-- Adapter training that a TRAIN_STEP command runs (R390): its command, the steps left and run, a fault's status word. -/
structure Training where
  cmd   : HostCmd
  left  : Nat
  ran   : Nat := 0
  fault : Word := 0
  deriving DecidableEq, Repr

/-- The stream engine: streams by ID, generations of IDs, the last ID allocated, admissions so far, steps 0 to 3 and the sweep
(4), frames by HBM address (stream, address of its page map entry), HBM pages that hold frames by page key (owner, frame size), the role that a change
is to reach, adapters by handle, the number of steps, the stream cache (latest use first), and by image the largest
SPILL_EXP and the sum of SPILL_TILES (R521). -/
structure Engine where
  streams : NatMap Stream := []
  gens   : NatMap Nat := []
  lastId : Nat := 0xFFFFF
  admits : Nat := 0
  steps  : NatMap StepRun := []
  frames : NatMap (Nat × Nat) := []
  framePages : NatMap (Nat × Nat) := []
  roleTo : Option Nat := none
  adapters : NatMap Adapter := []
  stepNo : Nat := 0
  cache  : List Nat := []
  spills : NatMap (Nat × Nat) := []
  training : Option Training := none
  deriving DecidableEq, Repr

/-! ### Energy metering (chapter 12) -/

/-- Accruals of a consumer: dynamic, static and residual energy in nJ, uncertainty in 10^-3 nJ, flags [2], [3] of a record. -/
structure Accr where
  dyn   : Int := 0
  stat  : Int := 0
  resid : Int := 0
  unc   : Nat := 0
  two   : Bool := false
  clamp : Bool := false
  coef  : Nat := 0
  deriving DecidableEq, Repr

/-- A terminal event whose record completes at the end of its epoch (R443): the stream as it ended, status, counter, role. -/
structure Terminal where
  strm  : Stream
  endCtr : Nat
  role  : Nat
  deriving DecidableEq, Repr

/-- A ledger page (R446, R447): PAGE_SEQ, OPEN_CTR, records, input energy in nJ, flags, coefficient set; when closed, its
close counter and cause, header, and signature block. -/
structure Page where
  seq   : Nat := 0
  openCtr : Nat := 0
  recs  : List (List Byte) := []
  ein   : Nat := 0
  frozen : Bool := false
  unclean : Bool := false
  coef  : Nat := 0
  closeCtr : Nat := 0
  cause : Nat := 0
  header : List Byte := []
  sigs  : List Byte := []
  deriving DecidableEq, Repr

/-- The Tally engine: activity counts of the open epoch (consumer × 64 + die × 16 + class), accruals by consumer (stream ID, 2^20
+ holding, 2^20 + 15 the module), slot units × 64 and frame time of the epoch, terminal events to complete, the open page
and those to be signed, the page at the signer, signed pages in the ledger rings, PREV_ROOT, index q and q_res,
undelivered elements by holding (page and bytes), energies not yet subtracted (R460) and of the last 10 epochs (R480) by holding,
the pJ remainder of the input meter, the number of the latest epoch, epochs in a row whose residual was out of range
(R590), transients of the two signers (R572), and whether the journal holds a shutdown close (R446). -/
structure Tally where
  act   : NatMap Nat := []
  accr  : NatMap Accr := []
  slots : NatMap Nat := []
  frameT : NatMap Nat := []
  terms : List Terminal := []
  page  : Page := {}
  closed : List Page := []
  signing : Option Page := none
  signed : List Page := []
  prevRoot : List Byte := []
  q     : Nat := 1024
  qRes  : Nat := 0
  rings : NatMap (List (Nat × List Byte)) := []
  toSub : NatMap Int := []
  last10 : NatMap (List Int) := []
  pjRem : Nat := 0
  keysLow : Bool := false
  fullLogged : List Nat := []
  einNj : Nat := 0
  lastEpoch : Nat := 0
  outRun : Nat := 0
  meterAt : Option Nat := none
  sigTrans : NatMap (List Nat) := []
  clean : Bool := false
  deriving DecidableEq, Repr

/-! ### What the module sends out -/

/-- The kinds of an SPDM reply (R541, R549, R550). -/
inductive SpdmRes | reply | notReady | unexpected | invalid
  deriving DecidableEq, Repr

/-- What the module sends to the outside (the model's own record of outputs, log entry 3). -/
inductive Emit
  | read (p : Path) (addr : Nat) (w : Word)
  | irqMsg (h : Nat) (vector : Nat)
  | spad (g off : Nat) (task : Nat) (data : List Byte) (ok : Bool)
  | hostWrite (h : Nat) (addr : Nat) (data : List Byte)
  | aer (h : Nat)
  | mgmt (op : Nat) (status : Word) (handle v0 v1 v2 : Nat)
  | mgmtData (data : List Byte)
  | flume (port : Nat) (ip : Nat) (data : List Byte)
  | telemetry (owner : Nat) (status : Word) (index : Nat)
  | spdm (conn : Nat) (req : Nat) (res : SpdmRes) (data : List Byte)
  | busy (op : Nat)
  | config (h : Nat) (retry : Bool)
  | unsupported (h : Nat)
  deriving DecidableEq, Repr

/-! ### The whole machine -/

/-- One entry of the event log (R587). -/
structure LogEntry where
  seq      : Nat
  counter  : Nat
  epoch    : Nat
  status   : Word
  event    : Nat
  severity : Nat
  index    : Nat
  detail   : List Nat := []
  deriving DecidableEq, Repr

/-- A latch of a register path (R607, R608): the HI sample that a LO read filled, or a staged LO write. -/
structure PairLatch where
  hi     : Option Word := none
  staged : Option Word := none
  deriving DecidableEq, Repr

/-- The state of the module. -/
structure State where
  pending : List Instr := []
  freeCtr : Nat := 0
  counter : Nat := 0
  epoch   : Nat := 1
  regs    : NatMap Word := []
  latches : NatMap PairLatch := []
  selects : NatMap Word := []
  unmappedLog : NatMap Nat := []
  readout : Bool := false
  fullDebug : Bool := false
  hbm     : NatMap Byte := []
  spad    : NatMap Byte := []
  hbmPoison : NatMap Bool := []
  rsvPoison : NatMap Bool := []
  rsvDisabled : List (Nat × Nat × Nat × Nat) := []
  log     : List LogEntry := []
  emitted : List Emit := []
  acres   : NatMap Acre := []
  amap    : NatMap Nat := []
  doubled : NatMap Nat := []
  swaps   : List SwapJob := []
  wakeQ   : List (Nat × Nat) := []
  testQ   : List Nat := []
  testing : List Nat := []
  issued  : NatMap Nat := []
  beyond  : Bool := false
  gates   : NatMap Gate := []
  broken  : List (Nat × Nat × Work) := []
  records : List CourseRec := []
  satur   : List (Nat × Nat × Work) := []
  images  : NatMap Image := []
  cist    : Cistern := {}
  serial  : Nat := 0
  hostCmds : List HostCmd := []
  openCmds : List HostCmd := []
  qps     : NatMap QPSt := []
  respBuf : List (Nat × Nat × Cpl) := []
  ledq    : NatMap LedgerQ := []
  hostLink : List Nat := []
  msixMask : NatMap Bool := []
  msixPend : NatMap Bool := []
  ide     : NatMap IdeStream := []
  chans   : NatMap Chan := []
  chanGen : Nat := 0
  pages   : NatMap Nat := []
  holds   : NatMap Hold := []
  nextImage : Nat := 0
  ring    : Ring := {}
  ditch   : Ditch := {}
  eng     : Engine := {}
  tally   : Tally := {}
  trust   : Trust := {}
  rely    : Rely := {}
  power   : Power := {}
  journal : List LogEntry := []
  deriving DecidableEq, Repr

/-- Why a step stops with a fault. No command of this block stops the machine (every event has an effect in
State), so the type has no constructor that a meaning raises: `none_` stands only so that the type is inhabited. -/
inductive Fault
  /-- Raised by no one. Safe. -/
  | none_
  deriving DecidableEq, Repr

/-- Why a command is refused by the model. -/
inductive Refusal
  /-- Raised by the arm of a command that has no meaning yet, with its mnemonic. Safe. -/
  | notModelled (mnemonic : String)
  deriving DecidableEq, Repr

/-- The outcome of a command or a step. -/
abbrev Out := Host.Outcome State Fault Refusal

/-- The machine right after reset: a new module whose cold start-up has just ended (R621, R636): every field at its reset value,
every journal empty, in Service, its acres in Fallow, its links down (log entry 5). -/
def State.reset : State := {}

end Sys2Proof.Machine
end

