-- ==== Sys2Proof/Machine/Ops.lean ====
section
/-!
DEFINITION. Named operations over the state: sparse maps, register fields, memory, counters, the event log,
interrupt sources and status words.
-/

namespace Sys2Proof.Machine

/-! ### Sparse maps: pairs in strictly rising key order -/

/-- The value of a key, if the map lists it. -/
def lookupK {α : Type} : NatMap α → Nat → Option α
  | [], _ => none
  | (j, v) :: m, k => if k = j then some v else lookupK m k

/-- The value of a key, or the default of an unlisted key. -/
def getK {α : Type} (m : NatMap α) (k : Nat) (d : α) : α := (lookupK m k).getD d

/-- Lists a key with a value. -/
def insertK {α : Type} : NatMap α → Nat → α → NatMap α
  | [], k, v => [(k, v)]
  | (j, w) :: m, k, v =>
    if k < j then (k, v) :: (j, w) :: m
    else if k = j then (k, v) :: m
    else (j, w) :: insertK m k v

/-- Removes a key, wherever it is listed. -/
def eraseK {α : Type} : NatMap α → Nat → NatMap α
  | [], _ => []
  | (j, w) :: m, k => if k = j then eraseK m k else (j, w) :: eraseK m k

/-- Writes a value; a key that holds its default is not listed. -/
def setK {α : Type} [DecidableEq α] (m : NatMap α) (k : Nat) (v d : α) : NatMap α :=
  if v = d then eraseK m k else insertK m k v

/-- The listed keys rise strictly. -/
def keysRise {α : Type} : NatMap α → Bool
  | [] => true
  | (j, _) :: m => (match m with | [] => true | (k, _) :: _ => decide (j < k)) && keysRise m

/-- The canonical form of a map whose unlisted keys hold one default: keys rise, no entry equals the default. -/
def canonK {α : Type} [DecidableEq α] (m : NatMap α) (d : α) : Bool :=
  keysRise m && m.all (fun e => decide (e.2 ≠ d))

/-! ### Guards -/

/-- `f` where the condition holds, the state unchanged elsewhere (log entry 2). -/
def whenB (b : Bool) (f : State → State) (s : State) : State := if b then f s else s

/-- `f` on a listed value, the state unchanged where there is none (log entry 2). -/
def withSome {α : Type} (o : Option α) (f : α → State → State) (s : State) : State :=
  match o with
  | some a => f a s
  | none => s

/-! ### Block addresses (R600, R615, R616) -/

/-- The base of Headgate slot k. -/
def hgBase (k : Nat) : Nat := 0xF000000000 + k * 0x4000
/-- The base of a die-level block of field die n. -/
def fdBase (n off : Nat) : Nat := 0xF100000000 + n * 0x1000000 + off
/-- The base of a block of physical acre g = die × 68 + acre; blk 0 FRW, 1 ACR, 2 CRS, 3 SPD. -/
def acreBase (g blk : Nat) : Nat := fdBase (g / 68) (0x100000 + (g % 68) * 0x10000 + blk * 0x4000)

def modB : Nat := hgBase 0
def chtB : Nat := hgBase 1
def fwuB : Nat := hgBase 2
def rlyB : Nat := hgBase 3
def drdB : Nat := hgBase 4
def tlyB : Nat := hgBase 5
def strB : Nat := hgBase 6
def itkB : Nat := hgBase 7
def flmB (p : Nat) : Nat := hgBase (8 + p)
def hqB (h : Nat) : Nat := hgBase (12 + h)
def fdcB (n : Nat) : Nat := fdBase n 0
def cstB (n : Nat) : Nat := fdBase n 0x4000
def sphB (n : Nat) : Nat := fdBase n 0x8000
def scrB (n : Nat) : Nat := fdBase n 0xC000
def tnsB (n : Nat) : Nat := fdBase n 0x10000
def rsvB (n : Nat) : Nat := fdBase n 0x14000
def kvcB (n : Nat) : Nat := fdBase n 0x18000
def rngB (n : Nat) : Nat := fdBase n 0x1C000
def dpwB (n : Nat) : Nat := fdBase n 0x20000
def frwB (g : Nat) : Nat := acreBase g 0
def acrB (g : Nat) : Nat := acreBase g 1
def crsB (g : Nat) : Nat := acreBase g 2
def spdB (g : Nat) : Nat := acreBase g 3

/-- One register block: its kind, INSTANCE and DIE of BLK_REV, OWNER. -/
structure Blk where
  tag   : BlkTag
  inst  : Nat
  die   : Nat
  owner : Nat
  deriving DecidableEq, Repr

/-- The block whose slot starts at a base (R615, R616). -/
def blkOf (base : Nat) : Option Blk :=
  if base < 0xF000000000 then none
  else if base < 0xF001000000 then
    match (base - 0xF000000000) / 0x4000 with
    | 0 => some ⟨.mod, 0, 15, 15⟩ | 1 => some ⟨.cht, 0, 15, 15⟩ | 2 => some ⟨.fwu, 0, 15, 15⟩
    | 3 => some ⟨.rly, 0, 15, 15⟩ | 4 => some ⟨.drd, 0, 15, 15⟩ | 5 => some ⟨.tly, 0, 15, 15⟩
    | 6 => some ⟨.str, 0, 15, 15⟩ | 7 => some ⟨.itk, 0, 15, 15⟩
    | 8 => some ⟨.flm, 0, 15, 15⟩ | 9 => some ⟨.flm, 1, 15, 15⟩
    | 12 => some ⟨.hq, 0, 15, 0⟩ | 13 => some ⟨.hq, 1, 15, 1⟩
    | 14 => some ⟨.hq, 2, 15, 2⟩ | 15 => some ⟨.hq, 3, 15, 3⟩
    | _ => none
  else if base < 0xF100000000 then none
  else if base < 0xF104000000 then
    let n := (base - 0xF100000000) / 0x1000000
    let o := (base - 0xF100000000) % 0x1000000
    if o < 0x24000 then
      match o / 0x4000 with
      | 0 => some ⟨.fdc, 0, n, 15⟩ | 1 => some ⟨.cst, 0, n, 15⟩ | 2 => some ⟨.sph, 0, n, 15⟩
      | 3 => some ⟨.scr, 0, n, 15⟩ | 4 => some ⟨.tns, 0, n, 15⟩ | 5 => some ⟨.rsv, 0, n, 15⟩
      | 6 => some ⟨.kvc, 0, n, 15⟩ | 7 => some ⟨.rng, 0, n, 15⟩ | _ => some ⟨.dpw, 0, n, 15⟩
    else if o < 0x100000 then none
    else if o < 0x540000 then
      let a := (o - 0x100000) / 0x10000
      match (o / 0x4000) % 4 with
      | 0 => some ⟨.frw, a, n, 15⟩ | 1 => some ⟨.acr, a, n, 15⟩
      | 2 => some ⟨.crs, a, n, 15⟩ | _ => some ⟨.spd, a, n, 15⟩
    else none
  else none

/-! ### Register fields -/

/-- The reset word of a register: its fields at their reset values. -/
def resetWord (fs : List Fld) (off : Nat) : Word :=
  BitVec.ofNat 32 ((fs.filter (fun f => f.off = off)).foldl (fun n f => n + f.rst * 2 ^ f.lo) 0)

/-- The steps of a WAKE_TABLE entry at reset (R494), with its SCALE. -/
def wakeSteps : Nat → List Nat × Nat
  | 0 => ([0, 0, 0, 0, 1], 0)
  | 1 => ([100, 25, 50, 75, 50], 0)
  | 2 => ([200, 25, 50, 15, 10], 1)
  | 3 => ([0, 0, 0, 0, 1], 0)
  | 4 => ([50, 25, 50, 0, 0], 0)
  | 5 => ([25, 100, 0, 0, 0], 0)
  | 6 => ([3, 3, 35, 0, 0], 0)
  | 7 => ([125, 5, 0, 0, 0], 0)
  | 8 => ([400, 200, 600, 200, 200], 3)
  | 9 => ([40, 80, 80, 0, 0], 3)
  | 10 => ([50, 25, 0, 0, 0], 0)
  | 11 => ([25, 5, 0, 0, 0], 0)
  | _ => ([0, 0, 0, 0, 0], 0)

/-- The reset words WAKE_An (`b` false) and WAKE_Bn of entry n. -/
def wakeReset (n : Nat) (b : Bool) : Word :=
  let e := wakeSteps n
  let st (k : Nat) : Nat := e.1.getD k 0
  BitVec.ofNat 32 (if b then st 3 + st 4 * 2 ^ 10 + e.2 * 2 ^ 20 else st 0 + st 1 * 2 ^ 10 + st 2 * 2 ^ 20)

/-- The reset word at an address; IRQ_MASTER is 0 in HQ blocks (R611). -/
def resetAt (addr : Nat) : Word :=
  match blkOf (addr / 0x4000 * 0x4000) with
  | none => 0
  | some b =>
    let off := addr % 0x4000
    if off < 0x100 then (if b.tag = .hq then 0 else resetWord fieldsHdr off)
    else if b.tag = .drd ∧ 0x200 ≤ off ∧ off < 0x280 then wakeReset ((off - 0x200) / 8) ((off - 0x200) / 4 % 2 = 1)
    else resetWord (fieldsOf b.tag) off

/-- The stored word of the register at an address. -/
def regGet (s : State) (addr : Nat) : Word :=
  match lookupK s.regs addr with
  | some w => w
  | none => resetAt addr

/-- Stores the word of a register; a register at its reset word is not listed. -/
def regSet (addr : Nat) (w : Word) (s : State) : State :=
  { s with regs := setK s.regs addr w (resetAt addr) }

/-- A field of a word. -/
def fldOf (f : Fld) (w : Word) : Nat := (w.toNat >>> f.lo) % 2 ^ f.w

/-- A word with one field replaced (the value taken modulo the field's range). -/
def fldPut (f : Fld) (v : Nat) (w : Word) : Word :=
  BitVec.ofNat 32 (w.toNat - fldOf f w * 2 ^ f.lo + (v % 2 ^ f.w) * 2 ^ f.lo)

/-- The stored value of a field of the block at a base. -/
def getF (s : State) (base : Nat) (f : Fld) : Nat := fldOf f (regGet s (base + f.off))

/-- Stores a field of the block at a base. -/
def setF (base : Nat) (f : Fld) (v : Nat) (s : State) : State :=
  regSet (base + f.off) (fldPut f v (regGet s (base + f.off))) s

/-- Stores a one-bit field. -/
def setB (base : Nat) (f : Fld) (b : Bool) (s : State) : State := setF base f (if b then 1 else 0) s

/-- Adds to a counter that holds at its largest value. -/
def bumpF (base : Nat) (f : Fld) (n : Nat) (s : State) : State :=
  setF base f (min (getF s base f + n) (2 ^ f.w - 1)) s

/-- Adds to a 64-bit LO/HI counter, modulo 2^64 (R15). -/
def bumpPair (base off n : Nat) (s : State) : State :=
  let v := (regGet s (base + off)).toNat + (regGet s (base + off + 4)).toNat * 2 ^ 32 + n
  regSet (base + off) (BitVec.ofNat 32 v) (regSet (base + off + 4) (BitVec.ofNat 32 (v / 2 ^ 32)) s)

/-- The 64-bit value of a LO/HI pair. -/
def pairVal (s : State) (base off : Nat) : Nat :=
  (regGet s (base + off)).toNat + (regGet s (base + off + 4)).toNat * 2 ^ 32

/-! ### Interrupt sources (R612 to R614) -/

/-- IRQ_IMPL of a block kind: bits 0 and 1 where it has an event register, and its sources of R612. -/
def irqImpl : BlkTag → Nat
  | .frw => 0x07 | .crs => 0x0F | .spd => 0x0F | .cst => 0x3F | .sph => 0x07 | .tns => 0x07
  | .rng => 0x0F | .dpw => 0x05 | .mod => 0x05 | .fwu => 0x07 | .rly => 0x0D | .drd => 0x0F
  | .tly => 0x0F | .str => 0x07 | .itk => 0x07 | .flm => 0x05 | .hq => 0x1D
  | .acr => 0x03 | .scr => 0x01 | .rsv => 0x03 | .kvc => 0x03 | .cht => 0x01 | .fdc => 0x01

/-- Records an output of the module. -/
def emit (e : Emit) (s : State) : State := { s with emitted := s.emitted ++ [e] }

/-- Signals an MSI-X vector of a holding; a masked vector sets its pending bit (R512). -/
def signalVec (h v : Nat) (s : State) : State :=
  if getK s.msixMask (h * 64 + v) false then { s with msixPend := setK s.msixPend (h * 64 + v) true false }
  else emit (.irqMsg h v) s

/-- IRQ_STAT AND IRQ_EN with IRQ_MASTER at 1 (R613, R614). -/
def irqActive (s : State) (base : Nat) : Nat :=
  if getF s base F.blkCtrlIrqMaster = 1
  then Nat.land (getF s base F.irqStatPend) (getF s base F.irqEnEnable) else 0

/-- The MSI-X message of an HQ block whose enabled pending bits became non-zero (R614). -/
def hqIrqEdge (base before : Nat) (s : State) : State :=
  match blkOf base with
  | some ⟨.hq, h, _, _⟩ =>
    whenB (before = 0 ∧ irqActive s base ≠ 0) (signalVec h (getF s base F.hqIrqcfgVector)) s
  | _ => s

/-- Sets PEND bits of implemented sources (R612); an HQ block signals on the change from zero (R614). -/
def irqRaise (base bits : Nat) (s : State) : State :=
  match blkOf base with
  | none => s
  | some b =>
    hqIrqEdge base (irqActive s base)
      (setF base F.irqStatPend
        (Nat.lor (getF s base F.irqStatPend) (Nat.land bits (irqImpl b.tag))) s)

/-! ### Status words and the event log -/

/-- A status word (R23): holding, unit index (lowest 8 bits), unit class, code. -/
def statusWord (holding idx cls code : Nat) : Word :=
  BitVec.ofNat 32 (holding % 256 * 2 ^ 24 + idx % 256 * 2 ^ 16 + cls % 256 * 2 ^ 8 + code % 256)

/-- The severity of a log entry (R587): information for what the spec calls an information entry, transient and
lasting for the events that the spec classes so, beyond the spares for BEYOND_SPARES; else the implementation's
(log entry 12). Events 0x100 and above are the model's own numbers of information entries (R601). -/
def logSeverity (code event : Nat) : Nat :=
  if event ≥ 0x100 then 0
  else if event = 0x31 then 3
  else if code = 0x48 ∨ code = 0x5E then 1
  else if code = 0x49 ∨ code = 0x4A ∨ code = 0x5F ∨ code = 0x43 then 2
  else if event = 0x21 ∨ event = 0x24 ∨ event = 0x26 ∨ event = 0x27 ∨ event = 0x28 ∨ event = 0x29 ∨ event = 0x2A
      ∨ event = 0x2D ∨ event = 0x2E then 2
  else (Config.severity code event).toNat

/-- The entry that an event log write makes (R587). -/
def logEntryOf (status : Word) (event index : Nat) (detail : List Nat) (s : State) : LogEntry :=
  ⟨pairVal s rlyB 0x120 + 1, s.counter, s.epoch, status, event, logSeverity (status.toNat % 256) event, index, detail⟩

/-- Does the journal take an entry: a lasting event, or the first transient of a unit in a powered hour (R587)? -/
def journalTakes (e : LogEntry) (s : State) : Bool :=
  let same (x : LogEntry) : Bool := x.epoch = s.epoch && x.event = e.event && x.index = e.index && x.severity = 1 &&
    x.status.toNat / 256 % 256 = e.status.toNat / 256 % 256 && x.counter / 90000000000 = s.counter / 90000000000
  decide (e.severity ≥ 2) || (e.severity = 1 && !s.journal.any same)

/-- The entry goes to the log, newest first, 65,536 entries at most, and to the journal where that takes it. -/
def logAdd (e : LogEntry) (s : State) : State :=
  { s with log := (e :: s.log).take 65536, journal := if journalTakes e s then e :: s.journal else s.journal }

/-- MOD_ALERT_N goes low at a severity of SEV_MIN or more (R623). -/
def alertFor (sev : Nat) (s : State) : State := if getF s modB F.modAlertSevMin ≤ sev then setF modB F.modAlertAsserted 1 s else s

/-- Writes one entry of the event log (R587), the sequence number rising by one; RLY signals a log entry (R612). -/
def logEvent (status : Word) (event index : Nat) (detail : List Nat) (s : State) : State :=
  alertFor (logSeverity (status.toNat % 256) event)
    (irqRaise rlyB 4 (bumpPair rlyB 0x120 1 (logAdd (logEntryOf status event index detail s) s)))

/-- A status entry of the log. -/
def logStatus (status : Word) (index : Nat) (detail : List Nat) (s : State) : State :=
  logEvent status 0 index detail s

/-- An event entry of the log (R588, R500): the holding is the module, the status code 0. -/
def logEv (event cls index : Nat) (detail : List Nat) (s : State) : State :=
  logEvent (statusWord 15 index cls 0) event index detail s

/-- Writes an event register (*_LASTEVT, ITK_LAST, STR_LASTSHR) and sets IRQ_STAT bit 1 (R612). -/
def lastEvt (base : Nat) (f : Fld) (status : Word) (s : State) : State :=
  irqRaise base 2 (setF base f status.toNat s)

/-! ### Module levels (R496) -/

/-- Sets DRD_LEVEL.LEVEL: 0 Service, 1 Idle, 2 Deep, 3 Trickle; a change raises the DRD source (R612). -/
def setLevel (n : Nat) (s : State) : State :=
  if getF s drdB F.drdLevelLevel = n then s else irqRaise drdB 4 (setF drdB F.drdLevelLevel n s)

/-- A command, issue or Flume burst takes the module from Idle to Service (R496); the first doorbell or management command
starts the wake from Deep where AUTO_WAKE is set (R497). -/
def idleExit (s : State) : State :=
  match getF s drdB F.drdLevelLevel with
  | 1 => setLevel 0 s
  | 2 => whenB (getF s drdB F.drdLevelAutoWake = 1) (fun t => { t with ditch := { t.ditch with deepWake := true } }) s
  | _ => s

/-! ### Free values -/

/-- Takes the next fresh value's number. -/
def nextFree (s : State) : Nat × State := (s.freeCtr, { s with freeCtr := s.freeCtr + 1 })

/-! ### Acres -/

/-- Physical acre index die × 68 + acre (R26). -/
def acreIx (d : Die) (p : PAcre) : Nat := d.val * 68 + p.val

def getAcre (s : State) (g : Nat) : Acre := getK s.acres g {}
def setAcre (g : Nat) (a : Acre) (s : State) : State := { s with acres := setK s.acres g a {} }
def modAcre (g : Nat) (f : Acre → Acre) (s : State) : State := setAcre g (f (getAcre s g)) s

/-- The physical acre that hosts a logical acre of a die (R573); A00 to A63 without repair. -/
def physOf (s : State) (die la : Nat) : Nat := die * 68 + getK s.amap (die * 64 + la) la

/-- The logical acres that map to a physical acre: two where it hosts a doubled one (R578). -/
def logicalOf (s : State) (g : Nat) : List Nat :=
  (List.range 64).filter (fun la => physOf s (g / 68) la = g)

/-- Is the acre in service: does a logical acre map to it (R304)? -/
def inService (s : State) (g : Nat) : Bool := !(logicalOf s g).isEmpty

/-! ### Memory: HBM and acre scratchpads (R600, R290) -/

/-- Where an address of the module address space lies. -/
inductive Loc
  | hbm (a : Nat)
  | spad (g off : Nat)
  | nowhere
  deriving DecidableEq, Repr

/-- HBM, or a scratchpad window, which follows its logical acre (R290, R602); a doubled logical acre's scratchpad
lies in locked reservoir lines, here acres 272 to 287 of the map (R578). -/
def locate (s : State) (addr : Nat) : Loc :=
  if addr < 0x9000000000 then .hbm addr
  else if addr < 0xC000000000 then .nowhere
  else if addr < 0xC400000000 then
    let d := (addr - 0xC000000000) / 0x100000000
    let o := (addr - 0xC000000000) % 0x100000000
    let la := o / 0x4000000
    let off := o % 0x4000000
    if off < 0x200000 then
      (match lookupK s.doubled (d * 64 + la) with
       | some k => .spad (272 + d * 4 + k) off
       | none => .spad (physOf s d la) off)
    else .nowhere
  else .nowhere

/-- The key of a scratchpad byte. -/
def spadKey (g off : Nat) : Nat := g * 0x200000 + off

/-- What an unlisted byte of memory reads as (log entry 6). -/
def memDefault : Byte := 0

/-- One byte at an address; zero where nothing lies (R290, R601). -/
def rdByte (s : State) (addr : Nat) : Byte :=
  match locate s addr with
  | .hbm a => getK s.hbm a memDefault
  | .spad g off => getK s.spad (spadKey g off) memDefault
  | .nowhere => 0

/-- Writes one byte; discarded where nothing lies. A full write clears poison elsewhere (see `wrBytes`). -/
def wrByte (addr : Nat) (b : Byte) (s : State) : State :=
  match locate s addr with
  | .hbm a => { s with hbm := setK s.hbm a b memDefault }
  | .spad g off => { s with spad := setK s.spad (spadKey g off) b memDefault }
  | .nowhere => s

/-- n bytes from an address. -/
def rdBytes (s : State) (addr n : Nat) : List Byte := (List.range n).map (fun i => rdByte s (addr + i))

/-- Writes bytes from an address on, lowest first. -/
def wrBytes (addr : Nat) : List Byte → State → State
  | [], s => s
  | b :: bs, s => wrBytes (addr + 1) bs (wrByte addr b s)

/-- The little-endian value of bytes. -/
def leVal : List Byte → Nat
  | [] => 0
  | b :: bs => b.toNat + 256 * leVal bs

/-- The n little-endian bytes of a value. -/
def leBytes : Nat → Nat → List Byte
  | 0, _ => []
  | n + 1, v => BitVec.ofNat 8 v :: leBytes n (v / 256)

/-- A little-endian value of n bytes at an address. -/
def rdLE (s : State) (addr n : Nat) : Nat := leVal (rdBytes s addr n)

/-- Writes a little-endian value of n bytes. -/
def wrLE (addr n v : Nat) (s : State) : State := wrBytes addr (leBytes n v) s

/-- A field of a byte string: n bytes at offset o, little-endian. -/
def fieldLE (bs : List Byte) (o n : Nat) : Nat := leVal ((bs.drop o).take n)

/-- The two's complement value of the low w bits. -/
def sext (w v : Nat) : Int := if v % 2 ^ w < 2 ^ (w - 1) then (v % 2 ^ w : Nat) else (v % 2 ^ w : Nat) - (2 ^ w : Nat)

/-- The low w bits of an integer, two's complement. -/
def toBits (w : Nat) (v : Int) : Nat := (v % (2 ^ w : Nat)).toNat

/-- Every byte of HBM and of the scratchpads is in canonical form: addresses rise, no entry equals the default. -/
def memWf (s : State) : Bool := canonK s.hbm memDefault && canonK s.spad memDefault

end Sys2Proof.Machine
end

