-- ==== Sys2Proof/Machine/Fp.lean ====
section
/-!
DEFINITION. Number formats and the arithmetic of the Lateral engine (R117 to R123): FP32, BF16, FP16, FP8 and the
integer formats, correctly rounded add, multiply, fused multiply-add and conversion, and the ordered sums.
-/

namespace Sys2Proof.Machine

/-- Formats of *Table: Lateral formats* (R118). -/
inductive LFmt | int32 | fp32 | bf16 | fp16 | e4m3 | e5m2 | int8 | uint8 | int4 | uint4
  deriving DecidableEq, Repr

/-- Right shift by e = 0, 1 or 2 rounding to nearest with ties to even (R108). -/
def rshiftRne (v : Int) (e : Nat) : Int :=
  if e = 0 then v
  else
    let q := v.fdiv (2 ^ e : Nat)
    let r := v - q * (2 ^ e : Nat)
    let half : Int := (2 ^ (e - 1) : Nat)
    if r > half ∨ (r = half ∧ q % 2 = 1) then q + 1 else q

/-- A natural shifted right with rounding to nearest, ties to even. -/
def shrRne (m s : Nat) : Nat := (rshiftRne (m : Int) s).toNat

/-- Clamps to a signed range of w bits. -/
def satS (w : Nat) (v : Int) : Int := max (-(2 ^ (w - 1) : Nat)) (min ((2 ^ (w - 1) : Nat) - 1) v)

/-- Clamps to an unsigned range of w bits. -/
def satU (w : Nat) (v : Int) : Int := max 0 (min ((2 ^ w : Nat) - 1) v)

/-- A floating-point value: m × 2^e with a sign. -/
inductive FVal
  | nan
  | inf (neg : Bool)
  | fin (neg : Bool) (m : Nat) (e : Int)
  deriving DecidableEq, Repr

/-- A binary format: exponent and fraction bits, flush of subnormals, largest finite pattern, infinity pattern,
what an overflow becomes, canonical NaN. -/
structure FFmt where
  eb   : Nat
  mb   : Nat
  ftz  : Bool
  maxF : Nat
  inf  : Option Nat
  ovf  : Nat
  nan  : Nat

def ffFp32 : FFmt := ⟨8, 23, true, 0x7F7FFFFF, some 0x7F800000, 0x7F800000, 0x7FC00000⟩
def ffBf16 : FFmt := ⟨8, 7, true, 0x7F7F, some 0x7F80, 0x7F80, 0x7FC0⟩
def ffFp16 : FFmt := ⟨5, 10, false, 0x7BFF, some 0x7C00, 0x7C00, 0x7E00⟩
def ffE4m3 : FFmt := ⟨4, 3, false, 0x7E, none, 0x7E, 0x7F⟩
def ffE5m2 : FFmt := ⟨5, 2, false, 0x7B, some 0x7C, 0x7B, 0x7F⟩

/-- The value of a bit pattern; subnormals are flushed to signed zero in FP32 and BF16 (R118). -/
def unpackF (f : FFmt) (b : Nat) : FVal :=
  let sgn := (b >>> (f.eb + f.mb)) % 2 = 1
  let mag := b % 2 ^ (f.eb + f.mb)
  let bias : Int := (2 ^ (f.eb - 1) : Nat) - 1
  if mag > f.maxF then
    (match f.inf with
     | some i => if mag = i then .inf sgn else .nan
     | none => .nan)
  else
    let ex := mag >>> f.mb
    let fr := mag % 2 ^ f.mb
    if ex = 0 then
      (if f.ftz then .fin sgn 0 0 else .fin sgn fr (1 - bias - f.mb))
    else .fin sgn (fr + 2 ^ f.mb) ((ex : Int) - bias - f.mb)

/-- Number of bits of a natural. -/
def bitLen (n : Nat) : Nat := if n = 0 then 0 else Nat.log2 n + 1

/-- The bit pattern of a value, rounded to nearest with ties to even; a subnormal result is flushed to signed zero
in FP32 and BF16 (R118, R119, log entry 15). -/
def packF (f : FFmt) (v : FVal) : Nat :=
  let sb := 2 ^ (f.eb + f.mb)
  let bias : Int := (2 ^ (f.eb - 1) : Nat) - 1
  match v with
  | .nan => f.nan
  | .inf n => (if n then sb else 0) + (match f.inf with | some i => i | none => f.maxF)
  | .fin n m e =>
    let s := if n then sb else 0
    if m = 0 then s
    else
      let top : Int := (bitLen m : Int) - 1 + e
      let q : Int := (max top (1 - bias)) - f.mb
      let sig : Nat := if q ≤ e then m <<< (e - q).toNat else shrRne m (q - e).toNat
      let bits : Nat := (q + f.mb + bias - 1).toNat * 2 ^ f.mb + sig
      if bits > f.maxF then s + f.ovf
      else if f.ftz ∧ bits < 2 ^ f.mb then s
      else s + bits

/-- An FP32 value. -/
def fv (w : Word) : FVal := unpackF ffFp32 w.toNat
/-- Rounds to FP32. -/
def fw (v : FVal) : Word := BitVec.ofNat 32 (packF ffFp32 v)

def isNaN (w : Word) : Bool := fv w = .nan
def f32Inf : Word := 0x7F800000
def f32NegInf : Word := 0xFF800000
def f32One : Word := 0x3F800000
def f32Nan : Word := 0x7FC00000
def f32Log2e : Word := 0x3FB8AA3B
def f32C127 : Word := 0x42FE0000
def f32C255 : Word := 0x437F0000

def fvNeg : FVal → FVal
  | .nan => .nan
  | .inf n => .inf (!n)
  | .fin n m e => .fin (!n) m e

/-- The signed significand of a finite value. -/
def sgnM (n : Bool) (m : Nat) : Int := if n then -(m : Int) else m

/-- The exact sum of two values; an exact zero sum of unlike signs is +0. -/
def fvAdd (a b : FVal) : FVal :=
  match a, b with
  | .nan, _ => .nan
  | _, .nan => .nan
  | .inf n, .inf k => if n = k then .inf n else .nan
  | .inf n, _ => .inf n
  | _, .inf k => .inf k
  | .fin n m e, .fin k p g =>
    if m = 0 ∧ p = 0 then .fin (n && k) 0 0
    else if m = 0 then b
    else if p = 0 then a
    else
      let q := min e g
      let t := sgnM n m * (2 ^ (e - q).toNat : Nat) + sgnM k p * (2 ^ (g - q).toNat : Nat)
      .fin (decide (t < 0)) t.natAbs q

/-- The exact product of two values. -/
def fvMul (a b : FVal) : FVal :=
  match a, b with
  | .nan, _ => .nan
  | _, .nan => .nan
  | .inf n, .inf k => .inf (n != k)
  | .inf n, .fin k p _ => if p = 0 then .nan else .inf (n != k)
  | .fin n m _, .inf k => if m = 0 then .nan else .inf (n != k)
  | .fin n m e, .fin k p g => .fin (n != k) (m * p) (e + g)

/-- FP32 operations, each rounded once (R119). -/
def fadd (a b : Word) : Word := fw (fvAdd (fv a) (fv b))
def fsub (a b : Word) : Word := fw (fvAdd (fv a) (fvNeg (fv b)))
def fmul (a b : Word) : Word := fw (fvMul (fv a) (fv b))
def ffma (a b c : Word) : Word := fw (fvAdd (fvMul (fv a) (fv b)) (fv c))
def fneg (a : Word) : Word := fw (fvNeg (fv a))
def fabs (a : Word) : Word :=
  match fv a with
  | .nan => f32Nan
  | .inf _ => f32Inf
  | .fin _ m e => fw (.fin false m e)

/-- a / b in a Lateral computation: a × rcp(b) (R119). -/
def fdivL (a b : Word) : Word := fmul a (Config.rcp b)

/-- An order key of a non-NaN FP32 pattern after flushing: −0 below +0 (R119). -/
def fkey (w : Word) : Int :=
  let b := packF ffFp32 (fv w)
  if b < 2 ^ 31 then (b : Int) else -((b : Int) - 2 ^ 31) - 1

/-- An operand as the Lateral engine takes it: a subnormal is a zero of its sign (R118). -/
def fin32 (w : Word) : Word := fw (fv w)

/-- max and min: a NaN operand gives the other (R119). -/
def fmax (a b : Word) : Word :=
  if isNaN a then (if isNaN b then f32Nan else fin32 b)
  else if isNaN b then fin32 a else if fkey a ≥ fkey b then fin32 a else fin32 b
def fmin (a b : Word) : Word :=
  if isNaN a then (if isNaN b then f32Nan else fin32 b)
  else if isNaN b then fin32 a else if fkey a ≤ fkey b then fin32 a else fin32 b

/-- Numeric comparisons; false with a NaN; zeros compare equal. -/
def fcmpKey (w : Word) : Int := let k := fkey w; if k = -1 then 0 else k
def flt (a b : Word) : Bool := !isNaN a && !isNaN b && fcmpKey a < fcmpKey b
def fle (a b : Word) : Bool := !isNaN a && !isNaN b && fcmpKey a ≤ fcmpKey b
def feq (a b : Word) : Bool := !isNaN a && !isNaN b && fcmpKey a = fcmpKey b

/-- An integer as FP32 (rne). -/
def fOfInt (v : Int) : Word := fw (.fin (decide (v < 0)) v.natAbs 0)

/-- 2^e as an FP32 factor. -/
def fPow2 (e : Int) : Word := fw (.fin false 1 e)

/-- An FP32 value rounded to nearest, ties to even, to an integer of a range; a NaN gives 0, an infinity the bound
of its sign (R118). -/
def fToInt (lo hi : Int) (w : Word) : Int :=
  match fv w with
  | .nan => 0
  | .inf n => if n then lo else hi
  | .fin n m e =>
    let r : Int := if e ≥ 0 then (m * 2 ^ e.toNat : Nat) else (shrRne m (-e).toNat : Nat)
    max lo (min hi (if n then -r else r))

/-- The unclamped rounded integer, or none where it is not finite. -/
def fRne (w : Word) : Option Int :=
  match fv w with
  | .nan => some 0
  | .inf _ => none
  | .fin n m e =>
    let r : Int := if e ≥ 0 then (m * 2 ^ e.toNat : Nat) else (shrRne m (-e).toNat : Nat)
    some (if n then -r else r)

/-- Element size of a format in bits. -/
def fmtBits : LFmt → Nat
  | .int32 => 32 | .fp32 => 32 | .bf16 => 16 | .fp16 => 16 | .e4m3 => 8 | .e5m2 => 8
  | .int8 => 8 | .uint8 => 8 | .int4 => 4 | .uint4 => 4

/-- An element as FP32: widening is exact, integers round (R118). -/
def toF32 (f : LFmt) (b : Nat) : Word :=
  match f with
  | .int32 => fOfInt (sext 32 b)
  | .fp32 => fw (unpackF ffFp32 b)
  | .bf16 => fw (unpackF ffBf16 b)
  | .fp16 => fw (unpackF ffFp16 b)
  | .e4m3 => fw (unpackF ffE4m3 b)
  | .e5m2 => fw (unpackF ffE5m2 b)
  | .int8 => fOfInt (sext 8 b)
  | .uint8 => fOfInt (b % 256 : Nat)
  | .int4 => fOfInt (sext 4 b)
  | .uint4 => fOfInt (b % 16 : Nat)

/-- An FP32 value converted into a format (R118). -/
def ofF32 (f : LFmt) (w : Word) : Nat :=
  match f with
  | .int32 => toBits 32 (fToInt (-2147483648) 2147483647 w)
  | .fp32 => packF ffFp32 (fv w)
  | .bf16 => packF ffBf16 (fv w)
  | .fp16 => packF ffFp16 (fv w)
  | .e4m3 => packF ffE4m3 (fv w)
  | .e5m2 => packF ffE5m2 (fv w)
  | .int8 => toBits 8 (fToInt (-128) 127 w)
  | .uint8 => toBits 8 (fToInt 0 255 w)
  | .int4 => toBits 4 (fToInt (-8) 7 w)
  | .uint4 => toBits 4 (fToInt 0 15 w)

/-- Conversion between two formats with one rounding (R119). -/
def convFmt (src dst : LFmt) (b : Nat) : Nat :=
  match src, dst with
  | .int32, .int32 => b % 2 ^ 32
  | .int32, .int8 => toBits 8 (satS 8 (sext 32 b))
  | .int32, .uint8 => toBits 8 (satU 8 (sext 32 b))
  | .int32, .int4 => toBits 4 (satS 4 (sext 32 b))
  | .int32, .uint4 => toBits 4 (satU 4 (sext 32 b))
  | .int32, .bf16 => packF ffBf16 (.fin (decide (sext 32 b < 0)) (sext 32 b).natAbs 0)
  | .int32, .fp16 => packF ffFp16 (.fin (decide (sext 32 b < 0)) (sext 32 b).natAbs 0)
  | .int32, .e4m3 => packF ffE4m3 (.fin (decide (sext 32 b < 0)) (sext 32 b).natAbs 0)
  | .int32, .e5m2 => packF ffE5m2 (.fin (decide (sext 32 b < 0)) (sext 32 b).natAbs 0)
  | _, _ => ofF32 dst (toF32 src b)

/-- The adds of lane i in ascending order (R123). -/
def laneFold (f : Word → Word → Word) (z : Word) : List Word → Word := List.foldl f z

/-- Elements i, i + 64, i + 128 … of a list. -/
def laneElems (xs : List Word) (i : Nat) : List Word :=
  (List.range ((xs.length + 63) / 64)).filterMap (fun k => xs[i + 64 * k]?)

/-- One level of the pairwise tree. -/
def pairUp (f : Word → Word → Word) : List Word → List Word
  | a :: b :: t => f a b :: pairUp f t
  | t => t

/-- The fixed pairwise tree over the 64 lanes (R123). -/
def laneTree (f : Word → Word → Word) (xs : List Word) : Word :=
  ((pairUp f) (pairUp f (pairUp f (pairUp f (pairUp f (pairUp f xs)))))).getD 0 0

/-- A Lateral sum over a vector (R123). -/
def latSum (xs : List Word) : Word :=
  laneTree fadd ((List.range 64).map (fun i => laneFold fadd 0 (laneElems xs i)))

/-- The sum of squares, each square added into its lane sum by a fused multiply-add (R124). -/
def latSumSq (xs : List Word) : Word :=
  laneTree fadd ((List.range 64).map (fun i => laneFold (fun a x => ffma x x a) 0 (laneElems xs i)))

/-- The maximum in the order of R123; NaN elements are left out. -/
def latMax (xs : List Word) : Word :=
  laneTree fmax ((List.range 64).map (fun i => laneFold fmax f32Nan (laneElems xs i)))

/-- The epilogues of a drain (R122, R256): none, relu, silu, gelu, sigmoid, tanh; 6 multiplies by a second tile.
relu is max(v, +0) (log entry 16). -/
def epilogue (op : Nat) (v m : Word) : Word :=
  match op with
  | 1 => fmax v 0
  | 2 => Config.silu v
  | 3 => Config.gelu v
  | 4 => Config.sigmoid v
  | 5 => Config.tanh v
  | 6 => fmul v m
  | _ => v

end Sys2Proof.Machine
end

