-- ==== Sys2Proof/Machine/Operands.lean ====
section
/-!
DEFINITION. Operand forms: the fields of a course descriptor (R255 to R260), the walk of its levels (R261), the
tile layouts of accumulators, inputs, weights, preload sources and drains, and the slots of chained regions.
-/

namespace Sys2Proof.Machine

/-! ### Descriptor fields (R255) -/

def dKind (d : List Byte) : Nat := fieldLE d 0x02 1
def dFlags (d : List Byte) : Nat := fieldLE d 0x03 1
def dCin (d : List Byte) : Bool := (dFlags d).testBit 0
def dCout (d : List Byte) : Bool := (dFlags d).testBit 1
def dYield (d : List Byte) : Bool := (dFlags d).testBit 2
def dList (d : List Byte) : Bool := (dFlags d).testBit 3
def dPred (d : List Byte) : Bool := (dFlags d).testBit 4
def dLast (d : List Byte) : Bool := (dFlags d).testBit 7
def dId (d : List Byte) : Nat := fieldLE d 0x04 4
def dLayer (d : List Byte) : Nat := fieldLE d 0x08 2
def dRoles (d : List Byte) : Nat := fieldLE d 0x0A 1
def dHolding (d : List Byte) : Nat := fieldLE d 0x0B 1
def dExec (d : List Byte) : Nat := fieldLE d 0x0C 2
def dContrib (d : List Byte) : Nat := fieldLE d 0x0E 2
def dWfmt (d : List Byte) : Nat := fieldLE d 0x10 1
def dXfmt (d : List Byte) : Nat := fieldLE d 0x11 1
def dYfmt (d : List Byte) : Nat := fieldLE d 0x12 1
def dOp (d : List Byte) : Nat := fieldLE d 0x13 1
def dGlog (d : List Byte) : Nat := fieldLE d 0x14 1
def dPreload (d : List Byte) : Nat := fieldLE d 0x15 1 % 4
def dPark (d : List Byte) : Bool := (fieldLE d 0x15 1).testBit 2
def dRedmode (d : List Byte) : Nat := fieldLE d 0x16 1
def dWeir (d : List Byte) : Nat := fieldLE d 0x17 1
def dScales (d : List Byte) : Nat := fieldLE d 0x18 1
def dNlev (d : List Byte) : Nat := fieldLE d 0x19 1
def dSpadKib (d : List Byte) : Nat := fieldLE d 0x1A 2
def dParam (d : List Byte) : Word := BitVec.ofNat 32 (fieldLE d 0x1C 4)
def dX (d : List Byte) : Nat := fieldLE d 0xB0 8
def dW (d : List Byte) : Nat := fieldLE d 0xB8 8
def dY (d : List Byte) : Nat := fieldLE d 0xC0 8
def dP (d : List Byte) : Nat := fieldLE d 0xC8 8
def dL (d : List Byte) : Nat := fieldLE d 0xD0 8
def dBmem (d : List Byte) : Nat := fieldLE d 0xD8 8
def dSxoff (d : List Byte) : Nat := fieldLE d 0xE0 4
def dSwoff (d : List Byte) : Nat := fieldLE d 0xE4 4
def dPkoff (d : List Byte) : Nat := fieldLE d 0xE8 4
def dExpoff (d : List Byte) : Nat := fieldLE d 0xEC 4
def dCinIx (d : List Byte) : Nat := fieldLE d 0xF0 2
def dCoutIx (d : List Byte) : Nat := fieldLE d 0xF2 2

/-- Executor: logical acre, Cistern controller bit, field die (R255). -/
def dAcre (d : List Byte) : Nat := dExec d % 64
def dCtl (d : List Byte) : Bool := (dExec d).testBit 6
def dDie (d : List Byte) : Nat := (dExec d >>> 8) % 4

/-- One level record (R260). -/
structure Level where
  dim  : Nat
  bsrc : Nat
  bref : Nat
  bound : Nat
  step : Nat
  xs   : Int
  ws   : Int
  ys   : Int
  deriving DecidableEq, Repr

def dLevel (d : List Byte) (k : Nat) : Level :=
  let o := 0x20 + 24 * k
  ⟨fieldLE d o 1, fieldLE d (o + 1) 1, fieldLE d (o + 2) 1, fieldLE d (o + 4) 4, fieldLE d (o + 8) 4,
   sext 32 (fieldLE d (o + 12) 4), sext 32 (fieldLE d (o + 16) 4), sext 32 (fieldLE d (o + 20) 4)⟩

/-- The NLEVELS level records, L0 first. -/
def dLevels (d : List Byte) : List Level := (List.range (dNlev d)).map (dLevel d)

/-- The module physical address of a relocated 8-byte address field (R259): [63:56] is the region. -/
def physAddr (a : Nat) : Nat := a % 2 ^ 48

/-! ### The walk (R261) -/

/-- Iterations of a level under a bound. -/
def iters (b step : Nat) : Nat := if step = 0 then 0 else (b + step - 1) / step

/-- Iteration counts of the levels, L0 first, under the bounds held at issue. -/
def walkIters (d : List Byte) (bounds : List Nat) : List Nat :=
  (dLevels d).zipWith (fun l b => iters b l.step) bounds

/-- Iteration counts at the ceilings. -/
def ceilIters (d : List Byte) : List Nat := (dLevels d).map (fun l => iters l.bound l.step)

/-- The product of a list. -/
def prodL (l : List Nat) : Nat := l.foldl (· * ·) 1

/-- The index vector of the n-th tile, i[0] fastest. -/
def indexOf : List Nat → Nat → List Nat
  | [], _ => []
  | it :: its, n => if it = 0 then 0 :: indexOf its n else n % it :: indexOf its (n / it)

/-- Tile addresses and extents at an index vector (R261). -/
structure TilePos where
  x : Nat
  w : Nat
  y : Nat
  p : Nat
  ext : List Nat
  idx : List Nat
  deriving DecidableEq, Repr

def addStride (base : Nat) (strides : List Int) (idx : List Nat) : Nat :=
  ((base : Int) + (strides.zipWith (fun s i => s * (i : Int)) idx).foldl (· + ·) 0).toNat

def tilePos (d : List Byte) (bounds : List Nat) (n : Nat) : TilePos :=
  let ls := dLevels d
  let idx := indexOf (walkIters d bounds) n
  { x := addStride (physAddr (dX d)) (ls.map (·.xs)) idx
    w := addStride (physAddr (dW d)) (ls.map (·.ws)) idx
    y := addStride (physAddr (dY d)) (ls.map (·.ys)) idx
    p := addStride (physAddr (dP d)) (ls.map (·.ys)) idx
    ext := (ls.zip (bounds.zip idx)).map (fun t => min t.1.step (t.2.1 - t.2.2 * t.1.step))
    idx := idx }

/-- The position of the level of a DIM code, if the course has one. -/
def dimPos (d : List Byte) (dim : Nat) : Option Nat := ((dLevels d).map (·.dim)).findIdx? (· = dim)

/-- Number of tiles of the walk. -/
def walkTiles (d : List Byte) (bounds : List Nat) : Nat := prodL (walkIters d bounds)

/-! ### MATMUL: groups, fills and weight tiles -/

/-- G of R98. -/
def dG (d : List Byte) : Nat := 2 ^ dGlog d
/-- ch: channels of one macro (R98). -/
def dCh (d : List Byte) : Nat := if dWfmt d = 1 then 128 else 64
/-- n_e: entries per token of a pass round (R98). -/
def dNe (d : List Byte) : Nat := (64 / dG d) * dCh d
/-- T: tokens that a tile covers (R98). -/
def dT (d : List Byte) : Nat := 8192 / dNe d

/-- Iteration count of the RED level and the number of tiles below it (N_live of R264 at the bounds). -/
def redIters (d : List Byte) (bounds : List Nat) : Nat :=
  match dimPos d 3 with
  | some k => (walkIters d bounds).getD k 1
  | none => 1
def belowRed (d : List Byte) (bounds : List Nat) : Nat :=
  match dimPos d 3 with
  | some k => prodL ((walkIters d bounds).take k)
  | none => 1

/-- RED iteration of tile n. -/
def redOf (d : List Byte) (bounds : List Nat) (n : Nat) : Nat :=
  if redIters d bounds ≤ 1 then 0 else n / belowRed d bounds % redIters d bounds

/-- N_live at the ceilings, by which the park area is laid out (R264, R266). -/
def nLive (d : List Byte) : Nat :=
  match dimPos d 3 with
  | some k => prodL ((ceilIters d).take k)
  | none => 1

/-- Does each RED iteration drain to the park area (R265, R266)? -/
def parks (d : List Byte) (bounds : List Nat) : Bool := dPark d && decide (redIters d bounds > 1)

/-- The fill that tile n belongs to: its own, or the live tile's across the RED iterations (R101, R265). -/
def fillOf (d : List Byte) (bounds : List Nat) (n : Nat) : Nat :=
  if parks d bounds ∨ redIters d bounds ≤ 1 then n
  else
    let b := belowRed d bounds
    n / (b * redIters d bounds) * b + n % b

/-- Number of fills of the course. -/
def fillCount (d : List Byte) (bounds : List Nat) : Nat :=
  if parks d bounds ∨ redIters d bounds ≤ 1 then walkTiles d bounds
  else walkTiles d bounds / redIters d bounds

/-- The first tile of a fill. -/
def firstTile (d : List Byte) (bounds : List Nat) (f : Nat) : Nat :=
  if parks d bounds ∨ redIters d bounds ≤ 1 then f
  else
    let b := belowRed d bounds
    f / b * (b * redIters d bounds) + f % b

/-- The last tile of a fill. -/
def lastTile (d : List Byte) (bounds : List Nat) (f : Nat) : Nat :=
  if parks d bounds ∨ redIters d bounds ≤ 1 then f
  else firstTile d bounds f + (redIters d bounds - 1) * belowRed d bounds

/-- The live tile number j of a fill (R266, R269). -/
def liveOf (d : List Byte) (bounds : List Nat) (f : Nat) : Nat :=
  if parks d bounds then f % belowRed d bounds else f

/-- The tiles below the contiguous run of levels with a weight stride (R263). -/
def belowWeights (d : List Byte) (bounds : List Nat) : Nat :=
  match (dLevels d).findIdx? (fun l => decide (l.ws ≠ 0)) with
  | some k => prodL ((walkIters d bounds).take k)
  | none => walkTiles d bounds

/-- The weight tile number of tile n: each iteration at or above the run names a tile to load (R263). -/
def weightTile (d : List Byte) (bounds : List Nat) (n : Nat) : Nat :=
  if belowWeights d bounds = 0 then 0 else n / belowWeights d bounds

/-- The first tile of the walk that uses weight tile q. -/
def weightFirst (d : List Byte) (bounds : List Nat) (q : Nat) : Nat := q * belowWeights d bounds

/-- The extent of a dimension in a tile, or a default where the course has no such level. -/
def extOf (d : List Byte) (p : TilePos) (dim dflt : Nat) : Nat :=
  match dimPos d dim with
  | some k => p.ext.getD k dflt
  | none => dflt

/-- The iteration index of a dimension in a tile. -/
def idxOf (d : List Byte) (p : TilePos) (dim : Nat) : Nat :=
  match dimPos d dim with
  | some k => p.idx.getD k 0
  | none => 0

/-- In-bound input rows and in-bound outputs of a tile (R65 to R67). -/
def inRows (d : List Byte) (p : TilePos) : Nat := extOf d p 3 (64 * dG d)
def inOuts (d : List Byte) (p : TilePos) : Nat := extOf d p 2 (dNe d)
def inToks (p : TilePos) : Nat := p.ext.getD 0 0

/-! ### Formats -/

def xfmtOf (c : Nat) : XFmt :=
  match c with
  | 1 => .uint8 | 2 => .int4 | 3 => .uint4 | _ => .int8

/-- Input bits b of a format (R55). -/
def xBits : XFmt → Nat
  | .int8 => 8 | .uint8 => 8 | .int4 => 4 | .uint4 => 4

/-- The value of an input element (R55). -/
def xVal (f : XFmt) (b : Nat) : Int :=
  match f with
  | .int8 => sext 8 b
  | .uint8 => (b % 256 : Nat)
  | .int4 => sext 4 b
  | .uint4 => (b % 16 : Nat)

/-- YFMT codes 0 to 6 (R256). -/
def yfmtOf (c : Nat) : LFmt :=
  match c with
  | 1 => .fp32 | 2 => .bf16 | 3 => .fp16 | 4 => .e4m3 | 5 => .e5m2 | 6 => .int8 | _ => .int32

/-- Format codes of VECTOR and MOVE inputs: XFMT codes extended by the Lateral codes (R256). -/
def latFmtX (c : Nat) : LFmt :=
  match c with
  | 0 => .int8 | 1 => .uint8 | 2 => .int4 | 3 => .uint4
  | 0x10 => .fp32 | 0x11 => .bf16 | 0x12 => .fp16 | 0x13 => .e4m3 | 0x14 => .e5m2 | _ => .int8

/-- Format codes of VECTOR and MOVE outputs: YFMT codes extended by the Lateral codes (R256). -/
def latFmtY (c : Nat) : LFmt :=
  match c with
  | 0x10 => .fp32 | 0x11 => .bf16 | 0x12 => .fp16 | 0x13 => .e4m3 | 0x14 => .e5m2 | c => yfmtOf c

/-- Element i of packed elements of a format from an address. -/
def rdElem (s : State) (f : LFmt) (addr i : Nat) : Nat :=
  match fmtBits f with
  | 4 => ((rdByte s (addr + i / 2)).toNat >>> (4 * (i % 2))) % 16
  | 8 => (rdByte s (addr + i)).toNat
  | 16 => rdLE s (addr + 2 * i) 2
  | _ => rdLE s (addr + 4 * i) 4

/-- Writes element i of packed elements of a format. -/
def wrElem (f : LFmt) (addr i v : Nat) (s : State) : State :=
  match fmtBits f with
  | 4 =>
    let a := addr + i / 2
    let old := (rdByte s a).toNat
    let nw := if i % 2 = 0 then old / 16 * 16 + v % 16 else old % 16 + v % 16 * 16
    wrByte a (BitVec.ofNat 8 nw) s
  | 8 => wrByte (addr + i) (BitVec.ofNat 8 v) s
  | 16 => wrLE (addr + 2 * i) 2 v s
  | _ => wrLE (addr + 4 * i) 4 v s

/-- FP32 at an address. -/
def rdF32 (s : State) (addr : Nat) : Word := BitVec.ofNat 32 (rdLE s addr 4)

/-- n elements as FP32. -/
def rdVec (s : State) (f : LFmt) (addr n : Nat) : List Word :=
  (List.range n).map (fun i => toF32 f (rdElem s f addr i))

/-- Writes FP32 values converted to a format. -/
def wrVecFrom (f : LFmt) (addr i : Nat) : List Word → State → State
  | [], s => s
  | v :: vs, s => wrVecFrom f addr (i + 1) vs (wrElem f addr i (ofF32 f v) s)
def wrVec (f : LFmt) (addr : Nat) (vs : List Word) (s : State) : State := wrVecFrom f addr 0 vs s

/-! ### Scratchpad windows and chains -/

/-- The address of an offset in the executor's scratchpad window (R259, R290). -/
def winAddr (d : List Byte) (off : Nat) : Nat := 0xC000000000 + dDie d * 0x100000000 + dAcre d * 0x4000000 + off

/-- An image by handle. -/
def getImage (s : State) (h : Nat) : Option Image := lookupK s.images h

/-- A chain of an image. -/
def getChain (s : State) (h ix : Nat) : Option Chain := (getImage s h).bind (fun im => im.chains[ix]?)

/-- The key of a slot's gate entry. -/
def gateKey (h ix slot : Nat) : Nat := (h * 65536 + ix) * 4096 + slot

def getGate (s : State) (h ix slot : Nat) : Gate := getK s.gates (gateKey h ix slot) {}
def setGate (h ix slot : Nat) (g : Gate) (s : State) : State :=
  { s with gates := setK s.gates (gateKey h ix slot) g {} }

/-- The slot becomes full and its consumer count NCONS, or 1 for a gather slot (R317). -/
def gateFill (h ix slot : Nat) (s : State) : State :=
  withSome (getChain s h ix) (fun c => setGate h ix slot ⟨true, if c.gather then 1 else c.ncons⟩) s

/-- A consumer has finished with a slot (R318). -/
def gateDrain (h ix slot : Nat) (s : State) : State :=
  let g := getGate s h ix slot
  setGate h ix slot (if g.cnt ≤ 1 then {} else ⟨true, g.cnt - 1⟩) s

/-- The address of a slot. -/
def slotAddr (c : Chain) (slot : Nat) : Nat := physAddr c.loc + slot * c.bytes

/-- The chain of an image whose slots hold an address, and the slot (R271). -/
def slotAt (s : State) (h addr : Nat) : Option (Nat × Nat) :=
  match getImage s h with
  | none => none
  | some im =>
    (List.range im.chains.length).findSome? (fun ix =>
      match im.chains[ix]? with
      | none => none
      | some c =>
        if physAddr c.loc ≤ addr ∧ addr < physAddr c.loc + c.slots * c.bytes ∧ c.bytes ≠ 0
        then some (ix, (addr - physAddr c.loc) / c.bytes) else none)

end Sys2Proof.Machine
end

