-- ==== Sys2Proof/Machine/Memory.lean ====
section
/-!
DEFINITION. Memory accesses of executors: home dies and channels of HBM addresses (R591, R602), poison (R323, R334,
R581), whole-word writes, and the activity that an access counts (R435).
-/

namespace Sys2Proof.Machine

/-! ### Activity counts (R435, R436): classes of a field die -/

def actPass8 : Nat := 0
def actPass4 : Nat := 1
def actRow : Nat := 2
def actLineRd : Nat := 3
def actLineWr : Nat := 4
def actAcc : Nat := 5
def actLat : Nat := 6
def actSiphon : Nat := 7
def actRsv : Nat := 8
def actFlit : Nat := 9
def actSlot : Nat := 10
def actIssue : Nat := 11
def actHbm : Nat := 12
def actHost : Nat := 13

/-- Adds n events of a class on a die. -/
def actAdd (die k n : Nat) (a : Activity) : Activity := setK a (die * 16 + k) (getK a (die * 16 + k) 0 + n) 0

/-- The sum of two activity counts. -/
def actSum (a b : Activity) : Activity := b.foldl (fun m e => setK m e.1 (getK m e.1 0 + e.2) 0) a

/-! ### Homes of addresses -/

/-- The field die that owns an HBM address (R602). -/
def hbmDie (addr : Nat) : Nat := addr / 0x2400000000

/-- The region of an accepted image that holds an address. -/
def regionAt (s : State) (addr : Nat) : Option Region :=
  s.images.findSome? (fun e => e.2.regions.find? (fun r => decide (r.base ≤ addr) && decide (addr < r.base + r.size)))

/-- The channel of an address under a key (R591): rotate the line address right by 3k, fold its 16-bit fields. -/
def hbmChannel (key addr : Nat) : Nat :=
  let l := addr % 0x2400000000 / 128
  let r := (l >>> (3 * key)) + (l % 2 ^ (3 * key)) <<< (41 - 3 * key)
  let h := Nat.xor (Nat.xor (r % 65536) (r / 65536 % 65536)) (r / 2 ^ 32 % 65536)
  h * 96 / 65536

/-- The HBM stack of an address: 32 channels each (R602, R591). -/
def hbmStack (s : State) (addr : Nat) : Nat :=
  let key := match regionAt s addr with
    | some r => r.hkey
    | none => 0
  3 * hbmDie addr + hbmChannel key addr / 32

/-- Is the address in a reservoir-resident region (R331)? -/
def isResident (s : State) (addr : Nat) : Bool :=
  match regionAt s addr with
  | some r => r.res
  | none => false

/-! ### Poison -/

/-- The fault of a read of n bytes (R323, R334, R581): the unit class and index of the first poisoned word, line or
block; code 0x43. -/
def readFault (s : State) (addr n : Nat) : Option (Nat × Nat) :=
  if n = 0 then none
  else
    match locate s addr with
    | .spad g off =>
      ((getAcre s g).poison.find? (fun e => decide (off < 8 * e.1 + 8) && decide (8 * e.1 < off + n) && e.2)).map
        (fun e => (6, g * 8 + e.1 / 8 % 8))
    | .hbm a =>
      match s.hbmPoison.find? (fun e => decide (a < 64 * e.1 + 64) && decide (64 * e.1 < a + n) && e.2) with
      | some e => some (12, hbmStack s (64 * e.1))
      | none =>
        (s.rsvPoison.find? (fun e => decide (a < 128 * e.1 + 128) && decide (128 * e.1 < a + n) && e.2)).map
          (fun e => (2, hbmDie (128 * e.1)))
    | .nowhere => none

/-- A full write of a word, block or line ends its poison (R323, R581). -/
def clearPoison (addr n : Nat) (s : State) : State :=
  match locate s addr with
  | .spad g off =>
    modAcre g (fun a => { a with poison := a.poison.filter (fun e => !(decide (off ≤ 8 * e.1) && decide (8 * e.1 + 8 ≤ off + n))) }) s
  | .hbm a =>
    { s with hbmPoison := s.hbmPoison.filter (fun e => !(decide (a ≤ 64 * e.1) && decide (64 * e.1 + 64 ≤ a + n)))
             rsvPoison := s.rsvPoison.filter (fun e => !(decide (a ≤ 128 * e.1) && decide (128 * e.1 + 128 ≤ a + n))) }
  | .nowhere => s

/-- Writes bytes and ends the poison of the words that they cover whole. -/
def wrMem (addr : Nat) (bs : List Byte) (s : State) : State := clearPoison addr bs.length (wrBytes addr bs s)

/-! ### Traffic -/

/-- The field die of an acre of the map; acres 272 to 287 are the scratchpads of doubled acres. -/
def acreDie (g : Nat) : Nat := if g < 272 then g / 68 else (g - 272) / 4

/-- Hops between two dies on the ring of four. -/
def ringHops (a b : Nat) : Nat := min ((a + 4 - b) % 4) ((b + 4 - a) % 4)

/-- The activity of an access of n bytes by an executor on a die (R284, R330, R435), and the misses it counts. -/
def traffic (die addr n : Nat) (wr : Bool) (act : Activity) (s : State) : Activity × State :=
  if n = 0 then (act, s)
  else
    match locate s addr with
    | .spad g _ =>
      let lines := (addr % 64 + n + 63) / 64
      let a := actAdd (acreDie g) (if wr then actLineWr else actLineRd) lines act
      (actAdd die actFlit ((n + 255) / 256 * ringHops die (acreDie g)) a, s)
    | .hbm h =>
      let home := hbmDie h
      let lines := (h % 128 + n + 127) / 128
      let a := actAdd die actFlit ((n + 255) / 256 * ringHops die home) (actAdd home actRsv lines act)
      if isResident s h then (a, s)
      else
        let miss := min lines (Config.rsvMisses s.freeCtr lines)
        (actAdd home actHbm (2 * miss) a,
          bumpPair (rsvB home) 0x104 miss { s with freeCtr := s.freeCtr + 1 })
    | .nowhere => (act, s)

end Sys2Proof.Machine
end

