-- ==== Sys2Proof/Machine/Course.lean ====
section
/-!
DEFINITION. The life of a course: issue checks (R254), refusal, faults, completion records (R110, R285, R286, R521),
chains that break (R282), and the bookkeeping that every executor shares.
-/

namespace Sys2Proof.Machine

/-! ### Basins and plots -/

/-- Basins of spare plots P120 to P127 are free spares until used (R134). -/
def basinDefault (b : Nat) : Basin := if b / 256 % 128 ≥ 120 then { st := .spareFree } else {}
def getBasin (s : State) (b : Nat) : Basin := getK s.cist.basins b (basinDefault b)
def setBasin (b : Nat) (v : Basin) (s : State) : State :=
  { s with cist := { s.cist with basins := setK s.cist.basins b v (basinDefault b) } }
def modBasin (b : Nat) (f : Basin → Basin) (s : State) : State := setBasin b (f (getBasin s b)) s
def plotOf (b : Nat) : Nat := b / 256
def getPlot (s : State) (p : Nat) : Plot := getK s.cist.plots p {}
def setPlot (p : Nat) (v : Plot) (s : State) : State :=
  { s with cist := { s.cist with plots := setK s.cist.plots p v {} } }
def modPlot (p : Nat) (f : Plot → Plot) (s : State) : State := setPlot p (f (getPlot s p)) s
/-- The field die of a basin: CS(2n) and CS(2n + 1) lie on FDn. -/
def basinDie (b : Nat) : Nat := b / 2 ^ 19
def plotDie (p : Nat) : Nat := p / 2 ^ 11
/-- The Cistern die (stack and die fields) of a basin or plot. -/
def cdieOf (b : Nat) : Nat := b / 2 ^ 15

/-- May a course of a holding name a basin (R136)? The image's mask of R43 governs ADMIT; a module-owned model
stays visible to the courses of its streams. The basins of a stack whose rail is off are retired (R569). -/
def basinVisible (s : State) (holding b : Nat) : Bool :=
  let o := (getBasin s b).owner
  let off (r : Rail) : Bool := match r with
    | .vcis n => n.val = basinDie b
    | .varr n => n.val = basinDie b
    | _ => false
  (decide (o = holding) || decide (o = 15)) && !s.ditch.railsOff.any off

/-- The basin that an image's logical basin index names (R175, log entry 46): its logical plot's bound plot. An index of no
bound plot names no basin of the module. -/
def bindBasin (im : Image) (i : Nat) : Nat :=
  match im.plots.find? (fun e => e.1 = i / 256) with
  | some e => e.2 * 256 + i % 256
  | none => 2 ^ 21 + i

/-- The first basins of the groups that a BASIN course names, at its ceilings. -/
def namedBasins (im : Image) (d : List Byte) : List Nat :=
  let its := ceilIters d
  ((List.range (prodL its)).map (fun n =>
    bindBasin im (addStride (physAddr (dW d)) ((dLevels d).map (·.ws)) (indexOf its n) % 2 ^ 21))).eraseDups

/-- The basins of the group whose first basin is b: those of the same plot and image with its GROUP number. -/
def groupBasins (s : State) (b : Nat) : List Nat :=
  let bs := getBasin s b
  (List.range 256).map (fun i => b / 256 * 256 + i) |>.filter (fun i =>
    let x := getBasin s i
    x.image = bs.image && x.group = bs.group && x.group ≠ 0xFFFF)

/-! ### Issue -/

/-- The role in force (R622): 0 Generation, 1 Prompt, 2 Mixed, 3 Cache. -/
def moduleRole (s : State) : Nat := getF s modB F.modRoleCurrent

/-- Does a role mask [0] Generation, [1] Prompt, [2] Mixed include the role? -/
def roleIn (mask role : Nat) : Bool := decide (role < 3) && mask.testBit role

/-- The executor of a course as a unit: an acre, or the field die of a Cistern controller (log entry 20). -/
def execUnit (s : State) (d : List Byte) : Nat × Nat :=
  if dCtl d then (2, dDie d) else (3, physOf s (dDie d) (dAcre d))

/-- The result of the issue checks. -/
inductive IssueRes
  | held
  | refuse (code : Nat)
  | zero (bounds : List Nat)
  | ok (bounds : List Nat)
  deriving DecidableEq, Repr

/-- Is a region number still named by the image, or the scratchpad window (R254, R259)? -/
def regionOk (im : Image) (a : Nat) : Bool :=
  a = 0 || a / 2 ^ 56 = 255 || im.regions.any (fun r => r.num = a / 2 ^ 56)

/-- Value of one bound at issue (R270); none while its slot's gate bit is empty (R271). -/
def boundVal (s : State) (iss : Issue) (d : List Byte) (l : Level) : Option Nat :=
  match l.bsrc with
  | 0 => some l.bound
  | 1 => some ((iss.cb.getD l.bref 0).toNat)
  | _ =>
    let a := physAddr (dBmem d) + 4 * l.bref
    match slotAt s iss.image a with
    | some (ix, slot) => if (getGate s iss.image ix slot).full then some (rdLE s a 4) else none
    | none => some (rdLE s a 4)

/-- Collects values, none if one is missing. -/
def allSome {α : Type} : List (Option α) → Option (List α)
  | [] => some []
  | none :: _ => none
  | some a :: t => (allSome t).map (a :: ·)

/-- The checks of an issue in the order of R254. -/
def issueCheck (s : State) (iss : Issue) (im : Image) (d : List Byte) : IssueRes :=
  if im.st ≠ .active then .refuse 0x22
  else if !roleIn (dRoles d) (moduleRole s) then .refuse 0x13
  else if !([dX d, dY d, dP d, dBmem d].all (regionOk im)) || (dKind d ≠ 2 && !regionOk im (dW d)) then .refuse 0x1A
  else if dKind d = 2 && !(namedBasins im d).all (fun b => decide (b < 2 ^ 21) && basinVisible s im.owner b) then .refuse 0x20
  else if dList d && im.sip.any (fun l => l.addr = physAddr (dL d) && l.bad) then .refuse 0x25
  else
    let ls := dLevels d
    if ls.any (fun l => l.bsrc = 2 && (readFault s (physAddr (dBmem d) + 4 * l.bref) 4).isSome) then .refuse 0x2B
    else
      match allSome (ls.map (boundVal s iss d)) with
      | none => .held
      | some bs =>
        if (ls.zip bs).any (fun t => t.1.bsrc ≠ 0 && t.2 > t.1.bound) then .refuse 0x2A
        else if (ls.zip bs).any (fun t => t.1.bsrc ≠ 0 && t.2 = 0) then
          (if dCout d then .refuse 0x2A else .zero bs)
        else .ok bs

/-- The descriptor of a course of an image. -/
def courseDesc (s : State) (iss : Issue) : Option (Image × List Byte) :=
  match getImage s iss.image with
  | none => none
  | some im => (im.courses[iss.id]?).map (fun d => (im, d))

/-- Sends a record to the issuer. -/
def sendRecord (r : CourseRec) (s : State) : State := { s with records := s.records ++ [r] }

/-- Marks the chains of a course as broken for the step (R282). -/
def breakChains (iss : Issue) (d : List Byte) (s : State) : State :=
  let add := (if dCin d then [(iss.image, dCinIx d, iss.work)] else [])
    ++ (if dCout d then [(iss.image, dCoutIx d, iss.work)] else [])
  { s with broken := s.broken ++ add.filter (fun x => !s.broken.contains x) }

/-- The freeze state (R594); a module without power is in none (R597). -/
def isFrozen (s : State) : Bool := getF s rlyB F.rlyFreezeFrozen = 1 && decide (s.power.phase ≠ .off)

/-- Units stand still while the module is frozen (R594) and while it is not in service (R630, R638, R641, R546). -/
def frozen (s : State) : Bool := isFrozen s || s.power.phase ≠ .service

/-- The issue pipeline counts every issue (ITK_ISSUE). -/
def countIssue (s : State) : State := bumpPair itkB 0x104 1 (idleExit s)

/-- Refuses a course at issue (R254): the issuer's record, the log, ITK_LAST, and CRS of an executor acre. -/
def refuseCourse (iss : Issue) (holding : Nat) (d : List Byte) (code : Nat) (s : State) : State :=
  let (cls, ix) := execUnit s d
  let st := statusWord holding ix cls code
  let r : CourseRec :=
    { issue := iss, holding := holding, exec := dExec d, status := st,
      startCtr := s.counter, endCtr := s.counter }
  let s1 := lastEvt itkB F.itkLastStatus st (logStatus st ix [iss.id, iss.image] (sendRecord r s))
  let s2 := whenB (cls = 3) (fun t =>
    irqRaise (crsB ix) 4 (lastEvt (crsB ix) F.crsLastevtStatus st (bumpF (crsB ix) F.crsRefusedRefused 1 t))) s1
  breakChains iss d s2

/-- An issue whose image or course does not exist is counted and refused with IMAGE_STATE (log entry 21). -/
def refuseUnknown (iss : Issue) (s : State) : State :=
  if frozen s then s
  else
    let s1 := countIssue s
    let st := statusWord 15 0 1 0x22
    lastEvt itkB F.itkLastStatus st (logStatus st 0 [iss.id, iss.image] (sendRecord
      { issue := iss, holding := 15, status := st, startCtr := s1.counter, endCtr := s1.counter } s1))

/-- A course with a bound of 0 completes at once with success (R272). -/
def zeroCourse (iss : Issue) (holding : Nat) (d : List Byte) (s : State) : State :=
  sendRecord { issue := iss, holding := holding, exec := dExec d, startCtr := s.counter, endCtr := s.counter } s

/-- The issue of a course up to its executor: refusals, a bound of 0 and a hold are handled here; an accepted
course goes to `k` with its image, descriptor and bounds. -/
def issueCourse (iss : Issue) (want : Image → List Byte → Bool)
    (k : Image → List Byte → List Nat → State → State) (s : State) : State :=
  match courseDesc s iss with
  | none => refuseUnknown iss s
  | some (im, d) =>
    if want im d then
      match issueCheck s iss im d with
      | .held => s
      | .refuse c => refuseCourse iss im.owner d c (countIssue s)
      | .zero _ => zeroCourse iss im.owner d (countIssue s)
      | .ok bs => k im d bs (countIssue s)
    else s

/-- A fresh course run. -/
def newRun (s : State) (iss : Issue) (im : Image) (d : List Byte) (bs : List Nat) : CourseRun :=
  { sn := s.serial, issue := iss, holding := im.owner, desc := d, bounds := bs, startCtr := s.counter }

def bumpSerial (s : State) : State := { s with serial := s.serial + 1 }

/-! ### Completion and faults of an acre course -/

/-- The status of a course that consumed a saturated collective output (R378): ATOMIC_SATURATED where it has no other. -/
def saturated (s : State) (c : CourseRun) (st : Word) : Word :=
  if st = 0 ∧ dCin c.desc ∧ s.satur.contains (c.issue.image, dCinIx c.desc, c.issue.work) then
    let (cls, ix) := execUnit s c.desc
    statusWord c.holding ix cls 0x4D
  else st

/-- The record of a run with a status code (0 success; 0x4D and 0x5B are carried by a course that went on). -/
def runRecord (s : State) (c : CourseRun) (status : Word) : CourseRec :=
  { issue := c.issue, holding := c.holding, exec := dExec c.desc, status := saturated s c status, spillExp := c.spillExp,
    spillTiles := c.spillTiles, startCtr := c.startCtr, endCtr := s.counter, act := c.act, shares := c.shares }

/-- The running course of an acre completes (R111, R521): its record, CRS_DONE; the running slot empties. -/
def completeRun (g : Nat) (s : State) : State :=
  withSome (getAcre s g).run (fun c t =>
    let st := if c.code = 0 then 0 else statusWord c.holding g 3 c.code
    bumpPair (crsB g) 0x150 1
      (sendRecord (runRecord s c st) (modAcre g (fun a => { a with run := none }) t))) s

/-- Discards what a course has in flight in an acre: rounds, fills, pending adds. Set contents stay. -/
def clearFlight (a : Acre) : Acre :=
  { a with rounds := [], held := false, acc0 := {}, acc1 := {}, atomics := [] }

/-- Reports the fault of a course on an acre: its record, CRS_DONE, the log, CRS, the event register of the faulting
scratchpad or reservoir, and the chain's other courses (R282, R286, R335). -/
def reportFault (g code cls ix : Nat) (c : CourseRun) (s : State) : State :=
  let st := statusWord c.holding ix cls code
  let t2 := bumpPair (crsB g) 0x150 1 (sendRecord (runRecord s c st) s)
  let t3 := logStatus st ix [c.issue.id, c.issue.image] t2
  let t4 := whenB (cls = 6 ∧ ix / 8 < 272) (lastEvt (spdB (ix / 8)) F.spdLastevtStatus st)
    (whenB (cls = 2 ∧ code = 0x43) (lastEvt (rsvB (ix % 4)) F.rsvLastevtStatus st) t3)
  let t5 := whenB (code = 0x40 ∨ code = 0x41 ∨ code = 0x42) (bumpF (crsB g) F.crsRefusedFaults 1) t4
  irqRaise (crsB g) 8 (lastEvt (crsB g) F.crsLastevtStatus (statusWord c.holding g 3 code)
    (breakChains c.issue c.desc t5))

/-- The running course of an acre faults (R286): it stops at once, and what it wrote stays written. -/
def faultRun (g code cls ix : Nat) (s : State) : State :=
  withSome (getAcre s g).run (fun c t =>
    reportFault g code cls ix c (modAcre g (fun a => { clearFlight a with run := none }) t)) s

/-- The pending course of an acre faults. -/
def faultPend (g code cls ix : Nat) (s : State) : State :=
  withSome (getAcre s g).pend (fun c t =>
    reportFault g code cls ix c (modAcre g (fun a => { a with pend := none }) t)) s

/-- Changes the running course of an acre. -/
def modRun (g : Nat) (f : CourseRun → CourseRun) (s : State) : State :=
  modAcre g (fun a => { a with run := a.run.map f }) s

/-- An acre can work: not frozen, in Flow (R490), and neither lost nor being copied out (R574, R575). -/
def acreLive (s : State) (g : Nat) : Bool :=
  !frozen s && decide ((getAcre s g).pw = .flow) && !s.swaps.any (fun j => j.old = g && (j.why = .fault || j.phase = .copying))

/-- Does the acre host a free slot for a whole course that runs at once? -/
def acreIdle (s : State) (g : Nat) : Bool :=
  acreLive s g && (getAcre s g).run.isNone && (getAcre s g).pend.isNone

end Sys2Proof.Machine
end

