-- ==== Sys2Proof/Machine/Sparing.lean ====
section
/-!
DEFINITION. Replacing an acre: the free spare, its wake, doubling, and what happens beyond the spares
(R569, R573 to R578, R493).
-/

namespace Sys2Proof.Machine

/-- Physical acres of a die. -/
def dieAcres (die : Nat) : List Nat := (List.range 68).map (fun p => die * 68 + p)

/-- The free spares of a die: unmapped, not retired, and in no swap or test. -/
def freeSpares (s : State) (die : Nat) : List Nat :=
  (dieAcres die).filter (fun g =>
    !inService s g && !(getAcre s g).retired && !(s.swaps.any (fun j => j.new = g || j.old = g))
      && !s.testing.contains g)

/-- The spare with the highest life fmax, the lower number on a tie (R574, log entry 22). -/
def bestSpare (s : State) (die : Nat) : Option Nat :=
  (freeSpares s die).foldl (fun b g =>
    match b with
    | none => some g
    | some x => if (getAcre s g).life > (getAcre s x).life then some g else some x) none

/-- Acres of a die in rail ramp: waking from Dry or Fallow (R493). -/
def ramping (s : State) (die : Nat) : Nat :=
  ((dieAcres die).filter (fun g => (getAcre s g).wake = some 1 || (getAcre s g).wake = some 2)).length

/-- Starts the wake sequence of an acre with a WAKE_TABLE entry; beyond 8 ramps of a die it waits (R493). -/
def startWake (g entry : Nat) (s : State) : State :=
  if (getAcre s g).wake.isSome ∨ s.wakeQ.any (fun q => q.1 = g) then s
  else if entry ≠ 0 ∧ ramping s (g / 68) ≥ 8 then { s with wakeQ := s.wakeQ ++ [(g, entry)] }
  else modAcre g (fun a => { a with wake := some entry }) s

/-- The spare counts of a die in RLY_SPARES. -/
def rlySpareFld (die : Nat) : Fld :=
  match die with
  | 0 => F.rlySparesSpare0 | 1 => F.rlySparesSpare1 | 2 => F.rlySparesSpare2 | _ => F.rlySparesSpare3
def rlyDoubledFld (die : Nat) : Fld :=
  match die with
  | 0 => F.rlySparesDoubled0 | 1 => F.rlySparesDoubled1 | 2 => F.rlySparesDoubled2 | _ => F.rlySparesDoubled3
/-- The doubled logical acres of a die (R578). -/
def dieDoubled (s : State) (die : Nat) : Nat := (s.doubled.filter (fun e => e.1 / 64 = die)).length
def countSpares (die : Nat) (s : State) : State :=
  setF rlyB (rlySpareFld die) (freeSpares s die).length
    (setF rlyB (rlyDoubledFld die) (dieDoubled s die) s)

/-- A fault beyond the spares (R569): BEYOND_SPARES is logged, admission closes, and every active stream is parked
at its next boundary with cause FAULT. -/
def beyondSpares (cls ix : Nat) (s : State) : State :=
  irqRaise strB 4 (setF strB F.strActiveClosed 1
    (logEv 0x31 cls ix [] { s with beyond := true }))

/-- The in-service acre of a die with the fewest issues in the last second, the lower number on a tie (R578). -/
def quietest (s : State) (die except : Nat) : Option Nat :=
  ((dieAcres die).filter (fun g => inService s g && g ≠ except && (logicalOf s g).length < 2)).foldl (fun b g =>
    match b with
    | none => some g
    | some x => if getK s.issued g 0 < getK s.issued x 0 then some g else some x) none

/-- A course that repeats from its start on another acre (R87, R574). -/
def restart (c : CourseRun) : CourseRun :=
  { c with tile := 0, nextFill := 0, drained := 0, yielding := false, yielded := false, replaced := true }

/-- Remaps the logical acres of one physical acre to another and moves what a logical acre keeps: banks, gate
entries, task pairs, both CB banks (R573, R574). The running course repeats from its start. -/
def remapAcre (old new : Nat) (s : State) : State :=
  let a := getAcre s old
  let b := getAcre s new
  let moved : Acre :=
    { b with run := a.run.map restart, pend := a.pend, aside := a.aside.map restart, extra := a.extra, banks := a.banks, pairs := a.pairs,
             poison := a.poison, macros := [], rounds := [], held := false, acc0 := {}, acc1 := {} }
  let spad' := (s.spad.filter (fun e => e.1 / 0x200000 = old)).foldl
    (fun m e => insertK m (spadKey new (e.1 % 0x200000)) e.2)
    (s.spad.filter (fun e => e.1 / 0x200000 ≠ new))
  let amap' := (logicalOf s old).foldl
    (fun m la => setK m (old / 68 * 64 + la) (new % 68) la) s.amap
  setAcre new moved (setAcre old { (clearFlight a) with run := none, pend := none, aside := none, extra := [] }
    { s with spad := spad'.filter (fun e => e.1 / 0x200000 ≠ old), amap := amap' })

/-- An in-service acre goes to the best spare, or with none its logical acre is doubled (R574, R578, R569). -/
def replaceNow (g : Nat) (s : State) : State :=
  let die := g / 68
  match bestSpare s die with
  | some sp => countSpares die (startWake sp 2 { s with swaps := s.swaps ++ [⟨g, sp, .fault, .waking⟩] })
  | none =>
    if dieDoubled s die < 4 then
      match quietest s die g with
      | some host =>
        let la := (logicalOf s g).getD 0 0
        let k := ((List.range 4).find? (fun k => !(s.doubled.any (fun e => e.1 / 64 = die && e.2 = k)))).getD 0
        let virt := 272 + die * 4 + k
        let spad' := (s.spad.filter (fun e => e.1 / 0x200000 = g)).foldl
          (fun m e => insertK m (spadKey virt (e.1 % 0x200000)) e.2)
          (s.spad.filter (fun e => e.1 / 0x200000 ≠ virt))
        let s1 := { s with spad := spad'.filter (fun e => e.1 / 0x200000 ≠ g)
                           doubled := insertK s.doubled (die * 64 + la) k
                           amap := setK s.amap (die * 64 + la) (host % 68) la }
        let old := getAcre s g
        let s2 := modAcre g (fun a => { clearFlight a with run := none, pend := none, retired := true, pw := .fallow }) s1
        let s3 := modAcre host (fun a =>
          { a with extra := a.extra ++ (old.run.map restart).toList ++ old.pend.toList ++ old.extra }) s2
        logEv 0x22 3 g [host, la] (countSpares die s3)
      | none => beyondSpares 3 g s
    else beyondSpares 3 g s

/-- An acre that serves no logical acre leaves service for good. -/
def retireSpare (g : Nat) (s : State) : State :=
  if (getAcre s g).retired then s
  else logEv 0x21 3 g [] (countSpares (g / 68) (modAcre g (fun a => { a with retired := true, pw := .fallow, wake := none }) s))

/-- The spare of a swap fails: the swap takes the next one, or stops; a replacement then goes on without a spare (R598). -/
def spareFailed (j : SwapJob) (s : State) : State :=
  let s1 := retireSpare j.new { s with swaps := s.swaps.filter (fun k => k ≠ j) }
  if j.why = .fault then replaceNow j.old s1
  else match bestSpare s1 (j.old / 68) with
    | some sp => countSpares (j.old / 68) (startWake sp 2 { s1 with swaps := s1.swaps ++ [⟨j.old, sp, j.why, .waking⟩] })
    | none => s1

/-- A lasting fault of an acre (R574): a planned swap of it becomes a replacement (R598); with both core pairs lost nothing is
spared any more (R569). -/
def replaceAcre (g : Nat) (s : State) : State :=
  if s.rely.coresLost then s
  else if s.swaps.any (fun j => j.old = g) then
    { s with swaps := s.swaps.map (fun j =>
        if j.old = g && j.why ≠ .fault then { j with why := .fault, phase := if j.phase = .waiting then .copying else j.phase } else j) }
  else match s.swaps.find? (fun j => j.new = g) with
    | some j => spareFailed j s
    | none => if inService s g then replaceNow g s else retireSpare g s

/-- New issues to a logical acre are held while it is being replaced or swapped (R252, R574, R575). -/
def issueHeld (s : State) (g : Nat) : Bool :=
  s.swaps.any (fun j => j.old = g && (j.why = .fault || j.phase ≠ .waking))

end Sys2Proof.Machine
end

