-- ==== Sys2Proof/Machine/Screen.lean ====
section
/-!
DEFINITION. Screen frames (R225 to R229, R315) and INT8 quantisation with a per-vector scale (R125).
-/

namespace Sys2Proof.Machine

/-- a rounded up to a multiple of m. -/
def roundUp (m a : Nat) : Nat := (a + m - 1) / m * m

/-- The FMT code of a frame (R227). -/
def frameFmt : LFmt → Nat
  | .int8 => 0 | .uint8 => 1 | .bf16 => 2 | .fp16 => 3 | .e4m3 => 4 | .e5m2 => 5 | _ => 0
def frameFmtOf (c : Nat) : Option LFmt :=
  match c with
  | 0 => some .int8 | 1 => some .uint8 | 2 => some .bf16 | 3 => some .fp16 | 4 => some .e4m3 | 5 => some .e5m2
  | _ => none

/-- Is an element zero for the Screen (R226): code 0, or +0 or −0? -/
def elemZero (f : LFmt) (v : Nat) : Bool :=
  match f with
  | .bf16 => v % 2 ^ 15 = 0
  | .fp16 => v % 2 ^ 15 = 0
  | .e4m3 => v % 2 ^ 7 = 0
  | .e5m2 => v % 2 ^ 7 = 0
  | _ => v = 0

/-- The bitmap word of group g. -/
def bitmapWord (f : LFmt) (vs : List Nat) (g : Nat) : Nat :=
  (List.range 64).foldl (fun n i =>
    match vs[64 * g + i]? with
    | some v => if elemZero f v then n else n + 2 ^ i
    | none => n) 0

/-- Non-zeros among the first k elements. -/
def nnzTo (f : LFmt) (vs : List Nat) (k : Nat) : Nat := ((vs.take k).filter (fun v => !elemZero f v)).length

/-- The bytes of the frame of a vector, packed or dense by R228, padded to 64 bytes. -/
def frameBytes (f : LFmt) (vs : List Nat) (scale : Option Word) : List Byte :=
  let n := vs.length
  let g := (n + 63) / 64
  let es := fmtBits f / 8
  let nnz := nnzTo f vs n
  let dense := roundUp 64 (16 + n * es)
  let packed := roundUp 64 (16 + 8 * g + roundUp 8 (2 * g) + nnz * es)
  let isDense := decide (dense < packed)
  let hdr := leBytes 2 n ++ leBytes 1 (frameFmt f)
    ++ leBytes 1 ((if isDense then 1 else 0) + (if scale.isSome then 2 else 0))
    ++ leBytes 2 nnz ++ leBytes 2 0 ++ leBytes 4 (match scale with | some w => w.toNat | none => 0) ++ leBytes 4 0
  let body :=
    if isDense then vs.flatMap (leBytes es)
    else (List.range g).flatMap (fun k => leBytes 8 (bitmapWord f vs k))
      ++ (List.range g).flatMap (fun k => leBytes 2 (nnzTo f vs (64 * k)))
      ++ List.replicate (roundUp 8 (2 * g) - 2 * g) 0
      ++ (vs.filter (fun v => !elemZero f v)).flatMap (leBytes es)
  let all := hdr ++ body
  all ++ List.replicate (roundUp 64 all.length - all.length) 0

/-- What a frame holds. -/
structure Frame where
  fmt   : LFmt
  elems : List Nat
  scale : Option Word
  dense : Bool
  deriving DecidableEq, Repr

/-- Set bits of a 64-bit word. -/
def popcount64 (w : Nat) : Nat := ((List.range 64).filter (fun i => w.testBit i)).length

/-- Restores the elements of a packed frame from its bitmap words and values. -/
def expandElems : List Bool → List Nat → List Nat
  | [], _ => []
  | true :: bs, v :: vs => v :: expandElems bs vs
  | true :: bs, [] => 0 :: expandElems bs []
  | false :: bs, vs => 0 :: expandElems bs vs

/-- Reads and checks a frame (R315): N, each bitmap word against DIR, NNZ, bits beyond N; none where it fails. -/
def readFrame (s : State) (addr n : Nat) : Option Frame :=
  let nn := rdLE s addr 2
  let flags := rdLE s (addr + 3) 1
  match frameFmtOf (rdLE s (addr + 2) 1) with
  | none => none
  | some f =>
    let es := fmtBits f / 8
    let g := (n + 63) / 64
    let nnz := rdLE s (addr + 4) 2
    let scale := if flags.testBit 1 then some (rdF32 s (addr + 8)) else none
    if nn ≠ n then none
    else if flags.testBit 0 then
      let vs := (List.range n).map (fun i => rdLE s (addr + 16 + es * i) es)
      if nnzTo f vs n = nnz then some ⟨f, vs, scale, true⟩ else none
    else
      let ws := (List.range g).map (fun k => rdLE s (addr + 16 + 8 * k) 8)
      let dirs := (List.range g).map (fun k => rdLE s (addr + 16 + 8 * g + 2 * k) 2)
      let sums := (List.range (g + 1)).map (fun k => ((ws.take k).map popcount64).foldl (· + ·) 0)
      let bits := ws.flatMap (fun w => (List.range 64).map (fun i => w.testBit i))
      if dirs = sums.take g && sums.getD g 0 = nnz && (bits.drop n).all (fun b => !b) then
        let base := addr + 16 + 8 * g + roundUp 8 (2 * g)
        let vals := (List.range nnz).map (fun i => rdLE s (base + es * i) es)
        some ⟨f, expandElems (bits.take n) vals, scale, false⟩
      else none

/-- Quantisation to INT8 with a per-vector scale (R125): the codes and the scale. -/
def quantise (xs : List Word) : List Nat × Word :=
  let a := latMax (xs.map fabs)
  if isNaN a ∨ feq a 0 then (xs.map (fun _ => 0), f32One)
  else
    let s := fmul a (Config.rcp f32C127)
    let r := if a = f32Inf then 0 else Config.rcp s
    (xs.map (fun x => toBits 8 (fToInt (-128) 127 (fmul x r))), if a = f32Inf then f32Inf else s)

/-- Counts a frame in the SCR block of its die: elements, non-zeros, dense frames. -/
def countFrame (die : Nat) (f : LFmt) (vs : List Nat) (bytes : List Byte) (s : State) : State :=
  let dense := (fieldLE bytes 3 1).testBit 0
  bumpF (scrB die) F.scrDenseDense (if dense then 1 else 0)
    (bumpPair (scrB die) 0x108 (nnzTo f vs vs.length) (bumpPair (scrB die) 0x100 vs.length s))

/-- The stride of the frames of a tile: the largest padded frame of its vector (log entry 23). -/
def frameStride (f : LFmt) (n : Nat) : Nat := roundUp 64 (16 + n * (fmtBits f / 8))

end Sys2Proof.Machine
end

