-- ==== Sys2Proof/Machine/Pass.lean ====
section
/-!
DEFINITION. The arithmetic of a Furrow pass and its residue check (R46 to R57, R78 to R80), and weight tiles
(R50 to R54, R65 to R67).
-/

namespace Sys2Proof.Machine

/-- bw: bit-columns of a weight (R50). -/
def wBits (int4 : Bool) : Nat := if int4 then 4 else 8

/-- nch: channels of a pass (R57). -/
def passCh (int4 : Bool) : Nat := if int4 then 128 else 64

/-- Bit-column col of row r (R51). -/
def colBit (row : BitVec 512) (col : Nat) : Nat := if row.getLsbD col then 1 else 0

/-- Bit p of an input element of b bits, two's complement. -/
def xBit (b : Nat) (x : Int) (p : Nat) : Nat := (toBits b x >>> p) % 2

/-- The weight of channel c in a row (R52 to R54). -/
def weightOf (int4 : Bool) (row : BitVec 512) (c : Nat) : Int :=
  sext (wBits int4) (row.toNat >>> (wBits int4 * c))

/-- The column sum of one plane (R46): rows whose input bit and weight bit are both 1. -/
def colSum (rows : List (BitVec 512)) (b : Nat) (xs : List Int) (p col : Nat) : Nat :=
  ((rows.zip xs).map (fun t => xBit b t.2 p * colBit t.1 col)).foldl (· + ·) 0

/-- The channel combine of one plane (R57). -/
def planeVal (int4 : Bool) (rows : List (BitVec 512)) (b : Nat) (xs : List Int) (p c : Nat) : Int :=
  let bw := wBits int4
  ((List.range bw).map (fun j =>
    let v : Int := (colSum rows b xs p (c * bw + j) * 2 ^ j : Nat)
    if j = bw - 1 then -v else v)).foldl (· + ·) 0

/-- One channel of a Furrow pass, bit-plane by bit-plane (R57). -/
def passChan (int4 signed : Bool) (rows : List (BitVec 512)) (b : Nat) (xs : List Int) (c : Nat) : Int :=
  ((List.range b).map (fun p =>
    let t := planeVal int4 rows b xs p c
    (if p = b - 1 ∧ signed then -t else t) * (2 ^ p : Nat))).foldl (· + ·) 0

/-- The exact dot product of R57. -/
def dotChan (int4 : Bool) (rows : List (BitVec 512)) (xs : List Int) (c : Nat) : Int :=
  ((rows.zip xs).map (fun t => t.2 * weightOf int4 t.1 c)).foldl (· + ·) 0

/-- Is an input format signed (R55)? -/
def xSigned : XFmt → Bool
  | .int8 => true | .uint8 => false | .int4 => true | .uint4 => false

/-- All channels of a pass. -/
def passOut (int4 : Bool) (f : XFmt) (rows : List (BitVec 512)) (xs : List Int) : List Int :=
  (List.range (passCh int4)).map (passChan int4 (xSigned f) rows (xBits f) xs)

/-- The residue of a row, 0 to 2 (R[r] of the residue check). -/
def rowResidue (int4 : Bool) (row : BitVec 512) : Int :=
  (((List.range (passCh int4)).map (weightOf int4 row)).foldl (· + ·) 0) % 3

/-- Q of a pass: the exact sum of x[r] × R[r]. -/
def residueQ (int4 : Bool) (rows : List (BitVec 512)) (xs : List Int) : Int :=
  ((rows.zip xs).map (fun t => t.2 * rowResidue int4 t.1)).foldl (· + ·) 0

/-- The residue compare (R78). -/
def residueOk (int4 : Bool) (rows : List (BitVec 512)) (xs outs : List Int) : Bool :=
  (outs.foldl (· + ·) 0) % 3 = residueQ int4 rows xs % 3

/-- The outputs of a macro with the hardware errors of this pass added. -/
def withErrs (lm : Nat) (errs : List PassErr) (outs : List Int) : List Int :=
  outs.mapIdx (fun c v => v + ((errs.filter (fun e => e.lm.val = lm ∧ e.chan = c)).map (·.delta)).foldl (· + ·) 0)

/-! ### Macros and sets -/

def getMacro (a : Acre) (m : Nat) : Macro := getK a.macros m {}
def setMacro (m : Nat) (v : Macro) (a : Acre) : Acre := { a with macros := setK a.macros m v {} }
def setOf (x : Macro) (b : Bool) : WSet := if b then x.b else x.a
def putSet (b : Bool) (w : WSet) (x : Macro) : Macro := if b then { x with b := w } else { x with a := w }

/-- The 64 rows of a set. -/
def setRows (w : WSet) : List (BitVec 512) := (List.range 64).map (fun r => getK w.rows r 0)

/-- The rows that a load writes for macro m of a tile (R51, R65, R67): 64 bytes a row from the tile's source at
4 KiB per macro (log entry 24), zeros for padded rows and channels. -/
def loadRows (s : State) (d : List Byte) (p : TilePos) (m : Nat) : NatMap (BitVec 512) :=
  let g := dG d
  let rowsIn := min 64 (inRows d p - 64 * (m % g))
  let chIn := min (dCh d) (inOuts d p - dCh d * (m / g))
  let bw := if dWfmt d = 1 then 4 else 8
  (List.range rowsIn).foldl (fun acc r =>
    let v := rdLE s (p.w + 4096 * m + 64 * r) 64 % 2 ^ (bw * chIn)
    setK acc r (BitVec.ofNat 512 v) 0) []

/-- The unit class and index of the fault of a load whose source holds a poisoned word. -/
def loadFault (s : State) (p : TilePos) (m : Nat) : Option (Nat × Nat) := readFault s (p.w + 4096 * m) 4096

end Sys2Proof.Machine
end

