-- ==== Sys2Proof/Machine/Accum.lean ====
section
/-!
DEFINITION. Output-tile accumulators (R97 to R116): preload, commit, overflow and the Spillway, drain with scales,
park area, atomic adds; and the MATMUL course that walks through them (R94 to R96, R261 to R269).
-/

namespace Sys2Proof.Machine

def getAcc (a : Acre) (b : Bool) : Acc := if b then a.acc1 else a.acc0
def putAcc (b : Bool) (x : Acc) (a : Acre) : Acre := if b then { a with acc1 := x } else { a with acc0 := x }

/-- The accumulator of a fill: fills alternate between ACC0 and ACC1. -/
def accOf (f : Nat) : Bool := f % 2 = 1

/-- Does a value fit an accumulator entry (R107)? -/
def fits32 (v : Int) : Bool := decide (-2147483648 ≤ v) && decide (v ≤ 2147483647)

/-- The format of BIAS and RESIDUAL values and of the multiplier tile (R257, R269). -/
def preFmt (d : List Byte) : LFmt :=
  match dYfmt d with
  | 2 => .bf16 | 3 => .fp16 | _ => .fp32

/-- Does a PARTIAL preload come from the CIN chain (R269): it does where PADDR names nothing (log entry 25). -/
def partialFromCin (d : List Byte) : Bool := dCin d && dPreload d = 3 && dP d = 0

/-- Does the input X come from the CIN chain? -/
def xFromCin (d : List Byte) : Bool := dCin d && !partialFromCin d

/-- sx of token t of a tile and sw of output o (R122, R255): in the executor's scratchpad, per token or per tensor,
per channel or per tensor. -/
def sxAddr (d : List Byte) (p : TilePos) (t : Nat) : Nat :=
  let tok := p.idx.getD 0 0 * (dLevel d 0).step + t
  winAddr d (dSxoff d) + (if (dScales d).testBit 0 then 4 * tok else 0)
def swAddr (d : List Byte) (p : TilePos) (o : Nat) : Nat :=
  winAddr d (dSwoff d) + (if (dScales d).testBit 1 then 4 * (idxOf d p 2 * dNe d + o) else 0)

/-! ### Preload (R104 to R106, R269) -/

/-- The result of reading a preload. -/
inductive PreRes
  | wait
  | badExp
  | overflow
  | ents (m : NatMap Int) (eSrc : Nat)
  deriving DecidableEq, Repr

/-- Where a PARTIAL tile of a fill lies: the tile and its exponent byte. -/
structure PartialSrc where
  tile : Nat
  exp  : Nat
  deriving DecidableEq, Repr

/-- Is the fill in a RED iteration after the first of a course that parks (R266)? -/
def fromPark (d : List Byte) (bounds : List Nat) (f : Nat) : Bool :=
  parks d bounds && redOf d bounds (firstTile d bounds f) ≠ 0

/-- The kind of a fill's preload: PARTIAL from the park area after the first RED iteration, else the course's. -/
def fillKind (d : List Byte) (bounds : List Nat) (f : Nat) : Nat :=
  if fromPark d bounds f then 3 else dPreload d

/-- The preload cycles P of a fill (R103). -/
def preCycles (d : List Byte) (bounds : List Nat) (f : Nat) : Nat := if fillKind d bounds f = 0 then 1 else 128

/-- The place of a fill's PARTIAL tile; none while its CIN slot is empty. -/
def partialSrc (s : State) (c : CourseRun) (f : Nat) : Option PartialSrc :=
  let d := c.desc
  let j := liveOf d c.bounds f
  if fromPark d c.bounds f then
    some ⟨winAddr d (dPkoff d + 32768 * j), winAddr d (dPkoff d + 32768 * nLive d + j)⟩
  else if partialFromCin d then
    match getChain s c.issue.image (dCinIx d) with
    | none => none
    | some ch =>
      let slot := if ch.slots = 0 then 0 else j % ch.slots
      if (getGate s c.issue.image (dCinIx d) slot).full
      then some ⟨slotAddr ch slot, slotAddr ch slot + 32768⟩ else none
  else some ⟨physAddr (dP d) + 32768 * j, winAddr d (dExpoff d + j)⟩

/-- One BIAS or RESIDUAL value in the tile's integer scale (R105); none where it overflows. -/
def convPre (v sx sw : Word) (e : Nat) : Option Int :=
  match fRne (fmul (fmul v (Config.rcp (fmul sx sw))) (fPow2 (-(e : Int)))) with
  | none => none
  | some q => if fits32 q then some q else none

/-- The in-bound entries (index, token, output) of a tile. -/
def tileEnts (d : List Byte) (p : TilePos) : List (Nat × Nat × Nat) :=
  (List.range (inToks p)).flatMap (fun t => (List.range (inOuts d p)).map (fun o => (t * dNe d + o, t, o)))

/-- The starting values of a fill at exponent e (R104 to R108). -/
def preload (s : State) (c : CourseRun) (f e : Nat) : PreRes :=
  let d := c.desc
  let p := tilePos d c.bounds (firstTile d c.bounds f)
  let j := liveOf d c.bounds f
  let es := fmtBits (preFmt d) / 8
  match fillKind d c.bounds f with
  | 0 => .ents [] 0
  | 3 =>
    match partialSrc s c f with
    | none => .wait
    | some src =>
      let b := (rdByte s src.exp).toNat
      if b > 2 then .badExp
      else
        .ents ((tileEnts d p).foldl (fun m t =>
          setK m t.1 (rshiftRne (sext 32 (rdLE s (src.tile + 4 * t.1) 4)) (max e b - b)) 0) []) b
  | k =>
    let vals := (tileEnts d p).map (fun t =>
      let a := if k = 1 then physAddr (dP d) + es * (idxOf d p 2 * dNe d + t.2.2)
               else physAddr (dP d) + es * (8192 * j + t.1)
      let v := toF32 (preFmt d) (rdLE s a es)
      (t.1, convPre v (rdF32 s (sxAddr d p t.2.1)) (rdF32 s (swAddr d p t.2.2)) e))
    match allSome (vals.map (fun t => t.2.map (fun q => (t.1, q)))) with
    | none => .overflow
    | some qs => .ents (qs.foldl (fun m q => setK m q.1 q.2 0) []) 0

/-- Counts a Spillway repeat to exponent e (ACR_SPILL). -/
def countRepeat (g e : Nat) (s : State) : State :=
  if e = 1 then bumpF (acrB g) F.acrSpillRepeat1 1 s else bumpF (acrB g) F.acrSpillRepeat2 1 s

/-- ACC_OVERFLOW (R110): counted, in ACR_LASTEVT, and the course faults. -/
def accOverflow (g : Nat) (s : State) : State :=
  let h := match (getAcre s g).run with | some c => c.holding | none => 15
  faultRun g 0x4C 3 g (lastEvt (acrB g) F.acrLastevtStatus (statusWord h g 3 0x4C)
    (bumpF (acrB g) F.acrSpillFaults 1 s))

/-- Starts the preload of fill f at exponent e; an overflow raises e and starts again (R107, R108), at e = 2 the
course faults (R110). `fuel` bounds the raises: e rises at most twice. -/
def startPreload (g f : Nat) : Nat → Nat → State → State
  | 0, _, s => accOverflow g s
  | fuel + 1, e, s =>
    match (getAcre s g).run with
    | none => s
    | some c =>
      match preload s c f e with
      | .wait => s
      | .badExp => accOverflow g s
      | .overflow => if e ≥ 2 then accOverflow g s else startPreload g f fuel (e + 1) (countRepeat g (e + 1) s)
      | .ents m eSrc =>
        let x : Acc := { st := .preload, e := max e eSrc, eSrc := eSrc, ents := m, fill := f }
        modRun g (fun r => { r with
            nextFill := max r.nextFill (f + 1)
            act := actAdd (g / 68) actAcc (preCycles r.desc r.bounds f) r.act })
          (modAcre g (putAcc (accOf f) x) s)

/-- The accumulator of the next fill starts its preload (R100, R104). -/
def accPreloadStart (g : Nat) (s : State) : State :=
  match (getAcre s g).run with
  | none => s
  | some c =>
    let f := c.nextFill
    if acreLive s g && dKind c.desc = 1 && !c.yielding && f < fillCount c.desc c.bounds
        && (getAcc (getAcre s g) (accOf f)).st = .idle
    then startPreload g f 3 0 s else s

/-- The last preload cycle ends (R100). -/
def accPreloadDone (g : Nat) (b : Bool) (s : State) : State :=
  let x := getAcc (getAcre s g) b
  if acreLive s g && x.st = .preload then modAcre g (putAcc b { x with st := .ready }) s else s

/-! ### Commit (R62, R98, R99, R107, R108) -/

/-- The token-major sums of one pass round: entry index and the sum over the G macros of its group. -/
def roundSums (d : List Byte) (p : TilePos) (r : Round) : List (Nat × Int) :=
  let g := dG d
  let ch := dCh d
  (List.range (min (inOuts d p) (dNe d))).map (fun o =>
    let grp := o / ch
    (r.tok * dNe d + o,
      ((List.range g).map (fun k => (getK r.outs (grp * g + k) []).getD (o % ch) 0)).foldl (· + ·) 0))

/-- Weight sets that no pass in flight reads any more return to READY (R69). -/
def releaseSets (a : Acre) : Acre :=
  let busy (b : Bool) : Bool := a.rounds.any (fun r => r.setB = b)
  let fix (x : Macro) : Macro :=
    { x with a := (if x.a.st = .active && !busy false then { x.a with st := .ready } else x.a)
             b := (if x.b.st = .active && !busy true then { x.b with st := .ready } else x.b) }
  { a with macros := (a.macros.map (fun e => (e.1, fix e.2))) }

/-- The fill of a round overflowed (R107, R108, R110): its passes in flight are discarded, the Spillway raises e
and repeats the preload and every pass, or at e = 2 the course faults. -/
def overflowFill (g f : Nat) (s : State) : State :=
  let a := getAcre s g
  let x := getAcc a (accOf f)
  if x.e ≥ 2 then accOverflow g s
  else
    let a1 := releaseSets { (putAcc (accOf f) { x with st := .repeatFill } a) with
      rounds := a.rounds.filter (fun r => r.fill ≠ f), held := false }
    let s1 := modRun g (fun c => { c with tile := firstTile c.desc c.bounds f }) (setAcre g a1 s)
    startPreload g f 3 (x.e + 1) (countRepeat g (x.e + 1) s1)

/-- Commits the head round, every macro of which has matched (R62, R99). -/
def commitRound (g : Nat) (s : State) : State :=
  let a := getAcre s g
  match a.rounds, a.run with
  | r :: rest, some c =>
    let p := tilePos c.desc c.bounds r.tile
    let x := getAcc a r.acc
    let news := (roundSums c.desc p r).map (fun t => (t.1, getK x.ents t.1 0 + t.2))
    if news.all (fun t => fits32 t.2) then
      let x1 := { x with ents := news.foldl (fun m t => setK m t.1 t.2 0) x.ents, commits := x.commits + 1 }
      bumpPair (frwB g) 0x160 64
        (setAcre g (releaseSets { (putAcc r.acc x1 a) with rounds := rest, held := false }) s)
    else overflowFill g r.fill s
  | _, _ => s

/-! ### Drain (R102, R111, R112, R122, R266, R268) -/

/-- The pass rounds of a fill: in-bound tokens, once per RED iteration that the fill spans. -/
def fillRounds (c : CourseRun) (f : Nat) : Nat :=
  let d := c.desc
  let p := tilePos d c.bounds (firstTile d c.bounds f)
  inToks p * (if parks d c.bounds then 1 else redIters d c.bounds)

/-- Does a fill drain to the park area (R266)? -/
def toPark (d : List Byte) (bounds : List Nat) (f : Nat) : Bool :=
  parks d bounds && redOf d bounds f + 1 < redIters d bounds

/-- The number of a fill among the tiles drained to Y. -/
def yTile (d : List Byte) (bounds : List Nat) (f : Nat) : Nat :=
  if parks d bounds then
    let b := belowRed d bounds
    f / (b * redIters d bounds) * b + f % b
  else f

/-- The COUT slot of a fill (R277, R278). -/
def coutSlot (s : State) (c : CourseRun) (f : Nat) : Option (Chain × Nat) :=
  if dCout c.desc then
    (getChain s c.issue.image (dCoutIx c.desc)).map (fun ch =>
      (ch, if ch.gather then dContrib c.desc
           else if ch.slots = 0 then 0 else yTile c.desc c.bounds f % ch.slots))
  else none

/-- The output address of a fill: its COUT slot, else Y of its last tile. -/
def outAddr (s : State) (c : CourseRun) (f : Nat) : Nat :=
  match coutSlot s c f with
  | some (ch, slot) => slotAddr ch slot
  | none => (tilePos c.desc c.bounds (lastTile c.desc c.bounds f)).y

/-- One entry of a drain as FP32 (R122): scale, 2^e, epilogue. -/
def drainVal (s : State) (d : List Byte) (p : TilePos) (e : Nat) (acc : Int) (i t o : Nat) : Word :=
  let v := fmul (fmul (fmul (fOfInt acc) (rdF32 s (sxAddr d p t))) (rdF32 s (swAddr d p o))) (fPow2 e)
  let m := toF32 (preFmt d) (rdLE s (p.p + fmtBits (preFmt d) / 8 * i) (fmtBits (preFmt d) / 8))
  epilogue (dOp d) v m

/-- The drained values of token t: entry index and value. -/
def drainRow (s : State) (d : List Byte) (p : TilePos) (x : Acc) (t : Nat) : List Word :=
  (List.range (inOuts d p)).map (fun o =>
    let i := t * dNe d + o
    drainVal s d p x.e (getK x.ents i 0) i t o)

/-- Writes the INT32 entries of a tile, unscaled. -/
def wrInts (addr : Nat) (d : List Byte) (p : TilePos) (x : Acc) (s : State) : State :=
  (List.range (inToks p)).foldl (fun u t => clearPoison (addr + 4 * (t * dNe d)) (4 * inOuts d p) u)
    ((tileEnts d p).foldl (fun u t => wrLE (addr + 4 * t.1) 4 (toBits 32 (getK x.ents t.1 0)) u) s)

/-- One token of a floating-point, INT8 or Screen drain. -/
def drainTok (d : List Byte) (p : TilePos) (x : Acc) (y t : Nat) (src s : State) : State :=
  let vs := drainRow src d p x t
  let f := yfmtOf (dYfmt d)
  let es := fmtBits f / 8
  let q := quantise vs
  if (dScales d).testBit 3 then
    let elems := if (dScales d).testBit 2 then q.1 else vs.map (ofF32 f)
    let bytes := frameBytes f elems (if (dScales d).testBit 2 then some q.2 else none)
    countFrame (dDie d) f elems bytes (wrMem (y + t * frameStride f (dNe d)) bytes s)
  else if (dScales d).testBit 2 then
    wrLE (y + roundUp 64 (dT d * dNe d) + 4 * t) 4 q.2.toNat
      (wrMem (y + t * dNe d) (q.1.map (fun v => BitVec.ofNat 8 v)) s)
  else clearPoison (y + es * (t * dNe d)) (es * vs.length) (wrVec f (y + es * (t * dNe d)) vs s)

/-- INT32 value of an entry at exponent 0: a saturating left shift (R113); true where it saturates. -/
def shiftSat (v : Int) (e : Nat) : Int × Bool :=
  let w := v * (2 ^ e : Nat)
  (satS 32 w, !fits32 w)

/-- The atomic adds of a drain, in issue order (R113, R114). -/
def drainAtomics (s : State) (d : List Byte) (p : TilePos) (x : Acc) : List AtomicAdd :=
  (tileEnts d p).map (fun t =>
    if dYfmt d = 1 then ⟨true, p.y + 4 * t.1, drainVal s d p x.e (getK x.ents t.1 0) t.1 t.2.1 t.2.2⟩
    else ⟨false, p.y + 4 * t.1, BitVec.ofInt 32 (shiftSat (getK x.ents t.1 0) x.e).1⟩)

/-- Elements that the shift of R113 saturates. -/
def drainShiftSats (d : List Byte) (p : TilePos) (x : Acc) : Nat :=
  if dYfmt d = 1 then 0
  else ((tileEnts d p).filter (fun t => (shiftSat (getK x.ents t.1 0) x.e).2)).length

/-- Counts saturated elements of a course (R115): ACR_ATOMIC, ACR_LASTEVT, the log; the completion carries 0x4D. -/
def countSat (g n : Nat) (s : State) : State :=
  if n = 0 then s
  else
    let h := match (getAcre s g).run with | some c => c.holding | none => 15
    let st := statusWord h g 3 0x4D
    modRun g (fun c => { c with code := 0x4D })
      (lastEvt (acrB g) F.acrLastevtStatus st (logStatus st g [n] (bumpF (acrB g) F.acrAtomicSat n s)))

/-- The consumer's slots that a fill no longer needs once it drains (R75, R109, R318, log entry 26). -/
def releaseInputs (c : CourseRun) (f : Nat) (s : State) : State :=
  let d := c.desc
  let h := c.issue.image
  match getChain s h (dCinIx d) with
  | none => s
  | some ch =>
    if xFromCin d then
      ((List.range (walkTiles d c.bounds)).filter (fun n => fillOf d c.bounds n = f)).foldl
        (fun u n => gateDrain h (dCinIx d) (if ch.slots = 0 then 0 else n % ch.slots) u) s
    else if partialFromCin d && !fromPark d c.bounds f then
      gateDrain h (dCinIx d) (if ch.slots = 0 then 0 else liveOf d c.bounds f % ch.slots) s
    else s

/-- The drain of a fill starts (R100, R102): its last pass has committed, and a producer's slot is empty (R319). -/
def accDrain (g : Nat) (b : Bool) (s : State) : State :=
  let a := getAcre s g
  let x := getAcc a b
  match a.run with
  | none => s
  | some c =>
    let f := x.fill
    let free :=
      if toPark c.desc c.bounds f then true
      else match coutSlot s c f with
        | some (_, slot) => !(getGate s c.issue.image (dCoutIx c.desc) slot).full
        | none => true
    if acreLive s g && x.st = .fill && x.commits = fillRounds c f && free then
      let p := tilePos c.desc c.bounds (lastTile c.desc c.bounds f)
      let s1 := releaseInputs c f (modRun g (fun r => { r with act := actAdd (g / 68) actAcc 128 r.act })
        (modAcre g (putAcc b { x with st := .drain }) s))
      if dRedmode c.desc = 1 && !toPark c.desc c.bounds f then
        countSat g (drainShiftSats c.desc p x)
          (modAcre g (fun y => { y with atomics := y.atomics ++ drainAtomics s c.desc p x }) s1)
      else s1
    else s

/-- What a drain writes (R112, R122, R266, R268, R269). -/
def drainWrite (c : CourseRun) (x : Acc) (s : State) : State :=
  let d := c.desc
  let f := x.fill
  let p := tilePos d c.bounds (lastTile d c.bounds f)
  let j := liveOf d c.bounds f
  if toPark d c.bounds f then
    wrByte (winAddr d (dPkoff d + 32768 * nLive d + j)) (BitVec.ofNat 8 x.e)
      (wrInts (winAddr d (dPkoff d + 32768 * j)) d p x s)
  else if dRedmode d = 1 then s
  else
    let y := outAddr s c f
    let s1 :=
      if dYfmt d = 0 then
        wrByte (if dCout d then y + 32768 else winAddr d (dExpoff d + yTile d c.bounds f)) (BitVec.ofNat 8 x.e)
          (wrInts y d p x s)
      else (List.range (inToks p)).foldl (fun u t => drainTok d p x y t s u) s
    match coutSlot s c f with
    | some (_, slot) => gateFill c.issue.image (dCoutIx d) slot s1
    | none => s1

/-- A course that has drained every fill and whose atomic adds are applied completes (R111, R114). -/
def finishIfDone (g : Nat) (s : State) : State :=
  match (getAcre s g).run with
  | none => s
  | some c =>
    if c.drained = fillCount c.desc c.bounds && (getAcre s g).atomics.isEmpty then completeRun g s else s

/-- A course that must yield and has drained both accumulators leaves the running slot (R96). -/
def yieldIfDrained (g : Nat) (s : State) : State :=
  let a := getAcre s g
  match a.run with
  | none => s
  | some c =>
    if c.yielding && a.acc0.st = .idle && a.acc1.st = .idle && a.rounds.isEmpty && a.aside.isNone then
      setAcre g { a with run := none, aside := some { c with yielding := false, yielded := true } } s
    else s

/-- The last drain cycle ends (R100): the tile is written, its slot fills, the accumulator becomes IDLE. -/
def accDrainDone (g : Nat) (b : Bool) (s : State) : State :=
  let a := getAcre s g
  let x := getAcc a b
  match a.run with
  | none => s
  | some c =>
    if acreLive s g && x.st = .drain then
      let toY := !toPark c.desc c.bounds x.fill
      let s1 := drainWrite c x s
      let s2 := modRun g (fun r => { r with
          drained := r.drained + 1
          spillExp := max r.spillExp x.e
          spillTiles := if toY && x.e > 0 then min 65535 (r.spillTiles + 1) else r.spillTiles })
        (modAcre g (putAcc b {}) s1)
      yieldIfDrained g (finishIfDone g s2)
    else s

/-! ### Atomic adds (R113 to R115, R332) -/

/-- The oldest atomic add of an acre reaches its slice or HBM controller and is applied. -/
def atomicAdd (g : Nat) (s : State) : State :=
  match (getAcre s g).atomics with
  | [] => s
  | t :: rest =>
    if frozen s then s
    else
      let old := rdLE s t.addr 4
      let s1 := modAcre g (fun a => { a with atomics := rest }) s
      let s2 := modRun g (fun r => { r with act := actAdd (g / 68) actRsv 1 r.act }) s1
      let s3 :=
        if t.fp then wrLE t.addr 4 (fadd (BitVec.ofNat 32 old) t.val).toNat s2
        else
          let v := sext 32 old + t.val.toInt
          countSat g (if fits32 v then 0 else 1) (wrLE t.addr 4 (toBits 32 (satS 32 v)) s2)
      finishIfDone g s3

/-! ### Yield, resume, start -/

/-- Is a course prompt work that yields (FLAGS[2])? -/
def courseYields (c : CourseRun) : Bool := dYield c.desc

/-- A generation course needs the acre (R35, R96): the prompt course completes its open fill and yields. Fills that
have no pass yet are given back. -/
def courseYield (g : Nat) (s : State) : State :=
  let a := getAcre s g
  match a.run, a.pend with
  | some c, some p =>
    if acreLive s g && courseYields c && !courseYields p && !c.yielding then
      let idle (x : Acc) : Acc := if x.st = .preload ∨ x.st = .ready then {} else x
      let firstIdle := [a.acc0, a.acc1].foldl (fun n x => if x.st = .preload ∨ x.st = .ready then min n x.fill else n) c.nextFill
      yieldIfDrained g (setAcre g { a with
        acc0 := idle a.acc0, acc1 := idle a.acc1
        run := some { c with yielding := true, nextFill := firstIdle } } s)
    else s
  | _, _ => s

/-- The weight sets of an acre are given up: the course that next needs its weights reloads them. -/
def dropTiles (a : Acre) : Acre :=
  { a with macros := a.macros.map (fun e => (e.1, { e.2 with a := { e.2.a with tile := none }, b := { e.2.b with tile := none } })) }

/-- A yielded course resumes at its next output tile and reloads its weight sets (R96). -/
def courseResume (g : Nat) (s : State) : State :=
  let a := getAcre s g
  match a.run, a.pend, a.aside with
  | none, none, some c =>
    if acreLive s g then
      setAcre g { dropTiles a with
        aside := none
        run := some { c with yielded := false, tile := if dKind c.desc = 1 then firstTile c.desc c.bounds c.nextFill else c.tile } } s
    else s
  | _, _, _ => s

/-- Task pairs of the pending course pass to task 0 (R307). -/
def passPairs (a : Acre) : Acre :=
  { a with pairs := (List.range 4).foldl (fun m k => setK (setK m k (getK m (4 + k) {}) {}) (4 + k) {} {}) a.pairs }

/-- A pending course moves to the running slot with its CB bank and task pairs (R94, R252, R307). -/
def courseStart (g : Nat) (s : State) : State :=
  let a := getAcre s g
  match a.run with
  | some _ => s
  | none =>
    if acreLive s g && !issueHeld s g then
      match a.pend, a.extra with
      | some c, _ => setAcre g { passPairs a with run := some c, pend := none } s
      | none, c :: cs => setAcre g { passPairs a with run := some c, extra := cs } s
      | none, [] => s
    else s

/-! ### Issue of a MATMUL course -/

/-- A byte range of the executor's scratchpad. -/
structure Range where
  lo : Nat
  hi : Nat
  deriving DecidableEq, Repr

/-- The extent of a walked region in the scratchpad at iteration counts; none where it lies elsewhere (R267). -/
def walkRange (a : Nat) (strides : List Int) (its : List Nat) (size : Nat) : Option Range :=
  if a / 2 ^ 56 ≠ 255 then none
  else
    let o : Int := (physAddr a % 0x4000000 : Nat)
    let ends := strides.zipWith (fun st it => st * ((it - 1 : Nat) : Int)) its
    let lo := o + (ends.map (min 0)).foldl (· + ·) 0
    let hi := o + (ends.map (max 0)).foldl (· + ·) 0 + size
    some ⟨lo.toNat, hi.toNat⟩

/-- The most tokens of one tile at the ceilings (R261). -/
def tileToks (d : List Byte) : Nat := min (dLevel d 0).step (dLevel d 0).bound

/-- The extent of a level at the ceilings, or a whole tile's where the course has no such level. -/
def dimExtent (d : List Byte) (dim whole : Nat) : Nat :=
  match dimPos d dim with | some k => min (dLevel d k).step (dLevel d k).bound | none => whole

/-- Bytes of one input tile of a MATMUL course (R98, R261). -/
def xTileMat (d : List Byte) : Nat :=
  tileToks d * dimExtent d 3 (64 * dG d) * xBits (xfmtOf (dXfmt d)) / 8

/-- Bytes of one output tile with its scales (R261, R654). -/
def yTileBytes (d : List Byte) : Nat :=
  if (dScales d).testBit 2 then roundUp 64 (dT d * dNe d) + 4 * dT d
  else tileToks d * dNe d * fmtBits (yfmtOf (dYfmt d)) / 8

/-- The fills at the ceilings: with PARK the live tiles of one RED iteration (R266, R269). -/
def ceilFills (d : List Byte) : Nat :=
  let its := ceilIters d
  let red := match dimPos d 3 with | some k => its.getD k 1 | none => 1
  if dPark d && decide (red > 1) then nLive d else prodL its / red

/-- Bytes of the preload source of a MATMUL course, or of the rows that OP 6 multiplies by (R257, R269). -/
def preBytes (d : List Byte) : Nat :=
  let es := fmtBits (preFmt d) / 8
  if dOp d = 6 then yTileBytes d
  else match dPreload d with
    | 1 => es * dNe d * (match dimPos d 2 with | some k => (ceilIters d).getD k 1 | none => 1)
    | 2 => es * 8192 * ceilFills d
    | 3 => 32768 * ceilFills d
    | _ => 0

/-- Does a MATMUL course read sx and sw: a floating output, or a preload converted to the tile's scale? -/
def readsScales (d : List Byte) : Bool := dYfmt d ≠ 0 || dPreload d = 1 || dPreload d = 2

/-- The scales sx and sw of a MATMUL course at the ceilings (R267). -/
def scaleRanges (d : List Byte) : List Range :=
  if readsScales d then
    let outs := match dimPos d 2 with | some k => (dLevel d k).bound | none => dNe d
    [⟨dSxoff d, dSxoff d + (if (dScales d).testBit 0 then 4 * (dLevel d 0).bound else 4)⟩,
     ⟨dSwoff d, dSwoff d + (if (dScales d).testBit 1 then 4 * outs else 4)⟩]
  else []

/-- The read-only scratchpad regions of a MATMUL course at the ceilings (R267, R307). -/
def roRanges (d : List Byte) : List Range :=
  let ls := dLevels d
  let its := ceilIters d
  (walkRange (dW d) (ls.map (·.ws)) its 262144).toList
    ++ (if xFromCin d then [] else (walkRange (dX d) (ls.map (·.xs)) its (xTileMat d)).toList)
    ++ (if dP d = 0 || preBytes d = 0 then [] else
        (walkRange (dP d) (if dOp d = 6 then ls.map (·.ys) else []) its (preBytes d)).toList)
    ++ scaleRanges d

/-- The read-write scratchpad regions of a MATMUL course at the ceilings (R267, R307). -/
def rwRanges (d : List Byte) : List Range :=
  let ls := dLevels d
  let its := ceilIters d
  let fills := prodL its / (match dimPos d 3 with | some k => its.getD k 1 | none => 1)
  (if dPark d then [⟨dPkoff d, dPkoff d + 32768 * nLive d + roundUp 64 (nLive d)⟩] else [])
    ++ (if dYfmt d = 0 && !dCout d && dRedmode d = 0 || dPreload d = 3 && dP d ≠ 0
        then [⟨dExpoff d, dExpoff d + fills⟩] else [])
    ++ (if dCout d then [] else (walkRange (dY d) (ls.map (·.ys)) its (yTileBytes d)).toList)

/-- The smallest range that covers a class of regions, as a pair on 64-byte boundaries (R306, R307). -/
def coverPair (rs : List Range) (r w : Bool) : Pair :=
  match rs with
  | [] => {}
  | x :: xs =>
    let lo := xs.foldl (fun m y => min m y.lo) x.lo
    let hi := xs.foldl (fun m y => max m y.hi) x.hi
    ⟨lo / 64 * 64, roundUp 64 hi, r, w, true⟩

/-- The slots of a chain that lie in a scratchpad window. -/
def chainRange (s : State) (h ix : Nat) : List Range :=
  match getChain s h ix with
  | none => []
  | some c =>
    if 0xC000000000 ≤ physAddr c.loc ∧ physAddr c.loc < 0xC400000000 then
      [⟨physAddr c.loc % 0x4000000, physAddr c.loc % 0x4000000 + c.slots * c.bytes⟩] else []

/-- The Intake writes the pairs of task 1 (R307). -/
def writePairs (g : Nat) (h : Nat) (d : List Byte) (s : State) : State :=
  let ps := [coverPair (roRanges d) true false, coverPair (rwRanges d) true true,
    coverPair (if dCin d then chainRange s h (dCinIx d) else []) true false,
    coverPair (if dCout d then chainRange s h (dCoutIx d) else []) false true]
  modAcre g (fun a => { a with pairs := (List.range 4).foldl (fun m k => setK m (4 + k) (ps.getD k {}) {}) a.pairs }) s

/-- The physical acre of a course's executor. -/
def execAcre (s : State) (d : List Byte) : Nat := physOf s (dDie d) (dAcre d)

/-- All eight banks are owned by SEQ and none is circular (R302). -/
def banksReady (s : State) (g : Nat) : Bool :=
  (List.range 8).all (fun k =>
    let b := getK (getAcre s g).banks k {}
    b.owner = .seq && !b.circ)

/-- May an issue reach the pending slot of its executor acre (R252, R302, R492, R574)? -/
def slotFree (s : State) (d : List Byte) : Bool :=
  let g := execAcre s d
  !frozen s && (getAcre s g).pend.isNone && (getAcre s g).pw = .flow && banksReady s g && !issueHeld s g

/-- A MATMUL course is issued (R254) and enters the pending slot of its acre; its passes follow from FURROW_PASS
and its companions. -/
def matmulCourse (iss : Issue) (s : State) : State :=
  issueCourse iss (fun _ d => dKind d = 1 && slotFree s d) (fun im d bs t =>
    let g := execAcre t d
    bumpSerial (writePairs g iss.image d
      { modAcre g (fun a => { a with pend := some (newRun t iss im d bs) }) t with
        issued := setK t.issued g (getK t.issued g 0 + 1) 0 })) s

/-! ### The commands -/

def execAccPreloadStart (die : Die) (acre : PAcre) (s : State) : Out := .next (accPreloadStart (acreIx die acre) s)
def execAccPreloadDone (die : Die) (acre : PAcre) (acc1 : Bool) (s : State) : Out :=
  .next (accPreloadDone (acreIx die acre) acc1 s)
def execAccDrain (die : Die) (acre : PAcre) (acc1 : Bool) (s : State) : Out :=
  .next (accDrain (acreIx die acre) acc1 s)
def execAccDrainDone (die : Die) (acre : PAcre) (acc1 : Bool) (s : State) : Out :=
  .next (accDrainDone (acreIx die acre) acc1 s)
def execAtomicAdd (die : Die) (acre : PAcre) (s : State) : Out := .next (atomicAdd (acreIx die acre) s)
def execCourseYield (die : Die) (acre : PAcre) (s : State) : Out := .next (courseYield (acreIx die acre) s)
def execCourseResume (die : Die) (acre : PAcre) (s : State) : Out := .next (courseResume (acreIx die acre) s)
def execCourseStart (die : Die) (acre : PAcre) (s : State) : Out := .next (courseStart (acreIx die acre) s)
def execMatmulCourse (iss : Issue) (s : State) : Out := .next (matmulCourse iss s)

end Sys2Proof.Machine
end

