-- ==== Sys2Proof/Machine/Hash.lean ====
section
/-!
DEFINITION. Checksums and digests that the spec names by their standards: CRC-32C (R256, R525), CRC-16 with polynomial
0x1021 (R171), SHA-256 (R173) and SHA-384 (R248, R448) of FIPS 180-4.
-/

namespace Sys2Proof.Machine

/-! ### Cyclic redundancy checks -/

/-- Eight steps of a reflected CRC. -/
def crcByte (poly : BitVec 32) (c : BitVec 32) : Nat → BitVec 32
  | 0 => c
  | n + 1 => crcByte poly (if c.getLsbD 0 then (c >>> 1) ^^^ poly else c >>> 1) n

/-- CRC-32C (Castagnoli, reflected 0x82F63B78, initial and final complement). -/
def crc32c (bs : List Byte) : Nat :=
  (~~~(bs.foldl (fun (c : BitVec 32) b => crcByte 0x82F63B78 (c ^^^ b.setWidth 32) 8) 0xFFFFFFFF)).toNat

/-- Eight steps of CRC-16, most significant bit first. -/
def crc16Byte (c : BitVec 16) : Nat → BitVec 16
  | 0 => c
  | n + 1 => crc16Byte (if c.getLsbD 15 then (c <<< 1) ^^^ 0x1021 else c <<< 1) n

/-- One byte of CRC-16. -/
def crc16Step (c : BitVec 16) (b : Byte) : BitVec 16 :=
  let h : BitVec 16 := BitVec.ofNat 16 (b.toNat * 256)
  crc16Byte (c ^^^ h) 8

/-- CRC-16 of R171: polynomial 0x1021, initial value 0xFFFF. -/
def crc16 (bs : List Byte) : Nat := (bs.foldl crc16Step 0xFFFF).toNat

/-! ### SHA-2 -/

/-- Big-endian value of bytes. -/
def beVal (bs : List Byte) : Nat := bs.foldl (fun n b => n * 256 + b.toNat) 0

/-- The n big-endian bytes of a value. -/
def beBytes (n v : Nat) : List Byte := (leBytes n v).reverse

/-- Padding of a message to whole blocks: the bit 1, zeros, the length in bits. -/
def shaPad (block len : Nat) (bs : List Byte) : List Byte :=
  let z := (block - (bs.length + 1 + len) % block) % block
  bs ++ [0x80] ++ List.replicate z 0 ++ beBytes len (8 * bs.length)

/-- Cuts a list into n blocks of a size. -/
def blocks {α : Type} (k : Nat) : Nat → List α → List (List α)
  | 0, _ => []
  | n + 1, l => l.take k :: blocks k n (l.drop k)

/-- The round constants of SHA-256. -/
def k256 : List (BitVec 32) :=
  [0x428a2f98, 0x71374491, 0xb5c0fbcf, 0xe9b5dba5, 0x3956c25b, 0x59f111f1, 0x923f82a4, 0xab1c5ed5,
   0xd807aa98, 0x12835b01, 0x243185be, 0x550c7dc3, 0x72be5d74, 0x80deb1fe, 0x9bdc06a7, 0xc19bf174,
   0xe49b69c1, 0xefbe4786, 0x0fc19dc6, 0x240ca1cc, 0x2de92c6f, 0x4a7484aa, 0x5cb0a9dc, 0x76f988da,
   0x983e5152, 0xa831c66d, 0xb00327c8, 0xbf597fc7, 0xc6e00bf3, 0xd5a79147, 0x06ca6351, 0x14292967]
  ++ [0x27b70a85, 0x2e1b2138, 0x4d2c6dfc, 0x53380d13, 0x650a7354, 0x766a0abb, 0x81c2c92e, 0x92722c85,
   0xa2bfe8a1, 0xa81a664b, 0xc24b8b70, 0xc76c51a3, 0xd192e819, 0xd6990624, 0xf40e3585, 0x106aa070,
   0x19a4c116, 0x1e376c08, 0x2748774c, 0x34b0bcb5, 0x391c0cb3, 0x4ed8aa4a, 0x5b9cca4f, 0x682e6ff3,
   0x748f82ee, 0x78a5636f, 0x84c87814, 0x8cc70208, 0x90befffa, 0xa4506ceb, 0xbef9a3f7, 0xc67178f2]

/-- The working variables of a SHA-2 compression. -/
structure ShaSt (w : Nat) where
  a : BitVec w
  b : BitVec w
  c : BitVec w
  d : BitVec w
  e : BitVec w
  f : BitVec w
  g : BitVec w
  h : BitVec w

/-- The rotation amounts of a SHA-2 width. -/
structure ShaRot where
  s0 : Nat × Nat × Nat
  s1 : Nat × Nat × Nat
  m0 : Nat × Nat × Nat
  m1 : Nat × Nat × Nat

def rot3 {w : Nat} (r : Nat × Nat × Nat) (x : BitVec w) : BitVec w :=
  x.rotateRight r.1 ^^^ x.rotateRight r.2.1 ^^^ x.rotateRight r.2.2
def rot2 {w : Nat} (r : Nat × Nat × Nat) (x : BitVec w) : BitVec w :=
  x.rotateRight r.1 ^^^ x.rotateRight r.2.1 ^^^ (x >>> r.2.2)

/-- One round. -/
def shaRound {w : Nat} (r : ShaRot) (st : ShaSt w) (k m : BitVec w) : ShaSt w :=
  let t1 := st.h + rot3 r.s1 st.e + ((st.e &&& st.f) ^^^ (~~~st.e &&& st.g)) + k + m
  let t2 := rot3 r.s0 st.a + ((st.a &&& st.b) ^^^ (st.a &&& st.c) ^^^ (st.b &&& st.c))
  ⟨t1 + t2, st.a, st.b, st.c, st.d + t1, st.e, st.f, st.g⟩

/-- The rounds of one block: `win` holds the next 16 message words, oldest first. -/
def shaRounds {w : Nat} (r : ShaRot) : List (BitVec w) → List (BitVec w) → ShaSt w → ShaSt w
  | [], _, st => st
  | k :: ks, win, st =>
    let m := win.getD 0 0
    let nx := rot2 r.m1 (win.getD 14 0) + win.getD 9 0 + rot2 r.m0 (win.getD 1 0) + m
    shaRounds r ks (win.drop 1 ++ [nx]) (shaRound r st k m)

def shaBlock {w : Nat} (r : ShaRot) (ks : List (BitVec w)) (st : ShaSt w) (bs : List Byte) : ShaSt w :=
  let m := (blocks (w / 8) 16 bs).map (fun x => BitVec.ofNat w (beVal x))
  let t := shaRounds r ks m st
  ⟨st.a + t.a, st.b + t.b, st.c + t.c, st.d + t.d, st.e + t.e, st.f + t.f, st.g + t.g, st.h + t.h⟩

def rot256 : ShaRot := ⟨(2, 13, 22), (6, 11, 25), (7, 18, 3), (17, 19, 10)⟩
def rot512 : ShaRot := ⟨(28, 34, 39), (14, 18, 41), (1, 8, 7), (19, 61, 6)⟩

/-- SHA-256: 32 bytes. -/
def sha256 (bs : List Byte) : List Byte :=
  let p := shaPad 64 8 bs
  let st := (blocks 64 (p.length / 64) p).foldl (shaBlock rot256 k256)
    ⟨0x6a09e667, 0xbb67ae85, 0x3c6ef372, 0xa54ff53a, 0x510e527f, 0x9b05688c, 0x1f83d9ab, 0x5be0cd19⟩
  [st.a, st.b, st.c, st.d, st.e, st.f, st.g, st.h].flatMap (fun x => beBytes 4 x.toNat)

/-- The round constants of SHA-512. -/
def k512 : List (BitVec 64) :=
  [0x428a2f98d728ae22, 0x7137449123ef65cd, 0xb5c0fbcfec4d3b2f, 0xe9b5dba58189dbbc, 0x3956c25bf348b538,
   0x59f111f1b605d019, 0x923f82a4af194f9b, 0xab1c5ed5da6d8118, 0xd807aa98a3030242, 0x12835b0145706fbe,
   0x243185be4ee4b28c, 0x550c7dc3d5ffb4e2, 0x72be5d74f27b896f, 0x80deb1fe3b1696b1, 0x9bdc06a725c71235,
   0xc19bf174cf692694, 0xe49b69c19ef14ad2, 0xefbe4786384f25e3, 0x0fc19dc68b8cd5b5, 0x240ca1cc77ac9c65]
  ++ [0x2de92c6f592b0275, 0x4a7484aa6ea6e483, 0x5cb0a9dcbd41fbd4, 0x76f988da831153b5, 0x983e5152ee66dfab,
   0xa831c66d2db43210, 0xb00327c898fb213f, 0xbf597fc7beef0ee4, 0xc6e00bf33da88fc2, 0xd5a79147930aa725,
   0x06ca6351e003826f, 0x142929670a0e6e70, 0x27b70a8546d22ffc, 0x2e1b21385c26c926, 0x4d2c6dfc5ac42aed,
   0x53380d139d95b3df, 0x650a73548baf63de, 0x766a0abb3c77b2a8, 0x81c2c92e47edaee6, 0x92722c851482353b]
  ++ [0xa2bfe8a14cf10364, 0xa81a664bbc423001, 0xc24b8b70d0f89791, 0xc76c51a30654be30, 0xd192e819d6ef5218,
   0xd69906245565a910, 0xf40e35855771202a, 0x106aa07032bbd1b8, 0x19a4c116b8d2d0c8, 0x1e376c085141ab53,
   0x2748774cdf8eeb99, 0x34b0bcb5e19b48a8, 0x391c0cb3c5c95a63, 0x4ed8aa4ae3418acb, 0x5b9cca4f7763e373,
   0x682e6ff3d6b2b8a3, 0x748f82ee5defb2fc, 0x78a5636f43172f60, 0x84c87814a1f0ab72, 0x8cc702081a6439ec]
  ++ [0x90befffa23631e28, 0xa4506cebde82bde9, 0xbef9a3f7b2c67915, 0xc67178f2e372532b, 0xca273eceea26619c,
   0xd186b8c721c0c207, 0xeada7dd6cde0eb1e, 0xf57d4f7fee6ed178, 0x06f067aa72176fba, 0x0a637dc5a2c898a6,
   0x113f9804bef90dae, 0x1b710b35131c471b, 0x28db77f523047d84, 0x32caab7b40c72493, 0x3c9ebe0a15c9bebc,
   0x431d67c49c100d4c, 0x4cc5d4becb3e42b6, 0x597f299cfc657e2a, 0x5fcb6fab3ad6faec, 0x6c44198c4a475817]

/-- SHA-384: 48 bytes. -/
def sha384 (bs : List Byte) : List Byte :=
  let p := shaPad 128 16 bs
  let st := (blocks 128 (p.length / 128) p).foldl (shaBlock rot512 k512)
    ⟨0xcbbb9d5dc1059ed8, 0x629a292a367cd507, 0x9159015a3070dd17, 0x152fecd8f70e5939,
     0x67332667ffc00b31, 0x8eb44a8768581511, 0xdb0c2e0d64f98fa7, 0x47b5481dbefa4fa4⟩
  [st.a, st.b, st.c, st.d, st.e, st.f].flatMap (fun x => beBytes 8 x.toNat)

end Sys2Proof.Machine
end

