-- ==== Sys2Proof/Machine/Access.lean ====
section
/-!
DEFINITION. Access to register space: which path may write or read which block, and the error record of a block
(R22, R601, R611, R612, R619, R620).
-/

namespace Sys2Proof.Machine

/-- A path as REQ of an error record (R611). -/
def pathReq : Path → Nat
  | .host n => n.val
  | .tap => 14
  | .cores => 15
  | .mgmt => 15

/-- A path's number, for its latches and selects (R607, R609). -/
def pathNum : Path → Nat
  | .host n => n.val
  | .cores => 4
  | .mgmt => 5
  | .tap => 6

/-- Counts a discarded access in ERR_CNT and records it in ERR_FIRST and ERR_LAST; sets ERR (R611, R612). -/
def countErr (base req off : Nat) (wr : Bool) (kind : Nat) (s : State) : State :=
  let w := BitVec.ofNat 32 (off % 2 ^ 14 + (if wr then 2 ^ 14 else 0) + req % 16 * 2 ^ 16 + kind % 4 * 2 ^ 20 + 2 ^ 31)
  let s1 := bumpF base F.errCntCount 1 s
  let s2 := if getF s base F.errFirstValid = 1 then s1 else regSet (base + 0x24) w s1
  irqRaise base 1 (regSet (base + 0x28) w s2)

/-- REQ of a discarded access of a path to a block: 7 for another holding in an HQ block (R620). -/
def reqAt (p : Path) (base : Nat) : Nat :=
  match blkOf base, p with
  | some ⟨.hq, h, _, _⟩, .host n => if h = n.val then n.val else 7
  | _, p => pathReq p

/-- What becomes of a write: it takes effect, it is discarded and counted, or the path is closed. -/
inductive Grant | ok | denied | closed
  deriving DecidableEq, Repr

/-- Does the Headgate serve register space to its cores and the management port: in service, and while start-up holds for
coolant (R638), but not while frozen (R594), and in recovery only for the cores (R546)? -/
def headgateUp (s : State) (cores : Bool) : Bool :=
  !isFrozen s && (match s.power.phase with
    | .service => true
    | .hold => true
    | .recovery => cores
    | .railStop => cores
    | _ => false)

/-- May a path write a block (R619)? A host port is stopped while the module is frozen or starts (R594, R637); in recovery it
owns nothing (R546). The TAP writes only under full debug. -/
def writeGrant (s : State) (p : Path) (base : Nat) : Grant :=
  match p with
  | .host n =>
    if isFrozen s then .closed
    else match s.power.phase with
      | .service => if base = hqB n.val then .ok else .denied
      | .recovery => .denied
      | .railStop => .denied
      | _ => .closed
  | .cores => if headgateUp s true then .ok else .closed
  | .mgmt => if headgateUp s false then .ok else .closed
  | .tap => if s.fullDebug && decide (s.power.phase ≠ .off) then .ok else .closed

/-- A write of a register that has a row of its own: its effect where the path may write, else the error record. -/
def ownedWrite (p : Path) (base off : Nat) (f : State → State) (s : State) : State :=
  match writeGrant s p base with
  | .ok => f s
  | .denied => countErr base (reqAt p base) off true 0 s
  | .closed => s

/-! ### Charter limits of a host port (R539, R554) -/

/-- A two-fuse field of the Charter: 0b10 is no valid encoding and is read as the most restrictive value (R537). -/
def policy (s : State) (f : Fld) : Nat := if getF s chtB f = 2 then 3 else getF s chtB f

/-- LIFECYCLE: 0 MANUFACTURE, 1 SERVICE, 3 RETURN (R536). -/
def lifecycle (s : State) : Nat := policy s F.chtLifeLifecycle

/-- Does the Charter enable host port h (R536, R539)? -/
def portOn (s : State) (h : Nat) : Bool :=
  match policy s F.chtLifeHoldings with
  | 0 => true
  | 1 => decide (h < 2)
  | _ => decide (h = 0)

/-- Must port h refuse memory requests: IDE is required and no selective stream carries them (R554)? -/
def ideBlocked (s : State) (h : Nat) : Bool :=
  (getF s chtB F.chtLifeIdeReq).testBit h && !((List.range 2).any (fun k => (getK s.ide (h * 2 + k) {}).active))

/-- A request outside IDE: Unsupported Request, ERR_CNT of the HQ block, IDE_REQUIRED (R554, R566). -/
def ideRefuse (h off : Nat) (wr : Bool) (s : State) : State :=
  let st := statusWord h h 0x0E 0x77
  lastEvt fwuB F.fwuLastevtStatus st (logStatus st h [] (countErr (hqB h) h off wr 0 (emit (.unsupported h) s)))

/-! ### Select fields (R609): one copy per path -/

/-- The key of a path's copy of a select register. -/
def selKey (p : Path) (addr : Nat) : Nat := addr * 8 + pathNum p

/-- The path's copy of the select register at an address. -/
def selGet (s : State) (p : Path) (addr : Nat) : Word := getK s.selects (selKey p addr) (resetAt addr)

/-- Writes the path's copy. -/
def selSet (p : Path) (addr : Nat) (w : Word) (s : State) : State :=
  { s with selects := setK s.selects (selKey p addr) w (resetAt addr) }

end Sys2Proof.Machine
end

