-- ==== Sys2Proof/Machine/Host.lean ====
section
/-!
DEFINITION. Host ports: queue pairs and their doorbells, submission entries and their checks, completion entries,
signals, and the reset of one port (R502 to R520).
-/

namespace Sys2Proof.Machine

/-! ### Queue pairs -/

def qpKey (h q : Nat) : Nat := h * 64 + q
def getQP (s : State) (h q : Nat) : QPSt := getK s.qps (qpKey h q) {}
def setQP (h q : Nat) (v : QPSt) (s : State) : State := { s with qps := setK s.qps (qpKey h q) v {} }

/-- An entry of the completion ring may be written: the host has released it (R511). -/
def cqFree (x : QPSt) : Bool := x.depth ≠ 0 && decide ((x.cqTail + 1) % x.depth ≠ x.cqHead)

/-- The 64 bytes of a completion entry (R515). -/
def cplBytes (x : QPSt) (e : Cpl) : List Byte :=
  leBytes 1 e.kind ++ leBytes 1 (if x.phase then 1 else 0) ++ leBytes 2 e.cid ++ leBytes 4 e.status.toNat
    ++ leBytes 4 e.handle ++ leBytes 2 x.consumed ++ leBytes 2 0 ++ leBytes 8 e.tag ++ leBytes 8 e.counter
    ++ leBytes 4 e.v0 ++ leBytes 4 e.v1 ++ leBytes 8 e.v2 ++ List.replicate 16 0

/-- Signals the pair's vector for the entries since the last signal (R512). -/
def signalQP (h q : Nat) (s : State) : State :=
  let x := getQP s h q
  if x.unsig = 0 then s else signalVec h x.vector (setQP h q { x with unsig := 0 } s)

/-- Writes an entry at the tail of the completion ring (R511, R512). -/
def writeCpl (h q : Nat) (e : Cpl) (s : State) : State :=
  let x := getQP s h q
  let wrap := x.cqTail + 1 = x.depth
  let y := { x with
    cqTail := if wrap then 0 else x.cqTail + 1
    phase := if wrap then !x.phase else x.phase
    unsig := x.unsig + 1
    unsigAt := if x.unsig = 0 then s.counter else x.unsigAt }
  let s1 := setQP h q y (emit (.hostWrite h (x.cqb + 64 * x.cqTail) (cplBytes x e)) s)
  let n := max 1 (getF s (hqB h) F.hqCoalCoalN)
  if y.unsig ≥ n ∨ getF s (hqB h) F.hqCoalCoalT = 0 then signalQP h q s1 else s1

/-- Does a response of the pair wait in the holding's buffer? -/
def waitsInBuf (s : State) (h q : Nat) : Bool := s.respBuf.any (fun e => e.1 = h && e.2.1 = q)

/-- Counts a response dropped while its pair is disabled (R507). -/
def dropResponse (h : Nat) (s : State) : State := irqRaise (hqB h) 4 (bumpF (hqB h) F.hqStatDropped 1 s)

/-- A response, final or notice entry: written, kept in the buffer behind those of its pair, or dropped. -/
def postCpl (h q : Nat) (e : Cpl) (s : State) : State :=
  let x := getQP s h q
  if !x.en then dropResponse h s
  else if cqFree x && !waitsInBuf s h q && !ideBlocked s h then writeCpl h q { e with counter := s.counter } s
  else { s with respBuf := s.respBuf ++ [(h, q, { e with counter := s.counter })] }

/-- A notice of a status word to a holding (R587), on its lowest enabled queue pair (log entry 51). -/
def noticeOwner (h : Nat) (st : Word) (s : State) : State :=
  if h < 4 then
    match (List.range 64).find? (fun q => (getQP s h q).en) with
    | some q => postCpl h q { kind := 3, status := st } s
    | none => dropResponse h s
  else s

/-- Writes the waiting entries of a pair that now fit. -/
def flushBuf (h q : Nat) : Nat → State → State
  | 0, s => s
  | n + 1, s =>
    match s.respBuf.find? (fun e => e.1 = h && e.2.1 = q) with
    | none => s
    | some e =>
      if cqFree (getQP s h q) && !ideBlocked s h then
        flushBuf h q n (writeCpl h q e.2.2 { s with respBuf := s.respBuf.erase e })
      else s

/-- Entries that wait in a holding's response buffer. -/
def bufLen (s : State) (h : Nat) : Nat := (s.respBuf.filter (fun e => e.1 = h)).length

/-! ### Commands -/

/-- The response to a command: to its queue pair, or to the board management controller. -/
def respond (c : HostCmd) (status : Word) (handle v0 v1 v2 : Nat) (s : State) : State :=
  let s1 := { s with openCmds := s.openCmds.erase c }
  if c.by_ < 4 then
    postCpl c.by_ c.qp { cid := c.cid, status := status, handle := handle, v0 := v0, v1 := v1, v2 := v2 } s1
  else emit (.mgmt c.op status handle v0 v1 v2) s1

/-- A refusal at the Headgate (R519): class 0x0E with the port's number. -/
def refuseCmd (c : HostCmd) (code : Nat) (s : State) : State :=
  let s1 := whenB (code = 0x38 && c.by_ < 4) (fun t =>
    irqRaise (hqB c.by_) 16 (bumpF (hqB c.by_) F.hqStatReadFail 1 t)) s
  respond c (statusWord c.by_ c.by_ 0x0E code) c.handle 0 0 0 s1

/-- A refusal by an engine, with its unit. -/
def refuseAt (c : HostCmd) (cls ix code : Nat) (s : State) : State :=
  respond c (statusWord c.by_ ix cls code) c.handle 0 0 0 s

/-- A command that succeeded. -/
def ack (c : HostCmd) (s : State) : State := respond c 0 c.handle 0 0 0 s

/-- May the k-th waiting command be taken (R510, R511)? Queue order, FENCE, and the buffer. -/
def mayTake (s : State) (k : Nat) (c : HostCmd) : Bool :=
  let same (x : HostCmd) : Bool := x.by_ = c.by_ && x.qp = c.qp
  !frozen s && (s.hostCmds.take k).all (fun x => !same x) &&
    (!c.fence || s.openCmds.all (fun x => !same x)) &&
    !(decide (bufLen s c.by_ ≥ 256) && waitsInBuf s c.by_ c.qp)

/-- Runs a command, or in Deep keeps it waiting (AUTO_WAKE set) or answers ADMISSION_CLOSED (R496, R497). -/
def runCmd (c : HostCmd) (take f : State → State) (s : State) : State :=
  if getF s drdB F.drdLevelLevel = 2 then
    if getF s drdB F.drdLevelAutoWake = 1 then idleExit s else refuseAt c 0x10 0 0x0D (take s)
  else f (take (idleExit s))

/-- Takes the k-th waiting host command where it has the opcode, or the board management controller's own. The command
counts as open until its response. -/
def takeCmd (src : CmdSrc) (op : Nat) (f : HostCmd → State → State) (s : State) : State :=
  match src with
  | .host k =>
    match s.hostCmds[k]? with
    | none => s
    | some c =>
      if c.op = op && mayTake s k c then
        runCmd c (fun t => { t with hostCmds := t.hostCmds.eraseIdx k, openCmds := t.openCmds ++ [c] }) (f c) s
      else s
  | .board handle arg0 =>
    let c : HostCmd := { by_ := 15, op := op, handle := handle, arg0 := arg0 }
    if frozen s then s else runCmd c id (f c) s

/-- The image of a handle, if it is the sender's own (R518). -/
def ownImage (s : State) (by_ h : Nat) : Option Image := (getImage s h).filter (fun im => im.owner = by_)

/-! ### Submission entries (R514, R519) -/

/-- The fields of an entry. -/
def subCmd (h q : Nat) (bs : List Byte) : HostCmd :=
  { by_ := h, qp := q, cid := fieldLE bs 2 2, op := fieldLE bs 0 1, fence := (fieldLE bs 1 1).testBit 0
    handle := fieldLE bs 4 4, addr := fieldLE bs 8 8, len := fieldLE bs 0x10 4, arg0 := fieldLE bs 0x14 4
    arg1 := fieldLE bs 0x18 8 }

/-- The opcodes of *Table: Command set*. -/
def opcodes : List Nat := [0x01, 0x02, 0x03, 0x04, 0x05, 0x06, 0x07, 0x10, 0x11, 0x12, 0x13, 0x18, 0x19, 0x1A,
  0x20, 0x21, 0x22, 0x23, 0x24, 0x28, 0x29]

/-- Opcodes that use ADDR, and those that use HANDLE. -/
def usesAddr (op : Nat) : Bool := [0x01, 0x06, 0x07, 0x24, 0x28].contains op
def usesHandle (op : Nat) : Bool := !([0x07, 0x10, 0x20, 0x23, 0x24, 0x28, 0x29].contains op)
def imageOp (op : Nat) : Bool := [0x11, 0x12, 0x13, 0x18, 0x21, 0x22].contains op

/-- Are the fields shown as 0 zero? -/
def zerosOk (bs : List Byte) (c : HostCmd) : Bool :=
  (fieldLE bs 1 1) < 2 && decide (fieldLE bs 0x20 32 = 0) &&
    (usesAddr c.op || c.addr = 0) && (usesHandle c.op || c.handle = 0) &&
    (c.op ≠ 0x07 || c.arg1 < 256)

/-- The operand checks of 0x37. -/
def operandsOk (s : State) (c : HostCmd) : Bool :=
  (c.addr % 64 = 0) &&
    (match c.op with
     | 0x01 => decide (c.len ≥ 128) && c.len % 4 = 0
     | 0x06 => decide (c.len ≥ 256)
     | 0x07 => decide (c.len ≥ 4)
     | 0x10 => decide (c.arg0 ≥ 1024)
     | 0x24 => decide (c.len ≥ 65536)
     | _ => true) &&
    (!imageOp c.op || (ownImage s c.by_ c.handle).isSome)

/-- The refusal of an entry at the Headgate, if any. -/
def entryCheck (s : State) (bs : List Byte) (c : HostCmd) : Option Nat :=
  if !opcodes.contains c.op || !zerosOk bs c then some 0x36
  else if !operandsOk s c then some 0x37
  else none

/-- A submission entry arrives (R509, R514, R519). -/
def submissionEntry (h q : Nat) (bs : List Byte) (s : State) : State :=
  let x := getQP s h q
  if frozen s || !x.en || x.sqRead = x.sqTail || bs.length ≠ 64 || ideBlocked s h then s
  else
    let s1 := setQP h q { x with sqRead := (x.sqRead + 1) % x.depth, consumed := (x.consumed + 1) % 65536 } s
    let c := subCmd h q bs
    match entryCheck s1 bs c with
    | some code => refuseCmd c code s1
    | none => { s1 with hostCmds := s1.hostCmds ++ [c] }

/-! ### Doorbells -/

/-- Counts an ignored doorbell (R509). -/
def badDoorbell (h : Nat) (s : State) : State := irqRaise (hqB h) 8 (bumpF (hqB h) F.hqStatBadDoorbell 1 s)

def sqDoorbell (h q : Nat) (data : Word) (s : State) : State :=
  let x := getQP s h q
  let v := data.toNat % 4096
  if frozen s then s
  else if ideBlocked s h then ideRefuse h (16 * q) true s
  else if !x.en || x.busy then s
  else if v ≥ x.depth then badDoorbell h s
  else setQP h q { x with sqTail := v } (idleExit s)

def cqDoorbell (h q : Nat) (data : Word) (s : State) : State :=
  let x := getQP s h q
  let v := data.toNat % 4096
  if frozen s then s
  else if ideBlocked s h then ideRefuse h (16 * q + 4) true s
  else if !x.en then s
  else if v ≥ x.depth then badDoorbell h s
  else flushBuf h q (s.respBuf.length) (setQP h q { x with cqHead := v } s)

/-- COAL_T has passed since the first unsignalled entry (R512). -/
def coalesceTimeout (h q : Nat) (s : State) : State :=
  let x := getQP s h q
  if !frozen s && x.unsig > 0 && decide (s.counter ≥ x.unsigAt + 25 * getF s (hqB h) F.hqCoalCoalT) then signalQP h q s
  else s

/-! ### Enable and disable (R508) -/

/-- The pair becomes disabled: entries not read are never executed, waiting responses are dropped (R507, R532). -/
def disableQP (h q : Nat) (s : State) : State :=
  let x := getQP s h q
  let lost := (s.respBuf.filter (fun e => e.1 = h && e.2.1 = q)).length
  let s1 := setQP h q { x with en := false, busy := false, sqTail := 0, sqRead := 0, unsig := 0 }
    { s with respBuf := s.respBuf.filter (fun e => !(e.1 = h && e.2.1 = q)) }
  (List.range lost).foldl (fun t _ => dropResponse h t) s1

/-- A write of HQ_QCFG with EN = 1: enables a pair whose depth is 2 to 4,096 (log entry 41). -/
def enableQP (h q : Nat) (data : Word) (s : State) : State :=
  let x := getQP s h q
  let depth := fldOf F.hqQcfgDepth data
  let y := { x with vector := fldOf F.hqQcfgVector data }
  if fldOf F.hqQcfgEn data = 0 then s
  else if x.en then setQP h q y s
  else if 2 ≤ depth ∧ depth ≤ 4096 then
    setQP h q { y with depth := depth, en := true, busy := false, sqTail := 0, sqRead := 0, consumed := 0, cqTail := 0,
                       cqHead := 0, phase := true, unsig := 0 } s
  else setQP h q { y with depth := depth } s

/-- A write of HQ_QCFG with EN = 0: disables the pair once its reads in flight end. -/
def requestDisableQP (h q : Nat) (data : Word) (s : State) : State :=
  let x := getQP s h q
  let y := { x with vector := fldOf F.hqQcfgVector data, depth := if x.en then x.depth else fldOf F.hqQcfgDepth data }
  if fldOf F.hqQcfgEn data = 1 then s
  else if x.en && x.sqRead ≠ x.sqTail then setQP h q { y with busy := true } s
  else if x.en then disableQP h q (setQP h q y s)
  else setQP h q y s

/-- The reads in flight of a disabled pair have ended. -/
def queueDisableDone (h q : Nat) (s : State) : State := if !frozen s && (getQP s h q).busy then disableQP h q s else s

/-- The queue pair that a path selects (R609). -/
def selQP (s : State) (p : Path) (h : Nat) : Nat := fldOf F.hqQselQp (selGet s p (hqB h + 0x100))

/-! ### Reset of a port (R506) -/

/-- Every register of an HQ block takes its reset value (R621). -/
def resetBlock (base : Nat) (s : State) : State :=
  { s with
    regs := s.regs.filter (fun e => !(decide (base ≤ e.1) && decide (e.1 < base + 0x4000)))
    latches := s.latches.filter (fun e => !(decide (base ≤ e.1 / 8) && decide (e.1 / 8 < base + 0x4000)))
    selects := s.selects.filter (fun e => !(decide (base ≤ e.1 / 8) && decide (e.1 / 8 < base + 0x4000))) }

/-- The view of holding h is reset: link, MSI-X, IDE streams, the HQ block, every queue. -/
def portReset (h : Nat) (s : State) : State :=
  resetBlock (hqB h)
    { s with
      qps := s.qps.filter (fun e => e.1 / 64 ≠ h)
      respBuf := s.respBuf.filter (fun e => e.1 ≠ h)
      ledq := eraseK s.ledq h
      hostLink := s.hostLink.filter (fun k => k ≠ h)
      msixMask := s.msixMask.filter (fun e => e.1 / 64 ≠ h)
      msixPend := s.msixPend.filter (fun e => e.1 / 64 ≠ h)
      ide := s.ide.filter (fun e => e.1 / 2 ≠ h) }

/-- A host port reaches L0 (R506, R637), where the Charter enables it (R539). -/
def hostPortLinkUp (h : Nat) (s : State) : State :=
  if frozen s || s.hostLink.contains h || !portOn s h then s else { s with hostLink := s.hostLink ++ [h] }

/-! ### The commands -/

def execPortReset (h : Holding) (s : State) : Out := .next (portReset h.val s)
def execSqDoorbell (h : Holding) (qp : QPair) (data : Word) (s : State) : Out := .next (sqDoorbell h.val qp.val data s)
def execSubmissionEntry (h : Holding) (qp : QPair) (entry : List Byte) (s : State) : Out :=
  .next (submissionEntry h.val qp.val entry s)
def execCoalesceTimeout (h : Holding) (qp : QPair) (s : State) : Out := .next (coalesceTimeout h.val qp.val s)
def execQueueDisable (p : Path) (h : Holding) (data : Word) (s : State) : Out :=
  .next (ownedWrite p (hqB h.val) 0x114 (requestDisableQP h.val (selQP s p h.val) data) s)
def execQueueDisableDone (h : Holding) (qp : QPair) (s : State) : Out := .next (queueDisableDone h.val qp.val s)
def execHostPortLinkUp (h : Holding) (s : State) : Out := .next (hostPortLinkUp h.val s)

end Sys2Proof.Machine
end

