-- ==== Sys2Proof/Machine/Flume.lean ====
section
/-!
DEFINITION. Flume datagrams and the two directions of a channel (R523 to R528): what a receiver places, hands on,
holds back and acknowledges, and what a sender sends, sends again and gives up. The layout of ACK, NAK and OPEN
payloads is log entry 44.
-/

namespace Sys2Proof.Machine

/-! ### Channels -/

/-- The key of a channel: owner (0 to 3, or 15) × 256 + number. -/
def chanKey (owner ix : Nat) : Nat := owner * 256 + ix
def getChan (s : State) (k : Nat) : Option Chan := lookupK s.chans k
def putChan (k : Nat) (v : Chan) (s : State) : State := { s with chans := insertK s.chans k v }
def dropChan (k : Nat) (s : State) : State := { s with chans := eraseK s.chans k }
def modChan (k : Nat) (f : Chan → Chan) (s : State) : State := withSome (getChan s k) (fun c t => putChan k (f c) t) s

/-- DST_CHAN and SRC_CHAN (R524): owner in [15:12], channel in [7:0]. -/
def wireChan (k : Nat) : Nat := k / 256 * 4096 + k % 256
/-- The key of a channel named on the wire; none where [11:8] is not 0. -/
def keyOfWire (w : Nat) : Option Nat := if w / 256 % 16 = 0 then some (chanKey (w / 4096 % 16) (w % 256)) else none

/-- Is a Flume port's link up? -/
def flmUp (s : State) (p : Nat) : Bool := getF s (flmB p) F.flmStatLink = 1

/-- The ports that a channel may use now (R528). -/
def usable (s : State) (c : Chan) : List Nat := (List.range 2).filter (fun p => c.ports.testBit p && flmUp s p)

/-- The port of a burst: bursts alternate in SEQ order over the ports. -/
def portFor (s : State) (c : Chan) (seq : Nat) : Option Nat :=
  let ps := usable s c
  if ps.isEmpty then none else ps[seq % ps.length]?

/-- The number of channels that use each port (FLM_STAT.CHANNELS). -/
def countChans (s : State) : State :=
  (List.range 2).foldl (fun t p => setF (flmB p) F.flmStatChannels ((t.chans.filter (fun e => e.2.ports.testBit p)).length) t) s

/-! ### Datagrams (R524) -/

/-- The fields of a Flume header. -/
structure Dgram where
  type : Nat
  dst  : Nat
  src  : Nat
  cont : Bool
  last : Bool
  seq  : Nat
  len  : Nat
  addr : Nat
  gen  : Nat
  data : List Byte
  deriving DecidableEq, Repr

/-- The bytes of a datagram: header, payload, CRC-32C over both. -/
def dgramBytes (d : Dgram) : List Byte :=
  let hp := leBytes 1 1 ++ leBytes 1 d.type ++ leBytes 2 d.dst ++ leBytes 2 d.src
    ++ leBytes 2 ((if d.cont then 1 else 0) + (if d.last then 2 else 0)) ++ leBytes 4 d.seq ++ leBytes 4 d.len
    ++ leBytes 8 d.addr ++ leBytes 4 d.gen ++ leBytes 4 0 ++ d.data
  hp ++ leBytes 4 (crc32c hp)

/-- Does a received datagram pass its CRC? -/
def dgramOk (bs : List Byte) : Bool :=
  decide (bs.length ≥ 36) && fieldLE bs (bs.length - 4) 4 = crc32c (bs.take (bs.length - 4))

/-- Reads a datagram that passed its CRC. -/
def parseDgram (bs : List Byte) : Dgram :=
  { type := fieldLE bs 1 1, dst := fieldLE bs 2 2, src := fieldLE bs 4 2, cont := (fieldLE bs 6 2).testBit 0
    last := (fieldLE bs 6 2).testBit 1, seq := fieldLE bs 8 4, len := fieldLE bs 12 4, addr := fieldLE bs 16 8
    gen := fieldLE bs 24 4, data := (bs.drop 32).take (bs.length - 36) }

/-- Receives a datagram of a type on a port: dropped and counted on a bad CRC (R524), else handed to `f`. -/
def receive (port type : Nat) (bs : List Byte) (f : Dgram → State → State) (s : State) : State :=
  if frozen s || !flmUp s port then s
  else if !dgramOk bs then bumpF (flmB port) F.flmRetxCrcDrops 1 s
  else
    let d := parseDgram bs
    if fieldLE bs 0 1 = 1 ∧ d.type = type then f d (idleExit s) else s

/-- Sends a datagram of a channel; payload bytes are counted on the port. -/
def sendDgram (k port : Nat) (c : Chan) (d : Dgram) (s : State) : State :=
  bumpPair (flmB port) 0x10C d.data.length
    (emit (.flume port c.peerIp (dgramBytes { d with src := wireChan k, dst := wireChan c.peerChan, gen := c.gen })) s)

def dgram0 (type : Nat) : Dgram := ⟨type, 0, 0, false, false, 0, 0, 0, 0, []⟩

/-- Sends a control datagram on the first usable port; lost where no port is up. -/
def sendCtl (k : Nat) (c : Chan) (d : Dgram) (s : State) : State :=
  match portFor s c 0 with
  | some p => sendDgram k p c d s
  | none => s

/-! ### Receiving (R525 to R527) -/

/-- Do records on this channel hold back acknowledgements (R527)? -/
def holdsAcks (c : Chan) : Bool := c.kind = .stage || c.kind = .kvIn

/-- Marks a burst as placed at an address. -/
def placeAt (seq addr : Nat) (data : List Byte) (c : Chan) : Chan :=
  { c with
    placed := insertK c.placed seq (addr, addr + data.length)
    rxData := (data.mapIdx (fun i b => (addr + i, b))).foldl (fun m e => if e.1 < c.handed then m else insertK m e.1 e.2) c.rxData }

/-- Places held CONT bursts whose predecessor is placed. -/
def placeHeld : Nat → Chan → Chan
  | 0, c => c
  | n + 1, c =>
    match c.heldB.find? (fun e => e.1 > 0 && (lookupK c.placed (e.1 - 1)).isSome) with
    | none => c
    | some e =>
      match lookupK c.placed (e.1 - 1) with
      | none => c
      | some r => placeHeld n (placeAt e.1 r.2 e.2.data { c with heldB := eraseK c.heldB e.1 })

/-- Advances the next SEQ expected over placed bursts. -/
def advanceNext : Nat → Chan → Chan
  | 0, c => c
  | n + 1, c => if (lookupK c.placed c.rxNext).isSome then advanceNext n { c with rxNext := c.rxNext + 1 } else c

/-- The bytes that may be handed on: those below which nothing is missing. -/
def readyBytes : Nat → Chan → List Byte
  | 0, _ => []
  | n + 1, c =>
    match lookupK c.rxData c.handed with
    | some b => b :: readyBytes n { c with handed := c.handed + 1, rxData := eraseK c.rxData c.handed }
    | none => []

/-- Advances the next SEQ to acknowledge: on a channel with records, over bursts that lie in checked records. -/
def advanceAck : Nat → Chan → Chan
  | 0, c => c
  | n + 1, c =>
    if c.ackNext < c.rxNext then
      match lookupK c.placed c.ackNext with
      | some r =>
        if !holdsAcks c || r.2 ≤ c.checked then
          advanceAck n { c with ackNext := c.ackNext + 1
                                placed := if c.ackNext ≥ 1 then eraseK c.placed (c.ackNext - 1) else c.placed }
        else c
      | none => advanceAck n { c with ackNext := c.ackNext + 1 }
    else c

/-- The bitmap of bursts received beyond the next SEQ. -/
def ackBitmap (c : Chan) : Nat :=
  if holdsAcks c then 0
  else (List.range 64).foldl (fun n i =>
    if (lookupK c.placed (c.ackNext + 1 + i)).isSome || (lookupK c.heldB (c.ackNext + 1 + i)).isSome then n + 2 ^ i else n) 0

/-- CREDIT: on a STAGE channel the free room of the staging ring; a region's or an import's space otherwise. -/
def creditOf (s : State) (c : Chan) : Nat :=
  match c.kind with
  | .stage => (match getImage s c.bind with | some im => min im.size (im.freed + im.ring) | none => 0)
  | .region => (match getImage s c.bind with
      | some im => ((im.regions.find? (fun r => r.num = c.sub)).map (·.size)).getD 0
      | none => 0)
  | _ => 2 ^ 48

/-- Sends an ACK. -/
def sendAck (k : Nat) (s : State) : State :=
  withSome (getChan s k) (fun c0 t =>
    let c := advanceAck (c0.placed.length + 1) c0
    sendCtl k c { dgram0 4 with seq := c.ackNext, addr := creditOf t c, len := 8, data := leBytes 8 (ackBitmap c) }
      (putChan k { c with sinceAck := 0, ackAt := t.counter } t)) s

/-- Takes a WRITE or READ_DATA burst into the receive side; a burst that is already placed is ignored. -/
def takeBurst (d : Dgram) (c : Chan) : Chan :=
  let c1 := { c with sinceAck := c.sinceAck + 1 }
  if d.seq < c.ackNext || (lookupK c.placed d.seq).isSome || (lookupK c.heldB d.seq).isSome then c1
  else
    let c2 := if d.cont && d.seq > 0 then { c1 with heldB := insertK c1.heldB d.seq ⟨d.data, d.last⟩ }
      else placeAt d.seq d.addr d.data c1
    let c3 := placeHeld (c2.heldB.length + 1) c2
    advanceNext (c3.placed.length + 1) c3

/-- Is a burst's length one that R525 allows? -/
def burstOk (d : Dgram) : Bool :=
  d.len = d.data.length && decide (1 ≤ d.len) && decide (d.len ≤ 8192) && (d.last || (d.len % 64 = 0))

/-- A record failed its check (R527): its bytes are forgotten, and a NAK names its range. True at the fourth
failure. -/
def failRecord (k off len : Nat) (s : State) : Bool × State :=
  match getChan s k with
  | none => (false, s)
  | some c =>
    let n := getK c.fails off 0 + 1
    let hit (r : Nat × Nat) : Bool := decide (r.1 < off + len) && decide (off < r.2)
    let kept := c.placed.filter (fun e => !hit e.2)
    let firstGone := (c.placed.filter (fun e => hit e.2)).foldl (fun m e => min m e.1) c.rxNext
    let c1 := { c with
      fails := setK c.fails off n 0
      placed := kept
      rxNext := firstGone
      handed := min c.handed off
      rxData := c.rxData.filter (fun e => !(decide (off ≤ e.1) && decide (e.1 < off + len))) }
    (decide (n ≥ 4), if n ≥ 4 then putChan k c1 s
      else sendCtl k c1 { dgram0 5 with addr := off, len := len } (putChan k c1 s))

/-- Records up to an address have passed their checks: their bursts may be acknowledged. -/
def passTo (k addr : Nat) (s : State) : State := modChan k (fun c => { c with checked := max c.checked addr }) s

/-! ### Sending (R526) -/

/-- The retransmit time after n sends: 100 µs, doubled at each retry, in counts. -/
def retxTime (n : Nat) : Nat := 2500 * 2 ^ (n - 1)

/-- Sends one burst on its port. -/
def sendBurst (k : Nat) (c : Chan) (b : Burst) (s : State) : State :=
  match portFor s c b.seq with
  | none => s
  | some p => sendDgram k p c
      { dgram0 (if b.rd then 3 else 1) with cont := b.cont, last := b.last, seq := b.seq, addr := b.addr, len := b.data.length, data := b.data } s

/-- Sends queued bursts while fewer than 1,024 are unacknowledged and they lie below CREDIT. -/
def pump (k : Nat) : Nat → State → State
  | 0, s => s
  | n + 1, s =>
    match getChan s k with
    | none => s
    | some c =>
      match c.queue with
      | [] => s
      | b :: rest =>
        if c.st ≠ .opening && decide (c.unacked.length < 1024) && (b.rd || decide (b.addr + b.data.length ≤ c.credit)) &&
            (portFor s c b.seq).isSome then
          let b1 := { b with sends := 1, due := s.counter + retxTime 1 }
          pump k n (sendBurst k c b1 (putChan k { c with queue := rest, unacked := c.unacked ++ [b1], lastAck := if c.unacked.isEmpty then s.counter else c.lastAck } s))
        else s

def pumpAll (k : Nat) (s : State) : State := pump k ((getChan s k).elim 0 (fun c => c.queue.length)) s

/-- Sends an unacknowledged burst again, counted on its port. -/
def resend (k seq : Nat) (s : State) : State :=
  match getChan s k with
  | none => s
  | some c =>
    match c.unacked.find? (fun b => b.seq = seq), portFor s c seq with
    | some b, some p =>
      let b1 := { b with sends := b.sends + 1, due := s.counter + retxTime (b.sends + 1) }
      bumpF (flmB p) F.flmRetxRetx 1
        (sendBurst k c b1 (putChan k { c with unacked := c.unacked.map (fun x => if x.seq = seq then b1 else x) } s))
    | _, _ => s

/-- Cuts bytes into bursts of at most 8,192 from an address, consecutive in SEQ; the last one carries LAST. -/
def cutBursts (rd : Bool) : Nat → Nat → Nat → Bool → List Byte → List Burst
  | 0, _, _, _, _ => []
  | n + 1, seq, addr, first, bs =>
    if bs.isEmpty then []
    else
      let d := bs.take 8192
      { seq := seq, addr := addr, data := d, last := decide (bs.length ≤ 8192), cont := rd && !first, rd := rd }
        :: cutBursts rd n (seq + 1) (addr + d.length) false (bs.drop 8192)

/-- Queues bytes for sending from an address and sends what may go. -/
def queueBytes (k addr : Nat) (rd : Bool) (bs : List Byte) (s : State) : State :=
  match getChan s k with
  | none => s
  | some c =>
    let nb := cutBursts rd (bs.length / 8192 + 1) c.txNext addr true bs
    pumpAll k (putChan k { c with queue := c.queue ++ nb, txNext := c.txNext + nb.length } s)

/-- An ACK: bursts below its SEQ, and those of its bitmap, are acknowledged; CREDIT; a burst missing behind three later
ones is sent again at once (R526). The acknowledged bursts. -/
def takeAck (k : Nat) (d : Dgram) (s : State) : List Burst × State :=
  match getChan s k with
  | none => ([], s)
  | some c =>
    let bm := fieldLE d.data 0 8
    let got (b : Burst) : Bool := b.seq < d.seq || (decide (b.seq > d.seq) && decide (b.seq ≤ d.seq + 64) && bm.testBit (b.seq - d.seq - 1))
    let later (b : Burst) : Nat := ((List.range 64).filter (fun i => bm.testBit i && decide (d.seq + 1 + i > b.seq))).length
    let gone := c.unacked.filter got
    let c1 := { c with unacked := c.unacked.filter (fun b => !got b), credit := max c.credit d.addr, lastAck := s.counter }
    let missing := c1.unacked.filter (fun b => decide (later b ≥ 3) && decide (b.sends = 1))
    (gone, pumpAll k (missing.foldl (fun t b => resend k b.seq t) (putChan k c1 s)))

/-- Ends the transfer of a channel (R526): FLUME_ABANDONED (0x3A), class 0x0F with the port's number. -/
def abandonLocal (k : Nat) (s : State) : State :=
  match getChan s k with
  | none => s
  | some c =>
    let p := if c.ports.testBit 0 then 0 else 1
    let st := statusWord (k / 256) p 0x0F 0x3A
    logStatus st p [k] (bumpF (flmB p) F.flmRetxAbandoned 1
      (putChan k { c with unacked := [], queue := [], placed := [], heldB := [], rxData := [], rxNext := c.ackNext } s))

/-- Closes a channel: CLOSE is sent and the channel is gone. -/
def closeChan (k : Nat) (s : State) : State :=
  match getChan s k with
  | none => s
  | some c => countChans (dropChan k (sendCtl k c (dgram0 8) s))

/-- A free channel number of an owner: 0 to 63 of a holding, 0 to 15 of the module (R524, log entry 44). -/
def freeChan (s : State) (owner : Nat) : Option Nat :=
  ((List.range (if owner = 15 then 16 else 64)).rotateLeft 1).find? (fun i => (getChan s (chanKey owner i)).isNone)

end Sys2Proof.Machine
end

