-- ==== Sys2Proof/Machine/Alloc.lean ====
section
/-!
DEFINITION. HBM pages of 2 MiB (R602, R603, R650), and the water shares of a holding (R44).
A page's key is die × 73,728 + page; the first 69,632 pages of a die are its allocation pool.
-/

namespace Sys2Proof.Machine

def getHold (s : State) (h : Nat) : Hold := getK s.holds h {}
def setHold (h : Nat) (v : Hold) (s : State) : State := { s with holds := setK s.holds h v {} }

/-- Page ranges of a die: the pool, the course store and the Siphon area (R603). -/
def poolLo (die : Nat) : Nat := die * 73728
def poolHi (die : Nat) : Nat := die * 73728 + 69632
def storeLo (die : Nat) : Nat := die * 73728 + 69632 + 320
def storeHi (die : Nat) : Nat := die * 73728 + 69632 + 832
def siphonLo (die : Nat) : Nat := die * 73728 + 69632 + 832
def siphonHi (die : Nat) : Nat := die * 73728 + 69632 + 832 + 3264

/-- The address of a page. -/
def pageAddr (k : Nat) : Nat := k * 0x200000

/-- The lowest start of n free pages at or above lo and below hi (log entry 45). -/
def firstRun (n hi : Nat) : Nat → NatMap Nat → Option Nat
  | lo, [] => if lo + n ≤ hi then some lo else none
  | lo, (k, _) :: m =>
    if k < lo then firstRun n hi lo m
    else if lo + n ≤ k then (if lo + n ≤ hi then some lo else none)
    else firstRun n hi (k + 1) m

/-- Pages of an owner (0 to 3, or 15 for the module). -/
def pagesOf (s : State) (owner : Nat) : Nat := (s.pages.filter (fun e => e.2 = owner)).length

/-- Is a holding's page share kept with n more pages? The module has no share. -/
def pageShareOk (s : State) (owner n : Nat) : Bool :=
  decide (owner ≥ 4) || decide (pagesOf s owner + n ≤ (getHold s owner).shPages)

/-- Takes n pages from a key on for an owner. -/
def takePages (k n owner : Nat) (s : State) : State :=
  { s with pages := (List.range n).foldl (fun m i => insertK m (k + i) owner) s.pages }

/-- Gives n pages back. -/
def freePages (k n : Nat) (s : State) : State :=
  { s with pages := s.pages.filter (fun e => !(decide (k ≤ e.1) && decide (e.1 < k + n))) }

/-- One page of a die's pool for an owner, where share and pool allow it; the pages of a stream or a ring. -/
def takeOne (die owner : Nat) (s : State) : Option (Nat × State) :=
  if pageShareOk s owner 1 then
    (firstRun 1 (poolHi die) (poolLo die) s.pages).map (fun k => (k, takePages k 1 owner s))
  else none

/-- Bytes to pages. -/
def pagesFor (n : Nat) : Nat := (n + 0x200000 - 1) / 0x200000

/-- Sets n bytes to zero: every listed byte of the range is dropped, since unlisted bytes read as 0. -/
def zeroFill (addr n : Nat) (s : State) : State :=
  { s with hbm := s.hbm.filter (fun e => !(decide (addr ≤ e.1) && decide (e.1 < addr + n))) }

/-! ### Plots of a holding -/

/-- Plots assigned to an owner, RELEASING ones included (R179). -/
def plotsOf (s : State) (owner : Nat) : Nat := (s.cist.plots.filter (fun e => e.2.st ≠ .free && e.2.owner = owner)).length

end Sys2Proof.Machine
end

