-- ==== Sys2Proof/Machine/Tally.lean ====
section
/-!
DEFINITION. Energy metering and Tally records (R432 to R465, R522, R572, R590): charging, attribution by epoch, records,
ledger pages, their signing, and delivery. The points that the spec leaves open are log entries 50 to 52.
-/

namespace Sys2Proof.Machine

/-! ### Consumers and streams -/

/-- Consumers: a stream's ID, the overhead of a holding, the overhead of the module (R436). -/
def holdKey (h : Nat) : Nat := 2 ^ 20 + h
def moduleKey : Nat := 2 ^ 20 + 15

def getStream (s : State) (id : Nat) : Option Stream := lookupK s.eng.streams id
def putStream (x : Stream) (s : State) : State := { s with eng := { s.eng with streams := insertK s.eng.streams x.id x } }
def modStream (id : Nat) (f : Stream → Stream) (s : State) : State := withSome (getStream s id) (fun x t => putStream (f x) t) s

/-- Frames that a stream holds (R339). -/
def framesOf (s : State) (id : Nat) : Nat := (s.eng.frames.filter (fun e => e.2.1 = id)).length

def setTally (f : Tally → Tally) (s : State) : State := { s with tally := f s.tally }

/-- Settles a stream's slot and frame time up to a counter value (R439): slot units × 64, and counts in slots or sweeps. -/
def settle (id upto : Nat) (s : State) : State :=
  match getStream s id with
  | none => s
  | some x =>
    let dt := upto - x.slotFrom
    let units := match x.st with
      | .active => 64 * dt
      | .prompt => x.chunk * dt
      | _ => 0
    let inSlot := if x.st = .active ∨ (x.st = .prompt ∧ x.chunk > 0) then dt else 0
    let ft := if x.st = .done then 0 else framesOf s id * (upto - x.frameFrom)
    putStream { x with slotFrom := max upto x.slotFrom, frameFrom := max upto x.frameFrom, slotTime := x.slotTime + inSlot }
      (setTally (fun t => { t with
        slots := setK t.slots id (getK t.slots id 0 + units) 0
        frameT := setK t.frameT id (getK t.frameT id 0 + ft) 0 }) s)

/-- Settles a stream now. -/
def settleNow (id : Nat) (s : State) : State := settle id s.counter s

/-! ### Charging (R436) -/

/-- The total of weights. -/
def sumW (ws : List (Nat × Nat)) : Nat := (ws.map (·.2)).foldl (· + ·) 0

/-- Charges an activity to weighted consumers; the module takes remainders, and all of it where there is no weight. -/
def chargeAct (ws : List (Nat × Nat)) (act : Activity) (s : State) : State :=
  let w := sumW ws
  setTally (fun t => { t with act := act.foldl (fun m e =>
    let parts := ws.map (fun c => (c.1, if w = 0 then 0 else e.2 * c.2 / w))
    let rest := e.2 - sumW parts
    (parts ++ [(moduleKey, rest)]).foldl (fun n p => setK n (p.1 * 64 + e.1) (getK n (p.1 * 64 + e.1) 0 + p.2) 0) m) t.act }) s

/-- Charges an activity to one consumer. -/
def chargeTo (c : Nat) (act : Activity) (s : State) : State := chargeAct [(c, 1)] act s

/-- Charges bytes through a host or Flume port, per 64 (R435). -/
def chargeBytes (c n : Nat) (s : State) : State := chargeTo c (actAdd 0 actHost ((n + 63) / 64) []) s

/-! ### Attribution (R438 to R441) -/

/-- The metering domain of a class on a die (R434, R435). -/
def domainOf (die cls : Nat) : Nat :=
  if cls ≤ 9 then die else if cls ≤ 11 then 4 + die else if cls = 12 then 8 + die else 12

/-- A[c][D] in nJ: events × coefficient × (V / Vref)^2, rounded down. -/
def actEnergy (t : Tally) (coef : Nat) (volts : List Nat) (c d : Nat) : Nat :=
  let es : List (Nat × Nat) := t.act.filter (fun e => e.1 / 64 = c && domainOf (e.1 / 16 % 4) (e.1 % 16) = d)
  let n := (es.map (fun e => e.2 * Config.coefficient coef (e.1 % 16))).foldl (· + ·) 0
  if d < 8 then
    let v := volts.getD d 0
    let r := Config.vref d
    n * v * v / (r * r * 10000)
  else n / 10000

/-- A consumer's share of an epoch. -/
structure Share where
  c   : Nat
  dyn : Nat
  s   : Nat
  deriving DecidableEq, Repr

/-- The consumers of an epoch, the module last. -/
def consumers (t : Tally) : List Nat :=
  let a : List Nat := t.act.map (fun e => e.1 / 64)
  let b : List Nat := t.slots.map (fun e => e.1)
  let f : List Nat := t.frameT.map (fun e => e.1)
  ((a ++ b ++ f).eraseDups.filter (fun c => c ≠ moduleKey)) ++ [moduleKey]

/-- One domain: dynamic energies after the clamp, static energy, and whether it was clamped. -/
def domainSplit (t : Tally) (coef : Nat) (volts : List Nat) (cs : List Nat) (d ed : Nat) : List Nat × Nat × Bool :=
  let as := cs.map (fun c => actEnergy t coef volts c d)
  let at_ := as.foldl (· + ·) 0
  if at_ > ed then (as.map (fun a => a * ed / at_), 0, true) else (as, ed - at_, false)

/-- The static basis of a domain: slot units, or frame time for the HBM rails and where there are no slot units. -/
def basisOf (t : Tally) (cs : List Nat) (d : Nat) : List Nat :=
  let f := cs.map (fun c => getK t.frameT c 0)
  let u := cs.map (fun c => getK t.slots c 0)
  if (8 ≤ d ∧ d ≤ 11) ∨ u.foldl (· + ·) 0 = 0 then f else u

/-- The static energies of a domain by consumer; all of it to the module where there is no basis. -/
def staticSplit (t : Tally) (cs : List Nat) (d sd : Nat) : List Nat :=
  let w := basisOf t cs d
  let tot := w.foldl (· + ·) 0
  if tot = 0 then cs.map (fun c => if c = moduleKey then sd else 0) else w.map (fun x => sd * x / tot)

/-- u of R441 in 10^-3 nJ. -/
def uncOf (low : Bool) (base tot : Nat) (dyn st : Nat) (rz : Int) : Nat :=
  let first := if low then (if tot = 0 then 0 else 1500000000 * base / tot) else 5 * (dyn + st + rz.natAbs)
  first + 20 * dyn + 50 * st + 100 * rz.natAbs

/-- Adds to a consumer's accruals. -/
def addAccr (c dyn st : Nat) (rz : Int) (unc coef : Nat) (clamp : Bool) (t : Tally) : Tally :=
  let x := getK t.accr c {}
  { t with accr := setK t.accr c { x with
      dyn := x.dyn + dyn, stat := x.stat + st, resid := x.resid + rz, unc := x.unc + unc
      two := x.two || (decide (x.coef ≠ 0) && decide (x.coef ≠ coef)), clamp := x.clamp || clamp, coef := coef } {} }

/-- The holding that pays for a consumer (R460). -/
def payer (s : State) (c : Nat) : Option Nat :=
  if c < 2 ^ 20 then
    ((getStream s c).map (·.holding)).orElse (fun _ => ((s.tally.terms.find? (fun e => e.strm.id = c)).map (·.strm.holding)))
  else if c < 2 ^ 20 + 4 then some (c - 2 ^ 20) else none

/-- Divides one epoch's energy (R438). -/
def attributeEpoch (einPj : Nat) (ed volts : List Nat) (s : State) : State :=
  let t := s.tally
  let coef := t.page.coef
  let cs := consumers t
  let pj := t.pjRem + einPj
  let ein : Nat := pj / 1000
  let doms := (List.range 13).map (fun d => domainSplit t coef volts cs d (ed.getD d 0))
  let stats := doms.mapIdx (fun d x => staticSplit t cs d x.2.1)
  let dyn (k : Nat) : Nat := (doms.map (fun x => x.1.getD k 0)).foldl (· + ·) 0
  let st (k : Nat) : Nat := (stats.map (fun x => x.getD k 0)).foldl (· + ·) 0
  let edSum : Nat := ((List.range 13).map (fun d => ed.getD d 0)).foldl (· + ·) 0
  let resid : Int := (ein : Int) - edSum
  let base (k : Nat) : Nat := dyn k + st k
  let tot : Nat := ((List.range cs.length).map base).foldl (· + ·) 0
  let clamps := (doms.filter (fun x => x.2.2)).length
  let odd := decide (clamps > 0) || decide (resid < 0)
  let low := decide (ein < 300000000)
  let one (k : Nat) : Nat × Nat × Nat × Int :=
    (cs.getD k 0, dyn k, st k, if tot = 0 then 0 else resid * base k / (tot : Int))
  let parts := ((List.range cs.length).map one).dropLast
  let given : Int := (parts.map (fun p => (p.2.1 : Int) + p.2.2.1 + p.2.2.2)).foldl (· + ·) 0
  let m := cs.length - 1
  let mine : Nat × Nat × Nat × Int := (moduleKey, dyn m, st m, (ein : Int) - given - dyn m - st m)
  let t1 := (parts ++ [mine]).foldl (fun u p =>
    addAccr p.1 p.2.1 p.2.2.1 p.2.2.2 (uncOf low (p.2.1 + p.2.2.1) tot p.2.1 p.2.2.1 p.2.2.2) coef odd u) t
  let hs : NatMap Int := parts.foldl (fun mm p =>
    match payer s p.1 with
    | some h => setK mm h (getK mm h 0 + ((p.2.1 : Int) + p.2.2.1 + p.2.2.2)) 0
    | none => mm) []
  let out := decide (resid < 0) || decide (100 * resid > 12 * (ein : Int))
  let t2 := { t1 with
    act := [], slots := [], frameT := [], pjRem := pj % 1000, einNj := (t.einNj + ein) % 1000
    page := { t1.page with ein := t1.page.ein + ein }
    toSub := hs.foldl (fun mm e => setK mm e.1 (getK mm e.1 0 + e.2) 0) t1.toSub
    last10 := (List.range 4).foldl (fun mm h => setK mm h ((getK hs h 0 :: getK mm h []).take 10) []) t1.last10
    outRun := if out then t.outRun + 1 else 0 }
  bumpF tlyB F.tlyClampClamps clamps (bumpF tlyB F.tlyClampNegres (if resid < 0 then 1 else 0)
    (bumpPair tlyB 0x114 ((t.einNj + ein) / 1000) { s with tally := t2 }))

/-! ### Records (R440, R443, R444) -/

/-- A signed 64-bit little-endian field. -/
def leInt (v : Int) : List Byte := leBytes 8 (toBits 64 v)

/-- The 128 bytes of a record; PAGE_SEQ is filled when the page is signed. -/
def recordBytes (kind flags handle : Nat) (status : Word) (holding role image leaf coef epoch start stop : Nat)
    (dyn st rz : Int) (unc slot tin tout : Nat) : List Byte :=
  leBytes 2 1 ++ leBytes 1 kind ++ leBytes 1 flags ++ leBytes 4 handle ++ leBytes 4 status.toNat ++ leBytes 1 holding
    ++ leBytes 1 role ++ leBytes 2 image ++ leBytes 8 0 ++ leBytes 2 leaf ++ leBytes 2 coef ++ leBytes 4 epoch
    ++ leBytes 8 start ++ leBytes 8 stop ++ leInt (max 0 (dyn + st + rz)) ++ leInt dyn ++ leInt st ++ leInt rz
    ++ leBytes 8 unc ++ leBytes 8 slot ++ leBytes 4 tin ++ leBytes 4 tout ++ List.replicate 24 0

/-- The handle of a stream (R399). -/
def handleOf (x : Stream) : Nat := x.id + x.gen * 2 ^ 20

/-- The accruals of a consumer in whole µJ, rounded down; what is left. -/
def microJ (x : Accr) : (Int × Int × Int × Nat) × Accr :=
  ((x.dyn / 1000, x.stat / 1000, x.resid / 1000, (x.unc + 999999) / 1000000),
   { dyn := x.dyn % 1000, stat := x.stat % 1000, resid := x.resid % 1000, coef := x.coef })

/-- The record of a terminal event enters the open page; the nJ that are left go to the module. -/
def enterRecord (e : Terminal) (s : State) : State :=
  let t := s.tally
  let x := e.strm
  let a := getK t.accr x.id {}
  let ((dyn, st, rz, unc), rest) := microJ a
  let m := getK t.accr moduleKey {}
  let flags := (if x.predUsed then 1 else 0) + (if x.imported then 2 else 0) + (if a.two then 4 else 0)
    + (if a.clamp then 8 else 0) + (if x.froze then 16 else 0)
  let r := recordBytes 0 flags (handleOf x) x.status x.holding e.role x.image t.page.recs.length (max a.coef t.page.coef) s.epoch
    x.admitCtr e.endCtr dyn st rz unc x.slotTime (if x.imported then 0 else x.promptDone) x.new
  { s with tally := { t with
      accr := setK (eraseK t.accr x.id) moduleKey { m with
        dyn := m.dyn + rest.dyn, stat := m.stat + rest.stat, resid := m.resid + rest.resid } {}
      page := { t.page with recs := t.page.recs ++ [r] } } }

/-! ### Pages (R445 to R448) -/

/-- The overhead record of a consumer, and its accruals for the next page. -/
def overheadRecord (c kind handle holding : Nat) (s : State) : State :=
  let t := s.tally
  let a := getK t.accr c {}
  let ((dyn, st, rz, unc), rest) := microJ a
  let r := recordBytes kind ((if a.two then 4 else 0) + (if a.clamp then 8 else 0)) handle 0 holding (getF s modB F.modRoleCurrent)
    0xFFFF t.page.recs.length t.page.coef s.epoch t.page.openCtr s.counter dyn st rz unc 0 0 0
  { s with tally := { t with accr := setK t.accr c rest {}, page := { t.page with recs := t.page.recs ++ [r] } } }

/-- The open page closes with its five overhead records, and the next one opens; a coefficient set that is installed
applies from then on (R442, R445, R446). -/
def closePage (cause : Nat) (s : State) : State :=
  let s1 := (List.range 4).foldl (fun u h => overheadRecord (holdKey h) 1 (0xFFFFFFF0 + h) h u) s
  let s2 := overheadRecord moduleKey 2 0xFFFFFFFF 15 s1
  let t := s2.tally
  let coef := getF s2 tlyB F.tlyCoefInstalled
  let done := { t.page with closeCtr := s.counter, cause := cause }
  let s3 := setF tlyB F.tlyCoefInForce coef
    { s2 with tally := { t with closed := t.closed ++ [done], page := { openCtr := s.counter, coef := coef }, clean := decide (cause = 2) } }
  whenB (s3.tally.closed.length = 128) (irqRaise tlyB 8) s3

/-- Terminal events of the epoch become records; the page closes at 4,091 (R443, R446). -/
def completeTerms (s : State) : State :=
  let ts := s.tally.terms
  ts.foldl (fun u e =>
    let v := enterRecord e u
    if v.tally.page.recs.length ≥ 4091 then closePage 0 v else v) { s with tally := { s.tally with terms := [] } }

/-- ATTRIBUTION_EPOCH: the epoch that ends at the latest multiple of 25,000. -/
def attributionEpoch (einPj : Nat) (ed volts : List Nat) (s : State) : State :=
  let e := s.counter / 25000
  if frozen s || decide (e ≤ s.tally.lastEpoch) then s
  else
    let s1 := (s.eng.streams.map (·.1)).foldl (fun u id => settle id (25000 * e) u) s
    completeTerms (setTally (fun t => { t with lastEpoch := e }) (attributeEpoch einPj ed volts s1))

/-- PAGE_CLOSE_TIME: 250 ms after the page opened. -/
def pageCloseTime (s : State) : State :=
  if !frozen s && decide (s.counter ≥ s.tally.page.openCtr + 6250000) then closePage 1 s else s

/-- A shutdown requested through the management port closes the open page (R446). -/
def shutdownRequest (s : State) : State :=
  if frozen s then s else closePage 2 s

/-- The largest power of two below n. -/
def splitAt2 (n : Nat) : Nat := (List.range 13).foldl (fun k i => if 2 ^ i < n then 2 ^ i else k) 1

/-- The Merkle tree hash of RFC 9162 over leaf hashes; the first argument bounds the depth. -/
def merkle : Nat → List (List Byte) → List Byte
  | 0, l => l.getD 0 []
  | f + 1, l =>
    if l.length ≤ 1 then l.getD 0 (sha384 [])
    else sha384 (1 :: (merkle f (l.take (splitAt2 l.length)) ++ merkle f (l.drop (splitAt2 l.length))))

/-- The inclusion path of leaf i, from leaf to root. -/
def merklePath : Nat → List (List Byte) → Nat → List (List Byte)
  | 0, _, _ => []
  | f + 1, l, i =>
    let k := splitAt2 l.length
    if l.length ≤ 1 then []
    else if i < k then merklePath f (l.take k) i ++ [merkle f (l.drop k)]
    else merklePath f (l.drop k) (i - k) ++ [merkle f (l.take k)]

def leafHash (r : List Byte) : List Byte := sha384 (0 :: r)

/-- Cuts or pads a byte string to n bytes. -/
def fixLen (n : Nat) (l : List Byte) : List Byte := (l ++ List.replicate n 0).take n

/-- Key numbers of the opaque signature functions. -/
def keyTally : Nat := 10

/-- The number of a key derived in the lifecycle in force: RETURN yields new keys (R540, R557). -/
def derivedKey (s : State) (k : Nat) : Nat := k + 2 ^ 32 * lifecycle s

/-- MODULE_ID: the first 16 bytes of SHA-384 of the Tally ECDSA public key. -/
def moduleId (s : State) : List Byte := (sha384 (Config.publicKey keyTally (lifecycle s))).take 16

/-- The 192-byte header of a page under an index (R447). -/
def pageHeader (p : Page) (epoch q : Nat) (id prev root : List Byte) : List Byte :=
  leBytes 4 0x31504C54 ++ leBytes 2 1 ++ leBytes 2 p.recs.length ++ leBytes 8 q ++ leBytes 4 epoch ++ leBytes 1 p.cause
    ++ leBytes 1 ((if p.frozen then 1 else 0) + (if p.unclean then 2 else 0)) ++ leBytes 2 p.coef ++ leBytes 8 p.openCtr
    ++ leBytes 8 p.closeCtr ++ leBytes 8 (p.ein / 1000) ++ id ++ fixLen 48 prev ++ fixLen 48 root ++ List.replicate 32 0

/-! ### Signing (R449 to R455, R572) -/

/-- A status of the Tally engine is logged and shown in TLY_LASTEVT. -/
def tallyEvent (holding code : Nat) (detail : List Nat) (s : State) : State :=
  let st := statusWord holding 0 0x11 code
  lastEvt tlyB F.tlyLastevtStatus st (logStatus st 0 detail s)

/-- Sets q_res. -/
def setRes (q : Nat) (s : State) : State :=
  setF tlyB F.tlyResLoResLo (q % 2 ^ 32) (setF tlyB F.tlyResHiResHi (q / 2 ^ 32) (setTally (fun t => { t with qRes := q }) s))

/-- One write of q_res to both flash devices: durable where it reads back from one of them. -/
def journalTry (w : Bool × Bool) (s : State) : Bool × State :=
  (w.1 || w.2, setB tlyB F.tlyStatJournalA w.1 (setB tlyB F.tlyStatJournalB w.2 s))

/-- Makes the next index durable (R451, R454): true where signing may use it. -/
def reserveIndex (ws : List (Bool × Bool)) (s : State) : Bool × State :=
  if s.tally.q < s.tally.qRes then (true, s)
  else
    let ok (u : State) : State := setB tlyB F.tlyStatHalted false (setRes (max u.tally.qRes u.tally.q + 64) u)
    let (d1, s1) := journalTry (ws.getD 0 (true, true)) s
    if d1 then (true, ok s1)
    else
      let (d2, s2) := journalTry (ws.getD 1 (true, true)) s1
      if d2 then (true, ok s2)
      else if getF s2 tlyB F.tlyStatHalted = 1 then (false, s2)
      else (false, irqRaise tlyB 4 (setF tlyB F.tlyStatHalted 1 (tallyEvent 15 0x78 [] s2)))

/-- Signs a page with the next index: records get PAGE_SEQ, the header its ROOT. -/
def signPage (p : Page) (s : State) : Page × State :=
  let q := s.tally.q
  let recs := p.recs.map (fun r => r.take 0x10 ++ leBytes 8 q ++ r.drop 0x18)
  let root := merkle 13 (recs.map leafHash)
  let hdr := pageHeader { p with recs := recs } s.epoch q (moduleId s) s.tally.prevRoot root
  let sig := fixLen 96 (Config.ecdsaSign (derivedKey s keyTally) hdr s.freeCtr) ++ fixLen 5716 (Config.hssSign (derivedKey s keyTally) q hdr (s.freeCtr + 1))
  ({ p with seq := q, recs := recs, header := hdr, sigs := sig },
   { s with freeCtr := s.freeCtr + 2, tally := { s.tally with q := q + 1, prevRoot := root } })

/-- A signing unit in service. -/
def signerOn (s : State) (k : Nat) : Bool := (getF s rlyB F.rlyCoresSigners).testBit k

/-- Retires a signing unit; without both, signing stops (R569, R572). -/
def retireSigner (k : Nat) (s : State) : State :=
  let left := getF s rlyB F.rlyCoresSigners - 2 ^ k
  let s1 := logEv 0x2E 0x11 k [] (setF rlyB F.rlyCoresSigners left s)
  whenB (left = 0) (fun t => irqRaise tlyB 4 (setF tlyB F.tlyStatHalted 1 (logEv 0x31 0x11 k [] { t with beyond := true }))) s1

/-- A failed check of a unit's signatures: a transient, or lasting with the third one in 2^32 of the unit's cycles. -/
def signerTransient (k cycle : Nat) (s : State) : State :=
  let l := (cycle :: getK s.tally.sigTrans k []).take 3
  let s1 := setTally (fun t => { t with sigTrans := setK t.sigTrans k l [] }) s
  whenB (decide (l.length = 3) && decide (cycle - l.getD 2 0 < 2 ^ 32)) (retireSigner k) s1

/-- PAGE_SIGN: a unit signs the next closed page; the other one checks it. `bad` failed attempts came before the one that
passed: each consumes an index, and a second one retires the unit. -/
def pageSign (k bad cycle : Nat) (ws : List (Bool × Bool)) (s : State) : State :=
  match s.tally.closed with
  | [] => s
  | p :: rest =>
    if frozen s || !signerOn s k || s.tally.signing.isSome || decide (s.tally.q ≥ 2 ^ 40) ||
        (s.tally.q % 2 ^ 20 = 0 && s.tally.q ≠ 0 && getF s tlyB F.tlyStatBottomReady = 0) then s
    else
      let burn (u : State) : State := { u with tally := { u.tally with q := u.tally.q + 1 } }
      let (ok, s1) := reserveIndex ws s
      if !ok then s1
      else if bad ≥ 2 then retireSigner k (burn (reserveIndex [] (burn s1)).2)
      else
        let s2 := if bad = 1 then (reserveIndex [] (signerTransient k cycle (burn s1))).2 else s1
        let s3 := whenB (s2.tally.q % 2 ^ 20 = 0) (setF tlyB F.tlyStatBottomReady 0) s2
        let (p1, s4) := signPage p s3
        let s5 := setF tlyB F.tlyStatSigning 1 { s4 with tally := { s4.tally with closed := rest, signing := some p1 } }
        whenB (!s5.tally.keysLow && decide (s5.tally.q + 2 ^ 32 > 2 ^ 40))
          (fun u => tallyEvent 15 0x7A [] { u with tally := { u.tally with keysLow := true } }) s5

/-- LMS_TREE_BUILT (R450). -/
def lmsTreeBuilt (s : State) : State := if frozen s then s else setF tlyB F.tlyStatBottomReady 1 s

/-! ### Ledger rings and queues (R456, R522) -/

/-- A ledger element: its header and body, in whole units of 64 bytes. -/
def element (type path leaf nrec seq : Nat) (body : List Byte) : List Byte :=
  let units := (body.length + 63) / 64 + 1
  leBytes 1 type ++ leBytes 1 path ++ leBytes 2 units ++ leBytes 2 leaf ++ leBytes 2 nrec ++ leBytes 8 seq
    ++ List.replicate 48 0 ++ fixLen (64 * (units - 1)) body

/-- Bytes that wait in a holding's ledger ring. -/
def ringBytes (s : State) (h : Nat) : Nat := ((getK s.tally.rings h []).map (fun e => e.2.length)).foldl (· + ·) 0

/-- Is the ring full, or 75% full? -/
def ringFull (s : State) (h : Nat) : Bool := decide (ringBytes s h + 6848 > 67108864)
def ringHigh (s : State) (h : Nat) : Bool := decide (4 * ringBytes s h ≥ 3 * 67108864)

/-- Units of a ledger queue, and free ones: one unit stays free. -/
def ledUnits (s : State) (h : Nat) : Nat := 64 * getF s (hqB h) F.hqLcfgSize4k
def ledFree (s : State) (h : Nat) : Nat :=
  let q := getK s.ledq h {}
  let n := ledUnits s h
  if n = 0 then 0 else (q.head + n - q.tail - 1) % n

/-- Is the ledger queue enabled, with a size that R522 allows? -/
def ledOn (s : State) (h : Nat) : Bool :=
  getF s (hqB h) F.hqLcfgEn = 1 && !ideBlocked s h && decide (16 ≤ getF s (hqB h) F.hqLcfgSize4k) && decide (getF s (hqB h) F.hqLcfgSize4k ≤ 16384)

/-- Writes units at the tail and advances it. -/
def ledWrite (h : Nat) (bs : List Byte) (s : State) : State :=
  let q := getK s.ledq h {}
  let base := pairVal s (hqB h) 0x11C
  { (emit (.hostWrite h (base + 64 * q.tail) bs) s) with
    ledq := setK s.ledq h { q with tail := (q.tail + bs.length / 64) % ledUnits s h } {} }

/-- Delivers waiting elements while they fit; a PAD fills an end that is too short (R522). -/
def deliver (h : Nat) : Nat → State → State
  | 0, s => s
  | f + 1, s =>
    match getK s.tally.rings h [] with
    | [] => s
    | e :: rest =>
      let n := e.2.length / 64
      let left := ledUnits s h - (getK s.ledq h {}).tail
      if !ledOn s h then s
      else if n > left then
        if left > ledFree s h then s
        else deliver h f (ledWrite h (fixLen (64 * left) (leBytes 1 0 ++ leBytes 1 0 ++ leBytes 2 left)) s)
      else if n > ledFree s h then s
      else
        deliver h f (ledWrite h e.2 { s with tally := { s.tally with rings := setK s.tally.rings h rest [] } })

/-- Delivers what fits to a holding and signals its ledger vector; pages that no ring holds are forgotten, and a ring
below 75% may be reported again. -/
def deliverAll (h : Nat) (s : State) : State :=
  let n := (getK s.tally.rings h []).length
  let s1 := deliver h (2 * n) s
  let s2 := if (getK s1.tally.rings h []).length < n then
      chargeBytes (holdKey h) (ringBytes s h - ringBytes s1 h) (signalVec h (getF s1 (hqB h) F.hqLcfgVector) s1) else s1
  setTally (fun t => { t with
    signed := t.signed.filter (fun p => t.rings.any (fun r => r.2.any (fun e => e.1 = p.seq)))
    fullLogged := if ringHigh s2 h then t.fullLogged else t.fullLogged.filter (fun k => k ≠ h) }) s2

/-- The elements of a signed page for a holding: the page, its stream records, its overhead record. -/
def pageElements (p : Page) (h : Nat) : List (List Byte) :=
  let leaves := p.recs.map leafHash
  let n := p.recs.length
  let mine := p.recs.zipIdx.filter (fun e => fieldLE e.1 0x0C 1 = h && fieldLE e.1 2 1 < 2)
  element 1 0 0 n p.seq (fixLen 6016 (p.header ++ p.sigs)) ::
    mine.map (fun e =>
      let path := merklePath 13 leaves e.2
      element 2 path.length e.2 n p.seq (e.1 ++ path.flatMap id))

/-- PAGE_SIGNED: a page is released and its records are delivered (R456, R457). -/
def pageSigned (s : State) : State :=
  match s.tally.signing with
  | none => s
  | some p =>
    if frozen s then s
    else
      let s1 := setF tlyB F.tlyStatSigning 0 (setTally (fun t => { t with signing := none, signed := t.signed ++ [p] }) s)
      let s2 := emit (.mgmtData (p.header ++ (p.recs.drop (p.recs.length - 5)).flatMap id)) s1
      (List.range 4).foldl (fun u h =>
        let v := setTally (fun t => { t with
          rings := setK t.rings h (getK t.rings h [] ++ (pageElements p h).map (fun e => (p.seq, e))) [] }) u
        let w := deliverAll h v
        if ringHigh w h ∧ !w.tally.fullLogged.contains h then
          tallyEvent h 0x7B [] (setTally (fun t => { t with fullLogged := t.fullLogged ++ [h] }) w)
        else w) s2

/-- SIGNATURE_BLOCK_READ: the signature block of a page that is still in a ledger ring (R457). -/
def signatureBlockRead (seq : Nat) (s : State) : State :=
  match s.tally.signed.find? (fun p => p.seq = seq) with
  | some p => if frozen s then s else emit (.mgmtData p.sigs) s
  | none => if frozen s then s else emit (.mgmtData []) s

/-- METER_CHECK (R590): a second of epochs out of range, at most once per hour. -/
def meterCheck (s : State) : State :=
  let due := match s.tally.meterAt with
    | none => true
    | some c => decide (s.counter ≥ c + 90000000000)
  if !frozen s && decide (s.tally.outRun ≥ 1000) && due then
    logEv 0x30 0x11 0 [] (setTally (fun t => { t with meterAt := some s.counter }) s)
  else s

/-! ### The commands -/

def execAttributionEpoch (ein : Nat) (ed volts : List Nat) (s : State) : Out := .next (attributionEpoch ein ed volts s)
def execPageCloseTime (s : State) : Out := .next (pageCloseTime s)
def execLmsTreeBuilt (s : State) : Out := .next (lmsTreeBuilt s)
def execSignatureBlockRead (seq : Nat) (s : State) : Out := .next (signatureBlockRead seq s)
def execMeterCheck (s : State) : Out := .next (meterCheck s)

end Sys2Proof.Machine
end

