-- ==== Sys2Proof/Machine/KvPages.lean ====
section
/-!
DEFINITION. Key/value pages of a stream (R338 to R341, R355 to R359): frames, page maps, what a stream holds in HBM, and
the export of its pages. The place of frames within a die is log entry 53.
-/

namespace Sys2Proof.Machine

/-! ### Shape of a stream's pages -/

/-- Layers, key/value heads of a die, head dimension and pages of a context (R340). -/
structure KvDims where
  layers : Nat
  heads  : Nat
  d      : Nat
  pmax   : Nat
  deriving DecidableEq, Repr

def imageDims (im : Image) : KvDims := ⟨im.layers, im.kvhd, im.kvd, im.ctxP⟩
/-- The dimensions of a stream's image. -/
def kvDims (s : State) (x : Stream) : KvDims := (getImage s x.image).elim ⟨0, 0, 64, 0⟩ imageDims
/-- CTXMAX (R340). -/
def ctxMax (s : State) (x : Stream) : Nat := 64 * (kvDims s x).pmax
/-- Bytes of a frame (R339). -/
def kvBytes (d : Nat) : Nat := 128 * d
/-- The address of frame f of a die. -/
def frameAddr (die d f : Nat) : Nat := die * 0x2400000000 + f * kvBytes d
/-- Bytes of a stream's page map on one die. -/
def mapBytes (k : KvDims) : Nat := 16 * k.layers * k.heads * k.pmax
/-- The address of map entry (layer, head, page). -/
def entryAddr (base : Nat) (k : KvDims) (l h p : Nat) : Nat := base + 16 * ((l * k.heads + h) * k.pmax + p)

/-- A page map entry (*Table: Page map entry*); states ABSENT 0, OPEN 1, SEALED 2, EXPORT 3, IMPORT 4. -/
structure MapEnt where
  frame : Nat
  st    : Nat
  ntok  : Nat
  sk    : Word
  sv    : Word
  deriving DecidableEq, Repr

def rdEnt (s : State) (a : Nat) : MapEnt :=
  ⟨rdLE s a 3, rdLE s (a + 3) 1, rdLE s (a + 4) 2, rdF32 s (a + 8), rdF32 s (a + 12)⟩
def wrEnt (a : Nat) (e : MapEnt) (s : State) : State :=
  wrMem a (leBytes 3 e.frame ++ leBytes 1 e.st ++ leBytes 2 e.ntok ++ leBytes 2 0 ++ leBytes 4 e.sk.toNat ++ leBytes 4 e.sv.toNat) s
def modEnt (a : Nat) (f : MapEnt → MapEnt) (s : State) : State := wrEnt a (f (rdEnt s a)) s

/-! ### Frames (R341) -/

def setEng (f : Engine → Engine) (s : State) : State := { s with eng := f s.eng }

/-- A free frame of a page that holds frames of a size. -/
def frameIn (s : State) (k fsz : Nat) : Option Nat :=
  (List.range (0x200000 / fsz)).find? (fun i => (lookupK s.eng.frames (pageAddr k + i * fsz)).isNone)

/-- Gives frame i of page k to a map entry of a stream; its bytes are zero. -/
def giveFrame (k i d id ent : Nat) (s : State) : Nat × State :=
  let a := pageAddr k + i * kvBytes d
  (a % 0x2400000000 / kvBytes d, zeroFill a (kvBytes d) (setEng (fun e => { e with frames := insertK e.frames a (id, ent) }) s))

/-- Allocates a frame of a die for a map entry: in a page of the holding that has room, else in a new page. -/
def allocFrame (die owner d id ent : Nat) (s : State) : Option (Nat × State) :=
  let fsz := kvBytes d
  let mine := s.eng.framePages.filter (fun e => decide (e.1 / 73728 = die) && decide (e.2 = (owner, fsz)))
  match mine.findSome? (fun e => (frameIn s e.1 fsz).map (fun i => (e.1, i))) with
  | some (k, i) => some (giveFrame k i d id ent s)
  | none =>
    match takeOne die owner s with
    | none => none
    | some (k, t) =>
      if pageAddr k % 0x2400000000 / fsz < 2 ^ 24 then
        some (giveFrame k 0 d id ent (setEng (fun e => { e with framePages := insertK e.framePages k (owner, fsz) }) t))
      else none

/-- Frees the frame at an address; a page without frames goes back. -/
def freeFrame (a : Nat) (s : State) : State :=
  let k := a / 0x200000
  let s1 := setEng (fun e => { e with frames := eraseK e.frames a }) s
  if s1.eng.frames.any (fun e => e.1 / 0x200000 = k) then s1
  else setEng (fun e => { e with framePages := eraseK e.framePages k }) (freePages k 1 s1)

/-- Does the entry hold a frame of its own? -/
def entryFrame (s : State) (die d a : Nat) : Option Nat :=
  let f := frameAddr die d (rdEnt s a).frame
  match lookupK s.eng.frames f with
  | some (_, e) => if e = a then some f else none
  | none => none

/-- Gives an entry a frame where it has none (R341, R413). -/
def reserveEntry (die owner d id a : Nat) (s : State) : Option State :=
  match entryFrame s die d a with
  | some _ => some s
  | none => (allocFrame die owner d id a s).map (fun r => modEnt a (fun e => { e with frame := r.1 }) r.2)

/-- The entries of a stream's pages lo to hi − 1, with their die: die, layer, head, page ascending. -/
def pageEntries (k : KvDims) (maps : List Nat) (lo hi : Nat) : List (Nat × Nat) :=
  (List.range 4).flatMap (fun die => (List.range k.layers).flatMap (fun l => (List.range k.heads).flatMap (fun h =>
    (List.range (hi - lo)).map (fun p => (die, entryAddr (maps.getD die 0) k l h (lo + p))))))

/-- Reserves every frame of the positions lo to hi − 1 of a stream, or none (R413). -/
def reservePositions (id lo hi : Nat) (s : State) : Option State :=
  match getStream s id with
  | none => none
  | some x =>
    let k := kvDims s x
    let s0 := settleNow id s
    (pageEntries k x.maps (lo / 64) ((hi + 63) / 64)).foldl (fun o e => o.bind (reserveEntry e.1 x.holding k.d id e.2)) (some s0)

/-! ### What a stream holds -/

/-- A run of n pages of a die's pool for a holding, its bytes zero: share first, then the pool. -/
def takeRun (die owner n : Nat) (s : State) : Sum Nat (Nat × State) :=
  if !pageShareOk s owner n then .inl 0
  else match firstRun n (poolHi die) (poolLo die) s.pages with
    | none => .inl 1
    | some k => .inr (k, zeroFill (pageAddr k) (n * 0x200000) (takePages k n owner s))

/-- The page maps of a stream on the four dies (R340): bases and page runs, or the unit class of the limit. -/
def takeMaps (owner : Nat) (k : KvDims) (s : State) : Sum Nat (List Nat × List (Nat × Nat) × State) :=
  let n := max 1 (pagesFor (mapBytes k))
  (List.range 4).foldl (fun r die =>
    match r with
    | .inl c => .inl c
    | .inr (ms, rs, t) =>
      match takeRun die owner n t with
      | .inl c => .inl c
      | .inr (p, u) => .inr (ms ++ [pageAddr p], rs ++ [(p, n)], u)) (.inr ([], [], s))

/-- The prompt buffer (R405): on the lowest die with room. -/
def takeBuf (owner bytes : Nat) (s : State) : Sum Nat (Nat × Nat × State) :=
  let n := pagesFor bytes
  (List.range 4).foldl (fun r die =>
    match r with
    | .inr x => .inr x
    | .inl _ =>
      match takeRun die owner n s with
      | .inl c => .inl c
      | .inr (p, u) => .inr (p, n, u)) (.inl 1)

/-- Frees a stream's prompt buffer. -/
def freeBuf (id : Nat) (s : State) : State :=
  withSome (getStream s id) (fun x t =>
    putStream { x with bufRun := [], promptBuf := 0 } (x.bufRun.foldl (fun u r => freePages r.1 r.2 u) t)) s

/-- Frees every frame, page map and buffer of a stream (R355, R404). -/
def freeStream (id : Nat) (s : State) : State :=
  let s1 := settleNow id s
  let s2 := ((s1.eng.frames.filter (fun e => e.2.1 = id)).map (·.1)).foldl (fun u a => freeFrame a u) s1
  let s3 := withSome (getStream s2 id) (fun x t =>
    putStream { x with runs := [], maps := [] } (x.runs.foldl (fun u r => freePages r.1 r.2 u) t)) s2
  freeBuf id s3

/-! ### Status words and registers -/

/-- A status word of a stream (R430). -/
def strStatus (x : Stream) (code : Nat) : Word := statusWord x.holding x.id 0x10 code

/-- The KVC registers of a 0x4E or 0x4F event of a die (R362). -/
def kvcEvent (die : Nat) (f : Fld) (st : Word) (s : State) : State :=
  lastEvt (kvcB die) F.kvcLastevtStatus st (bumpF (kvcB die) f 1 s)

/-! ### Export (R356 to R359, R421) -/

/-- KVTAG of an image (R358). -/
def kvTag (im : Image) : List Byte :=
  (sha384 (leBytes 2 im.layers ++ leBytes 1 im.kvhd ++ leBytes 1 (Nat.log2 im.kvd) ++ fixLen 16 im.kvmodel)).take 16

/-- A page to export: die, layer, head, page and its entry. -/
structure ExpPage where
  die   : Nat
  layer : Nat
  head  : Nat
  page  : Nat
  ent   : Nat
  deriving DecidableEq, Repr

/-- The pages that a stream holds, in the order of R357. -/
def heldPages (s : State) (x : Stream) : List ExpPage :=
  let k := kvDims s x
  (List.range 4).flatMap (fun die => (List.range k.layers).flatMap (fun l => (List.range k.heads).flatMap (fun h =>
    (List.range k.pmax).filterMap (fun p =>
      let a := entryAddr (x.maps.getD die 0) k l h p
      if (rdEnt s a).st = 0 then none else some ⟨die, l, h, p, a⟩))))

/-- A page record (R359): header with CRC, then the frame. -/
def pageRecord (s : State) (d : Nat) (p : ExpPage) : List Byte :=
  let e := rdEnt s p.ent
  let h := leBytes 2 p.layer ++ leBytes 1 p.head ++ leBytes 1 p.die ++ leBytes 2 p.page ++ leBytes 2 e.ntok
    ++ leBytes 4 e.sk.toNat ++ leBytes 4 e.sv.toNat ++ List.replicate 44 0
  let f := rdBytes s (frameAddr p.die d e.frame) (kvBytes d)
  h ++ leBytes 4 (crc32c (h ++ f)) ++ f

/-- The export header (R357). -/
def exportHeader (s : State) (x : Stream) (im : Image) (ps : List ExpPage) : List Byte :=
  let b := leBytes 4 0x3158564B ++ leBytes 2 1 ++ leBytes 2 (if x.promptComplete then 1 else 0) ++ kvTag im ++ leBytes 4 x.id
    ++ leBytes 4 s.epoch ++ leBytes 8 s.counter ++ leBytes 4 x.nctx ++ leBytes 2 im.layers ++ leBytes 1 im.kvhd
    ++ leBytes 1 (Nat.log2 im.kvd) ++ leBytes 4 ps.length
    ++ (List.range 4).flatMap (fun die => leBytes 4 (ps.filter (fun p => p.die = die)).length) ++ List.replicate 56 0
  b ++ leBytes 4 (crc32c b)

/-- What a channel's `bind` holds for a stream: its handle plus 1; 0 where the channel binds no stream yet. -/
def bindOf (x : Stream) : Nat := handleOf x + 1

/-- The channel that XCHAN names, if it is open, of the holding and kind, and bound to no other stream (R519). -/
def xchanOf (s : State) (h : Nat) (kind : ChanKind) (bind xchan : Nat) : Option Nat :=
  match keyOfWire (xchan % 65536) with
  | none => none
  | some k =>
    if xchan % 65536 ≠ 0 && k / 256 = h then
      (getChan s k).bind (fun c => if c.kind = kind && c.st = .open_ && (c.bind = 0 || c.bind = bind) then some k else none)
    else none

/-- The counter and the state of a stream change (R403). -/
def setStreamSt (id : Nat) (st : StreamState) (s : State) : State :=
  modStream id (fun x => { x with st := st, stateCtr := s.counter }) (settleNow id s)

/-- Starts the export of a stream on a channel: every page held becomes EXPORT and its record is queued (R355, R357). -/
def startExport (id k xchan : Nat) (s : State) : State :=
  match getStream s id with
  | none => s
  | some x =>
    match getImage s x.image with
    | none => s
    | some im =>
      let ps := heldPages s x
      let n := 64 + kvBytes im.kvd
      let bytes := exportHeader s x im ps ++ ps.flatMap (pageRecord s im.kvd)
      let recs := ps.mapIdx (fun i p => (⟨128 + (i + 1) * n, p.die, p.layer, p.head, p.page⟩ : ExpRec))
      let s1 := ps.foldl (fun t p => modEnt p.ent (fun e => { e with st := 3 }) t) s
      let s2 := setStreamSt id .exporting (modStream id (fun y => { y with xchan := xchan, xack := 0, expRecs := recs, causes := [] }) s1)
      queueBytes k 0 false bytes (modChan k (fun c => { c with bind := bindOf x }) s2)

/-- Bytes of an export that are not acknowledged yet. -/
def outstanding (s : State) (x : Stream) (lo hi : Nat) : Bool :=
  match (keyOfWire (x.xchan % 65536)).bind (getChan s) with
  | none => true
  | some c => (c.queue ++ c.unacked).any (fun b => decide (b.addr < hi) && decide (lo < b.addr + b.data.length))

/-- Pages whose every burst is acknowledged become ABSENT and their frames are free (R355). -/
def exportAcked (id : Nat) (s : State) : State :=
  match getStream s id with
  | none => s
  | some x =>
    let k := kvDims s x
    let n := 64 + kvBytes k.d
    let done := x.expRecs.filter (fun r => !outstanding s x (r.upto - n) r.upto)
    let s1 := done.foldl (fun t r =>
      let a := entryAddr (x.maps.getD r.die 0) k r.layer r.head r.page
      let f := frameAddr r.die k.d (rdEnt t a).frame
      chargeBytes id n (bumpF (kvcB r.die) F.kvcExportExport 1 (freeFrame f (wrEnt a ⟨0, 0, 0, 0, 0⟩ t)))) (settleNow id s)
    modStream id (fun y => { y with
      expRecs := y.expRecs.filter (fun r => !done.contains r), xack := y.xack + done.length }) s1

/-- The pages of an abandoned export return to their previous state (R355, R421). -/
def pagesBack (id : Nat) (s : State) : State :=
  match getStream s id with
  | none => s
  | some x =>
    let k := kvDims s x
    let s1 := x.expRecs.foldl (fun t r => modEnt (entryAddr (x.maps.getD r.die 0) k r.layer r.head r.page)
      (fun e => if e.st = 3 then { e with st := if e.ntok < 64 then 1 else 2 } else e) t) s
    let s2 := match keyOfWire (x.xchan % 65536) with
      | some c => modChan c (fun ch => { ch with bind := 0, queue := [], unacked := [] }) s1
      | none => s1
    modStream id (fun y => { y with expRecs := [] }) s2

end Sys2Proof.Machine
end

