-- ==== Sys2Proof/Machine/Lateral.lean ====
section
/-!
DEFINITION. The operations of VECTOR courses (R116, R124 to R130, R652 to R656): normalisation, quantisation, online
softmax, routing, sampling and ordered sums, as functions of their operands.
-/

namespace Sys2Proof.Machine

/-- exp2 of the Lateral engine; a masked score, −∞, counts nothing (R126, R350, log entry 28). -/
def lexp2 (w : Word) : Word := if w = f32NegInf then 0 else Config.exp2 w

/-- rsqrt of the Lateral engine; rsqrt(0) is +∞ (R124). -/
def lrsqrt (w : Word) : Word := if feq w 0 then f32Inf else Config.rsqrt w

/-- The sum of FP32 values one after another, each add rounded. -/
def seqSum (xs : List Word) : Word := xs.foldl fadd 0

/-! ### Normalisation (R124) -/

def rmsNorm (xs gamma : List Word) (eps : Word) : List Word :=
  let r := lrsqrt (fadd (fmul (latSumSq xs) (Config.rcp (fOfInt xs.length))) eps)
  xs.zipWith (fun x g => fmul (fmul x r) g) gamma

def layerNorm (xs gamma beta : List Word) (eps : Word) : List Word :=
  let rn := Config.rcp (fOfInt xs.length)
  let m := fmul (latSum xs) rn
  let ds := xs.map (fun x => fsub x m)
  let r := lrsqrt (fadd (fmul (latSumSq ds) rn) eps)
  ds.zipWith (fun d gb => ffma (fmul d r) gb.1 gb.2) (gamma.zip beta)

/-! ### Online softmax (R126) -/

/-- A NaN score counts as −∞ (R126, R129). -/
def scoreOf (w : Word) : Word := if isNaN w then f32NegInf else w

/-- The result of one softmax block of a row: m, l, alpha and the UINT8 weights. -/
structure SoftOut where
  m : Word
  l : Word
  alpha : Word
  pq : List Nat
  deriving DecidableEq, Repr

/-- One block of scores of a row with running maximum m and running sum l. -/
def softBlock (m l : Word) (zs : List Word) : SoftOut :=
  let zs := zs.map scoreOf
  let mn := fmax m (latMax zs)
  if mn = f32NegInf then ⟨mn, l, 0, zs.map (fun _ => 0)⟩
  else
    let alpha := if m = f32NegInf then 0 else lexp2 (fmul (fsub m mn) f32Log2e)
    let ps := zs.map (fun z => lexp2 (fmul (fsub z mn) f32Log2e))
    ⟨mn, fadd (fmul l alpha) (latSum ps), alpha, ps.map (fun p => toBits 8 (fToInt 0 255 (fmul p f32C255)))⟩

/-! ### Rank orders -/

/-- Does index i rank before index j: the larger value, a NaN below every number, the lower index among equals
(R127, R129)? -/
def ranksBefore (v : Nat → Word) (i j : Nat) : Bool :=
  if isNaN (v i) then isNaN (v j) && decide (i < j)
  else if isNaN (v j) then true
  else if flt (v j) (v i) then true
  else if flt (v i) (v j) then false
  else decide (i < j)

/-- Inserts an index into a rank order. -/
def rankInsert (v : Nat → Word) (i : Nat) : List Nat → List Nat
  | [] => [i]
  | j :: js => if ranksBefore v i j then i :: j :: js else j :: rankInsert v i js

/-- The indices of a list of values by rank. -/
def rankOrder (vs : List Word) : List Nat :=
  (List.range vs.length).foldl (fun acc i => rankInsert (fun k => vs.getD k 0) i acc) []

/-! ### Expert routing (R127, R128) -/

/-- The selected experts by rank. -/
def routeSel (logits : List Word) (k : Nat) : List Nat := (rankOrder logits).take k

/-- The gates of the selected experts, in rank order. -/
def routeGates (logits : List Word) (sel : List Nat) : List Word :=
  let lmax := logits.getD (sel.getD 0 0) 0
  let g (i : Nat) : Word :=
    let l := logits.getD i 0
    if isNaN l then 0 else if feq l lmax then f32One else lexp2 (fmul (fsub l lmax) f32Log2e)
  let sum := seqSum (((List.range logits.length).filter (fun i => sel.contains i)).map g)
  if sel.all (fun i => isNaN (logits.getD i 0)) then sel.map (fun _ => 0)
  else sel.map (fun i => fmul (g i) (Config.rcp sum))

/-- The 80-byte record of a token (R127). -/
def routeRecord (logits : List Word) (k : Nat) : List Byte :=
  let sel := routeSel logits k
  let pad := 16 - sel.length
  sel.map (BitVec.ofNat 8) ++ List.replicate pad 0xFF
    ++ (routeGates logits sel).flatMap (fun g => leBytes 4 g.toNat) ++ List.replicate (4 * pad) 0

/-- Counts the selections of one token; a count holds at 0xFFFF (R128). -/
def histAdd (sel : List Nat) (h : NatMap Nat) : NatMap Nat :=
  sel.foldl (fun m i => setK m i (min 65535 (getK m i 0 + 1)) 0) h

/-- The largest count and its expert, the lower index on a tie (R128). -/
def histMax (h : NatMap Nat) : Nat × Nat :=
  h.foldl (fun b e => if e.2 > b.2 then e else b) (0, 0)

/-! ### Sampling (R129, R130) -/

/-- One 64-bit mixing step of R130. -/
def mix64 (z : BitVec 64) (sh : Nat) (c : BitVec 64) : BitVec 64 := (z ^^^ (z >>> sh)) * c

/-- The 64-bit value of a draw (R130). -/
def drawBits (seed new : BitVec 64) : BitVec 64 :=
  let z0 := seed ^^^ (new * 0x9E3779B97F4A7C15)
  let z1 := mix64 z0 30 0xBF58476D1CE4E5B9
  let z2 := mix64 z1 27 0x94D049BB133111EB
  z2 ^^^ (z2 >>> 31)

/-- The draw u of a row (R130): the upper 40-bit-shifted value times 2^−24, exact. -/
def draw (seed new : BitVec 64) : Word := fw (.fin false (drawBits seed new >>> 40).toNat (-24))

/-- The parameters of a SAMPLE row (R129). -/
structure RowRec where
  temp : Word
  topk : Nat
  topp : Word
  seed : BitVec 64
  new  : Nat
  deriving DecidableEq, Repr

/-- The row record at an address. -/
def rdRowRec (s : State) (a : Nat) : RowRec :=
  ⟨rdF32 s a, rdLE s (a + 4) 2, rdF32 s (a + 8), BitVec.ofNat 64 (rdLE s (a + 16) 8), rdLE s (a + 24) 4⟩

/-- The probabilities of step 3. -/
def sampleP (temp : Word) (zs : List Word) : List Word :=
  let r := Config.rcp temp
  let ys := zs.map (fun z => fmul z r)
  let m := latMax ys
  ys.map (fun y => if feq y m ∨ m = f32NegInf then f32One else lexp2 (fmul (fsub y m) f32Log2e))

/-- The shortest prefix whose running sum reaches a threshold; the whole list where none does. -/
def cutPrefix (p : Nat → Word) (thr : Word) (run : Word) : List Nat → List Nat
  | [] => []
  | i :: is =>
    let run' := fadd run (p i)
    if fle thr run' then [i] else i :: cutPrefix p thr run' is

/-- The first index after whose addition the running sum exceeds the target, else the last. -/
def walkTo (p : Nat → Word) (t : Word) (run : Word) (last : Nat) : List Nat → Nat
  | [] => last
  | i :: is =>
    let run' := fadd run (p i)
    if flt t run' then i else walkTo p t run' i is

/-- The token of a row of logits (R129). -/
def sampleRow (r : RowRec) (logits : List Word) : Nat :=
  let zs := logits.map scoreOf
  if zs.all (fun z => decide (z = f32NegInf)) then 0
  else if fle r.temp 0 ∨ isNaN r.temp ∨ r.topk = 1 then (rankOrder zs).getD 0 0
  else
    let ps := sampleP r.temp zs
    let p (i : Nat) : Word := ps.getD i 0
    let order := rankOrder ps
    let c0 := if r.topk = 0 ∨ r.topk ≥ zs.length then order else order.take r.topk
    let c1 :=
      if flt r.topp f32One then cutPrefix p (fmul r.topp (seqSum (c0.map p))) 0 c0 else c0
    walkTo p (fmul (draw r.seed (BitVec.ofNat 64 r.new)) (seqSum (c1.map p))) 0 0 c1

/-- Members of the candidate set whose p is not zero (R653). -/
def sampleNz (r : RowRec) (logits : List Word) : Nat :=
  let ps := sampleP r.temp (logits.map scoreOf)
  let order := rankOrder ps
  let c0 := if r.topk = 0 ∨ r.topk ≥ ps.length then order else order.take r.topk
  (c0.filter (fun i => !feq (ps.getD i 0) 0)).length

/-! ### Cycles (R652, R653) -/

def lanePasses (n : Nat) : Nat := (n + 63) / 64

/-- The Lateral cycles of one row. -/
def vecCycles (op n k : Nat) (quant : Bool) : Nat :=
  let p := lanePasses n
  let q := if quant then p + 50 else 0
  match op with
  | 0x10 => 2 * p + 42 + q
  | 0x11 => 3 * p + 68 + q
  | 0x12 => 2 * p + 50
  | 0x13 => 2 * p + 76
  | 0x14 => k * p + 11 * k + 46
  | _ => p + 4 + q

def sampleCycles (r : RowRec) (logits : List Word) : Nat :=
  let p := lanePasses logits.length
  let zs := logits.map scoreOf
  if zs.all (fun z => decide (z = f32NegInf)) ∨ fle r.temp 0 ∨ isNaN r.temp ∨ r.topk = 1 then p + 14
  else
    3 * p + 60 + (if 2 ≤ r.topk ∧ r.topk < logits.length then 4 * p + 56 else 0) + 4 * sampleNz r logits + 30

/-! ### Ordered sums (R116) -/

/-- The saturated sum of INT32 partials aligned to exponent e. -/
def orderedInt (e : Nat) (parts : List (Int × Nat)) : Int :=
  satS 32 ((parts.map (fun t => rshiftRne t.1 (e - t.2))).foldl (· + ·) 0)

/-- The FP32 sum of partials in ascending contributor index. -/
def orderedF32 : List Word → Word
  | [] => 0
  | x :: xs => xs.foldl fadd x

end Sys2Proof.Machine
end

