-- ==== Sys2Proof/Machine/Runs.lean ====
section
/-!
DEFINITION. Courses that an acre walks tile by tile on its Lateral engine (VECTOR, MOVE, ATTEND): issue into the
pending slot, start, the tiles that the gates allow, and completion (R252, R261, R277, R281, R319).
A command of such a course issues it, or takes a course that it issued before on from the tile where it waits
(log entry 29).
-/

namespace Sys2Proof.Machine

/-- What a tile answers: it waits on a gate, it faults after what it wrote, or it is done. -/
inductive TileRes
  | wait
  | fault (code cls ix : Nat) (s : State)
  | done (s : State)

/-- How a kind of course runs: its tiles, one tile, and what follows the last tile. -/
structure Walk where
  total : CourseRun → Nat
  tile  : CourseRun → Nat → State → TileRes
  last  : CourseRun → State → TileRes

/-- Runs the tiles that the gates allow; after the last one the course completes. -/
def runTiles (g : Nat) (w : Walk) : Nat → State → State
  | 0, s => s
  | fuel + 1, s =>
    match (getAcre s g).run with
    | none => s
    | some c =>
      if c.tile < w.total c then
        match w.tile c c.tile s with
        | .wait => s
        | .fault code cls ix t => faultRun g code cls ix t
        | .done t => runTiles g w fuel (modRun g (fun r => { r with tile := c.tile + 1 }) t)
      else
        match w.last c s with
        | .wait => s
        | .fault code cls ix t => faultRun g code cls ix t
        | .done t => completeRun g t

/-- Takes the running course of an acre on. -/
def runOn (g : Nat) (w : Walk) (s : State) : State :=
  match (getAcre s g).run with
  | none => s
  | some c => if acreLive s g then runTiles g w (w.total c + 1) s else s

/-- Puts an accepted course into the pending slot of its acre with its task pairs (R94, R252, R307). -/
def enterPending (g : Nat) (iss : Issue) (im : Image) (d : List Byte) (bs : List Nat) (s : State) : State :=
  bumpSerial (writePairs g iss.image d
    { modAcre g (fun a => { a with pend := some (newRun s iss im d bs) }) s with
      issued := setK s.issued g (getK s.issued g 0 + 1) 0 })

/-- A pending course starts where the running slot is empty, with no softmax rows yet. -/
def startHere (g : Nat) (s : State) : State :=
  if acreLive s g && (getAcre s g).run.isNone then courseStart g (modAcre g (fun a => { a with soft := [] }) s) else s

/-- Is the running course of an acre the issue? -/
def runsIssue (s : State) (g : Nat) (iss : Issue) : Bool :=
  match (getAcre s g).run with
  | some c => decide (c.issue = iss)
  | none => false

/-- Is the pending course of an acre the issue? -/
def pendsIssue (s : State) (g : Nat) (iss : Issue) : Bool :=
  match (getAcre s g).pend with
  | some c => decide (c.issue = iss)
  | none => false

/-- The command of a course that an acre walks: issue it, or take it on. -/
def laneCourse (iss : Issue) (is : List Byte → Bool) (w : Walk) (s : State) : State :=
  match courseDesc s iss with
  | none => refuseUnknown iss s
  | some (_, d) =>
    let g := execAcre s d
    if !is d then s
    else if runsIssue s g iss then runOn g w s
    else if pendsIssue s g iss then
      (let s1 := startHere g s
       if runsIssue s1 g iss then runOn g w s1 else s1)
    else
      issueCourse iss (fun _ e => slotFree s e) (fun im e bs t =>
        let t1 := startHere g (enterPending g iss im e bs t)
        if runsIssue t1 g iss then runOn g w t1 else t1) s

/-! ### Gates of a tile -/

/-- The input address of tile n: its CIN slot when full, else none; without CIN the walked address. -/
def tileIn (s : State) (c : CourseRun) (n walked : Nat) : Option Nat :=
  if dCin c.desc then
    match getChain s c.issue.image (dCinIx c.desc) with
    | none => none
    | some ch =>
      let slot := if ch.slots = 0 then 0 else n % ch.slots
      if (getGate s c.issue.image (dCinIx c.desc) slot).full then some (slotAddr ch slot) else none
  else some walked

/-- The output address of tile n: its COUT slot when empty, else none; without COUT the walked address. -/
def tileOut (s : State) (c : CourseRun) (n walked : Nat) : Option Nat :=
  if dCout c.desc then
    match getChain s c.issue.image (dCoutIx c.desc) with
    | none => none
    | some ch =>
      let slot := if ch.gather then dContrib c.desc else if ch.slots = 0 then 0 else n % ch.slots
      if (getGate s c.issue.image (dCoutIx c.desc) slot).full then none else some (slotAddr ch slot)
  else some walked

/-- The consumer has read its slot of tile n (R318). -/
def tileDrained (c : CourseRun) (n : Nat) (s : State) : State :=
  if dCin c.desc then
    withSome (getChain s c.issue.image (dCinIx c.desc)) (fun ch =>
      gateDrain c.issue.image (dCinIx c.desc) (if ch.slots = 0 then 0 else n % ch.slots)) s
  else s

/-- The producer has written its slot of tile n (R317). -/
def tileFilled (c : CourseRun) (n : Nat) (s : State) : State :=
  if dCout c.desc then
    withSome (getChain s c.issue.image (dCoutIx c.desc)) (fun ch =>
      gateFill c.issue.image (dCoutIx c.desc)
        (if ch.gather then dContrib c.desc else if ch.slots = 0 then 0 else n % ch.slots)) s
  else s

/-- Adds Lateral cycles and the traffic of a read and a write to the running course of an acre. -/
def chargeTile (g cycles : Nat) (rd wr : Nat × Nat) (s : State) : State :=
  match (getAcre s g).run with
  | none => s
  | some c =>
    let (a1, s1) := traffic (acreDie g) rd.1 rd.2 false (actAdd (acreDie g) actLat cycles c.act) s
    let (a2, s2) := traffic (acreDie g) wr.1 wr.2 true a1 s1
    modRun g (fun r => { r with act := a2 }) s2

/-- Bytes of n elements of a format. -/
def elemBytes (f : LFmt) (n : Nat) : Nat := (n * fmtBits f + 7) / 8

end Sys2Proof.Machine
end

