-- ==== Sys2Proof/Machine/Vector.lean ====
section
/-!
DEFINITION. VECTOR courses (R116, R123 to R130, R652 to R656).
-/

namespace Sys2Proof.Machine

/-- The strided offset of the PADDR operand of a row (R656, log entry 30): PADDR moves by the W strides. -/
def paramAddr (d : List Byte) (idx : List Nat) : Nat :=
  addStride (physAddr (dP d)) ((dLevels d).map (·.ws)) idx

/-- The second row of OP 0x15 and 0x16, walked as X is (log entry 30). -/
def secondAddr (d : List Byte) (idx : List Nat) : Nat :=
  addStride (physAddr (dP d)) ((dLevels d).map (·.xs)) idx

/-- Does the course write INT8 rows with their scales (R125, R654)? -/
def vecQuant (d : List Byte) : Bool := dOp d = 0x12 || (dScales d).testBit 2

/-- Writes a row: INT8 elements and the scale 64 × ceil(n / 64) further on (R654), or elements of YFMT. -/
def writeRow (d : List Byte) (y : Nat) (vs : List Word) (s : State) : State :=
  if vecQuant d then
    let q := quantise vs
    wrLE (y + roundUp 64 vs.length) 4 q.2.toNat (wrMem y (q.1.map (BitVec.ofNat 8)) s)
  else
    let f := latFmtY (dYfmt d)
    clearPoison y (elemBytes f vs.length) (wrVec f y vs s)

/-- Bytes of a written row. -/
def rowBytes (d : List Byte) (n : Nat) : Nat :=
  if vecQuant d then roundUp 64 n + 4 else elemBytes (latFmtY (dYfmt d)) n

/-- One row or block whose elements come from X and go to Y by a function of the elements and the position. -/
def mapTile (g : Nat) (f : State → List Byte → TilePos → List Word → List Word) (par : List Byte → TilePos → Nat → Nat × Nat)
    (c : CourseRun) (n : Nat) (s : State) : TileRes :=
  let d := c.desc
  let p := tilePos d c.bounds n
  let k := p.ext.getD 0 0
  let xf := latFmtX (dXfmt d)
  match tileIn s c n p.x, tileOut s c n p.y with
  | some x, some y =>
    match readFault s x (elemBytes xf k), readFault s (par d p k).1 (par d p k).2 with
    | some (cls, ix), _ => .fault 0x43 cls ix s
    | none, some (cls, ix) => .fault 0x43 cls ix s
    | none, none =>
      let ys := f s d p (rdVec s xf x k)
      let s1 := writeRow d y ys s
      .done (chargeTile g (vecCycles (dOp d) k 1 ((dScales d).testBit 2)) (x, elemBytes xf k) (y, rowBytes d k)
        (tileFilled c n (tileDrained c n s1)))
  | _, _ => .wait

/-- Nothing follows the last tile. -/
def noLast (_ : CourseRun) (s : State) : TileRes := .done s

def walkOf (tile : CourseRun → Nat → State → TileRes) : Walk :=
  { total := fun c => walkTiles c.desc c.bounds, tile := tile, last := noLast }

/-- Is the descriptor a VECTOR course of an operation with an input that is no gather chain? -/
def isVec (op : Nat) (d : List Byte) : Bool := dKind d = 4 && dOp d = op

/-- Does the course of an issue sum a gather chain (R116, R268)? -/
def isGatherIn (s : State) (iss : Issue) (d : List Byte) : Bool :=
  dCin d && (match getChain s iss.image (dCinIx d) with
    | some ch => ch.gather
    | none => false)

/-- RMS normalisation (R124): gamma at PADDR. -/
def rmsTile (g : Nat) : CourseRun → Nat → State → TileRes :=
  mapTile g (fun s d p xs => rmsNorm xs (rdVec s .fp32 (paramAddr d p.idx) xs.length) (dParam d))
    (fun d p k => (paramAddr d p.idx, 4 * k))

/-- Layer normalisation (R124): gamma, then beta, at PADDR. -/
def layerTile (g : Nat) : CourseRun → Nat → State → TileRes :=
  mapTile g (fun s d p xs =>
      let a := paramAddr d p.idx
      layerNorm xs (rdVec s .fp32 a xs.length) (rdVec s .fp32 (a + 4 * xs.length) xs.length) (dParam d))
    (fun d p k => (paramAddr d p.idx, 8 * k))

/-- Quantisation (R125); `writeRow` quantises. -/
def quantTile (g : Nat) : CourseRun → Nat → State → TileRes :=
  mapTile g (fun _ _ _ xs => xs) (fun _ _ _ => (0, 0))

/-- Adding or multiplying two rows: the second at PADDR, in the format of X (R652). -/
def zipTile (f : Word → Word → Word) (g : Nat) : CourseRun → Nat → State → TileRes :=
  mapTile g (fun s d p xs =>
      xs.zipWith f (rdVec s (latFmtX (dXfmt d)) (secondAddr d p.idx) xs.length))
    (fun d p k => (secondAddr d p.idx, elemBytes (latFmtX (dXfmt d)) k))

/-- One softmax block of a row (R126): its UINT8 weights go to Y; m, l and alpha stay in the Lateral engine. -/
def softTile (g : Nat) (c : CourseRun) (n : Nat) (s : State) : TileRes :=
  let d := c.desc
  let p := tilePos d c.bounds n
  let k := p.ext.getD 0 0
  let xf := latFmtX (dXfmt d)
  match tileIn s c n p.x, tileOut s c n p.y with
  | some x, some y =>
    match readFault s x (elemBytes xf k) with
    | some (cls, ix) => .fault 0x43 cls ix s
    | none =>
      let (m, l, _) := getK (getAcre s g).soft n (f32NegInf, 0, 0)
      let o := softBlock m l (rdVec s xf x k)
      let s1 := modAcre g (fun a => { a with soft := setK a.soft n (o.m, o.l, o.alpha) (f32NegInf, 0, 0) })
        (wrMem y (o.pq.map (BitVec.ofNat 8)) s)
      .done (chargeTile g (vecCycles 0x13 k 1 false) (x, elemBytes xf k) (y, k)
        (tileFilled c n (tileDrained c n s1)))
  | _, _ => .wait

/-- k of a routing course: PARAM, a whole number from 1 to 16 (R127). -/
def routeK (d : List Byte) : Nat := (fToInt 1 16 (dParam d)).toNat

/-- One token of a routing course (R127): its record at Y. -/
def routeTile (g : Nat) (c : CourseRun) (n : Nat) (s : State) : TileRes :=
  let d := c.desc
  let p := tilePos d c.bounds n
  let k := p.ext.getD 0 0
  let xf := latFmtX (dXfmt d)
  match tileIn s c n p.x with
  | some x =>
    match readFault s x (elemBytes xf k) with
    | some (cls, ix) => .fault 0x43 cls ix s
    | none =>
      let zs := rdVec s xf x k
      let y := physAddr (dY d) + 80 * n
      let s1 := modRun g (fun r => { r with hist := histAdd (routeSel zs (routeK d)) r.hist })
        (wrMem y (routeRecord zs (routeK d)) s)
      .done (chargeTile g (vecCycles 0x14 k (routeK d) false) (x, elemBytes xf k) (y, 80) (tileDrained c n s1))
  | none => .wait

/-- The histogram of a routing course (R128): slot 0 of COUT, or PADDR, and ACR_ROUTE. -/
def routeLast (g : Nat) (c : CourseRun) (s : State) : TileRes :=
  let d := c.desc
  let n := c.bounds.getD 0 0
  let bytes := (List.range n).flatMap (fun i => leBytes 4 (getK c.hist i 0))
  let (e, top) := histMax c.hist
  let latch (t : State) : State :=
    setF (acrB g) F.acrRouteMaxLoad (min top 511) (setF (acrB g) F.acrRouteMaxExpert e
      (setF (acrB g) F.acrRouteK (routeK d - 1) t))
  if dCout d then
    match tileOut s c 0 0 with
    | some y => .done (tileFilled c 0 (latch (chargeTile g (lanePasses n) (0, 0) (y, 4 * n) (wrMem y bytes s))))
    | none => .wait
  else if dP d ≠ 0 then
    .done (latch (chargeTile g (lanePasses n) (0, 0) (physAddr (dP d), 4 * n) (wrMem (physAddr (dP d)) bytes s)))
  else .done (latch s)

/-- One row of a SAMPLE course (R129): logits row after row at X, row records at PADDR, tokens to Y. -/
def sampleTile (g : Nat) (c : CourseRun) (n : Nat) (s : State) : TileRes :=
  let d := c.desc
  let v := c.bounds.getD 0 0
  match tileIn s c n (physAddr (dX d) + 4 * v * n), tileOut s c n (physAddr (dY d) + 4 * n) with
  | some x, some y =>
    match readFault s x (4 * v), readFault s (physAddr (dP d) + 32 * n) 32 with
    | some (cls, ix), _ => .fault 0x43 cls ix s
    | none, some (cls, ix) => .fault 0x43 cls ix s
    | none, none =>
      let zs := rdVec s .fp32 x v
      let r := rdRowRec s (physAddr (dP d) + 32 * n)
      .done (chargeTile g (sampleCycles r zs) (x, 4 * v) (y, 4)
        (tileFilled c n (tileDrained c n (wrLE y 4 (sampleRow r zs) s))))
  | _, _ => .wait

/-- The ordered sum of a gather chain (R116): every slot full, partials added in ascending contributor index. -/
def orderedTile (g : Nat) (c : CourseRun) (_ : Nat) (s : State) : TileRes :=
  let d := c.desc
  let h := c.issue.image
  match getChain s h (dCinIx d), tileOut s c 0 (physAddr (dY d)) with
  | some ch, some y =>
    if (List.range ch.slots).all (fun k => (getGate s h (dCinIx d) k).full) then
      let n := prodL c.bounds
      match (List.range ch.slots).findSome? (fun k => readFault s (slotAddr ch k) (4 * n + 1)) with
      | some (cls, ix) => .fault 0x43 cls ix s
      | none =>
        let slots := (List.range ch.slots).map (slotAddr ch)
        let f := latFmtY (dYfmt d)
        let s1 :=
          if ch.fmt = 0 then
            let exps := slots.map (fun a => (rdByte s (a + 4 * n)).toNat)
            let e := exps.foldl max 0
            let sums := (List.range n).map (fun i =>
              orderedInt e ((slots.zip exps).map (fun t => (sext 32 (rdLE s (t.1 + 4 * i) 4), t.2))))
            wrByte (y + elemBytes f n) (BitVec.ofNat 8 e)
              (clearPoison y (elemBytes f n)
                (((List.range n).zip sums).foldl (fun u t => wrElem f y t.1 (convFmt .int32 f (toBits 32 t.2)) u) s))
          else
            writeRow d y ((List.range n).map (fun i => orderedF32 (slots.map (fun a => rdF32 s (a + 4 * i))))) s
        let s2 := (List.range ch.slots).foldl (fun u k => gateDrain h (dCinIx d) k u) s1
        .done (chargeTile g (lanePasses n * ch.slots) (slots.getD 0 0, 4 * n * ch.slots) (y, elemBytes f n)
          (tileFilled c 0 s2))
    else .wait
  | _, _ => .wait

/-! ### The commands -/

/-- A VECTOR course of an operation whose input is no gather chain. -/
def vecCourse (op : Nat) (w : Nat → Walk) (iss : Issue) (s : State) : State :=
  match courseDesc s iss with
  | none => refuseUnknown iss s
  | some (_, d) => laneCourse iss (fun e => isVec op e && !isGatherIn s iss e) (w (execAcre s d)) s

def execRmsNormalisation (iss : Issue) (s : State) : Out := .next (vecCourse 0x10 (fun g => walkOf (rmsTile g)) iss s)
def execLayerNormalisation (iss : Issue) (s : State) : Out := .next (vecCourse 0x11 (fun g => walkOf (layerTile g)) iss s)
def execInt8Quantisation (iss : Issue) (s : State) : Out := .next (vecCourse 0x12 (fun g => walkOf (quantTile g)) iss s)
def execSoftmaxBlock (iss : Issue) (s : State) : Out := .next (vecCourse 0x13 (fun g => walkOf (softTile g)) iss s)
def execRouting (iss : Issue) (s : State) : Out :=
  .next (vecCourse 0x14 (fun g => { walkOf (routeTile g) with last := routeLast g }) iss s)
def execVectorAdd (iss : Issue) (s : State) : Out := .next (vecCourse 0x15 (fun g => walkOf (zipTile fadd g)) iss s)
def execVectorMultiply (iss : Issue) (s : State) : Out := .next (vecCourse 0x16 (fun g => walkOf (zipTile fmul g)) iss s)

/-- The summing VECTOR course of a gather chain (R116, R268). -/
def orderedSum (iss : Issue) (s : State) : State :=
  match courseDesc s iss with
  | none => refuseUnknown iss s
  | some (_, d) =>
    laneCourse iss (fun e => dKind e = 4 && isGatherIn s iss e)
      { total := fun _ => 1, tile := orderedTile (execAcre s d), last := noLast } s

def execOrderedSum (iss : Issue) (s : State) : Out := .next (orderedSum iss s)

end Sys2Proof.Machine
end

