-- ==== Sys2Proof/Machine/Attend.lean ====
section
/-!
DEFINITION. ATTEND courses: the query table, appends, the walk of key/value pages with online softmax, and merges of partial
states (R342 to R354, R361). The row states lie in no place that a descriptor names; they are computed within the course.
Log entry 56 names what these rules leave open.
-/

namespace Sys2Proof.Machine

/-! ### The query table (R349) -/

/-- One segment record. -/
structure Seg where
  map    : Nat
  row0   : Nat
  nrows  : Nat
  nctx   : Nat
  page0  : Nat
  npages : Nat
  append : Nat
  stream : Nat
  deriving DecidableEq, Repr

/-- The query table of a course: flags, H, segments, positions of the rows. -/
structure QTable where
  nseg  : Nat
  causal : Bool
  partial_ : Bool
  h     : Word
  segs  : List Seg
  pos   : List Nat
  deriving DecidableEq, Repr

def rdSeg (s : State) (a : Nat) : Seg :=
  ⟨rdLE s a 8, rdLE s (a + 8) 2, rdLE s (a + 0x0A) 2, rdLE s (a + 0x0C) 4, rdLE s (a + 0x10) 2, rdLE s (a + 0x12) 2,
   rdLE s (a + 0x14) 4, rdLE s (a + 0x18) 4 % 2 ^ 20⟩

/-- Units of an acre: 2,048 / d (R346). -/
def unitsOf (d : Nat) : Nat := 2048 / d

/-- The query table at an address, for n rows; at most U segments are read. -/
def rdQTable (s : State) (a u n : Nat) : QTable :=
  let k := min u (rdLE s a 2)
  let f := rdLE s (a + 2) 1
  { nseg := rdLE s a 2, causal := f.testBit 0, partial_ := f.testBit 1, h := rdF32 s (a + 4)
    segs := (List.range k).map (fun i => rdSeg s (a + 0x40 + 32 * i))
    pos := (List.range n).map (fun r => rdLE s (a + 0x40 + 32 * k + 4 * r) 4) }

/-- Do the segments have rows of their own, within the bounds (R354)? -/
def segsOk (q : QTable) (u rows pages : Nat) : Bool :=
  decide (q.nseg ≤ u) && q.segs.all (fun g => decide (g.row0 + g.nrows ≤ rows) && decide (g.npages ≤ pages)) &&
    (q.segs.mapIdx (fun i g => (i, g))).all (fun e => (q.segs.mapIdx (fun j g => (j, g))).all (fun f =>
      decide (e.1 ≥ f.1) || decide (e.2.row0 + e.2.nrows ≤ f.2.row0) || decide (f.2.row0 + f.2.nrows ≤ e.2.row0)))

/-! ### Appends (R342 to R345) -/

def f127 : Word := 0x42FE0000
/-- C255 of R350. -/
def c255 : Word := 0x3B808081

/-- One element quantised with a scale (R125 step 4); a scale of 0 gives 0 (R345). -/
def quantBy (sc x : Word) : Nat :=
  if feq sc 0 then 0
  else
    let r := if sc = f32Inf then 0 else Config.rcp sc
    toBits 8 (fToInt (-128) 127 (fmul x r))

/-- The scale of a largest magnitude a with headroom H; 0 where there is no magnitude. -/
def scaleOf (a h : Word) (whole : Bool) : Word :=
  if isNaN a || feq a 0 then 0
  else if whole then fmul a (Config.rcp f127) else fmul (fmul a (Config.rcp f127)) h

/-- The byte of dimension r of position t in a frame: K block, or V block (R339). -/
def kvOff (d : Nat) (v : Bool) (r t : Nat) : Nat := if v then 64 * d + d * t + r else 64 * r + t

/-- Rescales the first n positions of a block from scale s to s' (R344). -/
def rescale (frame d n : Nat) (v : Bool) (sc sc' : Word) (s : State) : State :=
  let r := fmul sc (Config.rcp sc')
  ((List.range n).flatMap (fun t => (List.range d).map (fun i => kvOff d v i t))).foldl (fun u o =>
    let q := sext 8 (rdByte u (frame + o)).toNat
    wrByte (frame + o) (BitVec.ofNat 8 (toBits 8 (fToInt (-128) 127 (fmul (fOfInt q) r)))) u) s

/-- Writes the vectors of positions t, t + 1, … of a block under a scale. -/
def putVecs (frame d t : Nat) (v : Bool) (sc : Word) (vs : List (List Word)) (s : State) : State :=
  (vs.mapIdx (fun k x => (k, x))).foldl (fun u e =>
    (e.2.mapIdx (fun i w => (i, w))).foldl (fun w f => wrByte (frame + kvOff d v f.1 (t + e.1)) (BitVec.ofNat 8 (quantBy sc f.2)) w) u) s

/-- Puts vectors into a block that holds t positions under a scale: the new scale, whether it was rescaled, the state. -/
def appendBlock (frame d t : Nat) (v : Bool) (sc h : Word) (vs : List (List Word)) (s : State) : Word × Bool × State :=
  let a := latMax ((vs.flatMap id).map fabs)
  if feq sc 0 || t = 0 then
    let sc' := scaleOf a h (t = 0 && vs.length = 64)
    (sc', false, putVecs frame d t v sc' vs s)
  else if flt (fmul f127 sc) a then
    let sc' := scaleOf a h false
    (sc', true, putVecs frame d t v sc' vs (rescale frame d t v sc sc' s))
  else (sc, false, putVecs frame d t v sc vs s)

/-- Appends keys and values to one page from position t on (R344): none where it has no frame. -/
def appendPage (die owner id d ent t : Nat) (h : Word) (ks vs : List (List Word)) (s : State) : Option State :=
  match reserveEntry die owner d id ent s with
  | none => none
  | some s0 =>
    let e := rdEnt s0 ent
    if e.st = 3 ∨ e.ntok > t then some s0
    else
      let f := frameAddr die d e.frame
      let (sk, rk, s1) := appendBlock f d t false e.sk h ks s0
      let (sv, rv, s2) := appendBlock f d t true e.sv h vs s1
      let n := t + ks.length
      let s3 := wrEnt ent { e with st := if n ≥ 64 then 2 else 1, ntok := n, sk := sk, sv := sv } s2
      some (bumpPair (kvcB die) 0x100 ks.length
        (bumpF (kvcB die) F.kvcRescaleRescale ((if rk then 1 else 0) + (if rv then 1 else 0)) s3))

/-- Splits positions lo to hi − 1 at pages and at whether a page is whole: first position and count. -/
def appendRuns : Nat → Nat → Nat → List (Nat × Nat)
  | 0, _, _ => []
  | f + 1, lo, hi =>
    if lo ≥ hi then []
    else
      let n := if lo % 64 = 0 then min 64 (hi - lo) else 1
      (lo, n) :: appendRuns f (lo + n) hi

/-- The position before the segment's append: the stream's positions held, at most NCTX − 1. -/
def appendFrom (s : State) (g : Seg) : Nat := (getStream s g.stream).elim (g.nctx - 1) (fun x => min x.nctx (g.nctx - 1))

/-- The appends of a segment at course start (R350). -/
def appendSeg (die owner d pmax src : Nat) (h : Word) (g : Seg) (s : State) : Option State :=
  if g.append = 0xFFFFFFFF || g.nctx = 0 then some s
  else
    let lo := appendFrom s g
    let n := g.nctx - lo
    let vec (i : Nat) : List Word := rdVec s .fp32 (src + 4 * d * i) d
    (appendRuns 65536 lo (min g.nctx (64 * pmax))).foldl (fun o r =>
      o.bind (appendPage die owner g.stream d (g.map + 16 * (r.1 / 64)) (r.1 % 64) h
        ((List.range r.2).map (fun i => vec (r.1 - lo + i))) ((List.range r.2).map (fun i => vec (n + (r.1 - lo) + i))))) (some s)

/-! ### The walk (R350, R354) -/

/-- The state of a row: m, l, o. -/
structure RowState where
  m : Word := 0xFF800000
  l : Word := 0
  o : List Word := []
  deriving DecidableEq, Repr

/-- Entries of the pages that a segment walks: page number and entry address. -/
def segPages (g : Seg) : List (Nat × Nat) := (List.range g.npages).map (fun i => (g.page0 + i, g.map + 16 * (g.page0 + i)))

/-- May the entry be walked: held, and its frame one of the holding's (R354)? -/
def entryOk (s : State) (die d holding a : Nat) : Bool :=
  let e := rdEnt s a
  e.st ≠ 0 && e.st ≠ 4 && (match lookupK s.eng.frames (frameAddr die d e.frame) with
    | some (id, _) => (getStream s id).any (fun x => x.holding = holding)
    | none => false)

/-- One row on one page. -/
def rowPage (s : State) (frame d p : Nat) (g : Seg) (causal : Bool) (pos : Nat) (q : List Int) (sq sw swv : Word) (r : RowState) : RowState :=
  let kv (v : Bool) (i t : Nat) : Int := sext 8 (rdByte s (frame + kvOff d v i t)).toNat
  let zs := (List.range 64).map (fun j =>
    let t := 64 * p + j
    if t ≥ g.nctx ∨ (causal ∧ t > pos) then f32NegInf
    else fmul (fmul (fOfInt ((q.mapIdx (fun i x => x * kv false i j)).foldl (· + ·) 0)) sq) sw)
  let b := softBlock r.m r.l zs
  let os := (List.range d).map (fun c =>
    let acc := (b.pq.mapIdx (fun j w => (w : Int) * kv true c j)).foldl (· + ·) 0
    ffma (r.o.getD c 0) b.alpha (fmul (fmul (fOfInt acc) f32One) swv))
  { m := b.m, l := b.l, o := os }

/-- One row of a segment over all its pages. -/
def walkRow (s : State) (die d : Nat) (desc : List Byte) (qt : QTable) (xq r : Nat) (g : Seg) : RowState :=
  let q := (List.range d).map (fun i => sext 8 (rdByte s (xq + r * d + i)).toNat)
  let sq := rdF32 s (winAddr desc (dSxoff desc + 4 * r))
  (segPages g).foldl (fun st e =>
    let en := rdEnt s e.2
    rowPage s (frameAddr die d en.frame) d e.1 g qt.causal (qt.pos.getD r 0) q sq (fmul en.sk (dParam desc)) (fmul en.sv c255) st)
    { o := List.replicate d 0 }

/-! ### Outputs (R351) -/

/-- Bytes of one row's partial state: m, l, o, padded to 64. -/
def partialBytes (d : Nat) : Nat := roundUp 64 (8 + 4 * d)

/-- The output of a row: o × rcp(l), zeros where l is 0. -/
def rowOut (r : RowState) : List Word :=
  if feq r.l 0 then r.o.map (fun _ => 0) else r.o.map (fun x => fmul x (Config.rcp r.l))

/-- Writes row r of n: elements of YFMT, or INT8 with its scale behind all rows (R654). -/
def writeOut (desc : List Byte) (d n y r : Nat) (vs : List Word) (s : State) : State :=
  if (dScales desc).testBit 2 then
    let q := quantise vs
    wrLE (y + roundUp 64 (n * d) + 4 * r) 4 q.2.toNat (wrMem (y + r * d) (q.1.map (BitVec.ofNat 8)) s)
  else
    let f := latFmtY (dYfmt desc)
    clearPoison (y + elemBytes f (r * d)) (elemBytes f d) (wrVec f (y + elemBytes f (r * d)) vs s)

/-- Writes the unnormalised state of a row. -/
def writePartial (d y r : Nat) (st : RowState) (s : State) : State :=
  wrMem (y + partialBytes d * r) (fixLen (partialBytes d) (leBytes 4 st.m.toNat ++ leBytes 4 st.l.toNat ++ st.o.flatMap (fun w => leBytes 4 w.toNat))) s

/-! ### The course -/

/-- Activity of the segments (R68, R353, R435): passes, row loads, drains, Lateral cycles. -/
def attendAct (die d : Nat) (segs : List Seg) (act : Activity) : Activity :=
  let pages := (segs.map (fun g => g.npages)).foldl (· + ·) 0
  let rp := (segs.map (fun g => g.npages * g.nrows)).foldl (· + ·) 0
  let rows := (segs.map (fun g => g.nrows)).foldl (· + ·) 0
  actAdd die actPass8 (rp * (2 * d / 64)) (actAdd die actRow (pages * 2 * d) (actAdd die actLineRd (pages * 2 * d)
    (actAdd die actAcc (rp * (1 + d / 64)) (actAdd die actLat (rp * (vecCycles 0x13 64 1 false + d / 64) + rows * lanePasses d) act))))

/-- The reads of the frames of a course, and its traffic. -/
def frameTraffic (die d g : Nat) (frames : List Nat) (s : State) : State :=
  frames.foldl (fun t f =>
    match (getAcre t g).run with
    | none => t
    | some c =>
      let (a, u) := traffic die f (kvBytes d) false c.act t
      modRun g (fun r => { r with act := a }) u) s

/-- Takes an ATTEND course: appends, walk, outputs. -/
def attendTile (g : Nat) (c : CourseRun) (_ : Nat) (s : State) : TileRes :=
  let desc := c.desc
  let die := dDie desc
  match getImage s c.issue.image with
  | none => .fault 0x4E 3 g s
  | some im =>
    let d := im.kvd
    let rows := c.bounds.getD 0 0
    let pages := if dNlev desc ≥ 2 then c.bounds.getD 1 0 else 1
    let qa := physAddr (dP desc)
    let u := unitsOf d
    let n := 0x40 + 32 * min u (rdLE s qa 2) + 4 * rows
    match tileIn s c 0 (physAddr (dX desc)), tileOut s c 0 (physAddr (dY desc)) with
    | some x, some y =>
      match readFault s qa n, readFault s x (rows * d) with
      | some (cls, ix), _ => .fault 0x43 cls ix s
      | none, some (cls, ix) => .fault 0x43 cls ix s
      | none, none =>
        let qt := rdQTable s qa u rows
        let bad (t : State) : TileRes := .fault 0x4E 3 g (kvcEvent die F.kvcFaultsMapInvalid (statusWord c.holding g 3 0x4E) t)
        let ownerOf (t : State) (sg : Seg) : Nat := (getStream t sg.stream).elim c.holding (fun z => z.holding)
        if !segsOk qt u rows pages then bad s
        else
          match qt.segs.foldl (fun o sg => o.bind (fun t =>
              appendSeg die (ownerOf t sg) d im.ctxP (winAddr desc sg.append) qt.h sg t)) (some s) with
          | none => bad s
          | some s1 =>
            if qt.segs.any (fun sg => (segPages sg).any (fun e => !entryOk s1 die d (ownerOf s1 sg) e.2)) then bad s1
            else
              let frames := qt.segs.flatMap (fun sg => (segPages sg).map (fun e => frameAddr die d (rdEnt s1 e.2).frame))
              match frames.findSome? (fun f => readFault s1 f (kvBytes d)) with
              | some (cls, ix) => .fault 0x43 cls ix s1
              | none =>
                let s2 := modRun g (fun r => { r with
                  act := attendAct die d qt.segs r.act, shares := qt.segs.map (fun sg => (sg.stream, sg.nrows * sg.npages)) }) s1
                let s3 := qt.segs.foldl (fun t sg => (List.range sg.nrows).foldl (fun w i =>
                  let r := sg.row0 + i
                  let st := walkRow s1 die d desc qt x r sg
                  if qt.partial_ then writePartial d y r st w else writeOut desc d rows y r (rowOut st) w) t) s2
                .done (chargeTile g 0 (x, rows * d) (y, rows * d) (tileFilled c 0 (tileDrained c 0 (frameTraffic die d g frames s3))))
    | _, _ => .wait

/-- Merges the partial states of a row from the slots of a gather chain, ascending (R352). -/
def mergeRow (s : State) (d : Nat) (slots : List Nat) (r : Nat) : RowState :=
  let at_ (a : Nat) : Nat := a + partialBytes d * r
  let ms := slots.map (fun a => rdF32 s (at_ a))
  let m := latMax ms
  slots.foldl (fun st a =>
    let lk := rdF32 s (at_ a + 4)
    if feq lk 0 then st
    else
      let w := lexp2 (fmul (fsub (rdF32 s (at_ a)) m) f32Log2e)
      { st with l := ffma lk w st.l, o := st.o.mapIdx (fun c x => ffma (rdF32 s (at_ a + 8 + 4 * c)) w x) })
    { m := m, l := 0, o := List.replicate d 0 }

/-- Takes a merge: once every contributor slot is full. -/
def mergeTile (g : Nat) (c : CourseRun) (_ : Nat) (s : State) : TileRes :=
  let desc := c.desc
  let h := c.issue.image
  match getImage s h, getChain s h (dCinIx desc), tileOut s c 0 (physAddr (dY desc)) with
  | some im, some ch, some y =>
    if (List.range ch.slots).all (fun k => (getGate s h (dCinIx desc) k).full) then
      let d := im.kvd
      let rows := c.bounds.getD 0 0
      let slots := (List.range ch.slots).map (slotAddr ch)
      match slots.findSome? (fun a => readFault s a (rows * partialBytes d)) with
      | some (cls, ix) => .fault 0x43 cls ix s
      | none =>
        let s1 := (List.range rows).foldl (fun t r => writeOut desc d rows y r (rowOut (mergeRow s d slots r)) t) s
        let s2 := (List.range ch.slots).foldl (fun t k => gateDrain h (dCinIx desc) k t) s1
        .done (chargeTile g (rows * ch.slots * lanePasses d) (slots.getD 0 0, ch.slots * rows * partialBytes d) (y, rows * d) (tileFilled c 0 s2))
    else .wait
  | _, _, _ => .wait

/-- One tile that is the whole course. -/
def oneTile (tile : CourseRun → Nat → State → TileRes) : Walk := { total := fun _ => 1, tile := tile, last := noLast }

/-- The stream engine's fill of a course's query table (R412, R414): the bytes go to PADDR at the issue. -/
def fillTable (iss : Issue) (table : List Byte) (s : State) : State :=
  match courseDesc s iss with
  | none => s
  | some (_, d) =>
    let g := execAcre s d
    if frozen s || table.isEmpty || runsIssue s g iss || pendsIssue s g iss then s else wrMem (physAddr (dP d)) table s

/-- ATTEND_COURSE: with the query table as the stream engine fills it (empty: as it stands). -/
def attendCourse (iss : Issue) (table : List Byte) (s : State) : State :=
  match courseDesc s iss with
  | none => refuseUnknown iss s
  | some (_, d) =>
    let merge := dNlev d = 1 && isGatherIn s iss d
    if dKind d ≠ 3 || merge then s
    else laneCourse iss (fun e => dKind e = 3) (oneTile (attendTile (execAcre s d))) (fillTable iss table s)

/-- ATTEND_MERGE. -/
def attendMerge (iss : Issue) (s : State) : State :=
  match courseDesc s iss with
  | none => refuseUnknown iss s
  | some (_, d) =>
    laneCourse iss (fun e => dKind e = 3 && dNlev e = 1 && isGatherIn s iss e) (oneTile (mergeTile (execAcre s d))) s

def execAttendCourse (iss : Issue) (table : List Byte) (s : State) : Out := .next (attendCourse iss table s)
def execAttendMerge (iss : Issue) (s : State) : Out := .next (attendMerge iss s)

end Sys2Proof.Machine
end

