-- ==== Sys2Proof/Machine/Basin.lean ====
section
/-!
DEFINITION. A basin pass: cells and levels (R137 to R139), weir groups (R142), converters, clips and the Spillway's
halves (R145 to R154), trims (R157), and the combine (R151). The code of every conversion is a free value
(log entry 11); everything computed from the codes is as the spec says.
-/

namespace Sys2Proof.Machine

/-! ### Cells -/

/-- The key of a cell: columns 0 to 511 weights, 512 REF_A, 513 REF_B, 514 to 517 the check word. -/
def cellKey (r c : Nat) : Nat := r * 518 + c

/-- The level of a cell: a pinned cell holds its pin (R186); an unused cell level 8 (R137). -/
def levelOf (b : Basin) (r c : Nat) : Nat := getK b.levels (cellKey r c) 8

/-- The physical basin that serves in the place of a basin (R192, R197): its stand-in, which may itself be mirrored. -/
def physBasin (s : State) (b : Nat) : Nat :=
  let p := (getBasin s b).standIn.getD b
  (getBasin s p).standIn.getD p

/-! ### Weir groups (R141 to R143) -/

/-- The scan of R142 over (row, element) pairs; `cur` holds the open group, latest row first. -/
def weirScan (lim : Nat) : List (Nat × Int) → List Nat → List (List Nat)
  | [], cur => if cur.isEmpty then [] else [cur.reverse]
  | (r, x) :: t, cur =>
    if x = 0 then weirScan lim t cur
    else if cur.length + 1 = lim then (r :: cur).reverse :: weirScan lim t []
    else weirScan lim t (r :: cur)

/-- The weir groups of an input vector under a limit. -/
def weirGroups (lim : Nat) (xs : List Int) : List (List Nat) := weirScan lim (xs.mapIdx (fun r x => (r, x))) []

/-- The basin's own limit: 64, or 32 once lowered (R155); the course's limit where smaller (R143). -/
def weirLimit (b : Basin) (course : Nat) : Nat := min course (if b.lowered then 32 else 64)

/-- The rows of a group that conduct in a plane (R141). -/
def conducting (bits : Nat) (xs : List Int) (p : Nat) (grp : List Nat) : List Nat :=
  grp.filter (fun r => xBit bits (xs.getD r 0) p = 1)

/-- The exact offset-decoded sum of a column over conducting rows. -/
def colLevels (b : Basin) (rows : List Nat) (c : Nat) : Int :=
  (rows.map (fun r => (levelOf b r c : Int) - 8)).foldl (· + ·) 0

/-! ### Conversion and trim -/

/-- The temperature of a plot reading (0.125 °C) as FP32. -/
def tempF32 (t : Nat) : Word := fmul (fOfInt t) (fPow2 (-3))

/-- S of R157 in 1/64 level units: FP32 in the order written, rounded to nearest with ties to even. -/
def trimSum (t : Trim) (s temp : Nat) (q : Int) : Int :=
  let gain := fmul (fPow2 s) t.g
  let drift := fadd f32One (fmul t.alpha (fsub (tempF32 temp) t.t))
  fToInt (-(2 ^ 39 : Nat)) ((2 ^ 39 : Nat) - 1) (fmul (fmul (fmul gain drift) (fsub (fOfInt q) t.o)) (fPow2 6))

/-- Converter Kk serves the columns c with c mod 16 = k (R145). -/
def trimOf (b : Basin) (c : Nat) : Trim := getK b.trims (c % 16) {}

/-- A conversion clips (R153). -/
def clips (q : Int) : Bool := q = -128 || q = 127

/-- What one column of a weir group yields in a plane: its trimmed sum, its codes, whether it clipped. -/
structure ColRes where
  sum   : Int
  codes : List Int
  clip  : Bool

/-- One half of a split (R153, R154): reconverted at s + 1 where it clips again. -/
def halfSum (b : Basin) (temp n : Nat) (sum : Int) (c : Nat) : Int × List Int :=
  let q := (Config.conversion n sum b.s).toInt
  if clips q then
    let q2 := (Config.conversion (n + 1) sum (b.s + 1)).toInt
    (trimSum (trimOf b c) (b.s + 1) temp q2, [q, q2])
  else (trimSum (trimOf b c) b.s temp q, [q])

/-- One column of a weir group in one plane; n numbers its conversions. -/
def colConv (b : Basin) (bits : Nat) (xs : List Int) (temp n p : Nat) (grp : List Nat) (c : Nat) : ColRes :=
  let sum := colLevels b (conducting bits xs p grp) c
  let q := (Config.conversion n sum b.s).toInt
  if clips q then
    let h1 := halfSum b temp (n + 1) (colLevels b (conducting bits xs p (grp.take 32)) c) c
    let h2 := halfSum b temp (n + 3) (colLevels b (conducting bits xs p (grp.drop 32)) c) c
    ⟨h1.1 + h2.1, q :: (h1.2 ++ h2.2), true⟩
  else ⟨trimSum (trimOf b c) b.s temp q, [q], false⟩

/-- One weir group in one plane. -/
structure GroupRes where
  plane : Nat
  rows  : Nat
  cols  : NatMap ColRes

/-- Channels of a basin: 512 in INT4 format, 256 in INT8 (R138, R139). -/
def basinCh (b : Basin) : Nat := if b.int8 then 256 else 512

/-- The channel that a column feeds. -/
def chanOf (b : Basin) (c : Nat) : Nat := if b.int8 then c / 2 else c

/-- Every plane and group of a pass, planes first (R146); `skip` are the channels not converted (R147). -/
def passGroups (b : Basin) (bits : Nat) (xs : List Int) (temp lim n : Nat) (skip : List Nat) : List GroupRes :=
  let gs := weirGroups lim xs
  (List.range bits).flatMap (fun p =>
    gs.mapIdx (fun g grp =>
      { plane := p
        rows := (conducting bits xs p grp).length
        cols := ((List.range 512).filter (fun c => !skip.contains (chanOf b c))).map (fun c =>
          (c, colConv b bits xs temp (n + ((p * 32 + g) * 512 + c) * 8) p grp c)) }))

/-- The weight of a plane (R56, R151). -/
def planeW (bits : Nat) (signed : Bool) (p : Nat) : Int :=
  if p + 1 = bits ∧ signed then -(2 ^ p : Nat) else (2 ^ p : Nat)

/-- acc[c] of R151: 40 bits, 6 fraction bits. -/
def accCol (bits : Nat) (signed : Bool) (gs : List GroupRes) (c : Nat) : Int :=
  let v := (gs.map (fun g =>
    match lookupK g.cols c with
    | some r => planeW bits signed g.plane * r.sum
    | none => 0)).foldl (· + ·) 0
  sext 40 (toBits 40 v)

/-- The outputs of a pass (R151): 0 for a channel that was not converted (R147) and for a vector of zeros (R144). -/
def combine (b : Basin) (bits : Nat) (signed : Bool) (xs : List Int) (gs : List GroupRes) (skip : List Nat) : List Int :=
  (List.range (basinCh b)).map (fun k =>
    if skip.contains k then 0
    else if b.int8 then
      satS 32 (rshiftRne (16 * accCol bits signed gs (2 * k) + accCol bits signed gs (2 * k + 1)) 6
        + 8 * xs.foldl (· + ·) 0)
    else satS 32 (rshiftRne (accCol bits signed gs k) 6))

/-- Converter slots of a group (R147, R153, R154): the longest converter, and of a split both halves and the
reconversions. -/
def groupSlots (g : GroupRes) : Nat :=
  let per (f : Nat × ColRes → Nat) : Nat :=
    ((List.range 16).map (fun k => ((g.cols.filter (fun e => e.1 % 16 = k)).map f).foldl (· + ·) 0)).foldl max 0
  per (fun _ => 1) + per (fun e => if e.2.clip then e.2.codes.length - 1 else 0)

/-- Did a group need a split? -/
def groupSplit (g : GroupRes) : Bool := g.cols.any (fun e => e.2.clip)

/-! ### What a pass counts in its basin -/

/-- Reference slots (R158): one every 2^k weir groups, and one per group of a burst. -/
def countRef (every rows : Nat) (b : Basin) : Basin :=
  if b.burst > 0 then { b with burst := b.burst - 1, refDue := b.refDue ++ [rows] }
  else if b.refCnt + 1 ≥ every then { b with refCnt := 0, refDue := b.refDue ++ [rows] }
  else { b with refCnt := b.refCnt + 1 }

/-- The clip window of R155: groups beyond the window's 2^20 count for the next one. -/
def countClip (split : Bool) (b : Basin) : Basin :=
  let b1 := { b with winGroups := b.winGroups + 1 }
  if !split then b1
  else if b.winGroups < 2 ^ 20 then { b1 with winSplits := b.winSplits + 1 }
  else { b1 with winCarry := b.winCarry + 1 }

/-- The window of monitor 3 (R200): 65,536 conversions; true when the window that closes trips. -/
def countNear (lim : Nat) : List Int → Basin × Bool → Basin × Bool
  | [], r => r
  | q :: qs, (b, t) =>
    let hits := b.nearHits + (if q ≥ 112 ∨ q ≤ -112 then 1 else 0)
    if b.nearConv + 1 = 65536 then
      countNear lim qs ({ b with nearConv := 0, nearHits := 0 }, t || decide (hits > lim))
    else countNear lim qs ({ b with nearConv := b.nearConv + 1, nearHits := hits }, t)

/-- 2^REF_EVERY_LOG2, the field clamped to 6 to 12. -/
def refEvery (s : State) (die : Nat) : Nat := 2 ^ (max 6 (min 12 (getF s (cstB die) F.cstCfgRefEveryLog2)))

/-- A status word of a basin: its owner, unit class 0x0A, bits [7:0] of the index (R135, R169). -/
def basinStatus (s : State) (b code : Nat) : Word := statusWord (getBasin s b).owner b 0x0A code

/-- Logs an event of a basin with the full index first; telemetry reports it (R169, R205). -/
def logBasin (b code : Nat) (detail : List Nat) (s : State) : State :=
  logStatus (basinStatus s b code) b (b :: detail) s

/-- MONITOR_TRIP with the monitor's number (R200). -/
def monitorTrip (b mon : Nat) (s : State) : State := logBasin b 0x57 [mon] s

end Sys2Proof.Machine
end

