-- ==== Sys2Proof/Machine/Cistern.lean ====
section
/-!
DEFINITION. The Cistern controllers: BASIN courses and their passes (R133 to R162, R232 to R237, R253, R258), clip
windows, reference slots and trims, and plot temperatures.
-/

namespace Sys2Proof.Machine

/-! ### Runs of a controller -/

def getRuns (s : State) (die : Nat) : List BasinRun := getK s.cist.runs die []
def setRuns (die : Nat) (rs : List BasinRun) (s : State) : State :=
  { s with cist := { s.cist with runs := setK s.cist.runs die rs [] } }
def getLSlot (s : State) (k : Nat) : LSlot := getK s.cist.lslots k {}
def setLSlot (k : Nat) (v : LSlot) (s : State) : State :=
  { s with cist := { s.cist with lslots := setK s.cist.lslots k v {} } }

/-- Changes the run of a serial. -/
def modRunB (die sn : Nat) (f : BasinRun → BasinRun) (s : State) : State :=
  setRuns die ((getRuns s die).map (fun r => if r.c.sn = sn then f r else r)) s

/-- Removes the run of a serial. -/
def dropRunB (die sn : Nat) (s : State) : State :=
  setRuns die ((getRuns s die).filter (fun r => r.c.sn ≠ sn)) s

/-- The layer slot of an image's layer on a die (R241). -/
def lslotOf (s : State) (die image layer : Nat) : Option Nat :=
  (s.cist.lslots.find? (fun e => decide (e.1 / 1024 = die) && e.2.used && decide (e.2.image = image) &&
    decide (e.2.layer = layer))).map (·.1)

/-! ### Tiles -/

/-- n_e of a BASIN course: channels of a group (R262). -/
def basinNe (d : List Byte) : Nat := if dWfmt d = 1 then 256 else 512

/-- The tile that a run is at. -/
def basinTile (c : CourseRun) : TilePos := tilePos c.desc c.bounds c.tile

/-- The first basin of the group of a tile. -/
def tileBasin (s : State) (c : CourseRun) (p : TilePos) : Nat :=
  match getImage s c.issue.image with
  | some im => bindBasin im (p.w % 2 ^ 21)
  | none => 2 ^ 21

/-- The groups that a run names: plot, image and group number of each. -/
def runGroups (s : State) (c : CourseRun) : List (Nat × Option Nat × Nat) :=
  ((List.range (walkTiles c.desc c.bounds)).map (fun n =>
    let b := tileBasin s c (tilePos c.desc c.bounds n)
    (plotOf b, (getBasin s b).image, (getBasin s b).group))).eraseDups

/-- Is a run first in issue order on each of its groups (R253)? -/
def groupFree (s : State) (die sn : Nat) (c : CourseRun) : Bool :=
  let mine := runGroups s c
  ((getRuns s die).takeWhile (fun r => r.c.sn ≠ sn)).all (fun r => (runGroups s r.c).all (fun g => !mine.contains g))

/-- The input codes of a token: 512 elements per basin of the group, token by token, or one Screen frame a token
(R140, R229, log entry 36); the elements of a frame that does not check are free values. -/
def basinRow (s : State) (d : List Byte) (nb x tok : Nat) : List Nat :=
  let n := 512 * nb
  let f := xfmtOf (dXfmt d)
  if (dScales d).testBit 4 then
    match readFrame s (x + tok * frameStride .int8 n) n with
    | some fr => fr.elems
    | none => (List.range n).map (fun i => (Config.freeWord (s.freeCtr + i)).toNat % 256)
  else (List.range n).map (fun r =>
    let i := tok * n + r
    if xBits f = 4 then ((rdByte s (x + i / 2)).toNat >>> (4 * (i % 2))) % 16 else (rdByte s (x + i)).toNat)

/-- Bytes of the input row of a token. -/
def basinRowBytes (d : List Byte) (nb : Nat) : Nat :=
  if (dScales d).testBit 4 then frameStride .int8 (512 * nb) else 512 * nb * xBits (xfmtOf (dXfmt d)) / 8

/-! ### Masks and audits (R234 to R236) -/

/-- Counter A over the skipped neurons of a pass in ascending order: the audited ones, and A afterwards. -/
def auditScan : Nat → List Neuron → List Neuron × Nat
  | a, [] => ([], a)
  | a, n :: t =>
    let a1 := (a + 1) % 64
    let r := auditScan a1 t
    (if a1 = 0 then n :: r.1 else r.1, r.2)

/-- Does the tensiometer act on a pass (R232, R237 to R239)? -/
def maskSlot (s : State) (die : Nat) (c : CourseRun) : Option Nat :=
  if dPred c.desc && moduleRole s ≠ 1 then
    (lslotOf s die c.issue.image (dLayer c.desc)).filter (fun k =>
      let x := getLSlot s k
      x.pred && !x.tripped && !x.off)
  else none

/-- Neurons in ascending index. -/
def sortNeurons (ns : List Neuron) : List Neuron := ns.mergeSort (fun a b => decide (a.gate ≤ b.gate))

/-! ### Pausing -/

/-- Is the module in Trickle (R473, R489)? -/
def inTrickle (s : State) : Bool := getF s drdB F.drdLevelLevel = 3

/-- Are weir groups held on a basin's plot (R161, R162): at 85.0 °C or more, or in Trickle? -/
def weirHeld (s : State) (b : Nat) : Bool := inTrickle s || decide ((getPlot s (plotOf b)).temp ≥ 680)

/-! ### The end of a course -/

/-- Reports the fault of a BASIN course (R286): its record, the log, the chains. -/
def faultBasin (die code cls ix : Nat) (r : BasinRun) (s : State) : State :=
  let st := statusWord r.c.holding ix cls code
  breakChains r.c.issue r.c.desc
    (whenB (cls = 2 ∧ code = 0x43) (lastEvt (rsvB (ix % 4)) F.rsvLastevtStatus st)
      (logStatus st ix [r.c.issue.id, r.c.issue.image]
        (sendRecord { runRecord s r.c st with pred := r.used } (dropRunB die r.c.sn s))))

/-- Completes a BASIN course (R521); 0x5B and 0x4D are carried. -/
def completeBasin (die : Nat) (r : BasinRun) (s : State) : State :=
  let st := if r.c.code = 0 then 0 else statusWord r.c.holding die (if r.c.code = 0x5B then 7 else 2) r.c.code
  sendRecord { runRecord s r.c st with pred := r.used } (dropRunB die r.c.sn s)

/-! ### Judging audits (R236, R237) -/

/-- A trip: logged on the die with the layer; off on every die from the next fence. -/
def tripLayer (die k : Nat) (s : State) : State :=
  let x := getLSlot s k
  let st := statusWord x.owner die 2 0x5C
  let s1 := irqRaise (tnsB die) 4 (lastEvt (tnsB die) F.tnsLastevtStatus st
    (logStatus st die [k % 1024, x.layer, x.image] (setLSlot k { x with fired := true, trips := min 255 (x.trips + 1) } s)))
  (List.range 4).foldl (fun t n => withSome (lslotOf t n x.image x.layer) (fun j u =>
    setLSlot j { getLSlot u j with tripDue := true } u) t) s1

/-- One audit with its result (log entry 37). -/
def judge (die k : Nat) (miss : Bool) (s : State) : State :=
  let x := getLSlot s k
  let m := x.misses + (if miss then 1 else 0)
  let s1 := setLSlot k { x with audits := x.audits + 1, misses := m } s
  let s2 := whenB (miss && decide (m * 2 ^ x.missLog > 2 ^ x.winLog) && !x.fired) (tripLayer die k) s1
  if x.audits + 1 = 2 ^ x.winLog then
    setLSlot k { getLSlot s2 k with
      audits := 0, misses := 0
      winLog := max 12 (min 20 (getF s2 (tnsB die) F.tnsCfgWinLog2))
      missLog := max 4 (min 12 (getF s2 (tnsB die) F.tnsCfgMissLog2)) } s2
  else s2

/-! ### Writing a tile (R258, R268, R269) -/

/-- The value of an output under the epilogue and format of the course: INT32 as it is, else the integer converted
and passed through the epilogue, with no scale (log entry 36). -/
def basinVal (d : List Byte) (v : Int) : Nat :=
  let f := yfmtOf (dYfmt d)
  if f = .int32 then toBits 32 v else ofF32 f (epilogue (dOp d) (fOfInt v) 0)

/-- Writes the in-bound elements of a tile; INT32 slots carry exponent byte 0 after their N elements. -/
def writeBasinTile (c : CourseRun) (p : TilePos) (y : Nat) (sums : NatMap Int) (s : State) : State :=
  let d := c.desc
  let ne := basinNe d
  let f := yfmtOf (dYfmt d)
  let es := fmtBits f / 8
  let outs := min ne (extOf d p 2 ne)
  let s1 := (List.range (inToks p)).foldl (fun t tok =>
    wrMem (y + es * (tok * ne)) ((List.range outs).flatMap (fun o => leBytes es (basinVal d (getK sums (tok * 512 + o) 0)))) t) s
  if f = .int32 && dCout d then wrByte (y + 4 * ((dLevel d 0).step * ne)) 0 s1 else s1

/-- Adds a tile to its target under ATOMIC (R113, R115): the number of saturated elements. -/
def atomicBasinTile (c : CourseRun) (p : TilePos) (sums : NatMap Int) (s : State) : State × Nat :=
  let d := c.desc
  let ne := basinNe d
  let outs := min ne (extOf d p 2 ne)
  ((List.range (inToks p)).flatMap (fun tok => (List.range outs).map (fun o => (tok, o)))).foldl (fun (r : State × Nat) e =>
    let a := p.y + 4 * (e.1 * ne + e.2)
    let v := getK sums (e.1 * 512 + e.2) 0
    let old := rdLE r.1 a 4
    if dYfmt d = 1 then (wrLE a 4 (fadd (BitVec.ofNat 32 old) (BitVec.ofNat 32 (basinVal d v))).toNat r.1, r.2)
    else
      let w := sext 32 old + v
      (wrLE a 4 (toBits 32 (satS 32 w)) r.1, if satS 32 w = w then r.2 else r.2 + 1)) (s, 0)

/-- After the last tile the course completes. -/
def basinNext (die sn : Nat) (s : State) : State :=
  match (getRuns s die).find? (fun r => r.c.sn = sn) with
  | none => s
  | some r => if r.c.tile < walkTiles r.c.desc r.c.bounds then s else completeBasin die r s

/-- A merged tile leaves for its destination where its slot is empty (R258, R319): its audits are judged, its slots
change, and the run goes to the next tile. -/
def basinTileOut (die : Nat) (r : BasinRun) (s : State) : State :=
  let c := r.c
  let p := basinTile c
  match tileOut s c c.tile p.y with
  | none => modRunB die c.sn (fun x => { x with corr := false }) s
  | some y =>
    let s0 := match lslotOf s die c.issue.image (dLayer c.desc) with
      | some k => r.audits.foldl (fun t a => judge die k (decide (getK r.sums (a.1 * 512 + a.2.1) 0 > a.2.2)) t) s
      | none => s
    let (s1, sat) :=
      if dRedmode c.desc = 1 then atomicBasinTile c p r.sums s0 else (writeBasinTile c p y r.sums s0, 0)
    let n := inToks p * basinNe c.desc * (fmtBits (yfmtOf (dYfmt c.desc)) / 8)
    let (act, s2) := traffic die y n true c.act s1
    let s3 := whenB (sat > 0) (fun t =>
      logStatus (statusWord c.holding die 2 0x4D) die [sat] t) s2
    basinNext die c.sn (tileFilled c c.tile (tileDrained c c.tile
      (modRunB die c.sn (fun x => { x with
        c := { x.c with tile := c.tile + 1, act := act, code := if sat > 0 then 0x4D else x.c.code }
        tok := 0, sums := [], audits := [], corr := false }) s3)))

/-- Does the tile of a run need a correction step (R207): an outlier list, or a repair entry in force of one of its
basins? -/
def needsCorr (s : State) (c : CourseRun) : Bool :=
  let bs := groupBasins s (tileBasin s c (basinTile c))
  dList c.desc || s.cist.repairs.any (fun e => e.live && bs.any (fun b => b = e.basin || physBasin s b = e.basin))

/-- The last pass of a tile is done: the tile waits for its correction or leaves. -/
def basinTileEnd (die sn : Nat) (s : State) : State :=
  match (getRuns s die).find? (fun r => r.c.sn = sn) with
  | none => s
  | some r =>
    if r.tok < inToks (basinTile r.c) || r.corr then s
    else if needsCorr s r.c then modRunB die sn (fun x => { x with corr := true }) s
    else basinTileOut die r s

/-! ### A pass -/

/-- The converters' work of one basin of a group: the outputs, the converter slots, and the state with what the
basin counts. -/
def passBasin (die : Nat) (d : List Byte) (b : Nat) (xs : List Int) (skip : List Nat) (s : State) : List Int × Nat × State :=
  let pb := physBasin s b
  let b0 := getBasin s pb
  let b1 := match b0.newTrims with
    | some t => { b0 with trims := t, newTrims := none }
    | none => b0
  let f := xfmtOf (dXfmt d)
  let temp := (getPlot s (plotOf pb)).temp
  let gs := passGroups b1 (xBits f) xs temp (weirLimit b1 (dWeir d)) s.freeCtr skip
  let outs := combine b1 (xBits f) (xSigned f) xs gs skip
  let b2 := gs.foldl (fun x g => countClip (groupSplit g) (countRef (refEvery s die) g.rows x)) b1
  let lim := 65536 / 2 ^ (getF s (cstB die) F.cstMoncfgNearLog2)
  let (b3, trip) := countNear lim (gs.flatMap (fun g => g.cols.flatMap (fun e => e.2.codes))) (b2, false)
  let splits := (gs.filter groupSplit).length
  let s1 := bumpPair (cstB die) 0x118 splits (setBasin pb b3 { s with freeCtr := s.freeCtr + 8 * 512 * 256 })
  let s2 := bumpPair (cstB die) 0x128 (if temp < 200 then 1 else 0) s1
  let n := (gs.map groupSlots).foldl (· + ·) 0
  let clk := getK s2.ditch.dies die {}
  let s3 := { s2 with ditch := { s2.ditch with dies := setK s2.ditch.dies die { clk with slots := clk.slots + n } {} } }
  (outs, n, whenB trip (monitorTrip pb 3) s3)

/-- The pass of a token of the run's tile (R148, R152): every basin of the group on its row block, the channels summed
by the plot router. -/
def runPass (die : Nat) (r : BasinRun) (x : Nat) (mask : Option (List Neuron)) (theta : Int) (s : State) : State :=
  let c := r.c
  let d := c.desc
  let bs := groupBasins s (tileBasin s c (basinTile c))
  let row := basinRow s d bs.length x r.tok
  let s0 := if (dScales d).testBit 4 then { s with freeCtr := s.freeCtr + 512 * bs.length } else s
  let slot := maskSlot s die c
  let ns := match slot, mask with
    | some _, some m => sortNeurons m
    | _, _ => []
  let (aud, actr) := match slot with
    | some k => auditScan (getLSlot s k).actr ns
    | none => ([], 0)
  let skip := (ns.filter (fun n => !aud.contains n)).flatMap (fun n => [n.gate, n.up])
  let s1 := match slot with
    | some k => if mask.isSome then
        setLSlot k { getLSlot s0 k with actr := actr, skips := (getLSlot s0 k).skips + ns.length } s0
      else bumpF (tnsB die) F.tnsLateLate 1 s0
    | none => s0
  let f := xfmtOf (dXfmt d)
  let (sums, slots, s2) := (bs.mapIdx (fun j b => (j, b))).foldl (fun (a : List Int × Nat × State) e =>
    let xs := ((row.drop (512 * e.1)).take 512).map (xVal f)
    let (o, k, t) := passBasin die d e.2 xs skip a.2.2
    ((List.range 512).map (fun i => satS 32 (a.1.getD i 0 + o.getD i 0)), a.2.1 + k, t)) ([], 0, s1)
  let act := actAdd die actIssue bs.length (actAdd die actSlot slots c.act)
  let (act2, s3) := traffic die (x + r.tok * basinRowBytes d bs.length) (basinRowBytes d bs.length) false act s2
  basinTileEnd die c.sn (modRunB die c.sn (fun y => { y with
    c := { y.c with act := act2 }
    tok := r.tok + 1, paused := false, mask := none, theta := 0
    used := y.used || !skip.isEmpty
    audits := y.audits ++ aud.map (fun n => (r.tok, n.gate, theta))
    sums := (List.range 512).foldl (fun m i => setK m (r.tok * 512 + i) (sums.getD i 0) 0) y.sums }) s3)

/-- The input of the run's next pass: its gate is full and it reads without poison. -/
def basinInput (s : State) (r : BasinRun) : Option Nat := tileIn s r.c r.c.tile (basinTile r.c).x

/-- Runs or pauses the next pass of a run (R161, R162). -/
def passOrPause (die : Nat) (r : BasinRun) (mask : Option (List Neuron)) (theta : Int) (hold : Bool) (s : State) : State :=
  match basinInput s r with
  | none => s
  | some x =>
    let bs := groupBasins s (tileBasin s r.c (basinTile r.c))
    let n := basinRowBytes r.c.desc bs.length
    match readFault s (x + r.tok * n) n with
    | some (cls, ix) => faultBasin die 0x43 cls ix r s
    | none =>
      if hold || bs.any (fun b => weirHeld s (physBasin s b)) then
        modRunB die r.c.sn (fun y => { y with paused := true, mask := mask, theta := theta }) s
      else runPass die r x mask theta s

/-- BASIN_PASS: the next pass of the k-th course of a controller. `mask` is what the tensiometer handed over before
the pass (R234), `theta` the layer's activity threshold (log entry 38), `hold` the power allotment's stop (R162). -/
def basinPass (die k : Nat) (mask : Option (List Neuron)) (theta : Int) (hold : Bool) (s : State) : State :=
  match (getRuns s die)[k]? with
  | none => s
  | some r =>
    if frozen s || r.paused || r.corr || !groupFree s die r.c.sn r.c then s
    else if r.tok < inToks (basinTile r.c) then passOrPause die r mask theta hold s
    else basinTileEnd die r.c.sn s

/-- WEIR_GROUP_RESUME (R162): a paused pass goes on, with its mask and trims. -/
def weirGroupResume (die k : Nat) (s : State) : State :=
  match (getRuns s die)[k]? with
  | none => s
  | some r => if frozen s || !r.paused then s else passOrPause die { r with paused := false } r.mask r.theta false s

/-- BASIN_COURSE: issued and checked (R254), it enters the controller's list (R253). -/
def basinCourse (iss : Issue) (s : State) : State :=
  issueCourse iss (fun _ d => dKind d = 2 && !frozen s && decide ((getRuns s (dDie d)).length < 1024))
    (fun im d bs t =>
      bumpSerial (setRuns (dDie d) (getRuns t (dDie d) ++ [{ c := newRun t iss im d bs }]) t)) s

/-! ### Clip windows (R155) -/

/-- A window of 2^20 weir groups closes. -/
def clipWindowClose (b : Nat) (s : State) : State :=
  let x := getBasin s b
  let die := basinDie b
  if frozen s || decide (x.winGroups < 2 ^ 20) then s
  else
    let n := x.winSplits
    let st (c : Nat) : Word := basinStatus s b c
    let ev (c : Nat) (t : State) : State := lastEvt (cstB die) F.cstLastevtStatus (st c) t
    let y := { x with winGroups := x.winGroups - 2 ^ 20, winSplits := x.winCarry, winCarry := 0, windows := min 65535 (x.windows + 1) }
    let s1 := whenB (n > 64) (monitorTrip b 4) (setBasin b y s)
    if n > 256 then
      (if x.lowered then s1
       else irqRaise (cstB die) 4 (bumpF (cstB die) F.cstLoweredCount 1
        (ev 0x51 (logBasin b 0x51 [n] (modBasin b (fun z => { z with lowered := true }) s1)))))
    else if n ≥ 1 then ev 0x50 (logBasin b 0x50 [n] s1)
    else s1

/-! ### Reference slots and trims (R158 to R160) -/

/-- A quotient of integers as FP32, rounded to nearest with ties to even (the sticky bit stands for the rest). -/
def fRatio (n : Int) (d : Nat) : Word :=
  if d = 0 then 0
  else
    let q := n.natAbs * 2 ^ 160 / d
    let st := if n.natAbs * 2 ^ 160 % d = 0 then 0 else 1
    fw (.fin (decide (n < 0)) (2 * q + st) (-161))

/-- The expected sum of a reference slot: −6n on REF_A, +5n on REF_B. -/
def refExpect (r : RefSlot) : Int := if r.refB then 5 * (r.n : Int) else -6 * (r.n : Int)

/-- Sum of integers. -/
def sumI (l : List Int) : Int := l.foldl (· + ·) 0

/-- Least squares of one converter over its slots: q = y / (2^s g) + o, so that y = 2^s g (q − o); none where the slots
do not fix it (log entry 39). -/
def fitTrim (s k : Nat) (refs : List RefSlot) (old : Trim) : Trim :=
  let ys := refs.map refExpect
  let qs := refs.map (fun r => ((r.codes.getD k 0).toInt))
  let n : Int := refs.length
  let sy := sumI ys
  let sq := sumI qs
  let d := n * sumI (ys.map (fun y => y * y)) - sy * sy
  let a := n * sumI (ys.zipWith (· * ·) qs) - sy * sq
  let tk := fRatio ((refs.map (·.temp)).foldl (· + ·) 0 : Nat) (8 * refs.length)
  if d ≤ 0 ∨ a ≤ 0 ∨ refs.isEmpty then old
  else
    { old with
      g := fRatio d (a.toNat * 2 ^ s)
      o := fRatio (sq * d - a * sy) (n * d).toNat
      t := tk }

/-- The residual of a reference slot after trim, in 1/64 level units. -/
def refResid (b : Basin) (k : Nat) (r : RefSlot) : Int :=
  trimSum (getK b.trims k {}) b.s r.temp ((r.codes.getD k 0).toInt) - 64 * refExpect r

/-- Monitors 1 and 2 of R200 over the last 256 reference slots: does a converter's mean or RMS error exceed its
threshold (units of 0.05% of FS_c)? Residuals are in 1/64 level units, FS_c = 128 × 2^s. -/
def refMonitors (s : State) (die : Nat) (b : Basin) : Bool × Bool :=
  let th1 := getF s (cstB die) F.cstMoncfgRefMean
  let th2 := min 12 (getF s (cstB die) F.cstMoncfgRefRms)
  let fs : Int := 64 * 128 * (2 ^ b.s : Nat)
  let n : Int := b.refs.length
  let one (k : Nat) : Bool × Bool :=
    let e := b.refs.map (refResid b k)
    (decide ((sumI e).natAbs * 2000 > n.natAbs * th1 * fs.natAbs),
     decide (sumI (e.map (fun x => x * x)) * (2000 * 2000 : Nat) > n * (th2 * th2 : Nat) * fs * fs))
  ((List.range 16).any (fun k => (one k).1), (List.range 16).any (fun k => (one k).2))

/-- Queues a basin for recalibration (R196, R200, R201). -/
def queueCal (b : Nat) (s : State) : State :=
  if s.cist.queue.contains b then s
  else modBasin b (fun x => { x with queued := true }) { s with cist := { s.cist with queue := s.cist.queue ++ [b] } }

/-- One reference slot of a basin: every converter converts REF_A or REF_B, alternating, with the group's rows; after
the last slot that is due the trims are refitted from the latest 32 and take effect at the next pass (R158 to R160). -/
def referenceSlot (b : Nat) (s : State) : State :=
  let x := getBasin s b
  match x.refDue with
  | [] => s
  | n :: due =>
    if frozen s then s
    else
      let die := basinDie b
      let exp : Int := if x.refB then 5 * (n : Int) else -6 * (n : Int)
      let codes := (List.range 16).map (fun k => Config.conversion (s.freeCtr + k) exp x.s)
      let slot : RefSlot := ⟨x.refB, n, codes, (getPlot s (plotOf b)).temp⟩
      let refs := (slot :: x.refs).take 256
      let base := (x.newTrims).getD x.trims
      let fit := (List.range 16).foldl (fun m k => setK m k (fitTrim x.s k (refs.take 32) (getK base k {})) {}) base
      let y := { x with refDue := due, refs := refs, refB := !x.refB, newTrims := some fit }
      let (m1, m2) := if refs.length = 256 then refMonitors s die { y with trims := fit } else (false, false)
      let s1 := setBasin b y { s with freeCtr := s.freeCtr + 16 }
      let s2 :=
        if m1 then
          (if x.mon1 = 0 then modBasin b (fun z => { z with mon1 := 33, burst := 32 }) (monitorTrip b 1 s1)
           else if x.mon1 = 1 then queueCal b s1
           else modBasin b (fun z => { z with mon1 := x.mon1 - 1 }) s1)
        else modBasin b (fun z => { z with mon1 := if x.mon1 ≤ 1 then 0 else x.mon1 - 1 }) s1
      whenB (m2 && !x.queued) (fun t => queueCal b (monitorTrip b 2 t)) s2

/-! ### Plot temperatures (R161) -/

/-- Eighths by which a plot's group issue rate is lowered: one for each 0.25 °C above 83.0 °C (readings in
0.125 °C); 8 is the gate at 85.0 °C. -/
def plotLimit (t : Nat) : Nat := if t < 664 then 0 else min 8 ((t - 664) / 2)

/-- Is a plot rate-limited (R161)? -/
def plotThrottled (s : State) (p : Nat) : Bool := (getPlot s p).limit > 0

/-- A basin asks for a trim refresh (R159): the plot moved by TRIM_DT from T_k. -/
def refreshDue (s : State) (die : Nat) (b : Basin) (temp : Nat) : Bool :=
  let dt := max 4 (getF s (cstB die) F.cstCfgTrimDt)
  let tk := (getK b.trims 0 {}).t
  b.burst = 0 && (b.st = .service || b.st = .spareIn || b.st = .mirrored) &&
    fle (fmul (fOfInt dt) (fPow2 (-2))) (fabs (fsub (tempF32 temp) tk))

/-- One plot's new reading. -/
def plotReading (die p t : Nat) (s : State) : State :=
  let x := getPlot s p
  let h := s.counter / 90000000000
  let x1 := if h = x.hour then x else
    { x with hour := h, hourMean := if x.hourCnt = 0 then x.hourMean else x.hourSum / x.hourCnt, hourSum := 0, hourCnt := 0 }
  let y := { x1 with temp := t, limit := plotLimit t, hourSum := x1.hourSum + t, hourCnt := x1.hourCnt + 1
                     progHold := decide (t ≥ 664) || (x.progHold && decide (t ≥ 656)) }
  let st := statusWord x.owner p 0x0B 0x52
  let s1 := setPlot p y s
  let s2 := whenB (x.limit = 0 && y.limit > 0)
    (fun u => irqRaise (cstB die) 8 (lastEvt (cstB die) F.cstLastevtStatus st u)) s1
  { s2 with cist := { s2.cist with basins := s2.cist.basins.map (fun e =>
      if plotOf e.1 = p && refreshDue s2 die e.2 t then (e.1, { e.2 with burst := 32 }) else e) } }

/-- PLOT_TEMP_READ: the readings of plots of a field die, in 0.125 °C. -/
def plotTempRead (die : Nat) (rs : List (Nat × Nat)) (s : State) : State :=
  if frozen s then s
  else (rs.filter (fun r => plotDie r.1 = die)).foldl (fun t r => plotReading die r.1 r.2 t) s

/-- PLOT_THROTTLED_REPORT: once per second while a plot is limited, in telemetry (R161, R169, log entry 40). -/
def plotThrottledReport (p : Nat) (s : State) : State :=
  let x := getPlot s p
  if !frozen s && decide (x.limit > 0) && decide (x.reported ≤ s.counter) then
    let st := statusWord x.owner p 0x0B 0x52
    emit (.telemetry x.owner st p) (lastEvt (cstB (plotDie p)) F.cstLastevtStatus st
      (setPlot p { x with reported := s.counter + 25000000 } s))
  else s

/-! ### The commands -/

def execBasinCourse (iss : Issue) (s : State) : Out := .next (basinCourse iss s)
def execBasinPass (die : Die) (run : Nat) (mask : Option (List NeuronPair)) (theta : Int) (hold : Bool) (s : State) : Out :=
  .next (basinPass die.val run (mask.map (fun l => l.map (fun n => ⟨n.gate.val, n.up.val⟩))) theta hold s)
def execWeirGroupResume (die : Die) (run : Nat) (s : State) : Out := .next (weirGroupResume die.val run s)
def execClipWindowClose (basin : BasinIx) (s : State) : Out := .next (clipWindowClose basin.toNat s)
def execReferenceSlot (basin : BasinIx) (s : State) : Out := .next (referenceSlot basin.toNat s)
def execPlotTempRead (die : Die) (readings : List (PlotIx × Nat)) (s : State) : Out :=
  .next (plotTempRead die.val (readings.map (fun r => (r.1.toNat, r.2))) s)
def execPlotThrottledReport (plot : PlotIx) (s : State) : Out := .next (plotThrottledReport plot.toNat s)

end Sys2Proof.Machine
end

