-- ==== Sys2Proof/Machine/Furrow.lean ====
section
/-!
DEFINITION. Furrow macros (R59 to R92): passes, residue repeats, weight-set loads, retirement of macros to their
spares, and the self-test of spares.
-/

namespace Sys2Proof.Machine

/-! ### Passes -/

/-- The next pass of a course (R261): from a tile on, the first tile whose fill still lacks a pass of it, and its
token. none while that fill's accumulator is not READY or in FILL (R101). -/
def passPos (a : Acre) (c : CourseRun) : Nat → Nat → Option (Nat × Nat)
  | 0, _ => none
  | fuel + 1, n =>
    if n < walkTiles c.desc c.bounds then
      let f := fillOf c.desc c.bounds n
      let x := getAcc a (accOf f)
      let toks := inToks (tilePos c.desc c.bounds n)
      let before := (if parks c.desc c.bounds then 0 else redOf c.desc c.bounds n) * toks
      if x.fill = f ∧ (x.st = .ready ∨ x.st = .fill) then
        (if x.issued < before + toks then some (n, x.issued - before) else passPos a c fuel (n + 1))
      else none
    else none

/-- The X tile of the walk: its CIN slot when that is full, else the walked address (R277, R279). -/
def xTile (s : State) (c : CourseRun) (n : Nat) : Option Nat :=
  if xFromCin c.desc then
    match getChain s c.issue.image (dCinIx c.desc) with
    | none => none
    | some ch =>
      let slot := if ch.slots = 0 then 0 else n % ch.slots
      if (getGate s c.issue.image (dCinIx c.desc) slot).full then some (slotAddr ch slot) else none
  else some (tilePos c.desc c.bounds n).x

/-- The input vector of logical macro m for a token (R59, R65, R98): row block m mod G, zeros beyond the bound,
shifted by the fill's exponent (R108). The tile lies token by token, 64 × G rows each (log entry 24). -/
def passInput (s : State) (d : List Byte) (p : TilePos) (x tok e m : Nat) : List Int :=
  let f := xfmtOf (dXfmt d)
  let g := dG d
  (List.range 64).map (fun r =>
    let row := 64 * (m % g) + r
    if row < inRows d p then
      let i := tok * 64 * g + row
      let b := if xBits f = 4 then ((rdByte s (x + i / 2)).toNat >>> (4 * (i % 2))) % 16 else (rdByte s (x + i)).toNat
      rshiftRne (xVal f b) e
    else 0)

/-- Do all 64 macros hold weight tile q of the run in a set, READY or ACTIVE (R60, R72)? -/
def setsReady (a : Acre) (sn q : Nat) : Bool :=
  (List.range 64).all (fun m =>
    let w := setOf (getMacro a m) (q % 2 = 1)
    w.tile = some (sn, q) && (w.st = .ready || w.st = .active))

/-- The sequencer issues one pass to every in-service macro on a common cycle (R59, R101). `stall` is the number of
cycles that issue waited for the accumulator. -/
def furrowPass (g stall : Nat) (s : State) : State :=
  let a := getAcre s g
  match a.run with
  | none => s
  | some c =>
    if acreLive s g && dKind c.desc = 1 && !a.held then
      match passPos a c (walkTiles c.desc c.bounds + 1) c.tile with
      | none => s
      | some (n, tok) =>
        let d := c.desc
        let q := weightTile d c.bounds n
        let f := fillOf d c.bounds n
        let b := accOf f
        let x := getAcc a b
        if c.yielding && x.st = .ready then s
        else if setsReady a c.sn q then
          match xTile s c n with
          | none => s
          | some xa =>
            let p := tilePos d c.bounds n
            let sel : Bool := q % 2 = 1
            let xs := (List.range 64).map (passInput s d p xa tok x.e)
            let r : Round := { setB := sel, acc := b, fill := f, tile := n, tok := tok, xs := xs }
            let use (y : Macro) : Macro := { putSet sel { setOf y sel with st := .active } y with cset := sel }
            let a1 := putAcc b { x with st := .fill, issued := x.issued + 1 }
              { a with rounds := a.rounds ++ [r], macros := a.macros.map (fun e => (e.1, use e.2)) }
            let cls := if xBits (xfmtOf (dXfmt d)) = 8 then actPass8 else actPass4
            bumpPair (acrB g) 0x108 stall
              (modRun g (fun y => { y with tile := n, act := actAdd (g / 68) cls 64 y.act }) (setAcre g a1 s))
        else s
    else s

/-- SET_NOT_READY (R73): a pass has waited 65,536 cycles for its set. -/
def setNotReady (g : Nat) (s : State) : State :=
  let a := getAcre s g
  match a.run with
  | none => s
  | some c =>
    match passPos a c (walkTiles c.desc c.bounds + 1) c.tile with
    | none => s
    | some (n, _) =>
      if acreLive s g && dKind c.desc = 1 && !setsReady a c.sn (weightTile c.desc c.bounds n)
      then faultRun g 0x4B 3 g s else s

/-! ### Retirement of macros (R82 to R87) -/

/-- Physical macro of a logical macro (R48, R84). -/
def physMacro (s : State) (g lm : Nat) : Nat := getF s (frwB g) (F.frwMap lm)

/-- Is a physical macro retired? -/
def macroRetired (s : State) (g p : Nat) : Bool :=
  if p < 32 then (regGet s (frwB g + 0x140)).toNat.testBit p
  else if p < 64 then (regGet s (frwB g + 0x144)).toNat.testBit (p - 32)
  else (getF s (frwB g) F.frwSpareRetSp).testBit (p - 64)

/-- Marks a physical macro retired. -/
def markRetired (g p : Nat) (s : State) : State :=
  let set (f : Fld) (k : Nat) (t : State) : State := setF (frwB g) f (Nat.lor (getF t (frwB g) f) (2 ^ k)) t
  if p < 32 then set F.frwRetiredLoRetLo p s
  else if p < 64 then set F.frwRetiredHiRetHi (p - 32) s
  else set F.frwSpareRetSp (p - 64) s

/-- The unmapped, unretired physical macros of an acre, lowest first. -/
def macroSpares (s : State) (g : Nat) : List Nat :=
  (List.range 66).filter (fun p => !macroRetired s g p && !((List.range 64).any (fun l => physMacro s g l = p)))

/-- Updates SPARES_LEFT; the block signals when it reaches 0 (R612). -/
def countMacroSpares (g : Nat) (s : State) : State :=
  let n := (macroSpares s g).length
  let was := getF s (frwB g) F.frwSpareSparesLeft
  whenB (n = 0 ∧ was ≠ 0) (irqRaise (frwB g) 4) (setF (frwB g) F.frwSpareSparesLeft n s)

/-- Logs a macro event: status class 0x04, index acre × 66 + macro within the die (R26, R91). -/
def macroEvent (g p code : Nat) (s : State) : State :=
  let ix := g % 68 * 66 + p
  let st := statusWord 15 ix 4 code
  lastEvt (frwB g) F.frwLastevtStatus st (logStatus st (g / 68 * 2 ^ 24 + ix) [code] s)

/-- The sets that the uncommitted passes of a macro name, or where none remains the set of its latest pass (R83,
R85); loads of other sets restart. -/
def reloadMacro (g lm : Nat) (s : State) : State :=
  let a := getAcre s g
  match a.run with
  | none => modAcre g (setMacro lm {}) s
  | some c =>
    let x := getMacro a lm
    let named (b : Bool) : Bool := a.rounds.any (fun r => r.setB = b)
    let need (b : Bool) : Bool := named b || (!(named true) && !(named false) && x.cset = b)
    let fix (b : Bool) : WSet :=
      let w := setOf x b
      match w.tile with
      | some (_, q) =>
        if need b && (w.st = .ready || w.st = .active) then
          { w with rows := loadRows s c.desc (tilePos c.desc c.bounds (weightFirst c.desc c.bounds q)) lm }
        else {}
      | none => {}
    modAcre g (setMacro lm { a := fix false, b := fix true, cset := x.cset, rows := 64 }) s

/-- What follows a lasting macro event: the logical macro goes to the lowest of the spares left and its sets reload (R85), or with
none left the acre is replaced and its course repeated (R87). -/
def remapMacro (g lm p : Nat) (spares : List Nat) (s : State) : State :=
  match spares with
  | sp :: _ =>
    let busy := getF s (frwB g) F.frwSptestBusy
    let s2 := whenB (64 ≤ sp ∧ busy.testBit (sp - 64))
      (setF (frwB g) F.frwSptestBusy (busy - 2 ^ (sp - 64))) s
    macroEvent g p 0x49 (reloadMacro g lm (countMacroSpares g (setF (frwB g) (F.frwMap lm) sp s2)))
  | [] => replaceAcre g (macroEvent g p 0x4A (countMacroSpares g s))

/-- A lasting macro event (R85, R87). -/
def retireMacro (g lm : Nat) (s : State) : State :=
  let p := physMacro s g lm
  let s1 := bumpF (frwB g) F.frwEvtLasting 1 (markRetired g p s)
  remapMacro g lm p (macroSpares s1 g) s1

/-! ### Residue compare and repeat (R78 to R83) -/

/-- The set and format a round of macro m reads. -/
def roundRows (a : Acre) (r : Round) (m : Nat) : WSet := setOf (getMacro a m) r.setB

/-- A pass result reaches its residue compare (R78): matches commit, a mismatch stops issue (R81). -/
def passCompare (g : Nat) (errs : List PassErr) (s : State) : State :=
  let a := getAcre s g
  match a.rounds, a.run with
  | r :: rest, some c =>
    if acreLive s g && !a.held && !r.compared then
      let int4 : Bool := dWfmt c.desc = 1
      let f := xfmtOf (dXfmt c.desc)
      let res := (List.range 64).map (fun m =>
        let rows := setRows (roundRows a r m)
        let xs := r.xs.getD m []
        let out := withErrs m errs (passOut int4 f rows xs)
        (m, out, residueOk int4 rows xs out))
      let outs := (res.filter (fun t => t.2.2)).map (fun t => (t.1, t.2.1))
      let bad := (res.filter (fun t => !t.2.2)).map (fun t => t.1)
      let r1 := { r with outs := outs, bad := bad, compared := true }
      let s1 := setAcre g { a with rounds := r1 :: rest, held := !bad.isEmpty } s
      if bad.isEmpty then commitRound g s1 else s1
    else s
  | _, _ => s

/-- Is a third transient within the last 2^32 cycles (R83, R570)? The cycle count is the unit's own (R19). -/
def thirdTransient (stamps : List Nat) (cycle : Nat) : Bool :=
  decide (2 ≤ (stamps.filter (fun t => cycle < t + 2 ^ 32)).length)

/-- A repeated pass of macro m reaches its compare (R82, R83). -/
def repeatDone (g m : Nat) (errs : List PassErr) (cycle : Nat) (s : State) : State :=
  let a := getAcre s g
  match a.rounds, a.run with
  | r :: rest, some c =>
    if acreLive s g && r.bad.contains m then
      let int4 : Bool := dWfmt c.desc = 1
      let f := xfmtOf (dXfmt c.desc)
      let rows := setRows (roundRows a r m)
      let xs := r.xs.getD m []
      let out := withErrs m errs (passOut int4 f rows xs)
      if residueOk int4 rows xs out then
        let x := getMacro a m
        let third := thirdTransient x.transients cycle
        let bad := r.bad.filter (· ≠ m)
        let a1 := setMacro m { x with transients := (cycle :: x.transients).take 3 }
          { a with rounds := { r with outs := insertK r.outs m out, bad := bad } :: rest }
        let s1 := macroEvent g (physMacro s g m) 0x48 (bumpF (frwB g) F.frwEvtTransients 1 (setAcre g a1 s))
        let s2 := if bad.isEmpty then commitRound g s1 else s1
        if third then retireMacro g m s2 else s2
      else retireMacro g m s
    else s
  | _, _ => s

/-! ### Weight loads (R69 to R76) -/

/-- The weight tile that macro m of an acre loads next: the tile of the next pass, else the one after it into the
other set, else the first tile of the pending course once every pass of the running one is issued (R94). -/
def loadChoice (a : Acre) (m : Nat) : Option (CourseRun × Nat) :=
  let x := getMacro a m
  let holds (c : CourseRun) (q : Nat) : Bool :=
    let w := setOf x (q % 2 = 1)
    w.tile = some (c.sn, q) && w.st ≠ .empty
  let pending : Option (CourseRun × Nat) :=
    match a.pend with
    | some c => if dKind c.desc = 1 && !holds c 0 then some (c, 0) else none
    | none => none
  match a.run with
  | some c =>
    if dKind c.desc = 1 then
      match passPos a c (walkTiles c.desc c.bounds + 1) c.tile with
      | some (n, _) =>
        let q := weightTile c.desc c.bounds n
        if !holds c q then some (c, q)
        else if weightFirst c.desc c.bounds (q + 1) < walkTiles c.desc c.bounds && !holds c (q + 1)
        then some (c, q + 1) else none
      | none =>
        let q := weightTile c.desc c.bounds c.tile
        if c.drained < fillCount c.desc c.bounds && c.tile < walkTiles c.desc c.bounds && !holds c q then some (c, q)
        else if c.nextFill ≥ fillCount c.desc c.bounds then pending else none
    else none
  | none => pending

/-- A load writes the first row of a weight set, once the set is no longer ACTIVE (R69, R72). -/
def weightLoadStart (g m : Nat) (s : State) : State :=
  let a := getAcre s g
  match loadChoice a m with
  | none => s
  | some (c, q) =>
    let sel : Bool := q % 2 = 1
    let x := getMacro a m
    let w := setOf x sel
    let p := tilePos c.desc c.bounds (weightFirst c.desc c.bounds q)
    if acreLive s g && w.st ≠ .active && w.st ≠ .loading then
      match loadFault s p m with
      | some (cls, ix) => faultRun g 0x43 cls ix s
      | none =>
        let w1 : WSet := { st := .loading, int4 := dWfmt c.desc = 1, rows := [], tile := some (c.sn, q) }
        modAcre g (setMacro m { putSet sel w1 x with rows := 1 }) s
    else s

/-- The load writes row 63 and the set becomes READY (R69). -/
def weightLoadDone (g m : Nat) (s : State) : State :=
  let a := getAcre s g
  let x := getMacro a m
  let load (b : Bool) : Option (CourseRun × Nat) :=
    let w := setOf x b
    if w.st = .loading then
      match w.tile, a.run, a.pend with
      | some (sn, q), some c, p =>
        if c.sn = sn then some (c, q)
        else (match p with | some c2 => if c2.sn = sn then some (c2, q) else none | none => none)
      | some (sn, q), none, some c2 => if c2.sn = sn then some (c2, q) else none
      | _, _, _ => none
    else none
  let fin (b : Bool) (t : CourseRun × Nat) : State :=
    let (c, q) := t
    let rows := loadRows s c.desc (tilePos c.desc c.bounds (weightFirst c.desc c.bounds q)) m
    let w := { setOf x b with st := .ready, rows := rows }
    modRun g (fun y => { y with act := actAdd (g / 68) actLineRd 64 (actAdd (g / 68) actRow 64 y.act) })
      (modAcre g (setMacro m { putSet b w x with rows := 64 }) s)
  if acreLive s g then
    match load false, load true with
    | some t, _ => fin false t
    | none, some t => fin true t
    | none, none => s
  else s

/-! ### Self-test of spares (R88, R90) -/

/-- The self-test of every eligible spare starts: unmapped and unretired. -/
def spareTestStart (g : Nat) (s : State) : State :=
  let busy := ((macroSpares s g).filter (fun p => 64 ≤ p)).foldl (fun n p => n + 2 ^ (p - 64)) 0
  if frozen s then s else setF (frwB g) F.frwSptestBusy busy s

/-- The test interval in acre cycles (R88, R90): INTERVAL_LOG2 acts as 0x18 to 0x22. -/
def spareInterval (s : State) (g : Nat) : Nat := 2 ^ max 0x18 (min 0x22 (getF s (frwB g) F.frwSptestIntervalLog2))

/-- SPARE_SELF_TEST: the interval has passed, at 1,200 MHz at the soonest. -/
def spareSelfTest (g : Nat) (s : State) : State :=
  if (s.counter - (getAcre s g).spTest) * 48 ≥ spareInterval s g then spareTestStart g s else s

/-- A spare's self-test ends; the second failure in a row retires the spare. FAIL holds the latest result. -/
def spareTestDone (g sp : Nat) (fail : Bool) (s : State) : State :=
  let busy := getF s (frwB g) F.frwSptestBusy
  if !frozen s && busy.testBit sp then
    let was := getF s (frwB g) F.frwSptestFail
    let s1 := modAcre g (fun a => { a with spTest := s.counter }) (setF (frwB g) F.frwSptestBusy (busy - 2 ^ sp) s)
    let cleared := if was.testBit sp then was - 2 ^ sp else was
    let s2 := setF (frwB g) F.frwSptestFail (if fail then cleared + 2 ^ sp else cleared) s1
    if fail && was.testBit sp then
      countMacroSpares g (bumpF (frwB g) F.frwEvtLasting 1 (markRetired g (64 + sp) s2))
    else s2
  else s

/-! ### The commands -/

def execFurrowPass (die : Die) (acre : PAcre) (stall : Nat) (s : State) : Out := .next (furrowPass (acreIx die acre) stall s)
def execPassResidueCompare (die : Die) (acre : PAcre) (errs : List PassErr) (s : State) : Out :=
  .next (passCompare (acreIx die acre) errs s)
def execResidueRepeatDone (die : Die) (acre : PAcre) (m : LMacro) (errs : List PassErr) (cycle : Nat) (s : State) : Out :=
  .next (repeatDone (acreIx die acre) m.val errs cycle s)
def execWeightLoadStart (die : Die) (acre : PAcre) (m : LMacro) (s : State) : Out :=
  .next (weightLoadStart (acreIx die acre) m.val s)
def execWeightLoadDone (die : Die) (acre : PAcre) (m : LMacro) (s : State) : Out :=
  .next (weightLoadDone (acreIx die acre) m.val s)
def execSetNotReady (die : Die) (acre : PAcre) (s : State) : Out := .next (setNotReady (acreIx die acre) s)
def execSpareSelfTest (die : Die) (acre : PAcre) (s : State) : Out := .next (spareSelfTest (acreIx die acre) s)
def execSpareTestDone (die : Die) (acre : PAcre) (sp : Fin 2) (fail : Bool) (s : State) : Out :=
  .next (spareTestDone (acreIx die acre) sp.val fail s)

end Sys2Proof.Machine
end

