-- ==== Sys2Proof/Machine/Gates.lean ====
section
/-!
DEFINITION. Gate waits of courses and how they end: READ_BEFORE_FILL, OVERWRITE_BEFORE_DRAIN and CHAIN_BROKEN
(R281, R282, R319, R383).
-/

namespace Sys2Proof.Machine

/-- Does a gather chain still lack a contributor (R278)? -/
def gatherWaits (s : State) (h ix : Nat) : Bool :=
  match getChain s h ix with
  | none => false
  | some ch => ch.gather && (List.range ch.slots).any (fun k => !(getGate s h ix k).full)

/-- Does the running course of an acre wait to read a slot: for the input of its next pass, its next PARTIAL tile, or
its next Lateral tile? -/
def waitsToRead (s : State) (g : Nat) (c : CourseRun) : Bool :=
  let a := getAcre s g
  if !dCin c.desc then false
  else if dKind c.desc = 1 then
    (match passPos a c (walkTiles c.desc c.bounds + 1) c.tile with
     | some (n, _) => (xTile s c n).isNone
     | none => false)
    || (decide (c.nextFill < fillCount c.desc c.bounds) && (a.acc0.st = .idle || a.acc1.st = .idle)
        && partialFromCin c.desc && (partialSrc s c c.nextFill).isNone)
  else (tileIn s c c.tile 0).isNone || gatherWaits s c.issue.image (dCinIx c.desc)

/-- Does the running course of an acre wait to write a slot? -/
def waitsToWrite (s : State) (g : Nat) (c : CourseRun) : Bool :=
  let a := getAcre s g
  if !dCout c.desc then false
  else if dKind c.desc = 1 then
    [a.acc0, a.acc1].any (fun x =>
      x.st = .fill && x.commits = fillRounds c x.fill && !toPark c.desc c.bounds x.fill &&
        (match coutSlot s c x.fill with
         | some (_, slot) => (getGate s c.issue.image (dCoutIx c.desc) slot).full
         | none => false))
  else !waitsToRead s g c && (tileOut s c c.tile 0).isNone

/-- The same of a BASIN course. -/
def basinWaitsToRead (s : State) (r : BasinRun) : Bool :=
  dCin r.c.desc && decide (r.tok < inToks (basinTile r.c)) && (basinInput s r).isNone
def basinWaitsToWrite (s : State) (r : BasinRun) : Bool :=
  dCout r.c.desc && decide (r.tok ≥ inToks (basinTile r.c)) && (tileOut s r.c r.c.tile 0).isNone

/-- Is the timeout of a chain held by the open fence of a collective on it (R383)? -/
def fenceHolds (s : State) (h ix : Nat) : Bool :=
  s.ring.colls.any (fun k => !k.moving && !k.broken && k.issue.image = h &&
    (List.range 8).any (fun i => fieldLE k.desc (0x18 + 2 * i) 2 = ix))

/-- Is a course on a chain whose other course faulted or was refused in its step (R282)? -/
def onBroken (s : State) (iss : Issue) (d : List Byte) : Bool :=
  (dCin d && s.broken.contains (iss.image, dCinIx d, iss.work)) ||
    (dCout d && s.broken.contains (iss.image, dCoutIx d, iss.work))

/-- Ends a course that waits on a gate with a fault of its executor. -/
def endWait (ex : Executor) (code : Nat) (onAcre : Nat → CourseRun → Bool) (onCtl : BasinRun → Bool) (s : State) : State :=
  if frozen s then s
  else match ex with
    | .acre die a =>
      let g := acreIx die a
      match (getAcre s g).run with
      | none => s
      | some c => if acreLive s g && onAcre g c then faultRun g code 3 g s else s
    | .controller die k =>
      match (getRuns s die.val)[k]? with
      | none => s
      | some r => if onCtl r then faultBasin die.val code 2 die.val r s else s

/-- GATE_TIMEOUT cycles on an empty slot. -/
def readBeforeFill (ex : Executor) (s : State) : State :=
  endWait ex 0x40 (fun g c => waitsToRead s g c && !fenceHolds s c.issue.image (dCinIx c.desc))
    (fun r => basinWaitsToRead s r && !fenceHolds s r.c.issue.image (dCinIx r.c.desc)) s

/-- GATE_TIMEOUT cycles on a full slot. -/
def overwriteBeforeDrain (ex : Executor) (s : State) : State :=
  endWait ex 0x41 (fun g c => waitsToWrite s g c && !fenceHolds s c.issue.image (dCoutIx c.desc))
    (fun r => basinWaitsToWrite s r && !fenceHolds s r.c.issue.image (dCoutIx r.c.desc)) s

/-- The next gate wait of a course on a broken chain. -/
def chainBroken (ex : Executor) (s : State) : State :=
  endWait ex 0x42 (fun g c => onBroken s c.issue c.desc && (waitsToRead s g c || waitsToWrite s g c))
    (fun r => onBroken s r.c.issue r.c.desc && (basinWaitsToRead s r || basinWaitsToWrite s r)) s

def execReadBeforeFill (ex : Executor) (s : State) : Out := .next (readBeforeFill ex s)
def execOverwriteBeforeDrain (ex : Executor) (s : State) : Out := .next (overwriteBeforeDrain ex s)
def execChainBroken (ex : Executor) (s : State) : Out := .next (chainBroken ex s)

end Sys2Proof.Machine
end

