-- ==== Sys2Proof/Machine/Siphon.lean ====
section
/-!
DEFINITION. The Siphon (R206 to R224): lists, lanes, lending, corrections and their merge; and the tensiometer's
re-arm and model-wide switch (R237 to R242).
-/

namespace Sys2Proof.Machine

/-! ### Lists (R211, R212) -/

/-- Reads n entry words with ascending position codes: the entries and the words left, none on a violation (R224). -/
def takeEnts : Nat → Option Nat → List Nat → Option (List (Nat × Int) × List Nat)
  | 0, _, ws => some ([], ws)
  | _ + 1, _, [] => none
  | n + 1, prev, w :: ws =>
    let code := w / 65536
    if w ≥ 2 ^ 31 || (match prev with | some p => decide (code ≤ p) | none => false) then none
    else (takeEnts n (some code) ws).map (fun r => ((code, sext 16 (w % 65536)) :: r.1, r.2))

/-- The channels of a segment, none on a violation. The row of an entry is its position code. -/
def parseSeg : Nat → List Nat → Option (List ListChan)
  | 0, ws => if ws.isEmpty then some [] else none
  | _ + 1, [] => some []
  | fuel + 1, w :: ws =>
    if w < 2 ^ 31 ∨ w / 65536 % 32768 = 0 then none
    else
      match takeEnts (w / 65536 % 32768) none ws with
      | none => none
      | some (es, rest) => (parseSeg fuel rest).map (fun cs => ⟨w % 65536, es⟩ :: cs)

/-- The words of lane l's segment of the list at an address. -/
def segWords (s : State) (addr l : Nat) : List Nat :=
  let rec_ := addr + rdLE s (addr + 0x1C) 4 + 8 * l
  let first := rdLE s rec_ 4
  let n := rdLE s (rec_ + 4) 3
  let base := addr + rdLE s (addr + 0x20) 4
  (List.range n).map (fun i => rdLE s (base + 4 * (first + i)) 4)

/-- Every lane's channels of a list; none where a segment breaks R224. -/
def readList (s : State) (addr : Nat) : Option (NatMap (List ListChan)) :=
  (allSome ((List.range 16384).map (fun l =>
    let ws := segWords s addr l
    (parseSeg ws.length ws).map (fun cs => (l, cs))))).map (fun m => m.filter (fun e => !e.2.isEmpty))

/-! ### Lanes in service (R223) -/

def laneIn (s : State) (die l : Nat) : Bool := !s.cist.lanesOut.contains (die * 16384 + l)

/-- The lane that walks the segment of lane l: itself, the nearest lower lane in service, else the nearest upper. -/
def takerOf (s : State) (die l : Nat) : Nat :=
  if laneIn s die l then l
  else
    match ((List.range l).reverse).find? (laneIn s die) with
    | some k => k
    | none => (((List.range 16384).drop l).find? (laneIn s die)).getD l

/-- The channels by walking lane. -/
def byLane (s : State) (die : Nat) (m : NatMap (List ListChan)) : NatMap (List ListChan) :=
  m.foldl (fun acc e => let k := takerOf s die e.1; insertK acc k (getK acc k [] ++ e.2)) []

/-! ### The target of a step -/

/-- The course, tile and input rows (tokens by rows) that a step corrects; the channel base and count. -/
structure CorrCtx where
  c    : CourseRun
  rows : List (List Int)
  chan0 : Nat
  nch  : Nat
  reps : List (Nat × Nat × Int)

/-- The repair entries in force of a tile: channel, row of the input vector, value (R190, R207). -/
def tileRepairs (s : State) (c : CourseRun) : List (Nat × Nat × Int) :=
  let bs := groupBasins s (tileBasin s c (basinTile c))
  s.cist.repairs.filterMap (fun e =>
    if e.live then (bs.findIdx? (fun b => b = e.basin || physBasin s b = e.basin)).map (fun j => (e.chan, 512 * j + e.row, e.val)) else none)

/-- The run of a serial. -/
def runOf (s : State) (die sn : Nat) : Option BasinRun := (getRuns s die).find? (fun r => r.c.sn = sn)

/-- The course that an acre runs or holds pending, by serial. -/
def acreCourse (s : State) (g sn : Nat) : Option CourseRun :=
  let a := getAcre s g
  (a.run.toList ++ a.pend.toList).find? (fun c => c.sn = sn)

/-- Is the fill one that a correction tile preloads (R210, R266): of a course with LIST and PARTIAL preload, in its
first RED iteration? -/
def fillTakes (c : CourseRun) (f : Nat) : Bool :=
  dKind c.desc = 1 && dList c.desc && dPreload c.desc = 3 && f < fillCount c.desc c.bounds && !fromPark c.desc c.bounds f

/-- Input rows of a fill: token t, row q × 64G + r of every RED iteration q. -/
def fillRows (s : State) (c : CourseRun) (f : Nat) : Option (List (List Int)) :=
  let d := c.desc
  let f0 := firstTile d c.bounds f
  let tiles := (List.range (redIters d c.bounds)).map (fun q => f0 + q * belowRed d c.bounds)
  (allSome (tiles.map (fun n => (xTile s c n).map (fun x => (n, x))))).map (fun ts =>
    (List.range (inToks (tilePos d c.bounds f0))).map (fun t =>
      ts.flatMap (fun e => (List.range (dG d)).flatMap (fun m => passInput s d (tilePos d c.bounds e.1) e.2 t 0 m))))

/-- What a step works on; none while its input or its destination is not ready. -/
def corrCtx (s : State) (die : Nat) (k : CorrFor) : Option CorrCtx :=
  match k with
  | .basin sn =>
    match runOf s die sn with
    | none => none
    | some r =>
      if !r.corr then none
      else
        let p := basinTile r.c
        match basinInput s r with
        | none => none
        | some x =>
          let nb := (groupBasins s (tileBasin s r.c p)).length
          let f := xfmtOf (dXfmt r.c.desc)
          some { c := r.c
                 rows := (List.range (inToks p)).map (fun t => (basinRow s r.c.desc nb x t).map (xVal f))
                 chan0 := idxOf r.c.desc p 2 * basinNe r.c.desc, nch := basinNe r.c.desc, reps := tileRepairs s r.c }
  | .fill g sn f =>
    match acreCourse s g sn with
    | none => none
    | some c =>
      if !fillTakes c f then none
      else
        let p := tilePos c.desc c.bounds (firstTile c.desc c.bounds f)
        let free := if partialFromCin c.desc then
            (match getChain s c.issue.image (dCinIx c.desc) with
             | some ch => !(getGate s c.issue.image (dCinIx c.desc) (if ch.slots = 0 then 0 else liveOf c.desc c.bounds f % ch.slots)).full
             | none => false)
          else true
        if free then (fillRows s c f).map (fun rows =>
          { c := c, rows := rows, chan0 := idxOf c.desc p 2 * dNe c.desc, nch := dNe c.desc, reps := [] })
        else none

/-- corr of one channel for every token (R206, R208). -/
def corrChan (rows : List (List Int)) (ents : List (Nat × Int)) : List Int :=
  rows.map (fun x => (ents.map (fun e => x.getD e.1 0 * e.2)).foldl (· + ·) 0)

/-- The channels of a list that a step covers. -/
def coverChans (x : CorrCtx) (m : NatMap (List ListChan)) : NatMap (List ListChan) :=
  (m.map (fun e => (e.1, e.2.filter (fun c => decide (x.chan0 ≤ c.ch) && decide (c.ch < x.chan0 + x.nch))))).filter
    (fun e => !e.2.isEmpty)

/-- Repair entries as one more channel list, on lane 0 of the walk (log entry 44). -/
def repairChans (x : CorrCtx) : List ListChan :=
  ((x.reps.map (·.1)).eraseDups).map (fun c =>
    ⟨x.chan0 + c, (x.reps.filter (fun e => e.1 = c)).map (fun e => (e.2.1, e.2.2))⟩)

/-! ### Merge and write (R209, R210) -/

/-- The correction of channel o and token t. -/
def corrAt (x : CorrCtx) (sent : NatMap (List Int)) (o t : Nat) : Int := (getK sent (x.chan0 + o) []).getD t 0

/-- Merges into a basin tile, saturating INT32: the sums and the number of saturated elements. -/
def mergeSums (x : CorrCtx) (sent : NatMap (List Int)) (sums : NatMap Int) : NatMap Int × Nat :=
  ((List.range x.rows.length).flatMap (fun t => (List.range x.nch).map (fun o => (t, o)))).foldl (fun a e =>
    let k := e.1 * 512 + e.2
    let v := getK a.1 k 0 + corrAt x sent e.2 e.1
    (setK a.1 k (satS 32 v) 0, if satS 32 v = v then a.2 else a.2 + 1)) (sums, 0)

/-- Writes corr as an INT32 tile with exponent 0 at the place that the fill preloads from. -/
def writeCorrTile (x : CorrCtx) (f : Nat) (sent : NatMap (List Int)) (s : State) : State :=
  let d := x.c.desc
  let j := liveOf d x.c.bounds f
  let bytes := (List.range 8192).flatMap (fun i =>
    leBytes 4 (toBits 32 (satS 32 (corrAt x sent (i % dNe d) (i / dNe d)))))
  if partialFromCin d then
    withSome (getChain s x.c.issue.image (dCinIx d)) (fun ch t =>
      let slot := if ch.slots = 0 then 0 else j % ch.slots
      gateFill x.c.issue.image (dCinIx d) slot
        (wrByte (slotAddr ch slot + 32768) 0 (wrMem (slotAddr ch slot) bytes t))) s
  else wrByte (winAddr d (dExpoff d + j)) 0 (wrMem (physAddr (dP d) + 32768 * j) bytes s)

/-- A status word of the Siphon of a die: class 0x07 (R243, R244). -/
def siphonStatus (holding die code : Nat) : Word := statusWord holding die 7 code

/-- Logs an event of the Siphon and writes SPH_LASTEVT. -/
def siphonEvent (holding die code : Nat) (detail : List Nat) (s : State) : State :=
  lastEvt (sphB die) F.sphLastevtStatus (siphonStatus holding die code)
    (logStatus (siphonStatus holding die code) die detail s)

/-- Entries and weights of a layer's lists on a die: the entries, the weights, the largest NENT. -/
def layerLoad (s : State) (die image layer : Nat) : Nat × Nat × Nat :=
  match getImage s image with
  | none => (0, 0, 0)
  | some im =>
    (im.sip.filter (fun l => decide (hbmDie l.addr = die) && decide (rdLE s (l.addr + 6) 2 = layer))).foldl (fun a l =>
      let n := rdLE s (l.addr + 0x14) 4
      let base := l.addr + rdLE s (l.addr + 0x20) 4
      let ents := ((List.range n).filter (fun i => decide (rdLE s (base + 4 * i) 4 < 2 ^ 31))).length
      (a.1 + ents, a.2.1 + rdLE s (l.addr + 0x0C) 4 * rdLE s (l.addr + 0x10) 4, max a.2.2 (rdLE s (l.addr + 0x24) 4))) (0, 0, 0)

/-- The layer slot's correction load after a step (R243): DENSITY, MAX_NENT, and the time summed over the steps of one
pass of the layer. -/
def loadLSlot (die : Nat) (x : CorrCtx) (time : Nat) (s : State) : State :=
  match lslotOf s die x.c.issue.image (dLayer x.c.desc) with
  | none => s
  | some k =>
    let v := getLSlot s k
    let (e, w, m) := layerLoad s die x.c.issue.image (dLayer x.c.desc)
    let e2 := e + x.reps.length
    let same := match v.last with
      | some (wk, id) => decide (wk = x.c.issue.work) && decide (id ≤ x.c.issue.id)
      | none => false
    setLSlot k { v with
      dens := if w = 0 then 0 else min (2 ^ 20 - 1) ((e2 * 1000000 + w - 1) / w)
      maxNent := max m (((repairChans x).map (fun c => c.ents.length)).foldl max 0)
      time := min 0xFFF (if same then v.time + time else time)
      last := some (x.c.issue.work, x.c.issue.id) } s

/-- The end of a step: the merge, what it counts, and the tile's way on. -/
def corrFinish (die : Nat) (k : CorrFor) (x : CorrCtx) (sent : NatMap (List Int)) (time : Nat) (s : State) : State :=
  let s0 := loadLSlot die x time s
  match k with
  | .basin sn =>
    match runOf s0 die sn with
    | none => s0
    | some r =>
      let (sums, sat) := mergeSums x sent r.sums
      let r2 := { r with sums := sums, corr := false, c := { r.c with code := if sat > 0 then 0x5B else r.c.code } }
      let s1 := modRunB die sn (fun _ => r2) s0
      let s2 := whenB (sat > 0) (fun t =>
        siphonEvent r.c.holding die 0x5B [sat, r.c.issue.id, r.c.issue.image] (bumpF (sphB die) F.sphSatSat sat t)) s1
      basinTileOut die r2 s2
  | .fill _ _ f => writeCorrTile x f sent s0

/-- Products of a step: entries × tokens. -/
def countProducts (die : Nat) (k : CorrFor) (n : Nat) (s : State) : State :=
  let s1 := bumpPair (sphB die) 0x100 n s
  match k with
  | .basin sn => modRunB die sn (fun r => { r with c := { r.c with act := actAdd die actSiphon n r.c.act } }) s1
  | .fill g sn _ => modAcre g (fun a => { a with
      run := a.run.map (fun c => if c.sn = sn then { c with act := actAdd die actSiphon n c.act } else c)
      pend := a.pend.map (fun c => if c.sn = sn then { c with act := actAdd die actSiphon n c.act } else c) }) s1

/-! ### Faults of lists (R224) -/

/-- The course that a correction step serves faults with LIST_FAULT. -/
def faultCorr (die : Nat) (k : CorrFor) (s : State) : State :=
  match k with
  | .basin sn => withSome (runOf s die sn) (faultBasin die 0x5D 7 die) s
  | .fill g sn _ =>
    match (getAcre s g).run with
    | some c => if c.sn = sn then faultRun g 0x5D 7 die s else faultPend g 0x5D 7 die s
    | none => faultPend g 0x5D 7 die s

/-- Marks a list of an image bad (R224). -/
def markBad (h addr : Nat) (s : State) : State :=
  withSome (getImage s h) (fun im t =>
    { t with images := insertK t.images h { im with sip := im.sip.map (fun l => if l.addr = addr then { l with bad := true } else l) } }) s

/-- A second violation in an outlier list: the list is marked bad and the course faults. -/
def listFault (die : Nat) (k : CorrFor) (x : CorrCtx) (s : State) : State :=
  faultCorr die k (lastEvt (sphB die) F.sphLastevtStatus (siphonStatus x.c.holding die 0x5D)
    (markBad x.c.issue.image (physAddr (dL x.c.desc)) s))

/-! ### The step -/

/-- The target of a command. -/
def corrFor (s : State) (die : Die) (t : CorrTarget) : Option CorrFor :=
  match t with
  | .basin run => ((getRuns s die.val)[run]?).map (fun r => .basin r.c.sn)
  | .fill acre f =>
    let g := acreIx die acre
    let a := getAcre s g
    ((a.run.toList ++ a.pend.toList).find? (fun c => fillTakes c f)).map (fun c => .fill g c.sn f)

/-- CORRECTION_STEP (R221): the whole step, or, with `lanes`, its start, after which LANE_BORROW and
LANE_CHANNEL_SEND take the lanes through it. -/
def correctionStep (die : Die) (t : CorrTarget) (lanes repairBad : Bool) (time : Nat) (s : State) : State :=
  if frozen s || (lookupK s.cist.steps die.val).isSome then s
  else
    match corrFor s die t with
    | none => s
    | some k =>
      match corrCtx s die.val k with
      | none => s
      | some x0 =>
        let bad := repairBad && !x0.reps.isEmpty
        let x := if bad then { x0 with reps := [] } else x0
        let s0 := whenB bad (siphonEvent x.c.holding die.val 0x5D [x.c.issue.id]) s
        match (if dList x.c.desc then readList s (physAddr (dL x.c.desc)) else some []) with
        | none => listFault die.val k x s0
        | some m =>
          let cs := byLane s die.val (coverChans x m)
          let all := if x.reps.isEmpty then cs else
            (let l := takerOf s die.val 0
             insertK cs l (getK cs l [] ++ repairChans x))
          if lanes && !all.isEmpty then
            { s0 with cist := { s0.cist with steps := insertK s0.cist.steps die.val { for_ := k, left := all } } }
          else
            let chans := all.flatMap (·.2)
            let sent := chans.foldl (fun a c =>
              let v := corrChan x.rows c.ents
              insertK a c.ch (match lookupK a c.ch with | some o => o.zipWith (· + ·) v | none => v)) []
            let n := (chans.map (fun c => c.ents.length)).foldl (· + ·) 0 * x.rows.length
            corrFinish die.val k x sent time (countProducts die.val k n s0)

/-! ### Lending (R218 to R220) -/

def getStep (s : State) (die : Nat) : Option CorrStep := lookupK s.cist.steps die
def putStep (die : Nat) (v : CorrStep) (s : State) : State :=
  { s with cist := { s.cist with steps := insertK s.cist.steps die v } }

/-- The chunk that a lane offers: the highest-numbered unstarted one while two are unstarted. `started` counts the
chunks that it has begun itself. -/
def offerOf (st : CorrStep) (lane started : Nat) : Option Nat :=
  match getK st.left lane [] with
  | [] => none
  | c :: _ =>
    let n := (c.ents.length + 63) / 64
    let taken := getK st.taken lane []
    let free := (List.range n).filter (fun i => decide (i ≥ max 1 started) && !taken.contains i)
    if free.length ≥ 2 then free.getLast? else none

/-- LANE_BORROW: an idle lane takes the nearest offer within 8, the lower lane on a tie. `walked` gives the chunks that
lanes have begun. -/
def laneBorrow (die lane : Nat) (walked : List (Nat × Nat)) (s : State) : State :=
  match getStep s die with
  | none => s
  | some st =>
    if frozen s || !laneIn s die lane || !(getK st.left lane []).isEmpty then s
    else
      let started (l : Nat) : Nat := ((walked.find? (fun e => e.1 = l)).map (·.2)).getD 1
      let cands := (List.range 8).flatMap (fun i => (if lane ≥ i + 1 then [lane - (i + 1)] else []) ++ [lane + (i + 1)])
      match cands.findSome? (fun l => (offerOf st l (started l)).map (fun ch => (l, ch))) with
      | none => s
      | some (l, ch) =>
        bumpPair (sphB die) 0x108 1
          (putStep die { st with
            lent := insertK st.lent lane (l, ch)
            taken := insertK st.taken l (getK st.taken l [] ++ [ch]) } s)

/-- The segments of a lane that leaves go to its taker, a chunk that it borrowed returns to its owner (R223). -/
def leaveLane (die lane : Nat) (st : CorrStep) (s : State) : State :=
  let k := takerOf s die lane
  let mine := getK st.left lane []
  let left := if mine.isEmpty then st.left else insertK (eraseK st.left lane) k (getK st.left k [] ++ mine)
  let back := match lookupK st.lent lane with
    | some (o, ch) => insertK st.taken o ((getK st.taken o []).filter (· ≠ ch))
    | none => st.taken
  putStep die { st with left := left, lent := eraseK (st.lent.filter (fun e => e.2.1 ≠ lane)) lane, taken := eraseK back lane } s

/-- Retires a lane (R223). -/
def retireLane (die lane holding : Nat) (s : State) : State :=
  let s1 := { s with cist := { s.cist with lanesOut := s.cist.lanesOut ++ [die * 16384 + lane] } }
  let s2 := setF (sphB die) F.sphLanesInService (getF s1 (sphB die) F.sphLanesInService - 1) s1
  let s3 := irqRaise (sphB die) 4 (siphonEvent holding die 0x5F [lane] s2)
  withSome (getStep s3 die) (leaveLane die lane) s3

/-- Counts a transient of a lane; true when it is the third within 2^32 cycles (R222). -/
def laneTransient (die lane cycle : Nat) (s : State) : Bool × State :=
  let k := die * 16384 + lane
  let old := (getK s.cist.laneTrans k []).filter (fun c => decide (cycle < c + 2 ^ 32))
  (decide (old.length ≥ 2), { s with cist := { s.cist with laneTrans := setK s.cist.laneTrans k (cycle :: old) [] } })

/-- LANE_CHANNEL_SEND (R222): the lane's current channel, with every lent chunk merged, passes its residue check; `bad`
is the number of mismatches of the channel and its repeat. The last channel of the last lane ends the step. -/
def laneChannelSend (die lane bad cycle time : Nat) (s : State) : State :=
  match getStep s die with
  | none => s
  | some st =>
    match getK st.left lane [] with
    | [] => s
    | c :: rest =>
      match (if frozen s then none else corrCtx s die st.for_) with
      | none => s
      | some x =>
        let n := c.ents.length * x.rows.length
        let (third, s0) := if bad = 1 then laneTransient die lane cycle s else (false, s)
        let s1 := whenB (bad = 1) (fun t =>
          siphonEvent x.c.holding die 0x5E [lane] (bumpF (sphB die) F.sphLanesTransients 1 t)) s0
        let s2 := countProducts die st.for_ (if bad = 0 then n else 2 * n) s1
        if bad ≥ 2 ∨ third then retireLane die lane x.c.holding s2
        else
          let v := corrChan x.rows c.ents
          let sent := insertK st.sent c.ch (match lookupK st.sent c.ch with | some o => o.zipWith (· + ·) v | none => v)
          let left := if rest.isEmpty then eraseK st.left lane else insertK st.left lane rest
          if left.isEmpty then
            corrFinish die st.for_ x sent time { s2 with cist := { s2.cist with steps := eraseK s2.cist.steps die } }
          else putStep die { st with left := left, sent := sent, taken := eraseK st.taken lane,
                                     lent := st.lent.filter (fun e => e.2.1 ≠ lane) } s2

/-! ### The tensiometer's switches (R237 to R239, R242) -/

/-- Changes every layer slot. -/
def mapLSlots (f : LSlot → LSlot) (s : State) : State :=
  { s with cist := { s.cist with lslots := (s.cist.lslots.map (fun e => (e.1, f e.2))).filter (fun e => e.2 ≠ {}) } }

/-- The next ring fence turns tripped layers off (R237). -/
def tensFence (s : State) : State :=
  mapLSlots (fun x => if x.tripDue then { x with tripped := true, tripDue := false } else x) s

/-- A step boundary applies re-arms and model-wide switches (R238, R239, R242), and repair entries come into force
(R190, R214). -/
def siphonBoundary (s : State) : State :=
  let s1 := mapLSlots (fun x =>
    let y := if x.rearmDue then { x with rearmDue := false, tripped := false, tripDue := false, fired := false, audits := 0, misses := 0 } else x
    match y.offDue with
    | some b => { y with off := b, offDue := none }
    | none => y) s
  { s1 with cist := { s1.cist with repairs := (s1.cist.repairs.filter (fun e => !e.gone)).map (fun e => { e with live := true }) } }

/-- The image that a switch or re-arm names: the holding's own, or for the board management controller a
module-owned one. -/
def switchImage (c : HostCmd) (s : State) : Option Image := ownImage s c.by_ c.handle

/-- PREDICTOR with ARG0 0 or 1 (R239); another ARG0 is refused with the row that turns it off (log entry 41). -/
def predictorSwitch (on : Bool) (src : CmdSrc) (s : State) : State :=
  let want := match src with
    | .host k => (s.hostCmds[k]?).map (fun c => decide (c.arg0 = 1) == on)
    | .board _ a => some (decide (a = 1) == on)
  if want = some true then
    takeCmd src 0x21 (fun c t =>
      match switchImage c t with
      | none => refuseCmd c 0x37 t
      | some im =>
        if c.arg0 ≥ 2 then refuseCmd c 0x37 t
        else ack c (mapLSlots (fun x =>
          if x.used && x.image = im.handle then { x with offDue := some !on } else x) t)) s
  else s

/-- REARM (R238): the tripped layers named lose their window and their trip at the next step boundary. -/
def rearm (src : CmdSrc) (s : State) : State :=
  takeCmd src 0x22 (fun c t =>
    match switchImage c t with
    | none => refuseCmd c 0x37 t
    | some im => ack c (mapLSlots (fun x =>
        if x.used && x.image = im.handle && (c.arg0 = 0xFFFFFFFF || x.layer = c.arg0) && (x.tripped || x.tripDue)
        then { x with rearmDue := true } else x) t)) s

/-! ### The commands -/

def execCorrectionStep (die : Die) (tgt : CorrTarget) (lanes repairBad : Bool) (time : Nat) (s : State) : Out :=
  .next (correctionStep die tgt lanes repairBad time s)
def execLaneBorrow (die : Die) (lane : Fin 16384) (walked : List (Fin 16384 × Nat)) (s : State) : Out :=
  .next (laneBorrow die.val lane.val (walked.map (fun e => (e.1.val, e.2))) s)
def execLaneChannelSend (die : Die) (lane : Fin 16384) (bad : Fin 3) (cycle time : Nat) (s : State) : Out :=
  .next (laneChannelSend die.val lane.val bad.val cycle time s)
def execPredictorOff (src : CmdSrc) (s : State) : Out := .next (predictorSwitch false src s)
def execPredictorOn (src : CmdSrc) (s : State) : Out := .next (predictorSwitch true src s)
def execRearm (src : CmdSrc) (s : State) : Out := .next (rearm src s)

end Sys2Proof.Machine
end

