-- ==== Sys2Proof/Machine/Intake.lean ====
section
/-!
DEFINITION. The load checks of the Intake (R245 to R250, R255 to R280, R285): header, digest, section table, tables,
Siphon lists, chains, courses and collectives of an image's control part, in the order that R249 gives.
-/

namespace Sys2Proof.Machine

/-- A failed check: its code, the item kind and index of ITK_LASTLOC, the offset of ITK_LASTOFF. -/
structure Bad where
  code : Nat
  item : Nat
  ix   : Nat
  off  : Nat
  deriving DecidableEq, Repr

/-- A check that holds, or its failure. -/
def chk (ok : Bool) (code item ix off : Nat) : Option Bad := if ok then none else some ⟨code, item, ix, off⟩

/-- The first failure of a list of checks. -/
def firstBad (l : List (Option Bad)) : Option Bad := l.findSome? id

/-! ### The control part as bytes -/

def ctlBytes (im : Image) (o n : Nat) : List Byte := (List.range n).map (fun i => getK im.ctl (o + i) 0)
def ctlLE (im : Image) (o n : Nat) : Nat := leVal (ctlBytes im o n)

/-- Are n bytes at an offset of a byte string zero? -/
def zeroAt (bs : List Byte) (o n : Nat) : Bool := decide (fieldLE bs o n = 0)

/-- The section table: type, offset, length (R246). -/
def sections (im : Image) : List (Nat × Nat × Nat) :=
  (List.range (ctlLE im 0x40 4)).map (fun k =>
    let o := ctlLE im 0x44 4 + 16 * k
    (ctlLE im o 1, ctlLE im (o + 4) 8, ctlLE im (o + 12) 4))

/-- Is a section TYPE control (R246)? -/
def isControl (t : Nat) : Bool := t ≠ 7 && t ≠ 8

/-- The entries of a TYPE, in table order. -/
def sectsOf (ss : List (Nat × Nat × Nat)) (t : Nat) : List (Nat × Nat) :=
  (ss.filter (fun e => e.1 = t)).map (fun e => e.2)

/-- The bytes of a control section, its entries concatenated. -/
def sectBytes (im : Image) (ss : List (Nat × Nat × Nat)) (t : Nat) : List Byte :=
  (sectsOf ss t).flatMap (fun e => ctlBytes im e.1 e.2)

/-- The length of a section. -/
def sectLen (ss : List (Nat × Nat × Nat)) (t : Nat) : Nat := ((sectsOf ss t).map (·.2)).foldl (· + ·) 0

/-- The end of the control part. -/
def controlEnd (im : Image) : Nat :=
  let ss := sections im
  (ss.filter (fun e => isControl e.1)).foldl (fun m e => max m (e.2.1 + e.2.2)) (ctlLE im 0x44 4 + 16 * ss.length)

/-- Entry k of a table of entries of n bytes. -/
def entries (bs : List Byte) (n : Nat) : List (List Byte) := (List.range (bs.length / n)).map (fun k => (bs.drop (n * k)).take n)

/-! ### Header, digest, sections -/

/-- 0x30 but for HBM_PAGES. -/
def headerBad (im : Image) : Option Bad :=
  let c (ok : Bool) (o : Nat) := chk ok 0x30 0 0 o
  firstBad [
    c (ctlLE im 0 4 = 0x31584447) 0, c (ctlLE im 4 2 = 1) 4, c (decide (ctlLE im 6 1 < 8)) 6,
    c (ctlLE im 7 1 = (if im.owner = 15 then 1 else 0)) 7, c (ctlLE im 8 8 = im.size) 8,
    c (decide (1 ≤ ctlLE im 0x40 4) && decide (ctlLE im 0x40 4 ≤ 256)) 0x40, c (ctlLE im 0x44 4 % 64 = 0) 0x44,
    c (ctlLE im 0x48 2 = 4) 0x48, c (decide (ctlLE im 0x4C 4 ≤ 7680)) 0x4C,
    c (decide (1 ≤ ctlLE im 0x54 4) && decide (ctlLE im 0x54 4 ≤ 1048576)) 0x54,
    c (decide (ctlLE im 0x58 4 ≤ 65535)) 0x58,
    c (decide (1 ≤ ctlLE im 0x5C 2) && decide (ctlLE im 0x5C 2 ≤ 1024)) 0x5C,
    c (decide (1 ≤ ctlLE im 0x5E 1) && decide (ctlLE im 0x5E 1 ≤ 16)) 0x5E,
    c (decide (6 ≤ ctlLE im 0x5F 1) && decide (ctlLE im 0x5F 1 ≤ 8)) 0x5F]

/-- SHA-384 over the header with bytes 0x010 to 0x03F as zero, then every control section (R248). -/
def controlDigest (im : Image) : List Byte :=
  let hdr := ctlBytes im 0 0x10 ++ List.replicate 0x30 0 ++ ctlBytes im 0x40 0x40
  sha384 (hdr ++ ((sections im).filter (fun e => isControl e.1)).flatMap (fun e => ctlBytes im e.2.1 e.2.2))

/-- 0x33: the section table (R246, R249). -/
def sectionsBad (im : Image) : Option Bad :=
  let ss := sections im
  let so := ctlLE im 0x44 4
  let c (ok : Bool) (k o : Nat) := chk ok 0x33 1 k o
  let each := ss.mapIdx (fun k e =>
    firstBad [c (decide (1 ≤ e.1) && decide (e.1 ≤ 9)) k 0, c (ctlLE im (so + 16 * k + 1) 3 = 0) k 1,
      c (decide (e.2.1 + e.2.2 ≤ im.size) && decide (so + 16 * ss.length ≤ e.2.1)) k 4])
  let order := ss.mapIdx (fun k e =>
    match ss[k + 1]? with
    | none => none
    | some n => c (decide (e.2.1 + e.2.2 ≤ n.2.1) && (isControl e.1 || !isControl n.1)) (k + 1) 4)
  let reps := ss.mapIdx (fun k e =>
    c (e.1 = 6 || e.1 = 7 || e.1 = 8 || (ss.take k).all (fun x => x.1 ≠ e.1)) k 0)
  let need (t : Nat) : Option Bad := c (ss.any (fun e => e.1 = t)) 0 0xFFFF
  firstBad (each ++ order ++ reps ++ [need 1, need 5,
    if ctlLE im 0x4C 4 > 0 then need 2 else none, if ctlLE im 0x4C 4 > 0 then need 8 else none,
    if ctlLE im 0x58 4 > 0 then need 4 else none])

/-! ### Region, plot and copy tables (R247) -/

/-- A region of a table entry; its base is set when its pages are taken. -/
def parseRegion (e : List Byte) : Region :=
  { num := fieldLE e 0 1, res := decide (fieldLE e 1 1 = 1), die := fieldLE e 2 1, hkey := fieldLE e 3 1
    size := fieldLE e 8 8, init := decide (fieldLE e 4 1 = 1), dataOff := fieldLE e 0x10 8, dataLen := fieldLE e 0x18 8 }

def regionsBad (im : Image) (es : List (List Byte)) (dataLen : Nat) : Option Bad :=
  let rs := es.map parseRegion
  firstBad (es.mapIdx (fun k e =>
    let r := parseRegion e
    let c (ok : Bool) (o : Nat) := chk ok 0x33 7 k o
    firstBad [c (decide (r.num ≤ 254) && (k = 0 || decide ((rs.getD (k - 1) r).num < r.num))) 0, c (decide (fieldLE e 1 1 ≤ 1)) 1,
      c (decide (r.die ≤ 3)) 2, c (decide (r.hkey ≤ 7) && (!r.res || r.hkey = 0)) 3, c (decide (fieldLE e 4 1 ≤ 1)) 4,
      c (zeroAt e 5 3) 5, c (decide (r.size > 0) && r.size % (if r.res then 128 else 0x200000) = 0) 8,
      c (r.dataOff % 64 = 0 && (r.init || r.dataOff = 0) && decide (r.dataOff + r.dataLen ≤ dataLen || r.dataLen = 0)) 0x10,
      c (decide (r.dataLen ≤ r.size) && (r.init || r.dataLen = 0)) 0x18])
    ++ [chk (ctlLE im 0x50 4 = ((rs.map (fun r => pagesFor r.size)).foldl (· + ·) 0)) 0x30 0 0 0x50])

def plotsBad (im : Image) (es : List (List Byte)) : Option Bad :=
  firstBad (es.mapIdx (fun k e =>
    let c (ok : Bool) (o : Nat) := chk ok 0x34 5 k o
    firstBad [c (fieldLE e 0 2 = k) 0, c (decide (fieldLE e 2 1 ≤ 3)) 2, c (decide (fieldLE e 3 1 ≤ 1)) 3,
      c (decide (fieldLE e 4 1 ≤ 1)) 4, c (zeroAt e 5 3) 5])
    ++ [chk (es.length = ctlLE im 0x4C 4) 0x34 5 es.length 0xFFFF])

/-- R39 and *Table: Copy table entry*; that the groups have records is known only when those arrive (log entry 47). -/
def copiesBad (im : Image) (es : List (List Byte)) : Option Bad :=
  firstBad (es.mapIdx (fun k e =>
    let c (ok : Bool) (o : Nat) := chk ok 0x35 6 k o
    firstBad [c (decide (fieldLE e 0 2 < ctlLE im 0x4A 2)) 0, c (decide (fieldLE e 4 1 ≤ 1)) 4, c (zeroAt e 5 1) 5,
      c (decide (1 ≤ fieldLE e 6 2) && decide (fieldLE e 6 2 ≤ 4096)) 6,
      c (!((ctlLE im 6 1).testBit 0 || (ctlLE im 6 1).testBit 2) || fieldLE e 4 1 = 0 || decide (fieldLE e 8 2 ≤ 78)) 8,
      c (ctlLE im 0x4C 4 > 0) 0x0A, c (zeroAt e 0x0E 2) 0x0E]))

/-! ### Siphon lists (R211 to R213) -/

/-- The list offsets that courses name, on a die, ascending. -/
def listOffs (courses : List (List Byte)) (die : Nat) : List Nat :=
  (((courses.filter (fun d => dList d && dDie d = die)).map (fun d => physAddr (dL d))).mergeSort (fun a b => decide (a ≤ b))).eraseDups

/-- The bytes of a list in the section. -/
def listLen (sec : List Byte) (o : Nat) : Nat := fieldLE sec (o + 0x20) 4 + 4 * fieldLE sec (o + 0x14) 4

/-- The words of a segment of a list in the section. -/
def secSeg (sec : List Byte) (o l : Nat) : List Nat :=
  let r := o + fieldLE sec (o + 0x1C) 4 + 8 * l
  (List.range (fieldLE sec (r + 4) 3)).map (fun i => fieldLE sec (o + fieldLE sec (o + 0x20) 4 + 4 * (fieldLE sec r 4 + i)) 4)

/-- Do channels ascend and lie below CHANNELS, and rows below ROWS (R211)? -/
def chansOk (cs : List ListChan) (chans rows : Nat) : Bool :=
  (cs.zip (cs.drop 1)).all (fun e => decide (e.1.ch < e.2.ch)) &&
    cs.all (fun c => decide (c.ch < chans) && c.ents.all (fun x => decide (x.1 < rows) && x.2 ≠ 0))

def listBad (sec : List Byte) (k o : Nat) : Option Bad :=
  let f (a n : Nat) : Nat := fieldLE sec (o + a) n
  let h (ok : Bool) (a : Nat) := chk ok 0x23 3 k a
  let lanes := o + f 0x1C 4
  let words := o + f 0x20 4
  let hdr := firstBad [h (f 0 4 = 0x4C485053) 0, h (f 4 1 = 0) 4, h (decide (f 5 1 ≤ 1)) 5,
    h (decide (1 ≤ f 0x0C 4) && decide (f 0x0C 4 ≤ 32768)) 0x0C, h (decide (1 ≤ f 0x10 4) && decide (f 0x10 4 ≤ 65536)) 0x10,
    h (f 0x1C 4 % 64 = 0) 0x1C, h (f 0x20 4 % 64 = 0) 0x20, h (f 0x30 16 = 0) 0x30,
    h (decide (words + 4 * f 0x14 4 ≤ sec.length) && decide (lanes + 131072 ≤ sec.length)) 0x14,
    h (crc32c (((sec.drop lanes).take 131072) ++ ((sec.drop words).take (4 * f 0x14 4))) = f 0x2C 4) 0x2C]
  let s (ok : Bool) := chk ok 0x24 3 k 0xFFFF
  let segs := (List.range 16384).map (fun l => let ws := secSeg sec o l; parseSeg ws.length ws)
  let all := segs.filterMap id
  let chs := all.flatMap (fun cs => cs.map (·.ch))
  firstBad [hdr, s (segs.all (·.isSome)), s (all.all (fun cs => chansOk cs (f 0x10 4) (f 0x0C 4))),
    s (decide (chs.eraseDups.length = chs.length)),
    h (f 0x24 4 = ((all.flatMap (fun cs => cs.map (fun c => c.ents.length))).foldl max 0)) 0x24]

/-! ### Courses (R255 to R269, R274) -/

/-- What the checks of a course need of its image. -/
structure LoadCtx where
  im      : Image
  regions : List Region
  plotFmt : List Nat
  chains  : List (List Byte)
  courses : List (List Byte)
  colls   : List (List Byte)

def regOf (x : LoadCtx) (a : Nat) : Option Region := x.regions.find? (fun r => r.num = a / 2 ^ 56)

/-- Is an address none, in the scratchpad window, or in a region with an extent [lo, hi) about its offset? -/
def extentOk (x : LoadCtx) (a : Nat) (lo hi : Int) : Bool :=
  a = 0 || (a / 2 ^ 48 % 256 = 0 &&
    (a / 2 ^ 56 = 255 ||
      (match regOf x a with
       | none => false
       | some r => decide (0 ≤ (a % 2 ^ 48 : Nat) + lo) && decide ((a % 2 ^ 48 : Nat) + hi ≤ (r.size : Int)))))

/-- The reach of strides at the ceilings. -/
def reach (strides : List Int) (its : List Nat) : Int × Int :=
  let ends := strides.zipWith (fun st it => st * ((it - 1 : Nat) : Int)) its
  ((ends.map (min 0)).foldl (· + ·) 0, (ends.map (max 0)).foldl (· + ·) 0)

def isDim (d : List Byte) (k dim : Nat) : Bool := (dLevel d k).dim = dim
def dimCount (d : List Byte) (dim : Nat) : Nat := ((dLevels d).filter (fun l => l.dim = dim)).length
def l0 (d : List Byte) : Level := dLevel d 0

/-- The elements of one X tile and one Y tile, in bytes; 0 where the size is not the descriptor's. -/
def xTileBytes (d : List Byte) : Nat :=
  match dKind d with
  | 1 => xTileMat d
  | 3 => (l0 d).bound * 2 ^ (6 + dGlog d)
  | 4 => elemBytes (latFmtX (dXfmt d)) (tileToks d)
  | 5 => if dOp d = 0x20 || dOp d = 0x24 then 0
    else if dOp d = 0x23 then (tileToks d - 1) * (dParam d).toNat + max 1 (fmtBits (latFmtX (dXfmt d)) / 8)
    else elemBytes (latFmtX (dXfmt d)) (tileToks d)
  | _ => 0

/-- A frame's largest bytes, or a plain vector's. -/
def outVec (d : List Byte) (n : Nat) : Nat :=
  let f := latFmtY (dYfmt d)
  if (dScales d).testBit 3 then frameStride f n
  else if (dScales d).testBit 2 || dOp d = 0x12 then roundUp 64 n + 4 else elemBytes f n

def outTileBytes (d : List Byte) : Nat :=
  match dKind d with
  | 1 => if (dScales d).testBit 3 then dT d * frameStride (yfmtOf (dYfmt d)) (dNe d)
    else if dCout d && dYfmt d = 0 then 32768 else yTileBytes d
  | 2 => (tileToks d) * basinNe d * (fmtBits (yfmtOf (dYfmt d)) / 8)
  | 3 => if dCout d then (l0 d).bound * roundUp 64 (8 + 4 * 2 ^ (6 + dGlog d)) else (l0 d).bound * 2 ^ (6 + dGlog d)
  | 4 => if dOp d = 0x14 then 4 * (tileToks d) else if dOp d = 0x17 then 4 else outVec d (tileToks d)
  | _ =>
    let xb := fmtBits (latFmtX (dXfmt d))
    let k := tileToks d
    elemBytes (latFmtY (dYfmt d))
      (if dOp d = 0x22 then roundUp (32768 / xb) k else if dOp d = 0x23 && xb = 4 then 2 * k else k)

/-- Is a course's exponent line counted in its slot (R269, R280)? -/
def slotBytesOf (d : List Byte) : Nat :=
  roundUp 64 (outTileBytes d) + (if (dKind d ≤ 2 && dYfmt d = 0) || (dKind d = 4 && dOp d = 0x14) then 64 else 0)

/-- 0x10 and 0x11. -/
def formBad (n i : Nat) (d : List Byte) : List (Option Bad) :=
  let c (ok : Bool) (o : Nat) := chk ok 0x10 2 i o
  let nl := dNlev d
  [c (fieldLE d 0 2 = 1) 0, c (dFlags d / 32 % 4 = 0) 3, c (dId d = i) 4, c (decide (dRoles d < 8)) 0x0A,
   c (dExec d % 256 / 128 = 0 && dExec d / 1024 = 0) 0x0C, c (decide (dContrib d ≤ 255) && (dCout d || dContrib d = 0)) 0x0E,
   c (decide (dGlog d ≤ 6)) 0x14, c (decide (fieldLE d 0x15 1 < 8)) 0x15, c (dKind d = 2 || dWeir d = 0) 0x17,
   c (decide (dScales d < 32)) 0x18, c (decide (1 ≤ nl) && decide (nl ≤ 6)) 0x19,
   c ((List.range 6).all (fun k => fieldLE d (0x20 + 24 * k + 3) 1 = 0)) 0x23,
   c ((dLevels d).all (fun l => l.bsrc ≠ 0 || l.bref = 0)) 0x22,
   c (fieldLE d (0x20 + 24 * nl) (144 - 24 * nl) = 0) (0x20 + 24 * nl), c (fieldLE d 0xF4 8 = 0) 0xF4,
   c ((dCin d || dCinIx d = 0xFFFF) && (!dCin d || dCinIx d ≠ 0xFFFF)) 0xF0,
   c ((dCout d || dCoutIx d = 0xFFFF) && (!dCout d || dCoutIx d ≠ 0xFFFF)) 0xF2,
   c (decide (i + 1 < n) || dLast d) 3,
   chk (crc32c (d.take 0xFC) = fieldLE d 0xFC 4) 0x11 2 i 0xFC]

/-- Is an FP32 pattern a whole number from 1 to 16 (R127)? -/
def wholeK (w : Word) : Bool := (List.range 16).any (fun k => w = fOfInt ((k : Int) + 1))

/-- 0x12: KIND, OP and PARAM. -/
def kindBad (i : Nat) (d : List Byte) : List (Option Bad) :=
  let c (ok : Bool) (o : Nat) := chk ok 0x12 2 i o
  let es := max 1 (fmtBits (latFmtX (dXfmt d)) / 8)
  [c (decide (1 ≤ dKind d) && decide (dKind d ≤ 5)) 2, c (dCtl d == (dKind d = 2)) 0x0C,
   c (match dKind d with
      | 4 => decide (0x10 ≤ dOp d) && decide (dOp d ≤ 0x17)
      | 5 => decide (0x20 ≤ dOp d) && decide (dOp d ≤ 0x24)
      | 3 => dOp d = 0
      | _ => decide (dOp d ≤ 6)) 0x13,
   c (decide (dKind d ≥ 3) || dOp d ≠ 6 || dPreload d = 0) 0x15,
   c (dKind d ≠ 4 || dOp d ≠ 0x14 || wholeK (dParam d)) 0x1C,
   c (dKind d ≠ 5 || dOp d ≠ 0x23 || ((dParam d).toNat % es = 0 && decide (es ≤ (dParam d).toNat) && decide ((dParam d).toNat ≤ 65536))) 0x1C]

def latCode (c : Nat) (top : Nat) : Bool := decide (c ≤ top) || (decide (0x10 ≤ c) && decide (c ≤ 0x14))

/-- 0x14: formats. -/
def formatBad (i : Nat) (d : List Byte) : List (Option Bad) :=
  let c (ok : Bool) (o : Nat) := chk ok 0x14 2 i o
  let lat := decide (dKind d ≥ 4)
  [c (if lat then dWfmt d = 0 else decide (dWfmt d ≤ 1)) 0x10, c (dKind d ≠ 3 || dWfmt d = 0) 0x10,
   c (if lat then latCode (dXfmt d) 3 else decide (dXfmt d ≤ 3)) 0x11, c (dKind d ≠ 3 || dXfmt d = 0) 0x11,
   c (if lat then latCode (dYfmt d) 6 else decide (dYfmt d ≤ 6)) 0x12,
   c (dYfmt d ≠ 6 || (dScales d).testBit 2 || (dKind d = 4 && dOp d = 0x12)) 0x12,
   c (dKind d ≠ 4 || dOp d ≠ 0x12 || dYfmt d = 6) 0x12]

/-- 0x15 to 0x19: levels and bounds. -/
def levelBad (i : Nat) (d : List Byte) : List (Option Bad) :=
  let ls := dLevels d
  let its := ceilIters d
  let at_ (k : Nat) : Nat := 0x20 + 24 * k
  let kd := dKind d
  let free := decide (kd ≥ 4)
  let dims := ls.mapIdx (fun k l => chk (decide (1 ≤ l.dim) && decide (l.dim ≤ 6) &&
      (match kd with
       | 1 => decide (l.dim ≤ 3) || l.dim = 6
       | 2 => l.dim = 1 || l.dim = 2 || l.dim = 6
       | 3 => l.dim = 1 || l.dim = 4 || l.dim = 5 || l.dim = 6
       | _ => l.dim = 1 || l.dim = 6)) 0x15 2 i (at_ k))
  let counts := [chk (free || ((l0 d).dim = 1 && dimCount d 1 = 1)) 0x15 2 i 0x20,
    chk (free || (decide (dimCount d 2 ≤ 1) && decide (dimCount d 3 ≤ 1) && decide (dimCount d 4 ≤ 1) && decide (dimCount d 5 ≤ 1))) 0x15 2 i 0x20,
    chk (kd ≠ 3 || decide (ls.length ≤ 2)) 0x15 2 i 0x19]
  let live := (List.range ls.length).filter (fun k => its.getD k 0 ≠ 1)
  let ws := live.filter (fun k => (ls.getD k (l0 d)).ws ≠ 0)
  let order := [chk (free || (match ws with
      | [] => true
      | a :: _ => (live.filter (fun k => decide (a ≤ k) && decide (k ≤ ws.getLastD a))).all (fun k => ws.contains k) && a ≠ 0)) 0x16 2 i 0xFFFF]
  let step (dim : Nat) (ok : Nat → Bool) : Option Bad :=
    match ls.findIdx? (fun l => l.dim = dim) with
    | some k => chk (ok (ls.getD k (l0 d)).step) 0x17 2 i (at_ k + 8)
    | none => none
  let steps := match kd with
    | 1 => [step 1 (fun s => decide (s ≤ dT d)), step 2 (fun s => s = (64 / dG d) * dCh d), step 3 (fun s => s = 64 * dG d)]
    | 2 => [step 1 (fun s => decide (s ≤ 64)), step 2 (fun s => s = basinNe d)]
    | 3 => [chk ((l0 d).step = (l0 d).bound) 0x17 2 i 0x28, step 5 (fun s => s = 1)]
    | 4 => [chk (dOp d = 0x15 || dOp d = 0x16 || (l0 d).step = (l0 d).bound) 0x17 2 i 0x28]
    | _ => []
  let bounds := ls.mapIdx (fun k l => chk (decide (1 ≤ l.bound) && decide (l.bound ≤ 16777216) && decide (1 ≤ l.step) &&
      decide (l.step ≤ 16777216) && (k ≠ 0 || kd ≠ 1 || decide (l.bound ≤ 512)) && (k ≠ 0 || kd ≠ 3 || decide (l.bound ≤ 1024))) 0x18 2 i (at_ k + 4))
  let srcs := (ls.mapIdx (fun k l =>
    [chk (decide (l.bsrc ≤ 2) && (decide (kd ≥ 3) || (l.dim ≠ 2 && l.dim ≠ 3) || l.bsrc = 0)) 0x19 2 i (at_ k + 1),
     chk ((l.bsrc ≠ 1 || decide (l.bref ≤ 15)) && (l.bsrc ≠ 2 || decide (l.bref ≤ 3))) 0x19 2 i (at_ k + 2),
     chk (l.bsrc ≠ 2 || dBmem d ≠ 0) 0x19 2 i 0xD8])).flatten
  dims ++ counts ++ order ++ steps ++ bounds ++ srcs

/-- The PADDR operand of a course: its strides and its bytes (R124, R127, R129, R257, R269, R652). -/
def pOperand (d : List Byte) : List Int × Nat :=
  let ls := dLevels d
  let rows := prodL ((ceilIters d).drop 1)
  match dKind d with
  | 1 => (if dOp d = 6 then ls.map (·.ys) else [], preBytes d)
  | 2 => if dOp d = 6 then (ls.map (·.ys), outTileBytes d) else ([], 0)
  | 4 =>
    if dOp d = 0x10 then (ls.map (·.ws), 4 * (l0 d).bound)
    else if dOp d = 0x11 then (ls.map (·.ws), 8 * (l0 d).bound)
    else if dOp d = 0x14 then ([], if dCout d then 0 else 4 * (l0 d).bound)
    else if dOp d = 0x15 || dOp d = 0x16 then (ls.map (·.xs), elemBytes (latFmtX (dXfmt d)) (l0 d).step)
    else if dOp d = 0x17 then ([], 32 * rows)
    else ([], 0)
  | _ => ([], 0)

/-- The Y operand of a course: its strides and its bytes; routing and SAMPLE write row after row (R127, R129). -/
def yOperand (d : List Byte) : List Int × Nat :=
  let rows := prodL ((ceilIters d).drop 1)
  if dKind d = 4 && dOp d = 0x14 then ([], 80 * rows)
  else if dKind d = 4 && dOp d = 0x17 then ([], 4 * rows)
  else ((dLevels d).map (·.ys), outTileBytes d)

/-- The X operand of a course: its strides and its bytes; SAMPLE reads row after row (R129). -/
def xOperand (d : List Byte) : List Int × Nat :=
  if dKind d = 4 && dOp d = 0x17 then ([], 4 * (l0 d).bound * prodL ((ceilIters d).drop 1))
  else ((dLevels d).map (·.xs), xTileBytes d)

/-- 0x1A and 0x1B: addresses. -/
def addrBad (x : LoadCtx) (i : Nat) (d : List Byte) : List (Option Bad) :=
  let ls := dLevels d
  let its := ceilIters d
  let ext (a : Nat) (st : List Int) (n : Nat) : Bool := let r := reach st its; extentOk x a r.1 (r.2 + n)
  let o (ok : Bool) (f : Nat) := chk ok 0x1A 2 i f
  let al (ok : Bool) (f : Nat) := chk ok 0x1B 2 i f
  let m64 (a : Nat) : Bool := a % 2 ^ 48 % 64 = 0
  [o (dCin d && !partialFromCin d || ext (dX d) (xOperand d).1 (xOperand d).2) 0xB0,
   o (dKind d = 2 || ext (dW d) (ls.map (·.ws)) (if dKind d = 1 then 262144 else 0)) 0xB8,
   o (dCout d && dOp d ≠ 0x14 || ext (dY d) (yOperand d).1 (yOperand d).2) 0xC0,
   o (ext (dP d) (pOperand d).1 (pOperand d).2) 0xC8,
   o (extentOk x (dBmem d) 0 16 && dBmem d / 2 ^ 56 ≠ 255) 0xD8,
   al (m64 (dX d)) 0xB0, al (dKind d = 2 || m64 (dW d)) 0xB8, al (m64 (dY d)) 0xC0, al (m64 (dP d)) 0xC8,
   al (dBmem d % 16 = 0) 0xD8, al (dSxoff d % 4 = 0) 0xE0, al (dSwoff d % 4 = 0) 0xE4, al (dPkoff d % 64 = 0) 0xE8,
   al (dExpoff d % 64 = 0) 0xEC]
  ++ ls.mapIdx (fun k l => al (its.getD k 1 = 1 || (l.xs % 64 = 0 && (dKind d = 2 || l.ws % 64 = 0) && l.ys % 64 = 0)) (0x20 + 24 * k + 12))

/-- The scratchpad regions of a course (R267). -/
def budgetRanges (d : List Byte) : List Range :=
  let its := ceilIters d
  let r (a : Nat) (o : List Int × Nat) : List Range := if o.2 = 0 then [] else (walkRange a o.1 its o.2).toList
  if dKind d = 1 then roRanges d ++ rwRanges d
  else
    (if dCin d then [] else r (dX d) (xOperand d))
      ++ (if dCout d && dOp d ≠ 0x14 then [] else r (dY d) (yOperand d))
      ++ r (dP d) (pOperand d)

def disjointRanges : List Range → Bool
  | [] => true
  | r :: rs => rs.all (fun q => decide (r.hi ≤ q.lo) || decide (q.hi ≤ r.lo)) && disjointRanges rs

/-- The place of a chain's slots (log entry 46): the window address, or the region's offset. -/
def chainLocal (e : List Byte) (d : List Byte) : List Range :=
  let a := fieldLE e 0 8
  if a / 2 ^ 56 = 255 && a % 2 ^ 48 / 0x4000000 = dDie d * 64 + dAcre d then
    [⟨a % 0x4000000, a % 0x4000000 + fieldLE e 0x0C 2 * fieldLE e 8 4⟩] else []

/-- 0x1C to 0x21 and 0x28, 0x29: accumulators, budget, weir, reduction, basins, preload, Screen. -/
def ruleBad (x : LoadCtx) (i : Nat) (d : List Byte) : List (Option Bad) :=
  let its := ceilIters d
  let kd := dKind d
  let rs := budgetRanges d ++ (if dCin d then (x.chains[dCinIx d]?).elim [] (chainLocal · d) else [])
    ++ (if dCout d then (x.chains[dCoutIx d]?).elim [] (chainLocal · d) else [])
  let redIt := (dimPos d 3).elim 1 (fun k => its.getD k 1)
  let cout := x.chains[dCoutIx d]?
  let gather := dCout d && (match cout with | some e => fieldLE e 0x0E 1 = 1 | none => false)
  let plots := (List.range (prodL its)).map (fun n => addStride (physAddr (dW d)) ((dLevels d).map (·.ws)) (indexOf its n) % 2 ^ 21 / 256)
  let yIn := dY d / 2 ^ 56 = 255
  [chk (kd ≠ 1 || decide (dG d * 0 + (l0 d).step * dNe d ≤ 8192)) 0x1C 2 i 0x28,
   chk (kd ≠ 1 || decide (nLive d ≤ 2) || dPark d || redIt = 1) 0x1C 2 i 0x15,
   chk (kd ≠ 1 || !dYield d || redIt = 1 || dPark d) 0x1C 2 i 0x15,
   chk (decide (dSpadKib d ≤ 2048)) 0x1D 2 i 0x1A,
   chk (kd = 2 || (decide ((rs.map (fun r => r.hi - r.lo)).foldl (· + ·) 0 ≤ dSpadKib d * 1024) && disjointRanges rs && rs.all (fun r => decide (r.hi ≤ 0x200000)))) 0x1D 2 i 0xFFFF,
   chk (kd ≠ 2 || dWeir d = 0x40 || dWeir d = 0x20 || dWeir d = 0x10) 0x1E 2 i 0x17,
   chk (decide (dRedmode d ≤ 2) && (decide (kd ≤ 2) || dRedmode d = 0)) 0x1F 2 i 0x16,
   chk (dRedmode d ≠ 1 || (decide (dYfmt d ≤ 1) && !yIn && !dCout d && dY d ≠ 0)) 0x1F 2 i 0x16,
   chk (dRedmode d ≠ 2 || (decide (dYfmt d ≤ 1) && gather)) 0x1F 2 i 0x16,
   chk (kd ≠ 1 || dRedmode d ≠ 0 || dCout d || yIn || (dScales d).testBit 3) 0x1F 2 i 0xC0,
   chk (kd ≠ 2 || plots.all (fun p => (x.plotFmt[p]?) = some (if dWfmt d = 0 then 1 else 0))) 0x21 2 i 0xB8,
   chk (match dPreload d with
      | 0 => true
      | 3 => kd = 1 && (dP d ≠ 0 || dCin d)
      | _ => kd = 1 && dP d / 2 ^ 56 = 255) 0x28 2 i 0x15,
   chk (!(dScales d).testBit 3 || (!yIn && decide (2 ≤ dYfmt d) && decide (dYfmt d ≤ 6) && decide (kd ≤ 2) &&
      (match cout with | some e => !dCout d || fieldLE e 7 1 ≠ 255 | none => true))) 0x29 2 i 0x18,
   chk (!(dScales d).testBit 4 || (kd = 2 && decide (dXfmt d ≤ 1))) 0x29 2 i 0x18]

/-- A course's checks in ascending order of code. -/
def courseBad (x : LoadCtx) (i : Nat) (d : List Byte) : Option Bad :=
  firstBad (formBad x.courses.length i d ++ kindBad i d ++ formatBad i d ++ levelBad i d ++ addrBad x i d ++ ruleBad x i d)

/-! ### Chains (R276 to R280) -/

/-- The input tile that a consumer reads from a slot. -/
def inTileBytes (d : List Byte) : Nat := if partialFromCin d then 32768 + 64 else xTileBytes d

/-- Does a consumer's input format agree with FMT (R280)? -/
def inFmtOk (d : List Byte) (fmt : Nat) : Bool :=
  if partialFromCin d then fmt = 0
  else if dOp d = 0x24 || (dScales d).testBit 4 || (dKind d = 4 && dOp d = 0x15 && fmt = 0) || dKind d = 3 then true
  else yfmtOf fmt = (if dKind d ≥ 4 then latFmtX (dXfmt d) else
    match xfmtOf (dXfmt d) with | .int8 => .int8 | .uint8 => .uint8 | .int4 => .int4 | .uint4 => .uint4)

def chainBad (x : LoadCtx) (k : Nat) (e : List Byte) : Option Bad :=
  let loc := fieldLE e 0 8
  let sb := fieldLE e 8 4
  let n := fieldLE e 0x0C 2
  let gather := fieldLE e 0x0E 1 = 1
  let fmt := fieldLE e 0x0F 1
  let prod := fieldLE e 0x10 4
  let nc := fieldLE e 0x14 1
  let cons := (List.range 4).map (fun j => fieldLE e (0x20 + 4 * j) 4)
  let outs := x.courses.filter (fun d => dCout d && dCoutIx d = k)
  let ins := x.courses.filter (fun d => dCin d && dCinIx d = k)
  let isColl (v : Nat) : Bool := decide (v ≥ 0x80000000) && decide (v < 0x80000000 + x.colls.length)
  let c (ok : Bool) (o : Nat) := chk ok 0x26 4 k o
  firstBad [
    chk (extentOk x loc 0 (n * sb) && loc ≠ 0) 0x1A 4 k 0, chk (loc % 2 ^ 48 % 64 = 0) 0x1B 4 k 0,
    c (sb % 64 = 0 && decide (sb > 0)) 8, c (if gather then decide (1 ≤ n) && decide (n ≤ 256) else decide (2 ≤ n) && decide (n ≤ 4096)) 0x0C,
    c (decide (fieldLE e 0x0E 1 ≤ 1)) 0x0E, c (decide (fmt ≤ 6)) 0x0F, c (decide (1 ≤ nc) && decide (nc ≤ 4)) 0x14, c (zeroAt e 0x15 11) 0x15,
    c ((cons.drop nc).all (· = 0xFFFFFFFF)) 0x20,
    c (if gather then prod = 0xFFFFFFFF && (List.range n).all (fun j => (outs.filter (fun d => dContrib d = j)).length = 1) && outs.all (fun d => decide (dContrib d < n))
       else (isColl prod && outs.isEmpty) || (outs.length = 1 && outs.all (fun d => dId d = prod))) 0x10,
    c (outs.all (fun d => slotBytesOf d = sb)) 8, c (outs.all (fun d => (if dOp d = 0x14 then 0 else dYfmt d) = fmt || dKind d ≥ 3)) 0x0F,
    c (ins.all (fun d => decide (inTileBytes d ≤ sb))) 8, c (ins.all (fun d => inFmtOk d fmt)) 0x0F,
    c (ins.all (fun d => (cons.take nc).contains (dId d))) 0x20,
    c ((cons.take nc).all (fun v => isColl v || decide (v < x.courses.length))) 0x20]

/-- Courses that name a chain that does not exist, or break R279. -/
def chainRefBad (x : LoadCtx) (i : Nat) (d : List Byte) : Option Bad :=
  let c (ok : Bool) (o : Nat) := chk ok 0x26 2 i o
  firstBad [c (!dCin d || decide (dCinIx d < x.chains.length)) 0xF0, c (!dCout d || decide (dCoutIx d < x.chains.length)) 0xF2,
    c (!dCin d || partialFromCin d || (dLevels d).all (fun l => l.xs = 0)) 0x2C,
    c (!dCout d || dOp d = 0x14 || (dLevels d).all (fun l => l.ys = 0)) 0x34]

/-- The list of each course (R651). -/
def listNos (cs : List (List Byte)) : List Nat :=
  (cs.foldl (fun (a : List Nat × Nat) d => (a.1 ++ [a.2], if dLast d then a.2 + 1 else a.2)) ([], 0)).1

/-- Edges producer to consumer inside one list: course indices. -/
def chainEdges (x : LoadCtx) : List (Nat × Nat) :=
  let ln := listNos x.courses
  ((List.range x.courses.length).flatMap (fun i =>
    match x.courses[i]? with
    | none => []
    | some d =>
      if !dCout d then []
      else match x.chains[dCoutIx d]? with
        | none => []
        | some e => ((List.range (fieldLE e 0x14 1)).map (fun j => fieldLE e (0x20 + 4 * j) 4)).filterMap (fun v =>
            if decide (v < x.courses.length) && ln[v]? = ln[i]? then some (i, v) else none)))

/-- Nodes left after n rounds of removing those with no incoming edge. -/
def peel : Nat → List Nat → List (Nat × Nat) → List Nat
  | 0, ns, _ => ns
  | n + 1, ns, es =>
    let keep := ns.filter (fun v => es.any (fun e => e.2 = v && ns.contains e.1))
    if keep.length = ns.length then ns else peel n keep es

def cycleBad (x : LoadCtx) : Option Bad :=
  match peel (x.courses.length + 1) (List.range x.courses.length) (chainEdges x) with
  | [] => none
  | v :: _ => some ⟨0x27, 2, v, 0xFFFF⟩

/-! ### Budgets across images (R320, R331) -/

/-- Is an image accepted and not yet released? -/
def holdsBudget (im : Image) : Bool := im.accepted && im.st ≠ .refused

/-- Gate entries of chain entries in one table: an acre window (die × 64 + acre), or a die (256 + die). -/
def gateNeed (regions : List Region) (es : List (Nat × Nat)) (table : Nat) : Nat :=
  ((es.filter (fun e =>
    (if e.1 / 2 ^ 56 = 255 then e.1 % 2 ^ 48 % 2 ^ 34 / 0x4000000
     else 256 + ((regions.find? (fun r => r.num = e.1 / 2 ^ 56)).elim 0 (·.die))) = table)).map (·.2)).foldl (· + ·) 0

/-- The chain places and slot counts of an accepted image. -/
def imageSlots (im : Image) : List (Nat × Nat) := im.chains.map (fun c => (c.loc, c.slots))

def gateBad (s : State) (x : LoadCtx) : Option Bad :=
  let mine := x.chains.map (fun e => (fieldLE e 0 8, fieldLE e 0x0C 2))
  let others := s.images.filter (fun e => holdsBudget e.2)
  let used (t : Nat) : Nat := (others.map (fun e => gateNeed e.2.regions (imageSlots e.2) t)).foldl (· + ·) 0
  firstBad ((List.range 260).map (fun t =>
    chk (decide (gateNeed x.regions mine t + used t ≤ (if t < 256 then 8192 else 65536))) 0x2C 4 0 0xFFFF))

def resNeed (rs : List Region) (die : Nat) : Nat := ((rs.filter (fun r => r.res && r.die = die)).map (·.size)).foldl (· + ·) 0

def resBad (s : State) (x : LoadCtx) : Option Bad :=
  let others := s.images.filter (fun e => holdsBudget e.2)
  firstBad ((List.range 4).map (fun n =>
    chk (decide (resNeed x.regions n + ((others.map (fun e => resNeed e.2.regions n)).foldl (· + ·) 0) ≤ 48 * 1048576)) 0x2D 7 0 0xFFFF))

/-! ### Collectives (R369 to R372, R391, R655) -/

def cType (r : List Byte) : Nat := fieldLE r 2 1
def cGrad (r : List Byte) : Bool := (fieldLE r 3 1).testBit 0
def cLayer (r : List Byte) : Nat := fieldLE r 8 2
def cVc (r : List Byte) : Nat := fieldLE r 0x0A 1
def cFmt (r : List Byte) : Nat := fieldLE r 0x0B 1
def cRoot (r : List Byte) : Nat := fieldLE r 0x0C 1
def cBsrc (r : List Byte) : Nat := fieldLE r 0x0D 1
def cBref (r : List Byte) : Nat := fieldLE r 0x0E 1
def cBound (r : List Byte) : Nat := fieldLE r 0x10 4
def cWidth (r : List Byte) : Nat := fieldLE r 0x14 4
def cCin (r : List Byte) (die : Nat) : Nat := fieldLE r (0x18 + 2 * die) 2
def cCout (r : List Byte) (die : Nat) : Nat := fieldLE r (0x20 + 2 * die) 2
def cBmem (r : List Byte) : Nat := fieldLE r 0x28 8

/-- The list that a collective belongs to (R655): that of the last producer of its input chains, or for a FENCE the last
list with a course of its layer; none where there is no such list. -/
def collList (courses : List (List Byte)) (chainProd : Nat → Nat) (r : List Byte) : Option Nat :=
  let ln := listNos courses
  if cType r = 0 then
    ((List.range courses.length).filter (fun i => (courses[i]?).elim false (fun d => dLayer d = cLayer r))).getLast?.bind (fun i => ln[i]?)
  else
    let ps := ((List.range 4).filter (fun n => cCin r n ≠ 0xFFFF)).map (fun n => chainProd (cCin r n))
    if ps.any (fun p => decide (p ≥ courses.length)) then none else (ps.foldl max 0 |> fun m => if ps.isEmpty then none else ln[m]?)

def prodOf (chains : List (List Byte)) (k : Nat) : Nat := (chains[k]?).elim 0xFFFFFFFF (fun e => fieldLE e 0x10 4)

def elemSize (fmt : Nat) : Nat := fmtBits (yfmtOf fmt) / 8

/-- Bytes of a collective's input or output on a die at the ceiling: all N elements, or the largest part. -/
def collBytes (r : List Byte) (part : Bool) : Nat :=
  let n := cBound r * cWidth r
  let sc := (n + 127) / 128 * 16
  elemSize (cFmt r) * (if part then min n (2 * sc) else n)

def collBad (x : LoadCtx) (i : Nat) (r : List Byte) : Option Bad :=
  let c (ok : Bool) (o : Nat) := chk ok 0x2E 8 i o
  let h (ok : Bool) (o : Nat) := chk ok 0x2F 8 i o
  let t := cType r
  let red := t = 1 || t = 2
  let me := 0x80000000 + i
  let slotOk (ch : Nat) (n : Nat) (out : Bool) (bytes : Nat) : Bool :=
    match x.chains[ch]? with
    | none => false
    | some e =>
      fieldLE e 0x0E 1 = 0 && (match regOf x (fieldLE e 0 8) with | some g => g.res && g.die = n | none => false) &&
        decide (fieldLE e 8 4 ≥ roundUp 64 bytes + (if cFmt r = 0 then 64 else 0)) && fieldLE e 0x0F 1 = cFmt r &&
        (if out then fieldLE e 0x10 4 = me
         else ((List.range (fieldLE e 0x14 1)).map (fun j => fieldLE e (0x20 + 4 * j) 4)).contains me)
  let inDies := if t = 0 then [] else if t = 4 then [cRoot r] else [0, 1, 2, 3]
  let lst := collList x.courses (prodOf x.chains) r
  firstBad [
    c (fieldLE r 0 2 = 1) 0, c (decide (t ≤ 4)) 2, c (decide (fieldLE r 3 1 ≤ 1) && (!cGrad r || red)) 3, c (fieldLE r 4 4 = i) 4,
    c (decide (cVc r ≤ 5)) 0x0A, c (decide (cFmt r ≤ 6) && (!red || decide (cFmt r ≤ 2))) 0x0B,
    c (decide (cRoot r ≤ 3) && (t = 4 || cRoot r = 0)) 0x0C, c (decide (cBsrc r ≤ 2)) 0x0D,
    c (match cBsrc r with | 0 => cBref r = 0 | 1 => decide (cBref r ≤ 15) | _ => decide (cBref r ≤ 3) && cBmem r ≠ 0) 0x0E,
    c (zeroAt r 0x0F 1) 0x0F, c (decide (1 ≤ cBound r) && decide (cBound r ≤ 65536)) 0x10,
    c (decide (1 ≤ cWidth r) && decide (cWidth r ≤ 65536) && decide (cBound r * cWidth r ≤ 2 ^ 27)) 0x14,
    c (zeroAt r 0x30 12) 0x30, c (crc32c (r.take 0x3C) = fieldLE r 0x3C 4) 0x3C,
    h ((List.range 4).all (fun n => if inDies.contains n then slotOk (cCin r n) n false (collBytes r (t = 3)) else cCin r n = 0xFFFF)) 0x18,
    h ((List.range 4).all (fun n => if t = 0 then cCout r n = 0xFFFF else slotOk (cCout r n) n true (collBytes r (t = 2)))) 0x20,
    h lst.isSome 0xFFFF,
    h (!cGrad r || (List.range i).any (fun j => (x.colls[j]?).elim false (fun q =>
      cType q = 0 && cVc q = 5 && collList x.courses (prodOf x.chains) q = lst))) 0xFFFF]

/-! ### The whole check -/

/-- Every control check in the order of R249: header, digest, role, section table, then the control sections in
section-table order, then what joins them. -/
def controlBad (s : State) (im : Image) : Option Bad :=
  match firstBad [headerBad im, chk (controlDigest im = ctlBytes im 0x10 48) 0x31 0 0 0x10,
      chk (roleIn (ctlLE im 6 1) (moduleRole s)) 0x32 0 0 6, sectionsBad im] with
  | some b => some b
  | none =>
    let ss := sections im
    let regs := entries (sectBytes im ss 1) 32
    let plots := entries (sectBytes im ss 2) 8
    let sec6 := sectBytes im ss 6
    let courses := entries (sectBytes im ss 5) 256
    let x : LoadCtx := {
      im := im, regions := regs.map parseRegion, plotFmt := plots.map (fun e => fieldLE e 4 1),
      chains := entries (sectBytes im ss 4) 48, courses := courses, colls := entries (sectBytes im ss 9) 64 }
    let lists := ((List.range 4).flatMap (listOffs courses)).eraseDups
    let part (t : Nat) : Option Bad :=
      match t with
      | 1 => regionsBad im regs (sectLen ss 7)
      | 2 => plotsBad im plots
      | 3 => copiesBad im (entries (sectBytes im ss 3) 16)
      | 4 => firstBad (chk (x.chains.length = ctlLE im 0x58 4) 0x30 0 0 0x58 :: x.chains.mapIdx (chainBad x))
      | 5 => firstBad (chk (courses.length = ctlLE im 0x54 4) 0x30 0 0 0x54 :: courses.mapIdx (courseBad x))
      | 6 => firstBad (lists.mapIdx (fun k o => listBad sec6 k o))
      | 9 => firstBad (x.colls.mapIdx (collBad x))
      | _ => none
    firstBad (((ss.filter (fun e => isControl e.1)).map (fun e => part e.1))
      ++ courses.mapIdx (chainRefBad x) ++ [cycleBad x, gateBad s x, resBad s x])

end Sys2Proof.Machine
end

