-- ==== Sys2Proof/Machine/Images.lean ====
section
/-!
DEFINITION. Images (R174 to R179, R241, R247 to R250, R331, R518, R650): opening, acceptance or refusal of the control
part, bulk bytes, activation, release and status.
-/

namespace Sys2Proof.Machine

def putImage (im : Image) (s : State) : State := { s with images := insertK s.images im.handle im }
def modImage (h : Nat) (f : Image → Image) (s : State) : State := withSome (getImage s h) (fun im t => putImage (f im) t) s

/-! ### The staging ring and channel -/

/-- The pages of a ring, from the dies in ascending order; none where share or pools lack them. -/
def takeMany (owner : Nat) : Nat → List Nat → State → Option (List Nat × State)
  | 0, acc, s => some (acc, s)
  | n + 1, acc, s =>
    match (List.range 4).findSome? (fun die => takeOne die owner s) with
    | none => none
    | some (k, t) => takeMany owner n (acc ++ [k]) t

/-- The ring is freed (R174). -/
def freeRing (h : Nat) (s : State) : State :=
  withSome (getImage s h) (fun im t => putImage { im with ringList := [], ring := 0 }
    (im.ringList.foldl (fun u k => freePages k 1 u) t)) s

/-- The image's STAGE channel closes (R177). -/
def closeStage (h : Nat) (s : State) : State :=
  withSome (getImage s h) (fun im t =>
    match im.channel with
    | some k => putImage { im with channel := none } (closeChan k t)
    | none => t) s

/-- The lowest handle that names no image. -/
def freeHandle (s : State) : Option Nat := (List.range (s.images.length + 1)).find? (fun h => (lookupK s.images h).isNone && decide (h < 0xFFFF))

/-- An image that a cold power-on or module reset left in STAGING and that has this owner and SIZE: it is staged again under its
handle (R639, R642; log entry 62). -/
def returned (s : State) (owner size : Nat) : Option Image :=
  (s.images.find? (fun e => e.2.st = .staging && e.2.ring = 0 && e.2.owner = owner && e.2.size = size)).map (·.2)

/-- Opens an image (R174, R518): ring, handle, channel; the refusal code and unit class otherwise. -/
def openImage (owner mib size : Nat) (s : State) : Sum (Nat × Nat) (Nat × Nat × State) :=
  let n := (mib + 1) / 2
  let old := returned s owner size
  match freeChan s owner, (old.map (·.handle)).or (freeHandle s) with
  | some ix, some h =>
    if !pageShareOk s owner n then .inl (0x60, 0)
    else
      match takeMany owner n [] s with
      | none => .inl (0x60, 1)
      | some (ks, t) =>
        let k := chanKey owner ix
        let ch : Chan := { kind := .stage, bind := h, gen := s.chanGen + 1 }
        let im : Image := { handle := h, owner := owner, size := size, ring := n * 0x200000, ringList := ks, channel := some k
                            mask := old.elim 0 (·.mask), plots := old.elim [] (·.plots) }
        .inr (h, wireChan k, countChans (putChan k ch (putImage im { t with chanGen := t.chanGen + 1 })))
  | _, _ => .inl (0x39, 0x0E)

def imageOpen (src : CmdSrc) (s : State) : State :=
  takeCmd src 0x10 (fun c t =>
    if c.by_ = 15 then t
    else match openImage c.by_ c.arg0 c.arg1 t with
      | .inl (code, cls) => refuseAt c cls c.by_ code t
      | .inr (h, ch, u) => respond c 0 h h ch 0 u) s

/-- MODULE_IMAGE_OPEN: a module-owned image, its ring in the module's pages (R174, R175). -/
def moduleImageOpen (mib size : Nat) (s : State) : State :=
  if frozen s then s
  else match openImage 15 mib size s with
    | .inl (code, cls) => emit (.mgmt 0x10 (statusWord 15 0 cls code) 0 0 0 0) s
    | .inr (h, ch, u) => emit (.mgmt 0x10 0 h h ch 0) u

/-! ### Refusal and acceptance -/

/-- Refuses an image (R249): REFUSED, ITK, the log; the ring and the channel go. -/
def refuseImage (h cls : Nat) (b : Bad) (s : State) : State :=
  match getImage s h with
  | none => s
  | some im =>
    let st := statusWord im.owner 0 cls b.code
    let s1 := putImage { im with st := .refused, status := st, ctl := [] } s
    let s2 := setF itkB F.itkLastlocIndex b.ix (setF itkB F.itkLastlocItem b.item (setF itkB F.itkLastoffOffset b.off
      (bumpF itkB F.itkImgRefused 1 s1)))
    closeStage h (freeRing h (irqRaise itkB 4 (lastEvt itkB F.itkLastStatus st
      (logStatus st 0 [h, b.item, b.ix, b.off] s2))))

/-- Takes the pages of regions in table order (R650): the regions with their bases, the runs, or the failure. -/
def takeRegions (owner : Nat) : Nat → List Region → List Region → List (Nat × Nat) → State →
    Sum (Nat × Bad) (List Region × List (Nat × Nat) × State)
  | _, [], done, runs, s => .inr (done, runs, s)
  | k, r :: rs, done, runs, s =>
    let n := pagesFor r.size
    if !pageShareOk s owner n then .inl (0, ⟨0x60, 7, k, 0xFFFF⟩)
    else
      match firstRun n (poolHi r.die) (poolLo r.die) s.pages with
      | none => .inl (1, ⟨0x60, 7, k, 0xFFFF⟩)
      | some p =>
        takeRegions owner (k + 1) rs (done ++ [{ r with base := pageAddr p }]) (runs ++ [(p, n)])
          (zeroFill (pageAddr p) r.size (takePages p n owner s))

/-- Goes on with what an allocation answers; its first refusal ends the whole. -/
def andThen {α β γ : Type} (r : Sum α β) (f : β → Sum α γ) : Sum α γ :=
  match r with
  | .inl a => .inl a
  | .inr b => f b

/-- Takes a run of a die's course store or Siphon area (R250). -/
def takeArea (owner n lo hi sect : Nat) (s : State) : Sum (Nat × Bad) (Option Nat × State) :=
  if n = 0 then .inr (none, s)
  else if !pageShareOk s owner n then .inl (0, ⟨0x60, 1, sect, 0xFFFF⟩)
  else match firstRun n hi lo s.pages with
    | none => .inl (1, ⟨0x60, 1, sect, 0xFFFF⟩)
    | some p => .inr (some p, takePages p n owner s)

/-- Binds logical plots to free allocable plots of their die and stack (R175); an image that is staged again keeps the plots that
it has there (R639). The failure names the plot. -/
def bindPlots (h owner : Nat) : Nat → List (List Byte) → List (Nat × Nat) → State → Sum (Nat × Bad) (List (Nat × Nat) × State)
  | _, [], acc, s => .inr (acc, s)
  | k, e :: es, acc, s =>
    let has : Option (Nat × Nat) := acc.find? (fun x => x.1 = k && x.2 / 1024 = 2 * fieldLE e 2 1 + fieldLE e 3 1)
    if has.isSome then bindPlots h owner (k + 1) es acc s
    else
    if owner < 4 && decide (plotsOf s owner + 1 > (getHold s owner).shPlots) then .inl (0, ⟨0x60, 5, k, 0xFFFF⟩)
    else
      let stack := 2 * fieldLE e 2 1 + fieldLE e 3 1
      match ((List.range 8).flatMap (fun l => (List.range 120).map (fun p => stack * 1024 + l * 128 + p))).find? (fun p => (getPlot s p).st = .free) with
      | none => .inl (1, ⟨0x60, 5, k, 0xFFFF⟩)
      | some p =>
        bindPlots h owner (k + 1) es (acc ++ [(k, p)])
          (modPlot p (fun x => { x with st := .bound, owner := owner, image := some h, lplot := k }) s)

/-- The list places of a die: section offset and offset from the die's base, each on 64 bytes (log entry 46). -/
def placeLists (sec : List Byte) : Nat → List Nat → List (Nat × Nat)
  | _, [] => []
  | at_, o :: os => (o, at_) :: placeLists sec (at_ + roundUp 64 (listLen sec o)) os

/-- An address field relocated under R259. -/
def relocAddr (rs : List Region) (die acre a : Nat) : Nat :=
  if a = 0 then 0
  else
    let base := if a / 2 ^ 56 = 255 then 0xC000000000 + die * 0x100000000 + acre * 0x4000000
      else (rs.find? (fun r => r.num = a / 2 ^ 56)).elim 0 (·.base)
    a / 2 ^ 56 * 2 ^ 56 + (base + a % 2 ^ 48)

/-- A chain's LOC (log entry 46). -/
def relocChain (rs : List Region) (a : Nat) : Nat :=
  if a / 2 ^ 56 = 255 then 255 * 2 ^ 56 + (0xC000000000 + a % 2 ^ 48) else relocAddr rs 0 0 a

/-- Replaces n bytes of a byte string. -/
def putLE (o n v : Nat) (bs : List Byte) : List Byte := bs.take o ++ leBytes n v ++ bs.drop (o + n)

/-- A list's place in the Siphon area. -/
def relocList (places : List (Nat × Nat)) (base a : Nat) : Nat :=
  (places.find? (fun e => e.1 = physAddr a)).elim 0 (fun e => a / 2 ^ 56 * 2 ^ 56 + base + e.2)

/-- A descriptor as stored (R250, R255, R259): HOLDING written, addresses relocated; a BASIN course keeps its logical
basin index. -/
def relocCourse (owner : Nat) (rs : List Region) (lists : Nat → Nat → Nat) (d : List Byte) : List Byte :=
  let r (o : Nat) (bs : List Byte) : List Byte := putLE o 8 (relocAddr rs (dDie d) (dAcre d) (fieldLE d o 8)) bs
  let b := r 0xD8 (r 0xC8 (r 0xC0 (r 0xB0 (putLE 0x0B 1 owner d))))
  let b1 := if dKind d = 2 then b else r 0xB8 b
  if dList d then putLE 0xD0 8 (lists (dDie d) (dL d)) b1 else b1

/-- A chain table entry as a chain. -/
def parseChain (rs : List Region) (e : List Byte) : Chain :=
  { loc := relocChain rs (fieldLE e 0 8), bytes := fieldLE e 8 4, slots := fieldLE e 0x0C 2, gather := decide (fieldLE e 0x0E 1 = 1)
    fmt := fieldLE e 0x0F 1, producer := fieldLE e 0x10 4, ncons := fieldLE e 0x14 1
    consumers := (List.range (fieldLE e 0x14 1)).map (fun j => fieldLE e (0x20 + 4 * j) 4) }

/-- Index of the first section of a TYPE. -/
def sectIx (ss : List (Nat × Nat × Nat)) (t : Nat) : Nat := (ss.findIdx? (fun e => e.1 = t)).getD 0

/-- Stores of one die: the course store and the Siphon area with its lists; the page runs and the list base. -/
def takeStores (im : Image) (ss : List (Nat × Nat × Nat)) (courses : List (List Byte)) (sec6 : List Byte) :
    List Nat → List (Nat × Nat) → List (Nat × Nat × Nat) → State →
    Sum (Nat × Bad) (List (Nat × Nat) × List (Nat × Nat × Nat) × State)
  | [], runs, bases, s => .inr (runs, bases, s)
  | n :: ns, runs, bases, s =>
    let nc := (courses.filter (fun d => dDie d = n)).length
    let offs := listOffs courses n
    let bytes := (offs.map (fun o => roundUp 64 (listLen sec6 o))).foldl (· + ·) 0
    let pc := pagesFor (256 * nc)
    let pl := pagesFor bytes
    andThen (takeArea im.owner pc (storeLo n) (storeHi n) (sectIx ss 5) s) (fun a =>
      andThen (takeArea im.owner pl (siphonLo n) (siphonHi n) (sectIx ss 6) a.2) (fun b =>
        takeStores im ss courses sec6 ns
          (runs ++ (a.1.toList.map (fun k => (k, pc))) ++ (b.1.toList.map (fun k => (k, pl))))
          (bases ++ [(n, a.1.elim 0 pageAddr, b.1.elim 0 pageAddr)]) b.2))

/-- The Intake accepts an image (R175, R249, R250, R650): pages, stores, plots; else the unit class and failure. -/
def acceptImage (im : Image) (s : State) : Sum (Nat × Bad) State :=
  let ss := sections im
  let regs := (entries (sectBytes im ss 1) 32).map parseRegion
  let courses := entries (sectBytes im ss 5) 256
  let sec6 := sectBytes im ss 6
  andThen (takeRegions im.owner 0 regs [] [] s) (fun x =>
    andThen (takeStores im ss courses sec6 [0, 1, 2, 3] [] [] x.2.2) (fun y =>
      andThen (bindPlots im.handle im.owner 0 (entries (sectBytes im ss 2) 8) im.plots y.2.2) (fun z =>
        let rs := x.1
        let runs := x.2.1
        let runs2 := y.1
        let bases := y.2.1
        let plots := z.1
        let s3 := z.2
        let baseOf (n : Nat) : Nat × Nat := (bases.find? (fun e => e.1 = n)).elim (0, 0) (fun e => e.2)
        let places (n : Nat) : List (Nat × Nat) := placeLists sec6 0 (listOffs courses n)
        let lists (n a : Nat) : Nat := relocList (places n) (baseOf n).2 a
        let stored := courses.map (relocCourse im.owner rs lists)
        let s4 := (List.range 4).foldl (fun t n =>
          let mine := (stored.filter (fun d => dDie d = n)).flatMap id
          let t1 := wrBytes (baseOf n).1 mine t
          (places n).foldl (fun u e => wrBytes ((baseOf n).2 + e.2) ((sec6.drop e.1).take (listLen sec6 e.1)) u) t1) s3
        .inr (putImage { im with
          st := .programming, accepted := true, roles := ctlLE im 6 1, layers := ctlLE im 0x4A 2, ctxP := ctlLE im 0x5C 2
          kvhd := ctlLE im 0x5E 1, kvd := 2 ^ ctlLE im 0x5F 1, name := ctlBytes im 0x60 16, kvmodel := ctlBytes im 0x70 16
          digest := ctlBytes im 0x10 48, regions := rs, plots := plots
          plotFmt := (entries (sectBytes im ss 2) 8).map (fun e => fieldLE e 4 1)
          copies := entries (sectBytes im ss 3) 16, chains := (entries (sectBytes im ss 4) 48).map (parseChain rs)
          courses := stored
          colls := (entries (sectBytes im ss 9) 64).map (fun r => putLE 0x28 8 (relocAddr rs 0 0 (cBmem r)) r)
          sip := ((List.range 4).flatMap (fun n => (places n).map (fun e => { addr := (baseOf n).2 + e.2 : SiphonList })))
          pages := ((runs ++ runs2).map (·.2)).foldl (· + ·) 0, storeRuns := runs ++ runs2, sects := ss
          nrec := sectLen ss 8 / 131136 } (bumpF itkB F.itkImgAccepted 1 s4)))))

/-! ### Bulk bytes (R177, R247) -/

/-- Writes bytes of the HBM data section from its offset k on to the regions that they initialise. -/
def dataWrite (rs : List Region) (k : Nat) (bs : List Byte) (s : State) : State :=
  rs.foldl (fun t r =>
    let lo := max k r.dataOff
    let hi := min (k + bs.length) (r.dataOff + r.dataLen)
    if r.init && decide (lo < hi) then wrBytes (r.base + (lo - r.dataOff)) ((bs.drop (lo - k)).take (hi - lo)) t else t) s

/-- The bulk section that holds an image offset: its type, the section offset of that byte, and its end. -/
def bulkAt (ss : List (Nat × Nat × Nat)) (p : Nat) : Option (Nat × Nat × Nat) :=
  (ss.findIdx? (fun e => !isControl e.1 && decide (e.2.1 ≤ p) && decide (p < e.2.1 + e.2.2))).bind (fun i =>
    (ss[i]?).map (fun e =>
      (e.1, (((ss.take i).filter (fun x => x.1 = e.1)).map (fun x => x.2.2)).foldl (· + ·) 0 + (p - e.2.1), e.2.1 + e.2.2)))

/-- The next bulk section start at or after an offset, or the image's end. -/
def nextBulk (ss : List (Nat × Nat × Nat)) (size p : Nat) : Nat :=
  ((ss.filter (fun e => !isControl e.1 && decide (e.2.1 > p))).map (fun e => e.2.1)).foldl min size

/-- Consumes arrived bytes of the control part, of gaps and of HBM data, up to the next basin record. -/
def processBulk (h : Nat) : Nat → State → State
  | 0, s => s
  | n + 1, s =>
    match getImage s h with
    | none => s
    | some im =>
      if !im.accepted || decide (im.freed ≥ im.arrived) then s
      else
        match bulkAt im.sects im.freed with
        | none =>
          let p := min im.arrived (nextBulk im.sects im.size im.freed)
          if p ≤ im.freed then s else processBulk h n (putImage { im with freed := p, ctl := im.ctl.filter (fun e => decide (e.1 ≥ p)) } s)
        | some (t, k, e) =>
          if t = 8 then s
          else
            let p := min im.arrived e
            let s1 := dataWrite im.regions k (ctlBytes im im.freed (p - im.freed)) s
            processBulk h n (putImage { im with freed := p, ctl := im.ctl.filter (fun x => decide (x.1 ≥ p)) } s1)

def processAll (h : Nat) (s : State) : State :=
  let s1 := processBulk h ((getImage s h).elim 0 (fun im => 2 * im.sects.length + 2)) s
  withSome (getImage s1 h) (fun im t => withSome im.channel (fun k u => passTo k im.freed u) t) s1

/-- READY (R177): every byte and every record is there; ring and channel go. -/
def readyCheck (h : Nat) (s : State) : State :=
  match getImage s h with
  | none => s
  | some im =>
    if im.st = .programming && im.freed = im.size && im.programmed = im.nrec then
      closeStage h (freeRing h (putImage { im with st := .ready, ctl := [] } s))
    else s

/-- Bytes handed to an image's ring in address order (R526). -/
def stageBytes (h : Nat) (bs : List Byte) (s : State) : State :=
  match getImage s h with
  | none => s
  | some im =>
    if im.st = .staging ∨ im.st = .programming then
      let take := bs.take (im.size - im.arrived)
      let im1 := { im with
        ctl := (take.mapIdx (fun i b => (im.arrived + i, b))).foldl (fun m e => insertK m e.1 e.2) im.ctl
        arrived := im.arrived + take.length }
      let s1 := putImage im1 s
      if im1.accepted then readyCheck h (processAll h s1)
      else withSome im1.channel (fun k t => passTo k im1.arrived t) s1
    else s

/-- Have the control sections of an image arrived (R249)? A header that fails needs no more. -/
def controlHere (im : Image) : Bool :=
  decide (im.arrived ≥ 128) && ((headerBad im).isSome ||
    (decide (im.arrived ≥ ctlLE im 0x44 4 + 16 * ctlLE im 0x40 4) && decide (im.arrived ≥ min im.size (controlEnd im))))

/-- IMAGE_CONTROL_CHECK. -/
def imageControlCheck (h : Nat) (s : State) : State :=
  match getImage s h with
  | none => s
  | some im =>
    if frozen s || s.rely.coresLost || im.st ≠ .staging || !controlHere im then s
    else
      match controlBad s im with
      | some b => refuseImage h 1 b s
      | none =>
        match acceptImage im s with
        | .inl (cls, b) => refuseImage h cls b s
        | .inr t => readyCheck h (processAll h t)

/-! ### Activation (R177, R238, R241) -/

/-- Layers of an image with basin courses on a die, ascending. -/
def basinLayers (im : Image) (die : Nat) : List Nat :=
  (((im.courses.filter (fun d => dKind d = 2 && dDie d = die)).map dLayer).mergeSort (fun a b => decide (a ≤ b))).eraseDups

/-- Assigns layer slots of a die, lowest free first; layers beyond the last slot stay without one. -/
def assignSlots (im : Image) (die : Nat) (s : State) : State :=
  (basinLayers im die).foldl (fun t l =>
    match (List.range 1024).find? (fun k => !(getLSlot t (die * 1024 + k)).used) with
    | none => t
    | some k => setLSlot (die * 1024 + k) {
        image := im.handle, layer := l, owner := im.owner, used := true
        pred := im.courses.any (fun d => dKind d = 2 && dLayer d = l && dPred d)
        winLog := max 12 (min 20 (getF t (tnsB die) F.tnsCfgWinLog2))
        missLog := max 4 (min 12 (getF t (tnsB die) F.tnsCfgMissLog2)) } t) s

/-- Frees an image's layer slots. -/
def dropSlots (h : Nat) (s : State) : State :=
  mapLSlots (fun x => if x.used && x.image = h then {} else x) s

/-- Activates a READY image; an ACTIVE one is activated again, which re-arms its layers (R238). -/
def activate (im : Image) (s : State) : State :=
  let s1 := dropSlots im.handle s
  putImage { im with st := .active } ((List.range 4).foldl (fun t n => assignSlots im n t) s1)

def imageActivate (src : CmdSrc) (s : State) : State :=
  takeCmd src 0x11 (fun c t =>
    match ownImage t c.by_ c.handle with
    | none => refuseCmd c 0x37 t
    | some im => if im.st = .ready ∨ im.st = .active then ack c (activate im t) else refuseAt c 1 0 0x22 t) s

/-- MODULE_IMAGE_ACTIVATE (R177). -/
def moduleImageActivate (h : Nat) (s : State) : State :=
  if frozen s then s
  else match ownImage s 15 h with
    | some im =>
      if im.st = .ready ∨ im.st = .active then emit (.mgmt 0x11 0 h 0 0 0) (activate im s)
      else emit (.mgmt 0x11 (statusWord 15 0 1 0x22) h 0 0 0) s
    | none => emit (.mgmt 0x11 (statusWord 15 0 1 0x22) h 0 0 0) s

/-- HOLDING_MASK_WRITE (R43): the mask of a module-owned image. -/
def holdingMaskWrite (h mask : Nat) (s : State) : State :=
  if frozen s then s
  else match ownImage s 15 h with
    | some im => putImage { im with mask := mask % 16 } s
    | none => s

/-! ### Release (R179, R287) -/

/-- Does a course or collective of an image run or wait in an executor? -/
def imageBusy (s : State) (h : Nat) : Bool :=
  let mine (c : CourseRun) : Bool := c.issue.image = h
  s.acres.any (fun e => (e.2.run.toList ++ e.2.pend.toList ++ e.2.aside.toList ++ e.2.extra).any mine) ||
    s.cist.runs.any (fun e => e.2.any (fun r => mine r.c)) || s.ring.colls.any (fun c => c.issue.image = h)

/-- A released image's plots enter RELEASING once its courses have completed: mirroring stops, spares return to free,
and every basin is to be cleared to level 8 (R179, R203). -/
def releasePlots (im : Image) (s : State) : State :=
  let mine (p : Nat) : Bool := im.plots.any (fun e => e.2 = p)
  let s1 := im.plots.foldl (fun t e => modPlot e.2 (fun x => { x with st := .releasing, reqs := [] }) t) s
  let spares := s1.cist.basins.filterMap (fun e => if mine (plotOf e.1) then e.2.standIn else none)
  let s2 := spares.foldl (fun t b => modBasin b (fun x => { x with st := .spareFree, home := none, owner := 15, image := none, group := 0xFFFF }) t) s1
  let s3 := (im.plots.flatMap (fun e => (List.range 256).map (fun i => e.2 * 256 + i))).foldl (fun t b => modBasin b (fun x =>
    { x with standIn := none, armed := none, queued := false, recal := false, programming := true, row := 0, target := []
             st := if x.st = .retired then .retired else .unprog }) t) s2
  { s3 with cist := { s3.cist with
      queue := s3.cist.queue.filter (fun b => !mine (plotOf b))
      repairs := s3.cist.repairs.filter (fun r => r.image ≠ im.handle) } }

/-- The pages of an image's regions and stores go back. -/
def freeRuns (im : Image) (s : State) : State := im.storeRuns.foldl (fun t e => freePages e.1 e.2 t) s

/-- The gate entries of an image (R316). -/
def dropGates (h : Nat) (s : State) : State :=
  { s with gates := s.gates.filter (fun e => e.1 / 4096 / 65536 ≠ h), broken := s.broken.filter (fun e => e.1 ≠ h) }

/-- A released image that no course uses any more gives up what it holds; it is gone when no plot is left to clear. -/
def releaseStep (h : Nat) (s : State) : State :=
  match getImage s h with
  | none => s
  | some im =>
    if im.st ≠ .releasing || imageBusy s h then s
    else
      let s1 := if im.cleared then s
        else putImage { im with cleared := true } (dropGates h (dropSlots h (freeRuns im (releasePlots im s))))
      if s1.cist.plots.any (fun e => e.2.st = .releasing && e.2.image = some h) then s1
      else { s1 with images := eraseK s1.images h }

/-- Releases an image: a refused one only frees its handle. -/
def releaseImage (im : Image) (s : State) : State :=
  if im.st = .refused then { s with images := eraseK s.images im.handle }
  else if im.st = .releasing then s
  else releaseStep im.handle (closeStage im.handle (freeRing im.handle (putImage { im with st := .releasing, ctl := [] } s)))

def imageRelease (src : CmdSrc) (s : State) : State :=
  takeCmd src 0x12 (fun c t =>
    match ownImage t c.by_ c.handle with
    | none => refuseCmd c 0x37 t
    | some im => ack c (releaseImage im t)) s

/-- The code of an image state (R177). -/
def imageCode : ImageState → Nat
  | .staging => 0 | .programming => 1 | .ready => 2 | .active => 3 | .releasing => 4 | .refused => 5

def imageStatus (src : CmdSrc) (s : State) : State :=
  takeCmd src 0x13 (fun c t =>
    match ownImage t c.by_ c.handle with
    | none => refuseCmd c 0x37 t
    | some im => respond c 0 im.handle (imageCode im.st) im.programmed im.status.toNat t) s

/-! ### The commands -/

def execImageOpen (src : CmdSrc) (s : State) : Out := .next (imageOpen src s)
def execModuleImageOpen (mib size : Nat) (s : State) : Out := .next (moduleImageOpen mib size s)
def execImageControlCheck (image : Nat) (s : State) : Out := .next (imageControlCheck image s)
def execImageActivate (src : CmdSrc) (s : State) : Out := .next (imageActivate src s)
def execModuleImageActivate (image : Nat) (s : State) : Out := .next (moduleImageActivate image s)
def execHoldingMaskWrite (image : Nat) (mask : BitVec 4) (s : State) : Out := .next (holdingMaskWrite image mask.toNat s)
def execImageRelease (src : CmdSrc) (s : State) : Out := .next (imageRelease src s)
def execImageStatus (src : CmdSrc) (s : State) : Out := .next (imageStatus src s)

end Sys2Proof.Machine
end

