-- ==== Sys2Proof/Machine/Program.lean ====
section
/-!
DEFINITION. Programming, spares, recalibration and monitors of basins (R170 to R205). What a pulse loop or a
read-back finds in the cells comes as an operand; everything that follows from it is as the spec says. The points that
the spec leaves open are log entry 49.
-/

namespace Sys2Proof.Machine

/-! ### Spares (R134, R192, R194) -/

/-- Free spares of a Cistern die, ascending: plots P120 to P127. -/
def cistSpares (s : State) (cd : Nat) : List Nat :=
  ((List.range 2048).map (fun i => (cd * 128 + 120) * 256 + i)).filter (fun b =>
    (getBasin s b).st = .spareFree && (getBasin s b).home.isNone)

/-- BASIN_SPARES_LOW once per Cistern die, when only the reserve of 16 is left (R194). -/
def sparesLow (cd : Nat) (s : State) : State :=
  if (cistSpares s cd).length ≤ 16 ∧ !s.cist.lowLogged.contains cd then
    irqRaise (cstB (cd / 16)) 16
      (logStatus (statusWord 15 cd 9 0x55) cd [(cistSpares s cd).length]
        { s with cist := { s.cist with lowLogged := s.cist.lowLogged ++ [cd] } })
  else s

/-- A spare starts programming for a basin, with its levels, range, owner, image and group (R192, R197). -/
def takeSpare (b sp : Nat) (target : NatMap Nat) (s : State) : State :=
  let x := getBasin s b
  sparesLow (cdieOf b) (modBasin sp (fun y =>
    { y with home := some b, programming := true, row := 0, target := target, s := x.s, owner := x.owner, image := x.image
             group := x.group, int8 := x.int8, digest := x.digest, intended := [] }) s)

/-- A spare that stands in no more is free again; a lowering, its pins and its wear stay (R203). -/
def freeSpare (sp : Nat) (s : State) : State :=
  let t := modBasin sp (fun y => { y with
    st := .spareFree, home := none, standIn := none, owner := 15, image := none, group := 0xFFFF, digest := []
    programming := false, target := [], intended := [], recal := false, queued := false, armed := none }) s
  { t with cist := { t.cist with repairs := t.cist.repairs.filter (fun e => e.basin ≠ sp), queue := t.cist.queue.filter (fun q => q ≠ sp) } }

/-- The spare that is being programmed for, or stands in for, a basin. -/
def spareFor (s : State) (b : Nat) : Option Nat := (s.cist.basins.find? (fun e => e.2.home = some b)).map (·.1)

/-- The level that a weight is meant to have (R192): a pinned cell or its adapted partner has another. -/
def intendedLevels (x : Basin) : NatMap Nat := x.intended.foldl (fun m e => setK m e.1 e.2 8) x.levels

/-- Retires a basin in service (R191, R192), or defers it where only the reserve is left (R194). -/
def retireBasin (b : Nat) (s : State) : State :=
  match cistSpares s (cdieOf b) with
  | l =>
    if l.length ≤ 16 then sparesLow (cdieOf b) (modBasin b (fun x => { x with deferred := true }) s)
    else match l with
      | [] => s
      | sp :: _ => takeSpare b sp (intendedLevels (getBasin s b)) s

/-- Is a basin beyond the limit of R191? -/
def beyondLimit (x : Basin) : Bool := decide (x.pins.length > 64) || x.offgrid

/-! ### One row (R171, R180, R186 to R190) -/

/-- The end to which a cell that stopped at a reading (1/128 level) is pinned. -/
def pinLevel (at_ : Nat) : Nat := if at_ ≤ 960 then 0 else 15

/-- The level of the partner of a pinned cell of an INT8 weight w (R188). -/
def lowFor (w : Int) (lh : Nat) : Nat := (max 0 (min 15 (w - 16 * ((lh : Int) - 8)))).toNat
def highFor (w : Int) (ll : Nat) : Nat :=
  (List.range 16).foldl (fun (best : Nat) (lh : Nat) =>
    if (w - 16 * ((lh : Int) - 8) - ll).natAbs < (w - 16 * ((best : Int) - 8) - ll).natAbs then lh else best) 0

/-- The levels and the residual of one INT8 weight from its intended levels and the pins of its cells (R188). -/
def int8Cells (ih il : Nat) (ph pl : Option Nat) : Nat × Nat × Int :=
  let w : Int := 16 * ((ih : Int) - 8) + il
  let r (h l : Nat) : Int := w - 16 * ((h : Int) - 8) - l
  match ph, pl with
  | none, none => (ih, il, 0)
  | some h, none => (h, lowFor w h, r h (lowFor w h))
  | none, some l => (highFor w l, l, r (highFor w l) l)
  | some h, some l => (h, l, r h l)

/-- The level and the residual of one INT4 weight (R189). -/
def int4Cell (i : Nat) (p : Option Nat) : Nat × Int :=
  match p with
  | none => (i, 0)
  | some l => (l, ((i : Int) - 8) - ((l : Int) - 8))

/-- The levels of a row's 512 weights and their residuals by channel. -/
def rowWeights (int8 : Bool) (want pin : Nat → Option Nat) : List Nat × List (Nat × Int) :=
  let i (c : Nat) : Nat := (want c).getD 8
  if int8 then
    let cs := (List.range 256).map (fun k => int8Cells (i (2 * k)) (i (2 * k + 1)) (pin (2 * k)) (pin (2 * k + 1)))
    (cs.flatMap (fun e => [e.1, e.2.1]), (cs.mapIdx (fun k e => (k, e.2.2))).filter (fun e => e.2 ≠ 0))
  else
    let cs := (List.range 512).map (fun c => int4Cell (i c) (pin c))
    (cs.map (·.1), (cs.mapIdx (fun k e => (k, e.2))).filter (fun e => e.2 ≠ 0))

/-- The check word of a row's 514 level codes, two per byte, the lower column in bits [3:0] (R171). -/
def checkWord (codes : List Nat) : Nat :=
  crc16 ((List.range 257).map (fun i => BitVec.ofNat 8 (codes.getD (2 * i) 0 % 16 + 16 * (codes.getD (2 * i + 1) 0 % 16))))

/-- A cell of a row that becomes pinned: column, where it stopped, held within 0.05 level of the end. -/
abbrev Stop := Nat × Nat × Bool

/-- The cells of a row that become pinned: those that the loop leaves, the worn ones of a refresh, and those refreshed
by pulses for the third recalibration in a row (R180, R187). -/
def rowStops (x : Basin) (stuck : List Stop) (pulsed : List Nat) : List Stop :=
  let r := x.row
  let worn := (x.worn.filter (fun e => e.1 / 518 = r)).map (fun e => (e.1 % 518, 2 * e.2, true))
  let tired := if x.recal then
      (pulsed.filter (fun c => getK x.wear (cellKey r c) 0 ≥ 2)).map (fun c => (c, 128 * getK x.target (cellKey r c) 8, true))
    else []
  ((stuck ++ worn ++ tired).filter (fun e => (lookupK x.pins (cellKey r e.1)).isNone)).foldl
    (fun l e => if l.any (fun z => z.1 = e.1) then l else l ++ [e]) []

/-- The basin after one row: cells, pins, intended levels, wear; and the residuals of the row. -/
def rowDone (x : Basin) (stops : List Stop) (pulsed : List Nat) : Basin × List (Nat × Int) :=
  let r := x.row
  let pins := stops.foldl (fun m e => insertK m (cellKey r e.1) (pinLevel e.2.1)) x.pins
  let tgt (c : Nat) : Nat := getK x.target (cellKey r c) 8
  let want (c : Nat) : Nat := getK x.intended (cellKey r c) (tgt c)
  let (ws, res) := rowWeights x.int8 (fun c => some (want c)) (fun c => lookupK pins (cellKey r c))
  let pinned (c v : Nat) : Nat := (lookupK pins (cellKey r c)).getD v
  let refs := [pinned 512 2, pinned 513 13]
  let w := checkWord (ws ++ refs)
  let chk := (List.range 4).map (fun i => pinned (514 + i) (w / 16 ^ i % 16))
  let row := ws ++ refs ++ chk
  let levels := (List.range 518).foldl (fun m c => setK m (cellKey r c) (row.getD c 8) 8) x.levels
  let intended := (List.range 512).foldl (fun m c =>
    if want c = ws.getD c 8 then eraseK m (cellKey r c) else insertK m (cellKey r c) (want c)) x.intended
  let wear := if x.recal then
      (List.range 518).foldl (fun m c =>
        if pulsed.contains c then insertK m (cellKey r c) (getK m (cellKey r c) 0 + 1) else eraseK m (cellKey r c)) x.wear
    else x.wear
  ({ x with levels := levels, pins := pins, intended := intended, wear := wear
            worn := x.worn.filter (fun e => e.1 / 518 ≠ r), offgrid := x.offgrid || stops.any (fun e => !e.2.2), row := r + 1 }, res)

/-- The repair entries of a row (R190): entries that do not change stay; new ones and ended ones wait for the step boundary. -/
def rowRepairs (image b r : Nat) (res : List (Nat × Int)) (old : List Repair) : List Repair :=
  let mine (e : Repair) : Bool := e.basin = b && e.row = r
  let kept := old.filterMap (fun e =>
    if !mine e then some e
    else if res.contains (e.chan, e.val) then some { e with gone := false }
    else if e.live then some { e with gone := true } else none)
  kept ++ (res.filter (fun z => !(old.any (fun e => mine e && e.chan = z.1 && e.val = z.2)))).map (fun z =>
    { image := image, basin := b, row := r, chan := z.1, val := z.2 })

/-! ### Requests (R201, R202) -/

/-- CAL_DONE to the requester: a notice on the queue pair of the request, or a message to the board management
controller; the log entry has the counts. -/
def calDone (p : Nat) (q : CalReq) (s : State) : State :=
  let st := statusWord q.by_ p 0x0B 0x58
  let s1 := logStatus st p [q.done, q.unusable, q.retired] s
  if q.by_ < 4 then postCpl q.by_ q.qp { kind := 3, status := st } s1 else emit (.mgmt 0x20 st p q.done q.unusable q.retired) s1

/-- Requests of a plot with no basin left are done. -/
def finishReqs (p : Nat) (s : State) : State :=
  let done := (getPlot s p).reqs.filter (fun q => q.left.isEmpty)
  done.foldl (fun t q => calDone p q t) (modPlot p (fun x => { x with reqs := x.reqs.filter (fun q => !q.left.isEmpty) }) s)

/-- A basin leaves its plot's requests: served (true) or abandoned, and retired or not. The basin of a permanent stand-in
is the one that it stands in for. -/
def leaveReqs (b : Nat) (served retired : Bool) (s : State) : State :=
  let home := (getBasin s b).home.getD b
  let n := (getBasin s b).pins.length
  finishReqs (plotOf home) (modPlot (plotOf home) (fun x => { x with reqs := x.reqs.map (fun q =>
    if q.left.contains home then
      { q with left := q.left.filter (fun k => k ≠ home), done := q.done + (if served then 1 else 0)
               unusable := q.unusable + (if served then n else 0), retired := q.retired + (if retired then 1 else 0) }
    else q) }) s)

/-! ### The end of a basin's programming -/

/-- The burst at programming measures trims: free values (R158, R159, R185). -/
def freeTrims (n temp : Nat) : NatMap Trim :=
  (List.range 16).map (fun k =>
    (k, { g := Config.freeWord (n + 3 * k), o := Config.freeWord (n + 3 * k + 1), alpha := Config.freeWord (n + 3 * k + 2), t := tempF32 temp }))

/-- Sets the trims of a basin. -/
def setTrims (b : Nat) (s : State) : State :=
  modBasin b (fun x => { x with trims := freeTrims s.freeCtr (getPlot s (plotOf b)).temp, newTrims := none, refs := [] })
    { s with freeCtr := s.freeCtr + 48 }

/-- Once RETURN was entered and the last plot has verified, the module blows LIFECYCLE; admission closes (R557). -/
def retCheck (s : State) : State :=
  if s.trust.retDue && s.cist.plots.all (fun e => e.2.st = .free) then
    irqRaise strB 4 (setF strB F.strActiveClosed 1 (setF chtB F.chtLifeLifecycle 3 { s with trust := { s.trust with retDue := false } }))
  else s

/-- A plot whose last basin has verified at level 8 is free (R179). -/
def plotCleared (p : Nat) (s : State) : State :=
  let busy := s.cist.basins.any (fun e => plotOf e.1 = p && e.2.programming)
  if busy then s
  else
    let h := (getPlot s p).image
    let s1 := modPlot p (fun x => { x with st := .free, owner := 15, image := none, lplot := 0, reqs := [] }) s
    retCheck (withSome h (fun k t => releaseStep k t) s1)

/-- A cleared basin of a released plot. -/
def clearedBasin (b : Nat) (s : State) : State :=
  plotCleared (plotOf b) (modBasin b (fun x =>
    { x with owner := 15, image := none, group := 0xFFFF, digest := [], int8 := false, s := 0, intended := [], trims := [], newTrims := none
             refs := [], ageH := 0, overdue := false, overdueN := 0 }) s)

/-- A basin of an image is programmed: range, trims, in service; the image counts it (R177, R185). -/
def recordDone (b range : Nat) (s : State) : State :=
  let s1 := setTrims b (modBasin b (fun x => { x with
    st := if x.home.isSome then .spareIn else .service
    s := range, ageH := 0, ageFrom := s.counter, overdue := false, overdueN := 0, windows := 0 }) s)
  let s2 := withSome (getBasin s1 b).image (fun h t => readyCheck h (modImage h (fun im => { im with programmed := im.programmed + 1 }) t)) s1
  whenB (beyondLimit (getBasin s2 b)) (retireBasin b) s2

/-- A spare is programmed: its swap is armed; one that is beyond the limit itself is retired, and another one is taken. -/
def spareDone (sp b : Nat) (s : State) : State :=
  if beyondLimit (getBasin s sp) then
    let tgt := (getBasin s sp).target
    let s1 := modBasin sp (fun x => { x with st := .retired, home := none, owner := 15, image := none, group := 0xFFFF, target := [] }) s
    match cistSpares s1 (cdieOf b) with
    | [] => modBasin b (fun x => { x with recal := false, deferred := !x.recal }) s1
    | sp2 :: _ => takeSpare b sp2 tgt s1
  else modBasin b (fun x => { x with armed := some .bringIn }) (setTrims sp s)

/-- The original of a recalibration is retired: the stand-in stays (R192, R203). -/
def stayIn (b : Nat) (s : State) : State :=
  leaveReqs b true true (modBasin b (fun x => { x with st := .retired, recal := false, armed := none, retireDue := true, target := [] }) s)

/-- The refresh of an original ends: swap back, or its retirement. -/
def refreshDone (b : Nat) (s : State) : State :=
  let s1 := setTrims b s
  if beyondLimit (getBasin s1 b) then stayIn b s1
  else modBasin b (fun x => { x with armed := some .bringBack, target := [] }) s1

/-- The last row of a basin has verified. -/
def basinFinished (b range : Nat) (s : State) : State :=
  let s1 := modBasin b (fun x => { x with programming := false, row := 0 }) s
  let x := getBasin s1 b
  if (getPlot s1 (plotOf b)).st = .releasing then clearedBasin b s1
  else if x.recal then refreshDone b s1
  else match x.home with
    | some o => if (getBasin s1 o).st = .retired && (getBasin s1 o).standIn = some b then recordDone b range s1 else spareDone b o s1
    | none => recordDone b range s1

/-- Basins of a Cistern die between their first and last row (R182). -/
def inProgress (s : State) (cd : Nat) : Nat :=
  (s.cist.basins.filter (fun e => decide (cdieOf e.1 = cd) && e.2.programming && decide (e.2.row > 0))).length

/-- May the next row of a basin start (R182 to R184)? -/
def rowMayStart (s : State) (b : Nat) : Bool :=
  let x := getBasin s b
  x.programming && !frozen s && !inTrickle s && !(getPlot s (plotOf b)).progHold && decide (x.row < 512)
    && (x.row ≠ 0 || decide (inProgress s (cdieOf b) < 64))

/-- PROGRAM_ROW: one row verifies; cells that do not are pinned (R180 to R190). -/
def programRow (b : Nat) (stuck : List Stop) (pulsed : List Nat) (range : Nat) (s : State) : State :=
  if !rowMayStart s b then s
  else
    let x := getBasin s b
    let stops := rowStops x stuck pulsed
    let (y, res) := rowDone x stops pulsed
    let s1 := setBasin b y s
    let s2 := { s1 with cist := { s1.cist with repairs := match y.image with
      | some h => rowRepairs h b x.row res s1.cist.repairs
      | none => s1.cist.repairs } }
    let s3 := stops.foldl (fun t e => logBasin b 0x53 [x.row, e.1, pinLevel e.2.1] t) s2
    let warn := min 64 (getF s3 (cstB (basinDie b)) F.cstMoncfgCellWarn)
    let s4 := whenB (decide (x.pins.length ≤ warn) && decide (y.pins.length > warn)) (monitorTrip b 5) s3
    if y.row = 512 then basinFinished b range s4 else s4

/-! ### Records of an image (R173, R176) -/

/-- The target levels of a record: two per byte from 0x40 on. -/
def recordLevels (bs : List Byte) : NatMap Nat :=
  ((bs.drop 0x40).take 131072).zipIdx.flatMap (fun e =>
    let r := e.2 / 256
    let c := 2 * (e.2 % 256)
    [(cellKey r c, e.1.toNat % 16), (cellKey r (c + 1), e.1.toNat / 16)]) |>.filter (fun e => e.2 ≠ 8)

/-- Does a record pass: its DIGEST, and a bound plot? -/
def recordOk (im : Image) (bs : List Byte) : Bool :=
  sha256 (bs.drop 0x40) = (bs.drop 0x0C).take 32 && im.plots.any (fun e => e.1 = fieldLE bs 0 2)

/-- The basin that a record programs: the one that stands in for a retired basin, which is never used again (R192); none while no
spare is free for it. -/
def recordBasin (s : State) (b : Nat) : Option Nat :=
  if (getBasin s b).st = .retired then ((getBasin s b).standIn).or (cistSpares s (cdieOf b)).head? else some b

/-- A record that passed: its basin is to be programmed, or is so already with the same DIGEST (R204, R639). -/
def takeRecord (im : Image) (bs : List Byte) (s : State) : State :=
  let b := bindBasin im (fieldLE bs 0 2 * 256 + fieldLE bs 2 1)
  let dig := (bs.drop 0x0C).take 32
  match recordBasin s b with
  | none => s
  | some p =>
    let x := getBasin s p
    let s1 := putImage { im with freed := im.freed + 131136, ctl := im.ctl.filter (fun e => decide (e.1 ≥ im.freed + 131136)) } s
    let s2 := withSome im.channel (fun k t => passTo k (im.freed + 131136) t) s1
    let s3 :=
      if (x.st = .service ∨ x.st = .spareIn) ∧ x.digest = dig ∧ x.image = some im.handle then
        modImage im.handle (fun i => { i with programmed := i.programmed + 1 }) s2
      else
        let t := setBasin p { x with
          st := .unprog, owner := im.owner, image := some im.handle, group := fieldLE bs 4 2, int8 := (fieldLE bs 3 1).testBit 0
          home := if p = b then none else some b
          digest := dig, programming := true, row := 0, target := recordLevels bs, intended := [], worn := [], newTrims := none } s2
        if p = b then t else sparesLow (cdieOf b) (modBasin b (fun y => { y with standIn := some p }) t)
    readyCheck im.handle (processAll im.handle s3)

/-- A record that failed is asked for again; its fourth failure refuses it (R176, R527). -/
def failBasinRecord (im : Image) (s : State) : State :=
  let s1 := putImage { im with arrived := im.freed, ctl := [] } s
  match im.channel with
  | none => s1
  | some k =>
    let (fourth, s2) := failRecord k im.freed 131136 s1
    if fourth then
      let st := statusWord im.owner 0 1 0x31
      setF itkB F.itkLastlocItem 9 (lastEvt itkB F.itkLastStatus st (logStatus st 0 [im.handle, 9, im.freed]
        (modImage im.handle (fun i => { i with status := st }) s2)))
    else s2

/-- BASIN_RECORD: the next record of an image has arrived whole. -/
def basinRecord (h : Nat) (s : State) : State :=
  match getImage s h with
  | none => s
  | some im =>
    if frozen s || im.st ≠ .programming || !im.accepted then s
    else match bulkAt im.sects im.freed with
      | some (8, _, e) =>
        if im.freed + 131136 ≤ e ∧ im.freed + 131136 ≤ im.arrived then
          let bs := ctlBytes im im.freed 131136
          if recordOk im bs then takeRecord im bs s else failBasinRecord im s
        else s
      | _ => s

/-! ### Swaps (R192, R197, R203) -/

/-- An armed swap takes effect at the pass boundary. -/
def basinSwap (b : Nat) (s : State) : State :=
  let x := getBasin s b
  if frozen s then s
  else match x.armed, spareFor s b with
    | some .bringIn, some sp =>
      let lv := (getBasin s sp).target
      let s1 := modBasin sp (fun y => { y with st := .spareIn, target := [], ageFrom := s.counter, ageH := 0 }) s
      if x.recal then
        modBasin b (fun y => { y with armed := none, standIn := some sp, st := .mirrored, programming := true, row := 0, target := lv }) s1
      else
        modBasin b (fun y => { y with armed := none, standIn := some sp, st := .retired, retireDue := true, deferred := false }) s1
    | some .bringBack, some sp =>
      let s1 := modBasin b (fun y => { y with
        armed := none, standIn := none, st := if y.home.isSome then .spareIn else .service, recal := false
        ageH := 0, ageFrom := s.counter, overdue := false, overdueN := 0 }) s
      leaveReqs b true false (freeSpare sp s1)
    | _, _ => s

/-- What the step boundary does for retired basins (R192): their repair entries end and BASIN_RETIRED is logged. -/
def retireBoundary (s : State) : State :=
  let due := (s.cist.basins.filter (fun e => e.2.retireDue)).map (·.1)
  due.foldl (fun t b =>
    let t1 := modBasin b (fun x => { x with retireDue := false }) t
    logBasin b 0x54 [] { t1 with cist := { t1.cist with repairs := t1.cist.repairs.filter (fun e => e.basin ≠ b) } }) s

/-! ### Age (R195, R196, R199) -/

/-- Powered time since the latest recalibration, in counts. -/
def basinAge (s : State) (x : Basin) : Nat := x.ageH * 90000000000 + (s.counter - x.ageFrom)

/-- Is a basin programmed and serving: an original, or a permanent stand-in? -/
def serving (s : State) (x : Basin) : Bool :=
  x.st = .service || (x.st = .spareIn && x.home.any (fun o => (getBasin s o).st = .retired))

/-- I of R196 in counts; k halvings of BASE_H, at least MIN_H. -/
def calInterval (s : State) (b : Nat) : Nat :=
  let base := cstB (basinDie b)
  let baseH := max 6 (getF s base F.cstCalcfgBaseH)
  let minH := max 1 (getF s base F.cstCalcfgMinH)
  let hot := min 0x55 (getF s base F.cstCalcfgHotC)
  let tm := (getPlot s (plotOf b)).hourMean
  let k := if tm > 8 * hot then (tm - 8 * hot) / 40 else 0
  max (minH * 90000000000) (baseH * 90000000000 / 2 ^ k)

/-- Is a basin named by a request (R201)? -/
def requested (s : State) (b : Nat) : Bool :=
  let home := (getBasin s b).home.getD b
  (getPlot s (plotOf home)).reqs.any (fun q => q.left.contains home)

/-- A basin that falls due is queued before the requested ones. -/
def queueDue (b : Nat) (s : State) : State :=
  if s.cist.queue.contains b then s
  else
    let pre := s.cist.queue.takeWhile (fun q => !requested s q)
    let post := s.cist.queue.drop pre.length
    modBasin b (fun x => { x with queued := true }) { s with cist := { s.cist with queue := pre ++ [b] ++ post } }

def recalDue (b : Nat) (s : State) : State :=
  let x := getBasin s b
  if !frozen s && serving s x && !x.recal && decide (basinAge s x ≥ calInterval s b) then queueDue b s else s

/-- CAL_OVERDUE: 1.5 × I without recalibration, then once per further interval (R199, R200). -/
def calOverdue (b : Nat) (s : State) : State :=
  let x := getBasin s b
  let i := calInterval s b
  if !frozen s && serving s x && decide (2 * basinAge s x ≥ (3 + 2 * x.overdueN) * i) then
    irqRaise (cstB (basinDie b)) 32 (logBasin b 0x56 [basinAge s x / 90000000000] (monitorTrip b 6
      (modBasin b (fun y => { y with overdue := true, overdueN := x.overdueN + 1 }) s)))
  else s

/-- SPARE_BASIN_TEST (R195). -/
def spareBasinTest (b unusable : Nat) (offgrid : Bool) (s : State) : State :=
  let cd := cdieOf b
  let last := getK s.cist.spareTests cd 0
  if frozen s || !((cistSpares s cd).contains b) || decide (s.counter < last + 24 * 90000000000) then s
  else
    let s1 := { s with cist := { s.cist with spareTests := setK s.cist.spareTests cd s.counter 0 } }
    if unusable > 16 ∨ offgrid then
      sparesLow cd (modBasin b (fun x => { x with st := .retired, offgrid := offgrid }) s1)
    else s1

/-! ### Recalibration (R197, R198) -/

/-- Basins of a Cistern die that are mirrored now. -/
def mirrors (s : State) (cd : Nat) : Nat := (s.cist.basins.filter (fun e => decide (cdieOf e.1 = cd) && e.2.recal)).length

/-- A reading's nearest level, its two candidate levels, and whether it is ambiguous (readings in 1/64 level). -/
def nearLevel (v : Nat) : Nat := min 15 ((v + 32) / 64)
def ambiguous (v : Nat) : Bool := decide (v % 64 ≥ 26) && decide (v % 64 ≤ 38)

/-- A row's 518 readings. -/
def rowReads (x : Basin) (r : Nat) (reads : NatMap Nat) : List Nat :=
  (List.range 518).map (fun c =>
    let stored := if c = 512 then getK x.levels (cellKey r c) 8 else levelOf x r c
    getK reads (cellKey r c) (64 * stored))

/-- Does a row of 518 level codes match its check word? -/
def rowMatches (codes : List Nat) : Bool :=
  let w := checkWord (codes.take 514)
  (List.range 4).all (fun i => codes.getD (514 + i) 0 = w / 16 ^ i % 16)

/-- Every combination of candidate levels of the ambiguous columns. -/
def combos (vs : List Nat) : List Nat → List (List Nat)
  | [] => [vs.map nearLevel]
  | c :: cs => (combos vs cs).flatMap (fun l => [l.set c (vs.getD c 0 / 64), l.set c (min 15 (vs.getD c 0 / 64 + 1))])

/-- Step 2 of R197: the levels of a row, none where it is unresolved. -/
def resolveRow (vs : List Nat) : Option (List Nat) :=
  let near := vs.map nearLevel
  if rowMatches near then some near
  else
    let amb := (List.range 518).filter (fun c => ambiguous (vs.getD c 0))
    if amb.length > 4 then none
    else match (combos vs amb).filter rowMatches with
      | [l] => some l
      | _ => none

/-- Every row resolved, or none. -/
def resolveAll (x : Basin) (reads : NatMap Nat) : Option (List (List Nat)) :=
  allSome ((List.range 512).map (fun r => resolveRow (rowReads x r reads)))

/-- The worn cells of a read-back: more than 0.05 level from their resolved level (R187). -/
def wornCells (reads : NatMap Nat) (rows : List (List Nat)) : NatMap Nat :=
  reads.filter (fun e => decide (((e.2 : Int) - 64 * ((rows.getD (e.1 / 518) []).getD (e.1 % 518) 0 : Nat)).natAbs ≥ 4))

/-- A basin leaves the queue. -/
def dequeue (b : Nat) (s : State) : State :=
  modBasin b (fun x => { x with queued := false }) { s with cist := { s.cist with queue := s.cist.queue.filter (fun q => q ≠ b) } }

/-- RECALIBRATION: the next queued basin of its Cistern die is read back and a spare starts programming. -/
def recalibration (b : Nat) (reads : NatMap Nat) (s : State) : State :=
  let cd := cdieOf b
  let x := getBasin s b
  let most := max 1 (getF s (cstB (basinDie b)) F.cstCalcfgMirrorMax)
  if frozen s || s.rely.coresLost || inTrickle s || s.cist.queue.find? (fun q => cdieOf q = cd) ≠ some b || !serving s x || x.recal || x.armed.isSome ||
      decide (mirrors s cd ≥ most) then s
  else match cistSpares s cd with
    | [] => s
    | sp :: _ =>
      match resolveAll x reads with
      | none =>
        let s1 := leaveReqs b false false (dequeue b s)
        noticeOwner x.owner (basinStatus s1 b 0x59) (logBasin b 0x59 [] s1)
      | some rows =>
        let target := rows.zipIdx.flatMap (fun e => ((e.1.take 512).zipIdx.map (fun z => (cellKey e.2 z.2, z.1))).filter (fun z => z.2 ≠ 8))
        takeSpare b sp target (modBasin b (fun y => { y with recal := true, worn := wornCells reads rows }) (dequeue b s))

/-- CAL_REQUEST (R201). -/
def calRequest (src : CmdSrc) (s : State) : State :=
  takeCmd src 0x20 (fun c t =>
    let p := c.arg0 % 2 ^ 13
    if c.by_ < 4 ∧ ((getPlot t p).owner ≠ c.by_ ∨ (getPlot t p).st = .free ∨ c.arg0 ≥ 2 ^ 13) then refuseCmd c 0x37 t
    else
      let all := (List.range 256).map (fun i => p * 256 + i)
      let bs := all.filter (fun b => serving t (getBasin t (physBasin t b)) || (getBasin t b).recal)
      let q : CalReq := { by_ := c.by_, qp := c.qp, left := bs }
      finishReqs p (bs.foldl (fun u b => if (getBasin u b).recal then u else queueCal (physBasin u b) u)
        (modPlot p (fun x => { x with reqs := x.reqs ++ [q] }) (ack c t)))) s

/-! ### After a cold power-on (R204) -/

/-- One basin that the basin map shows as interrupted. -/
def recoverBasin (b : Nat) (s : State) : State :=
  let x := getBasin s b
  if (getPlot s (plotOf b)).st = .releasing then setBasin b { x with row := 0 } s
  else if x.home.isSome ∧ (x.st = .spareFree ∨ x.home.any (fun o => (getBasin s o).recal)) then freeSpare b s
  else if x.recal then
    setBasin b { x with st := if x.home.isSome then .spareIn else .service, standIn := none, recal := false, armed := none, programming := false, row := 0, target := [] } s
  else if x.programming ∧ x.st = .unprog then
    let st := basinStatus s b 0x5A
    noticeOwner x.owner st (logBasin b 0x5A [] (setBasin b { x with programming := false, row := 0, target := [], digest := [] } s))
  else s

/-- BASIN_RECOVERY: spares first, since their originals serve again. -/
def basinRecovery (s : State) : State :=
  let ks := s.cist.basins.map (·.1)
  let spares := ks.filter (fun b => (getBasin s b).home.isSome)
  ks.foldl (fun t b => recoverBasin b t) (spares.foldl (fun t b => recoverBasin b t) s)

/-! ### The commands -/

def execBasinRecord (image : Nat) (s : State) : Out := .next (basinRecord image s)
def execProgramRow (basin : BasinIx) (stuck : List CellStop) (pulsed : List (Fin 518)) (range : Fin 3) (s : State) : Out :=
  .next (programRow basin.toNat (stuck.map (fun e => (e.col.val, e.at_.val, e.held))) (pulsed.map (·.val)) range.val s)
def execBasinSwap (basin : BasinIx) (s : State) : Out := .next (basinSwap basin.toNat s)
def execSpareBasinTest (basin : BasinIx) (unusable : Nat) (offgrid : Bool) (s : State) : Out :=
  .next (spareBasinTest basin.toNat unusable offgrid s)
def execRecalDue (basin : BasinIx) (s : State) : Out := .next (recalDue basin.toNat s)
def execRecalibration (basin : BasinIx) (reads : List CellRead) (s : State) : Out :=
  .next (recalibration basin.toNat (reads.foldl (fun m e => insertK m (cellKey e.row.val e.col.val) e.at_.val) []) s)
def execCalOverdue (basin : BasinIx) (s : State) : Out := .next (calOverdue basin.toNat s)
def execCalRequest (src : CmdSrc) (s : State) : Out := .next (calRequest src s)

end Sys2Proof.Machine
end

