-- ==== Sys2Proof/Machine/Engine.lean ====
section
/-!
DEFINITION. The stream engine: water shares and their use, admission, the stream cache, delivery of tokens, parks and their
ends, and the end of a stream (R399 to R430, R44, R401, R404, R414, R419 to R421, R425, R456).
-/

namespace Sys2Proof.Machine

/-! ### Shares and use (R407) -/

def streamsOf (s : State) (h : Nat) : List Stream := (s.eng.streams.map (·.2)).filter (fun x => x.holding = h)

/-- Does a state count toward the active-slot share in a role? -/
def usesSlot (role : Nat) (st : StreamState) : Bool :=
  match role with
  | 3 => false
  | 1 => st = .waiting || st = .prompt
  | _ => st = .waiting || st = .prompt || st = .active

def slotUse (s : State) (h : Nat) : Nat := ((streamsOf s h).filter (fun x => usesSlot (moduleRole s) x.st)).length
def idShare (s : State) (h : Nat) : Nat := min 0x100000 (getHold s h).shStreams
def slotShare (s : State) (h : Nat) : Nat := min 0x600 (getHold s h).shSlots
/-- The power share in W: the register's, or less where the holding set its own (R480). -/
def powerShareOf (s : State) (h : Nat) : Nat :=
  let x := getHold s h
  match x.ownPower with
  | some p => min p x.shPower
  | none => x.shPower

/-! ### Admission (R408 step 1) -/

/-- Is the ring in SPLIT mode (R394)? -/
def ringSplit (s : State) : Bool := getF s (rngB 0) F.rngStatMode = 4

/-- Is admission closed? -/
def admissionClosed (s : State) : Bool :=
  ringSplit s || s.eng.roleTo.isSome || s.beyond || decide (s.tally.q ≥ 2 ^ 40) || lifecycle s = 3 ||
    (getF s drdB F.drdLevelLevel = 2 && getF s drdB F.drdLevelAutoWake = 0)

/-- STR_ACTIVE.CLOSED follows; a change raises the STR source (R612). -/
def refreshClosed (s : State) : State :=
  let c := admissionClosed s
  if (getF s strB F.strActiveClosed = 1) = (c = true) then s
  else irqRaise strB 4 (setB strB F.strActiveClosed c s)

/-! ### The stream cache (R401) -/

/-- Streams in these states stay in the cache. -/
def pinned (st : StreamState) : Bool := st = .staging || st = .prompt || st = .active || st = .exporting

/-- The cache without its least recently used stream that is not pinned, where it is over its size. -/
def evict (s : State) (l : List Nat) : List Nat :=
  if l.length + s.rely.cacheOff.length ≤ 65536 then l
  else match l.reverse.find? (fun i => !((getStream s i).any (fun x => pinned x.st))) with
    | some i => l.erase i
    | none => l

/-- A command reads a stream's context: a miss is counted. -/
def touch (id : Nat) (s : State) : State :=
  if s.eng.cache.contains id then setEng (fun e => { e with cache := id :: e.cache.erase id }) s
  else bumpPair strB 0x134 1 (setEng (fun e => { e with cache := evict s (id :: e.cache) }) s)

/-! ### Completion entries of a stream -/

/-- ENERGY of the context in µJ: the running accrual (R440, R515). -/
def energyOf (s : State) (id : Nat) : Nat :=
  let a := getK s.tally.accr id {}
  ((a.dyn + a.stat + a.resid) / 1000).toNat % 2 ^ 48
/-- UNC of the context in µJ. -/
def uncOfStream (s : State) (id : Nat) : Nat := ((getK s.tally.accr id {}).unc + 999999) / 1000000

/-- The code of a park cause in a notice (R515). -/
def causeCode : ParkCause → Nat
  | .host => 0 | .share => 1 | .budget => 2 | .hbm => 3 | .backpressure => 4 | .split => 5 | .role => 6 | .fault => 7

/-- A notice of a stream, logged (R419, R587); it becomes the stream's latest status word. -/
def streamNotice (id code v0 : Nat) (detail : List Nat) (s : State) : State :=
  withSome (getStream s id) (fun x t =>
    let st := strStatus x code
    logStatus st id (v0 :: detail)
      (postCpl x.holding x.qp { kind := 3, status := st, handle := handleOf x, tag := x.tag, v0 := v0 }
        (putStream { x with status := st } t))) s

/-! ### Parks (R419, R420) -/

/-- Does a role serve a stream (R418 step 5)? -/
def roleServes (role : Nat) (x : Stream) : Bool :=
  match role with
  | 0 => x.imported || x.promptComplete
  | 1 => !(x.imported || x.promptComplete)
  | 2 => true
  | _ => false

/-- Parks a stream: out of its slot or sweep, its pages kept. `code` is PARKED_NOTICE, or STREAM_FAILED (R427). -/
def parkStream (id : Nat) (c : ParkCause) (code : Nat) (detail : List Nat) (s : State) : State :=
  match getStream s id with
  | none => s
  | some x =>
    if x.st = .parked then
      (if x.causes.contains c then s else putStream { x with causes := x.causes ++ [c] } s)
    else if x.st = .waiting ∨ x.st = .prompt ∨ x.st = .active then
      let s1 := modStream id (fun y => { y with slot := none, parkDue := false, causes := [c], chunk := 0 }) (setStreamSt id .parked s)
      streamNotice id code (causeCode c) detail (whenB (c ≠ .host) (bumpF strB F.strEvtParks 1) s1)
    else s

/-- A parked stream without a cause returns to WAITING, or to CACHED in Cache role (R403, R418). -/
def unpark (id : Nat) (s : State) : State :=
  match getStream s id with
  | none => s
  | some x =>
    if x.st = .parked && x.causes.isEmpty then
      (if moduleRole s = 3 then setStreamSt id .cached s
       else streamNotice id 0x0B 0 [] (setStreamSt id .waiting s))
    else s

/-- Ends one cause of a parked stream. -/
def endCause (id : Nat) (c : ParkCause) (s : State) : State :=
  withSome (getStream s id) (fun x t =>
    if x.st = .parked && x.causes.contains c then unpark id (putStream { x with causes := x.causes.filter (fun k => k ≠ c) } t) else t) s

/-! ### Delivery (R414) -/

/-- May the module write a token entry of a stream now? -/
def mayDeliver (s : State) (x : Stream) : Bool :=
  let q := getQP s x.holding x.qp
  !frozen s && q.en && cqFree q && !waitsInBuf s x.holding x.qp

/-- Delivers waiting tokens while the completion queue takes them; each entry is charged to the stream (R436). -/
def deliverLoop (id : Nat) : Nat → State → State
  | 0, s => s
  | n + 1, s =>
    match getStream s id with
    | none => s
    | some x =>
      match x.toks with
      | [] => s
      | (tok, pos) :: rest =>
        if mayDeliver s x then
          deliverLoop id n (chargeBytes id 64
            (writeCpl x.holding x.qp { kind := 1, handle := handleOf x, tag := x.tag, counter := s.counter, v0 := tok, v1 := pos,
                                       v2 := energyOf s id }
              (putStream { x with toks := rest } s)))
        else s

/-- Delivers a stream's tokens; below 64 waiting ones a BACKPRESSURE park ends. -/
def deliverToks (id : Nat) (s : State) : State :=
  if frozen s then s
  else
    let s1 := deliverLoop id ((getStream s id).elim 0 (fun x => x.toks.length)) s
    if (getStream s1 id).any (fun x => decide (x.toks.length < 64)) then endCause id .backpressure s1 else s1

/-! ### The end of a stream (R404, R425, R456) -/

/-- Must terminal events of a holding wait (R454, R456)? -/
def terminalWaits (s : State) (h : Nat) : Bool := getF s tlyB F.tlyStatHalted = 1 || ringFull s h

/-- A channel that a stream's import or export used binds no stream any more. -/
def unbindX (x : Stream) (s : State) : State :=
  match keyOfWire (x.xchan % 65536) with
  | some k => modChan k (fun c => if c.bind = bindOf x then { c with bind := 0 } else c) s
  | none => s

/-- The commit point: DONE, the stream's memory freed, its Tally record taken, its final entry issued, and the commands
that wait for its end answered. -/
def commitEnd (id : Nat) (st : Word) (s : State) : State :=
  match getStream s id with
  | none => s
  | some x =>
    let s1 := setStreamSt id .done (unbindX x (freeStream id (chargeBytes id 64 s)))
    let s2 := modStream id (fun y => { y with
      slot := none, status := st, toks := [], causes := [], ending := none, abortCmds := [], admitCmd := none
      abortDue := false, parkDue := false, chunk := 0, expRecs := [] }) s1
    let t := (getStream s2 id).getD x
    let s3 := setTally (fun u => { u with
      terms := u.terms ++ [{ strm := { t with new := x.new - x.toks.length }, endCtr := s.counter, role := moduleRole s }] }) s2
    let s4 := postCpl x.holding x.qp
      { kind := 2, status := st, handle := handleOf x, tag := x.tag, v0 := x.new, v1 := x.promptDone, v2 := energyOf s id } s3
    let s5 := x.abortCmds.foldl (fun u c =>
      if st.toNat % 256 = 2 then ack c u else refuseAt c 0x10 id 0x01 u) s4
    match x.admitCmd with
    | some c => respond c st (handleOf x) 0 0 0 s5
    | none => s5

/-- Commits the end of a stream where its tokens are delivered and the ledger takes its record. -/
def tryEnd (id : Nat) (s : State) : State :=
  match getStream s id with
  | none => s
  | some x =>
    match x.ending with
    | none => s
    | some st =>
      let s1 := deliverToks id s
      if (getStream s1 id).any (fun y => !y.toks.isEmpty) || terminalWaits s1 x.holding || frozen s1 then s1
      else commitEnd id st s1

/-- Ends a stream with a status word; an abort discards what is not delivered. -/
def endStreamWith (id : Nat) (st : Word) (s : State) : State :=
  tryEnd id (modStream id (fun x => { x with
    ending := some st
    new := if st.toNat % 256 = 2 then x.new - x.toks.length else x.new
    toks := if st.toNat % 256 = 2 then [] else x.toks }) s)

def endStream (id code : Nat) (s : State) : State :=
  withSome (getStream s id) (fun x t => endStreamWith id (strStatus x code) t) s

/-- Streams whose end waits are tried again. -/
def retryEnds (s : State) : State :=
  ((s.eng.streams.filter (fun e => e.2.ending.isSome)).map (·.1)).foldl (fun t id => tryEnd id t) s

/-- Tokens and ends of a queue pair's streams that can go now (R414). -/
def serveQP (h q : Nat) (s : State) : State :=
  let ids := (s.eng.streams.filter (fun e => e.2.holding = h && e.2.qp = q && !e.2.toks.isEmpty)).map (·.1)
  retryEnds (ids.foldl (fun t id => deliverToks id t) s)

/-! ### Abandoned exports (R421) -/

/-- An export is abandoned: pages and stream return, EXPORT_ABANDONED goes to the holding. -/
def abandonExport (id : Nat) (s : State) : State :=
  match getStream s id with
  | none => s
  | some x =>
    if x.st = .exporting then
      let back : StreamState := if moduleRole s = 3 then .cached else .parked
      streamNotice id 0x0C 0 [] (modStream id (fun y => { y with causes := if moduleRole s = 3 then [] else [.host] })
        (setStreamSt id back (pagesBack id s)))
    else s

/-- Every burst of an export is acknowledged: DONE with EXPORTED (R403). -/
def exportDone (id : Nat) (s : State) : State :=
  match getStream s id with
  | none => s
  | some x =>
    if x.st = .exporting && x.expRecs.isEmpty && !outstanding s x 0 (2 ^ 60) then endStream id 0x04 s else s

/-! ### Micro-batches and IDs (R400, R411) -/

/-- Streams assigned to a micro-batch. -/
def assigned (s : State) (m : Nat) : Nat :=
  (s.eng.streams.filter (fun e => e.2.mb = m && (e.2.st = .waiting || e.2.st = .prompt || e.2.st = .active || e.2.st = .parked))).length

/-- The micro-batch with the fewest assigned streams, the lowest index on a tie. -/
def leastBatch (s : State) : Nat :=
  (List.range 4).foldl (fun b m => if assigned s m < assigned s b then m else b) 0

/-- The next free ID after the last one allocated, wrapping. -/
def nextId (s : State) : Nat → Nat → Option Nat
  | 0, _ => none
  | n + 1, i =>
    let k := (i + 1) % 2 ^ 20
    if (getStream s k).isNone then some k else nextId s n k

def freeId (s : State) : Option Nat := if s.eng.streams.length ≥ 2 ^ 20 then none else nextId s (s.eng.streams.length + 1) s.eng.lastId

end Sys2Proof.Machine
end

