-- ==== Sys2Proof/Machine/Streams.lean ====
section
/-!
DEFINITION. The stream commands of a holding and the events of the stream pipeline: ADMIT, ABORT, PARK, RESUME, EXPORT,
QUERY, LIST, the end of DONE_HOLD, share writes, doorbells that let entries go (R399 to R431, R509 to R518).
-/

namespace Sys2Proof.Machine

/-! ### Commands on a stream -/

/-- The stream that a command names: its own ID and generation, of its holding (R399). -/
def namedStream (s : State) (c : HostCmd) : Option Stream :=
  (getStream s (c.handle % 2 ^ 20)).filter (fun x => x.holding = c.by_ && x.gen = c.handle / 2 ^ 20)

/-- A command on a stream; another handle is answered with UNKNOWN_STREAM. -/
def onStream (src : CmdSrc) (op : Nat) (f : HostCmd → Stream → State → State) (s : State) : State :=
  takeCmd src op (fun c t =>
    match namedStream t c with
    | none => refuseAt c 0x10 (c.handle % 256) 0x06 t
    | some x => f c x (touch x.id t)) s

/-- A refusal of a command on a stream. -/
def refuseStream (c : HostCmd) (x : Stream) (code : Nat) (s : State) : State := refuseAt c 0x10 x.id code s

/-- ABORT (R425, R426): at once, or pending until the next boundary. -/
def abort (src : CmdSrc) (s : State) : State :=
  onStream src 0x02 (fun c x t =>
    match x.st with
    | .done => refuseStream c x 0x01 t
    | .active => modStream x.id (fun y => { y with abortDue := true, abortCmds := y.abortCmds ++ [c] }) t
    | .prompt => modStream x.id (fun y => { y with abortDue := true, abortCmds := y.abortCmds ++ [c] }) t
    | _ => endStream x.id 0x02 (modStream x.id (fun y => { y with abortCmds := y.abortCmds ++ [c] }) (abandonExport x.id t))) s

/-- PARK (R405). -/
def parkCmd (src : CmdSrc) (s : State) : State :=
  onStream src 0x03 (fun c x t =>
    if (x.st = .waiting ∨ x.st = .prompt ∨ x.st = .active) ∧ x.ending.isNone then
      ack c (modStream x.id (fun y => { y with parkDue := true }) t)
    else refuseStream c x 0x07 t) s

/-- RESUME (R420): clears HOST and FAULT; a stream whose state is lost, or that the role does not serve, is refused. -/
def resumeCmd (src : CmdSrc) (s : State) : State :=
  onStream src 0x04 (fun c x t =>
    if x.st ≠ .parked ∨ x.lost ∨ x.ending.isSome then refuseStream c x 0x07 t
    else if !roleServes (moduleRole t) x then refuseStream c x 0x08 t
    else
      ack c (unpark x.id (modStream x.id (fun y => { y with causes := y.causes.filter (fun k => k ≠ .host && k ≠ .fault) }) t))) s

/-- EXPORT (R356, R421): from PARKED or CACHED, on a KV_OUT channel of the holding. -/
def exportCmd (src : CmdSrc) (s : State) : State :=
  onStream src 0x05 (fun c x t =>
    match xchanOf t c.by_ .kvOut (bindOf x) c.arg0 with
    | none => refuseCmd c 0x39 t
    | some k =>
      if (x.st = .parked ∨ x.st = .cached) ∧ ¬ x.lost ∧ x.ending.isNone then ack c (startExport x.id k c.arg0 t)
      else refuseStream c x 0x07 t) s

/-! ### QUERY and LIST -/

/-- The code of a stream state (R403). -/
def stateCode : StreamState → Nat
  | .staging => 1 | .waiting => 2 | .prompt => 3 | .active => 4 | .parked => 5 | .exporting => 6 | .cached => 7 | .done => 8

/-- FLAGS of the context. -/
def contextFlags (x : Stream) : Nat :=
  (if x.abortDue then 1 else 0) + (if x.parkDue then 2 else 0) + (if x.imported then 4 else 0)
    + (if x.promptComplete then 8 else 0) + (if x.predUsed then 16 else 0) + (if x.causes.contains .backpressure then 32 else 0)

/-- The 256 bytes of a stream's context (*Table: Stream context*), SEED as given. -/
def contextBytes (s : State) (x : Stream) (seed : Nat) : List Byte :=
  leBytes 4 (handleOf x) ++ leBytes 1 (stateCode x.st) ++ leBytes 1 x.holding ++ leBytes 1 (x.mb + (if x.slot.isSome then 128 else 0))
    ++ leBytes 1 (contextFlags x) ++ leBytes 2 x.image ++ leBytes 2 x.adapter ++ leBytes 2 x.qp ++ leBytes 2 (x.slot.getD 0xFFFF)
    ++ leBytes 4 x.nctx ++ leBytes 4 x.promptLen ++ leBytes 4 x.promptDone ++ leBytes 4 x.maxNew ++ leBytes 4 x.new
    ++ (List.range 4).flatMap (fun i => leBytes 4 (x.stops.getD i 0xFFFFFFFF)) ++ leBytes 4 x.temp.toNat ++ leBytes 2 x.topk ++ leBytes 2 0
    ++ leBytes 4 x.topp.toNat ++ leBytes 8 seed ++ leBytes 8 x.tag ++ leBytes 8 x.admitCtr ++ leBytes 8 x.stateCtr
    ++ leBytes 8 (energyOf s x.id) ++ leBytes 8 x.slotTime ++ leBytes 4 (uncOfStream s x.id) ++ leBytes 4 x.status.toNat
    ++ (List.range 4).flatMap (fun i => leBytes 8 (x.maps.getD i 0)) ++ leBytes 8 x.promptBuf ++ leBytes 2 x.toks.length ++ leBytes 2 0
    ++ leBytes 4 x.nextIn ++ leBytes 4 x.xchan ++ leBytes 4 x.xack ++ List.replicate 80 0

/-- QUERY: the context without SEED goes to ADDR. -/
def query (src : CmdSrc) (s : State) : State :=
  onStream src 0x06 (fun c x t =>
    let u := settleNow x.id t
    ack c (chargeBytes (holdKey c.by_) 256 (emit (.hostWrite c.by_ c.addr (contextBytes u ((getStream u x.id).getD x) 0)) u))) s

/-- LIST: the holding's handles in ascending ID. -/
def listCmd (src : CmdSrc) (s : State) : State :=
  takeCmd src 0x07 (fun c t =>
    let all := (streamsOf t c.by_).filter (fun x =>
      decide (x.id ≥ c.arg0) && (c.arg1 % 256).testBit (stateCode x.st - 1))
    let out := all.take (c.len / 4)
    let next := ((all.drop (c.len / 4)).head?).elim (2 ^ 20) (fun x => x.id)
    respond c 0 0 out.length next 0
      (whenB (!out.isEmpty) (emit (.hostWrite c.by_ c.addr (out.flatMap (fun x => leBytes 4 (handleOf x))))) t)) s

/-! ### ADMIT (R406, R408, R516, R517) -/

/-- The admit descriptor (*Table: Admit descriptor*). -/
structure AdmitDesc where
  image   : Nat
  adapter : Nat
  aflags  : Nat
  qp      : Nat
  plen    : Nat
  maxNew  : Nat
  stops   : List Nat
  temp    : Word
  topk    : Nat
  topp    : Word
  xchan   : Nat
  seed    : Nat
  tag     : Nat
  nextIn  : Nat
  zeros   : Bool
  deriving DecidableEq, Repr

def parseAdmit (b : List Byte) : AdmitDesc :=
  { image := fieldLE b 0 2, adapter := fieldLE b 2 2, aflags := fieldLE b 4 2, qp := fieldLE b 6 2, plen := fieldLE b 8 4
    maxNew := fieldLE b 0x0C 4, stops := (List.range 4).map (fun i => fieldLE b (0x10 + 4 * i) 4)
    temp := BitVec.ofNat 32 (fieldLE b 0x20 4), topk := fieldLE b 0x24 2, topp := BitVec.ofNat 32 (fieldLE b 0x28 4)
    xchan := fieldLE b 0x2C 4, seed := fieldLE b 0x30 8, tag := fieldLE b 0x38 8, nextIn := fieldLE b 0x40 4
    zeros := decide (fieldLE b 4 2 < 8) && decide (fieldLE b 0x26 2 = 0) && decide (fieldLE b 0x44 60 = 0) }

def AdmitDesc.import_ (d : AdmitDesc) : Bool := d.aflags.testBit 0
def AdmitDesc.byId (d : AdmitDesc) : Bool := d.aflags.testBit 1
def AdmitDesc.export_ (d : AdmitDesc) : Bool := d.aflags.testBit 2

/-- The checks of R519 on a descriptor; log entry 54 gives their order. -/
def admitGate (s : State) (c : HostCmd) (d : AdmitDesc) : Option Nat :=
  if !d.zeros || (!d.byId && c.handle ≠ 0) then some 0x36
  else if c.len ≠ 128 + (if d.import_ then 0 else 4 * d.plen) || (d.import_ && d.plen ≠ 0) || decide (d.qp ≥ 64) || !(getQP s c.by_ d.qp).en then some 0x37
  else if d.import_ && (xchanOf s c.by_ .kvIn 0 d.xchan).isNone then some 0x39
  else if !d.import_ && d.export_ && (xchanOf s c.by_ .kvOut 0 d.xchan).isNone then some 0x39
  else none

/-- Is an image visible to a holding for ADMITs (R43)? -/
def imageVisible (im : Image) (h : Nat) : Bool := im.owner = h || (im.owner = 15 && im.mask.testBit h)

/-- Does an adapter handle serve the admission (R518)? -/
def adapterOk (s : State) (c : HostCmd) (d : AdmitDesc) : Bool :=
  d.adapter = 0xFFFF || (match lookupK s.eng.adapters d.adapter with
    | some a => !a.released && a.owner = c.by_ && a.image = d.image
    | none => false)

/-- Is an image available to an ADMIT (R406)? In Cache role no image lists the role, and the role is not asked (log
entry 54). -/
def imageAvailable (s : State) (c : HostCmd) (d : AdmitDesc) : Bool :=
  (getImage s d.image).any (fun im => im.st = .active && imageVisible im c.by_ &&
    (moduleRole s = 3 || roleIn im.roles (moduleRole s))) && adapterOk s c d

/-- The checks of R406 and the role check (R408): role, prompt, image. -/
def admitFirst (s : State) (c : HostCmd) (d : AdmitDesc) : Option Nat :=
  let role := moduleRole s
  let ctx := (getImage s d.image).map (fun im => 64 * im.ctxP)
  if (if d.import_ then role = 1 else (role ≠ 1 ∧ role ≠ 2)) then some 0x08
  else if d.maxNew = 0 ∨ (¬ d.import_ ∧ (d.plen = 0 ∨ ctx.any (fun n => decide (d.plen ≥ n)))) then some 0x0E
  else if !imageAvailable s c d then some 0x09
  else none

/-- Steps 1 to 4 of R408 and the requested ID (R400): unit class and code of the refusal, or the ID. -/
def admitSteps (s : State) (c : HostCmd) (d : AdmitDesc) : Sum (Nat × Nat) Nat :=
  let h := c.by_
  let want := c.handle % 2 ^ 20
  if admissionClosed s then .inl (0x10, 0x0D)
  else if decide ((streamsOf s h).length ≥ idShare s h) then .inl (0, 0x60)
  else
    match freeId s with
    | none => .inl (1, 0x60)
    | some i =>
      if d.byId && (getStream s want).isSome then .inl (0x10, if d.import_ then 0x4F else 0x07)
      else if moduleRole s ≠ 3 && decide (slotUse s h ≥ slotShare s h) then .inl (0, 0x60)
      else if (getHold s h).budgetEn && decide ((getHold s h).balance < 0) then .inl (0, 0x63)
      else .inr (if d.byId then want else i)

/-- HBM pages of an admission (R408 step 5): page maps, and the prompt buffer of a prompt. -/
def admitPages (h : Nat) (k : KvDims) (d : AdmitDesc) (s : State) :
    Sum Nat (List Nat × List (Nat × Nat) × Option (Nat × Nat) × State) :=
  match takeMaps h k s with
  | .inl c => .inl c
  | .inr (ms, rs, t) =>
    if d.import_ then .inr (ms, rs, none, t)
    else match takeBuf h (4 * d.plen) t with
      | .inl c => .inl c
      | .inr (p, n, u) => .inr (ms, rs, some (p, n), u)

/-- A refused ADMIT is counted (STR_EVT). -/
def refuseAdmit (c : HostCmd) (d : AdmitDesc) (cls code : Nat) (s : State) : State :=
  refuseAt c cls (if cls = 0x10 then (if d.byId then c.handle % 256 else 0) else if cls = 0 then c.by_ else 0) code
    (bumpF strB F.strEvtRefused 1 s)

/-- The context of a new stream. -/
def newStream (s : State) (c : HostCmd) (d : AdmitDesc) (id gen : Nat) (maps : List Nat) (runs : List (Nat × Nat))
    (buf : Option (Nat × Nat)) : Stream :=
  { id := id, gen := gen, holding := c.by_, mb := leastBatch s, imported := d.import_, image := d.image, adapter := d.adapter
    qp := d.qp, promptLen := d.plen, maxNew := d.maxNew, stops := d.stops, temp := d.temp, topk := d.topk, topp := d.topp
    seed := d.seed, tag := d.tag, admitCtr := s.counter, stateCtr := s.counter, maps := maps, runs := runs
    promptBuf := buf.elim 0 (fun b => pageAddr b.1), bufRun := buf.toList, nextIn := d.nextIn, xchan := d.xchan
    toExport := d.export_, order := s.eng.admits, slotFrom := s.counter, frameFrom := s.counter
    admitCmd := if d.import_ then none else some c }

/-- ADMIT: the descriptor has been read; checks, then an ID in STAGING. -/
def admitStream (import_ : Bool) (k : Nat) (bytes : List Byte) (s : State) : State :=
  let d := parseAdmit bytes
  if bytes.length ≠ 128 ∨ d.import_ ≠ import_ then s
  else takeCmd (.host k) 0x01 (fun c t =>
    match admitGate t c d with
    | some code => refuseCmd c code t
    | none =>
      match admitFirst t c d with
      | some code => refuseAdmit c d 0x10 code t
      | none =>
        match admitSteps t c d with
        | .inl (cls, code) => refuseAdmit c d cls code t
        | .inr id =>
          match admitPages c.by_ ((getImage t d.image).elim ⟨0, 0, 64, 0⟩ imageDims) d t with
          | .inl cls => refuseAdmit c d cls 0x60 t
          | .inr (ms, rs, buf, u) =>
            if ringHigh u c.by_ then refuseAdmit c d 0x11 0x60 t
            else
              let gen := (getK u.eng.gens id 0 + 1) % 4096
              let x := newStream u c d id gen ms rs buf
              let v := putStream x (setEng (fun e => { e with
                gens := setK e.gens id gen 0, lastId := id, admits := e.admits + 1, cache := evict u (id :: e.cache.erase id) }) u)
              if d.import_ then
                respond c 0 (handleOf x) 0 0 0 (match xchanOf v c.by_ .kvIn 0 d.xchan with
                  | some ch => modChan ch (fun y => { y with bind := bindOf x }) v
                  | none => v)
              else v) s

/-- PROMPT_STAGED: the prompt lies in PROMPT_BUF and the ADMIT is answered (R517). -/
def promptStaged (id : Nat) (toks : List Word) (s : State) : State :=
  match getStream s id with
  | none => s
  | some x =>
    match x.admitCmd with
    | none => s
    | some c =>
      if frozen s || x.st ≠ .staging || toks.length ≠ x.promptLen then s
      else
        let s1 := wrMem x.promptBuf (toks.flatMap (fun w => leBytes 4 w.toNat)) (chargeBytes id (128 + 4 * x.promptLen) s)
        let s2 := setStreamSt id (if moduleRole s = 3 then .cached else .waiting) (modStream id (fun y => { y with admitCmd := none }) s1)
        respond c 0 (handleOf x) 0 0 0 s2

/-- A prompt cannot be read: the ADMIT is refused and nothing stays allocated (R517). -/
def promptFailed (id : Nat) (s : State) : State :=
  match getStream s id with
  | none => s
  | some x =>
    match x.admitCmd with
    | none => s
    | some c =>
      let s1 := freeStream id s
      refuseCmd c 0x38 (setEng (fun e => { e with streams := eraseK e.streams id, cache := e.cache.erase id }) s1)

/-- DONE_HOLD elapses and the ID returns to FREE (R404). -/
def doneHoldExpire (id : Nat) (s : State) : State :=
  match getStream s id with
  | none => s
  | some x =>
    let hold := 25000 * 2 ^ (min 16 (getF s strB F.strCfgDoneHoldLog2))
    if !frozen s && x.st = .done && decide (s.counter ≥ x.stateCtr + hold) && !(s.tally.terms.any (fun e => e.strm.id = id)) then
      setEng (fun e => { e with streams := eraseK e.streams id, cache := e.cache.erase id }) s
    else s

/-! ### Share writes (R422, R424) -/

/-- The status of a share write (STR_LASTSHR). -/
def shareResult (h code : Nat) (s : State) : State := lastEvt strB F.strLastshrStatus (statusWord h h 0 code) s

/-- The plot share that a write gives, and its code: clamped to use, refused above 7,680 in all. -/
def plotShare (s : State) (h v : Nat) : Nat × Nat :=
  let w := max v (plotsOf s h)
  let others := (((List.range 4).filter (fun k => k ≠ h)).map (fun k => (getHold s k).shPlots)).foldl (· + ·) 0
  if others + w > 7680 then ((getHold s h).shPlots, 0x62)
  else (w, if w = v then 0 else 0x61)

/-- A write of share register n (0 to 3) for a holding. -/
def writeShare (h n : Nat) (w : Word) (s : State) : State :=
  let x := getHold s h
  match n with
  | 0 => shareResult h 0 (setHold h { x with shStreams := fldOf F.strShr0Streams w } s)
  | 1 => shareResult h 0 (setHold h { x with shSlots := fldOf F.strShr1Slots w, shPower := fldOf F.strShr1Power w } s)
  | 2 => shareResult h 0 (setHold h { x with shPages := fldOf F.strShr2Pages w } s)
  | _ =>
    let (p, code) := plotShare s h (fldOf F.strShr3Plots w)
    shareResult h code (setHold h { x with
      shPlots := p, budgetEn := fldOf F.strShr3BudgetEn w = 1, hardBudget := fldOf F.strShr3HardBudget w = 1 } s)

/-- The holding that a path selects in STR_HSEL (R609). -/
def selHold (s : State) (p : Path) : Nat := fldOf F.strHselHolding (selGet s p (strB + 0x104))

/-! ### The commands -/

def execAdmitPrompt (k : Nat) (desc : List Byte) (s : State) : Out := .next (admitStream false k desc s)
def execAdmitImport (k : Nat) (desc : List Byte) (s : State) : Out := .next (admitStream true k desc s)
def execPromptStaged (stream : StreamId) (tokens : List Word) (s : State) : Out := .next (promptStaged stream.toNat tokens s)
def execAbort (src : CmdSrc) (s : State) : Out := .next (abort src s)
def execPark (src : CmdSrc) (s : State) : Out := .next (parkCmd src s)
def execResume (src : CmdSrc) (s : State) : Out := .next (resumeCmd src s)
def execExport (src : CmdSrc) (s : State) : Out := .next (exportCmd src s)
def execQuery (src : CmdSrc) (s : State) : Out := .next (query src s)
def execList (src : CmdSrc) (s : State) : Out := .next (listCmd src s)
def execDoneHoldExpire (stream : StreamId) (s : State) : Out := .next (doneHoldExpire stream.toNat s)
def execShareWrite (p : Path) (reg : Fin 4) (data : Word) (s : State) : Out :=
  .next (ownedWrite p strB (0x108 + 4 * reg.val) (writeShare (selHold s p) reg.val data) s)
def execCqDoorbell (h : Holding) (qp : QPair) (data : Word) (s : State) : Out :=
  .next (serveQP h.val qp.val (cqDoorbell h.val qp.val data s))
def execQueueEnable (p : Path) (h : Holding) (data : Word) (s : State) : Out :=
  .next (ownedWrite p (hqB h.val) 0x114 (fun t => serveQP h.val (selQP s p h.val) (enableQP h.val (selQP s p h.val) data t)) s)
def execPageSigned (s : State) : Out := .next (retryEnds (pageSigned s))
def execPageSign (unit : Fin 2) (bad : Fin 3) (cycle : Nat) (writes : List (Bool × Bool)) (s : State) : Out :=
  .next (retryEnds (pageSign unit.val bad.val cycle writes s))
def execShutdownRequest (s : State) : Out := .next (shutdownRequest s)

/-- LEDGER_DOORBELL: the host has released units of its ledger queue (R509, R522). -/
def ledgerDoorbell (h : Nat) (data : Word) (s : State) : State :=
  let v := data.toNat % 2 ^ 26
  if frozen s then s
  else if ideBlocked s h then ideRefuse h 0x800 true s
  else if !ledOn s h then s
  else if v ≥ ledUnits s h then badDoorbell h s
  else retryEnds (deliverAll h { s with ledq := setK s.ledq h { getK s.ledq h {} with head := v } {} })

def execLedgerDoorbell (h : Holding) (data : Word) (s : State) : Out := .next (ledgerDoorbell h.val data s)

end Sys2Proof.Machine
end

