-- ==== Sys2Proof/Machine/Boundary.lean ====
section
/-!
DEFINITION. Step and sweep boundaries and the change of role (R409 to R418, R423, R427, R460, R492, R622). Log entry 55 names
what these rules leave open.
-/

namespace Sys2Proof.Machine

/-! ### Steps -/

/-- Steps 0 to 3 of the micro-batches and the sweep, 4. -/
def stepRun (s : State) (k : Nat) : StepRun := getK s.eng.steps k {}
def setStepRun (k : Nat) (r : StepRun) (s : State) : State := setEng (fun e => { e with steps := setK e.steps k r {} }) s

/-- The work of step k. -/
def workOf (k : Nat) : Work := if h : k < 4 then .step ⟨k, h⟩ else .sweep
/-- The step of a work, if it is one. -/
def stepOfWork : Work → Option Nat
  | .step m => some m.val
  | .sweep => some 4
  | _ => none

/-- Is a course, a collective or a record of a work still out? -/
def workBusy (s : State) (w : Work) : Bool :=
  s.acres.any (fun e => (e.2.run.toList ++ e.2.pend.toList ++ e.2.aside.toList ++ e.2.extra).any (fun c => c.issue.work = w)) ||
    s.cist.runs.any (fun e => e.2.any (fun r => r.c.issue.work = w)) || s.ring.colls.any (fun c => c.issue.work = w) ||
    s.records.any (fun r => r.issue.work = w)

/-- Does a stream of a sweep finish its prompt with this chunk? -/
def finishes (x : Stream) : Bool := x.promptDone + x.chunk ≥ x.promptLen

/-- Has a step produced its tokens, or faulted, with nothing of it still out (R412)? A boundary without a step is always
reached. -/
def stepReached (s : State) (k : Nat) : Bool :=
  let r := stepRun s k
  !frozen s && (!r.running ||
    (!workBusy s (workOf k) && (r.faulted || r.streams.all (fun id =>
      (lookupK r.toks id).isSome || (k = 4 && !(getStream s id).any finishes)))))

/-- The chains that broke in a step are whole again, their slots empty (R282). -/
def mendChains (w : Work) (s : State) : State :=
  let mine := s.broken.filter (fun e => e.2.2 = w)
  mine.foldl (fun t e =>
    withSome (getChain t e.1 e.2.1) (fun ch u => (List.range ch.slots).foldl (fun v k => setGate e.1 e.2.1 k {} v) u) t)
    { s with broken := s.broken.filter (fun e => e.2.2 ≠ w), satur := s.satur.filter (fun e => e.2.2 ≠ w) }

/-- The step is issued again once (R427). -/
def reissue (k : Nat) (s : State) : State :=
  let r := stepRun s k
  setStepRun k { r with toks := [], faulted := false, repeat_ := true, named := [], all := false, why := 0 } (mendChains (workOf k) s)

/-- The energy attributed since the last boundary leaves the balances (R460). -/
def subtractBudgets (s : State) : State :=
  (List.range 4).foldl (fun t h =>
    let e := getK t.tally.toSub h 0
    let x := getHold t h
    setTally (fun u => { u with toSub := setK u.toSub h (e % 1000) 0 })
      (setHold h { x with balance := max (-(2 ^ 63 : Nat)) (x.balance - e / 1000) } t)) s

/-! ### Parks due at a boundary -/

/-- Newest admission first. -/
def newestFirst (xs : List Stream) : List Stream := xs.mergeSort (fun a b => decide (a.order ≥ b.order))
/-- Oldest admission first. -/
def oldestFirst (xs : List Stream) : List Stream := xs.mergeSort (fun a b => decide (a.order ≤ b.order))

def allStreams (s : State) : List Stream := s.eng.streams.map (·.2)

/-- The streams of a holding that exceed its active-slot share (R423). -/
def excess (s : State) (h : Nat) : List Nat :=
  ((newestFirst ((streamsOf s h).filter (fun x => usesSlot (moduleRole s) x.st && x.ending.isNone))).take
    (slotUse s h - slotShare s h)).map (·.id)

/-- Did the step's fault name a stream (R427)? -/
def faultNames (r : StepRun) (id : Nat) : Bool := r.faulted && r.streams.contains id && (r.all || r.named.contains id)

/-- The causes with which a stream is to park at a boundary of its step k. -/
def parkCauses (s : State) (k : Nat) (x : Stream) : List ParkCause :=
  let r := stepRun s k
  let runs := x.st = .active || x.st = .prompt
  let h := getHold s x.holding
  (if faultNames r x.id && !r.split then [.fault] else [])
    ++ (if x.parkDue then [.host] else [])
    ++ (if (excess s x.holding).contains x.id then [.share] else [])
    ++ (if runs && h.hardBudget && decide (h.balance < 0) then [.budget] else [])
    ++ (if decide (x.toks.length ≥ 160) then [.backpressure] else [])
    ++ (if runs && (ringSplit s || (r.split && r.streams.contains x.id)) then [.split] else [])
    ++ (if runs && s.eng.roleTo.isSome then [.role] else [])
    ++ (if runs && s.beyond && !faultNames r x.id then [.fault] else [])

/-- Does a frame of a stream hold a poisoned block (R584)? -/
def framePoisoned (s : State) (x : Stream) : Bool :=
  let n := kvBytes (kvDims s x).d
  s.hbmPoison.any (fun p => p.2 && s.eng.frames.any (fun f => f.2.1 = x.id && decide (f.1 ≤ 64 * p.1) && decide (64 * p.1 < f.1 + n)))

/-- A stream whose state is lost is logged to its owner (R584). -/
def markLost (id : Nat) (s : State) : State :=
  withSome (getStream s id) (fun x t =>
    if framePoisoned t x && !x.lost then
      logEvent (statusWord x.holding id 0x10 0) 0x32 id [handleOf x] (putStream { x with lost := true } t)
    else t) s

/-- Parks a stream with every cause that is due; a repeated fault carries STREAM_FAILED and the course's status word. -/
def parkDueStream (k : Nat) (x : Stream) (s : State) : State :=
  let r := stepRun s k
  let cs := parkCauses s k x
  let s1 := cs.foldl (fun t c =>
    if c = .fault && faultNames r x.id then parkStream x.id c 0x05 [r.why.toNat] t else parkStream x.id c 0x0A [] t) s
  if cs.contains .fault then markLost x.id s1 else s1

/-- Parks what is due among the streams of a boundary, newest admission first. -/
def applyParks (k : Nat) (mine : Stream → Bool) (s : State) : State :=
  let due := (newestFirst ((allStreams s).filter (fun x => mine x && x.ending.isNone))).filter (fun x => !(parkCauses s k x).isEmpty)
  due.foldl (fun t x => parkDueStream k x t) s

/-! ### Ends of automatic causes -/

/-- Does an automatic cause of a stream end now? -/
def causeOver (s : State) (x : Stream) (c : ParkCause) : Bool :=
  match c with
  | .share => decide (slotUse s x.holding < slotShare s x.holding)
  | .budget => !(getHold s x.holding).hardBudget || decide ((getHold s x.holding).balance ≥ 0)
  | .hbm => (reservePositions x.id x.nctx (x.nctx + 1) s).isSome
  | .backpressure => decide (x.toks.length < 64)
  | .split => !ringSplit s
  | .role => s.eng.roleTo.isNone && (moduleRole s = 3 || roleServes (moduleRole s) x)
  | _ => false

/-- Parked streams whose automatic causes have ended return, the one parked longest first (R419). -/
def autoResumes (s : State) : State :=
  let parked := ((allStreams s).filter (fun x => x.st = .parked && x.ending.isNone)).mergeSort
    (fun a b => decide (a.stateCtr < b.stateCtr ∨ (a.stateCtr = b.stateCtr ∧ a.order ≤ b.order)))
  parked.foldl (fun t x => x.causes.foldl (fun u c => if causeOver u x c then endCause x.id c u else u) t) s

/-! ### What every boundary does -/

/-- Actions due at a boundary: repair lists, predictor switches and re-arms, retired basins, images that became ready. -/
def boundaryActions (w : Work) (s : State) : State :=
  let s1 := mendChains w (retireBoundary (siphonBoundary s))
  ((s1.images.filter (fun e => e.2.st = .programming)).map (·.1)).foldl (fun t h => readyCheck h t) s1

/-- A role change waits for running work once no stream is in a slot or sweep (R418). -/
def roleStep (s : State) : State :=
  if s.eng.roleTo.isSome && !(allStreams s).any (fun x => x.st = .active || x.st = .prompt) then setF modB F.modRoleStep 3 s else s

/-- The acres of the course lists of the next step that are in Dry are woken (R492). -/
def preWake (ids : List Nat) (s : State) : State :=
  let imgs := (ids.filterMap (fun id => (getStream s id).map (·.image))).eraseDups
  let gs := imgs.flatMap (fun h => (getImage s h).elim [] (fun im =>
    (im.courses.filter (fun d => !dCtl d && roleIn (dRoles d) (moduleRole s))).map (fun d => physOf s (dDie d) (dAcre d))))
  gs.eraseDups.foldl (fun t g => if (getAcre t g).pw = .dry then startWake g 1 t else t) s

/-- The next step or sweep of streams is issued. -/
def issueStep (k : Nat) (ids : List Nat) (s : State) : State :=
  if ids.isEmpty then setStepRun k {} s
  else preWake ids (setStepRun k { running := true, streams := ids, number := s.eng.stepNo + 1 }
    (setEng (fun e => { e with stepNo := e.stepNo + 1 }) s))

/-- May streams start work: the role computes, and neither a role change, SPLIT nor a fault beyond the spares stops it? -/
def mayStart (s : State) : Bool := s.eng.roleTo.isNone && !ringSplit s && !s.beyond

/-- Is a token an end condition (R412)? -/
def endToken (x : Stream) (tok : Nat) : Bool :=
  (x.stops.filter (fun t => t ≠ 0xFFFFFFFF)).contains tok || decide (x.new ≥ x.maxNew)

/-! ### The step boundary (R412) -/

/-- The streams of a micro-batch in a slot, in slot order. -/
def slotOrder (s : State) (m : Nat) : List Nat :=
  (((allStreams s).filter (fun x => x.st = .active && x.mb = m)).mergeSort (fun a b => decide (a.slot.getD 0 ≤ b.slot.getD 0))).map (·.id)

/-- A stream's token of the step, and what it ends. -/
def takeToken (id tok : Nat) (s : State) : State :=
  match getStream s id with
  | none => s
  | some x =>
    if x.st ≠ .active || x.ending.isSome then s
    else
      let y := { x with nctx := x.nctx + 1, new := x.new + 1, nextIn := tok, toks := x.toks ++ [(tok, x.nctx + 1)] }
      let s1 := deliverToks id (putStream y s)
      if endToken y tok then endStream id 0 s1
      else if y.nctx ≥ ctxMax s x then endStream id 0x03 s1
      else s1

/-- The lowest free slot of a micro-batch. -/
def freeSlot (s : State) (m : Nat) : Option Nat :=
  (List.range 384).findSome? (fun i => if (allStreams s).any (fun x => x.slot = some (384 * m + i)) then none else some (384 * m + i))

/-- Gives WAITING streams free slots, oldest admission first (R408 step 3, R409). -/
def fillSlots (m : Nat) (s : State) : State :=
  let ws := oldestFirst ((allStreams s).filter (fun x =>
    x.st = .waiting && x.mb = m && x.ending.isNone && (x.imported || x.promptComplete)))
  if (moduleRole s = 0 ∨ moduleRole s = 2) ∧ mayStart s then
    ws.foldl (fun t x =>
      match freeSlot t m with
      | none => t
      | some k =>
        if slotUse t x.holding ≤ slotShare t x.holding ∧ (getHold t x.holding).powerMw ≤ 1000 * powerShareOf t x.holding then
          match reservePositions x.id x.nctx (x.nctx + 1) t with
          | some u => modStream x.id (fun y => { y with slot := some k }) (setStreamSt x.id .active u)
          | none => parkStream x.id .hbm 0x0A [] t
        else t) s
  else s

/-- Frames of the next step's appends; a stream without them parks (R413). -/
def reserveStep (m : Nat) (s : State) : State :=
  (slotOrder s m).foldl (fun t id =>
    match getStream t id with
    | none => t
    | some x =>
      match reservePositions id x.nctx (x.nctx + 1) t with
      | some u => u
      | none => parkStream id .hbm 0x0A [] t) s

/-- STEP_BOUNDARY of micro-batch m. -/
def stepBoundary (m : Nat) (s : State) : State :=
  let r := stepRun s m
  if !stepReached s m then s
  else if r.running && r.faulted && !r.repeat_ && !r.split then reissue m s
  else
    let s1 := retryEnds (subtractBudgets s)
    let s2 := ((slotOrder s1 m).filter (fun id => (getStream s1 id).any (fun x => x.abortDue))).foldl (fun t id => endStream id 0x02 t) s1
    let s3 := if r.faulted then s2 else (slotOrder s2 m).foldl (fun t id =>
      match lookupK r.toks id with
      | some tok => if r.streams.contains id then takeToken id tok t else t
      | none => t) s2
    let s4 := applyParks m (fun x => x.mb = m && (x.st = .waiting || x.st = .active)) s3
    let s5 := boundaryActions (workOf m) (autoResumes s4)
    let s6 := roleStep (fillSlots m (reserveStep m s5))
    issueStep m ((slotOrder s6 m).filter (fun id => (getStream s6 id).any (fun x => x.ending.isNone))) s6

/-! ### The sweep boundary (R415, R417) -/

/-- A finished prompt's first token and where the stream goes. -/
def finishPrompt (id : Nat) (r : StepRun) (s : State) : State :=
  match getStream s id with
  | none => s
  | some x =>
    let tok := getK r.toks id 0
    let y := { x with promptComplete := true, new := 1, nextIn := tok, toks := x.toks ++ [(tok, x.nctx)] }
    let s1 := deliverToks id (putStream y s)
    if moduleRole s = 1 then
      let s2 := modStream id (fun z => { z with causes := [.host] }) (setStreamSt id .parked s1)
      if x.toExport then
        match xchanOf s2 x.holding .kvOut (bindOf x) x.xchan with
        | some k => startExport id k x.xchan s2
        | none => s2
      else s2
    else if endToken y tok then endStream id 0 s1
    else setStreamSt id .waiting s1

/-- A stream's chunk has passed every layer. -/
def takeChunk (id : Nat) (r : StepRun) (s : State) : State :=
  match getStream s id with
  | none => s
  | some x =>
    if x.st ≠ .prompt || x.ending.isSome then s
    else
      let s1 := settleNow id s
      let s2 := modStream id (fun y => { y with
        chunk := 0, nctx := if r.faulted then y.nctx else y.nctx + y.chunk
        promptDone := if r.faulted then y.promptDone else y.promptDone + y.chunk }) s1
      if r.faulted || !finishes x then s2 else finishPrompt id r s2

/-- Tokens of a sweep at most: SWEEP_MAX × 64. -/
def sweepMax (s : State) : Nat := 64 * max 1 (min 0x18 (getF s strB F.strCfgSweepMax))

/-- The chunk of a stream in the room left: its rest, or up to a multiple of 64 positions. -/
def chunkOf (x : Stream) (room : Nat) : Nat :=
  let rem := x.promptLen - x.promptDone
  if rem ≤ room then rem else (x.promptDone + room) / 64 * 64 - x.promptDone

/-- Takes one stream into the sweep that is being fixed: IDs so far and room left. -/
def joinSweep (a : List Nat × Nat × State) (x : Stream) : List Nat × Nat × State :=
  let (ids, room, s) := a
  let c := chunkOf x room
  let full := x.st = .waiting && decide (((allStreams s).filter (fun y => y.st = .prompt)).length ≥ (if moduleRole s = 1 then 192 else 64))
  if room = 0 || c = 0 || full then a
  else
    match reservePositions x.id x.nctx (x.nctx + c) s with
    | none => (ids, room, parkStream x.id .hbm 0x0A [] s)
    | some t =>
      let u := if x.st = .waiting then setStreamSt x.id .prompt t else settleNow x.id t
      (ids ++ [x.id], room - c, modStream x.id (fun y => { y with chunk := c }) u)

/-- Fixes the next sweep in admission order. -/
def fixSweep (s : State) : List Nat × State :=
  if (moduleRole s = 1 ∨ moduleRole s = 2) ∧ mayStart s then
    let xs := oldestFirst ((allStreams s).filter (fun x =>
      (x.st = .prompt || x.st = .waiting) && !x.imported && decide (x.promptDone < x.promptLen) && x.ending.isNone))
    let (ids, _, t) := xs.foldl joinSweep ([], sweepMax s, s)
    (ids, t)
  else ([], s)

/-- SWEEP_BOUNDARY. -/
def sweepBoundary (s : State) : State :=
  let r := stepRun s 4
  if !stepReached s 4 then s
  else if r.running && r.faulted && !r.repeat_ && !r.split then reissue 4 s
  else
    let s1 := retryEnds (subtractBudgets s)
    let s2 := ((allStreams s1).filter (fun x => x.st = .prompt && x.abortDue)).foldl (fun t x => endStream x.id 0x02 t) s1
    let s3 := r.streams.foldl (fun t id => takeChunk id r t) s2
    let s4 := applyParks 4 (fun x => x.st = .prompt || (x.st = .waiting && (r.streams.contains x.id || moduleRole s = 1))) s3
    let s5 := boundaryActions .sweep (autoResumes s4)
    let (ids, s6) := fixSweep s5
    issueStep 4 ids (roleStep s6)

/-! ### Roles (R418, R622) -/

/-- ROLE_REQUEST: a write of MOD_ROLE.REQ. -/
def roleRequest (data : Word) (s : State) : State :=
  let req := fldOf F.modRoleReq data
  let s1 := setF modB F.modRoleReq req s
  if s.eng.roleTo.isSome then setEng (fun e => { e with roleTo := some req }) s1
  else if req = moduleRole s then s1
  else roleStep (refreshClosed (setEng (fun e => { e with roleTo := some req })
    (setF modB F.modRoleStep 2 (setF modB F.modRoleChanging 1 s1))))

/-- Does any course or collective run or wait in the module (R418 step 3)? -/
def anyWork (s : State) : Bool :=
  s.acres.any (fun e => !(e.2.run.toList ++ e.2.pend.toList ++ e.2.aside.toList ++ e.2.extra).isEmpty) ||
    s.cist.runs.any (fun e => !e.2.isEmpty) || !s.ring.colls.isEmpty

/-- ROLE_SWITCH: steps 3 and 4; CHANGING falls. -/
def roleSwitch (s : State) : State :=
  match s.eng.roleTo with
  | none => s
  | some r =>
    if frozen s || anyWork s || (allStreams s).any (fun x => x.st = .active || x.st = .prompt) then s
    else
      irqRaise modB 4 (refreshClosed (setEng (fun e => { e with roleTo := none })
        (setF modB F.modRoleStep 0 (setF modB F.modRoleChanging 0 (setF modB F.modRoleCurrent r s)))))

/-! ### The commands -/

def execStepBoundary (m : MBatch) (s : State) : Out := .next (stepBoundary m.val s)
def execSweepBoundary (s : State) : Out := .next (sweepBoundary s)
def execRoleRequest (p : Path) (data : Word) (s : State) : Out := .next (ownedWrite p modB F.modRoleReq.off (roleRequest data) s)
def execRoleSwitch (s : State) : Out := .next (roleSwitch s)

end Sys2Proof.Machine
end

