-- ==== Sys2Proof/Machine/Scratchpad.lean ====
section
/-!
DEFINITION. Acre scratchpads and the reservoir cache (R289 to R334): accesses of tasks, aliases, the Sluice, circular
banks, error correction, column repair, scrubbing and the bank self-test.
-/

namespace Sys2Proof.Machine

/-! ### Banks -/

/-- The acre of the map whose scratchpad a logical acre's window shows; a doubled acre's lies in the reservoir (R578). -/
def spadOf (s : State) (die la : Nat) : Nat :=
  match lookupK s.doubled (die * 64 + la) with
  | some k => 272 + die * 4 + k
  | none => physOf s die la

def getBank (s : State) (g k : Nat) : BankSt := getK (getAcre s g).banks k {}
def setBank (g k : Nat) (b : BankSt) (s : State) : State :=
  modAcre g (fun a => { a with banks := setK a.banks k b {} }) s

/-- The bank of a scratchpad offset (R289). -/
def bankOf (off : Nat) : Nat := off / 64 % 8

/-- The offset of word w of bank k (R289, R309): line w / 8, word w mod 8. -/
def bankWord (k w : Nat) : Nat := w / 8 * 512 + k * 64 + w % 8 * 8

/-- Is the bank being handed over (R303)? -/
def bankClosing (s : State) (g k : Nat) : Bool :=
  match (getAcre s g).sluice with
  | some (b, _, _) => decide (b = k)
  | none => false

/-- The class index of a bank: acre × 8 + bank (R25, log entry 34). -/
def bankIx (g k : Nat) : Nat := g * 8 + k

/-! ### Error correction (R321 to R326) -/

/-- Three events, the third within 2^32 cycles of the first. -/
def thrice (stamps : List Nat) (cycle : Nat) : Bool :=
  decide (2 ≤ (stamps.filter (fun t => cycle < t + 2 ^ 32)).length)

/-- An acre leaves service or, as a spare, retires (R326, R574, R576). -/
def retireAcre (g : Nat) (s : State) : State := replaceAcre g s

def colspareFld (k : Nat) : Fld := ⟨0x12C, 4 * k, 3, .ro, true, 4⟩

/-- A column repair starts, or the acre retires when no spare column is free (R326). -/
def startColumn (g k col : Nat) (s : State) : State :=
  if (getAcre s g).colRepair.contains (k, col) then s
  else if getF s (spdB g) (colspareFld k) > ((getAcre s g).colRepair.filter (fun c => c.1 = k)).length then
    modAcre g (fun a => { a with colRepair := a.colRepair ++ [(k, col)] }) s
  else retireAcre g s

/-- SPAD_CORRECTED (R335): logged once per second per bank with the count since. -/
def logCorrected (g k : Nat) (s : State) : State :=
  let a := getAcre s g
  let n := getK a.spadCorr k 0 + 1
  let due := match lookupK a.spadLogged k with
    | some t => decide (t + 25000000 ≤ s.counter)
    | none => true
  if due then
    let st := statusWord 15 (bankIx g k) 6 0x45
    lastEvt (spdB g) F.spdLastevtStatus st (logStatus st (bankIx g k) [n]
      (modAcre g (fun x => { x with spadCorr := setK x.spadCorr k 0 0, spadLogged := insertK x.spadLogged k s.counter }) s))
  else modAcre g (fun x => { x with spadCorr := setK x.spadCorr k n 0 }) s

/-- A corrected word (R322): counted, logged, its write-back waits, its column is watched (R326). -/
def correctedWord (g w col cycle : Nat) (s : State) : State :=
  let k := w / 8 % 8
  let key := k * 1024 + col
  let stamps := getK (getAcre s g).colErr key []
  let s1 := logCorrected g k (bumpF (spdB g) F.spdEccCorrected 1
    (modAcre g (fun a => { a with
      wbPend := if a.wbPend.contains w then a.wbPend else a.wbPend ++ [w]
      colErr := setK a.colErr key ((cycle :: stamps).take 3) [] }) s))
  if thrice stamps cycle then startColumn g k col s1 else s1

/-- A lasting uncorrectable word is poisoned (R323). -/
def poisonWord (g w : Nat) (s : State) : State :=
  bumpF (spdB g) F.spdEccUncorr 1 (modAcre g (fun a => { a with poison := setK a.poison w true false }) s)

/-- What the error code of one word does; true where the read is lasting uncorrectable. -/
def wordErr (g w cycle : Nat) (e : WordErr) (s : State) : State × Bool :=
  match e.err with
  | .clean => (s, false)
  | .corrected => (correctedWord g w e.col cycle s, false)
  | .transient =>
    let stamps := getK (getAcre s g).wordErr w []
    let s1 := modAcre g (fun a => { a with wordErr := setK a.wordErr w ((cycle :: stamps).take 3) [] }) s
    if thrice stamps cycle then (poisonWord g w s1, true) else (s1, false)
  | .lasting => (poisonWord g w s, true)

/-- The error codes of the words of an access at an offset. -/
def wordErrs (g off cycle : Nat) : List WordErr → State × Bool → State × Bool
  | [], r => r
  | e :: es, (s, bad) =>
    let (s1, b) := wordErr g (off / 8 + e.word) cycle e s
    wordErrs g off cycle es (s1, bad || b)

/-! ### Accesses of tasks (R290, R305 to R308) -/

/-- Does a valid pair of the task cover the access with its right (R306)? -/
def pairCovers (s : State) (g task off n : Nat) (write : Bool) : Bool :=
  (List.range 4).any (fun k =>
    let p := getK (getAcre s g).pairs (task * 4 + k) {}
    p.valid && decide (p.base ≤ off) && decide (off + n ≤ p.bound) && (if write then p.w else p.r))

/-- Does the owner of a bank admit the task: SEQ for tasks 0 to 2, MGMT for task 3, and no circular bank (R301, R309)? -/
def ownerAdmits (s : State) (g k task : Nat) : Bool :=
  let b := getBank s g k
  !b.circ && decide (b.owner = (if task = 3 then BankOwner.mgmt else BankOwner.seq))

/-- A fault of the course behind an access: task 0 runs, task 1 pends, task 2 runs on another executor (R308). -/
def faultTask (g task code bank : Nat) (by_ : Option Nat) (s : State) : State :=
  match task with
  | 0 => faultRun g code 6 (bankIx g bank) s
  | 1 => faultPend g code 6 (bankIx g bank) s
  | 2 => withSome by_ (fun e => faultRun e code 6 (bankIx g bank)) s
  | _ => s

/-- The wake that an access to an acre outside Flow starts (R492). -/
def wakeFor (g : Nat) (s : State) : State :=
  match (getAcre s g).pw with
  | .flow => s
  | .still => startWake g 0 s
  | .dry => startWake g 1 s
  | .fallow => startWake g 2 s

/-- Can the acre's scratchpad be accessed now? -/
def spadAwake (s : State) (g : Nat) : Bool := decide (272 ≤ g) || decide ((getAcre s g).pw = .flow)

/-- A write to a line drops the write-backs that wait for it (R322). -/
def dropWb (g off : Nat) (a : Acre) : Acre :=
  if g < 272 then { a with wbPend := a.wbPend.filter (fun w => w / 8 ≠ off / 64) } else a

/-- An admitted access: a read returns its data or, over an uncorrectable word, faults its course (R323); a write
covers whole words or merges (R297). -/
def doAccess (g : Nat) (x : SpadAcc) (off addr : Nat) (s : State) : State :=
  let reads := !x.write || x.len % 8 ≠ 0 || off % 8 ≠ 0
  let (s1, bad0) := if reads then wordErrs g (off / 8 * 8) x.cycle x.errs (s, false) else (s, false)
  let by_ := x.by_.map (fun e => acreIx e.1 e.2)
  if x.write then
    let s2 := wrMem addr x.data s1
    modAcre g (dropWb g off) s2
  else
    let bad := bad0 || (readFault s addr x.len).isSome
    let data := if bad then List.replicate x.len 0 else rdBytes s addr x.len
    let s2 := emit (.spad g off x.task.val data (!bad)) s1
    if bad then faultTask g x.task.val 0x43 (bankOf off) by_ s2 else s2

/-- An access that R305 or R306 forbids: nothing is performed, a read returns zero, the course faults with SPAD_BOUND
or the management cores get an error response (R305, R308). -/
def badAccess (g : Nat) (x : SpadAcc) (off : Nat) (s : State) : State :=
  let s1 := if x.write then s else emit (.spad g off x.task.val (List.replicate x.len 0) false) s
  if x.task.val = 3 then countErr (spdB (physOf s x.die.val x.acre.val)) 15 off x.write 0 s1
  else faultTask g x.task.val 0x44 (bankOf off) (x.by_.map (fun e => acreIx e.1 e.2)) s1

/-- An access at an offset of the scratchpad proper. -/
def plainAccess (g : Nat) (x : SpadAcc) (off : Nat) (s : State) : State :=
  let k := bankOf off
  let addr := 0xC000000000 + x.die.val * 0x100000000 + x.acre.val * 0x4000000 + off
  if bankClosing s g k then s
  else
    let s1 := if x.task.val ≥ 2 then bumpPair (spdB (physOf s x.die.val x.acre.val)) 0x124 x.defer s else s
    if ownerAdmits s g k x.task.val && pairCovers s g x.task.val off x.len x.write then doAccess g x off addr s1
    else badAccess g x off s1

/-- An access to a scratchpad window (R290, R300, R306). The circular ports and alias writes have rows of their own. -/
def spadAccess (x : SpadAcc) (s : State) : State :=
  let g := spadOf s x.die.val x.acre.val
  if frozen s then s
  else if !spadAwake s g then wakeFor g s
  else if x.off < 0x200000 then plainAccess g x x.off s
  else if 0x800000 ≤ x.off ∧ x.off < 0xA00000 then s
  else if (0x1000000 ≤ x.off ∧ x.off < 0x1200000) ∨ (0x2000000 ≤ x.off ∧ x.off < 0x2200000) then
    (if !x.write then plainAccess g x (x.off % 0x200000) s
     else if x.len = 64 then countErr (spdB (physOf s x.die.val x.acre.val)) 15 x.off true 1 s
     else s)
  else
    countErr (spdB (physOf s x.die.val x.acre.val)) 15 x.off x.write 1
      (if x.write then s else emit (.spad g x.off x.task.val (List.replicate x.len 0) false) s)

def execScratchpadAccess (a : SpadAcc) (s : State) : Out := .next (spadAccess a s)

/-- A 64-bit alias write (R299, R300): an atomic OR or clear of the word under the right of a plain write. -/
def aliasWrite (x : SpadAcc) (set : Bool) (s : State) : State :=
  let g := spadOf s x.die.val x.acre.val
  let off := x.off % 0x200000 / 8 * 8
  let k := bankOf off
  if frozen s then s
  else if !spadAwake s g then wakeFor g s
  else if bankClosing s g k then s
  else if ownerAdmits s g k x.task.val && pairCovers s g x.task.val off 8 true then
    let addr := 0xC000000000 + x.die.val * 0x100000000 + x.acre.val * 0x4000000 + off
    let (s1, _) := wordErrs g off x.cycle x.errs (s, false)
    let old := BitVec.ofNat 64 (rdLE s addr 8)
    let d := BitVec.ofNat 64 (leVal x.data)
    let new := if set then old ||| d else old &&& ~~~d
    modAcre g (dropWb g off) (wrLE addr 8 new.toNat s1)
  else badAccess g { x with write := true, len := 8 } off s

def execScratchpadAliasWrite (a : SpadAcc) (set : Bool) (s : State) : Out := .next (aliasWrite a set s)

/-! ### Circular banks (R309, R310) -/

/-- The address-map key of a byte of a bank. -/
def wrBankBytes (g k : Nat) (w : Nat) : List Byte → State → State
  | [], s => s
  | b :: bs, s =>
    let off := bankWord k (w / 8 % 32768) + w % 8
    wrBankBytes g k (w + 1) bs { s with spad := setK s.spad (spadKey g off) b memDefault }

def rdBankByte (s : State) (g k w : Nat) : Byte :=
  getK s.spad (spadKey g (bankWord k (w / 8 % 32768) + w % 8)) memDefault

/-- A write to a circular port: one line or one word appends at WPTR; a full ring answers with an error. -/
def circWrite (g k : Nat) (data : List Byte) (s : State) : State :=
  let b := getBank s g k
  let n := if data.length = 64 then 8 else 1
  if frozen s || bankClosing s g k then s
  else if !(b.circ && b.owner = .mgmt) then countErr (spdB g) 15 (0x800000 + k * 0x40000) true 0 s
  else if b.cnt + n > 32768 then countErr (spdB g) 15 (0x800000 + k * 0x40000) true 1 s
  else
    let bytes := (data ++ List.replicate 8 0).take (8 * n)
    let s1 := wrBankBytes g k (b.wptr * 8) bytes s
    setBank g k { b with wptr := (b.wptr + n) % 32768, cnt := b.cnt + n } s1

/-- A read of a circular port: one line or one word at RPTR; an empty ring answers with an error. -/
def circRead (g k : Nat) (line : Bool) (s : State) : State :=
  let b := getBank s g k
  let n := if line then 8 else 1
  let off := 0x800000 + k * 0x40000
  if frozen s || bankClosing s g k then s
  else if !(b.circ && b.owner = .mgmt) then
    countErr (spdB g) 15 off false 0 (emit (.spad g off 3 (List.replicate (8 * n) 0) false) s)
  else if b.cnt < n then
    countErr (spdB g) 15 off false 1 (emit (.spad g off 3 (List.replicate (8 * n) 0) false) s)
  else
    let data := (List.range (8 * n)).map (fun i => rdBankByte s g k (b.rptr * 8 + i))
    setBank g k { b with rptr := (b.rptr + n) % 32768, cnt := b.cnt - n } (emit (.spad g off 3 data true) s)

def execCircWrite (die : Die) (acre : PAcre) (bank : Bank) (data : List Byte) (s : State) : Out :=
  .next (circWrite (acreIx die acre) bank.val data s)
def execCircRead (die : Die) (acre : PAcre) (bank : Bank) (line : Bool) (s : State) : Out :=
  .next (circRead (acreIx die acre) bank.val line s)

/-! ### Write-back, column repair, scrubbing, word timeout -/

/-- The waiting write-back of a corrected word lands (R322). -/
def eccWriteback (g w : Nat) (s : State) : State :=
  if frozen s then s else modAcre g (fun a => { a with wbPend := a.wbPend.erase w }) s

def execEccWriteback (die : Die) (acre : PAcre) (word : Nat) (s : State) : Out :=
  .next (eccWriteback (acreIx die acre) word s)

/-- A column migration completes (R326). -/
def columnDone (g k : Nat) (s : State) : State :=
  match (getAcre s g).colRepair.find? (fun c => c.1 = k) with
  | none => s
  | some c =>
    if frozen s then s
    else
      let st := statusWord 15 (bankIx g k) 6 0x46
      lastEvt (spdB g) F.spdLastevtStatus st (logStatus st (bankIx g k) [c.2]
        (setF (spdB g) (colspareFld k) (getF s (spdB g) (colspareFld k) - 1)
          (modAcre g (fun a => { a with colRepair := a.colRepair.erase c, colErr := setK a.colErr (k * 1024 + c.2) [] [] }) s)))

def execColumnRepairDone (die : Die) (acre : PAcre) (bank : Bank) (s : State) : Out :=
  .next (columnDone (acreIx die acre) bank.val s)

/-- The scrubber reads the next line of each bank (R324); it stops in Dry and in Fallow. -/
def scrubLine (g : Nat) (errs : List (Bank × WordErr)) (cycle : Nat) (s : State) : State :=
  let a := getAcre s g
  if acreLive s g || (!frozen s && a.pw = .still) then
    let l := a.scrubLine
    let s1 := errs.foldl (fun u e =>
      (wordErr g (bankWord e.1.val (l * 8 + e.2.word % 8) / 8) cycle e.2 u).1) s
    let s2 := modAcre g (fun x => { x with scrubLine := (l + 1) % 4096 }) s1
    if l = 4095 then bumpF (spdB g) F.spdScrubPasses 1 s2 else s2
  else s

def execScrubLine (die : Die) (acre : PAcre) (errs : List (Bank × WordErr)) (cycle : Nat) (s : State) : Out :=
  .next (scrubLine (acreIx die acre) errs cycle s)

/-- A management core word access that waited 65,536 cycles ends with an error response (R298). -/
def mgmtTimeout (die la off : Nat) (write : Bool) (s : State) : State :=
  if frozen s then s
  else
    let g := spadOf s die la
    countErr (spdB (physOf s die la)) 15 off write 2
      (if write then s else emit (.spad g off 3 (List.replicate 8 0) false) s)

def execMgmtWordTimeout (die : Die) (acre : LAcre) (off : Nat) (write : Bool) (s : State) : Out :=
  .next (mgmtTimeout die.val acre.val off write s)

/-! ### The Sluice (R303, R304) -/

/-- Bank owners as TO codes them. -/
def ownerOf (c : Nat) : BankOwner :=
  match c % 4 with
  | 0 => .none_ | 1 => .seq | 2 => .mgmt | _ => .test
def ownerCode : BankOwner → Nat
  | .none_ => 0 | .seq => 1 | .mgmt => 2 | .test => 3

/-- Does a byte range of a scratchpad touch a bank? -/
def touchesBank (k lo hi : Nat) : Bool :=
  (List.range 8).any (fun i => decide (lo / 64 + i ≤ (hi - 1) / 64) && decide ((lo / 64 + i) % 8 = k)) && decide (lo < hi)

/-- The full slots of the module: chain, slot address, bytes (R316). -/
def fullSlots (s : State) : List (Nat × Nat) :=
  s.gates.filterMap (fun e =>
    if e.2.full then
      (getChain s (e.1 / 4096 / 65536) (e.1 / 4096 % 65536)).map (fun c => (slotAddr c (e.1 % 4096), c.bytes))
    else none)

/-- Does a full slot lie in a bank of an acre (R304)? -/
def bankHasFull (s : State) (g k : Nat) : Bool :=
  (fullSlots s).any (fun t =>
    match locate s t.1 with
    | .spad x off => decide (x = g) && touchesBank k off (off + t.2)
    | _ => false)

/-- A write of GO in SPD_SLUICE. While a handover is in progress GO is ignored (log entry 33). -/
def sluiceGo (g : Nat) (data : Word) (s : State) : State :=
  let s0 := regSet (spdB g + 0x100)
    (fldPut F.spdSluiceBank (fldOf F.spdSluiceBank data) (fldPut F.spdSluiceTo (fldOf F.spdSluiceTo data)
      (fldPut F.spdSluiceCirc (fldOf F.spdSluiceCirc data) (regGet s (spdB g + 0x100))))) s
  let k := fldOf F.spdSluiceBank data
  let dst := ownerOf (fldOf F.spdSluiceTo data)
  let circ := fldOf F.spdSluiceCirc data = 1
  let b := getBank s g k
  if fldOf F.spdSluiceGo data = 0 ∨ (getAcre s g).sluice.isSome then s0
  else if (b.owner = .seq ∧ dst ≠ .seq ∧ inService s g) ∨ bankHasFull s g k ∨ (circ ∧ (dst = .seq ∨ dst = .none_)) then
    irqRaise (spdB g) 4 (setF (spdB g) F.spdSluiceResult 3 s0)
  else
    setF (spdB g) F.spdSluiceResult 1 (modAcre g (fun a => { a with sluice := some (k, dst, circ) }) s0)

/-- The accesses in flight have completed: the owner changes and CIRC takes effect; entering circular mode clears the
pointers (R303, R309). -/
def sluiceComplete (g : Nat) (s : State) : State :=
  match (getAcre s g).sluice with
  | none => s
  | some (k, dst, circ) =>
    if frozen s then s
    else
      let b := getBank s g k
      let b1 : BankSt := if circ && !b.circ then { owner := dst, circ := true } else { b with owner := dst, circ := circ }
      irqRaise (spdB g) 4 (setF (spdB g) F.spdSluiceResult 2
        (modAcre g (fun a => { a with sluice := none }) (setBank g k b1 s)))

def execSluiceGo (p : Path) (die : Die) (acre : PAcre) (data : Word) (s : State) : Out :=
  .next (ownedWrite p (spdB (acreIx die acre)) 0x100 (sluiceGo (acreIx die acre) data) s)
def execSluiceComplete (die : Die) (acre : PAcre) (s : State) : Out := .next (sluiceComplete (acreIx die acre) s)

/-! ### Bank self-test (R311) -/

/-- A write of SPD_BIST: RUN starts the test of a bank that TEST owns in circular mode. -/
def bistRun (g : Nat) (data : Word) (s : State) : State :=
  let k := fldOf F.spdBistBank data
  let b := getBank s g k
  if (getAcre s g).bist.isSome then s
  else
    let s0 := setF (spdB g) F.spdBistBank k s
    if fldOf F.spdBistRun data = 1 ∧ b.owner = .test ∧ b.circ then
      setF (spdB g) F.spdBistBusy 1 (modAcre g (fun a => { a with bist := some k }) s0)
    else s0

/-- Fills a bank with one byte. -/
def fillBank (g k : Nat) (b : Byte) (s : State) : State :=
  wrBankBytes g k 0 (List.replicate 262144 b)
    (modAcre g (fun a => { a with poison := a.poison.filter (fun e => e.1 / 8 % 8 ≠ k) }) s)

/-- The self-test ends: the last pattern, a free value, covers the bank; PASS and FAILCOL; a failing column is repaired
where a spare is free (R311, log entry 35). -/
def bistDone (g : Nat) (fail : Option Nat) (s : State) : State :=
  match (getAcre s g).bist with
  | none => s
  | some k =>
    if frozen s then s
    else
      let pat := BitVec.ofNat 8 (Config.freeWord s.freeCtr).toNat
      let s1 := fillBank g k pat
        { (modAcre g (fun a => { a with bist := none }) s) with freeCtr := s.freeCtr + 1 }
      let s2 := setF (spdB g) F.spdBistBusy 0 (setB (spdB g) F.spdBistPass fail.isNone
        (setF (spdB g) F.spdBistFailcol (fail.getD 0x3FF) s1))
      irqRaise (spdB g) 8 (withSome fail (fun c => startColumn g k c) s2)

def execBistRun (p : Path) (die : Die) (acre : PAcre) (data : Word) (s : State) : Out :=
  .next (ownedWrite p (spdB (acreIx die acre)) 0x130 (bistRun (acreIx die acre) data) s)
def execBistDone (die : Die) (acre : PAcre) (fail : Option (Fin 580)) (s : State) : Out :=
  .next (bistDone (acreIx die acre) (fail.map (·.val)) s)

/-! ### Reservoir lines (R334, R585) -/

/-- A reservoir line is scrubbed. A clean uncorrectable line is fetched again; a dirty or resident one is poisoned; a
location that fails its pattern test after a lasting error is disabled. -/
def reservoirScrub (die line : Nat) (err : ReadErr) (dirty : Bool) (loc : Option (Nat × Nat × Nat)) (s : State) : State :=
  if frozen s then s
  else
    match err with
    | .clean => s
    | .corrected => bumpF (rsvB die) F.rsvEccCorrected 1 s
    | _ =>
      let s1 :=
        if dirty || isResident s (128 * line) then
          bumpF (rsvB die) F.rsvEccUncorr 1 { s with rsvPoison := setK s.rsvPoison line true false }
        else bumpF (rsvB die) F.rsvEccCorrected 1 s
      if err = .lasting then
        withSome loc (fun l t => logEv 0x26 2 die [l.1, l.2.1, l.2.2]
          { t with rsvDisabled := (die, l) :: t.rsvDisabled }) s1
      else s1

def execReservoirScrub (die : Die) (line : Nat) (err : ReadErr) (dirty : Bool) (loc : Option (Nat × Nat × Nat))
    (s : State) : Out := .next (reservoirScrub die.val line err dirty loc s)

end Sys2Proof.Machine
end

