-- ==== Sys2Proof/Machine/Ditch.lean ====
section
/-!
DEFINITION. The Ditchrider (chapter 13): operating points and their limits, power caps, the cap loop, the Cistern
allotment, thermal limits, droop, Trickle, acre states and module levels.
-/

namespace Sys2Proof.Machine

/-! ### Registers and events -/

def setDitch (f : Ditch → Ditch) (s : State) : State := { s with ditch := f s.ditch }
def getClk (s : State) (d : Nat) : DieClk := getK s.ditch.dies d {}
def modClk (d : Nat) (f : DieClk → DieClk) (s : State) : State :=
  setDitch (fun x => { x with dies := setK x.dies d (f (getK x.dies d {})) {} }) s
def onDies (f : Nat → State → State) (s : State) : State := (List.range 4).foldl (fun t d => f d t) s

/-- A Ditchrider event (R500): logged, and held in DRD_LASTEVT. -/
def drdEvent (ev cls ix : Nat) (detail : List Nat) (s : State) : State :=
  irqRaise drdB 2 (setF drdB F.drdLastevtIndex (ix % 256) (setF drdB F.drdLastevtClass cls (setF drdB F.drdLastevtEvent ev
    (logEv ev cls ix detail s))))

def inLevel (n : Nat) (s : State) : Bool := getF s drdB F.drdLevelLevel = n

/-! ### Operating points (R468, R469) -/

/-- Physical acres of a die that serve a logical acre. -/
def serviceAcres (s : State) (d : Nat) : List Nat := ((List.range 64).map (physOf s d)).eraseDups

/-- The lowest life fmax of a die's in-service acres. -/
def dieFmax (s : State) (d : Nat) : Nat := ((serviceAcres s d).map (fun g => (getAcre s g).life)).foldl min 1200

/-- The rail's number in log entries, in the order of *Table: On-module rails*. -/
def railNum : Rail → Nat
  | .v12ib => 0 | .vstby => 1 | .vddHg => 2 | .vioHg => 3
  | .vddFd n => 4 + n.val | .vddsFd n => 8 + n.val | .vioFd n => 12 + n.val
  | .vcis n => 16 + n.val | .varr n => 20 + n.val | .vhbm n => 24 + n.val | .input => 28

/-- The field die that a rail of the dies supplies. -/
def railDie : Rail → Option Nat
  | .vddFd n => some n.val | .vddsFd n => some n.val | .vioFd n => some n.val | _ => none

/-- Phases lost on a rail. -/
def lost (s : State) (r : Rail) : Nat := (s.ditch.phases.filter (fun e => e.1 = r)).length
def lostRails (s : State) : List Rail := (s.ditch.phases.map (·.1)).eraseDups

/-- A die's own phase-loss limit as a frequency (R489). -/
def phaseLimit (s : State) (d : Nat) : Nat :=
  ((lostRails s).filter (fun r => railDie r = some d)).foldl (fun m r => min m (Config.phaseFreq (railNum r) (lost s r))) 1200

/-- The die's own limits: thermal, droop emergency, phase loss. -/
def ownLimit (s : State) (d : Nat) : Nat := min (min (getClk s d).therm (getClk s d).droop) (phaseLimit s d)

/-- The permitted frequency: what the cap allows, limited to the die fmax. -/
def permitted (s : State) (d : Nat) : Nat := min (min s.ditch.capF (getClk s d).emerg) (getClk s d).fmax

/-- Is a die held below its permitted frequency (R386, R482)? -/
def freqLimited (s : State) (d : Nat) : Bool := decide (ownLimit s d < permitted s d)

/-- f_die (R468), 300 MHz in Trickle (R488) and after the stop under the 110 °C row (R482). -/
def targetF (s : State) (d : Nat) : Nat :=
  if inLevel 3 s || (getClk s d).still.isSome then 300
  else max 300 (min (min (permitted s d) (ownLimit s d)) (getClk s d).matched)

/-- COMPUTE_FLOOR in force. -/
def computeFloor (s : State) : Nat := max 300 (min 1200 (getF s drdB F.drdFloorComputeFloor)) / 25 * 25
def slowGap (s : State) : Nat := max 25 (getF s drdB F.drdFloorSlowGap)

/-- DPW_STAT.CAUSE: the limit in force; the lowest code where several stand at f_die. -/
def causeOf (s : State) (d f : Nat) : Nat :=
  let c := getClk s d
  if inLevel 3 s then 5
  else if c.still.isSome then 2
  else if f ≥ c.fmax then 0
  else if min s.ditch.capF c.emerg ≤ f then (if f < computeFloor s then 7 else 1)
  else if c.therm ≤ f then 2
  else if c.droop ≤ f then 3
  else if c.matched ≤ f then 4
  else 6

/-- Nominal voltage in mV, interpolated linearly and rounded down (*Table: Operating points*). -/
def nominalMv (f : Nat) : Nat :=
  if f ≤ 300 then 550
  else if f ≤ 600 then 550 + 60 * (f - 300) / 300
  else if f ≤ 900 then 610 + 85 * (f - 600) / 300
  else if f ≤ 1000 then 695 + 35 * (f - 900) / 100
  else if f ≤ 1100 then 730 + 35 * (f - 1000) / 100
  else 765 + 35 * (f - 1100) / 100

/-- The core rail's set point: nominal, the die's curve offset, the largest ageing guard. -/
def railMv (s : State) (d f : Nat) : Nat :=
  ((nominalMv f : Int) + (getClk s d).offset + 5 * (((serviceAcres s d).map (fun g => (getAcre s g).guard)).foldl max 0 : Nat)).toNat

/-- Moves a die to the point that its limits give; a change of CAUSE raises the DPW source (R612). -/
def retarget (d : Nat) (s : State) : State :=
  let f := targetF s d
  let c := causeOf s d f
  let s1 := setF (dpwB d) F.dpwStatVolt (railMv s d f) (setF (dpwB d) F.dpwStatFreq f (modClk d (fun x => { x with f := f }) s))
  if getF s1 (dpwB d) F.dpwStatCause = c then s1 else irqRaise (dpwB d) 4 (setF (dpwB d) F.dpwStatCause c s1)

def retargetAll (s : State) : State := onDies retarget s

/-! ### The effective cap (R474, R485) -/

/-- The coolant derate in W at an inlet in 0.125 °C. -/
def derate (t : Nat) : Nat :=
  if t ≤ 320 then 3600
  else if t ≤ 360 then 3600 - 600 * (t - 320) / 40
  else if t < 400 then 3000 - 1800 * (t - 360) / 40
  else 1200

/-- The phase-loss limit of the module in W (R489, R628). -/
def phaseLossCap (s : State) : Nat :=
  ((lostRails s).map (fun r => Config.phaseCap (railNum r) (lost s r))).foldl min (if s.ditch.blades.isEmpty then 3600 else 2300)

/-- The effective cap and its source; the lowest code on a tie. -/
def effectiveCap (s : State) : Nat × Nat :=
  [(s.ditch.bmc, 1), (derate s.ditch.inlet, 2), (phaseLossCap s, 3)].foldl (fun b e => if e.1 < b.1 then e else b) (3600, 0)

/-- DRD_CAP shows the effective cap and its source. -/
def showCap (s : State) : State :=
  let e := effectiveCap s
  setF drdB F.drdCapLimit e.2 (setF drdB F.drdCapEffective e.1 s)

def p1ms (s : State) : Nat := getF s drdB F.drdPowerP1ms

/-! ### The cap loop (R476, R477) -/

/-- The point n steps down the order of R477 from the top: 25 MHz steps and 1 W steps. -/
def pointAt (fl budget n : Nat) : Nat × Nat :=
  let a := (1200 - fl) / 25
  let b := budget - 300
  let c := (fl - 300) / 25
  if n ≤ a then (1200 - 25 * n, budget)
  else if n ≤ a + b then (fl, budget - (n - a))
  else if n ≤ a + b + c then (fl - 25 * (n - a - b), min budget 300)
  else (300, max 60 (min budget 300 - (n - a - b - c)))

/-- One step down. -/
def capDown (s : State) : State :=
  let fl := computeFloor s
  let top := (List.range 4).foldl (fun m d => max m (getClk s d).fmax) 0
  let f := min s.ditch.capF top
  let (n, s1) := nextFree s
  let w := 1 + Config.cistStep n
  setDitch (fun x =>
    if f > fl then { x with capF := max fl (f - 25) }
    else if x.cist > 300 then { x with cist := max 300 (x.cist - w) }
    else if f > 300 then { x with capF := max 300 (f - 25) }
    else { x with cist := max 60 (x.cist - w) }) s1

/-- One step up, in the reverse order; a limit of R478 rises first. -/
def capUp (s : State) : State :=
  let fl := computeFloor s
  let (n, s1) := nextFree s
  let w := 1 + Config.cistStep n
  if (List.range 4).any (fun d => decide ((getClk s d).emerg < 1200)) then
    onDies (fun d => modClk d (fun c => { c with emerg := min 1200 (c.emerg + 25) })) s
  else setDitch (fun x =>
    if x.cist < min 300 x.budget then { x with cist := min (min 300 x.budget) (x.cist + w) }
    else if x.capF < fl then { x with capF := min fl (x.capF + 25) }
    else if x.cist < x.budget then { x with cist := min x.budget (x.cist + w) }
    else { x with capF := min 1200 (x.capF + 25) }) s1

/-- The cap at a ring fence: the written cap and budget come into force; a changed effective cap moves the point, else
the loop takes a step (R476). -/
def capFence (s : State) : State :=
  let bmc := max 1200 (min 3600 (getF s drdB F.drdCapBmcCap))
  let bud := max 60 (min 600 (getF s drdB F.drdCistBudget))
  let s1 := showCap (setDitch (fun x => { x with
    bmc := bmc, budget := bud, capDue := false
    cist := if x.cist = x.budget || decide (x.cist > bud) then bud else x.cist }) s)
  let eff := (effectiveCap s1).1
  let s2 :=
    if eff ≠ s1.ditch.capSeen then
      let (n, t) := nextFree s1
      let p := pointAt (computeFloor t) bud (Config.predictedPoint eff n)
      setDitch (fun x => { x with capF := p.1, cist := p.2, capSeen := eff, low := none }) t
    else if p1ms s1 > eff ∨ getF s1 drdB F.drdExcurTimer > 400 then capDown s1
    else match s1.ditch.low with
      | some c => if s1.counter ≥ c + 25000 then capUp s1 else s1
      | none => s1
  setF drdB F.drdCistInForce s2.ditch.cist s2

/-! ### The Cistern allotment (R481) -/

/-- BASIN courses that wait or run on a die, the weight of its share. -/
def cistWeight (s : State) (d : Nat) : Nat := (getRuns s d).length

/-- The dies whose proportional share of a budget lies below a tenth of it, given the dies already so found. -/
def lowDies (s : State) (b : Nat) (ds : List Nat) : List Nat :=
  let rest := b - (b / 10) * ds.length
  let tot := (((List.range 4).filter (fun d => !ds.contains d)).map (cistWeight s)).foldl (· + ·) 0
  (List.range 4).filter (fun d => ds.contains d || decide (rest * cistWeight s d < b / 10 * tot))

/-- A die's allotment in W. -/
def allotOf (s : State) (b d : Nat) : Nat :=
  let all := ((List.range 4).map (cistWeight s)).foldl (· + ·) 0
  if all = 0 then b / 4
  else
    let ds := lowDies s b (lowDies s b (lowDies s b []))
    if ds.contains d then b / 10
    else
      let tot := (((List.range 4).filter (fun e => !ds.contains e)).map (cistWeight s)).foldl (· + ·) 0
      (b - b / 10 * ds.length) * cistWeight s d / tot

/-- The allotments at a fence, and the mean use over the interval before it in W. -/
def cistFence (s : State) : State :=
  let dt := s.counter - s.ring.lastFence
  onDies (fun d t =>
    let used := (getClk s d).slots * Config.coefficient s.tally.page.coef actSlot
    let w := if dt = 0 then 0 else min 1023 (used / (400000 * dt))
    modClk d (fun c => { c with slots := 0 })
      (setF (dpwB d) F.dpwCistUsed w (setF (dpwB d) F.dpwCistAllot (allotOf s s.ditch.cist d) t))) s

/-! ### Power reports (R480) -/

/-- P_h of a holding in mW: its energy of the last 10 epochs in nJ over 10 ms. -/
def powerOf (s : State) (h : Nat) : Nat := ((getK s.tally.last10 h []).foldl (· + ·) 0).toNat / 10000
def reportPower (s : State) : State := (List.range 4).foldl (fun t h => setHold h { getHold t h with powerMw := powerOf t h } t) s

/-! ### Matched speed (R386, R387) -/

def showMatch (on : Bool) (slow f : Nat) (s : State) : State :=
  onDies (fun d t =>
    let u := setF (rngB d) F.rngMatchFreq f (setF (rngB d) F.rngMatchSlowDie slow (setB (rngB d) F.rngMatchActive on t))
    if getF t (rngB d) F.rngMatchActive = (if on then 1 else 0) then u else irqRaise (rngB d) 8 u) s

/-- Matching at a fence: it starts where a window found a slow die, follows the slow die's limit, and ends when that
limit lifts. -/
def matchFence (s : State) : State :=
  let active := getF s (rngB 0) F.rngMatchActive = 1
  let slow := if s.ring.matchDue then s.ring.slow else if active then some (getF s (rngB 0) F.rngMatchSlowDie) else none
  let s1 := { s with ring := { s.ring with matchDue := false } }
  match slow with
  | none => s1
  | some d =>
    if freqLimited s1 d then
      let f := max 300 (ownLimit s1 d)
      onDies (fun e => modClk e (fun c => { c with matched := f })) (showMatch true d f s1)
    else onDies (fun e => modClk e (fun c => { c with matched := 1200 })) (showMatch false d 0 s1)

/-! ### Trickle (R488, R489) -/

/-- The module leaves Trickle. -/
def trickleExit (s : State) : State :=
  let stay := (s.counter - s.ditch.trickleAt) / 250
  let long := max (getF s drdB F.drdTrickleLongest) (min 65535 stay)
  setLevel 0 (setF drdB F.drdTrickleLongest long (setDitch (fun x => { x with exitDue := false, phaseDone := [] }) s))

/-! ### What a ring fence applies (R381) -/

def ditchFence (s : State) : State :=
  let s1 := if inLevel 3 s && s.ditch.exitDue then trickleExit s else s
  let s2 := if inLevel 3 s1 then s1 else
    matchFence (capFence (onDies (fun d t => modClk d (fun c => { c with
      fmax := dieFmax t d
      droop := if c.droopEnd then 1200 else c.droop
      droopEnd := false }) t) s1))
  retargetAll (reportPower (cistFence s2))

/-- Is an action due at the next fence (R382)? -/
def ditchDue (s : State) : Bool :=
  s.ditch.capDue || s.ditch.exitDue || s.ring.matchDue || (List.range 4).any (fun d => (getClk s d).droopEnd)

/-! ### The means of input power (R475, R478, R479) -/

/-- Every die falls by 200 MHz at once and the Cistern controllers halve their allotments. -/
def powerEmergency (s : State) : State :=
  let s1 := bumpF drdB F.drdExcurEmerg 1 (drdEvent 0x04 1 0 [] s)
  if inLevel 3 s1 then s1
  else retargetAll (onDies (fun d t =>
    setF (dpwB d) F.dpwCistAllot (getF t (dpwB d) F.dpwCistAllot / 2)
      (modClk d (fun c => { c with emerg := max 300 (c.f - 200) }) t)) s1)

/-- Are the settings the lowest of R477? -/
def lowestPoint (s : State) : Bool := decide (s.ditch.capF ≤ 300) && decide (s.ditch.cist ≤ 60)

/-- POWER_10US_MEAN: a 10 µs mean of p W. -/
def powerMean (p : Nat) (s : State) : State :=
  if frozen s then s
  else
    let ms := (p :: s.ditch.means).take 100
    let m1 := ms.foldl (· + ·) 0 / ms.length
    let eff := (effectiveCap s).1
    let s1 := setF drdB F.drdPowerP1ms (min 8191 m1) (setF drdB F.drdPowerP10us (min 8191 p) s)
    let timer := if p > 3600 then min 511 (getF s drdB F.drdExcurTimer + 1) else 0
    let s2 := setF drdB F.drdExcurTimer timer s1
    let keep (b : Bool) (o : Option Nat) : Option Nat := if b then some (o.getD s.counter) else none
    let s3 := setDitch (fun x => { x with
      means := ms
      low := keep (decide (100 * m1 < 97 * eff)) x.low
      above := keep (decide (m1 > eff) && lowestPoint s) x.above }) s2
    let s4 := if m1 ≤ eff then setF drdB F.drdCapUnreach 0 s3 else s3
    whenB (decide (p > 4200)) powerEmergency s4

/-- CAP_UNREACHABLE: the lowest settings have left the 1 ms mean above the cap for 10 ms. -/
def capUnreachable (s : State) : State :=
  match s.ditch.above with
  | some c =>
    if !frozen s && decide (s.counter ≥ c + 250000) && getF s drdB F.drdCapUnreach = 0 then
      drdEvent 0x05 1 0 [] (irqRaise drdB 8 (setF drdB F.drdCapUnreach 1 s))
    else s
  | none => s

/-! ### Thermal limits (R482, R483) -/

/-- A field die's hottest acre, in 0.125 °C. -/
def acreReading (d hot : Nat) (s0 : State) : State :=
  let s := setF (dpwB d) F.dpwThermHotAcre (min 1023 hot) s0
  let c := getClk s d
  if hot ≥ 880 then
    if c.still.isSome then s
    else
      let gs := (dieAcres d).filter (fun g => decide ((getAcre s g).pw = .flow))
      let s1 := gs.foldl (fun t g => modAcre g (fun a => { a with pw := .still }) t) s
      retarget d (modClk d (fun x => { x with still := some s.counter, stopped := gs, stillLogged := false, trip := true, therm := 300, cool := none })
        (drdEvent 0x07 2 d [hot] s1))
  else if hot ≥ 840 then
    let s1 := if c.trip then s else drdEvent 0x06 2 d [hot] s
    retarget d (modClk d (fun x => { x with trip := true, therm := 300, cool := none }) s1)
  else if hot ≥ 800 then
    if c.trip then s else retarget d (modClk d (fun x => { x with therm := max 300 (x.f - 25), cool := none }) s)
  else
    let s1 := c.stopped.foldl (fun t g => modAcre g (fun a => if a.pw = .still then { a with pw := .flow } else a) t) s
    retarget d (modClk d (fun x => { x with
      still := none, stopped := [], trip := false
      cool := if hot < 784 then some (x.cool.getD s.counter) else none }) s1)

/-- The thermal actions of one HBM stack. -/
def hbmTherm (t : Nat) (x : HbmTherm) : HbmTherm :=
  { fast := if t ≥ 680 then true else if t < 664 then false else x.fast
    limit :=
      if t ≥ 784 then 2
      else if x.limit = 2 ∧ t ≥ 768 then 2
      else if t ≥ 760 then 1
      else if x.limit ≥ 1 ∧ t ≥ 744 then 1
      else 0 }

/-- One HBM stack's reading. -/
def stackReading (d k t : Nat) (s : State) : State :=
  let n := 3 * d + k
  let x := getK s.ditch.hbm n {}
  let y := hbmTherm t x
  let s1 := setDitch (fun z => { z with hbm := setK z.hbm n y {} }) s
  if y.limit > x.limit then drdEvent 0x08 2 d [n, y.limit] s1 else s1

/-- JUNCTION_READ: the hottest acre, the three HBM stacks of a die, and the Headgate. -/
def junctionRead (d hot h0 h1 h2 head : Nat) (s : State) : State :=
  if frozen s then s
  else
    let s1 := stackReading d 2 h2 (stackReading d 1 h1 (stackReading d 0 h0 (acreReading d hot s)))
    let lim := (List.range 3).foldl (fun m k => max m (getK s1.ditch.hbm (3 * d + k) {}).limit) 0
    setDitch (fun x => { x with headHot := if head ≥ 840 then true else if head < 800 then false else x.headHot })
      (setF (dpwB d) F.dpwThermHbmLimit lim (setF (dpwB d) F.dpwThermHotHbm (min 1023 (max h0 (max h1 h2))) s1))

/-- THERMAL_RECOVERY_STEP: 1 ms below the release temperature. -/
def thermalStep (d : Nat) (s : State) : State :=
  let c := getClk s d
  match c.cool with
  | some t0 =>
    if !frozen s && !c.trip && decide (c.therm < 1200) && decide (s.counter ≥ t0 + 25000) then
      let n := c.therm + 25
      retarget d (modClk d (fun x => { x with therm := if n ≥ permitted s d then 1200 else n, cool := some s.counter }) s)
    else s
  | none => s

/-- THERMAL_STILL_TIMEOUT: the acres of a die have been stopped for longer than 10 ms. -/
def thermalStillTimeout (d : Nat) (s : State) : State :=
  let c := getClk s d
  match c.still with
  | some t0 =>
    if !frozen s && !c.stillLogged && decide (s.counter > t0 + 250000) then
      modClk d (fun x => { x with stillLogged := true }) (drdEvent 0x07 2 d [1] s)
    else s
  | none => s

/-! ### Coolant (R484, R485) -/

/-- Is cooling out of specification: inlet above 45.0 °C or flow below 2.5 L/min? -/
def coolBad (s : State) : Bool := decide (s.ditch.inlet > 360) || decide (s.ditch.flow < 25)

/-- The coupling sensors: inlet in 0.125 °C, flow in 0.1 L/min. -/
def coolantSensors (inlet flow : Nat) (s : State) : State :=
  if frozen s then s
  else
    let s1 := showCap (setDitch (fun x => { x with inlet := inlet, flow := flow }) s)
    let s2 := if (effectiveCap s1).1 = s1.ditch.capSeen then s1 else setDitch (fun x => { x with capDue := true }) s1
    if coolBad s2 then s2 else setDitch (fun x => { x with coolOut := false }) s2

/-- COOLANT_OUT_OF_SPEC. -/
def coolantOut (s : State) : State :=
  if !frozen s && coolBad s && !s.ditch.coolOut then
    drdEvent 0x0C 1 0 [s.ditch.inlet, s.ditch.flow] (setDitch (fun x => { x with coolOut := true }) s)
  else s

/-! ### Droop (R486, R487) -/

/-- DROOP_DETECT: the supply of an acre fell by mv below its set point and the stretch lasted ns. -/
def droopDetect (d mv ns : Nat) (s : State) : State :=
  if frozen s || decide (mv ≤ 40) then s
  else
    let s1 := bumpF (dpwB d) F.dpwDroopStretch 1 s
    if mv > 80 ∨ ns > 10000 then
      retarget d (modClk d (fun c => { c with droop := max 300 (c.f - 100), droopTo := s.counter + 25000, droopEnd := false })
        (bumpF (dpwB d) F.dpwDroopEmerg 1 (drdEvent 0x09 2 d [mv, ns] s1)))
    else s1

/-- DROOP_HOLD_END. -/
def droopHoldEnd (d : Nat) (s : State) : State :=
  let c := getClk s d
  if !frozen s && decide (c.droop < 1200) && decide (s.counter ≥ c.droopTo) then modClk d (fun x => { x with droopEnd := true }) s else s

/-! ### Regulator alerts (R488, R489, R626) -/

/-- The module enters Trickle. -/
def trickleEnter (s : State) : State :=
  if inLevel 3 s then s
  else retargetAll (setDitch (fun x => { x with trickleAt := s.counter, exitDue := false, phaseDone := [] })
    (bumpF drdB F.drdTrickleEntries 1 (drdEvent 0x01 1 0 [] (setLevel 3 s))))

/-- REGULATOR_ALERT: latched while frozen (R598); in Deep the regulators of the dies are off. -/
def regulatorAlert (r : Rail) (s : State) : State :=
  if s.power.phase = .off || s.ditch.alerts.contains r || s.ditch.railsOff.contains r then s
  else
    let s1 := setDitch (fun x => { x with alerts := x.alerts ++ [r], exitDue := false }) s
    if frozen s1 || inLevel 2 s1 then s1 else trickleEnter s1

/-- REGULATOR_ALERT_CLEAR. -/
def regulatorClear (r : Rail) (s : State) : State :=
  if decide (s.power.phase ≠ .off) && s.ditch.alerts.contains r then setDitch (fun x => { x with alerts := x.alerts.filter (· ≠ r), clearAt := s.counter }) s else s

/-- TRICKLE_HOLD_END: 1 ms after the last alert cleared. -/
def trickleHoldEnd (s : State) : State :=
  if !frozen s && inLevel 3 s && s.ditch.alerts.isEmpty && decide (s.counter ≥ s.ditch.clearAt + 25000) then
    setDitch (fun x => { x with exitDue := true }) s
  else s

/-- PHASE_DISABLE: 2 ms after entry the failing phase of an alerting rail is disabled. -/
def phaseDisable (r : Rail) (ph : Nat) (s : State) : State :=
  if !frozen s && inLevel 3 s && s.ditch.alerts.contains r && decide (r ≠ .input) && !s.ditch.phaseDone.contains r
      && decide (s.counter ≥ s.ditch.trickleAt + 50000) then
    retargetAll (showCap (setDitch (fun x => { x with
      phases := x.phases ++ (if x.phases.contains (r, ph) then [] else [(r, ph)]), phaseDone := x.phaseDone ++ [r], capDue := true })
      (drdEvent 0x02 1 0 [railNum r, ph] s)))
  else s

/-- Ends the streams that have frames on a die's HBM (R569). -/
def failStreams (d : Nat) (s : State) : State :=
  ((s.eng.frames.filter (fun e => hbmDie e.1 = d)).map (·.2.1)).eraseDups.foldl (fun t id => endStream id 0x05 t) s

/-- The units that a rail supplies leave service as a lasting fault (R489, R569). -/
def railUnits (r : Rail) (s : State) : State :=
  match r with
  | .vddFd n | .vddsFd n | .vioFd n =>
    failStreams n.val ((dieAcres n.val).foldl (fun t g => modAcre g (fun a => { a with pw := .fallow, retired := true }) t)
      (beyondSpares 2 n.val s))
  | .vhbm n => failStreams n.val (beyondSpares 0x0C n.val s)
  | .vcis n | .varr n => beyondSpares 0x0A n.val s
  | _ => beyondSpares 1 (railNum r) s

/-- RAIL_OFF: 8 ms after entry the alerting rail is turned off; the rest leaves Trickle at the next fence. -/
def railOff (r : Rail) (s : State) : State :=
  if !frozen s && inLevel 3 s && s.ditch.alerts.contains r && decide (r ≠ .input) && decide (s.counter ≥ s.ditch.trickleAt + 200000) then
    let s1 := setDitch (fun x => { x with alerts := x.alerts.filter (· ≠ r), railsOff := x.railsOff ++ [r] }) (drdEvent 0x03 1 0 [railNum r] s)
    setDitch (fun x => { x with exitDue := x.alerts.isEmpty }) (railUnits r s1)
  else s

/-! ### Ageing (R471, R473) -/

/-- The second lowest life fmax of a die's in-service acres other than g. -/
def nextLowest (s : State) (d g : Nat) : Nat :=
  (((serviceAcres s d).filter (· ≠ g)).map (fun x => (getAcre s x).life)).foldl min 1200

/-- A planned swap of an in-service acre for a spare starts with the spare's wake (R575). -/
def planSwap (g sp : Nat) (why : SwapWhy) (s : State) : State :=
  countSpares (g / 68) (startWake sp 2 { s with swaps := s.swaps ++ [⟨g, sp, why, .waking⟩] })

/-- A slow acre is swapped for a faster free spare, or the limit is reported. -/
def slowAcre (g : Nat) (s : State) : State :=
  let d := g / 68
  let life := (getAcre s g).life
  if inService s g && decide (nextLowest s d g > life + slowGap s) && !s.swaps.any (fun j => j.old = g) then
    let s1 := drdEvent 0x0B 3 g [life] s
    match bestSpare s1 d with
    | some sp => if (getAcre s1 sp).life > life then planSwap g sp .slow s1 else s1
    | none => s1
  else s

/-- AGEING_MONITOR: an acre's timing margin fell below the fused threshold. -/
def ageing (g : Nat) (s : State) : State :=
  let a := getAcre s g
  if frozen s || decide (a.pw ≠ .flow) then s
  else if a.guard < 5 then retarget (g / 68) (modAcre g (fun x => { x with guard := x.guard + 1 }) s)
  else slowAcre g (drdEvent 0x0A 3 g [a.life - 25] (modAcre g (fun x => { x with guard := 0, life := x.life - 25 }) s))

/-! ### Acre states (R490 to R494) -/

/-- May the acre's clocks stop: nothing runs or waits on it, and no swap uses it? -/
def quiet (s : State) (g : Nat) : Bool :=
  let a := getAcre s g
  a.run.isNone && a.pend.isNone && a.aside.isNone && a.extra.isEmpty && a.wake.isNone &&
    !s.swaps.any (fun j => j.old = g || j.new = g)

/-- Is a gate entry of the acre's table full (R328)? -/
def gatesFull (s : State) (g : Nat) : Bool :=
  s.images.any (fun e => (e.2.chains.zipIdx).any (fun c =>
    (List.range c.1.slots).any (fun k =>
      (getGate s e.1 c.2 k).full && (match locate s (slotAddr c.1 k) with
        | .spad g' _ => g' = g
        | _ => false))))

/-- The memories of an acre lose their contents, but for the banks of a mask (R76, R327). -/
def loseBanks (g mask : Nat) (s : State) : State :=
  let keep (o : Nat) : Bool := mask.testBit (bankOf o)
  modAcre g (fun a => { a with
      macros := a.macros.map (fun e => (e.1, { e.2 with a := {}, b := {} }))
      rounds := [], acc0 := {}, acc1 := {}, soft := [], scrubLine := 0
      poison := a.poison.filter (fun e => keep (e.1 * 8))
      wbPend := a.wbPend.filter (fun w => keep (w * 8)) })
    { s with spad := s.spad.filter (fun e => !(decide (e.1 / 0x200000 = g)) || keep (e.1 % 0x200000)) }

def enterDry (g : Nat) (s : State) : State :=
  modAcre g (fun a => { a with pw := .dry }) (loseBanks g (getF s (spdB g) F.spdRetainRetainMask) s)
def enterFallow (g : Nat) (s : State) : State := modAcre g (fun a => { a with pw := .fallow }) (loseBanks g 0 s)

/-- ACRE_STILL: STILL_DELAY has passed. -/
def acreStill (g : Nat) (s : State) : State :=
  if acreLive s g && quiet s g then modAcre g (fun a => { a with pw := .still }) s else s

/-- ACRE_DRY: DRY_DELAY has passed; in the Cache role at once. -/
def acreDry (g : Nat) (s : State) : State :=
  if !frozen s && decide ((getAcre s g).pw = .still) && quiet s g && !gatesFull s g then enterDry g s else s

/-- ACRE_WAKE: something targets an acre that is not in Flow. -/
def acreWake (g : Nat) (s : State) : State :=
  if frozen s || inLevel 2 s || !inService s g || (getAcre s g).retired || (getClk s (g / 68)).still.isSome then s else wakeFor g s

/-- Waiting wakes start while fewer than 8 acres of their die are in rail ramp: the first in the queue. -/
def drainWakes : Nat → State → State
  | 0, s => s
  | n + 1, s =>
    match s.wakeQ.find? (fun q => decide (ramping s (q.1 / 68) < 8)) with
    | none => s
    | some q => drainWakes n (modAcre q.1 (fun a => { a with wake := some q.2 }) { s with wakeQ := s.wakeQ.filter (fun x => x.1 ≠ q.1) })

/-- ACRE_WAKE_DONE: the sequence ends in Flow. -/
def acreWakeDone (g : Nat) (s : State) : State :=
  if frozen s || (getAcre s g).wake.isNone then s
  else
    let s1 := modAcre g (fun a => { a with wake := none, pw := .flow }) s
    drainWakes s1.wakeQ.length { s1 with swaps := s1.swaps.map (fun j =>
      if j.new = g && decide (j.phase = .waking) then { j with phase := if j.why = .fault then .copying else .waiting } else j) }

/-! ### Module levels (R496, R497) -/

/-- Does the module have work that keeps it from Idle? -/
def busyModule (s : State) : Bool :=
  anyWork s || !s.hostCmds.isEmpty ||
    (allStreams s).any (fun x => x.st = .staging || x.st = .waiting || x.st = .prompt || x.st = .active || x.st = .exporting) ||
    s.cist.basins.any (fun e => e.2.programming || e.2.recal) || s.cist.plots.any (fun e => !e.2.reqs.isEmpty)

/-- IDLE_ENTRY: no work for IDLE_DELAY. -/
def idleEntry (s : State) : State :=
  if frozen s || !inLevel 0 s || busyModule s then s
  else
    let gs := (List.range 272).filter (fun g => (decide ((getAcre s g).pw = .flow) || decide ((getAcre s g).pw = .still)) && quiet s g && !gatesFull s g)
    setLevel 1 (gs.foldl (fun t g => enterDry g t) s)

/-- A write of DRD_LEVEL (R497, R501). -/
def levelWrite (data : Word) (s : State) : State :=
  let req := data.getLsbD 2
  let s1 := setF drdB F.drdLevelIdleDelay (fldOf F.drdLevelIdleDelay data) (setF drdB F.drdLevelAutoWake (fldOf F.drdLevelAutoWake data)
    (setB drdB F.drdLevelDeepReq req s))
  if req then setB drdB F.drdLevelPending (!inLevel 2 s1) s1
  else
    let s2 := setF drdB F.drdLevelPending 0 s1
    refreshClosed (if inLevel 2 s2 then setDitch (fun x => { x with deepWake := true }) s2 else s2)

/-- DEEP_REQUEST and DEEP_REQUEST_END: the write with DEEP_REQ set or clear. -/
def deepRequest (p : Path) (set : Bool) (data : Word) (s : State) : State :=
  if data.getLsbD 2 = set then ownedWrite p drdB F.drdLevelLevel.off (levelWrite data) s else s

/-- DEEP_ENTRY: a pending request meets Idle. -/
def deepEntry (s : State) : State :=
  if frozen s || !inLevel 1 s || getF s drdB F.drdLevelPending = 0 || busyModule s then s
  else
    let s1 := ((List.range 272).filter (fun g => decide ((getAcre s g).pw ≠ .fallow))).foldl (fun t g => enterFallow g t) s
    refreshClosed (setLevel 2 (setF drdB F.drdLevelPending 0 (setDitch (fun x => { x with deepWake := false })
      { s1 with acres := s1.acres.map (fun e => (e.1, { e.2 with wake := none })), wakeQ := [] })))

/-- DEEP_WAKE_DONE: WAKE_TABLE entry 8 ends in Idle, and the in-service acres wake from Fallow. -/
def deepWakeDone (s : State) : State :=
  if frozen s || !inLevel 2 s || !s.ditch.deepWake then s
  else
    let gs := ((List.range 4).flatMap (serviceAcres s)).filter (fun g => !(getAcre s g).retired)
    let s1 := setLevel 1 (setDitch (fun x => { x with deepWake := false }) s)
    refreshClosed (setF drdB F.drdLevelPending (getF s1 drdB F.drdLevelDeepReq) (gs.foldl (fun t g => startWake g 2 t) s1))

/-! ### Requests (R480, R498) -/

/-- CAP_WRITE. -/
def capWrite (p : Path) (data : Word) (s : State) : State :=
  ownedWrite p drdB F.drdCapBmcCap.off (fun t =>
    setDitch (fun x => { x with capDue := true }) (setF drdB F.drdCapBmcCap (fldOf F.drdCapBmcCap data) t)) s

/-- POWER_SHARE: a holding lowers its own power share. -/
def powerShare (src : CmdSrc) (s : State) : State :=
  match src with
  | .board _ _ => s
  | .host _ => takeCmd src 0x23 (fun c t =>
      let u := setHold c.by_ { getHold t c.by_ with ownPower := some c.arg0 } t
      respond c 0 c.handle (powerShareOf u c.by_) 0 0 u) s

/-! ### The commands -/

def execJunctionRead (die : Die) (hot h0 h1 h2 head : Nat) (s : State) : Out := .next (junctionRead die.val hot h0 h1 h2 head s)
def execThermalRecoveryStep (die : Die) (s : State) : Out := .next (thermalStep die.val s)
def execThermalStillTimeout (die : Die) (s : State) : Out := .next (thermalStillTimeout die.val s)
def execPower10usMean (watts : Nat) (s : State) : Out := .next (powerMean watts s)
def execCapUnreachable (s : State) : Out := .next (capUnreachable s)
def execDroopDetect (die : Die) (mv ns : Nat) (s : State) : Out := .next (droopDetect die.val mv ns s)
def execDroopHoldEnd (die : Die) (s : State) : Out := .next (droopHoldEnd die.val s)
def execRegulatorAlert (rail : Rail) (s : State) : Out := .next (regulatorAlert rail s)
def execRegulatorAlertClear (rail : Rail) (s : State) : Out := .next (regulatorClear rail s)
def execTrickleHoldEnd (s : State) : Out := .next (trickleHoldEnd s)
def execPhaseDisable (rail : Rail) (phase : Nat) (s : State) : Out := .next (phaseDisable rail phase s)
def execRailOff (rail : Rail) (s : State) : Out := .next (railOff rail s)
def execAgeingMonitor (die : Die) (acre : PAcre) (s : State) : Out := .next (ageing (acreIx die acre) s)
def execAcreStill (die : Die) (acre : PAcre) (s : State) : Out := .next (acreStill (acreIx die acre) s)
def execAcreDry (die : Die) (acre : PAcre) (s : State) : Out := .next (acreDry (acreIx die acre) s)
def execAcreWake (die : Die) (acre : PAcre) (s : State) : Out := .next (acreWake (acreIx die acre) s)
def execAcreWakeDone (die : Die) (acre : PAcre) (s : State) : Out := .next (acreWakeDone (acreIx die acre) s)
def execIdleEntry (s : State) : Out := .next (idleEntry s)
def execDeepRequest (p : Path) (data : Word) (s : State) : Out := .next (deepRequest p true data s)
def execDeepRequestEnd (p : Path) (data : Word) (s : State) : Out := .next (deepRequest p false data s)
def execDeepEntry (s : State) : Out := .next (deepEntry s)
def execDeepWakeDone (s : State) : Out := .next (deepWakeDone s)
def execCoolantOutOfSpec (s : State) : Out := .next (coolantOut s)
def execCapWrite (p : Path) (data : Word) (s : State) : Out := .next (capWrite p data s)
def execPowerShare (src : CmdSrc) (s : State) : Out := .next (powerShare src s)

end Sys2Proof.Machine
end

