-- ==== Sys2Proof/Machine/Firmware.lean ====
section
/-!
DEFINITION. The dual rule, firmware slots, the boot chain, measurements and the alias keys, and the replacement of firmware in
service up to the ring fence that makes it (R533 to R535, R537, R541 to R548, R551, R560 to R563).
-/

namespace Sys2Proof.Machine

def setTrust (f : Trust → Trust) (s : State) : State := { s with trust := f s.trust }

/-- An event of trust: logged, and held in FWU_LASTEVT (R566). -/
def trustEvent (holding code : Nat) (detail : List Nat) (s : State) : State :=
  let st := statusWord holding 0 1 code
  lastEvt fwuB F.fwuLastevtStatus st (logStatus st 0 detail s)

/-- FWU_STAT.PHASE; a change raises the FWU source (R612). -/
def fwPhase (s : State) : Nat := getF s fwuB F.fwuStatPhase
def setPhase (n : Nat) (s : State) : State :=
  if fwPhase s = n then s else irqRaise fwuB 4 (setF fwuB F.fwuStatPhase n s)

/-! ### Keys (R540) -/

/-- Key numbers: the identity pair, and the alias pair of the n-th set of measurements. -/
def keyDevice : Nat := 1
def keyAlias (s : State) : Nat := 1000 + s.trust.aliasNo

/-- Do two public keys, 96 and 60 bytes from an offset, hash to the values that the Charter names (R535)? -/
def keysNamed (bs : List Byte) (o : Nat) (h : List Byte × List Byte) : Bool :=
  decide (sha384 ((bs.drop o).take 96) = h.1) && decide (sha384 ((bs.drop (o + 96)).take 60) = h.2)

/-- Do both signatures verify over the body under the keys carried (R533)? Offsets of the signatures, the HSS length, the keys. -/
def dualOk (bs body : List Byte) (ecdsa hss hssLen keys : Nat) : Bool :=
  Config.ecdsaVerify ((bs.drop keys).take 96) body ((bs.drop ecdsa).take 96) &&
    Config.hssVerify ((bs.drop (keys + 96)).take 60) body ((bs.drop hss).take hssLen)

/-! ### Slots and manifests (R542, R543) -/

/-- Slot A or B: its state field, and its bytes. -/
def slotFld (k : Nat) : Fld := if k = 0 then F.fwuStatSlotA else F.fwuStatSlotB
def slotBytes (s : State) (k : Nat) : List Byte := (lookupK s.trust.slots k).getD (Config.factorySlot k)
def committedSlot (s : State) : Nat := getF s fwuB F.fwuStatCommitted

/-- The component entry of a kind; all zero where there is none. -/
def compOf (bs : List Byte) (kind : Nat) : List Byte :=
  (((List.range 4).map (fun k => (bs.drop (0x40 + 64 * k)).take 64)).find? (fun e => fieldLE e 0 1 = kind)).getD []

def compSvn (c : List Byte) : Nat := fieldLE c 1 1
def compFloor (c : List Byte) : Nat := fieldLE c 2 1
def compVer (c : List Byte) : Nat := fieldLE c 12 4
def compDigest (c : List Byte) : List Byte := (c.drop 16).take 48

/-- The Charter floor of a component kind (R536). -/
def floorFld (kind : Nat) : Fld := if kind = 1 then F.chtSvnSvnHg else if kind = 2 then F.chtSvnSvnFd else F.chtSvnSvnCc

/-- A component lies at 0x1900 or later in its slot of 48 MiB, and its SHA-384 equals DIGEST. -/
def compOk (bs c : List Byte) : Bool :=
  let o := fieldLE c 4 4
  let n := fieldLE c 8 4
  decide (o ≥ 0x1900) && decide (o + n ≤ 48 * 1048576) && decide (sha384 ((bs.drop o).take n) = compDigest c)

/-- Why a slot fails its checks, in the order of R543: ROLLBACK_REFUSED, KEY_REVOKED, else SIGNATURE_INVALID (log entry 60). -/
def slotBad (s : State) (bs : List Byte) : Option Nat :=
  let vkey := fieldLE bs 6 1
  let rev := fieldLE bs 7 1
  let kinds := (List.range 4).map (fun k => fieldLE bs (0x40 + 64 * k) 1)
  let comps := [1, 2, 3].map (fun k => (k, compOf bs k))
  if fieldLE bs 0 4 ≠ 0x314D5746 ∨ fieldLE bs 4 2 ≠ 1 ∨ vkey > 3 ∨ rev ≥ 16 then some 0x71
  else if (getF s chtB F.chtLifeVendorRevoke).testBit vkey then some 0x73
  else if rev.testBit vkey then some 0x71
  else if !(keysNamed bs 0x1800 (Config.fusedKeys vkey)) || !(dualOk bs (bs.take 0x140) 0x140 0x1A0 5716 0x1800) then some 0x71
  else if kinds.any (· > 4) || [1, 2, 3].any (fun k => kinds.count k ≠ 1) || decide (kinds.count 4 > 1) then some 0x71
  else if comps.any (fun c => decide (compSvn c.2 < getF s chtB (floorFld c.1))) then some 0x72
  else if comps.any (fun c => decide (compFloor c.2 > compSvn c.2) || decide (compSvn c.2 > 63)) then some 0x71
  else if kinds.contains 4 && decide (compVer (compOf bs 4) % 65536 < getF s tlyB F.tlyCoefInstalled) then some 0x72
  else if ((kinds.filter (· ≠ 0)).map (compOf bs)).any (fun c => !compOk bs c) then some 0x71
  else none

/-! ### Measurements and the alias pair (R541, R551) -/

/-- The Charter fields except UDS, in the order of *Table: Charter fields*. -/
def charterBytes (s : State) : List Byte :=
  let pair (h : List Byte × List Byte) : List Byte := fixLen 48 h.1 ++ fixLen 48 h.2
  let f (x : Fld) : List Byte := leBytes 1 (getF s chtB x)
  f F.chtLifeLifecycle ++ leBytes 4 (getF s modB F.modSerialLoSerLo) ++ leBytes 4 (getF s modB F.modSerialHiSerHi)
    ++ (List.range 4).flatMap (fun k => pair (Config.fusedKeys k)) ++ f F.chtLifeVendorRevoke
    ++ pair (Config.fusedKeys 4) ++ (List.range 3).flatMap (fun k => fixLen 96 (getK s.trust.owners (k + 1) []))
    ++ f F.chtLifeOwnerActive ++ f F.chtSvnSvnHg ++ f F.chtSvnSvnFd ++ f F.chtSvnSvnCc
    ++ f F.chtLifeDebug ++ f F.chtLifeFreeze ++ f F.chtLifeHoldings ++ f F.chtLifeIdeReq

/-- A measurement, as a SHA-384 digest: 3 to 6 as recorded, or as the committed slot gives them. -/
def measure (s : State) (i : Nat) : List Byte :=
  let slot := slotBytes s (committedSlot s)
  match i with
  | 1 => Config.romDigest
  | 2 => sha384 (charterBytes s)
  | 7 => sha384 (leBytes 1 (getF s modB F.modRoleCurrent) ++ leBytes 1 (getF s (rngB 0) F.rngStatMode) ++ leBytes 4 s.epoch)
  | 6 => (lookupK s.trust.meas 6).getD (sha384 (compDigest (compOf slot 4) ++ leBytes 2 (getF s tlyB F.tlyCoefInstalled)))
  | k => (lookupK s.trust.meas k).getD (compDigest (compOf slot (k - 2)))

def aliasMeas (s : State) : List Byte := measure s 3 ++ measure s 4 ++ measure s 5

/-- ATTEST_KEYS_LOW, once per boot epoch. -/
def keysLowCheck (s : State) : State :=
  if !s.trust.keysLow && (decide (s.trust.devQ + 65536 > 2 ^ 20) || decide (s.trust.aliasQ + 65536 > 2 ^ 30)) then
    trustEvent 15 0x7D [] (setTrust (fun t => { t with keysLow := true }) s)
  else s

/-- New measurements 3 to 5 make a new alias pair: two certificates that DEVICE_ID_HSS signs, with reserved indices; the top
tree of ALIAS_HSS is built anew. -/
def aliasUpdate (s : State) : State :=
  let m := aliasMeas s
  if s.trust.aliasFor = m then s
  else keysLowCheck (setTrust (fun t => { t with
    aliasFor := m, aliasNo := t.aliasNo + 1, treeUp := false
    devQ := t.devQ + 2
    devRes := if t.devQ + 2 > t.devRes then t.devRes + 16 else t.devRes }) s)

/-- Records the measurements of components of a slot's firmware. -/
def recordMeas (kinds : List Nat) (bs : List Byte) (s : State) : State :=
  kinds.foldl (fun t k => setTrust (fun x => { x with meas := insertK x.meas (k + 2) (compDigest (compOf bs k)) }) t) s

/-- The coefficient set of a slot in force, with its version. -/
def recordCoef (bs : List Byte) (s : State) : State :=
  setTrust (fun x => { x with meas := insertK x.meas 6 (sha384 (compDigest (compOf bs 4) ++ leBytes 2 (compVer (compOf bs 4) % 65536))) }) s

/-! ### Boot (R544 to R546) -/

/-- The slot that the ROM reads first: a trial slot not yet tried, else the committed one. -/
def firstSlot (s : State) : Nat :=
  match s.trust.trial with
  | some k => if s.trust.tried then committedSlot s else k
  | none => committedSlot s

/-- SLOT_REJECTED with the cause. -/
def rejectSlot (k cause : Nat) (s : State) : State :=
  setF fwuB (slotFld k) 6 (trustEvent 15 0x70 [cause, k] s)

/-- Fields of the Charter that are read as their most restrictive value: CHARTER_DENIED with the field (R537). -/
def charterRead (s : State) : State :=
  [(0, F.chtLifeLifecycle), (1, F.chtLifeDebug), (2, F.chtLifeFreeze), (3, F.chtLifeHoldings)].foldl
    (fun t f => if getF t chtB f.2 = 2 then trustEvent 15 0x75 [f.1] t else t) s

/-- The firmware of a slot starts: measurements, alias keys, UDS locked. -/
def startFirmware (k : Nat) (s : State) : State :=
  let bs := slotBytes s k
  let s1 := recordMeas [1, 2, 3] bs (setTrust (fun t => { t with
    meas := t.meas.filter (fun e => e.1 = 6), treeUp := false, tried := t.tried || t.trial = some k }) s)
  let s2 := if k = committedSlot s then setF fwuB (slotFld k) 4 s1 else s1
  aliasUpdate (setF chtB F.chtLifeUdsLocked 1 s2)

/-- The firmware of a slot starts where the slot passes its checks; else the slot is rejected and the chain goes on (R545). -/
def orReject (k : Nat) (bad : Option Nat) (next : State → State) (s : State) : State :=
  match bad with
  | none => startFirmware k s
  | some c => next (rejectSlot k c s)

/-- With neither slot good the module enters recovery (R546). -/
def enterRecovery (s : State) : State := trustEvent 15 0x7C [] { s with power := { s.power with phase := .recovery } }

/-- The boot chain of the active pair: the firmware of the first slot that passes, or recovery (R544 to R546). -/
def bootChain (s0 : State) : State :=
  let s := charterRead s0
  let k := firstSlot s
  orReject k (slotBad s (slotBytes s k)) (fun s1 =>
    orReject (1 - k) (slotBad s1 (slotBytes s1 (1 - k))) enterRecovery s1) s

/-- Cold power-on: the indices of the attestation keys move past what may have been used (R541, R452). -/
def attestPowerOn (s : State) : State :=
  keysLowCheck (setTrust (fun t => { t with
    devQ := t.devRes + 64, devRes := t.devRes + 64, aliasQ := t.aliasRes + 64, aliasRes := t.aliasRes + 64
    keysLow := false, treeUp := false, nonce := none, spdm := [] }) s)

/-! ### Updates in service (R560 to R563) -/

/-- The standby pair in RLY_CORES: 0 ready, 1 booting, 2 self-test, 3 retired. -/
def standby (s : State) : Nat := getF s rlyB F.rlyCoresStandby
def setStandby (n : Nat) (s : State) : State := setF rlyB F.rlyCoresStandby n s

/-- The other core pair becomes active. -/
def flipPair (s : State) : State := setF rlyB F.rlyCoresActive (1 - getF s rlyB F.rlyCoresActive) s

/-- HEALTH_WIN in counts of the module counter. -/
def healthWin (s : State) : Nat := 250000000 * max 6 (getF s fwuB F.fwuStatHealthWin)

/-- An update changes only what its slot changes: new Headgate firmware needs a handover, new field die or Cistern controller
firmware a bank swap. -/
def updateOf (s : State) (k : Nat) : Update :=
  let d (kind : Nat) : Bool := decide (compDigest (compOf (slotBytes s k) kind) ≠ measure s (kind + 2))
  { slot := k, hg := d 1, fd := d 2 || d 3 }

/-- Is an update's step due at the next fence? -/
def fwDue (s : State) : Bool := s.trust.update.isSome && (fwPhase s = 3 || fwPhase s = 5)

/-- UPDATE_REVERTED: the trial slot is marked failed, and the handover or bank swap is reversed at the next fence. -/
def revertUpdate (s : State) : State :=
  match s.trust.update with
  | some u =>
    if fwPhase s = 4 then
      setPhase 5 (setF fwuB (slotFld u.slot) 5 (trustEvent 15 0x76 [u.slot] (setTrust (fun t => { t with trial := none }) s)))
    else s
  | none => s

/-- What a fence does for an update: the handover and the bank swap, which open the health window, or their reversal. -/
def fwFence (s : State) : State :=
  match s.trust.update with
  | none => s
  | some u =>
    if fwPhase s = 3 then
      let s1 := if u.hg then setF fwuB F.fwuStatStandbyReady 0 (flipPair s) else s
      let s2 := recordMeas ((if u.hg then [1] else []) ++ (if u.fd then [2, 3] else [])) (slotBytes s u.slot)
        (setTrust (fun t => { t with update := some { u with handed := u.hg, swapped := u.fd, endAt := s.counter + healthWin s } }) s1)
      setPhase 4 (aliasUpdate s2)
    else if fwPhase s = 5 then
      let s1 := if u.handed then flipPair s else s
      setPhase 0 (aliasUpdate (recordMeas [1, 2, 3] (slotBytes s (committedSlot s)) (setTrust (fun t => { t with update := none }) s1)))
    else s

/-- The window closes without a fault: the update commits, and the old pair boots the new slot (R563, R547, R548, R545). -/
def commitUpdate (u : Update) (s : State) : State :=
  let bs := slotBytes s u.slot
  match slotBad s bs with
  | some c => revertUpdate (rejectSlot u.slot c s)
  | none =>
    let raise_ (kind : Nat) (t : State) : State := setF chtB (floorFld kind) (max (getF t chtB (floorFld kind)) (compFloor (compOf bs kind))) t
    let s1 := raise_ 3 (raise_ 2 (raise_ 1 s))
    let s2 := setF chtB F.chtLifeVendorRevoke (Nat.lor (getF s1 chtB F.chtLifeVendorRevoke) (fieldLE bs 7 1)) s1
    let s3 := if compOf bs 4 = [] then s2 else recordCoef bs (setF tlyB F.tlyCoefInstalled (compVer (compOf bs 4) % 65536) s2)
    let s4 := setF fwuB (slotFld u.slot) 4 (setF fwuB (slotFld (1 - u.slot)) 2 (setF fwuB F.fwuStatCommitted u.slot s3))
    let s5 := if standby s4 = 3 then s4 else setStandby 1 s4
    setPhase 0 (setTrust (fun t => { t with update := none, trial := none }) s5)

/-- HEALTH_WINDOW_EXPIRE. -/
def healthExpire (s : State) : State :=
  match s.trust.update with
  | some u => if !frozen s && fwPhase s = 4 && decide (s.counter ≥ u.endAt) then commitUpdate u s else s
  | none => s

/-- PLDM firmware update is served (R546, R594). -/
def pldmUp (s : State) : Bool := !isFrozen s && (s.power.phase = .service || s.power.phase = .hold || s.power.phase = .recovery)

/-- PLDM_FIRMWARE_STAGE: the slot that is not committed takes a manifest and its components, which are checked. -/
def stageFirmware (bs : List Byte) (s : State) : State :=
  if !pldmUp s || s.rely.coresLost then s
  else if s.trust.update.isSome then emit (.busy 2) s
  else
    let k := 1 - committedSlot s
    let s1 := setTrust (fun t => { t with slots := insertK t.slots k bs, trial := none }) s
    match slotBad s1 bs with
    | none => emit (.mgmt 0x201 0 k 0 0 0) (setF fwuB (slotFld k) 2 s1)
    | some c => emit (.mgmt 0x201 (statusWord 15 0 1 c) k 0 0 0) (setF fwuB (slotFld k) 6 (trustEvent 15 c [k] s1))

/-- ACTIVATE_FIRMWARE. -/
def activateFirmware (s : State) : State :=
  let k := 1 - committedSlot s
  let u := updateOf s k
  let st := getF s fwuB (slotFld k)
  if !pldmUp s || s.rely.coresLost then s
  else if s.trust.update.isSome || (u.hg && standby s ≠ 0) || !(st = 2 || st = 5) || s.power.phase ≠ .service then emit (.busy 1) s
  else
    match slotBad s (slotBytes s k) with
    | some c => emit (.mgmt 0x202 (statusWord 15 0 1 0x70) k 0 0 0) (rejectSlot k c s)
    | none =>
      let s1 := setF fwuB (slotFld k) 3 (setTrust (fun t => { t with update := some u, trial := some k, tried := true }) s)
      emit (.mgmt 0x202 0 k 0 0 0) (if u.hg then setPhase 2 (setStandby 1 s1) else setPhase 3 s1)

/-- STANDBY_BOOT_DONE: the standby pair is up with the trial slot, or with the committed one. -/
def standbyBooted (s : State) : State :=
  if frozen s || standby s ≠ 1 then s
  else if fwPhase s = 2 then setPhase 3 (setF fwuB F.fwuStatStandbyReady 1 (setStandby 0 s))
  else setStandby 0 s

/-- An update is abandoned while the standby boots its trial slot (R565). -/
def abandonUpdate (s : State) : State :=
  match s.trust.update with
  | some u => setPhase 0 (setF fwuB F.fwuStatStandbyReady 0 (setF fwuB (slotFld u.slot) 5 (setTrust (fun t => { t with update := none, trial := none }) s)))
  | none => s

/-! ### The commands -/

def execPldmFirmwareStage (slot : List Byte) (s : State) : Out := .next (stageFirmware slot s)
def execActivateFirmware (s : State) : Out := .next (activateFirmware s)
def execStandbyBootDone (s : State) : Out := .next (standbyBooted s)
def execHealthWindowExpire (s : State) : Out := .next (healthExpire s)
def execFirmwareWatchdogExpiry (s : State) : Out := .next (if frozen s then s else revertUpdate s)

end Sys2Proof.Machine
end

