-- ==== Sys2Proof/Machine/KvMove.lean ====
section
/-!
DEFINITION. The import of a stream's key/value pages (R355 to R361, R416, R417, R421, R527): the header and the page
records that the Flume channel of the import hands over in order.
-/

namespace Sys2Proof.Machine

/-- The channel on which a stream is imported. -/
def importChan (s : State) (x : Stream) : Option Nat :=
  match keyOfWire (x.xchan % 65536) with
  | some k => if (getChan s k).any (fun c => c.kind = .kvIn && c.bind = bindOf x) then some k else none
  | none => none

/-- The next n bytes that a channel may hand on, where they have arrived. -/
def peekBytes (k n : Nat) (s : State) : Option (List Byte) :=
  match getChan s k with
  | none => none
  | some c => let bs := readyBytes n c; if bs.length = n then some bs else none

/-- The n next bytes are handed on. -/
def dropBytes (k n : Nat) (s : State) : State :=
  modChan k (fun c => { c with handed := c.handed + n, rxData := c.rxData.filter (fun e => decide (c.handed + n ≤ e.1)) }) s

/-- The transfer of a channel is over: what is checked is acknowledged, and the next transfer starts at offset 0. -/
def endTransfer (k : Nat) (s : State) : State :=
  modChan k (fun c => { c with bind := 0, handed := 0, checked := 0, rxData := [], fails := [] }) (sendAck k s)

/-- KV_IMPORT_REFUSED (R360): reported on a die, logged with its cause, and the stream ends. -/
def refuseImport (id die cause : Nat) (s : State) : State :=
  match getStream s id with
  | none => s
  | some x =>
    let st := strStatus x 0x4F
    let s1 := logStatus st id [cause, die] (kvcEvent die F.kvcFaultsImportRefused st s)
    endStreamWith id st (match importChan s x with
      | some k => endTransfer k s1
      | none => s1)

/-- The causes for which an import header is refused (R360), in the model's own order of numbers. -/
def importHeaderBad (s : State) (x : Stream) (im : Image) (h : List Byte) : Option Nat :=
  if fieldLE h 0 4 ≠ 0x3158564B ∨ fieldLE h 4 2 ≠ 1 ∨ fieldLE h 6 2 > 1 ∨ fieldLE h 0x18 4 ≥ 2 ^ 20 ∨ fieldLE h 0x44 56 ≠ 0 then some 1
  else if fieldLE h 0x7C 4 ≠ crc32c (h.take 0x7C) then some 2
  else if (h.drop 8).take 16 ≠ kvTag im then some 3
  else if fieldLE h 0x2C 2 ≠ im.layers then some 4
  else if fieldLE h 0x2E 1 ≠ im.kvhd then some 5
  else if fieldLE h 0x2F 1 ≠ Nat.log2 im.kvd then some 6
  else if fieldLE h 0x28 4 ≥ ctxMax s x then some 7
  else if fieldLE h 0x34 4 + fieldLE h 0x38 4 + fieldLE h 0x3C 4 + fieldLE h 0x40 4 ≠ fieldLE h 0x30 4 then some 1
  else none

/-- Every record is accepted: the stream waits for a slot, or is CACHED in the Cache role. -/
def importDone (id k : Nat) (s : State) : State :=
  match getStream s id with
  | none => s
  | some x =>
    match x.impHdr with
    | none => s
    | some (pages, ntok) =>
      if x.impNext < pages then s
      else
        endTransfer k (setStreamSt id (if moduleRole s = 3 then .cached else .waiting)
          (modStream id (fun y => { y with nctx := ntok, impHdr := none, impNext := 0 }) s))

/-- KV_IMPORT_HEADER: the 128-byte header of a stream's import has arrived. -/
def kvImportHeader (id : Nat) (s : State) : State :=
  match getStream s id with
  | none => s
  | some x =>
    if frozen s || x.st ≠ .staging || !x.imported || x.impHdr.isSome || x.ending.isSome then s
    else match importChan s x, getImage s x.image with
      | some k, some im =>
        match peekBytes k 128 s with
        | none => s
        | some h =>
          match importHeaderBad s x im h with
          | some cause => refuseImport id 0 cause s
          | none =>
            let s1 := passTo k 128 (dropBytes k 128 (chargeBytes id 128 s))
            importDone id k (modStream id (fun y => { y with
              impHdr := some (fieldLE h 0x30 4, fieldLE h 0x28 4), impNext := 0
              promptComplete := (fieldLE h 6 2).testBit 0 }) s1)
      | _, _ => s

/-- Does a record header name a page of the stream's map (R359)? -/
def recordHeadOk (k : KvDims) (r : List Byte) : Bool :=
  decide (fieldLE r 0 2 < k.layers) && decide (fieldLE r 2 1 < k.heads) && decide (fieldLE r 3 1 < 4) &&
    decide (fieldLE r 4 2 < k.pmax) && decide (1 ≤ fieldLE r 6 2) && decide (fieldLE r 6 2 ≤ 64) && decide (fieldLE r 0x10 44 = 0)

/-- The record's CRC, over the header without it and the frame. -/
def recordCrcOk (r : List Byte) : Bool := decide (fieldLE r 0x3C 4 = crc32c (r.take 0x3C ++ r.drop 0x40))

/-- A checked record goes into a new frame and its entry becomes OPEN or SEALED. -/
def takePage (id k : Nat) (x : Stream) (r : List Byte) (s : State) : State :=
  let kd := kvDims s x
  let die := fieldLE r 3 1
  let a := entryAddr (x.maps.getD die 0) kd (fieldLE r 0 2) (fieldLE r 2 1) (fieldLE r 4 2)
  if (rdEnt s a).st ≠ 0 then refuseImport id die 8 s
  else match allocFrame die x.holding kd.d id a (settleNow id s) with
    | none => endStream id 0x60 (endTransfer k s)
    | some (f, t) =>
      let n := fieldLE r 6 2
      let t1 := wrEnt a ⟨f, if n < 64 then 1 else 2, n, BitVec.ofNat 32 (fieldLE r 8 4), BitVec.ofNat 32 (fieldLE r 12 4)⟩
        (wrMem (frameAddr die kd.d f) (r.drop 64) t)
      let t2 := bumpF (kvcB die) F.kvcImportImport 1 (chargeBytes id r.length t1)
      importDone id k (modStream id (fun y => { y with impNext := y.impNext + 1, xack := y.xack + 1 }) t2)

/-- KV_IMPORT_RECORD: the next page record of a stream's import has arrived whole. -/
def kvImportRecord (id : Nat) (s : State) : State :=
  match getStream s id with
  | none => s
  | some x =>
    if frozen s || x.st ≠ .staging || x.impHdr.isNone || x.ending.isSome then s
    else match importChan s x with
      | none => s
      | some k =>
        let n := 64 + kvBytes (kvDims s x).d
        match peekBytes k n s, getChan s k with
        | some r, some c =>
          if !recordCrcOk r then
            let (fourth, t) := failRecord k c.handed n s
            if fourth then refuseImport id (fieldLE r 3 1 % 4) 2 t else t
          else if !recordHeadOk (kvDims s x) r then refuseImport id (fieldLE r 3 1 % 4) 1 s
          else takePage id k x r (passTo k (c.handed + n) (dropBytes k n s))
        | _, _ => s

/-- An import that its sender or the transport gives up is refused (R421). -/
def abandonImport (id : Nat) (s : State) : State :=
  match getStream s id with
  | none => s
  | some x => if x.st = .staging && x.imported && x.ending.isNone then refuseImport id 0 9 s else s

def execKvImportHeader (stream : StreamId) (s : State) : Out := .next (kvImportHeader stream.toNat s)
def execKvImportRecord (stream : StreamId) (s : State) : Out := .next (kvImportRecord stream.toNat s)

end Sys2Proof.Machine
end

