-- ==== Sys2Proof/Machine/Ring.lean ====
section
/-!
DEFINITION. The Herbera ring (chapter 10): collectives and their fences, the sums of the confluence adders, ring modes and
lanes, the completion records that reach an issuer (R521, R427, R436), and adapter training (R390). Log entry 57 names what
these rules leave open.
-/

namespace Sys2Proof.Machine

/-! ### Issue of a collective (R366, R372) -/

/-- The record of a collective of an image. -/
def collDesc (s : State) (iss : Issue) : Option (Image × List Byte) :=
  match getImage s iss.image with
  | none => none
  | some im => (im.colls[iss.id]?).map (fun r => (im, r))

/-- The chains that a collective names. -/
def collChains (r : List Byte) : List Nat :=
  ((List.range 4).map (cCin r) ++ (List.range 4).map (cCout r)).filter (fun k => k ≠ 0xFFFF)

/-- Marks the chains of a collective as broken for its step (R282, R384). -/
def breakColl (iss : Issue) (r : List Byte) (s : State) : State :=
  let add := (collChains r).map (fun k => (iss.image, k, iss.work))
  { s with broken := s.broken ++ add.filter (fun x => !s.broken.contains x) }

/-- The token count at issue (R270, R271); none while its slot's gate bit is empty. -/
def collTokens (s : State) (iss : Issue) (r : List Byte) : Option Nat :=
  match cBsrc r with
  | 0 => some (cBound r)
  | 1 => some ((iss.cb.getD (cBref r) 0).toNat)
  | _ =>
    let a := physAddr (cBmem r) + 4 * cBref r
    match slotAt s iss.image a with
    | some (ix, slot) => if (getGate s iss.image ix slot).full then some (rdLE s a 4) else none
    | none => some (rdLE s a 4)

/-- The issue checks: steps 1, 3 and 4 of R254. -/
def collCheck (s : State) (iss : Issue) (im : Image) (r : List Byte) : IssueRes :=
  if im.st ≠ .active then .refuse 0x22
  else if !roleIn im.roles (moduleRole s) then .refuse 0x13
  else if cBsrc r = 2 && (readFault s (physAddr (cBmem r) + 4 * cBref r) 4).isSome then .refuse 0x2B
  else match collTokens s iss r with
    | none => .held
    | some n =>
      if n > cBound r then .refuse 0x2A
      else if n = 0 then (if (List.range 4).any (fun d => cCout r d ≠ 0xFFFF) then .refuse 0x2A else .zero [n])
      else .ok [n]

/-- A refused collective: unit class Headgate, index 0; nothing is executed. -/
def refuseColl (iss : Issue) (holding code : Nat) (r : List Byte) (s : State) : State :=
  let st := statusWord holding 0 1 code
  breakColl iss r (lastEvt itkB F.itkLastStatus st (logStatus st 0 [0x80000000 + iss.id, iss.image]
    (sendRecord { issue := iss, coll := true, holding := holding, status := st, startCtr := s.counter, endCtr := s.counter } s)))

/-- The virtual channel of an issue (R366): that of the micro-batch for a step in Generation or Mixed role. -/
def vcOf (s : State) (iss : Issue) (r : List Byte) : Nat :=
  match iss.work with
  | .step m => if moduleRole s = 0 ∨ moduleRole s = 2 then m.val else cVc r
  | _ => cVc r

def modRing (f : Ring → Ring) (s : State) : State := { s with ring := f s.ring }

/-- VC_BUSY: the channels on which a collective runs. -/
def showVcs (s : State) : State :=
  let busy := s.ring.colls.foldl (fun n c => if n.testBit c.vc then n else n + 2 ^ c.vc) 0
  onDies (fun d t => setF (rngB d) F.rngStatVcBusy busy t) s

def modColl (sn : Nat) (f : CollRun → CollRun) (s : State) : State :=
  modRing (fun r => { r with colls := r.colls.map (fun c => if c.sn = sn then f c else c) }) s

/-- A collective ends with a record. -/
def endColl (c : CollRun) (st : Word) (s : State) : State :=
  showVcs (sendRecord { issue := c.issue, coll := true, holding := c.holding, status := st, startCtr := c.startCtr, endCtr := s.counter, act := c.act }
    (modRing (fun r => { r with colls := r.colls.filter (fun x => x.sn ≠ c.sn) }) s))

/-- A fence that completes broken (R384): nothing moves, the chains are broken for the step, and the record carries
CHAIN_BROKEN with port E of the die whose break mark arrived first. -/
def breakFence (c : CollRun) (die : Nat) (s : State) : State :=
  endColl c (statusWord c.holding (2 * die) 0x0D 0x42)
    (breakColl c.issue c.desc (onDies (fun d t => bumpF (rngB d) F.rngSatBroken 1 t) s))

/-- The issue of a collective of a type. -/
def issueColl (t : Nat) (iss : Issue) (s : State) : State :=
  match collDesc s iss with
  | none => refuseUnknown iss s
  | some (im, r) =>
    if frozen s || cType r ≠ t then s
    else match collCheck s iss im r with
      | .held => s
      | .refuse code => refuseColl iss im.owner code r (countIssue s)
      | .zero _ => sendRecord { issue := iss, coll := true, holding := im.owner, startCtr := s.counter, endCtr := s.counter } (countIssue s)
      | .ok bs =>
        let c : CollRun := { sn := s.serial, issue := iss, holding := im.owner, desc := r, vc := vcOf s iss r, tokens := bs.getD 0 0, startCtr := s.counter }
        let s1 := showVcs (modRing (fun x => { x with colls := x.colls ++ [c] }) (bumpSerial (countIssue s)))
        if ringSplit s1 then breakFence c 0 s1 else s1

/-! ### Chunks, paths and order (R373 to R376, R393) -/

/-- Elements of the vector of a collective. -/
def collN (c : CollRun) : Nat := c.tokens * cWidth c.desc

/-- The first and the end element of chunk k. -/
def chunkOfN (n k : Nat) : Nat × Nat := let sc := (n + 127) / 128 * 16; (min n (k * sc), min n ((k + 1) * sc))

/-- The chunks of a die's part, in order. -/
def partChunks : Nat → List Nat
  | 0 => [1, 7] | 1 => [2, 4] | 2 => [3, 5] | _ => [0, 6]
/-- The die that owns a chunk. -/
def chunkOwner : Nat → Nat
  | 1 => 0 | 7 => 0 | 2 => 1 | 4 => 1 | 3 => 2 | 5 => 2 | _ => 3

/-- The n dies from one in a sense: clockwise or counter-clockwise. -/
def around (cw : Bool) (d n : Nat) : List Nat := (List.range n).map (fun k => if cw then (d + k) % 4 else (d + 4 - k) % 4)

/-- Does chunk k travel clockwise in a mode? -/
def chunkCw (mode k : Nat) : Bool := if mode = 1 then true else if mode = 2 then false else decide (k < 4)

/-- The dies of a chunk's reduce path in order: mode 0 BOTH, 1 and 2 ONE-WAY, 3 LINE broken after die b; `scatter` for
REDUCE_SCATTER. -/
def reducePath (mode b : Nat) (scatter : Bool) (k : Nat) : List Nat :=
  if mode = 3 then around true (b + 1) 4
  else
    let cw := chunkCw mode k
    if mode = 0 ∨ !scatter then around cw (k % 4) 4
    else around cw (if cw then chunkOwner k + 1 else chunkOwner k + 3) 4

/-- The dies that send a chunk onward from a die that holds it to the others. -/
def spreadFrom (mode b k d : Nat) : List Nat :=
  if mode = 3 then
    let p := (d + 4 - (b + 1) % 4) % 4
    ((List.range 3).filter (fun i => p ≤ i)).map (fun i => (b + 1 + i) % 4) ++
      ((List.range 4).filter (fun i => decide (1 ≤ i) && decide (i ≤ p))).map (fun i => (b + 1 + i) % 4)
  else around (chunkCw mode k) d 3

/-- The dies that send a chunk, once per hop. -/
def chunkSenders (t mode b root k : Nat) : List Nat :=
  match t with
  | 1 => let p := reducePath mode b false k; p.take 3 ++ spreadFrom mode b k (p.getD 3 0)
  | 2 => let p := reducePath mode b true k; p.take 3 ++ (if mode = 3 then spreadFrom mode b k (p.getD 3 0) else [])
  | 3 => spreadFrom mode b k (chunkOwner k)
  | 4 => spreadFrom mode b k root
  | _ => []

/-- One element's sum along a path, with the dies whose adders saturated it; the inputs are aligned to exponent e. -/
def sumElem (fmt e : Nat) (x exps : Nat → Nat) (path : List Nat) : Nat × List Nat :=
  match path with
  | [] => (0, [])
  | d0 :: ds =>
    match fmt with
    | 0 =>
      let al (d : Nat) : Int := rshiftRne (sext 32 (x d)) (e - exps d)
      let r := ds.foldl (fun a d =>
        let t := a.1 + al d
        let u := satS 32 t
        (u, if u = t then a.2 else a.2 ++ [d])) (al d0, ([] : List Nat))
      (toBits 32 r.1, r.2)
    | 1 => ((ds.foldl (fun a d => fadd a (BitVec.ofNat 32 (x d))) (BitVec.ofNat 32 (x d0))).toNat, [])
    | _ => (ofF32 .bf16 (ds.foldl (fun a d => fadd a (toF32 .bf16 (x d))) (toF32 .bf16 (x d0))), [])

/-- The address of slot 0 of an image's chain. -/
def slot0 (s : State) (h ix : Nat) : Option Nat := (getChain s h ix).map (fun c => slotAddr c 0)

/-- Elements of a part. -/
def partLen (n d : Nat) : Nat := ((partChunks d).map (fun k => (chunkOfN n k).2 - (chunkOfN n k).1)).foldl (· + ·) 0

/-- Elements of a die's input. -/
def inputLen (c : CollRun) (d : Nat) : Nat := if cType c.desc = 3 then partLen (collN c) d else collN c

/-- A die's input: elements and exponent byte; none where the slot reads uncorrectable. -/
def collInput (s : State) (c : CollRun) (d : Nat) : Option (Array Nat × Nat) :=
  match slot0 s c.issue.image (cCin c.desc d) with
  | none => some (#[], 0)
  | some a =>
    let f := yfmtOf (cFmt c.desc)
    let n := inputLen c d
    if (readFault s a (elemSize (cFmt c.desc) * n + (if cFmt c.desc = 0 then 1 else 0))).isSome then none
    else some (((List.range n).map (rdElem s f a)).toArray, if cFmt c.desc = 0 then (rdByte s (a + 4 * n)).toNat else 0)

/-- The bytes of an output: elements, then the exponent byte of INT32. -/
def collBytesOf (fmt e : Nat) (vs : List Nat) : List Byte :=
  vs.flatMap (leBytes (elemSize fmt)) ++ (if fmt = 0 then [BitVec.ofNat 8 e] else [])

/-- Where an element of the whole vector lies in the concatenated parts: its owner and index. -/
def partPos (n i : Nat) : Nat × Nat :=
  let sc := max 1 ((n + 127) / 128 * 16)
  let k := i / sc
  let d := chunkOwner k
  let before := ((partChunks d).takeWhile (· ≠ k)).map (fun q => (chunkOfN n q).2 - (chunkOfN n q).1)
  (d, before.foldl (· + ·) 0 + (i - k * sc))

/-- What a collective gives each die, and the dies whose adders saturated an element, once per element; none where an
input reads uncorrectable. The exponent byte of a gather of INT32 parts with different exponents is free (log entry 57). -/
def collOutputs (s : State) (c : CollRun) (mode b : Nat) : Option (NatMap (List Byte) × List Nat) :=
  let r := c.desc
  let n := collN c
  let fmt := cFmt r
  match allSome ((List.range 4).map (collInput s c)) with
  | none => none
  | some ins =>
    let x (d i : Nat) : Nat := ((ins.getD d (#[], 0)).1).getD i 0
    let ex (d : Nat) : Nat := (ins.getD d (#[], 0)).2
    let e := (List.range 4).foldl (fun m d => max m (ex d)) 0
    let all (vs : List Nat) (e : Nat) : NatMap (List Byte) := (List.range 4).map (fun d => (d, collBytesOf fmt e vs))
    match cType r with
    | 3 =>
      let eg := if (List.range 4).all (fun d => ex d = e) then e else (Config.freeWord s.freeCtr).toNat % 256
      some (all ((List.range n).map (fun i => x (partPos n i).1 (partPos n i).2)) eg, [])
    | 4 => some (all ((List.range n).map (x (cRoot r))) (ex (cRoot r)), [])
    | t =>
      let sums := (List.range 8).flatMap (fun k =>
        let (lo, hi) := chunkOfN n k
        (List.range (hi - lo)).map (fun i => sumElem fmt e (fun d => x d (lo + i)) ex (reducePath mode b (t = 2) k)))
      let vs := (sums.map (·.1)).toArray
      let sat := sums.flatMap (·.2)
      let outs := if t = 1 then all vs.toList e
        else (List.range 4).map (fun d => (d, collBytesOf fmt e ((partChunks d).flatMap (fun k =>
          (vs.toList.take (chunkOfN n k).2).drop (chunkOfN n k).1))))
      some (outs, sat)

/-! ### Ring modes (R393 to R395) -/

/-- The mode, and b of LINE, that the retired directions give: clockwise from die n is its port E, counter-clockwise over the
same link is port W of die n + 1. -/
def modeFrom (s : State) : Nat × Nat :=
  let cw := (List.range 4).filter (fun n => getF s (rngB n) F.rngLanesERetired = 1)
  let ccw := (List.range 4).filter (fun n => getF s (rngB ((n + 1) % 4)) F.rngLanesWRetired = 1)
  if cw.isEmpty && ccw.isEmpty then (0, 0)
  else if cw.isEmpty then (1, 0)
  else if ccw.isEmpty then (2, 0)
  else if cw = ccw && cw.length = 1 then (3, cw.getD 0 0)
  else (4, 0)

/-- A collective in flight starts again from its inputs in the new mode, or breaks in SPLIT. -/
def restartColl (c : CollRun) (s : State) : State :=
  if ringSplit s then breakFence c 0 s
  else if c.moving && c.done.isEmpty then
    match collOutputs s c (getF s (rngB 0) F.rngStatMode) (getF s (rngB 0) F.rngStatBreak) with
    | some (outs, sat) => modColl c.sn (fun x => { x with outs := outs, sat := sat }) s
    | none => breakFence c 0 s
  else s

/-- A mode change at a fence: the configuration number rises and the change is logged. -/
def modeFence (s : State) : State :=
  if !s.ring.modeDue then s
  else
    let (m, b) := modeFrom s
    let s0 := modRing (fun r => { r with modeDue := false }) s
    if getF s0 (rngB 0) F.rngStatMode = m ∧ getF s0 (rngB 0) F.rngStatBreak = b then s0
    else
      let s1 := onDies (fun d t => irqRaise (rngB d) 4 (setF (rngB d) F.rngStatCfgNo (getF t (rngB d) F.rngStatCfgNo + 1)
        (setF (rngB d) F.rngStatBreak b (setF (rngB d) F.rngStatMode m t)))) s0
      let st := statusWord 15 0 0x0D 0
      let s2 := onDies (fun d t => lastEvt (rngB d) F.rngLastevtStatus st t) (logEv 0x2B 0x0D 0 [m, b] s1)
      refreshClosed (s2.ring.colls.foldl (fun t c => restartColl c t) s2)

/-! ### Fences (R380 to R384) -/

/-- What every completed fence does on all dies together (R381). -/
def fenceActions (s : State) : State :=
  let s1 := onDies (fun d t => bumpPair (rngB d) 0x10C 1 t) s
  modRing (fun r => { r with lastFence := s.counter, winFences := r.winFences + 1 })
    (fwFence (modeFence (ditchFence (tensFence s1))))

/-- The courses of the issuing list that were issued before and still run on a die. -/
def earlierOn (s : State) (c : CollRun) (d : Nat) : Bool :=
  let mine (x : CourseRun) : Bool := decide (x.sn < c.sn) && x.issue.image = c.issue.image && x.issue.work = c.issue.work
  (dieAcres d).any (fun g => let a := getAcre s g; (a.run.toList ++ a.pend.toList ++ a.aside.toList ++ a.extra).any mine) ||
    (getRuns s d).any (fun r => mine r.c)

/-- Did a course list fault or end refused on a die: an input chain of the collective there is broken, or for a FENCE a chain
whose slots lie on the die? -/
def brokenOn (s : State) (c : CollRun) (d : Nat) : Bool :=
  s.broken.any (fun e => e.1 = c.issue.image && e.2.2 = c.issue.work &&
    (if cType c.desc = 0 then (slot0 s e.1 e.2.1).any (fun a => match locate s a with
        | .spad g _ => decide (acreDie g = d)
        | .hbm h => decide (hbmDie h = d)
        | .nowhere => false)
      else decide (e.2.1 = cCin c.desc d)))

/-- Has a die all that its arrival needs (R380)? -/
def arrived (s : State) (c : CollRun) (d : Nat) : Bool :=
  if cType c.desc = 0 then !earlierOn s c d
  else cCin c.desc d = 0xFFFF || (getGate s c.issue.image (cCin c.desc d) 0).full

/-- The collective whose turn it is on its channel (R368), and for a GRAD collective no earlier fence of its training step (R391). -/
def onTurn (s : State) (c : CollRun) : Bool :=
  !(s.ring.colls.any (fun x => decide (x.sn < c.sn) && (x.vc = c.vc ||
    (cGrad c.desc && cType x.desc = 0 && x.vc = 5 && x.issue.image = c.issue.image))))

/-- FENCE_ARRIVAL: a die arrives at the fence of the k-th collective, or sends a break mark. -/
def fenceArrival (k d : Nat) (s : State) : State :=
  match s.ring.colls[k]? with
  | none => s
  | some c =>
    if frozen s || inLevel 2 s || c.moving || c.sent.any (fun e => e.1 = d) || !onTurn s c then s
    else if brokenOn s c d then modColl c.sn (fun x => { x with sent := x.sent ++ [(d, s.counter, true)] }) s
    else if arrived s c d then modColl c.sn (fun x => { x with sent := x.sent ++ [(d, s.counter, false)] }) s
    else s

/-- The die that arrived last and the skew of a fence (R386); the lower die on a tie. -/
def skewOf (l : List (Nat × Nat × Bool)) : Nat × Nat :=
  let last := l.foldl (fun m e => max m e.2.1) 0
  let first := l.foldl (fun m e => min m e.2.1) last
  ((List.range 4).find? (fun d => l.any (fun e => e.1 = d && e.2.1 = last)) |>.getD 0, last - first)

/-- The fence of a collective completes. -/
def fenceComplete (c : CollRun) (s : State) : State :=
  let (late, skew) := skewOf c.known
  let s1 := modRing (fun r => { r with skew := setK r.skew late (getK r.skew late 0 + skew) 0 }) s
  let marks := c.known.filter (fun e => e.2.2)
  let s2 :=
    match marks with
    | m :: ms =>
      let first := ms.foldl (fun (b : Nat × Nat × Bool) e => if e.2.1 < b.2.1 then e else b) m
      breakFence c first.1 s1
    | [] =>
      if cType c.desc = 0 then endColl c 0 s1
      else match collOutputs s1 c (getF s1 (rngB 0) F.rngStatMode) (getF s1 (rngB 0) F.rngStatBreak) with
        | none => breakFence c 0 s1
        | some (outs, sat) => modColl c.sn (fun x => { x with moving := true, outs := outs, sat := sat }) (nextFree s1).2
  fenceActions s2

/-- FENCE_MESSAGE: the arrival or break mark of a die is known to the others. -/
def fenceMessage (k d : Nat) (s : State) : State :=
  match s.ring.colls[k]? with
  | none => s
  | some c =>
    match c.sent.find? (fun e => e.1 = d) with
    | none => s
    | some m =>
      if frozen s || c.moving || c.known.any (fun e => e.1 = d) then s
      else
        let c1 := { c with known := c.known ++ [m] }
        let s1 := modColl c.sn (fun _ => c1) s
        if c1.known.length = 4 then fenceComplete c1 s1 else s1

/-! ### The end of a collective (R378, R385) -/

/-- The flits and bytes of a collective's hops, and the lines that it reads and writes. -/
def collCosts (s : State) (c : CollRun) : Activity × NatMap Nat :=
  let r := c.desc
  let n := collN c
  let es := elemSize (cFmt r)
  let mode := getF s (rngB 0) F.rngStatMode
  let b := getF s (rngB 0) F.rngStatBreak
  let hops := (List.range 8).flatMap (fun k =>
    let bytes := ((chunkOfN n k).2 - (chunkOfN n k).1) * es
    (chunkSenders (cType r) mode b (cRoot r) k).map (fun d => (d, bytes)))
  let a := hops.foldl (fun m h => actAdd h.1 actFlit ((h.2 + 255) / 256) m) ([] : Activity)
  let a2 := (List.range 4).foldl (fun m d =>
    actAdd d actRsv ((((c.outs.find? (fun e => e.1 = d)).map (fun e => (e.2.length + 127) / 128)).getD 0) +
      (if cCin r d = 0xFFFF then 0 else (es * inputLen c d + 127) / 128)) m) a
  (a2, hops.foldl (fun m h => setK m h.1 (getK m h.1 0 + h.2) 0) [])

/-- The whole collective has completed on every die: inputs are drained, counts kept, and its record is sent. -/
def collFinish (c : CollRun) (s : State) : State :=
  let (act, tx) := collCosts s c
  let s1 := (List.range 4).foldl (fun t d => if cCin c.desc d = 0xFFFF then t else gateDrain c.issue.image (cCin c.desc d) 0 t) s
  let s2 := onDies (fun d t => bumpF (rngB d) F.rngSatSat (c.sat.filter (· = d)).length (bumpPair (rngB d) 0x11C (getK tx d 0) t)) s1
  match c.sat with
  | [] => endColl { c with act := act } 0 s2
  | x :: xs =>
    let low := xs.foldl min x
    let marks := ((List.range 4).map (cCout c.desc)).map (fun k => (c.issue.image, k, c.issue.work))
    endColl { c with act := act } (statusWord c.holding (2 * low) 0x0D 0x4D)
      { s2 with satur := s2.satur ++ marks.filter (fun m => !s2.satur.contains m) }

/-- COLLECTIVE_DONE: the collective has completed on a die; its output slot, once empty, becomes full. -/
def collectiveDone (k d : Nat) (s : State) : State :=
  match s.ring.colls[k]? with
  | none => s
  | some c =>
    let ix := cCout c.desc d
    if frozen s || !c.moving || c.done.contains d || (getGate s c.issue.image ix 0).full then s
    else
      let s1 := match slot0 s c.issue.image ix with
        | some a => gateFill c.issue.image ix 0 (wrMem a (getK c.outs d []) s)
        | none => s
      let c1 := { c with done := c.done ++ [d] }
      let s2 := modColl c.sn (fun _ => c1) s1
      if c1.done.length = 4 then collFinish c1 s2 else s2

/-! ### Management fences and skew windows (R382, R386) -/

/-- Is an action due that waits for a ring fence? -/
def fenceDue (s : State) : Bool :=
  ditchDue s || fwDue s || s.ring.modeDue || s.cist.lslots.any (fun e => e.2.tripDue)

/-- May the ring engine run a management fence: IDLE_FENCE has passed since the latest fence, or an action is due? -/
def mayFence (s : State) : Bool :=
  !frozen s && !inLevel 2 s && (fenceDue s || decide (s.counter ≥ s.ring.lastFence + 25 * max 10 (getF s (rngB 0) F.rngCfgIdleFence)))

/-- SKEW_WINDOW_CLOSE: the sums of a 1 ms window are reported; a frequency-limited slow die is matched from the next fence. -/
def skewWindow (s : State) : State :=
  if frozen s || decide (s.counter < s.ring.winFrom + 25000) then s
  else
    let sum (d : Nat) : Nat := getK s.ring.skew d 0
    let top := (List.range 4).foldl (fun m d => max m (sum d)) 0
    let late := ((List.range 4).find? (fun d => sum d = top)).getD 0
    let lim := 25 * max 5 (getF s (rngB 0) F.rngCfgSkewLimit)
    let slow := (List.range 4).filter (fun d => decide (sum d > lim) && freqLimited s d)
    let pick := slow.foldl (fun (o : Option Nat) d => match o with
      | none => some d
      | some e => if ownLimit s d < ownLimit s e then some d else some e) none
    let s1 := onDies (fun d t => setF (rngB d) F.rngSkewFences (min 255 s.ring.winFences) (setF (rngB d) F.rngSkewLateDie late
      (setF (rngB d) F.rngSkewSum (min 65535 top) t))) s
    let act := getF s (rngB 0) F.rngMatchActive = 1
    let keep := act && (match pick with
      | some d => decide (ownLimit s (getF s (rngB 0) F.rngMatchSlowDie) ≤ ownLimit s d)
      | none => true)
    modRing (fun r =>
      let r1 := { r with skew := [], winFrom := s.counter, winFences := 0 }
      match pick with
      | some d => if getF s (rngB 0) F.rngCfgMatchEn = 1 && !keep then { r1 with slow := some d, matchDue := true } else r1
      | none => r1) s1

/-! ### Lanes (R392, R579) -/

/-- A lasting event of a lane of a ring direction: a spare lane, or the direction is retired. -/
def ringLane (d : Nat) (west : Bool) (lane : Nat) (s : State) : State :=
  let ix := 2 * d + (if west then 1 else 0)
  let fs := if west then F.rngLanesWSpares else F.rngLanesESpares
  let fr := if west then F.rngLanesWRetired else F.rngLanesERetired
  let st := statusWord 15 ix 0x0D 0
  let n := getF s (rngB d) fs
  if n > 0 then
    lastEvt (rngB d) F.rngLastevtStatus st (logEv 0x29 0x0D ix [lane]
      (modRing (fun r => { r with dirs := setK r.dirs ix { getK r.dirs ix {} with retrain := true } {} }) (setF (rngB d) fs (n - 1) s)))
  else
    lastEvt (rngB d) F.rngLastevtStatus st (logEv 0x2A 0x0D ix [lane]
      (modRing (fun r => { r with modeDue := true }) (setF (rngB d) fr 1 s)))

/-- One flit over a ring direction. -/
def ringFlit (d : Nat) (west : Bool) (lane : Nat) (ok again acked : Bool) (cycle : Nat) (s : State) : State :=
  let ix := 2 * d + (if west then 1 else 0)
  let x := getK s.ring.dirs ix {}
  let gone := getF s (rngB d) (if west then F.rngLanesWRetired else F.rngLanesERetired) = 1
  if x.retrain || gone then s
  else
    let put (y : RingDir) (t : State) : State := modRing (fun r => { r with dirs := setK r.dirs ix y {} }) t
    let sent := { x with nextFlit := x.nextFlit + 1, unacked := if acked then [] else x.unacked ++ [x.nextFlit] }
    if ok then put sent s
    else if again then
      let ts := getK x.trans lane []
      let s1 := bumpF (rngB d) F.rngLanesReplays 1 s
      if thrice ts cycle then ringLane d west lane (put { sent with trans := eraseK sent.trans lane } s1)
      else put { sent with trans := insertK sent.trans lane ((cycle :: ts).take 2) } s1
    else ringLane d west lane (put { x with nextFlit := x.nextFlit + 1, unacked := x.unacked ++ [x.nextFlit], trans := eraseK x.trans lane } s)

/-- The key of a star or stack link direction. -/
def linkKey : LinkDir → Nat
  | .star d up => 2 * d.val + (if up then 1 else 0)
  | .stack n up => 8 + 2 * n.val + (if up then 1 else 0)
  | .ring _ _ => 0

/-- A lasting lane event of a star or stack link: a spare lane, or half width. -/
def linkLane (l : LinkDir) (lane : Nat) (s : State) : State :=
  let k := linkKey l
  let x := getK s.ditch.links k {}
  let put (y : LinkSt) (t : State) : State := setDitch (fun z => { z with links := setK z.links k y {} }) t
  let cls := match l with
    | .star _ _ => 2
    | _ => 8
  if x.spares > 0 then logEv 0x27 cls k [lane] (put { x with spares := x.spares - 1, retrain := true } s)
  else if x.half then s
  else logEv 0x28 cls k [lane] (put { x with half := true, retrain := true } s)

/-- One flit over a star or stack link direction. -/
def linkFlit (l : LinkDir) (lane : Nat) (ok again acked : Bool) (cycle : Nat) (s : State) : State :=
  let k := linkKey l
  let x := getK s.ditch.links k {}
  let put (y : LinkSt) (t : State) : State := setDitch (fun z => { z with links := setK z.links k y {} }) t
  if x.retrain then s
  else
    let sent := { x with nextFlit := x.nextFlit + 1, unacked := if acked then [] else x.unacked ++ [x.nextFlit] }
    if ok then put sent s
    else if again then
      let ts := getK x.trans lane []
      if thrice ts cycle then linkLane l lane (put { sent with trans := eraseK sent.trans lane } s)
      else put { sent with trans := insertK sent.trans lane ((cycle :: ts).take 2) } s
    else linkLane l lane (put { x with nextFlit := x.nextFlit + 1, unacked := x.unacked ++ [x.nextFlit], trans := eraseK x.trans lane } s)

/-- RING_FLIT_RECEIVE: whether the flit's CRC held, whether its resend did, and whether the receiver's acknowledgement came. -/
def flitReceive (l : LinkDir) (lane : Nat) (ok again acked : Bool) (cycle : Nat) (s : State) : State :=
  if frozen s then s
  else match l with
    | .ring d w => ringFlit d.val w lane ok again acked cycle s
    | _ => linkFlit l lane ok again acked cycle s

/-- LINK_RETRAIN_DONE: every flit not acknowledged is sent again, and arrives. -/
def retrainDone (l : LinkDir) (s : State) : State :=
  if frozen s then s
  else match l with
    | .ring d w =>
      let ix := 2 * d.val + (if w then 1 else 0)
      let x := getK s.ring.dirs ix {}
      if x.retrain then modRing (fun r => { r with dirs := setK r.dirs ix { x with retrain := false, resent := x.unacked, unacked := [] } {} }) s else s
    | _ =>
      let x := getK s.ditch.links (linkKey l) {}
      if x.retrain then setDitch (fun z => { z with links := setK z.links (linkKey l) { x with retrain := false, unacked := [] } {} }) s else s

/-! ### Completion records at the issuer (R521, R427, R436) -/

/-- The consumers of a work with their weights (*Table: Charging of activity*). -/
def workShares (s : State) (w : Work) (holding : Nat) : List (Nat × Nat) :=
  match stepOfWork w with
  | some k =>
    let r := stepRun s k
    r.streams.map (fun id => (id, if k = 4 then (getStream s id).elim 0 (·.chunk) else 1))
  | none => if w = .train ∧ holding < 4 then [(2 ^ 20 + holding, 1)] else [(moduleKey, 1)]

/-- Is the code of a record that of a fault or refusal? Saturations are carried by work that went on. -/
def isFault (st : Word) : Bool := let c := st.toNat % 256; c ≠ 0 && c ≠ 0x4D && c ≠ 0x5B

/-- A fault of a step's work: undelivered tokens of the step are discarded. -/
def stepFault (k : Nat) (rec : CourseRec) (s : State) : State :=
  let r := stepRun s k
  if !r.running then s
  else
    let ids := rec.shares.map (·.1)
    setStepRun k { r with
      toks := [], faulted := true
      named := r.named ++ ids.filter (fun i => !r.named.contains i)
      all := r.all || ids.isEmpty
      split := r.split || (rec.coll && ringSplit s)
      why := if r.faulted then r.why else rec.status } s

/-- The largest SPILL_EXP and the sum of SPILL_TILES of an image. -/
def noteSpill (rec : CourseRec) (s : State) : State :=
  let x := getK s.eng.spills rec.issue.image (0, 0)
  setEng (fun e => { e with spills := setK e.spills rec.issue.image (max x.1 rec.spillExp, x.2 + rec.spillTiles) (0, 0) }) s

/-- COURSE_RECORD_RECEIVED: the first record sent reaches its issuer. -/
def courseRecord (s : State) : State :=
  match s.records with
  | [] => s
  | rec :: rest =>
    if frozen s then s
    else
      let s0 := { s with records := rest }
      let ws := if !rec.shares.isEmpty then rec.shares else workShares s0 rec.issue.work rec.holding
      let s1 := noteSpill rec (chargeAct ws rec.act s0)
      let s2 := match stepOfWork rec.issue.work with
        | none =>
          if rec.issue.work = .train ∧ isFault rec.status then
            setEng (fun e => { e with training := e.training.map (fun t => if t.fault = 0 then { t with fault := rec.status } else t) }) s1
          else s1
        | some k =>
          let u := if rec.pred then (stepRun s1 k).streams.foldl (fun t id => modStream id (fun x => { x with predUsed := true }) t) s1 else s1
          if isFault rec.status then stepFault k rec u else u
      s2

/-- BOUND_UNREADABLE: the memory bound of a course or collective that waits for its slot's gate is given up (R271). -/
def boundUnreadable (iss : Issue) (coll : Bool) (s : State) : State :=
  if frozen s then s
  else if coll then
    match collDesc s iss with
    | some (im, r) => if collCheck s iss im r = .held then refuseColl iss im.owner 0x2B r (countIssue s) else s
    | none => s
  else
    match courseDesc s iss with
    | some (im, d) => if issueCheck s iss im d = .held then refuseCourse iss im.owner d 0x2B (countIssue s) else s
    | none => s

/-! ### Adapter training (R390) -/

/-- Is work of training out: a course, a collective or a record? -/
def trainBusy (s : State) : Bool := workBusy s .train

/-- The end of training: the command is answered with the steps run. -/
def trainEnd (t : Training) (s : State) : State :=
  respond t.cmd t.fault t.cmd.handle t.ran 0 0 (mendChains .train (setEng (fun e => { e with training := none }) s))

/-- TRAIN_STEP: the command starts training of an adapter, or (`ended`) one training step has ended. -/
def trainStep (src : CmdSrc) (ended : Bool) (s : State) : State :=
  if ended then
    match s.eng.training with
    | none => s
    | some t =>
      if frozen s || trainBusy s then s
      else if t.fault ≠ 0 then trainEnd t s
      else
        let t1 := { t with left := t.left - 1, ran := t.ran + 1 }
        if t1.left = 0 then trainEnd t1 s else mendChains .train (setEng (fun e => { e with training := some t1 }) s)
  else if s.eng.training.isSome then s
  else takeCmd src 0x1A (fun c t =>
    match lookupK t.eng.adapters c.handle with
    | some a =>
      if a.owner ≠ c.by_ ∨ a.released then refuseCmd c 0x37 t
      else if c.arg1 = 0 then respond c 0 c.handle 0 0 0 t
      else setEng (fun e => { e with training := some { cmd := c, left := c.arg1 } }) t
    | none => refuseCmd c 0x37 t) s

/-! ### The commands -/

def execAllReduce (iss : Issue) (s : State) : Out := .next (issueColl 1 iss s)
def execReduceScatter (iss : Issue) (s : State) : Out := .next (issueColl 2 iss s)
def execAllGather (iss : Issue) (s : State) : Out := .next (issueColl 3 iss s)
def execBroadcast (iss : Issue) (s : State) : Out := .next (issueColl 4 iss s)
def execFenceRecord (iss : Issue) (s : State) : Out := .next (issueColl 0 iss s)
def execFenceArrival (coll : Nat) (die : Die) (s : State) : Out := .next (fenceArrival coll die.val s)
def execFenceMessage (coll : Nat) (die : Die) (s : State) : Out := .next (fenceMessage coll die.val s)
def execCollectiveDone (coll : Nat) (die : Die) (s : State) : Out := .next (collectiveDone coll die.val s)
def execManagementFence (s : State) : Out := .next (if mayFence s then fenceActions s else s)
def execSkewWindowClose (s : State) : Out := .next (skewWindow s)
def execRingFlitReceive (link : LinkDir) (lane : Fin 528) (ok again acked : Bool) (cycle : Nat) (s : State) : Out :=
  .next (flitReceive link lane.val ok again acked cycle s)
def execLinkRetrainDone (link : LinkDir) (s : State) : Out := .next (retrainDone link s)
def execCourseRecordReceived (s : State) : Out := .next (courseRecord s)
def execBoundUnreadable (iss : Issue) (coll : Bool) (s : State) : Out := .next (boundUnreadable iss coll s)
def execTrainStep (src : CmdSrc) (ended : Bool) (s : State) : Out := .next (trainStep src ended s)

end Sys2Proof.Machine
end

