-- ==== Sys2Proof/Machine/Windows.lean ====
section
/-!
DEFINITION. Register fields that show a live part of the state when they are read (the read-only windows of the chapters'
register tables, R609, R611, R615 to R618): each block's words as a path reads them.
-/

namespace Sys2Proof.Machine

/-- A word with several fields replaced. -/
def putFs (l : List (Fld × Nat)) (w : Word) : Word := l.foldl (fun v e => fldPut e.1 e.2 v) w

/-- A flag as a field value. -/
def bit1 (b : Bool) : Nat := if b then 1 else 0

/-- The low (even offset) or high half of a 64-bit value. -/
def half (v off : Nat) : Word := BitVec.ofNat 32 (if off / 4 % 2 = 0 then v else v / 2 ^ 32)

/-! ### The common header (R611) -/

/-- BLK_ID.TAG. -/
def tagText : BlkTag → String
  | .mod => "MOD0" | .cht => "CHT0" | .fwu => "FWU0" | .rly => "RLY0" | .drd => "DRD0" | .tly => "TLY0" | .str => "STR0"
  | .itk => "ITK0" | .flm => "FLM0" | .hq => "HQ00" | .fdc => "FDC0" | .cst => "CST0" | .sph => "SPH0" | .scr => "SCR0"
  | .tns => "TNS0" | .rsv => "RSV0" | .kvc => "KVC0" | .rng => "RNG0" | .dpw => "DPW0" | .frw => "FRW0" | .acr => "ACR0"
  | .crs => "CRS0" | .spd => "SPD0"

def tagWord (t : BlkTag) : Word := BitVec.ofNat 32 ((tagText t).toList.foldr (fun c n => c.toNat + 256 * n) 0)

/-- Is the block one of a physical acre? -/
def acreBlk (t : BlkTag) : Bool := t = .frw || t = .acr || t = .crs || t = .spd

def pwCode : AcrePw → Nat
  | .flow => 0 | .still => 1 | .dry => 2 | .fallow => 3

/-- BLK_STAT: the state of the unit. -/
def unitWord (s : State) (b : Blk) : Word :=
  if acreBlk b.tag then
    let g := b.die * 68 + b.inst
    let a := getAcre s g
    BitVec.ofNat 32 ((if a.retired then 2 else if inService s g then 0 else 1) + 4 * pwCode a.pw)
  else if b.tag = .hq && !portOn s b.inst then 3
  else 0

def hdrWord (s : State) (b : Blk) (off : Nat) (w : Word) : Word :=
  match off with
  | 0x00 => tagWord b.tag
  | 0x04 => BitVec.ofNat 32 (b.inst * 2 ^ 8 + b.die * 2 ^ 16)
  | 0x08 => BitVec.ofNat 32 (irqImpl b.tag + (if (irqImpl b.tag).testBit 1 then 2 ^ 16 else 0))
  | 0x10 => unitWord s b
  | 0x2C => BitVec.ofNat 32 b.owner
  | _ => w

/-! ### Acre blocks (R89, R131, R288, R337, R617) -/

/-- Fields that sample the acre read as their reset values in Dry and Fallow (R617). -/
def dark (a : Acre) : Bool := a.pw = .dry || a.pw = .fallow

def setCode : SetState → Nat
  | .empty => 0 | .loading => 1 | .ready => 2 | .active => 3

def frwWord (s : State) (p : Path) (g off : Nat) (w : Word) : Word :=
  if off = 0x15C then
    let lm := fldOf F.frwProbeLmacro (selGet s p (frwB g + 0x158))
    let a := getAcre s g
    let m : Macro := if dark a then {} else getK a.macros lm {}
    putFs [(F.frwProbeStatSetA, setCode m.a.st), (F.frwProbeStatSetB, setCode m.b.st), (F.frwProbeStatCset, bit1 m.cset),
      (F.frwProbeStatFmtA, bit1 m.a.int4), (F.frwProbeStatFmtB, bit1 m.b.int4), (F.frwProbeStatRows, m.rows),
      (F.frwProbeStatPhys, physMacro s g lm)] w
  else w

def accCode : AccState → Nat
  | .idle => 0 | .preload => 1 | .ready => 2 | .fill => 3 | .drain => 4 | .repeatFill => 5

def acrWord (s : State) (g off : Nat) (w : Word) : Word :=
  let a := getAcre s g
  if off = 0x100 ∧ ¬ dark a then
    putFs [(F.acrAccstatAcc0State, accCode a.acc0.st), (F.acrAccstatAcc0Exp, a.acc0.e),
      (F.acrAccstatAcc1State, accCode a.acc1.st), (F.acrAccstatAcc1Exp, a.acc1.e)] w
  else w

/-- CRS_STAT of the running course. -/
def crsStat (a : Acre) (w : Word) : Word :=
  match a.run with
  | some c =>
    putFs [(F.crsStatRun, if c.replaced then 3 else 1), (F.crsStatPend, bit1 a.pend.isSome),
      (F.crsStatParking, bit1 (parks c.desc c.bounds)), (F.crsStatKind, dKind c.desc), (F.crsStatHolding, c.holding),
      (F.crsStatRedIt, min 7 (redOf c.desc c.bounds c.tile))] w
  | none => putFs [(F.crsStatRun, if a.aside.isSome then 2 else 0), (F.crsStatPend, bit1 a.pend.isSome)] w

def crsWord (s : State) (g off : Nat) (w : Word) : Word :=
  let a := getAcre s g
  if dark a then w
  else match off with
    | 0x140 => crsStat a w
    | 0x144 => a.run.elim w (fun c => BitVec.ofNat 32 (dId c.desc))
    | 0x148 => a.pend.elim w (fun c => BitVec.ofNat 32 (dId c.desc))
    | _ => w

/-- Entries that a gate table holds (R316), and those that are full. -/
def gateAlloc (s : State) (table : Nat) : Nat :=
  ((s.images.filter (fun e => holdsBudget e.2)).map (fun e => gateNeed e.2.regions (imageSlots e.2) table)).foldl (· + ·) 0
def gateFullN (s : State) (table : Nat) : Nat :=
  (s.gates.filter (fun e => e.2.full &&
    (match getImage s (e.1 / 2 ^ 28), getChain s (e.1 / 2 ^ 28) (e.1 / 4096 % 65536) with
     | some im, some c => decide (gateNeed im.regions [(c.loc, 1)] table = 1)
     | _, _ => false))).length

def acreTables (s : State) (g : Nat) : List Nat := (logicalOf s g).map (fun la => g / 68 * 64 + la)

def spdWord (s : State) (p : Path) (g off : Nat) (w : Word) : Word :=
  let a := getAcre s g
  let pair : Pair :=
    let t := selGet s p (spdB g + 0x110)
    getK a.pairs (fldOf F.spdTselTask t * 4 + fldOf F.spdTselPair t) {}
  match off with
  | 0x104 => if dark a then w else BitVec.ofNat 32 ((List.range 8).foldl (fun n k =>
      let b := getK a.banks k {}
      n + (ownerCode b.owner + 4 * bit1 b.circ) * 2 ^ (4 * k)) 0)
  | 0x10C =>
    if dark a then w
    else
      let b := getK a.banks (fldOf F.spdCircBank w) {}
      putFs [(F.spdCircRptr, b.rptr / 8), (F.spdCircWptr, b.wptr / 8), (F.spdCircEmpty, bit1 (b.cnt = 0)),
        (F.spdCircFull, bit1 (b.cnt = 32768))] w
  | 0x114 => putFs [(F.spdTbaseBase, pair.base / 64)] 0
  | 0x118 => putFs [(F.spdTboundBound, pair.bound / 64), (F.spdTboundR, bit1 pair.r), (F.spdTboundW, bit1 pair.w),
      (F.spdTboundValid, bit1 pair.valid)] 0
  | 0x11C => fldPut F.spdEccPoisoned (min 255 a.poison.length) w
  | 0x134 => if dark a then w else
      putFs [(F.spdGateAlloc, ((acreTables s g).map (gateAlloc s)).foldl (· + ·) 0),
        (F.spdGateFull, ((acreTables s g).map (gateFullN s)).foldl (· + ·) 0)] w
  | _ => w

/-! ### Cistern, Siphon and Tensiometer (R168, R203, R243, R245) -/

def basinCode : BasinState → Nat
  | .unprog => 0 | .service => 1 | .mirrored => 2 | .retired => 3 | .spareFree => 4 | .spareIn => 5

/-- CST_BSTAT of a basin. -/
def bstatWord (s : State) (b : Nat) : Word :=
  let x := getBasin s b
  let pl := getPlot s (plotOf b)
  putFs [(F.cstBstatState, basinCode x.st), (F.cstBstatFormat, bit1 x.int8), (F.cstBstatRangeS, x.s),
    (F.cstBstatLowered, bit1 x.lowered), (F.cstBstatThrottled, bit1 (pl.limit > 0)), (F.cstBstatOwner, x.owner),
    (F.cstBstatCold, bit1 (pl.temp < 200)), (F.cstBstatGroup, x.group)] 0

/-- CST_BCAL of a basin. -/
def bcalWord (s : State) (b : Nat) : Word :=
  let x := getBasin s b
  putFs [(F.cstBcalUnusable, min 0x7F x.pins.length), (F.cstBcalOffgrid, bit1 x.offgrid),
    (F.cstBcalAgeH, if serving s x then min 0xFFF (basinAge s x / 90000000000) else 0), (F.cstBcalOverdue, bit1 x.overdue),
    (F.cstBcalQueued, bit1 x.queued), (F.cstBcalUnbound, bit1 (x.overdue || (x.offgrid && x.deferred)))] 0

/-- CST_BTRIM: the trim of a converter, as differences from nominal. -/
def btrimWord (x : Basin) (k : Nat) : Word :=
  let t := getK x.trims k {}
  putFs [(F.cstBtrimGain, toBits 12 (fToInt (-2048) 2047 (fmul (fsub t.g f32One) (fPow2 14)))),
    (F.cstBtrimOffset, toBits 8 (fToInt (-128) 127 (fmul t.o (fPow2 4)))),
    (F.cstBtrimTk, toBits 12 (fToInt 0 4095 (fmul t.t (fPow2 3))))] 0

/-- The Cistern die of a field die with the fewest free spares, and their number. -/
def fewestSpares (s : State) (die : Nat) : Nat × Nat :=
  (List.range 16).foldl (fun m c =>
    let n := (cistSpares s (die * 16 + c)).length
    if n < m.1 then (n, c) else m) (4096, 0)

def cstWord (s : State) (p : Path) (die off : Nat) (w : Word) : Word :=
  let sel := (selGet s p (cstB die + 0x104)).toNat
  let b := die * 2 ^ 19 + sel % 2 ^ 19
  let dies := (List.range 16).map (fun c => die * 16 + c)
  let plots := (s.cist.plots.filter (fun e => plotDie e.1 = die)).map (·.2)
  match off with
  | 0x108 => bstatWord s b
  | 0x10C => putFs [(F.cstBclipWinSplits, min 0x3FF (getBasin s b).winSplits), (F.cstBclipWindows, min 0xFFFF (getBasin s b).windows)] w
  | 0x110 => btrimWord (getBasin s b) (sel / 2 ^ 19 % 16)
  | 0x120 => putFs [(F.cstThermHottest, (plots.map (·.temp)).foldl max 0), (F.cstThermThrottled, (plots.filter (fun x => x.limit > 0)).length)] w
  | 0x148 => bcalWord s b
  | 0x14C =>
    let m := fewestSpares s die
    putFs [(F.cstSparesMinFree, m.1), (F.cstSparesMinDie, m.2 % 8), (F.cstSparesMinStack, m.2 / 8)] w
  | 0x150 => putFs [(F.cstProgProgramming, (dies.map (inProgress s)).foldl (· + ·) 0), (F.cstProgMirroring, (dies.map (mirrors s)).foldl (· + ·) 0)] w
  | _ => w

/-- SPH_LDENS and TNS_LSTAT of a layer slot. -/
def ldensWord (v : LSlot) : Word := putFs [(F.sphLdensDensity, v.dens), (F.sphLdensStepTime, v.time)] 0
def lstatWord (v : LSlot) : Word :=
  putFs [(F.tnsLstatState, if !v.used || !v.pred then 0 else if v.tripped then 2 else if v.off then 3 else 1),
    (F.tnsLstatActr, v.actr), (F.tnsLstatLayer, v.layer % 256), (F.tnsLstatOwner, v.owner), (F.tnsLstatTrips, min 255 v.trips)] 0

def sphWord (s : State) (p : Path) (die off : Nat) (w : Word) : Word :=
  let v := getLSlot s (die * 1024 + fldOf F.sphLselSlot (selGet s p (sphB die + 0x114)))
  match off with
  | 0x118 => ldensWord v
  | 0x11C => putFs [(F.sphLmaxrowMaxNent, v.maxNent)] w
  | _ => w

def tnsWord (s : State) (p : Path) (die off : Nat) (w : Word) : Word :=
  let v := getLSlot s (die * 1024 + fldOf F.tnsLselSlot (selGet s p (tnsB die + 0x104)))
  match off with
  | 0x108 => lstatWord v
  | 0x10C => putFs [(F.tnsLwinAudits, v.audits), (F.tnsLwinMisses, min 0x7FF v.misses)] w
  | 0x110 => half v.skips 0
  | 0x114 => half v.skips 4
  | _ => w

/-! ### Die-level blocks -/

def rsvWord (s : State) (die off : Nat) (w : Word) : Word :=
  match off with
  | 0x100 => fldPut F.rsvLockLockedMib ((((s.images.filter (fun e => holdsBudget e.2)).map (fun e => resNeed e.2.regions die)).foldl (· + ·) 0
      + 1048575) / 1048576) w
  | 0x110 => fldPut F.rsvGateAlloc (gateAlloc s (256 + die)) w
  | _ => w

def kvcWord (s : State) (die off : Nat) (w : Word) : Word :=
  if off = 0x10C then fldPut F.kvcFramesFrames (s.eng.frames.filter (fun e => hbmDie e.1 = die)).length w else w

def dpwWord (s : State) (p : Path) (die off : Nat) (w : Word) : Word :=
  if off = 0x108 then
    let g := die * 68 + min 67 (fldOf F.dpwAselAcre (selGet s p (dpwB die + 0x104)))
    let a := getAcre s g
    putFs [(F.dpwAstatState, pwCode a.pw), (F.dpwAstatSpare, bit1 (!inService s g && !a.retired)), (F.dpwAstatLifeFmax, a.life),
      (F.dpwAstatFusedFmax, a.fused), (F.dpwAstatGuard, a.guard)] w
  else w

/-- Does a block signal (R613)? -/
def signals (s : State) (base : Nat) : Bool := irqActive s base ≠ 0

/-- Does a block of a physical acre signal? -/
def acreSignals (s : State) (g : Nat) : Bool := (List.range 4).any (fun k => signals s (acreBase g k))

def bitSum (n : Nat) (f : Nat → Bool) : Nat := (List.range n).foldl (fun v i => if f i then v + 2 ^ i else v) 0

def fdcWord (s : State) (die off : Nat) (w : Word) : Word :=
  match off with
  | 0x100 => BitVec.ofNat 32 (bitSum 9 (fun k => signals s (fdBase die (k * 0x4000))))
  | 0x104 => BitVec.ofNat 32 (bitSum 32 (fun i => acreSignals s (die * 68 + i)))
  | 0x108 => BitVec.ofNat 32 (bitSum 32 (fun i => acreSignals s (die * 68 + 32 + i)))
  | 0x10C => BitVec.ofNat 32 (bitSum 4 (fun i => acreSignals s (die * 68 + 64 + i)))
  | _ => w

/-! ### Headgate blocks -/

def dieSignals (s : State) (die : Nat) : Bool :=
  (List.range 9).any (fun k => signals s (fdBase die (k * 0x4000))) || (List.range 68).any (fun i => acreSignals s (die * 68 + i))

def modWord (s : State) (off : Nat) (w : Word) : Word :=
  match off with
  | 0x100 => half s.counter 0
  | 0x104 => half s.counter 4
  | 0x108 => BitVec.ofNat 32 s.epoch
  | 0x118 => putFs [(F.modPinsModAddr, s.power.addrPins), (F.modPinsFreezeN, bit1 (!s.rely.pinLow)), (F.modPinsPerstN, 15)] w
  | 0x120 => BitVec.ofNat 32 (bitSum 16 (fun k => k ≠ 10 && k ≠ 11 && decide (k < 12) && signals s (hgBase k))
      + 2 ^ 16 * bitSum 4 (dieSignals s))
  | _ => w

def chtWord (s : State) (off : Nat) (w : Word) : Word :=
  if off = 0x100 then putFs [(F.chtLifeLifecycle, lifecycle s), (F.chtLifeDebug, policy s F.chtLifeDebug),
    (F.chtLifeFreeze, policy s F.chtLifeFreeze), (F.chtLifeHoldings, policy s F.chtLifeHoldings), (F.chtLifeRecovery, bit1 (s.power.phase = .recovery)), (F.chtLifeTapOpen, bit1 (s.readout || s.fullDebug))] w else w

def fwuWord (s : State) (off : Nat) (w : Word) : Word :=
  if off = 0x100 then
    fldPut F.fwuStatRemain (match s.trust.update with
      | some u => if u.endAt = 0 then 0 else min 255 ((u.endAt - s.counter + 249999999) / 250000000)
      | none => 0) w
  else w

def rlyWord (s : State) (p : Path) (off : Nat) (w : Word) : Word :=
  match off with
  | 0x104 =>
    let t := selGet s p (rlyB + 0x100)
    let d := fldOf F.rlyAselDie t
    let la := fldOf F.rlyAselLacre t
    putFs [(F.rlyAmapPhys, physOf s d la % 68), (F.rlyAmapDoubled, bit1 (lookupK s.doubled (d * 64 + la)).isSome)] w
  | 0x118 =>
    let k := min 11 (fldOf F.rlyHbmretStack w)
    putFs [(F.rlyHbmretSpares, 64 - getK s.rely.used k 0), (F.rlyHbmretRetired, min 0xFFFF (getK s.rely.retired k 0))] w
  | 0x130 => fldPut F.rlyFreezeReadout (bit1 s.readout) w
  | _ => w

def tlyWord (s : State) (off : Nat) (w : Word) : Word :=
  match off with
  | 0x100 => putFs [(F.tlyStatOpenRecs, s.tally.page.recs.length), (F.tlyStatQueue, min 255 s.tally.closed.length),
      (F.tlyStatUnclean, bit1 s.tally.page.unclean)] w
  | 0x104 => half (s.tally.q + s.tally.closed.length) 0
  | 0x108 => half (s.tally.q + s.tally.closed.length) 4
  | 0x114 => half (s.tally.einNj / 1000) 0
  | 0x118 => half (s.tally.einNj / 1000) 4
  | _ => w

/-- The share and use registers of the selected holding; shares of a disabled holding read 0 (R539). -/
def strWord (s : State) (p : Path) (off : Nat) (w : Word) : Word :=
  let h := selHold s p
  let x := getHold s h
  let shr (l : List (Fld × Nat)) : Word := if portOn s h then putFs l 0 else 0
  match off with
  | 0x108 => shr [(F.strShr0Streams, x.shStreams)]
  | 0x10C => shr [(F.strShr1Slots, x.shSlots), (F.strShr1Power, x.shPower)]
  | 0x110 => shr [(F.strShr2Pages, x.shPages)]
  | 0x114 => shr [(F.strShr3Plots, x.shPlots), (F.strShr3BudgetEn, bit1 x.budgetEn), (F.strShr3HardBudget, bit1 x.hardBudget)]
  | 0x118 => half (toBits 64 x.balance) 0
  | 0x11C => half (toBits 64 x.balance) 4
  | 0x128 => putFs [(F.strUse0Streams, (streamsOf s h).length), (F.strUse0Slots, slotUse s h)] 0
  | 0x12C => putFs [(F.strUse1Pages, pagesOf s h), (F.strUse1Plots, plotsOf s h)] 0
  | 0x130 => putFs [(F.strActiveActive, ((allStreams s).filter (fun y => y.st = .active)).length),
      (F.strActivePrompt, ((allStreams s).filter (fun y => y.st = .prompt)).length)] w
  | _ => w

def hqWord (s : State) (p : Path) (h off : Nat) (w : Word) : Word :=
  let x := getQP s h (selQP s p h)
  match off with
  | 0x104 => half x.sqb 0
  | 0x108 => half x.sqb 4
  | 0x10C => half x.cqb 0
  | 0x110 => half x.cqb 4
  | 0x114 => putFs [(F.hqQcfgDepth, x.depth), (F.hqQcfgVector, x.vector), (F.hqQcfgBusy, bit1 x.busy), (F.hqQcfgEn, bit1 x.en)] 0
  | _ => w

/-! ### A word as a path reads it -/

/-- The selecting registers of *Table: Select fields* (R609). -/
def isSel : BlkTag → Nat → Bool
  | .frw, 0x158 => true | .cst, 0x104 => true | .spd, 0x10C => true | .spd, 0x110 => true | .sph, 0x114 => true
  | .tns, 0x104 => true | .str, 0x104 => true | .dpw, 0x104 => true | .rly, 0x100 => true | .rly, 0x118 => true
  | .hq, 0x100 => true
  | _, _ => false

/-- The word of a register at an offset below 0x1000 of the slot at a base, as a path reads it. -/
def liveWord (s : State) (p : Path) (base : Nat) (b : Blk) (off : Nat) : Word :=
  let w := if isSel b.tag off then selGet s p (base + off) else regGet s (base + off)
  let g := b.die * 68 + b.inst
  if off < 0x100 then hdrWord s b off w
  else match b.tag with
    | .mod => modWord s off w
    | .cht => chtWord s off w
    | .fwu => fwuWord s off w
    | .rly => rlyWord s p off w
    | .tly => tlyWord s off w
    | .str => strWord s p off w
    | .hq => hqWord s p b.inst off w
    | .fdc => fdcWord s b.die off w
    | .cst => cstWord s p b.die off w
    | .sph => sphWord s p b.die off w
    | .tns => tnsWord s p b.die off w
    | .rsv => rsvWord s b.die off w
    | .kvc => kvcWord s b.die off w
    | .dpw => dpwWord s p b.die off w
    | .frw => frwWord s p g off w
    | .acr => acrWord s g off w
    | .crs => crsWord s g off w
    | .spd => spdWord s p g off w
    | _ => w

end Sys2Proof.Machine
end

