-- ==== Sys2Proof/Machine/FlumeCmds.lean ====
section
/-!
DEFINITION. The commands of Flume channels and ports (R523 to R528): opening and closing, the eight datagram types, the
timers, the links; adapters (R518); reads of host memory that fail (R519, R520). What the spec leaves open of them is log
entry 59.
-/

namespace Sys2Proof.Machine

/-! ### What a channel serves -/

/-- The stream that a channel binds. -/
def chanStream (c : Chan) : Option Nat := if c.bind = 0 then none else some ((c.bind - 1) % 2 ^ 20)

/-- The region that a REGION channel binds. -/
def chanRegion (s : State) (c : Chan) : Option Region := (getImage s c.bind).bind (fun im => im.regions.find? (fun r => r.num = c.sub))

/-- A transfer of a channel has ended on this side before its end: the export or import is given up (R421), a staging transfer
loses its channel. -/
def giveUp (k : Nat) (s : State) : State :=
  match getChan s k with
  | none => s
  | some c =>
    match c.kind with
    | .kvOut => withSome (chanStream c) abandonExport s
    | .kvIn => withSome (chanStream c) abandonImport s
    | .stage => modImage c.bind (fun im => if im.channel = some k then { im with channel := none } else im) s
    | .region => s

/-- Does a transfer run on a channel? -/
def inTransfer (s : State) (c : Chan) : Bool :=
  c.st = .opening || !c.queue.isEmpty || !c.unacked.isEmpty ||
    (match c.kind with
     | .stage => (getImage s c.bind).any (fun im => decide (im.arrived < im.size))
     | .kvIn => ((chanStream c).bind (getStream s)).any (fun x => x.st = .staging && x.imported)
     | _ => false)

/-- The channel goes: its waiting command is answered and its transfer given up. -/
def removeChan (k : Nat) (f : HostCmd → State → State) (s : State) : State :=
  match getChan s k with
  | none => s
  | some c => withSome c.cmd f (countChans (dropChan k (giveUp k s)))

/-- FLUME_ABANDONED (R526): both ends report it; the command that opens or closes the channel is answered. -/
def abandonChan (k : Nat) (s : State) : State :=
  match getChan s k with
  | none => s
  | some c =>
    let s1 := giveUp k (abandonLocal k s)
    let p := if c.ports.testBit 0 then 0 else 1
    match c.st with
    | .opening => removeChan k (fun h => refuseAt h 0x0F p 0x3A) s1
    | .closing => removeChan k ack (sendCtl k c (dgram0 8) s1)
    | .open_ => s1

/-- A closing channel whose bursts are all acknowledged or abandoned sends CLOSE and is gone (R526). -/
def closeCheck (k : Nat) (s : State) : State :=
  match getChan s k with
  | none => s
  | some c =>
    if c.st = .closing && c.queue.isEmpty && c.unacked.isEmpty then removeChan k ack (sendCtl k c (dgram0 8) s) else s

/-! ### Opening and closing -/

/-- The target that a channel request names: its kind, what it binds, its region; or the refusal code (R524). -/
def reqTarget (s : State) (by_ : Nat) (req : List Byte) : Sum Nat (ChanKind × Nat × Nat) :=
  let h := fieldLE req 4 4
  let stream (k : ChanKind) : Sum Nat (ChanKind × Nat × Nat) :=
    if h = 0 then .inr (k, 0, 0)
    else if (allStreams s).any (fun x => decide (handleOf x = h) && decide (x.holding = by_)) then .inr (k, h + 1, 0)
    else .inl 0x37
  match fieldLE req 0 4 with
  | 0 => (match ownImage s by_ h with
      | some im => if im.st = .staging || im.st = .programming then .inr (.stage, h, 0) else .inl 0x39
      | none => .inl 0x37)
  | 1 => stream .kvOut
  | 2 => stream .kvIn
  | 3 => (match ownImage s by_ h with
      | some im => if im.regions.any (fun r => r.num = fieldLE req 8 4) then .inr (.region, h, fieldLE req 8 4) else .inl 0x37
      | none => .inl 0x37)
  | _ => .inl 0x39

/-- A channel on an image in STAGING takes the place of its earlier one and goes on where that one stopped. -/
def takeStage (k h : Nat) (s : State) : State :=
  match getImage s h with
  | none => s
  | some im =>
    let s1 := match im.channel with
      | some o => if o = k then s else closeChan o s
      | none => s
    modChan k (fun c => { c with handed := im.arrived, checked := im.freed }) (putImage { im with channel := some k } s1)

/-- Opens a channel for a command: OPEN goes out with the key (R523, R524). -/
def openChannel (c : HostCmd) (req : List Byte) (s : State) : State :=
  let ports := fieldLE req 48 4 % 4
  match reqTarget s c.by_ req, freeChan s c.by_, keyOfWire (fieldLE req 32 4 % 65536) with
  | .inl code, _, _ => refuseCmd c code s
  | .inr _, none, _ => refuseCmd c 0x39 s
  | .inr _, _, none => refuseCmd c 0x37 s
  | .inr (kind, bind, sub), some ix, some peer =>
    if ports = 0 then refuseCmd c 0x37 s
    else
      let k := chanKey c.by_ ix
      let ch : Chan := { kind := kind, bind := bind, sub := sub, peerIp := fieldLE req 16 16, peerChan := peer, key := fieldLE req 40 8
                         ports := ports, st := .opening, cmd := some c, lastAck := s.counter }
      if (usable s ch).isEmpty then refuseAt c 0x0F (if ports.testBit 0 then 0 else 1) 0x3A s
      else
        let s1 := countChans (putChan k ch s)
        sendCtl k ch { dgram0 6 with len := 8, data := leBytes 8 ch.key } (if kind = .stage then takeStage k bind s1 else s1)

def channelOpen (k : Nat) (req : List Byte) (s : State) : State := takeCmd (.host k) 0x28 (fun c t => openChannel c req t) s

/-- MODULE_CHANNEL_OPEN: the board management controller opens a module-owned channel (R524, R529). -/
def moduleChannelOpen (req : List Byte) (s : State) : State :=
  if frozen s then s else openChannel { by_ := 15, op := 0x28 } req s

def channelClose (src : CmdSrc) (s : State) : State :=
  takeCmd src 0x29 (fun c t =>
    match keyOfWire (c.arg0 % 65536) with
    | none => refuseCmd c 0x39 t
    | some k =>
      match getChan t k with
      | none => refuseCmd c 0x39 t
      | some ch =>
        if k / 256 = c.by_ && ch.st = .open_ && decide (c.arg0 < 65536) then closeCheck k (putChan k { ch with st := .closing, cmd := some c } t)
        else refuseCmd c 0x39 t) s

/-- The channel is open: its command is answered with its number, and what waits is sent. -/
def opened (k : Nat) (s : State) : State :=
  match getChan s k with
  | none => s
  | some c =>
    pumpAll k (withSome c.cmd (fun h => respond h 0 0 (wireChan k) 0 0) (putChan k { c with cmd := none } s))

/-- FLUME_OPEN: a key that matches is answered with OPEN_ACK and the generation, another one with CLOSE (R524). -/
def onOpen (ip : Nat) (d : Dgram) (s : State) : State :=
  match keyOfWire d.dst, keyOfWire d.src with
  | some k, some peer =>
    match getChan s k with
    | none => s
    | some c =>
      let key := fieldLE d.data 0 8
      let first : Bool := c.kind = .stage && c.peerIp = 0 && c.key = 0
      if !first && (c.key ≠ key || c.st = .closing) then sendCtl k { c with peerIp := ip, peerChan := peer } (dgram0 8) s
      else
        let fresh : Bool := c.st = .opening
        let gen := if fresh then max c.gen (s.chanGen + 1) else c.gen
        let c1 := { c with peerIp := ip, peerChan := peer, key := key, st := .open_, gen := gen, lastAck := s.counter }
        let s1 := putChan k c1 { s with chanGen := if fresh then s.chanGen + 1 else s.chanGen }
        opened k (sendCtl k c1 (dgram0 7) s1)
  | _, _ => s

/-- The channel that a datagram names, where its sender and generation are the channel's. -/
def onChan (d : Dgram) (f : Nat → Chan → State → State) (s : State) : State :=
  match keyOfWire d.dst with
  | none => s
  | some k =>
    match getChan s k with
    | none => s
    | some c => if c.st ≠ .opening && decide (d.gen = c.gen) && keyOfWire d.src = some c.peerChan then f k c s else s

/-- FLUME_OPEN_ACK: the generation; the opener's command completes (R524). -/
def onOpenAck (d : Dgram) (s : State) : State :=
  match keyOfWire d.dst with
  | none => s
  | some k =>
    match getChan s k with
    | none => s
    | some c =>
      if c.st ≠ .closing && keyOfWire d.src = some c.peerChan then
        opened k (putChan k { c with st := .open_, gen := max c.gen d.gen, lastAck := s.counter } s)
      else s

/-- FLUME_CLOSE: a mismatched key, or the peer has closed its end (R524, R526, R532). -/
def onClose (d : Dgram) (s : State) : State :=
  match keyOfWire d.dst with
  | none => s
  | some k =>
    match getChan s k with
    | none => s
    | some c =>
      if keyOfWire d.src ≠ some c.peerChan then s
      else if c.st = .opening then removeChan k (fun h => refuseCmd h 0x39) s
      else if d.gen ≠ c.gen then s
      else removeChan k ack (if inTransfer s c then abandonLocal k s else s)

/-! ### Bursts (R525, R526) -/

/-- Bytes that are complete from below go to the target (R526). -/
def handOn (k : Nat) (s : State) : State :=
  match getChan s k with
  | none => s
  | some c =>
    let bs := readyBytes c.rxData.length c
    if bs.isEmpty then s
    else match c.kind with
      | .stage => stageBytes c.bind bs (dropBytes k bs.length (chargeBytes (holdKey (k / 256)) bs.length s))
      | .region => (match chanRegion s c with
          | some r => wrMem (physAddr r.base + c.handed) bs (dropBytes k bs.length (chargeBytes (holdKey (k / 256)) bs.length s))
          | none => s)
      | _ => s

/-- A burst within the credit of a receiving channel is placed; an ACK goes out at every 16th. -/
def onBurst (d : Dgram) (s : State) : State :=
  onChan d (fun k c t =>
    if c.kind = .kvOut || !burstOk d || (!d.cont && decide (d.addr + d.len > creditOf t c)) then t
    else
      let t1 := handOn k (putChan k (takeBurst d c) t)
      if (getChan t1 k).any (fun x => decide (x.sinceAck ≥ 16)) then sendAck k t1 else t1) s

/-- READ_REQ on a REGION channel: up to 1 MiB is answered with READ_DATA bursts. -/
def onReadReq (d : Dgram) (s : State) : State :=
  onChan d (fun k c t =>
    match c.kind, chanRegion t c with
    | .region, some r =>
      if 1 ≤ d.len ∧ d.len ≤ 2 ^ 20 ∧ d.addr + d.len ≤ r.size then
        queueBytes k d.addr true (rdBytes t (physAddr r.base + d.addr) d.len) (chargeBytes (holdKey (k / 256)) d.len t)
      else t
    | _, _ => t) s

/-- An ACK: pages of an export become free, and the export may end (R355, R526). -/
def onAck (d : Dgram) (s : State) : State :=
  onChan d (fun k c t =>
    let t1 := (takeAck k d t).2
    let t2 := if c.kind = .kvOut then withSome (chanStream c) (fun id u => exportDone id (exportAcked id u)) t1 else t1
    closeCheck k t2) s

/-- A NAK: the bursts of the range that are not acknowledged are sent again (R527). -/
def onNak (d : Dgram) (s : State) : State :=
  onChan d (fun k c t =>
    (c.unacked.filter (fun b => decide (b.addr < d.addr + d.len) && decide (d.addr < b.addr + b.data.length))).foldl
      (fun u b => resend k b.seq u) t) s

/-! ### Timers and links -/

/-- 10 µs since the latest ACK of a receiving channel. -/
def ackTimer (k : Nat) (s : State) : State :=
  match getChan s k with
  | none => s
  | some c => if !frozen s && c.st ≠ .opening && c.kind ≠ .kvOut && decide (s.counter ≥ c.ackAt + 250) then sendAck k s else s

/-- The retransmit time of a burst has passed; after 8 sends the transfer is given up. -/
def retransmit (k seq : Nat) (s : State) : State :=
  match getChan s k with
  | none => s
  | some c =>
    match c.unacked.find? (fun b => b.seq = seq) with
    | none => s
    | some b =>
      if frozen s || decide (s.counter < b.due) then s
      else if b.sends ≥ 8 then abandonChan k s
      else resend k seq s

/-- No ACK for 1 s. -/
def ackTimeout (k : Nat) (s : State) : State :=
  match getChan s k with
  | none => s
  | some c =>
    if !frozen s && (c.st = .opening || !c.unacked.isEmpty) && decide (s.counter ≥ c.lastAck + 25000000) then abandonChan k s else s

/-- FLM_STAT.LINK changes (R612). -/
def setLink (p v : Nat) (s : State) : State := irqRaise (flmB p) 4 (setF (flmB p) F.flmStatLink v s)

def linkDown (p : Nat) (s : State) : State :=
  if frozen s || !flmUp s p then s
  else
    let s1 := setLink p 0 s
    (s1.chans.filter (fun e => (usable s1 e.2).isEmpty && inTransfer s1 e.2)).foldl (fun t e => abandonChan e.1 t) s1

def linkUp (p : Nat) (s : State) : State :=
  if frozen s || flmUp s p then s
  else (s.chans.map (·.1)).foldl (fun t k => pumpAll k t) (setLink p 1 s)

/-! ### Adapters (R518) -/

/-- Does a stream use an adapter? -/
def adapterUsed (s : State) (a : Nat) : Bool := (allStreams s).any (fun x => x.adapter = a && x.st ≠ .done)

/-- The lowest adapter handle that is free: not listed, or released and out of use. -/
def freeAdapter (s : State) : Option Nat :=
  (List.range (s.eng.adapters.length + 1)).find? (fun a =>
    match lookupK s.eng.adapters a with
    | none => decide (a < 0xFFFF)
    | some x => x.released && !adapterUsed s a)

def adapterLoad (src : CmdSrc) (s : State) : State :=
  takeCmd src 0x18 (fun c t =>
    match ownImage t c.by_ c.handle, keyOfWire (c.arg0 % 65536), freeAdapter t with
    | some im, some k, some a =>
      if decide (c.arg0 < 65536) && (getChan t k).any (fun ch => ch.kind = .region && ch.st = .open_ && decide (ch.bind = im.handle)) &&
          decide (k / 256 = c.by_) then
        respond c 0 a a 0 0 (setEng (fun e => { e with adapters := insertK e.adapters a { image := im.handle, owner := c.by_, chan := k } }) t)
      else refuseCmd c 0x39 t
    | none, _, _ => refuseCmd c 0x37 t
    | _, _, _ => refuseCmd c 0x39 t) s

def adapterRelease (src : CmdSrc) (s : State) : State :=
  takeCmd src 0x19 (fun c t =>
    match lookupK t.eng.adapters c.handle with
    | some x =>
      if x.owner = c.by_ && !x.released then
        let keep := adapterUsed t c.handle
        ack c (setEng (fun e => { e with
          adapters := if keep then insertK e.adapters c.handle { x with released := true } else eraseK e.adapters c.handle }) t)
      else refuseCmd c 0x37 t
    | none => refuseCmd c 0x37 t) s

/-! ### Reads of host memory that fail (R517, R519, R520) -/

/-- HOST_READ_TIMEOUT: the command that needed the read is refused, and AER reports the timeout. -/
def hostReadTimeout (r : HostRead) (s : State) : State :=
  match r with
  | .command k =>
    match s.hostCmds[k]? with
    | some c => if (c.op = 0x01 ∨ c.op = 0x28) then takeCmd (.host k) c.op (fun x t => refuseCmd x 0x38 (emit (.aer x.by_) t)) s else s
    | none => s
  | .prompt id =>
    match getStream s id.toNat with
    | some x => if !frozen s && x.admitCmd.isSome then promptFailed id.toNat (emit (.aer x.holding) s) else s
    | none => s

/-! ### The commands -/

def execHostReadTimeout (r : HostRead) (s : State) : Out := .next (hostReadTimeout r s)
def execAdapterLoad (src : CmdSrc) (s : State) : Out := .next (adapterLoad src s)
def execAdapterRelease (src : CmdSrc) (s : State) : Out := .next (adapterRelease src s)
def execChannelOpen (k : Nat) (req : List Byte) (s : State) : Out := .next (channelOpen k req s)
def execChannelClose (src : CmdSrc) (s : State) : Out := .next (channelClose src s)
def execModuleChannelOpen (req : List Byte) (s : State) : Out := .next (moduleChannelOpen req s)
def execFlumeWrite (port : FPort) (_ip : Nat) (dgram : List Byte) (s : State) : Out := .next (receive port.val 1 dgram onBurst s)
def execFlumeReadReq (port : FPort) (_ip : Nat) (dgram : List Byte) (s : State) : Out := .next (receive port.val 2 dgram onReadReq s)
def execFlumeReadData (port : FPort) (_ip : Nat) (dgram : List Byte) (s : State) : Out := .next (receive port.val 3 dgram onBurst s)
def execFlumeAck (port : FPort) (_ip : Nat) (dgram : List Byte) (s : State) : Out := .next (receive port.val 4 dgram onAck s)
def execFlumeNak (port : FPort) (_ip : Nat) (dgram : List Byte) (s : State) : Out := .next (receive port.val 5 dgram onNak s)
def execFlumeOpen (port : FPort) (ip : Nat) (dgram : List Byte) (s : State) : Out := .next (receive port.val 6 dgram (onOpen ip) s)
def execFlumeOpenAck (port : FPort) (_ip : Nat) (dgram : List Byte) (s : State) : Out := .next (receive port.val 7 dgram onOpenAck s)
def execFlumeClose (port : FPort) (_ip : Nat) (dgram : List Byte) (s : State) : Out := .next (receive port.val 8 dgram onClose s)
def execAckTimer (chan : Nat) (s : State) : Out := .next (ackTimer chan s)
def execRetransmitTimeout (chan seq : Nat) (s : State) : Out := .next (retransmit chan seq s)
def execChannelAckTimeout (chan : Nat) (s : State) : Out := .next (ackTimeout chan s)
def execFlumeLinkDown (port : FPort) (s : State) : Out := .next (linkDown port.val s)
def execFlumeLinkUp (port : FPort) (s : State) : Out := .next (linkUp port.val s)

end Sys2Proof.Machine
end

