-- ==== Sys2Proof/Machine/Move.lean ====
section
/-!
DEFINITION. MOVE courses (R312 to R315): fill, copy, transpose, strided gather and the expansion of Screen frames.
-/

namespace Sys2Proof.Machine

/-- An element moved from format X to format Y: the bits as they are where the formats agree, else converted (R118,
R312). -/
def moveElem (xf yf : LFmt) (b : Nat) : Nat := if xf = yf then b else convFmt xf yf b

/-- Writes elements of a format at given positions. -/
def wrAt (f : LFmt) (y : Nat) (es : List (Nat × Nat)) (s : State) : State :=
  es.foldl (fun u e => wrElem f y e.1 e.2 u) s

/-- Numbers the elements of a list. -/
def numbered {α : Type} (l : List α) : List (Nat × α) := (List.range l.length).zip l

/-- A tile of a MOVE course whose elements are a function of the source. -/
def moveTile (g : Nat) (span : List Byte → Nat → Nat) (elems : State → List Byte → Nat → Nat → List (Nat × Nat))
    (c : CourseRun) (n : Nat) (s : State) : TileRes :=
  let d := c.desc
  let p := tilePos d c.bounds n
  let k := p.ext.getD 0 0
  let yf := latFmtY (dYfmt d)
  match tileIn s c n p.x, tileOut s c n p.y with
  | some x, some y =>
    match readFault s x (span d k) with
    | some (cls, ix) => .fault 0x43 cls ix s
    | none =>
      let es := elems s d x k
      let whole := if es.all (fun e => decide (e.1 < es.length)) then elemBytes yf es.length else 0
      let s1 := clearPoison y whole (wrAt yf y es s)
      .done (chargeTile g 0 (x, span d k) (y, elemBytes yf es.length) (tileFilled c n (tileDrained c n s1)))
  | _, _ => .wait

/-- FILL (R312): the low bytes of PARAM, as many as an element of Y has, in every in-bound element; its low 4 bits
in a 4-bit format. -/
def fillTile (g : Nat) (c : CourseRun) (n : Nat) (s : State) : TileRes :=
  let d := c.desc
  let p := tilePos d c.bounds n
  let k := p.ext.getD 0 0
  let yf := latFmtY (dYfmt d)
  match tileOut s c n p.y with
  | some y =>
    let v := (dParam d).toNat % 2 ^ fmtBits yf
    let s1 := clearPoison y (elemBytes yf k) (wrAt yf y ((List.range k).map (fun i => (i, v))) s)
    .done (chargeTile g 0 (0, 0) (y, elemBytes yf k) (tileFilled c n s1))
  | none => .wait

/-- COPY (R312). -/
def copyElems (s : State) (d : List Byte) (x k : Nat) : List (Nat × Nat) :=
  let xf := latFmtX (dXfmt d)
  (List.range k).map (fun i => (i, moveElem xf (latFmtY (dYfmt d)) (rdElem s xf x i)))

/-- Columns and rows of the source matrix of a TRANSPOSE block (R313). -/
def transShape (f : LFmt) : Option (Nat × Nat) :=
  match fmtBits f with
  | 8 => some (64, 64)
  | 16 => some (64, 32)
  | 4 => some (128, 64)
  | _ => none

/-- TRANSPOSE (R313): each in-bound element lands where the transpose of its 4 KiB block puts it. For 32-bit
elements the spec gives no shape, and each written element is a free value (log entry 31). -/
def transElems (s : State) (d : List Byte) (x k : Nat) : List (Nat × Nat) :=
  let xf := latFmtX (dXfmt d)
  let yf := latFmtY (dYfmt d)
  match transShape xf with
  | some (rows, cols) =>
    (List.range k).map (fun i =>
      let b := i / (rows * cols)
      let j := i % (rows * cols)
      (b * (rows * cols) + j % cols * rows + j / cols, moveElem xf yf (rdElem s xf x i)))
  | none => (List.range k).map (fun i => (i, (Config.freeWord (s.freeCtr + i)).toNat % 2 ^ fmtBits yf))

/-- STRIDE (R312): elements PARAM bytes apart; in a 4-bit format each gathered byte carries two values. -/
def strideElems (s : State) (d : List Byte) (x k : Nat) : List (Nat × Nat) :=
  let xf := latFmtX (dXfmt d)
  let yf := latFmtY (dYfmt d)
  let sp := (dParam d).toNat
  if fmtBits xf = 4 then
    (List.range (2 * k)).map (fun i => (i, moveElem xf yf ((rdByte s (x + i / 2 * sp)).toNat >>> (4 * (i % 2)) % 16)))
  else (List.range k).map (fun i => (i, moveElem xf yf (rdElem s xf (x + i * sp) 0)))

/-- EXPAND (R312, R315): a frame that passes its checks becomes its dense vector; its SCALE goes to SXOFF, with sx
per token to the entry of the frame (log entry 32). -/
def expandTile (g : Nat) (c : CourseRun) (n : Nat) (s : State) : TileRes :=
  let d := c.desc
  let p := tilePos d c.bounds n
  let k := p.ext.getD 0 0
  let yf := latFmtY (dYfmt d)
  match tileIn s c n p.x, tileOut s c n p.y with
  | some x, some y =>
    match readFault s x (16 + k) with
    | some (cls, ix) => .fault 0x43 cls ix s
    | none =>
      match readFrame s x k with
      | none =>
        let bank := match locate s y with
          | .spad a off => a * 8 + off / 64 % 8
          | _ => g * 8
        .fault 0x47 6 bank s
      | some fr =>
        let s1 := clearPoison y (elemBytes yf k)
          (wrAt yf y (numbered (fr.elems.map (moveElem fr.fmt yf))) s)
        let s2 := match fr.scale with
          | some w => wrLE (winAddr d (dSxoff d + (if (dScales d).testBit 0 then 4 * n else 0))) 4 w.toNat s1
          | none => s1
        .done (chargeTile g 0 (x, 16 + k) (y, elemBytes yf k) (tileFilled c n (tileDrained c n s2)))
  | _, _ => .wait

/-- Advances the free counter after a tile that took free values. -/
def tookFree (k : Nat) (r : TileRes) : TileRes :=
  match r with
  | .done s => .done { s with freeCtr := s.freeCtr + k }
  | r => r

def spanPacked (d : List Byte) (k : Nat) : Nat := elemBytes (latFmtX (dXfmt d)) k
def spanStride (d : List Byte) (k : Nat) : Nat := (k - 1) * (dParam d).toNat + elemBytes (latFmtX (dXfmt d)) 1

def copyTile (g : Nat) : CourseRun → Nat → State → TileRes :=
  moveTile g spanPacked copyElems
def transTile (g : Nat) (c : CourseRun) (n : Nat) (s : State) : TileRes :=
  tookFree (if (transShape (latFmtX (dXfmt c.desc))).isNone then (tilePos c.desc c.bounds n).ext.getD 0 0 else 0)
    (moveTile g spanPacked transElems c n s)
def strideTile (g : Nat) : CourseRun → Nat → State → TileRes :=
  moveTile g spanStride strideElems

/-- A MOVE course of an operation. -/
def moveCourse (op : Nat) (tile : Nat → CourseRun → Nat → State → TileRes) (iss : Issue) (s : State) : State :=
  match courseDesc s iss with
  | none => refuseUnknown iss s
  | some (_, d) => laneCourse iss (fun e => dKind e = 5 && dOp e = op) (walkOf (tile (execAcre s d))) s

def execFill (iss : Issue) (s : State) : Out := .next (moveCourse 0x20 fillTile iss s)
def execCopy (iss : Issue) (s : State) : Out := .next (moveCourse 0x21 copyTile iss s)
def execTranspose (iss : Issue) (s : State) : Out := .next (moveCourse 0x22 transTile iss s)
def execStride (iss : Issue) (s : State) : Out := .next (moveCourse 0x23 strideTile iss s)
def execExpand (iss : Issue) (s : State) : Out := .next (moveCourse 0x24 expandTile iss s)

end Sys2Proof.Machine
end

