-- ==== Sys2Proof/Machine/Report.lean ====
section
/-!
DEFINITION. What the module reports on the management port and to a holding: telemetry (R45, R531), sensors and MCTP control
(R529), and the event log (R587). The places of the values in a report are log entry 61.
-/

namespace Sys2Proof.Machine

/-- A byte string padded or cut to a length. -/
def lineOf (n : Nat) (bs : List Byte) : List Byte := fixLen n bs

/-! ### Telemetry (R531) -/

/-- Does a requester see what an owner holds: the board management controller sees all (R531)? -/
def reportSees (by_ owner : Nat) : Bool := by_ = 15 || owner = by_

def reportHead (s : State) (by_ : Nat) : List Byte :=
  let x := getHold s by_
  let own := if by_ < 4 then
      leBytes 4 x.shStreams ++ leBytes 2 x.shSlots ++ leBytes 2 x.shPower ++ leBytes 4 x.shPages ++ leBytes 4 x.shPlots
        ++ leBytes 4 (streamsOf s by_).length ++ leBytes 4 (slotUse s by_) ++ leBytes 4 (pagesOf s by_) ++ leBytes 4 (plotsOf s by_)
    else []
  lineOf 64 (leBytes 8 s.counter ++ leBytes 4 s.epoch ++ leBytes 1 (moduleRole s) ++ leBytes 1 (getF s (rngB 0) F.rngStatMode)
    ++ leBytes 2 (effectiveCap s).1 ++ own)

/-- One line of an image; its rate and largest expert load are free values (log entry 61), numbered from `free`. -/
def imageLine (s : State) (free : Nat) (im : Image) : List Byte :=
  let slots := (s.cist.lslots.map (·.2)).filter (fun v => v.used && v.image = im.handle)
  let sp := getK s.eng.spills im.handle (0, 0)
  let hot := (s.cist.plots.filter (fun e => e.2.image = some im.handle && e.2.limit > 0)).length
  lineOf 64 (leBytes 2 im.handle ++ leBytes 1 im.owner ++ leBytes 1 (imageCode im.st)
    ++ leBytes 4 (Config.freeWord free).toNat ++ leBytes 4 (Config.freeWord (free + 1)).toNat ++ leBytes 4 hot
    ++ leBytes 4 ((slots.map (·.dens)).foldl max 0) ++ leBytes 4 ((slots.map (·.maxNent)).foldl max 0)
    ++ leBytes 4 (slots.filter (·.tripped)).length ++ leBytes 4 sp.1 ++ leBytes 8 sp.2)

def plotLine (s : State) (p : Nat) : List Byte :=
  lineOf 16 (leBytes 4 p ++ leBytes 4 (bstatWord s (p * 256)).toNat ++ leBytes 4 (bcalWord s (p * 256)).toNat)

def slotLine (k : Nat) (v : LSlot) : List Byte :=
  lineOf 16 (leBytes 4 k ++ leBytes 4 (ldensWord v).toNat ++ leBytes 4 (lstatWord v).toNat)

/-- The whole report of a requester, and the number of images that it lists. -/
def reportBytes (s : State) (by_ : Nat) : List Byte × Nat :=
  let ims := (s.images.map (·.2)).filter (fun im => reportSees by_ im.owner)
  let plots := s.cist.plots.filter (fun e => e.2.st ≠ .free && reportSees by_ e.2.owner)
  let slots := s.cist.lslots.filter (fun e => e.2.used && reportSees by_ e.2.owner)
  (reportHead s by_ ++ (ims.mapIdx (fun i im => imageLine s (s.freeCtr + 2 * i) im)).flatten
    ++ plots.flatMap (fun e => plotLine s e.1) ++ slots.flatMap (fun e => slotLine e.1 e.2), ims.length)

/-- TELEMETRY: the report goes to the holding's memory, or over the management port. -/
def telemetry (src : CmdSrc) (s : State) : State :=
  takeCmd src 0x24 (fun c t =>
    let (bs, n) := reportBytes t c.by_
    let t1 := { t with freeCtr := t.freeCtr + 2 * n }
    if c.by_ = 15 then respond c 0 0 bs.length 0 0 (emit (.mgmtData bs) t1)
    else
      let out := bs.take c.len
      respond c 0 0 out.length 0 0 (emit (.hostWrite c.by_ c.addr out) (chargeBytes (holdKey c.by_) out.length t1))) s

/-! ### MCTP control and sensors (R529) -/

/-- The management port answers: not while the module is off or its clocks stand (R595). -/
def mgmtUp (s : State) : Bool := s.power.phase ≠ .off && s.power.phase ≠ .starting

/-- MCTP control: discovery answers with the endpoint ID and the management address, 0x30 + MOD_ADDR. -/
def mctpControl (m : MctpMsg) (s : State) : State :=
  if !mgmtUp s then s
  else match m with
    | .discovery => emit (.mgmtData [BitVec.ofNat 8 s.power.eid, BitVec.ofNat 8 (0x30 + s.power.addr)]) s
    | .assignEid e => emit (.mgmtData [e, BitVec.ofNat 8 (0x30 + s.power.addr)]) { s with power := { s.power with eid := e.toNat } }

/-- The reading of a sensor: W, or 0.125 °C. -/
def sensorValue (s : State) : Sensor → Nat
  | .inputPower => p1ms s
  | .supply => s.ditch.inlet
  | .return_ t => t
  | .hotAcre => ((List.range 4).map (fun d => getF s (dpwB d) F.dpwThermHotAcre)).foldl max 0
  | .hotPlot => ((s.cist.plots.map (fun e => e.2.temp)).foldl max 0)
  | .hotHbm => ((List.range 4).map (fun d => getF s (dpwB d) F.dpwThermHotHbm)).foldl max 0
  | .therm d => (regGet s (dpwB d.val + 0x10C)).toNat

def sensorRead (x : Sensor) (s : State) : State :=
  if frozen s then s else emit (.mgmtData (leBytes 4 (sensorValue s x))) (idleExit s)

/-! ### The event log (R587) -/

/-- The 64 bytes of a log entry. -/
def logBytes (e : LogEntry) : List Byte :=
  leBytes 8 e.seq ++ leBytes 8 e.counter ++ leBytes 4 e.epoch ++ leBytes 4 e.status.toNat ++ leBytes 1 e.event
    ++ leBytes 1 e.severity ++ leBytes 2 0 ++ leBytes 4 e.index ++ lineOf 32 (e.detail.flatMap (leBytes 4))

/-- EVENT_LOG_READ: up to n entries from a sequence number on, also while frozen (R595). -/
def logRead (seq n : Nat) (s : State) : State :=
  if isFrozen s || headgateUp s false then
    emit (.mgmtData ((((s.log.reverse.filter (fun e => decide (e.seq ≥ seq))).take (min n 64)).flatMap logBytes))) s
  else s

/-! ### The commands -/

def execTelemetry (src : CmdSrc) (s : State) : Out := .next (telemetry src s)
def execMctpControl (msg : MctpMsg) (s : State) : Out := .next (mctpControl msg s)
def execPldmSensorRead (sensor : Sensor) (s : State) : Out := .next (sensorRead sensor s)
def execEventLogRead (seq n : Nat) (s : State) : Out := .next (logRead seq n s)

end Sys2Proof.Machine
end

