-- ==== Sys2Proof/Machine/Security.lean ====
section
/-!
DEFINITION. SPDM attestation, IDE keys, authorisation tokens and the freeze (R549 to R559, R565, R593 to R598). The bytes of SPDM
messages and the signatures are free values (log entry 13).
-/

namespace Sys2Proof.Machine

/-! ### SPDM connections (R549, R550) -/

/-- The number of a connection: host port, or 4 for the management port. -/
def connNum : SpdmPort → Nat
  | .host h => h.val
  | .mgmt => 4
def getConn (s : State) (c : Nat) : SpdmConn := getK s.trust.spdm c {}
def setConn (c : Nat) (v : SpdmConn) (s : State) : State := setTrust (fun t => { t with spdm := setK t.spdm c v {} }) s

/-- Is a connection served: not while frozen; in recovery too (R546); while start-up waits, and after a rail has stopped it, only on
the management port (R638, R641)? -/
def spdmUp (s : State) (c : Nat) : Bool :=
  !isFrozen s && (match s.power.phase with
    | .service | .recovery => c = 4 || portOn s c
    | .hold | .railStop => c = 4
    | _ => false)

/-- An error answer; a signed response is no longer the latest. -/
def spdmError (c req : Nat) (r : SpdmRes) (s : State) : State :=
  emit (.spdm c req r []) (setConn c { getConn s c with signed := none } s)

/-- A reply with a body: both messages join the transcript. -/
def spdmReply (c req : Nat) (msg body : List Byte) (f : SpdmConn → SpdmConn) (s : State) : State :=
  let x := getConn s c
  emit (.spdm c req .reply body) (setConn c (f { x with trans := x.trans ++ msg ++ body, signed := none }) s)

/-- The part of a reply that the DMTF documents lay out, fresh. -/
def spdmFresh (req : Nat) (msg : List Byte) (s : State) : List Byte × State :=
  let (n, t) := nextFree s
  (Config.spdmBody req msg n, t)

/-- A request of a connection that has reached a stage. -/
def spdmReq (p : SpdmPort) (req stage : Nat) (ok : SpdmConn → Bool) (f : Nat → State → State) (s : State) : State :=
  let c := connNum p
  if !spdmUp s c then s
  else if (getConn s c).stage < stage || !ok (getConn s c) then spdmError c req .unexpected s
  else f c s

/-- A request whose reply the DMTF documents give. -/
def spdmPlain (p : SpdmPort) (req stage : Nat) (msg : List Byte) (ok : SpdmConn → Bool) (f : SpdmConn → SpdmConn) (s : State) : State :=
  spdmReq p req stage ok (fun c t => let (b, u) := spdmFresh req msg t; spdmReply c req msg b f u) s

/-- GET_VERSION starts a connection anew. -/
def getVersion (p : SpdmPort) (msg : List Byte) (s : State) : State :=
  spdmReq p 0x84 0 (fun _ => true) (fun c t =>
    let (b, u) := spdmFresh 0x84 msg t
    spdmReply c 0x84 msg b (fun x => { x with stage := 1 }) (setConn c {} u)) s

/-- The certificate chain of slot 0 (to ALIAS) or 1 (to the Tally key), and its HSS chain. -/
def certChain (s : State) (slot : Nat) (hss : Bool) : List Byte :=
  Config.certificate (2 * slot + (if hss then 1 else 0)) (if slot = 0 then s.trust.aliasNo else 0)

/-- GET_DIGESTS: the digests of the chains of slots 0 and 1. -/
def getDigests (p : SpdmPort) (msg : List Byte) (s : State) : State :=
  spdmReq p 0x81 3 (fun _ => true) (fun c t =>
    spdmReply c 0x81 msg (sha384 (certChain t 0 false) ++ sha384 (certChain t 1 false)) id t) s

/-- GET_CERTIFICATE: no slot but 0 and 1 is provisioned. -/
def getCertificate (p : SpdmPort) (msg : List Byte) (slot : Nat) (s : State) : State :=
  spdmReq p 0x82 3 (fun _ => true) (fun c t =>
    if slot < 2 then spdmReply c 0x82 msg (certChain t slot false) id t else spdmError c 0x82 .invalid t) s

/-- The message that both signatures of a response cover: the signing prefix and the transcript hash. -/
def signedMsg (req : Nat) (trans : List Byte) : List Byte := Config.spdmBody req [] 0 ++ sha384 trans

/-- A reply that ALIAS signs; HSS_SIGN may follow it. -/
def spdmSigned (c req : Nat) (msg body : List Byte) (f : SpdmConn → SpdmConn) (s : State) : State :=
  let m := signedMsg req ((getConn s c).trans ++ msg ++ body)
  let (n, t) := nextFree s
  spdmReply c req msg (body ++ fixLen 96 (Config.ecdsaSign (derivedKey s (keyAlias s)) m n)) (fun x => f { x with signed := some m }) t

/-- A request that needs the alias certificates waits until they exist (R541, R565). -/
def needAlias (p : SpdmPort) (req : Nat) (f : Nat → State → State) (s : State) : State :=
  spdmReq p req 3 (fun _ => true) (fun c t => if t.trust.treeUp then f c t else spdmError c req .notReady t) s

/-- CHALLENGE. -/
def challenge (p : SpdmPort) (msg : List Byte) (s : State) : State :=
  needAlias p 0x83 (fun c t =>
    let (b, u) := spdmFresh 0x83 msg t
    spdmSigned c 0x83 msg (sha384 (certChain t 0 false) ++ ((List.range 7).flatMap (fun i => measure t (i + 1))) ++ b) id u) s

/-- The owner whose images a connection sees (R551). -/
def connOwner (c : Nat) : Nat := if c = 4 then 15 else c

/-- The measurements that a connection sees: 1 to 7, and from 0x10 the digests of its READY and ACTIVE images in handle order. -/
def visible (s : State) (c : Nat) : List (Nat × List Byte) :=
  let ims := (s.images.map (·.2)).filter (fun im => im.owner = connOwner c && (im.st = .ready || im.st = .active))
  (List.range 7).map (fun i => (i + 1, measure s (i + 1))) ++ (ims.take 0x40).mapIdx (fun i im => (0x10 + i, im.digest))

def measBlock (e : Nat × List Byte) : List Byte := leBytes 1 e.1 ++ leBytes 2 e.2.length ++ e.2

/-- GET_MEASUREMENTS: one index, or all; signed where asked. -/
def getMeasurements (p : SpdmPort) (msg : List Byte) (index : Option Nat) (signed : Bool) (s : State) : State :=
  let answer (c : Nat) (t : State) : State :=
    let es := (visible t c).filter (fun e => index.all (fun i => e.1 = i))
    if es.isEmpty then spdmError c 0xE0 .invalid t
    else
      let body := leBytes 1 es.length ++ es.flatMap measBlock
      if signed then spdmSigned c 0xE0 msg body id t else spdmReply c 0xE0 msg body id t
  if signed then needAlias p 0xE0 answer s else spdmReq p 0xE0 3 (fun _ => true) answer s

/-- KEY_EXCHANGE: a session starts. -/
def keyExchange (p : SpdmPort) (msg : List Byte) (s : State) : State :=
  needAlias p 0xE4 (fun c t =>
    let (b, u) := spdmFresh 0xE4 msg t
    let m := signedMsg 0xE4 ((getConn u c).trans ++ msg ++ b)
    let (n, v) := nextFree u
    spdmReply c 0xE4 msg (b ++ fixLen 96 (Config.ecdsaSign (derivedKey t (keyAlias t)) m n))
      (fun x => { x with session := 1, keyGen := 0 }) v) s

/-- The phase of the session that a request needs. -/
def inSession (n : Nat) (x : SpdmConn) : Bool := x.session = n

/-- HSS_CHAIN: the HSS certificates that match slots 0 and 1. -/
def hssChain (p : SpdmPort) (msg : List Byte) (s : State) : State :=
  needAlias p 0xFE (fun c t => spdmReply c 0xFE msg (certChain t 0 true ++ certChain t 1 true) id t) s

/-- Makes the next ALIAS_HSS index durable, with a step of 16 (R541, R451): true where it may be used. -/
def reserveAlias (ws : List (Bool × Bool)) (s : State) : Bool × State :=
  if s.trust.aliasQ < s.trust.aliasRes then (true, s)
  else
    let (d1, s1) := journalTry (ws.getD 0 (true, true)) s
    let (d, s2) := if d1 then (true, s1) else journalTry (ws.getD 1 (true, true)) s1
    (d, if d then setTrust (fun t => { t with aliasRes := t.aliasRes + 16 }) s2 else s2)

/-- HSS_SIGN: the ALIAS_HSS signature over the message of the latest signed response, as the next request after it. -/
def hssSign (p : SpdmPort) (msg : List Byte) (ws : List (Bool × Bool)) (s : State) : State :=
  spdmReq p 0xFF 3 (fun x => x.signed.isSome) (fun c t =>
    match (getConn t c).signed with
    | none => t
    | some m =>
      if !t.trust.treeUp then spdmError c 0xFF .notReady t
      else
        let (ok, u) := reserveAlias ws t
        if !ok then spdmError c 0xFF .notReady u
        else
          let (n, v) := nextFree u
          let sig := fixLen 5396 (Config.hssSign (derivedKey v (keyAlias v)) v.trust.aliasQ m n)
          keysLowCheck (spdmReply c 0xFF msg sig id (setTrust (fun x => { x with aliasQ := x.aliasQ + 1 }) v))) s

/-- ALIAS_TREE_BUILT. -/
def aliasBuilt (s : State) : State := if isFrozen s || decide (s.power.phase = .off) then s else setTrust (fun t => { t with treeUp := true }) s

/-! ### IDE (R554) -/

def modIde (h k : Nat) (f : IdeStream → IdeStream) (s : State) : State :=
  { s with ide := setK s.ide (h * 2 + k) (f (getK s.ide (h * 2 + k) {})) {} }

/-- What waited for the port's IDE stream is sent. -/
def servePort (h : Nat) (s : State) : State :=
  (List.range 64).foldl (fun t q => serveQP h q (flushBuf h q 256 t)) s

/-- IDE_KEY_MANAGEMENT: only in an established SPDM session of the port's own mailbox. -/
def ideKeys (h k : Nat) (msg : IdeMsg) (s : State) : State :=
  if !spdmUp s h || (getConn s h).session ≠ 2 then s
  else match msg with
    | .program set_ => modIde h k (fun x => { x with programmed := x.programmed ++ (if x.programmed.contains set_.val then [] else [set_.val]) }) s
    | .go set_ =>
      if (getK s.ide (h * 2 + k) {}).programmed.contains set_.val then servePort h (modIde h k (fun x => { x with active := true }) s) else s
    | .stop => modIde h k (fun x => { x with active := false, programmed := [] }) s

/-! ### The freeze (R593 to R598) -/

/-- The capture edge: the module is frozen, a new freeze starts its count, pages and streams note it (R462). -/
def freezeNow (s : State) : State :=
  if isFrozen s then { s with rely := { s.rely with thawing := false } }
  else
    let s1 := regSet (rlyB + 0x134) 0 (regSet (rlyB + 0x138) 0 (setF rlyB F.rlyFreezeFrozen 1 s))
    { s1 with
      rely := { s1.rely with hbmDown := false, thawing := false }
      readout := false
      tally := { s1.tally with page := { s1.tally.page with frozen := true } }
      eng := { s1.eng with streams := s1.eng.streams.map (fun e => (e.1, { e.2 with froze := true })) } }

/-- FREEZE_CAPTURE: a reference edge samples FREEZE_N low, where the Charter, once the ROM has
read it, heeds the pin (R558, R649), or follows an accepted command. -/
def freezeCapture (pin : Bool) (s : State) : State :=
  if pin then
    let s1 := { s with rely := { s.rely with pinLow := true } }
    if policy s F.chtLifeFreeze = 0 ∧ s.power.step ≥ 3 then freezeNow (setF rlyB F.rlyFreezeByPin 1 s1) else s1
  else if getF s rlyB F.rlyFreezeByCmd = 1 ∧ s.power.phase ≠ .off then freezeNow s else s

/-- HBM_FREEZE_STOP: every stack is in self-refresh. -/
def hbmFreezeStop (s : State) : State := if isFrozen s then { s with rely := { s.rely with hbmDown := true } } else s

/-- The release edge: neither a pin nor a command holds the freeze any more. -/
def startThaw (s : State) : State :=
  if isFrozen s && getF s rlyB F.rlyFreezeByPin = 0 && getF s rlyB F.rlyFreezeByCmd = 0 then
    { s with rely := { s.rely with thawing := true, hbmDown := false } }
  else s

/-- THAW: FREEZE_N rises. -/
def thaw (s : State) : State := startThaw (setF rlyB F.rlyFreezeByPin 0 { s with rely := { s.rely with pinLow := false } })

/-- FREEZE_RELEASE_COMMAND. -/
def freezeRelease (s : State) : State := if isFrozen s then startThaw (setF rlyB F.rlyFreezeByCmd 0 s) else s

/-- The clocks run again: readout closes, and MODULE_FROZEN is logged with FRZ_DUR. -/
def clocksRun (s : State) : State :=
  let s1 := { (setF rlyB F.rlyFreezeFrozen 0 s) with readout := false, rely := { s.rely with thawing := false } }
  trustEvent 15 0x7F [(regGet s1 (rlyB + 0x134)).toNat, (regGet s1 (rlyB + 0x138)).toNat] s1

/-- Every direction of the ring retrains. -/
def retrainRing (s : State) : State :=
  { s with ring := { s.ring with dirs := (List.range 8).foldl (fun m k => insertK m k { getK m k ({} : RingDir) with retrain := true }) s.ring.dirs } }

/-- Alerts latched in the freeze take effect. -/
def latchedAlerts (s : State) : State := if s.ditch.alerts.isEmpty || inLevel 2 s || frozen s then s else trickleEnter s

/-- THAW_CLOCK_START: the clocks run again, the ring links retrain, and latched alerts take effect. -/
def thawClock (s : State) : State :=
  if !isFrozen s || !s.rely.thawing then s else latchedAlerts (whenB s.ditch.capDue showCap (retrainRing (clocksRun s)))

/-! ### Tokens (R555 to R557) -/

/-- Does the management port take tokens: in service, and while frozen (R595)? -/
def tokenUp (s : State) : Bool := isFrozen s || headgateUp s false

/-- GET_NONCE: a fresh nonce voids the previous one. -/
def getNonce (s : State) : State :=
  if tokenUp s then
    let (n, t) := nextFree s
    let v := fixLen 32 (Config.freshBytes n 32)
    emit (.mgmtData v) (setTrust (fun x => { x with nonce := some (v, t.counter) }) t)
  else s

/-- NONCE_EXPIRE: 60 s after its issue. -/
def nonceExpire (s : State) : State :=
  match s.trust.nonce with
  | some (_, c) => if decide (s.power.phase ≠ .off) && decide (s.counter ≥ c + 1500000000) then setTrust (fun x => { x with nonce := none }) s else s
  | none => s

/-- The key hashes of an owner slot; slot 0 is the delivery owner's. -/
def ownerKeys (s : State) (k : Nat) : List Byte × List Byte :=
  if k = 0 then Config.fusedKeys 4
  else let h := getK s.trust.owners k []; (h.take 48, (h.drop 48).take 48)

/-- The 16 bytes that name the device. -/
def deviceName (s : State) : List Byte := (sha384 (Config.publicKey keyDevice (lifecycle s))).take 16

/-- Does a token pass every check of R556 but the Charter's? -/
def tokenOk (s : State) (b : List Byte) : Bool :=
  let active := getF s chtB F.chtLifeOwnerActive
  decide (b.length = 5532) && decide (fieldLE b 0 4 = 0x314B5443) && decide (fieldLE b 4 2 = 1) &&
    decide (fieldLE b 7 1 = active) && decide ((b.drop 8).take 16 = deviceName s) && decide (fieldLE b 0x18 4 = s.epoch) &&
    (match s.trust.nonce with
     | some (v, c) => decide ((b.drop 0x20).take 32 = v) && decide (s.counter < c + 1500000000)
     | none => false) &&
    decide (s.counter < fieldLE b 0x40 8) && keysNamed b 0x1500 (ownerKeys s active) && dualOk b (b.take 0xC0) 0xC0 0x120 5076 0x1500

/-- A nonce serves one token: whichever carries it uses it up. -/
def useNonce (b : List Byte) (s : State) : State :=
  match s.trust.nonce with
  | some (v, _) => if (b.drop 0x20).take 32 = v then setTrust (fun x => { x with nonce := none }) s else s
  | none => s

/-- A token of a kind: refused with TOKEN_REFUSED, or with CHARTER_DENIED where the Charter forbids the act, or carried out. -/
def token (kind : Nat) (permit : State → Bool) (act : State → State) (b : List Byte) (s : State) : State :=
  if !tokenUp s || fieldLE b 6 1 ≠ kind then s
  else
    let answer (code : Nat) (t : State) : State := emit (.mgmt (0x100 + kind) (if code = 0 then 0 else statusWord 15 0 1 code) 0 0 0 0) t
    let s1 := useNonce b s
    if !tokenOk s b then answer 0x74 (trustEvent 15 0x74 [kind] s1)
    else if !permit s then answer 0x75 (trustEvent 15 0x75 [kind] s1)
    else answer 0 (act s1)

/-- FREEZE_TOKEN: while FREEZE is not 0b11. -/
def freezeToken (b : List Byte) (s : State) : State :=
  token 1 (fun t => decide (policy t F.chtLifeFreeze ≠ 3)) (fun t => freezeNow (setF rlyB F.rlyFreezeByCmd 1 t)) b s

/-- DEBUG_READOUT_TOKEN: while DEBUG is not 0b11; it opens readout while frozen. -/
def readoutToken (b : List Byte) (s : State) : State :=
  token 2 (fun t => decide (policy t F.chtLifeDebug ≠ 3)) (fun t => if isFrozen t then { t with readout := true } else t) b s

/-- FULL_DEBUG_TOKEN: DEBUG 0b00 outside SERVICE (R538). -/
def fullDebugToken (b : List Byte) (s : State) : State :=
  token 3 (fun t => decide (policy t F.chtLifeDebug = 0) && decide (lifecycle t ≠ 1)) (fun t => { t with fullDebug := true }) b s

/-- OWNER_CHANGE_TOKEN: the next owner slot is fused with ARG, and becomes the active one. -/
def ownerToken (b : List Byte) (s : State) : State :=
  token 4 (fun t => decide (getF t chtB F.chtLifeOwnerActive < 3)) (fun t =>
    let k := getF t chtB F.chtLifeOwnerActive + 1
    trustEvent 15 0x7E [k] (setF chtB F.chtLifeOwnerActive k
      (setTrust (fun x => { x with owners := insertK x.owners k ((b.drop 0x48).take 96) }) t))) b s

/-- Blows the fuses of a field that a value names. -/
def blow (f : Fld) (v : Nat) (s : State) : State := setF chtB f (Nat.lor (getF s chtB f) v) s

/-- Ports that HOLDINGS now disables present no link (R539); a freeze that the Charter no longer permits ends (R565). -/
def restricted (s : State) : State :=
  let s1 := (List.range 4).foldl (fun t h => if portOn t h then t else portReset h t) s
  if isFrozen s1 && policy s1 F.chtLifeFreeze = 3 then startThaw (setF rlyB F.rlyFreezeByPin 0 (setF rlyB F.rlyFreezeByCmd 0 s1)) else s1

/-- CHARTER_RESTRICTION_TOKEN: only the fuses that ARG names. -/
def restrictionToken (b : List Byte) (s : State) : State :=
  let a := fieldLE b 0x48 2
  token 5 (fun _ => true) (fun t =>
    restricted (blow F.chtLifeIdeReq (a / 64 % 16) (blow F.chtLifeHoldings (a / 16 % 4)
      (blow F.chtLifeFreeze (a / 4 % 4) (blow F.chtLifeDebug (a % 4) t))))) b s

/-- ENTER_RETURN_TOKEN: refused while a stream is outside FREE and DONE; every image is released, and LIFECYCLE is blown once the
last plot has verified. -/
def returnToken (b : List Byte) (s : State) : State :=
  token 6 (fun t => (allStreams t).all (fun x => x.st = .done)) (fun t =>
    let u := setTrust (fun x => { x with retDue := true }) t
    refreshClosed (retCheck ((u.images.map (·.2)).foldl (fun v im => releaseImage im v) u))) b s

/-! ### The commands -/

def execGetVersion (conn : SpdmPort) (msg : List Byte) (s : State) : Out := .next (getVersion conn msg s)
def execGetCapabilities (conn : SpdmPort) (msg : List Byte) (s : State) : Out :=
  .next (spdmPlain conn 0xE1 1 msg (fun _ => true) (fun x => { x with stage := max 2 x.stage }) s)
def execNegotiateAlgorithms (conn : SpdmPort) (msg : List Byte) (s : State) : Out :=
  .next (spdmPlain conn 0xE3 2 msg (fun _ => true) (fun x => { x with stage := 3 }) s)
def execGetDigests (conn : SpdmPort) (msg : List Byte) (s : State) : Out := .next (getDigests conn msg s)
def execGetCertificate (conn : SpdmPort) (msg : List Byte) (slot : Fin 8) (s : State) : Out := .next (getCertificate conn msg slot.val s)
def execChallenge (conn : SpdmPort) (msg : List Byte) (s : State) : Out := .next (challenge conn msg s)
def execGetMeasurements (conn : SpdmPort) (msg : List Byte) (index : Option (BitVec 8)) (signed : Bool) (s : State) : Out :=
  .next (getMeasurements conn msg (index.map (·.toNat)) signed s)
def execKeyExchange (conn : SpdmPort) (msg : List Byte) (s : State) : Out := .next (keyExchange conn msg s)
def execFinish (conn : SpdmPort) (msg : List Byte) (s : State) : Out :=
  .next (spdmPlain conn 0xE5 3 msg (inSession 1) (fun x => { x with session := 2 }) s)
def execKeyUpdate (conn : SpdmPort) (msg : List Byte) (s : State) : Out :=
  .next (spdmPlain conn 0xE9 3 msg (inSession 2) (fun x => { x with keyGen := x.keyGen + 1 }) s)
def execHeartbeat (conn : SpdmPort) (msg : List Byte) (s : State) : Out := .next (spdmPlain conn 0xE8 3 msg (inSession 2) id s)
def execEndSession (conn : SpdmPort) (msg : List Byte) (s : State) : Out :=
  .next (spdmPlain conn 0xEA 3 msg (inSession 2) (fun x => { x with session := 0, keyGen := 0 }) s)
def execHssChain (conn : SpdmPort) (msg : List Byte) (s : State) : Out := .next (hssChain conn msg s)
def execHssSign (conn : SpdmPort) (msg : List Byte) (writes : List (Bool × Bool)) (s : State) : Out := .next (hssSign conn msg writes s)
def execAliasTreeBuilt (s : State) : Out := .next (aliasBuilt s)
def execGetNonce (s : State) : Out := .next (getNonce s)
def execNonceExpire (s : State) : Out := .next (nonceExpire s)
def execFreezeToken (tok : List Byte) (s : State) : Out := .next (freezeToken tok s)
def execDebugReadoutToken (tok : List Byte) (s : State) : Out := .next (readoutToken tok s)
def execFullDebugToken (tok : List Byte) (s : State) : Out := .next (fullDebugToken tok s)
def execOwnerChangeToken (tok : List Byte) (s : State) : Out := .next (ownerToken tok s)
def execCharterRestrictionToken (tok : List Byte) (s : State) : Out := .next (restrictionToken tok s)
def execEnterReturnToken (tok : List Byte) (s : State) : Out := .next (returnToken tok s)
def execFreezeReleaseCommand (s : State) : Out := .next (freezeRelease s)
def execFreezeCapture (pin : Bool) (s : State) : Out := .next (freezeCapture pin s)
def execHbmFreezeStop (s : State) : Out := .next (hbmFreezeStop s)
def execThaw (s : State) : Out := .next (thaw s)
def execThawClockStart (s : State) : Out := .next (thawClock s)
def execIdeKeyManagement (h : Holding) (stream : Fin 2) (msg : IdeMsg) (s : State) : Out := .next (ideKeys h.val stream.val msg s)

end Sys2Proof.Machine
end

