-- ==== Sys2Proof/Machine/Reliability.lean ====
section
/-!
DEFINITION. The retry rule, acre replacement, swaps and tests, core pairs, HBM pages, scrubbing and the imbalance monitor
(R570 to R592). Events carry what a check found; what replaces a unit follows from State.
-/

namespace Sys2Proof.Machine

def setRely (f : Rely → Rely) (s : State) : State := { s with rely := f s.rely }

/-! ### Checks of an acre (R570, R571) -/

/-- A parity error of a unit of an acre while a course runs: lasting where the repeat fails or a third transient falls within 2^32
of its cycles; the attempt commits nothing. -/
def parityError (g : Nat) (stamps : Acre → List Nat) (put : List Nat → Acre → Acre) (again : Bool) (cycle : Nat)
    (repeat_ : State → State) (s : State) : State :=
  let a := getAcre s g
  if !acreLive s g || a.run.isNone then s
  else if again || thirdTransient (stamps a) cycle then replaceAcre g s
  else repeat_ (modAcre g (put ((cycle :: stamps a).take 3)) s)

/-- LATERAL_PARITY_ERROR: the sequencer issues the operation again. -/
def lateralParity (g : Nat) (again : Bool) (cycle : Nat) (s : State) : State :=
  parityError g (·.latTrans) (fun l a => { a with latTrans := l }) again cycle id s

/-- A fill runs again from its preload at the same exponent. -/
def refill (g f e : Nat) (s : State) : State :=
  let a := getAcre s g
  let a1 := releaseSets { (putAcc (accOf f) { getAcc a (accOf f) with st := .repeatFill, issued := 0, commits := 0 } a) with
    rounds := a.rounds.filter (fun r => r.fill ≠ f), held := false }
  startPreload g f 3 e (modRun g (fun c => { c with tile := firstTile c.desc c.bounds f }) (setAcre g a1 s))

/-- ACC_PARITY_ERROR. -/
def accParity (g : Nat) (b again : Bool) (cycle : Nat) (s : State) : State :=
  let x := getAcc (getAcre s g) b
  if x.st = .idle then s
  else parityError g (·.accTrans) (fun l a => { a with accTrans := l }) again cycle (refill g x.fill x.e) s

/-- A course sequencer error or watchdog: the running course repeats from its start on the same acre; an error in the repeat is
lasting, and reverts new field die firmware in its health window (R563). -/
def sequencerError (g cycle : Nat) (s : State) : State :=
  let a := getAcre s g
  match a.run with
  | none => s
  | some c =>
    if !acreLive s g then s
    else if a.seqRep = some c.sn || thirdTransient a.seqTrans cycle then
      let s1 := if a.seqRep = some c.sn && s.trust.update.any (·.swapped) then revertUpdate s else s
      replaceAcre g s1
    else modAcre g (fun y => { releaseSets (clearFlight y) with
      run := some { restart c with replaced := c.replaced }
      seqTrans := (cycle :: y.seqTrans).take 3, seqRep := some c.sn }) s

/-! ### Swaps of acres (R574, R575) -/

/-- ACRE_SWAP: the running course of an acre that is to be swapped has completed. -/
def acreSwap (g : Nat) (s : State) : State :=
  let a := getAcre s g
  if frozen s || a.run.isSome || a.aside.isSome then s
  else { s with swaps := s.swaps.map (fun j => if j.old = g && j.phase = .waiting then { j with phase := .copying } else j) }

/-- The acres that wait for a test, as RLY_TESTSTAT shows them. -/
def showTests (s : State) : State :=
  let no : Bool := match s.testQ with
    | g :: _ => inService s g && (bestSpare s (g / 68)).isNone
    | [] => false
  setB rlyB F.rlyTeststatNoSpare no (setF rlyB F.rlyTeststatQueued s.testQ.length s)

/-- The head of the queue starts once no swap or test of its die runs: an in-service acre is swapped out first (R577). -/
def serveTests (s : State) : State :=
  showTests (match s.testQ with
    | [] => s
    | g :: rest =>
      let busy : Bool := s.swaps.any (fun j => j.old / 68 = g / 68) || s.testing.any (fun t => t / 68 = g / 68)
      if busy then s
      else if inService s g then
        match bestSpare s (g / 68) with
        | some sp => planSwap g sp .request { s with testQ := rest }
        | none => s
      else { s with testQ := rest, testing := s.testing ++ [g] })

/-- ACRE_COPY_DONE: the logical acre is remapped; after a fault the old acre is retired, else it is a spare, or is tested first. -/
def copyDone (g : Nat) (s : State) : State :=
  match s.swaps.find? (fun j => j.old = g && j.phase = .copying) with
  | none => s
  | some j =>
    if frozen s then s
    else
      let s1 := enterFallow g (remapAcre g j.new { s with swaps := s.swaps.filter (fun k => k ≠ j) })
      let s2 := match j.why with
        | .fault => logEv 0x21 3 g [j.new] (modAcre g (fun a => { a with retired := true }) s1)
        | .slow => logEv 0x20 3 g [j.new] s1
        | _ => logEv 0x20 3 g [j.new] { s1 with testing := s1.testing ++ [g] }
      serveTests (countSpares (g / 68) s2)

/-! ### Tests of acres (R576, R577) -/

/-- ACRE_BIST_H in counts; none where rotation is stopped. -/
def bistInterval (s : State) : Option Nat :=
  let h := getF s rlyB F.rlyBistcfgAcreBistH
  if h = 0xFFF then none else some (max 0x18 h * 90000000000)

/-- ACRE_BIST_ROTATION: an in-service acre is swapped for a spare that is not slow, and then tested. -/
def bistRotation (g : Nat) (s : State) : State :=
  let a := getAcre s g
  let due := (bistInterval s).any (fun n => decide (a.bistAge + (s.counter - a.testedAt) ≥ n))
  if frozen s || s.rely.coresLost || !due || !inService s g || s.swaps.any (fun j => j.old = g) then s
  else match bestSpare s (g / 68) with
    | some sp =>
      if (getAcre s sp).life + slowGap s > (getClk s (g / 68)).fmax then
        showTests (planSwap g sp .rotation { s with testQ := s.testQ.filter (· ≠ g) })
      else s
    | none => s

/-- Can spare columns repair what a test found in an acre (R326)? -/
def colsRepairable (s : State) (g : Nat) (cols : List (Nat × Nat)) : Bool :=
  (List.range 8).all (fun k => decide ((cols.filter (fun c => c.1 = k)).length ≤ getF s (spdB g) (colspareFld k)))

/-- One column of an acre under test is repaired. -/
def repairColumn (g : Nat) (c : Nat × Nat) (s : State) : State :=
  let st := statusWord 15 (bankIx g c.1) 6 0x46
  lastEvt (spdB g) F.spdLastevtStatus st (logStatus st (bankIx g c.1) [c.2]
    (setF (spdB g) (colspareFld c.1) (getF s (spdB g) (colspareFld c.1) - 1) s))

/-- The result of a test, as RLY_TESTSTAT.RESULT codes it, and the acre after it. -/
def testResult (g : Nat) (res : TestRes) (s : State) : Nat × State :=
  match res with
  | .pass => (1, s)
  | .columns cols =>
    let cs := cols.map (fun c => (c.1.val, c.2.val))
    if colsRepairable s g cs then (2, cs.foldl (fun t c => repairColumn g c t) s) else (3, retireSpare g s)
  | .fail => (3, retireSpare g s)

/-- ACRE_SELF_TEST_DONE. -/
def selfTestDone (g : Nat) (res : TestRes) (s : State) : State :=
  if frozen s || !s.testing.contains g then s
  else
    let (r, s1) := testResult g res { s with testing := s.testing.filter (· ≠ g) }
    let s2 := modAcre g (fun a => { a with bistAge := 0, testedAt := s.counter }) s1
    let s3 := setF rlyB F.rlyTeststatLastAcre (g % 68) (setF rlyB F.rlyTeststatLastDie (g / 68) (setF rlyB F.rlyTeststatResult r s2))
    serveTests (countSpares (g / 68) (irqRaise rlyB 8 (logEv 0x23 3 g [r] s3)))

/-- ACRE_TEST_REQUEST: a write of RLY_TESTREQ; one test serves an acre that rotation has queued (R598). -/
def testRequest (data : Word) (s : State) : State :=
  let die := fldOf F.rlyTestreqDie data
  let acre := fldOf F.rlyTestreqAcre data
  let s1 := regSet (rlyB + 0x10C) (fldPut F.rlyTestreqAcre acre (fldPut F.rlyTestreqDie die
    (fldPut F.rlyTestreqAll (fldOf F.rlyTestreqAll data) 0))) s
  let gs := if fldOf F.rlyTestreqAll data = 1 then serviceAcres s die else if acre < 68 then [die * 68 + acre] else []
  let new := gs.filter (fun g => !s.testQ.contains g && !s.testing.contains g && !s.swaps.any (fun j => j.old = g && j.why = .rotation))
  if fldOf F.rlyTestreqGo data = 1 ∧ ¬ frozen s then serveTests { s1 with testQ := s1.testQ ++ new } else s1

/-- SPARE_TEST_RUN: a write of FRW_SPTEST (R90). -/
def spareTestRun (g : Nat) (data : Word) (s : State) : State :=
  let s1 := setF (frwB g) F.frwSptestIntervalLog2 (fldOf F.frwSptestIntervalLog2 data) s
  if fldOf F.frwSptestRun data = 1 then spareTestStart g (modAcre g (fun a => { a with spTest := s.counter }) s1) else s1

/-! ### Management core pairs (R580, R569) -/

/-- An update handed over and waiting in its trial is reverted by a takeover. -/
def takeoverUpdate (s : State) : State :=
  match s.trust.update with
  | some u =>
    if fwPhase s = 4 ∧ u.handed then revertUpdate (setTrust (fun t => { t with update := some { u with handed := false } }) s) else s
  | none => s

/-- The standby pair resumes from the checkpoint; the old pair runs its self-test. -/
def takeover (s : State) : State :=
  takeoverUpdate (logEv 0x2C 1 (1 - getF s rlyB F.rlyCoresActive) [] (setStandby 2 (flipPair s)))

/-- LOCKSTEP_MISMATCH of a pair. -/
def lockstep (pair : Nat) (s : State) : State :=
  if frozen s || s.rely.coresLost then s
  else if pair ≠ getF s rlyB F.rlyCoresActive then
    (if standby s = 3 || standby s = 2 then s
     else setStandby 2 (if fwPhase s = 2 || fwPhase s = 3 then abandonUpdate s else s))
  else if standby s = 2 || standby s = 3 then logEv 0x31 1 0 [] (setRely (fun r => { r with coresLost := true }) s)
  else takeover (if fwPhase s = 2 || fwPhase s = 3 then abandonUpdate s else s)

/-- MGMT_CHECKPOINT: every 1 ms. -/
def checkpoint (s : State) : State :=
  if !frozen s && !s.rely.coresLost && decide (s.counter ≥ s.rely.ckpt + 25000) then setRely (fun r => { r with ckpt := s.counter }) s else s

/-- CORE_PAIR_SELF_TEST_DONE. -/
def coreTestDone (ok : Bool) (s : State) : State :=
  if frozen s || standby s ≠ 2 then s
  else if ok then setStandby 0 s
  else logEv 0x2D 1 (1 - getF s rlyB F.rlyCoresActive) [] (setStandby 3 s)

/-! ### HBM (R581, R582) -/

/-- An HBM page is to be retired: it is copied into a spare of the stack, or into a page of the module's free pool; with none it
stays in service. -/
def retirePage (stack page : Nat) (s : State) : State :=
  if s.rely.migrating.any (fun p => p = page) then s
  else if getK s.rely.used stack 0 < 64 then
    setRely (fun r => { r with
      migrating := r.migrating ++ [page], used := setK r.used stack (getK r.used stack 0 + 1) 0
      moved := insertK r.moved page (2 ^ 20 + stack * 64 + getK r.used stack 0) }) s
  else match takeOne (stack / 3) 15 s with
    | some (k, t) => setRely (fun r => { r with migrating := r.migrating ++ [page], moved := insertK r.moved page k }) t
    | none => s

/-- A corrected codeword; the eighth in a page within a patrol pass retires it. -/
def countCorrected (stack page : Nat) (s : State) : State :=
  let k := stack * 2 ^ 20 + page
  let n := getK s.rely.pageErr k 0 + 1
  let s1 := setRely (fun r => { r with pageErr := setK r.pageErr k n 0 }) s
  whenB (n = 8) (retirePage stack page) s1

/-- A codeword that the repeat reads uncorrectable too: the 64-byte block is poisoned. -/
def poisonBlock (stack addr : Nat) (s : State) : State :=
  logEv 0x25 0x0C stack [addr % 2 ^ 32, addr / 2 ^ 32] { s with hbmPoison := setK s.hbmPoison (addr / 64) true false }

/-- The course of an executor faults. -/
def faultExec (ex : Executor) (code cls ix : Nat) (s : State) : State :=
  match ex with
  | .acre die a => if acreLive s (acreIx die a) then faultRun (acreIx die a) code cls ix s else s
  | .controller die k => withSome ((getRuns s die.val)[k]?) (fun r t => faultBasin die.val code cls ix r t) s

/-- What a read of a codeword found. -/
def codewordRead (stack addr : Nat) (err : ReadErr) (s : State) : State :=
  match err with
  | .clean | .transient => s
  | .corrected => countCorrected stack (addr / 0x200000) s
  | .lasting => retirePage stack (addr / 0x200000) (poisonBlock stack addr s)

/-- HBM_READ: the reading course faults on a lasting uncorrectable (R581). -/
def hbmRead (addr : Nat) (err : ReadErr) (reader : Option Executor) (s : State) : State :=
  if frozen s || decide (addr ≥ 0x9000000000) then s
  else
    let stack := hbmStack s addr
    let s1 := codewordRead stack addr err s
    if err = .lasting then withSome reader (fun ex t => faultExec ex 0x43 0x0C stack t) s1 else s1

/-- HBM_PAGE_MIGRATE_DONE: blocks that the copy read uncorrectable are carried as poisoned (R598). -/
def migrateDone (page : Nat) (poisoned : List Nat) (s : State) : State :=
  if frozen s || !s.rely.migrating.contains page then s
  else
    let sp := getK s.rely.moved page 0
    let stack := if sp ≥ 2 ^ 20 then (sp - 2 ^ 20) / 64 else 3 * (page / 73728)
    let bad := poisoned.filter (fun a => a / 0x200000 = page)
    let s1 := { s with hbmPoison := bad.foldl (fun m a => setK m (a / 64) true false) s.hbmPoison }
    logEv 0x24 0x0C stack [page] (setRely (fun r => { r with
      migrating := r.migrating.filter (· ≠ page), retired := setK r.retired stack (getK r.retired stack 0 + 1) 0
      pageErr := r.pageErr.filter (fun e => e.1 % 2 ^ 20 ≠ page) }) s1)

/-- HBM_PATROL_SCRUB: the patrol of a stack reads its next codeword, here at an address of the stack; a pass is 48 GiB of 32-byte
codewords. -/
def patrolScrub (stack addr : Nat) (err : ReadErr) (s : State) : State :=
  if frozen s || decide (addr ≥ 0x9000000000) || hbmStack s addr ≠ stack then s
  else
    let s1 := codewordRead stack addr err s
    let n := getK s1.rely.patrol stack 0 + 1
    if n = 1610612736 then
      setRely (fun r => { r with patrol := setK r.patrol stack 0 0, pageErr := r.pageErr.filter (fun e => e.1 / 2 ^ 20 ≠ stack) }) s1
    else setRely (fun r => { r with patrol := setK r.patrol stack n 0 }) s1

/-! ### Scrubbing of the Headgate's memories (R585, R586) -/

/-- SRAM_SCRUB: a location of the stream cache that fails its patterns after a lasting error is disabled; the context that it held
is fetched from HBM again. -/
def sramScrub (cache : Bool) (loc : Nat) (err : ReadErr) (stuck : Bool) (s : State) : State :=
  if frozen s || !cache || !(err = .lasting) || !stuck || s.rely.cacheOff.contains loc || decide (loc ≥ 65536) then s
  else
    let s1 := logEv 0x26 0x10 0 [loc] (setRely (fun r => { r with cacheOff := r.cacheOff ++ [loc] }) s)
    setEng (fun e => { e with cache := evict s1 e.cache }) s1

/-! ### The imbalance monitor (R592) -/

/-- IMBALANCE_WINDOW: the busiest channel of a die's 1 s window, its 64-byte bursts, those of all 96 channels, and the region that
held most of the channel's sample. -/
def imbalance (die chan busiest total region : Nat) (s : State) : State :=
  if frozen s || total = 0 then s
  else
    let ratio := min 4095 (busiest * 16 * 96 / total)
    let s1 :=
      if ratio ≥ getF s rlyB F.rlyImbalRatio ∨ getF s rlyB F.rlyImbalDie = die then
        setF rlyB F.rlyImbalRatio ratio (setF rlyB F.rlyImbalChannel chan (setF rlyB F.rlyImbalDie die s))
      else s
    let at_ := getK s.rely.imbAt die 0
    if busiest * 96 > 4 * total then
      if at_ = 0 ∨ s.counter + 1 ≥ at_ + 1500000000 then
        logEv 0x2F 0x0C die [chan, region] (setRely (fun r => { r with imbAt := setK r.imbAt die (s.counter + 1) 0 }) s1)
      else s1
    else setRely (fun r => { r with imbAt := setK r.imbAt die 0 0 }) s1

/-! ### The commands -/

def execSpareTestRun (p : Path) (die : Die) (acre : PAcre) (data : Word) (s : State) : Out :=
  .next (ownedWrite p (frwB (acreIx die acre)) F.frwSptestRun.off (spareTestRun (acreIx die acre) data) s)
def execAcreTestRequest (p : Path) (data : Word) (s : State) : Out := .next (ownedWrite p rlyB F.rlyTestreqGo.off (testRequest data) s)
def execLateralParityError (die : Die) (acre : PAcre) (again : Bool) (cycle : Nat) (s : State) : Out :=
  .next (lateralParity (acreIx die acre) again cycle s)
def execAccParityError (die : Die) (acre : PAcre) (acc : Fin 2) (again : Bool) (cycle : Nat) (s : State) : Out :=
  .next (accParity (acreIx die acre) (acc.val = 1) again cycle s)
def execSequencerParityError (die : Die) (acre : PAcre) (cycle : Nat) (s : State) : Out := .next (sequencerError (acreIx die acre) cycle s)
def execSequencerWatchdog (die : Die) (acre : PAcre) (cycle : Nat) (s : State) : Out := .next (sequencerError (acreIx die acre) cycle s)
def execAcreCopyDone (die : Die) (acre : PAcre) (s : State) : Out := .next (copyDone (acreIx die acre) s)
def execAcreSwap (die : Die) (acre : PAcre) (s : State) : Out := .next (acreSwap (acreIx die acre) s)
def execAcreBistRotation (die : Die) (acre : PAcre) (s : State) : Out := .next (bistRotation (acreIx die acre) s)
def execAcreSelfTestDone (die : Die) (acre : PAcre) (res : TestRes) (s : State) : Out := .next (selfTestDone (acreIx die acre) res s)
def execLockstepMismatch (pair : Fin 2) (s : State) : Out := .next (lockstep pair.val s)
def execMgmtCheckpoint (s : State) : Out := .next (checkpoint s)
def execCorePairSelfTestDone (ok : Bool) (s : State) : Out := .next (coreTestDone ok s)
def execHbmRead (addr : PAddr) (err : ReadErr) (reader : Option Executor) (s : State) : Out := .next (hbmRead addr.toNat err reader s)
def execHbmPageMigrateDone (page : Nat) (poisoned : List PAddr) (s : State) : Out :=
  .next (migrateDone page (poisoned.map (·.toNat)) s)
def execHbmPatrolScrub (stack : Stack) (addr : PAddr) (err : ReadErr) (s : State) : Out := .next (patrolScrub stack.val addr.toNat err s)
def execSramScrub (cache : Bool) (loc : Nat) (err : ReadErr) (stuck : Bool) (s : State) : Out := .next (sramScrub cache loc err stuck s)
def execImbalanceWindow (die : Die) (chan : Fin 96) (busiest total region : Nat) (s : State) : Out :=
  .next (imbalance die.val chan.val busiest total region s)

end Sys2Proof.Machine
end

