-- ==== Sys2Proof/Machine/RegCmd.lean ====
section
/-!
DEFINITION. Accesses to register space: where an address leads, which accesses are discarded and counted, plain and alias writes,
LO/HI pairs, select fields and actions (R600, R601, R604 to R609, R611 to R614, R618 to R623), and readout while frozen (R595).
-/

namespace Sys2Proof.Machine

/-! ### Where an address leads (R600, R604, R615, R616, R618) -/

/-- The register block of an address, an unpopulated slot (counted at a block), nothing mapped, or memory, which is no register. -/
inductive Place
  | block (base : Nat) (b : Blk)
  | unpop (counted : Nat)
  | unmapped
  | memory
  deriving DecidableEq, Repr

def placeOf (addr : Nat) : Place :=
  let base := addr / 0x4000 * 0x4000
  match blkOf base with
  | some b => .block base b
  | none =>
    if addr < 0x9000000000 then .memory
    else if 0xC000000000 ≤ addr ∧ addr < 0xC400000000 then .memory
    else if 0xF000000000 ≤ addr ∧ addr < 0xF001000000 then .unpop modB
    else if 0xF100000000 ≤ addr ∧ addr < 0xF104000000 then .unpop (fdcB ((addr - 0xF100000000) / 0x1000000))
    else .unmapped

/-- The fields of the register at an offset below 0x1000, WAKE_TABLE included. -/
def regFields (t : BlkTag) (off : Nat) : List Fld :=
  if off < 0x100 then fieldsHdr.filter (fun f => f.off = off)
  else if t = .drd ∧ 0x200 ≤ off ∧ off < 0x280 then
    (if off / 4 % 2 = 0 then [⟨off, 0, 10, .rw, false, 0⟩, ⟨off, 10, 10, .rw, false, 0⟩, ⟨off, 20, 10, .rw, false, 0⟩]
     else [⟨off, 0, 10, .rw, false, 0⟩, ⟨off, 10, 10, .rw, false, 0⟩, ⟨off, 20, 2, .ro, false, 0⟩])
  else (fieldsOf t).filter (fun f => f.off = off)

/-- Is an offset implemented: a header word, or a register of the block's chapter? -/
def implemented (t : BlkTag) (off : Nat) : Bool := (decide (off < 0x30) && off % 4 = 0) || (decide (0x100 ≤ off) && !(regFields t off).isEmpty)

/-- LO registers of 64-bit pairs; the HI register follows. -/
def loRegs : BlkTag → List Nat
  | .frw => [0x140, 0x160]
  | .acr => [0x108]
  | .cst => [0x118, 0x128]
  | .sph => [0x100, 0x108]
  | .scr => [0x100, 0x108]
  | .tns => [0x110]
  | .crs => [0x150]
  | .itk => [0x104]
  | .spd => [0x124]
  | .rsv => [0x104]
  | .kvc => [0x100]
  | .rng => [0x10C, 0x11C]
  | .str => [0x118, 0x120, 0x134]
  | .tly => [0x104, 0x10C, 0x114]
  | .hq => [0x104, 0x10C, 0x11C]
  | .flm => [0x10C]
  | .rly => [0x120, 0x134]
  | .mod => [0x100, 0x110]
  | _ => []

def isLo (t : BlkTag) (off : Nat) : Bool := (loRegs t).any (fun o => o = off)
def isHi (t : BlkTag) (off : Nat) : Bool := (loRegs t).any (fun o => o + 4 = off)

/-- Writable pairs: the bases of HQ, and STR_CREDIT (R608). -/
def writablePair (t : BlkTag) (lo : Nat) : Bool := (t = .hq && isLo t lo) || (t = .str && lo = 0x120)

/-! ### Latches (R607, R608) -/

/-- The key of a path's latch of the pair whose LO register lies at an address. -/
def latchKey (p : Path) (lo : Nat) : Nat := lo * 8 + pathNum p
def getLatch (s : State) (p : Path) (lo : Nat) : PairLatch := getK s.latches (latchKey p lo) {}
def setLatch (p : Path) (lo : Nat) (v : PairLatch) (s : State) : State :=
  { s with latches := setK s.latches (latchKey p lo) v {} }

/-! ### Unmapped addresses (R601) -/

/-- An access to an unmapped address is logged once per second per path. -/
def logUnmapped (p : Path) (addr : Nat) (s : State) : State :=
  let due := match lookupK s.unmappedLog (pathNum p) with
    | some c => decide (s.counter ≥ c + 25000000)
    | none => true
  if due then logEv 0x100 1 (pathNum p) [addr % 2 ^ 32, addr / 2 ^ 32] { s with unmappedLog := insertK s.unmappedLog (pathNum p) s.counter }
  else s

/-! ### Reads -/

/-- May a path read a block at an offset (R619, R594, R595, R546)? -/
def readGrant (s : State) (p : Path) (base off : Nat) : Grant :=
  match p with
  | .host _ => writeGrant s p base
  | .cores => if headgateUp s true then .ok else .closed
  | .mgmt =>
    if isFrozen s then (if s.readout || (decide (base = rlyB) && decide (0x130 ≤ off) && decide (off ≤ 0x138)) then .ok else .closed)
    else if headgateUp s false then .ok else .closed
  | .tap => if (s.fullDebug && decide (s.power.phase ≠ .off)) || (isFrozen s && s.readout) then .ok else .closed

/-- A discarded read: counted, and answered with zero. -/
def refusedRead (p : Path) (base addr kind : Nat) (s : State) : State :=
  emit (.read p addr 0) (if isFrozen s then s else countErr base (reqAt p base) (addr % 0x4000) false kind s)

/-- The value that a read of an implemented register returns: the path's latch for a HI register, else the live word. -/
def readWord (s : State) (p : Path) (base : Nat) (b : Blk) (off : Nat) : Word :=
  if isHi b.tag off then ((getLatch s p (base + off - 4)).hi).getD (liveWord s p base b off) else liveWord s p base b off

/-- What a plain read does to the latches: LO fills, HI empties. -/
def readLatch (p : Path) (base : Nat) (b : Blk) (off : Nat) (s : State) : State :=
  if isLo b.tag off then setLatch p (base + off) { getLatch s p (base + off) with hi := some (liveWord s p base b (off + 4)) } s
  else if isHi b.tag off then setLatch p (base + off - 4) { getLatch s p (base + off - 4) with hi := none } s
  else s

/-- A read of a word of register space. While frozen it changes nothing (R595). -/
def regRead (p : Path) (addr : Nat) (s : State) : State :=
  match placeOf addr with
  | .memory => s
  | .unmapped =>
    (match readGrant s p modB 0 with
     | .closed => s
     | _ => emit (.read p addr 0) (if isFrozen s then s else logUnmapped p addr s))
  | .unpop base =>
    (match readGrant s p base 0 with
     | .closed => s
     | _ => refusedRead p base addr 1 s)
  | .block base b =>
    let off := addr % 0x1000
    let region := addr % 0x4000 / 0x1000
    match readGrant s p base off with
    | .closed => s
    | .denied => refusedRead p base addr 0 s
    | .ok =>
      if addr % 4 ≠ 0 then refusedRead p base addr 2 s
      else if region = 3 then refusedRead p base addr 3 s
      else if !implemented b.tag off then refusedRead p base addr 1 s
      else
        emit (.read p addr (readWord s p base b off)) (if region = 0 && !isFrozen s then readLatch p base b off s else s)

/-! ### What a write of rw fields does -/

/-- The mask of a register's rw fields. -/
def rwMask (t : BlkTag) (off : Nat) : Nat :=
  ((regFields t off).filter (fun f => f.acc = .rw)).foldl (fun m f => m + (2 ^ f.w - 1) * 2 ^ f.lo) 0

/-- A word with its rw fields replaced. -/
def mergeRw (mask : Nat) (old new : Word) : Word :=
  let m := BitVec.ofNat 32 mask
  (old &&& ~~~m) ||| (new &&& m)

/-- IRQ_MASTER and IRQ_EN: an HQ block signals where its enabled pending bits become non-zero (R614). -/
def irqGate (base : Nat) (f : State → State) (s : State) : State := hqIrqEdge base (irqActive s base) (f s)

/-- The base of a queue of the selected pair, while the pair is disabled. -/
def setQBase (h q : Nat) (cq : Bool) (f : Nat → Nat) (s : State) : State :=
  let x := getQP s h q
  if x.en then s else setQP h q (if cq then { x with cqb := f x.cqb } else { x with sqb := f x.sqb }) s

/-- The low or high half of a base; bits [11:0] of a base are reserved. -/
def putHalf (hi : Bool) (w : Word) (v : Nat) : Nat :=
  if hi then v % 2 ^ 32 + w.toNat * 2 ^ 32 else v / 2 ^ 32 * 2 ^ 32 + w.toNat / 4096 * 4096

/-- A write of HQ_LCFG: a ledger queue that is enabled starts at unit 0, and what waits is delivered (R522, log entry 59). -/
def writeLcfg (h : Nat) (w : Word) (s : State) : State :=
  let was := getF s (hqB h) F.hqLcfgEn
  let s1 := regSet (hqB h + 0x124) (mergeRw (rwMask .hq 0x124) (regGet s (hqB h + 0x124)) w) s
  if was = 0 ∧ getF s1 (hqB h) F.hqLcfgEn = 1 then retryEnds (deliverAll h { s1 with ledq := eraseK s1.ledq h }) else s1

/-- A write of HQ_COAL: with no time limit, what waits is signalled at once (R512). -/
def writeCoal (h : Nat) (w : Word) (s : State) : State :=
  let s1 := regSet (hqB h + 0x118) (mergeRw (rwMask .hq 0x118) (regGet s (hqB h + 0x118)) w) s
  if getF s1 (hqB h) F.hqCoalCoalT = 0 then (List.range 64).foldl (fun t q => signalQP h q t) s1 else s1

/-- A write of the base (`bound` false) or bound of the selected task pair: only the pairs of task 3 (R307). -/
def writePair (p : Path) (g : Nat) (bound : Bool) (w : Word) (s : State) : State :=
  let t := selGet s p (spdB g + 0x110)
  let k := fldOf F.spdTselTask t * 4 + fldOf F.spdTselPair t
  let x := getK (getAcre s g).pairs k {}
  let y : Pair :=
    if bound then { x with bound := 64 * min 0x8000 (fldOf F.spdTboundBound w), r := fldOf F.spdTboundR w = 1, w := fldOf F.spdTboundW w = 1
                           valid := fldOf F.spdTboundValid w = 1 }
    else { x with base := 64 * fldOf F.spdTbaseBase w }
  if fldOf F.spdTselTask t = 3 then modAcre g (fun a => { a with pairs := setK a.pairs k y {} }) s else s

/-- Stores the rw fields of a register that has no further effect. -/
def storeRw (base : Nat) (t : BlkTag) (off : Nat) (w : Word) (s : State) : State :=
  regSet (base + off) (mergeRw (rwMask t off) (regGet s (base + off)) w) s

/-- The rw fields of a register take the values of a word, with what that means for the block. -/
def applyRw (p : Path) (base : Nat) (b : Blk) (off : Nat) (w : Word) (s : State) : State :=
  let g := b.die * 68 + b.inst
  if off = 0x0C ∨ off = 0x18 then irqGate base (storeRw base b.tag off w) s
  else if isSel b.tag off then
    selSet p (base + off) (mergeRw (rwMask b.tag off) (selGet s p (base + off)) w) s
  else match b.tag, off with
    | .str, 0x108 => writeShare (selHold s p) 0 w s
    | .str, 0x10C => writeShare (selHold s p) 1 w s
    | .str, 0x110 => writeShare (selHold s p) 2 w s
    | .str, 0x114 => writeShare (selHold s p) 3 w s
    | .hq, 0x104 => setQBase b.inst (selQP s p b.inst) false (putHalf false w) s
    | .hq, 0x108 => setQBase b.inst (selQP s p b.inst) false (putHalf true w) s
    | .hq, 0x10C => setQBase b.inst (selQP s p b.inst) true (putHalf false w) s
    | .hq, 0x110 => setQBase b.inst (selQP s p b.inst) true (putHalf true w) s
    | .hq, 0x114 =>
      let q := selQP s p b.inst
      if fldOf F.hqQcfgEn w = 1 then serveQP b.inst q (enableQP b.inst q w s) else requestDisableQP b.inst q w s
    | .hq, 0x118 => writeCoal b.inst w s
    | .hq, 0x124 => writeLcfg b.inst w s
    | .mod, 0x10C => roleRequest w s
    | .drd, 0x100 => setDitch (fun x => { x with capDue := true }) (storeRw base b.tag off w s)
    | .drd, 0x104 => levelWrite w s
    | .drd, 0x110 => setDitch (fun x => { x with capDue := true }) (storeRw base b.tag off w s)
    | .spd, 0x114 => writePair p g false w s
    | .spd, 0x118 => writePair p g true w s
    | _, _ => storeRw base b.tag off w s

/-! ### Actions of plain writes -/

/-- A w1c write of IRQ_STAT: an HQ block whose enabled pending bits stay non-zero sends one more message (R614). -/
def statClear (base : Nat) (data : Word) (s : State) : State :=
  let pend := getF s base F.irqStatPend
  let s1 := setF base F.irqStatPend (pend - Nat.land pend (data.toNat % 65536)) s
  match blkOf base with
  | some ⟨.hq, h, _, _⟩ => whenB (irqActive s1 base ≠ 0) (signalVec h (getF s1 base F.hqIrqcfgVector)) s1
  | _ => s1

/-- BLK_CTRL: IRQ_MASTER, and ERR_CLR clears the error record. -/
def ctrlWrite (base : Nat) (t : BlkTag) (data : Word) (s : State) : State :=
  let s1 := irqGate base (storeRw base t 0x0C data) s
  if data.getLsbD 8 then regSet (base + 0x20) 0 (regSet (base + 0x24) 0 (regSet (base + 0x28) 0 s1)) else s1

/-- MOD_ALERT: SEV_MIN, and CLEAR releases the pin. -/
def alertWrite (data : Word) (s : State) : State :=
  let s1 := setF modB F.modAlertSevMin (fldOf F.modAlertSevMin data) s
  if data.getLsbD 1 then setF modB F.modAlertAsserted 0 s1 else s1

/-- A signed 64-bit sum that saturates. -/
def satAdd64 (a b : Int) : Int := max (-(2 ^ 63 : Nat)) (min ((2 ^ 63 : Nat) - 1) (a + b))

/-- The 64-bit value of a HI write: the staged LO, or the LO in force. -/
def pairValue (p : Path) (lo : Nat) (inForce hi : Word) (s : State) : Nat :=
  (((getLatch s p lo).staged).getD inForce).toNat + hi.toNat * 2 ^ 32

/-- Drops a staged LO. -/
def unstage (p : Path) (lo : Nat) (s : State) : State := setLatch p lo { getLatch s p lo with staged := none } s

/-- STR_CREDIT_HI: the staged 64-bit signed credit is added to the selected holding's balance, saturating (R608). -/
def credit (p : Path) (hi : Word) (s : State) : State :=
  let v := sext 64 (pairValue p (strB + 0x120) 0 hi s)
  let h := selHold s p
  unstage p (strB + 0x120) (setHold h { getHold s h with balance := satAdd64 (getHold s h).balance v } s)

/-- A plain write of the HI register of a base pair takes the whole value (R608). -/
def pairWrite (p : Path) (base : Nat) (b : Blk) (lo : Nat) (hi : Word) (s : State) : State :=
  let v := pairValue p (base + lo) (liveWord s p base b lo) hi s
  unstage p (base + lo) (applyRw p base b (lo + 4) hi (applyRw p base b lo (BitVec.ofNat 32 v) s))

/-- A plain write of an implemented register. -/
def plainWrite (p : Path) (base : Nat) (b : Blk) (off : Nat) (data : Word) (s : State) : State :=
  let g := b.die * 68 + b.inst
  if writablePair b.tag off then setLatch p (base + off) { getLatch s p (base + off) with staged := some data } s
  else if decide (off ≥ 4) && writablePair b.tag (off - 4) then
    (if b.tag = .str then credit p data s else pairWrite p base b (off - 4) data s)
  else match b.tag, off with
    | t, 0x0C => ctrlWrite base t data s
    | _, 0x14 => statClear base data s
    | _, 0x1C => irqRaise base (data.toNat % 65536) s
    | .mod, 0x11C => alertWrite data s
    | .frw, 0x170 => spareTestRun g data s
    | .spd, 0x100 => sluiceGo g data s
    | .spd, 0x130 => bistRun g data s
    | .rly, 0x10C => testRequest data s
    | _, _ => applyRw p base b off data s

/-- A write through the bit-set (`set`) or bit-clear alias: only rw fields, one read-modify-write (R606); a staged LO of the pair is
discarded (R608). -/
def aliasOf (set : Bool) (p : Path) (base : Nat) (b : Blk) (off : Nat) (data : Word) (s : State) : State :=
  let old := liveWord s p base b off
  let new := if set then old ||| data else old &&& ~~~data
  let lo := if isHi b.tag off then off - 4 else off
  let s1 := if writablePair b.tag lo then unstage p (base + lo) s else s
  if rwMask b.tag off = 0 then s1 else applyRw p base b off (mergeRw (rwMask b.tag off) old new) s1

/-- A write of a word of register space (R604 to R606, R618 to R620). -/
def regWrite (p : Path) (addr : Nat) (data : Word) (be : Nat) (s : State) : State :=
  match placeOf addr with
  | .memory => s
  | .unmapped => if isFrozen s || decide (writeGrant s p modB = .closed) then s else logUnmapped p addr s
  | .unpop base =>
    (match writeGrant s p base with
     | .closed => s
     | _ => countErr base (reqAt p base) (addr % 0x4000) true 1 s)
  | .block base b =>
    let off := addr % 0x1000
    let region := addr % 0x4000 / 0x1000
    let err (kind : Nat) : State := countErr base (reqAt p base) (addr % 0x4000) true kind s
    match writeGrant s p base with
    | .closed => s
    | .denied => err 0
    | .ok =>
      if addr % 4 ≠ 0 ∨ be ≠ 15 then err 2
      else if region = 3 then err 3
      else if !implemented b.tag off then err 1
      else if region = 0 then plainWrite p base b off data s
      else aliasOf (region = 1) p base b off data s

/-! ### Readout while frozen (R595) -/

/-- TAP_READOUT: with an accepted token any part of *Table: Freeze readout*; without one the freeze registers and the event log. -/
def tapReadout (what : Readout) (s : State) : State :=
  if !isFrozen s then s
  else
    let full := s.readout || s.fullDebug
    match what with
    | .reg addr =>
      let a := addr.toNat
      (match placeOf a with
       | .block base b =>
         if (full || (decide (base = rlyB) && decide (0x130 ≤ a % 0x1000) && decide (a % 0x1000 ≤ 0x138))) && implemented b.tag (a % 0x1000) then
           emit (.read .tap a (liveWord s .tap base b (a % 0x1000))) s
         else s
       | _ => s)
    | .log seq => emit (.mgmtData ((s.log.filter (fun e => e.seq = seq)).flatMap logBytes)) s
    | .spad die acre off =>
      if full then emit (.mgmtData ((List.range 8).map (fun i => getK s.spad (spadKey (acreIx die acre) (off.val / 8 * 8 + i)) memDefault))) s
      else s
    | .acc die acre acc entry =>
      if full then
        emit (.mgmtData (leBytes 4 (toBits 32 (getK (getAcc (getAcre s (acreIx die acre)) (acc.val = 1)).ents entry.val 0)))) s
      else s
    | .weights die acre m setB row =>
      if full then
        let x := getK (getAcre s (acreIx die acre)).macros m.val {}
        emit (.mgmtData (leBytes 64 (getK (if setB then x.b else x.a).rows row.val 0).toNat)) s
      else s
    | .engine _ => if full then let (n, t) := nextFree s; emit (.mgmtData (leBytes 4 (Config.freeWord n).toNat)) t else s

/-! ### The commands -/

/-- A command that holds only for registers at certain offsets of their slots. -/
def atOffset (ok : Blk → Nat → Bool) (addr : Nat) (f : State → State) (s : State) : State :=
  match placeOf addr with
  | .block _ b => if ok b (addr % 0x4000) then f s else s
  | _ => s

def execRegisterWrite (p : Path) (addr : PAddr) (data : Word) (be : BitVec 4) (s : State) : Out :=
  .next (regWrite p addr.toNat data be.toNat s)
def execRegisterAliasWrite (p : Path) (addr : PAddr) (data : Word) (be : BitVec 4) (s : State) : Out :=
  .next (atOffset (fun _ o => decide (0x1000 ≤ o) && decide (o < 0x3000)) addr.toNat (regWrite p addr.toNat data be.toNat) s)
def execRegisterRead (p : Path) (addr : PAddr) (s : State) : Out := .next (regRead p addr.toNat s)
def execLoRead (p : Path) (addr : PAddr) (s : State) : Out := .next (atOffset (fun b o => isLo b.tag o) addr.toNat (regRead p addr.toNat) s)
def execHiRead (p : Path) (addr : PAddr) (s : State) : Out := .next (atOffset (fun b o => isHi b.tag o) addr.toNat (regRead p addr.toNat) s)
def execLoWrite (p : Path) (addr : PAddr) (data : Word) (s : State) : Out :=
  .next (atOffset (fun b o => isLo b.tag o) addr.toNat (regWrite p addr.toNat data 15) s)
def execHiWrite (p : Path) (addr : PAddr) (data : Word) (s : State) : Out :=
  .next (atOffset (fun b o => isHi b.tag o) addr.toNat (regWrite p addr.toNat data 15) s)
def execStrCredit (p : Path) (data : Word) (s : State) : Out := .next (ownedWrite p strB 0x124 (credit p data) s)
def execIrqStatClear (p : Path) (addr : PAddr) (data : Word) (s : State) : Out :=
  .next (atOffset (fun _ o => decide (o = 0x14)) addr.toNat (regWrite p addr.toNat data 15) s)
def execIrqForce (p : Path) (addr : PAddr) (data : Word) (s : State) : Out :=
  .next (atOffset (fun _ o => decide (o = 0x1C)) addr.toNat (regWrite p addr.toNat data 15) s)
def execErrClr (p : Path) (addr : PAddr) (data : Word) (s : State) : Out :=
  .next (atOffset (fun _ o => decide (o = 0x0C) && data.getLsbD 8) addr.toNat (regWrite p addr.toNat data 15) s)
def execModAlertClear (p : Path) (data : Word) (s : State) : Out := .next (ownedWrite p modB 0x11C (alertWrite data) s)
def execTapReadout (what : Readout) (s : State) : Out := .next (tapReadout what s)

end Sys2Proof.Machine
end

