-- ==== Sys2Proof/Machine/Sample.lean ====
section
/-!
DEFINITION. SAMPLING (R129, R417): the stream engine's row records of the streams of a step, the sampling course, and
the token of each row as the step takes it at its end. The rows of a course come as the command's operand (log
entry 56).
-/

namespace Sys2Proof.Machine

/-- A stream's row record (R129, R402). -/
def rowRecord (x : Stream) : List Byte :=
  leBytes 4 x.temp.toNat ++ leBytes 4 x.topk ++ leBytes 4 x.topp.toNat ++ leBytes 4 0 ++ leBytes 8 x.seed
    ++ leBytes 4 x.new ++ leBytes 4 0

/-- The stream engine's row records go to PADDR at the issue, one for each row. -/
def fillRowRecs (iss : Issue) (rows : List Nat) (s : State) : State :=
  match courseDesc s iss with
  | none => s
  | some (_, d) =>
    let g := execAcre s d
    if frozen s || rows.isEmpty || runsIssue s g iss || pendsIssue s g iss then s
    else (rows.zipIdx).foldl (fun t e =>
      match getStream t e.1 with
      | some x => wrMem (physAddr (dP d) + 32 * e.2) (rowRecord x) t
      | none => t) s

/-- The token of a row goes to its stream in the step or sweep that the course belongs to. -/
def noteToken (w : Work) (id tok : Nat) (s : State) : State :=
  match stepOfWork w with
  | some k =>
    let r := stepRun s k
    if r.running && r.streams.contains id then setStepRun k { r with toks := insertK r.toks id tok } s else s
  | none => s

/-- One row of a SAMPLE course whose rows belong to streams. -/
def stepSampleTile (rows : List Nat) (g : Nat) (c : CourseRun) (n : Nat) (s : State) : TileRes :=
  match sampleTile g c n s with
  | .done t =>
    match rows[n]?, tileOut s c n (physAddr (dY c.desc) + 4 * n) with
    | some id, some y => .done (noteToken c.issue.work id (rdLE t y 4) t)
    | _, _ => .done t
  | r => r

def sampling (iss : Issue) (rows : List Nat) (s : State) : State :=
  vecCourse 0x17 (fun g => walkOf (stepSampleTile rows g)) iss (fillRowRecs iss rows s)

def execSampling (iss : Issue) (rows : List StreamId) (s : State) : Out := .next (sampling iss (rows.map (·.toNat)) s)

end Sys2Proof.Machine
end

