-- ==== Sys2Proof/Machine/Startup.lean ====
section
/-!
DEFINITION. Start-up and resets: what a cold power-on and a module reset reset and keep (R21, R621, R639, R640, R642, R643), the rail
order and its holds (R630, R638, R641, R649), the 52 V input (R625, R626, R628, R631), the reference clock (R634), the coupling
sensors (R485, R638) and configuration requests (R637). Choices are log entry 62.
-/

namespace Sys2Proof.Machine

def setPower (f : Power → Power) (s : State) : State := { s with power := f s.power }

/-! ### Registers (R21, R621, R642) -/

/-- Fields that the fuse map, the flash journal or the Charter hold: they keep their values through a cold power-on. -/
def keptCold (t : BlkTag) (f : Fld) : Bool :=
  match t with
  | .frw => decide (f.off < 0x14C)
  | .spd => f.off = 0x12C
  | .rng => f.off = 0x108 && decide (f.lo < 16)
  | .sph => f = F.sphLanesInService
  | .rly => f.off = 0x108 || f.off = 0x120 || f.off = 0x124 || f = F.rlyCoresSigners
  | .fwu => f = F.fwuStatCommitted || f = F.fwuStatSlotA || f = F.fwuStatSlotB
  | .cht => (f.off = 0x100 && decide (f.lo < 24)) || f.off = 0x104
  | .mod => f = F.modRoleCurrent || f = F.modSerialLoSerLo || f = F.modSerialHiSerHi
  | .tly => f = F.tlyCoefInstalled
  | _ => false

/-- Fields that keep their values through a module reset: all outside the field dies and the stream engine, and sticky ones. -/
def keptModule (t : BlkTag) (f : Fld) : Bool :=
  match t with
  | .mod | .cht | .fwu | .rly | .drd | .tly | .itk | .flm | .hq => true
  | _ => f.st || keptCold t f

/-- The word of a register after a reset that keeps some of its fields. -/
def keptWord (keep : BlkTag → Fld → Bool) (addr : Nat) (w : Word) : Word :=
  match blkOf (addr / 0x4000 * 0x4000) with
  | none => w
  | some b => ((regFields b.tag (addr % 0x4000)).filter (keep b.tag)).foldl (fun v f => fldPut f (fldOf f w) v) (resetAt addr)

/-- Every register after such a reset; latches and selects that the reset does not keep are empty. -/
def resetRegs (keep : BlkTag → Fld → Bool) (latch : Nat → Bool) (s : State) : State :=
  { s with
    regs := s.regs.filterMap (fun e => let w := keptWord keep e.1 e.2; if w = resetAt e.1 then none else some (e.1, w))
    latches := s.latches.filter (fun e => latch (e.1 / 8))
    selects := s.selects.filter (fun e => latch (e.1 / 8)) }

/-! ### What the retirement list, the basin map and HBM hold (R471, R589, R639, R640) -/

/-- An acre after a reset: what is fused or in the retirement list, and the powered time since its latest test. -/
def keptAcre (counter : Nat) (a : Acre) : Acre :=
  { retired := a.retired, life := a.life, fused := a.fused, guard := a.guard, colRepair := a.colRepair
    bistAge := a.bistAge + (counter - a.testedAt) }

/-- A basin after a reset: the basin map's entry with cells and trims; windows of the monitors start anew. -/
def keptBasin (s : State) (b : Basin) : Basin :=
  { b with burst := 0, refDue := [], winGroups := 0, winSplits := 0, winCarry := 0, windows := 0, nearConv := 0, nearHits := 0, mon1 := 0
           overdue := false, queued := false, overdueN := 0, armed := none
           ageH := basinAge s b / 90000000000, ageFrom := 0 }

def keptPlot (p : Plot) : Plot := { st := p.st, owner := p.owner, image := p.image, lplot := p.lplot }

/-- An image after a reset: STAGING with its plots and owner, to be staged again; one that is being released goes on. -/
def keptImage (im : Image) : Image :=
  { handle := im.handle, owner := im.owner, mask := im.mask, size := im.size, plots := im.plots
    st := if im.st = .releasing then .releasing else .staging, cleared := im.st = .releasing && im.cleared }

/-- Does an image return: at a cold power-on one that is bound to plots, at a module reset every one not refused (R639, R642)? -/
def imageReturns (cold : Bool) (im : Image) : Bool := im.st ≠ .refused && (!cold || !im.plots.isEmpty)

/-- The Cistern after a reset. -/
def keptCistern (s : State) : Cistern :=
  { basins := s.cist.basins.map (fun e => (e.1, keptBasin s e.2))
    plots := s.cist.plots.map (fun e => (e.1, keptPlot e.2))
    repairs := s.cist.repairs.filter (fun r => !r.gone)
    lanesOut := s.cist.lanesOut }

/-- A link after a reset: its spare lanes and width. -/
def keptLink (l : LinkSt) : LinkSt := { spares := l.spares, half := l.half }

/-- A firmware update that a reset meets before its commit: the slot stays staged (R563). -/
def dropUpdate (s : State) : State :=
  match s.trust.update with
  | some u => setF fwuB (slotFld u.slot) 2 (setTrust (fun t => { t with update := none, trial := none, tried := false }) s)
  | none => setTrust (fun t => { t with trial := none, tried := false }) s

/-! ### The sequence (R630, R636, R638, R649) -/

/-- The step of R630 that brings a rail up. -/
def railStep : Rail → Nat
  | .vstby => 1
  | .v12ib => 2
  | .vddHg | .vioHg => 3
  | .vddFd _ | .vddsFd _ | .vioFd _ => 4
  | .vhbm _ => 5
  | .vcis _ | .varr _ => 6
  | .input => 0

/-- Does the next step wait: for the undervoltage alert, or for cooling before step 4? -/
def mustWait (s : State) : Bool := s.ditch.alerts.contains .input || (s.power.step = 3 && coolBad s)

/-- The sequence holds where the next step must wait; cooling out of specification is logged once. -/
def seqGate (s : State) : State :=
  if !mustWait s then s
  else
    let s1 := setPower (fun p => { p with wait := true, phase := if p.step ≥ 3 then .hold else p.phase }) s
    if s.power.step = 3 && coolBad s && !s.power.coolLogged then
      drdEvent 0x0C 1 0 [s.ditch.inlet, s.ditch.flow] (setPower (fun p => { p with coolLogged := true }) s1)
    else s1

/-- The sequence goes on where nothing holds it any more. -/
def seqResume (s : State) : State :=
  if s.power.wait && decide (s.power.phase ≠ .off) && !mustWait s then setPower (fun p => { p with wait := false, phase := if p.phase = .hold then .starting else p.phase }) s
  else s

/-- The module enters Service: interrupted basins are recovered, after a cold power-on every programmed basin is queued for
recalibration, and admission opens. -/
def enterService (s : State) : State :=
  let s1 := basinRecovery { s with power := { s.power with phase := .service } }
  let s2 := if s.power.cold then ((s1.cist.basins.map (·.1)).filter (fun b => serving s1 (getBasin s1 b))).foldl (fun t b => queueDue b t) s1
    else s1
  let s3 := refreshClosed s2
  if s3.ditch.alerts.isEmpty then s3 else trickleEnter s3

/-- The Headgate leaves reset: FREEZE_N counts from here on, since the ROM has read the Charter, and the boot chain runs. -/
def headgateStart (s : State) : State :=
  let s1 := bootChain s
  if s1.rely.pinLow && policy s1 F.chtLifeFreeze = 0 then freezeNow (setF rlyB F.rlyFreezeByPin 1 s1) else s1

/-- RAIL_GOOD: a step's rails hold; the next step starts, and after the last one the module enters Service. -/
def railGood (step : Nat) (s : State) : State :=
  if isFrozen s || s.power.phase ≠ .starting || s.power.wait || step ≠ s.power.step + 1 then s
  else
    let s1 := setPower (fun p => { p with step := step }) s
    let s2 := if step = 3 then headgateStart s1 else s1
    if s2.power.phase ≠ .starting then s2
    else if step = 6 then enterService s2
    else seqGate s2

/-- RAIL_TIMEOUT: a rail of the step that runs stops the sequence (R630, R641). -/
def railTimeout (r : Rail) (s : State) : State :=
  if isFrozen s || s.power.phase ≠ .starting || s.power.wait || railStep r ≠ s.power.step + 1 then s
  else
    logEv 0x31 1 (railNum r) [railNum r] (setDitch (fun x => { x with railsOff := x.railsOff ++ [r] })
      (drdEvent 0x03 1 0 [railNum r] (setPower (fun p => { p with phase := .railStop }) s)))

/-- COOLANT_RESUME. -/
def coolantResume (s : State) : State := if isFrozen s then s else seqResume s

/-! ### Cold power-on (R636, R639, R642) -/

/-- The state in which a cold power-on begins: what is sticky by journal, fuse or Charter, and everything else at reset. -/
def coldReset (s : State) : State :=
  let t := resetRegs keptCold (fun _ => false) s
  let ims := s.images.filter (fun e => imageReturns true e.2)
  { State.reset with
    pending := s.pending, freeCtr := s.freeCtr, emitted := s.emitted, serial := s.serial, epoch := s.epoch + 1
    regs := t.regs, rsvDisabled := s.rsvDisabled
    acres := s.acres.map (fun e => (e.1, keptAcre s.counter e.2)), amap := s.amap, doubled := s.doubled, beyond := s.beyond
    images := ims.map (fun e => (e.1, keptImage e.2)), nextImage := s.nextImage, cist := keptCistern s, journal := s.journal
    ring := { modeDue := true }
    ditch := {
      dies := s.ditch.dies.map (fun e => (e.1, ({ offset := e.2.offset } : DieClk)))
      phases := s.ditch.phases, blades := s.ditch.blades
      links := s.ditch.links.map (fun e => (e.1, keptLink e.2)) }
    tally := {
      q := s.tally.qRes + 1024, qRes := s.tally.qRes, prevRoot := s.tally.prevRoot
      page := { unclean := !s.tally.clean, coef := getF s tlyB F.tlyCoefInstalled } }
    trust := s.trust
    rely := { moved := s.rely.moved, retired := s.rely.retired, used := s.rely.used, cacheOff := s.rely.cacheOff
              coresLost := s.rely.coresLost, pinLow := s.rely.pinLow } }

/-- The registers that show what the journals hold: the role, the coefficient set, q_res, a retired core pair. -/
def journalShown (old : State) (s : State) : State :=
  let s1 := setF modB F.modRoleReq (moduleRole s) s
  let s2 := setF tlyB F.tlyCoefInForce (getF s1 tlyB F.tlyCoefInstalled) s1
  let s3 := setRes s2.tally.qRes s2
  if standby old = 3 then setF rlyB F.rlyCoresActive (getF old rlyB F.rlyCoresActive) (setStandby 3 s3) else s3

/-- The first page of an epoch that follows one without a shutdown close is UNCLEAN (R458). -/
def uncleanStart (s : State) : State :=
  if s.tally.page.unclean then
    [0, 1, 2, 3, 15].foldl (fun t h => tallyEvent h 0x79 [] t) (setF tlyB F.tlyStatUnclean 1 s)
  else s

/-- COLD_POWER_ON: MOD_ADDR is sampled, the reference and the coupling sensors are read, the journals are read, and step 1 of
R630 runs. -/
def coldStart (pins : Nat) (ref : Bool) (inlet flow : Nat) (s : State) : State :=
  let s1 := journalShown s (coldReset s)
  let s2 := showCap (setDitch (fun x => { x with inlet := inlet, flow := flow }) s1)
  let s3 := setPower (fun _ => { phase := .starting, step := 0, cold := true, osc := !ref, addrPins := pins, addr := pins }) s2
  let s4 := if ref then s3 else setF modB F.modAlertAsserted 1 (drdEvent 0x0D 1 0 [] s3)
  refreshClosed (uncleanStart (attestPowerOn (dropUpdate s4)))

def coldPowerOn (pins : Nat) (ref : Bool) (inlet flow : Nat) (s : State) : State :=
  if s.power.opened then s else coldStart pins ref inlet flow s

/-- OVERVOLTAGE_RESTART: only after the hot-swap controller opened. -/
def overvoltageRestart (pins : Nat) (ref : Bool) (inlet flow : Nat) (s : State) : State :=
  if s.power.opened then coldStart pins ref inlet flow s else s

/-! ### Module reset (R643, R649) -/

/-- A health window reverts, and an update that has not reached one is abandoned, before the reset. -/
def endUpdate (s : State) : State :=
  if fwPhase s = 4 then fwFence (revertUpdate s)
  else if fwPhase s = 5 then fwFence s
  else abandonUpdate s

/-- A role change in progress is completed. -/
def endRole (s : State) : State :=
  match s.eng.roleTo with
  | none => s
  | some r => setEng (fun e => { e with roleTo := none })
      (setF modB F.modRoleStep 0 (setF modB F.modRoleChanging 0 (setF modB F.modRoleCurrent r s)))

/-- One stream that is not DONE ends: with the status that waits for its commit point, else with ABORTED. -/
def endNow (s : State) (x : Stream) : State :=
  if x.st = .done then s
  else match x.ending with
    | some st => commitEnd x.id st s
    | none => commitEnd x.id (strStatus x 2) (modStream x.id (fun y => { y with new := y.new - y.toks.length, toks := [] }) s)

/-- Training that runs is answered with ABORTED. -/
def endTraining (s : State) : State :=
  match s.eng.training with
  | some t => respond t.cmd (statusWord t.cmd.by_ 0 0x10 2) t.cmd.handle t.ran 0 0 (setEng (fun e => { e with training := none }) s)
  | none => s

/-- Channels into images and regions close, since what they write to is freed. -/
def endChannels (s : State) : State :=
  ((s.chans.filter (fun e => e.2.kind = .stage || e.2.kind = .region)).map (·.1)).foldl (fun t k => closeChan k t) s

/-- Steps 1 to 3: admission closes, streams end and their records are written, the ledger page closes with CAUSE 0x2. -/
def resetPrepare (s : State) : State :=
  let s1 := endTraining (endRole (endUpdate s))
  let s2 := (s1.eng.streams.map (·.2)).foldl endNow s1
  endChannels (closePage 2 (completeTerms s2))

/-- Steps 4 and 5: what a module reset resets. -/
def moduleResetState (s : State) : State :=
  let t := resetRegs keptModule (fun a => decide (a < 0xF100000000) && decide (a / 0x4000 ≠ strB / 0x4000)) s
  let ims := s.images.filter (fun e => imageReturns false e.2)
  { t with
    acres := s.acres.map (fun e => (e.1, { keptAcre 0 e.2 with bistAge := e.2.bistAge, testedAt := e.2.testedAt }))
    spad := [], swaps := [], wakeQ := [], testQ := [], testing := [], issued := []
    gates := [], broken := [], records := [], satur := []
    images := ims.map (fun e => (e.1, keptImage e.2))
    cist := { keptCistern s with basins := s.cist.basins.map (fun e => (e.1, { keptBasin s e.2 with ageH := e.2.ageH, ageFrom := e.2.ageFrom })) }
    pages := []
    ring := { modeDue := true, lastFence := s.counter, winFrom := s.counter }
    ditch := { s.ditch with
      dies := s.ditch.dies.map (fun e => (e.1, ({ offset := e.2.offset } : DieClk))), hbm := []
      links := s.ditch.links.map (fun e => (e.1, keptLink e.2)), exitDue := false, phaseDone := [], deepWake := false }
    eng := { gens := s.eng.gens, lastId := s.eng.lastId, admits := s.eng.admits, stepNo := s.eng.stepNo }
    trust := { s.trust with spdm := [], nonce := none }
    rely := { s.rely with pageErr := [], migrating := [], patrol := [], imbAt := [] }
    power := { s.power with phase := .starting, step := 3, wait := false, cold := false, coolLogged := false } }

/-- The warm boot checks the committed slot again; the alias keys and their tree stay where the measurements are the same. -/
def warmBoot (s : State) : State :=
  let s1 := bootChain s
  setTrust (fun t => { t with treeUp := s.trust.treeUp && decide (t.aliasNo = s.trust.aliasNo) }) s1

/-- MODULE_RESET: answered busy while one runs. -/
def moduleReset (s : State) : State :=
  if isFrozen s || s.rely.coresLost then s
  else match s.power.phase with
    | .service =>
      let s1 := warmBoot (setF drdB F.drdLevelPending 0 (setF drdB F.drdLevelLevel 0 (moduleResetState (resetPrepare s))))
      emit (.mgmt 0x203 0 0 0 0 0) (refreshClosed (if s1.power.phase = .starting then seqGate s1 else s1))
    | .starting => if s.power.step ≥ 3 then emit (.busy 3) s else s
    | .hold => emit (.busy 3) s
    | _ => s

/-! ### The input (R625, R626, R628, R631) -/

/-- The module turns off; what only power held is gone, as the next cold power-on finds it. -/
def powerOff (s : State) : State :=
  setPower (fun p => { p with phase := .off, step := 0, wait := false }) { s with hostLink := [] }

def inputPowerLoss (s : State) : State := if s.power.phase = .off then s else powerOff s

def inputOvervoltage (s : State) : State := setPower (fun p => { p with opened := true }) (powerOff s)

/-- INPUT_UNDERVOLTAGE: the monitor is one of the regulator alert lines; INPUT_LOW is logged. -/
def inputUndervoltage (s : State) : State :=
  if s.power.phase = .off || s.ditch.alerts.contains .input then s
  else regulatorAlert .input (if isFrozen s then s else drdEvent 0x0E 1 0 [] s)

def inputUndervoltageClear (s : State) : State := seqResume (regulatorClear .input s)

/-- INPUT_HIGH: once per cold power-on. -/
def inputHighSeen (s : State) : State :=
  if isFrozen s || s.power.phase = .off || s.ditch.inputHigh then s
  else drdEvent 0x0F 1 0 [] (setDitch (fun x => { x with inputHigh := true }) s)

/-- BLADE_FUSE_OPEN: a phase loss of the input at once; with both pairs open the module has no input. -/
def bladeFuse (pair : Nat) (s : State) : State :=
  if s.power.phase = .off || s.ditch.blades.contains pair then s
  else
    let s1 := whenB (!isFrozen s) showCap (setDitch (fun x => { x with blades := x.blades ++ [pair], capDue := true }) s)
    let s2 := if isFrozen s then s1 else drdEvent 0x02 1 0 [railNum .input, pair] s1
    if s2.ditch.blades.length ≥ 2 then powerOff s2 else s2

/-! ### The reference and the sensors (R634, R638, R485) -/

/-- REFCLK_LOST: the internal oscillator takes over; MOD_ALERT_N goes low. -/
def refclkLost (s : State) : State :=
  if s.power.phase = .off || s.power.osc then s
  else
    let s1 := setPower (fun p => { p with osc := true }) s
    if isFrozen s then s1 else setF modB F.modAlertAsserted 1 (drdEvent 0x0D 1 0 [] s1)

def refclkReturn (s : State) : State := if s.power.phase = .off then s else setPower (fun p => { p with osc := false }) s

/-- COOLANT_READING: in service the derate follows; in start-up the reading decides whether step 4 may start. -/
def coolantReading (inlet flow : Nat) (s : State) : State :=
  if isFrozen s || s.power.phase = .off then s
  else if s.power.phase = .service then coolantSensors inlet flow s
  else showCap (setDitch (fun x => { x with inlet := inlet, flow := flow }) s)

/-! ### Configuration requests (R637, R546) -/

/-- Is the configuration space of the host ports served: from 119.7 ms after the start, 98.7 ms after the counter started at 0? -/
def configUp (s : State) : Bool :=
  match s.power.phase with
  | .service | .recovery | .railStop => true
  | .starting => !s.power.cold || decide (s.counter ≥ 2467500)
  | _ => false

/-- CONFIG_REQUEST to an enabled host port. -/
def configRequest (h : Nat) (s : State) : State :=
  if isFrozen s || s.power.phase = .off || !portOn s h then s else emit (.config h (!configUp s)) s

/-! ### The commands -/

def execModuleReset (s : State) : Out := .next (moduleReset s)
def execColdPowerOn (pins : Fin 8) (ref : Bool) (inlet flow : Nat) (s : State) : Out := .next (coldPowerOn pins.val ref inlet flow s)
def execRailGood (step : Fin 7) (s : State) : Out := .next (railGood step.val s)
def execRailTimeout (rail : Rail) (s : State) : Out := .next (railTimeout rail s)
def execCoolantResume (s : State) : Out := .next (coolantResume s)
def execInputPowerLoss (s : State) : Out := .next (inputPowerLoss s)
def execInputUndervoltage (s : State) : Out := .next (inputUndervoltage s)
def execInputUndervoltageClear (s : State) : Out := .next (inputUndervoltageClear s)
def execInputHigh (s : State) : Out := .next (inputHighSeen s)
def execInputOvervoltage (s : State) : Out := .next (inputOvervoltage s)
def execOvervoltageRestart (pins : Fin 8) (ref : Bool) (inlet flow : Nat) (s : State) : Out :=
  .next (overvoltageRestart pins.val ref inlet flow s)
def execBladeFuseOpen (pair : Fin 2) (s : State) : Out := .next (bladeFuse pair.val s)
def execRefclkLost (s : State) : Out := .next (refclkLost s)
def execRefclkReturn (s : State) : Out := .next (refclkReturn s)
def execCoolantReading (inlet flow : Nat) (s : State) : Out := .next (coolantReading inlet flow s)
def execConfigRequest (h : Holding) (s : State) : Out := .next (configRequest h.val s)

end Sys2Proof.Machine
end

