-- ==== Sys2Proof/Machine/Dispatch.lean ====
section
/-!
DEFINITION. The meaning of each command: one arm per constructor of `Instr`, each one call of its meaning.
-/

namespace Sys2Proof.Machine

def exec (i : Instr) (s : State) : Host.Outcome State Fault Refusal :=
  match i with
  | .registerWrite p addr data be => Sys2Proof.Machine.execRegisterWrite p addr data be s
  | .registerAliasWrite p addr data be => Sys2Proof.Machine.execRegisterAliasWrite p addr data be s
  | .loRead p addr => Sys2Proof.Machine.execLoRead p addr s
  | .hiRead p addr => Sys2Proof.Machine.execHiRead p addr s
  | .loWrite p addr data => Sys2Proof.Machine.execLoWrite p addr data s
  | .hiWrite p addr data => Sys2Proof.Machine.execHiWrite p addr data s
  | .strCredit p data => Sys2Proof.Machine.execStrCredit p data s
  | .irqStatClear p addr data => Sys2Proof.Machine.execIrqStatClear p addr data s
  | .irqForce p addr data => Sys2Proof.Machine.execIrqForce p addr data s
  | .errClr p addr data => Sys2Proof.Machine.execErrClr p addr data s
  | .roleRequest p data => Sys2Proof.Machine.execRoleRequest p data s
  | .roleSwitch => Sys2Proof.Machine.execRoleSwitch s
  | .modAlertClear p data => Sys2Proof.Machine.execModAlertClear p data s
  | .shareWrite p reg data => Sys2Proof.Machine.execShareWrite p reg data s
  | .capWrite p data => Sys2Proof.Machine.execCapWrite p data s
  | .deepRequest p data => Sys2Proof.Machine.execDeepRequest p data s
  | .deepRequestEnd p data => Sys2Proof.Machine.execDeepRequestEnd p data s
  | .sluiceGo p die acre data => Sys2Proof.Machine.execSluiceGo p die acre data s
  | .sluiceComplete die acre => Sys2Proof.Machine.execSluiceComplete die acre s
  | .bistRun p die acre data => Sys2Proof.Machine.execBistRun p die acre data s
  | .bistDone die acre fail => Sys2Proof.Machine.execBistDone die acre fail s
  | .spareTestRun p die acre data => Sys2Proof.Machine.execSpareTestRun p die acre data s
  | .spareSelfTest die acre => Sys2Proof.Machine.execSpareSelfTest die acre s
  | .spareTestDone die acre sp fail => Sys2Proof.Machine.execSpareTestDone die acre sp fail s
  | .acreTestRequest p data => Sys2Proof.Machine.execAcreTestRequest p data s
  | .scratchpadAccess a => Sys2Proof.Machine.execScratchpadAccess a s
  | .scratchpadAliasWrite a set => Sys2Proof.Machine.execScratchpadAliasWrite a set s
  | .circWrite die acre bank data => Sys2Proof.Machine.execCircWrite die acre bank data s
  | .circRead die acre bank line => Sys2Proof.Machine.execCircRead die acre bank line s
  | .eccWriteback die acre word => Sys2Proof.Machine.execEccWriteback die acre word s
  | .columnRepairDone die acre bank => Sys2Proof.Machine.execColumnRepairDone die acre bank s
  | .scrubLine die acre errs cycle => Sys2Proof.Machine.execScrubLine die acre errs cycle s
  | .mgmtWordTimeout die acre off write => Sys2Proof.Machine.execMgmtWordTimeout die acre off write s
  | .reservoirScrub die line err dirty loc => Sys2Proof.Machine.execReservoirScrub die line err dirty loc s
  | .atomicAdd die acre => Sys2Proof.Machine.execAtomicAdd die acre s
  | .furrowPass die acre stall => Sys2Proof.Machine.execFurrowPass die acre stall s
  | .passResidueCompare die acre errs => Sys2Proof.Machine.execPassResidueCompare die acre errs s
  | .residueRepeatDone die acre m errs cycle => Sys2Proof.Machine.execResidueRepeatDone die acre m errs cycle s
  | .weightLoadStart die acre m => Sys2Proof.Machine.execWeightLoadStart die acre m s
  | .weightLoadDone die acre m => Sys2Proof.Machine.execWeightLoadDone die acre m s
  | .setNotReady die acre => Sys2Proof.Machine.execSetNotReady die acre s
  | .accPreloadStart die acre => Sys2Proof.Machine.execAccPreloadStart die acre s
  | .accPreloadDone die acre acc1 => Sys2Proof.Machine.execAccPreloadDone die acre acc1 s
  | .accDrain die acre acc1 => Sys2Proof.Machine.execAccDrain die acre acc1 s
  | .accDrainDone die acre acc1 => Sys2Proof.Machine.execAccDrainDone die acre acc1 s
  | .courseYield die acre => Sys2Proof.Machine.execCourseYield die acre s
  | .courseResume die acre => Sys2Proof.Machine.execCourseResume die acre s
  | .courseStart die acre => Sys2Proof.Machine.execCourseStart die acre s
  | .matmulCourse iss => Sys2Proof.Machine.execMatmulCourse iss s
  | .basinCourse iss => Sys2Proof.Machine.execBasinCourse iss s
  | .attendCourse iss table => Sys2Proof.Machine.execAttendCourse iss table s
  | .attendMerge iss => Sys2Proof.Machine.execAttendMerge iss s
  | .rmsNormalisation iss => Sys2Proof.Machine.execRmsNormalisation iss s
  | .layerNormalisation iss => Sys2Proof.Machine.execLayerNormalisation iss s
  | .int8Quantisation iss => Sys2Proof.Machine.execInt8Quantisation iss s
  | .softmaxBlock iss => Sys2Proof.Machine.execSoftmaxBlock iss s
  | .routing iss => Sys2Proof.Machine.execRouting iss s
  | .vectorAdd iss => Sys2Proof.Machine.execVectorAdd iss s
  | .vectorMultiply iss => Sys2Proof.Machine.execVectorMultiply iss s
  | .sampling iss rows => Sys2Proof.Machine.execSampling iss rows s
  | .orderedSum iss => Sys2Proof.Machine.execOrderedSum iss s
  | .fill iss => Sys2Proof.Machine.execFill iss s
  | .copy iss => Sys2Proof.Machine.execCopy iss s
  | .transpose iss => Sys2Proof.Machine.execTranspose iss s
  | .stride iss => Sys2Proof.Machine.execStride iss s
  | .expand iss => Sys2Proof.Machine.execExpand iss s
  | .readBeforeFill ex => Sys2Proof.Machine.execReadBeforeFill ex s
  | .overwriteBeforeDrain ex => Sys2Proof.Machine.execOverwriteBeforeDrain ex s
  | .boundUnreadable iss coll => Sys2Proof.Machine.execBoundUnreadable iss coll s
  | .chainBroken ex => Sys2Proof.Machine.execChainBroken ex s
  | .courseRecordReceived => Sys2Proof.Machine.execCourseRecordReceived s
  | .basinPass die run mask theta hold => Sys2Proof.Machine.execBasinPass die run mask theta hold s
  | .weirGroupResume die run => Sys2Proof.Machine.execWeirGroupResume die run s
  | .clipWindowClose basin => Sys2Proof.Machine.execClipWindowClose basin s
  | .referenceSlot basin => Sys2Proof.Machine.execReferenceSlot basin s
  | .plotTempRead die readings => Sys2Proof.Machine.execPlotTempRead die readings s
  | .plotThrottledReport plot => Sys2Proof.Machine.execPlotThrottledReport plot s
  | .imageOpen src => Sys2Proof.Machine.execImageOpen src s
  | .imageControlCheck image => Sys2Proof.Machine.execImageControlCheck image s
  | .basinRecord image => Sys2Proof.Machine.execBasinRecord image s
  | .programRow basin stuck pulsed range => Sys2Proof.Machine.execProgramRow basin stuck pulsed range s
  | .basinSwap basin => Sys2Proof.Machine.execBasinSwap basin s
  | .spareBasinTest basin unusable offgrid => Sys2Proof.Machine.execSpareBasinTest basin unusable offgrid s
  | .recalDue basin => Sys2Proof.Machine.execRecalDue basin s
  | .recalibration basin reads => Sys2Proof.Machine.execRecalibration basin reads s
  | .calOverdue basin => Sys2Proof.Machine.execCalOverdue basin s
  | .calRequest src => Sys2Proof.Machine.execCalRequest src s
  | .imageActivate src => Sys2Proof.Machine.execImageActivate src s
  | .imageRelease src => Sys2Proof.Machine.execImageRelease src s
  | .imageStatus src => Sys2Proof.Machine.execImageStatus src s
  | .correctionStep die tgt lanes repairBad time => Sys2Proof.Machine.execCorrectionStep die tgt lanes repairBad time s
  | .laneBorrow die lane walked => Sys2Proof.Machine.execLaneBorrow die lane walked s
  | .laneChannelSend die lane bad cycle time => Sys2Proof.Machine.execLaneChannelSend die lane bad cycle time s
  | .predictorOff src => Sys2Proof.Machine.execPredictorOff src s
  | .predictorOn src => Sys2Proof.Machine.execPredictorOn src s
  | .rearm src => Sys2Proof.Machine.execRearm src s
  | .kvImportHeader stream => Sys2Proof.Machine.execKvImportHeader stream s
  | .kvImportRecord stream => Sys2Proof.Machine.execKvImportRecord stream s
  | .ringFlitReceive link lane ok again acked cycle => Sys2Proof.Machine.execRingFlitReceive link lane ok again acked cycle s
  | .linkRetrainDone link => Sys2Proof.Machine.execLinkRetrainDone link s
  | .allReduce iss => Sys2Proof.Machine.execAllReduce iss s
  | .reduceScatter iss => Sys2Proof.Machine.execReduceScatter iss s
  | .allGather iss => Sys2Proof.Machine.execAllGather iss s
  | .broadcast iss => Sys2Proof.Machine.execBroadcast iss s
  | .fenceRecord iss => Sys2Proof.Machine.execFenceRecord iss s
  | .fenceArrival coll die => Sys2Proof.Machine.execFenceArrival coll die s
  | .fenceMessage coll die => Sys2Proof.Machine.execFenceMessage coll die s
  | .collectiveDone coll die => Sys2Proof.Machine.execCollectiveDone coll die s
  | .managementFence => Sys2Proof.Machine.execManagementFence s
  | .skewWindowClose => Sys2Proof.Machine.execSkewWindowClose s
  | .trainStep src ended => Sys2Proof.Machine.execTrainStep src ended s
  | .admitPrompt k desc => Sys2Proof.Machine.execAdmitPrompt k desc s
  | .admitImport k desc => Sys2Proof.Machine.execAdmitImport k desc s
  | .promptStaged stream tokens => Sys2Proof.Machine.execPromptStaged stream tokens s
  | .abort src => Sys2Proof.Machine.execAbort src s
  | .park src => Sys2Proof.Machine.execPark src s
  | .resume src => Sys2Proof.Machine.execResume src s
  | .exportStream src => Sys2Proof.Machine.execExport src s
  | .query src => Sys2Proof.Machine.execQuery src s
  | .list src => Sys2Proof.Machine.execList src s
  | .stepBoundary m => Sys2Proof.Machine.execStepBoundary m s
  | .sweepBoundary => Sys2Proof.Machine.execSweepBoundary s
  | .doneHoldExpire stream => Sys2Proof.Machine.execDoneHoldExpire stream s
  | .attributionEpoch ein ed volts => Sys2Proof.Machine.execAttributionEpoch ein ed volts s
  | .pageCloseTime => Sys2Proof.Machine.execPageCloseTime s
  | .pageSign unit bad cycle writes => Sys2Proof.Machine.execPageSign unit bad cycle writes s
  | .pageSigned => Sys2Proof.Machine.execPageSigned s
  | .lmsTreeBuilt => Sys2Proof.Machine.execLmsTreeBuilt s
  | .junctionRead die hot h0 h1 h2 head => Sys2Proof.Machine.execJunctionRead die hot h0 h1 h2 head s
  | .thermalRecoveryStep die => Sys2Proof.Machine.execThermalRecoveryStep die s
  | .thermalStillTimeout die => Sys2Proof.Machine.execThermalStillTimeout die s
  | .power10usMean watts => Sys2Proof.Machine.execPower10usMean watts s
  | .capUnreachable => Sys2Proof.Machine.execCapUnreachable s
  | .droopDetect die mv ns => Sys2Proof.Machine.execDroopDetect die mv ns s
  | .droopHoldEnd die => Sys2Proof.Machine.execDroopHoldEnd die s
  | .regulatorAlert rail => Sys2Proof.Machine.execRegulatorAlert rail s
  | .regulatorAlertClear rail => Sys2Proof.Machine.execRegulatorAlertClear rail s
  | .trickleHoldEnd => Sys2Proof.Machine.execTrickleHoldEnd s
  | .phaseDisable rail phase => Sys2Proof.Machine.execPhaseDisable rail phase s
  | .railOff rail => Sys2Proof.Machine.execRailOff rail s
  | .ageingMonitor die acre => Sys2Proof.Machine.execAgeingMonitor die acre s
  | .acreStill die acre => Sys2Proof.Machine.execAcreStill die acre s
  | .acreDry die acre => Sys2Proof.Machine.execAcreDry die acre s
  | .acreWake die acre => Sys2Proof.Machine.execAcreWake die acre s
  | .acreWakeDone die acre => Sys2Proof.Machine.execAcreWakeDone die acre s
  | .idleEntry => Sys2Proof.Machine.execIdleEntry s
  | .deepEntry => Sys2Proof.Machine.execDeepEntry s
  | .deepWakeDone => Sys2Proof.Machine.execDeepWakeDone s
  | .coolantOutOfSpec => Sys2Proof.Machine.execCoolantOutOfSpec s
  | .powerShare src => Sys2Proof.Machine.execPowerShare src s
  | .portReset h => Sys2Proof.Machine.execPortReset h s
  | .sqDoorbell h qp data => Sys2Proof.Machine.execSqDoorbell h qp data s
  | .submissionEntry h qp entry => Sys2Proof.Machine.execSubmissionEntry h qp entry s
  | .cqDoorbell h qp data => Sys2Proof.Machine.execCqDoorbell h qp data s
  | .ledgerDoorbell h data => Sys2Proof.Machine.execLedgerDoorbell h data s
  | .coalesceTimeout h qp => Sys2Proof.Machine.execCoalesceTimeout h qp s
  | .queueEnable p h data => Sys2Proof.Machine.execQueueEnable p h data s
  | .queueDisable p h data => Sys2Proof.Machine.execQueueDisable p h data s
  | .queueDisableDone h qp => Sys2Proof.Machine.execQueueDisableDone h qp s
  | .hostReadTimeout r => Sys2Proof.Machine.execHostReadTimeout r s
  | .adapterLoad src => Sys2Proof.Machine.execAdapterLoad src s
  | .adapterRelease src => Sys2Proof.Machine.execAdapterRelease src s
  | .telemetry src => Sys2Proof.Machine.execTelemetry src s
  | .channelOpen k req => Sys2Proof.Machine.execChannelOpen k req s
  | .channelClose src => Sys2Proof.Machine.execChannelClose src s
  | .flumeWrite port ip dgram => Sys2Proof.Machine.execFlumeWrite port ip dgram s
  | .flumeReadReq port ip dgram => Sys2Proof.Machine.execFlumeReadReq port ip dgram s
  | .flumeReadData port ip dgram => Sys2Proof.Machine.execFlumeReadData port ip dgram s
  | .flumeAck port ip dgram => Sys2Proof.Machine.execFlumeAck port ip dgram s
  | .flumeNak port ip dgram => Sys2Proof.Machine.execFlumeNak port ip dgram s
  | .flumeOpen port ip dgram => Sys2Proof.Machine.execFlumeOpen port ip dgram s
  | .flumeOpenAck port ip dgram => Sys2Proof.Machine.execFlumeOpenAck port ip dgram s
  | .flumeClose port ip dgram => Sys2Proof.Machine.execFlumeClose port ip dgram s
  | .ackTimer chan => Sys2Proof.Machine.execAckTimer chan s
  | .retransmitTimeout chan seq => Sys2Proof.Machine.execRetransmitTimeout chan seq s
  | .channelAckTimeout chan => Sys2Proof.Machine.execChannelAckTimeout chan s
  | .flumeLinkDown port => Sys2Proof.Machine.execFlumeLinkDown port s
  | .mctpControl msg => Sys2Proof.Machine.execMctpControl msg s
  | .pldmSensorRead sensor => Sys2Proof.Machine.execPldmSensorRead sensor s
  | .pldmFirmwareStage slot => Sys2Proof.Machine.execPldmFirmwareStage slot s
  | .activateFirmware => Sys2Proof.Machine.execActivateFirmware s
  | .standbyBootDone => Sys2Proof.Machine.execStandbyBootDone s
  | .healthWindowExpire => Sys2Proof.Machine.execHealthWindowExpire s
  | .getVersion conn msg => Sys2Proof.Machine.execGetVersion conn msg s
  | .getCapabilities conn msg => Sys2Proof.Machine.execGetCapabilities conn msg s
  | .negotiateAlgorithms conn msg => Sys2Proof.Machine.execNegotiateAlgorithms conn msg s
  | .getDigests conn msg => Sys2Proof.Machine.execGetDigests conn msg s
  | .getCertificate conn msg slot => Sys2Proof.Machine.execGetCertificate conn msg slot s
  | .challenge conn msg => Sys2Proof.Machine.execChallenge conn msg s
  | .getMeasurements conn msg index signed => Sys2Proof.Machine.execGetMeasurements conn msg index signed s
  | .keyExchange conn msg => Sys2Proof.Machine.execKeyExchange conn msg s
  | .finish conn msg => Sys2Proof.Machine.execFinish conn msg s
  | .keyUpdate conn msg => Sys2Proof.Machine.execKeyUpdate conn msg s
  | .heartbeat conn msg => Sys2Proof.Machine.execHeartbeat conn msg s
  | .endSession conn msg => Sys2Proof.Machine.execEndSession conn msg s
  | .hssChain conn msg => Sys2Proof.Machine.execHssChain conn msg s
  | .hssSign conn msg writes => Sys2Proof.Machine.execHssSign conn msg writes s
  | .aliasTreeBuilt => Sys2Proof.Machine.execAliasTreeBuilt s
  | .getNonce => Sys2Proof.Machine.execGetNonce s
  | .nonceExpire => Sys2Proof.Machine.execNonceExpire s
  | .freezeToken token => Sys2Proof.Machine.execFreezeToken token s
  | .debugReadoutToken token => Sys2Proof.Machine.execDebugReadoutToken token s
  | .fullDebugToken token => Sys2Proof.Machine.execFullDebugToken token s
  | .ownerChangeToken token => Sys2Proof.Machine.execOwnerChangeToken token s
  | .charterRestrictionToken token => Sys2Proof.Machine.execCharterRestrictionToken token s
  | .enterReturnToken token => Sys2Proof.Machine.execEnterReturnToken token s
  | .freezeReleaseCommand => Sys2Proof.Machine.execFreezeReleaseCommand s
  | .moduleReset => Sys2Proof.Machine.execModuleReset s
  | .moduleImageOpen mib size => Sys2Proof.Machine.execModuleImageOpen mib size s
  | .moduleImageActivate image => Sys2Proof.Machine.execModuleImageActivate image s
  | .holdingMaskWrite image mask => Sys2Proof.Machine.execHoldingMaskWrite image mask s
  | .moduleChannelOpen req => Sys2Proof.Machine.execModuleChannelOpen req s
  | .signatureBlockRead seq => Sys2Proof.Machine.execSignatureBlockRead seq s
  | .eventLogRead seq n => Sys2Proof.Machine.execEventLogRead seq n s
  | .lateralParityError die acre again cycle => Sys2Proof.Machine.execLateralParityError die acre again cycle s
  | .accParityError die acre acc again cycle => Sys2Proof.Machine.execAccParityError die acre acc again cycle s
  | .sequencerParityError die acre cycle => Sys2Proof.Machine.execSequencerParityError die acre cycle s
  | .sequencerWatchdog die acre cycle => Sys2Proof.Machine.execSequencerWatchdog die acre cycle s
  | .acreCopyDone die acre => Sys2Proof.Machine.execAcreCopyDone die acre s
  | .acreSwap die acre => Sys2Proof.Machine.execAcreSwap die acre s
  | .acreBistRotation die acre => Sys2Proof.Machine.execAcreBistRotation die acre s
  | .acreSelfTestDone die acre res => Sys2Proof.Machine.execAcreSelfTestDone die acre res s
  | .lockstepMismatch pair => Sys2Proof.Machine.execLockstepMismatch pair s
  | .mgmtCheckpoint => Sys2Proof.Machine.execMgmtCheckpoint s
  | .corePairSelfTestDone ok => Sys2Proof.Machine.execCorePairSelfTestDone ok s
  | .hbmRead addr err reader => Sys2Proof.Machine.execHbmRead addr err reader s
  | .hbmPageMigrateDone page poisoned => Sys2Proof.Machine.execHbmPageMigrateDone page poisoned s
  | .hbmPatrolScrub stack addr err => Sys2Proof.Machine.execHbmPatrolScrub stack addr err s
  | .sramScrub cache loc err stuck => Sys2Proof.Machine.execSramScrub cache loc err stuck s
  | .meterCheck => Sys2Proof.Machine.execMeterCheck s
  | .imbalanceWindow die chan busiest total region => Sys2Proof.Machine.execImbalanceWindow die chan busiest total region s
  | .freezeCapture pin => Sys2Proof.Machine.execFreezeCapture pin s
  | .hbmFreezeStop => Sys2Proof.Machine.execHbmFreezeStop s
  | .tapReadout what => Sys2Proof.Machine.execTapReadout what s
  | .thaw => Sys2Proof.Machine.execThaw s
  | .thawClockStart => Sys2Proof.Machine.execThawClockStart s
  | .coldPowerOn pins ref inlet flow => Sys2Proof.Machine.execColdPowerOn pins ref inlet flow s
  | .railGood step => Sys2Proof.Machine.execRailGood step s
  | .railTimeout rail => Sys2Proof.Machine.execRailTimeout rail s
  | .coolantResume => Sys2Proof.Machine.execCoolantResume s
  | .inputPowerLoss => Sys2Proof.Machine.execInputPowerLoss s
  | .inputUndervoltage => Sys2Proof.Machine.execInputUndervoltage s
  | .inputUndervoltageClear => Sys2Proof.Machine.execInputUndervoltageClear s
  | .inputHigh => Sys2Proof.Machine.execInputHigh s
  | .inputOvervoltage => Sys2Proof.Machine.execInputOvervoltage s
  | .overvoltageRestart pins ref inlet flow => Sys2Proof.Machine.execOvervoltageRestart pins ref inlet flow s
  | .bladeFuseOpen pair => Sys2Proof.Machine.execBladeFuseOpen pair s
  | .refclkLost => Sys2Proof.Machine.execRefclkLost s
  | .refclkReturn => Sys2Proof.Machine.execRefclkReturn s
  | .flumeLinkUp port => Sys2Proof.Machine.execFlumeLinkUp port s
  | .hostPortLinkUp h => Sys2Proof.Machine.execHostPortLinkUp h s
  | .coolantReading inlet flow => Sys2Proof.Machine.execCoolantReading inlet flow s
  | .firmwareWatchdogExpiry => Sys2Proof.Machine.execFirmwareWatchdogExpiry s
  | .ideKeyManagement h stream msg => Sys2Proof.Machine.execIdeKeyManagement h stream msg s
  | .configRequest h => Sys2Proof.Machine.execConfigRequest h s
  | .registerRead p addr => Sys2Proof.Machine.execRegisterRead p addr s
  | .shutdownRequest => Sys2Proof.Machine.execShutdownRequest s

end Sys2Proof.Machine
end

