-- ==== Sys2Proof/Machine/Tick.lean ====
section
/-!
DEFINITION. One period of the 25 MHz reference: what a step does when no command waits (R9, R594, R595, R634; log entry 1).
-/

namespace Sys2Proof.Machine

/-- Counts of the module counter in a second. -/
def countsPerSecond : Nat := 25000000

/-- The counts of issues of the second that ends are dropped (R578). -/
def endSecond (s : State) : State := if s.counter % countsPerSecond = 0 then { s with issued := [] } else s

/-- The module counter rises by one; while the module is frozen it stands, and RLY_FRZDUR rises in its place; with the power
off nothing counts. -/
def tick (s : State) : State :=
  if s.power.phase = .off then s
  else if isFrozen s then bumpPair rlyB 0x134 1 s
  else endSecond { s with counter := s.counter + 1 }

end Sys2Proof.Machine
end

