-- ==== Sys2Proof/Safety.lean ====
section
/-!
DEFINITION. What the statements call safe: memory in canonical form, and the kinds of change that a command's frame excludes.
-/

namespace Sys2Proof.Machine

/-- The invariant of the stored memories: HBM and scratchpads list each byte at most once, in rising order, and no byte that reads
as unlisted memory does. -/
def MemInv (s : State) : Prop := memWf s = true

/-- No byte of memory differs. -/
def SameMemory (s t : State) : Prop := ∀ a, rdByte t a = rdByte s a

/-- No register of a block differs but those at the offsets listed. -/
def SameRegsBut (addrs : List Nat) (s t : State) : Prop := ∀ a, a ∉ addrs → regGet t a = regGet s a

/-- The registers beyond the header that do more on a plain write than store their rw fields: the actions, the writable pairs and
the windows (R604, R608). -/
def actsOnWrite : BlkTag → Nat → Bool
  | .mod, 0x11C | .frw, 0x170 | .spd, 0x100 | .spd, 0x130 | .rly, 0x10C => true
  | .str, 0x120 | .str, 0x124 => true
  | .hq, 0x104 | .hq, 0x108 | .hq, 0x10C | .hq, 0x110 | .hq, 0x11C | .hq, 0x120 => true
  | _, _ => false

/-- The registers whose rw fields mean more to their block than their value, whatever kind of write changes them. -/
def actsOnStore : BlkTag → Nat → Bool
  | .str, 0x108 | .str, 0x10C | .str, 0x110 | .str, 0x114 => true
  | .hq, 0x104 | .hq, 0x108 | .hq, 0x10C | .hq, 0x110 | .hq, 0x114 | .hq, 0x118 | .hq, 0x124 => true
  | .mod, 0x10C | .drd, 0x100 | .drd, 0x104 | .drd, 0x110 | .spd, 0x114 | .spd, 0x118 => true
  | _, _ => false

/-- A write by a path to an implemented register of a block, aligned, in a region of its slot: 0 plain, 1 bit set, 2 bit clear
(R601, R604, R606, R619). -/
def MayWrite (s : State) (p : Path) (addr base : Nat) (b : Blk) (region : Nat) : Prop :=
  placeOf addr = .block base b ∧ writeGrant s p base = .ok ∧ addr % 4 = 0 ∧ addr % 0x4000 / 0x1000 = region ∧
    implemented b.tag (addr % 0x1000) = true

/-- A read by a path of an implemented register of a block through the plain region, while the module is not frozen. -/
def MayRead (s : State) (p : Path) (addr base : Nat) (b : Blk) : Prop :=
  placeOf addr = .block base b ∧ readGrant s p base (addr % 0x1000) = .ok ∧ addr % 4 = 0 ∧ addr % 0x4000 / 0x1000 = 0 ∧
    implemented b.tag (addr % 0x1000) = true ∧ isFrozen s = false

/-- An issued course of an image with its descriptor runs on its executor acre, and the acre works. -/
def RunsOn (s : State) (iss : Issue) (im : Image) (d : List Byte) (g : Nat) (c : CourseRun) : Prop :=
  courseDesc s iss = some (im, d) ∧ g = execAcre s d ∧ (getAcre s g).run = some c ∧ c.issue = iss ∧ acreLive s g = true

/-- The command of an opcode that a source sends and that may be taken now, out of Deep, and the state once it is taken: its entry
leaves the waiting ones and counts as open until its response (R496, R510, R511). -/
def taken (src : CmdSrc) (op : Nat) (s : State) : Option (HostCmd × State) :=
  if getF s drdB F.drdLevelLevel = 2 then none
  else match src with
    | .host k =>
      match s.hostCmds[k]? with
      | none => none
      | some c =>
        if c.op = op && mayTake s k c then
          some (c, { idleExit s with hostCmds := (idleExit s).hostCmds.eraseIdx k, openCmds := (idleExit s).openCmds ++ [c] })
        else none
    | .board handle arg0 => if frozen s then none else some ({ by_ := 15, op := op, handle := handle, arg0 := arg0 }, idleExit s)

/-- The registers' part of the state in canonical form: rising offsets, and no register listed at its reset value. -/
def RegsInv (s : State) : Prop := keysRise s.regs = true ∧ ∀ e ∈ s.regs, e.2 ≠ resetAt e.1

/-- The least and the greatest element of an input format (R55). -/
def xLo : XFmt → Int
  | .int8 => -128 | .uint8 => 0 | .int4 => -8 | .uint4 => 0
def xHi : XFmt → Int
  | .int8 => 127 | .uint8 => 255 | .int4 => 7 | .uint4 => 15

/-- What still acts while the module is frozen: the freeze island with the debug port, the management port and the readout (R594,
R595), the supplies and pins themselves, and a reset of a host port by its host (R596). -/
def freezeServes : Instr → Bool
  | .loRead .. | .hiRead .. | .registerRead .. | .tapReadout .. | .eventLogRead .. | .mctpControl .. => true
  | .getNonce | .nonceExpire | .freezeToken .. | .debugReadoutToken .. | .fullDebugToken .. | .ownerChangeToken ..
  | .charterRestrictionToken .. | .enterReturnToken .. | .freezeReleaseCommand => true
  | .freezeCapture .. | .hbmFreezeStop | .thaw | .thawClockStart => true
  | .coldPowerOn .. | .inputPowerLoss | .inputUndervoltage | .inputUndervoltageClear | .inputOvervoltage | .overvoltageRestart ..
  | .bladeFuseOpen .. | .refclkLost | .refclkReturn | .regulatorAlert .. | .regulatorAlertClear .. | .portReset .. => true
  | _ => false

/-- What still acts on a module without power: its input and its pins. -/
def offServes : Instr → Bool
  | .coldPowerOn .. | .inputOvervoltage | .overvoltageRestart .. | .freezeCapture .. | .thaw | .portReset .. => true
  | .loRead .. | .hiRead .. | .registerRead .. => true
  | _ => false

/-- Which of the waiting submission entries a command of *Table: Command set* takes. -/
def srcEntry : CmdSrc → Option Nat
  | .host k => some k
  | .board .. => none
def hostTakes : Instr → Option Nat
  | .imageOpen c | .calRequest c | .imageActivate c | .imageRelease c | .imageStatus c | .predictorOff c | .predictorOn c
  | .rearm c | .trainStep c false | .abort c | .park c | .resume c | .exportStream c | .query c | .list c | .powerShare c
  | .adapterLoad c | .adapterRelease c | .telemetry c | .channelClose c => srcEntry c
  | .admitPrompt k _ | .admitImport k _ | .channelOpen k _ => some k
  | _ => none

end Sys2Proof.Machine
end

