-- ==== Sys2Proof/Certificates/Slice0/Obligations.lean ====
section
/-! DEFINITION. The statements for the provers, in the order of the families they are about. A clause of a conjunction is about the
commands that the comment before it names. -/

open Sys2Proof Sys2Proof.Machine

/-- A permitted, aligned, whole write of an implemented register of any block that has no action (those have statements of their own) replaces its rw
fields and no other register; an alias write is the plain write of the word with the data's bits set or cleared in its rw fields, in one step, never
acts, and is ignored by a register without rw fields; a read returns the word and, at a LO register, fills the path's latch of HI; a HI read returns
the latch and empties it; a LO write of a writable pair is only staged.
The rules: R604, R606, R607, R608, R618, R619. -/
def Obligations.RegisterCommandsTakeEffect : Prop :=
  -- registerWrite
  (∀ (s : State) (p : Path) (addr : PAddr) (data : Word) (base : Nat) (b : Blk),
    MayWrite s p addr.toNat base b 0 → 0x100 ≤ addr.toNat % 0x1000 → isSel b.tag (addr.toNat % 0x1000) = false →
    actsOnWrite b.tag (addr.toNat % 0x1000) = false → actsOnStore b.tag (addr.toNat % 0x1000) = false →
    ∃ t, exec (.registerWrite p addr data 15#4) s = .next t ∧
      regGet t (base + addr.toNat % 0x1000) = mergeRw (rwMask b.tag (addr.toNat % 0x1000)) (regGet s (base + addr.toNat % 0x1000)) data ∧
      SameRegsBut [base + addr.toNat % 0x1000] s t ∧ SameMemory s t) ∧
  -- registerAliasWrite
  (∀ (s : State) (p : Path) (addr plain : PAddr) (data : Word) (base : Nat) (b : Blk) (set : Bool),
    MayWrite s p addr.toNat base b (if set then 1 else 2) → addr.toNat = plain.toNat + (if set then 0x1000 else 0x2000) →
    0x100 ≤ addr.toNat % 0x1000 → actsOnWrite b.tag (addr.toNat % 0x1000) = false → rwMask b.tag (addr.toNat % 0x1000) ≠ 0 →
    let old := liveWord s p base b (addr.toNat % 0x1000)
    ∃ t, exec (.registerAliasWrite p addr data 15#4) s = .next t ∧
      exec (.registerWrite p plain (mergeRw (rwMask b.tag (addr.toNat % 0x1000)) old (if set then old ||| data else old &&& ~~~data)) 15#4) s = .next t) ∧
  -- registerAliasWrite
  (∀ (s : State) (p : Path) (addr : PAddr) (data : Word) (base : Nat) (b : Blk) (set : Bool),
    MayWrite s p addr.toNat base b (if set then 1 else 2) → 0x100 ≤ addr.toNat % 0x1000 → isSel b.tag (addr.toNat % 0x1000) = false →
    rwMask b.tag (addr.toNat % 0x1000) ≠ 0 → actsOnStore b.tag (addr.toNat % 0x1000) = false →
    writablePair b.tag (if isHi b.tag (addr.toNat % 0x1000) then addr.toNat % 0x1000 - 4 else addr.toNat % 0x1000) = false →
    let old := liveWord s p base b (addr.toNat % 0x1000)
    ∃ t, exec (.registerAliasWrite p addr data 15#4) s = .next t ∧
      regGet t (base + addr.toNat % 0x1000) = mergeRw (rwMask b.tag (addr.toNat % 0x1000)) (regGet s (base + addr.toNat % 0x1000))
        (mergeRw (rwMask b.tag (addr.toNat % 0x1000)) old (if set then old ||| data else old &&& ~~~data)) ∧
      SameRegsBut [base + addr.toNat % 0x1000] s t ∧ SameMemory s t) ∧
  -- registerAliasWrite
  (∀ (s : State) (p : Path) (addr : PAddr) (data : Word) (base : Nat) (b : Blk) (set : Bool) (lo : Nat),
    MayWrite s p addr.toNat base b (if set then 1 else 2) → rwMask b.tag (addr.toNat % 0x1000) = 0 →
    lo = (if isHi b.tag (addr.toNat % 0x1000) then addr.toNat % 0x1000 - 4 else addr.toNat % 0x1000) →
    exec (.registerAliasWrite p addr data 15#4) s =
      .next (if writablePair b.tag lo then setLatch p (base + lo) { getLatch s p (base + lo) with staged := none } s else s)) ∧
  -- registerRead
  (∀ (s : State) (p : Path) (addr : PAddr) (base : Nat) (b : Blk),
    MayRead s p addr.toNat base b → isLo b.tag (addr.toNat % 0x1000) = false → isHi b.tag (addr.toNat % 0x1000) = false →
    exec (.registerRead p addr) s = .next (emit (.read p addr.toNat (liveWord s p base b (addr.toNat % 0x1000))) s)) ∧
  -- loRead
  (∀ (s : State) (p : Path) (addr : PAddr) (base : Nat) (b : Blk),
    MayRead s p addr.toNat base b → isLo b.tag (addr.toNat % 0x4000) = true → isHi b.tag (addr.toNat % 0x1000) = false →
    ∃ t, exec (.loRead p addr) s = .next t ∧ t.emitted = s.emitted ++ [.read p addr.toNat (liveWord s p base b (addr.toNat % 0x1000))] ∧
      (getLatch t p (base + addr.toNat % 0x1000)).hi = some (liveWord s p base b (addr.toNat % 0x1000 + 4)) ∧
      SameRegsBut [] s t ∧ SameMemory s t) ∧
  -- hiRead
  (∀ (s : State) (p : Path) (addr : PAddr) (base : Nat) (b : Blk),
    MayRead s p addr.toNat base b → isHi b.tag (addr.toNat % 0x4000) = true → isLo b.tag (addr.toNat % 0x1000) = false →
    ∃ t, exec (.hiRead p addr) s = .next t ∧ t.emitted = s.emitted ++ [.read p addr.toNat
        (((getLatch s p (base + addr.toNat % 0x1000 - 4)).hi).getD (liveWord s p base b (addr.toNat % 0x1000)))] ∧
      (getLatch t p (base + addr.toNat % 0x1000 - 4)).hi = none ∧ SameRegsBut [] s t ∧ SameMemory s t) ∧
  -- loWrite
  (∀ (s : State) (p : Path) (addr : PAddr) (data : Word) (base : Nat) (b : Blk),
    MayWrite s p addr.toNat base b 0 → isLo b.tag (addr.toNat % 0x4000) = true → writablePair b.tag (addr.toNat % 0x1000) = true →
    ∃ t, exec (.loWrite p addr data) s = .next t ∧ (getLatch t p (base + addr.toNat % 0x1000)).staged = some data ∧
      SameRegsBut [] s t ∧ t.qps = s.qps ∧ t.holds = s.holds ∧ SameMemory s t) ∧
  -- hiWrite
  (∀ (s : State) (p : Path) (addr : PAddr) (data : Word) (h : Nat) (b : Blk),
    MayWrite s p addr.toNat (hqB h) b 0 → b.tag = .hq → b.inst = h → addr.toNat % 0x4000 = 0x108 → (getQP s h (selQP s p h)).en = false →
    let lo := pairValue p (hqB h + 0x104) (liveWord s p (hqB h) b 0x104) data s
    ∃ t, exec (.hiWrite p addr data) s = .next t ∧
      (getQP t h (selQP s p h)).sqb = lo % 2 ^ 32 / 4096 * 4096 + data.toNat * 2 ^ 32 ∧
      (getLatch t p (hqB h + 0x104)).staged = none ∧ SameRegsBut [] s t ∧ SameMemory s t)

/-- A w1c write of IRQ_STAT clears the pending bits that are one in its data; IRQ_FORCE sets the implemented ones; ERR_CLR zeroes the error record; an HQ
block sends its message where a clear leaves enabled bits pending, or where IRQ_FORCE or BLK_CTRL makes them non-zero; the HI write of STR_CREDIT adds
the staged 64-bit credit, saturating, to the selected holding's balance; MOD_ALERT.CLEAR releases the pin. Each leaves every other register and all of
memory.
The rules: R608, R611, R612, R614, R622. -/
def Obligations.InterruptAndCreditWrites : Prop :=
  -- irqStatClear
  (∀ (s u : State) (p : Path) (addr : PAddr) (data : Word) (base : Nat) (b : Blk),
    MayWrite s p addr.toNat base b 0 → addr.toNat % 0x4000 = 0x14 →
    u = setF base F.irqStatPend (getF s base F.irqStatPend - Nat.land (getF s base F.irqStatPend) (data.toNat % 65536)) s →
    ∃ t, exec (.irqStatClear p addr data) s = .next t ∧
      t = (if b.tag = .hq ∧ irqActive u base ≠ 0 then signalVec b.inst (getF u base F.hqIrqcfgVector) u else u) ∧
      getF t base F.irqStatPend = getF s base F.irqStatPend - Nat.land (getF s base F.irqStatPend) (data.toNat % 65536) ∧
      SameRegsBut [base + 0x14] s t ∧ SameMemory s t) ∧
  -- irqForce
  (∀ (s u : State) (p : Path) (addr : PAddr) (data : Word) (base : Nat) (b : Blk),
    MayWrite s p addr.toNat base b 0 → addr.toNat % 0x4000 = 0x1C →
    u = setF base F.irqStatPend (Nat.lor (getF s base F.irqStatPend) (Nat.land (data.toNat % 65536) (irqImpl b.tag))) s →
    ∃ t, exec (.irqForce p addr data) s = .next t ∧
      t = (if b.tag = .hq ∧ irqActive s base = 0 ∧ irqActive u base ≠ 0 then signalVec b.inst (getF u base F.hqIrqcfgVector) u else u) ∧
      getF t base F.irqStatPend = Nat.lor (getF s base F.irqStatPend) (Nat.land (data.toNat % 65536) (irqImpl b.tag)) ∧
      SameRegsBut [base + 0x14] s t ∧ SameMemory s t) ∧
  -- errClr
  (∀ (s u v : State) (p : Path) (addr : PAddr) (data : Word) (base : Nat) (b : Blk),
    MayWrite s p addr.toNat base b 0 → addr.toNat % 0x4000 = 0x0C → data.getLsbD 8 = true →
    u = regSet (base + 0x0C) (mergeRw (rwMask b.tag 0x0C) (regGet s (base + 0x0C)) data) s →
    v = (if b.tag = .hq ∧ irqActive s base = 0 ∧ irqActive u base ≠ 0 then signalVec b.inst (getF u base F.hqIrqcfgVector) u else u) →
    ∃ t, exec (.errClr p addr data) s = .next t ∧ t = regSet (base + 0x20) 0 (regSet (base + 0x24) 0 (regSet (base + 0x28) 0 v)) ∧
      regGet t (base + 0x20) = 0 ∧ regGet t (base + 0x24) = 0 ∧ regGet t (base + 0x28) = 0 ∧
      SameRegsBut [base + 0x0C, base + 0x20, base + 0x24, base + 0x28] s t ∧ SameMemory s t) ∧
  -- strCredit
  (∀ (s : State) (p : Path) (data : Word), writeGrant s p strB = .ok →
    let v := sext 64 (((getLatch s p (strB + 0x120)).staged.getD 0).toNat + data.toNat * 2 ^ 32)
    ∃ t, exec (.strCredit p data) s = .next t ∧
      (getHold t (selHold s p)).balance = satAdd64 (getHold s (selHold s p)).balance v ∧
      (∀ k, k ≠ selHold s p → getHold t k = getHold s k) ∧ (getLatch t p (strB + 0x120)).staged = none ∧
      SameRegsBut [] s t ∧ SameMemory s t) ∧
  -- modAlertClear
  (∀ (s : State) (p : Path) (data : Word), writeGrant s p modB = .ok → data.getLsbD 1 = true →
    ∃ t, exec (.modAlertClear p data) s = .next t ∧ getF t modB F.modAlertAsserted = 0 ∧
      getF t modB F.modAlertSevMin = fldOf F.modAlertSevMin data ∧ SameRegsBut [modB + 0x11C] s t ∧ SameMemory s t)

/-- SLUICE_GO starts the handover it names and shows RESULT 1; SLUICE_COMPLETE gives the bank its new owner and mode and shows RESULT 2; BIST_RUN starts
the test of a circular bank that TEST owns; BIST_DONE ends it with its verdict; the circular ports append at WPTR and take from RPTR. Each equation
gives the whole next state, so nothing else changes.
The rules: R303, R309, R310, R311. -/
def Obligations.ScratchpadHandoverAndTest : Prop :=
  -- sluiceGo
  (∀ (s : State) (p : Path) (die : Die) (acre : PAcre) (data : Word) (g k : Nat) (dst : BankOwner),
    g = acreIx die acre → k = fldOf F.spdSluiceBank data → dst = ownerOf (fldOf F.spdSluiceTo data) →
    writeGrant s p (spdB g) = .ok → fldOf F.spdSluiceGo data = 1 → (getAcre s g).sluice = none →
    ¬ ((getBank s g k).owner = .seq ∧ dst ≠ .seq ∧ inService s g = true) → bankHasFull s g k = false →
    ¬ (fldOf F.spdSluiceCirc data = 1 ∧ (dst = .seq ∨ dst = .none_)) →
    exec (.sluiceGo p die acre data) s = .next (setF (spdB g) F.spdSluiceResult 1
      (modAcre g (fun a => { a with sluice := some (k, dst, decide (fldOf F.spdSluiceCirc data = 1)) })
        (regSet (spdB g + 0x100) (fldPut F.spdSluiceBank k (fldPut F.spdSluiceTo (fldOf F.spdSluiceTo data)
          (fldPut F.spdSluiceCirc (fldOf F.spdSluiceCirc data) (regGet s (spdB g + 0x100))))) s)))) ∧
  -- sluiceComplete
  (∀ (s : State) (die : Die) (acre : PAcre) (g k : Nat) (dst : BankOwner) (circ : Bool),
    g = acreIx die acre → frozen s = false → (getAcre s g).sluice = some (k, dst, circ) →
    exec (.sluiceComplete die acre) s = .next (irqRaise (spdB g) 4 (setF (spdB g) F.spdSluiceResult 2
      (modAcre g (fun a => { a with sluice := none }) (setBank g k
        (if circ && !(getBank s g k).circ then { owner := dst, circ := true } else { getBank s g k with owner := dst, circ := circ }) s))))) ∧
  -- bistRun
  (∀ (s : State) (p : Path) (die : Die) (acre : PAcre) (data : Word) (g k : Nat),
    g = acreIx die acre → k = fldOf F.spdBistBank data →
    writeGrant s p (spdB g) = .ok → fldOf F.spdBistRun data = 1 → (getAcre s g).bist = none →
    (getBank s g k).owner = .test → (getBank s g k).circ = true →
    exec (.bistRun p die acre data) s = .next (setF (spdB g) F.spdBistBusy 1
      (modAcre g (fun a => { a with bist := some k }) (setF (spdB g) F.spdBistBank k s)))) ∧
  -- bistDone
  (∀ (s : State) (die : Die) (acre : PAcre) (g k : Nat),
    g = acreIx die acre → frozen s = false → (getAcre s g).bist = some k →
    exec (.bistDone die acre none) s = .next (irqRaise (spdB g) 8 (setF (spdB g) F.spdBistBusy 0 (setB (spdB g) F.spdBistPass true
      (setF (spdB g) F.spdBistFailcol 0x3FF (fillBank g k (BitVec.ofNat 8 (Config.freeWord s.freeCtr).toNat)
        { (modAcre g (fun a => { a with bist := none }) s) with freeCtr := s.freeCtr + 1 })))))) ∧
  -- circWrite
  (∀ (s : State) (die : Die) (acre : PAcre) (bank : Bank) (data : List Byte) (g n : Nat) (b : BankSt),
    g = acreIx die acre → b = getBank s g bank.val → n = (if data.length = 64 then 8 else 1) →
    frozen s = false → bankClosing s g bank.val = false → b.circ = true → b.owner = .mgmt → b.cnt + n ≤ 32768 →
    exec (.circWrite die acre bank data) s = .next (setBank g bank.val { b with wptr := (b.wptr + n) % 32768, cnt := b.cnt + n }
      (wrBankBytes g bank.val (b.wptr * 8) ((data ++ List.replicate 8 0).take (8 * n)) s))) ∧
  -- circRead
  (∀ (s : State) (die : Die) (acre : PAcre) (bank : Bank) (line : Bool) (g n : Nat) (b : BankSt),
    g = acreIx die acre → b = getBank s g bank.val → n = (if line then 8 else 1) →
    frozen s = false → bankClosing s g bank.val = false → b.circ = true → b.owner = .mgmt → n ≤ b.cnt →
    exec (.circRead die acre bank line) s = .next (setBank g bank.val { b with rptr := (b.rptr + n) % 32768, cnt := b.cnt - n }
      (emit (.spad g (0x800000 + bank.val * 0x40000) 3 ((List.range (8 * n)).map (fun i => rdBankByte s g bank.val (b.rptr * 8 + i))) true) s)))

/-- For each command, under the conditions that it names, the next state: an admitted access reads or writes its bytes, a write-back lands, a column
migration ends, the scrubber moves to the next line, a refused word access is counted, a reservoir line is corrected, spares are tested.
The rules: R88, R90, R290, R298, R299, R305, R306, R322, R324, R326, R334. -/
def Obligations.ScratchpadAccessesAndScrubs : Prop :=
  -- scratchpadAccess
  (∀ (s : State) (x : SpadAcc) (g : Nat),
    g = spadOf s x.die.val x.acre.val → frozen s = false → spadAwake s g = true → x.off < 0x200000 → bankClosing s g (bankOf x.off) = false →
    x.task.val < 2 → x.write = false → x.errs = [] → ownerAdmits s g (bankOf x.off) x.task.val = true →
    pairCovers s g x.task.val x.off x.len false = true →
    readFault s (0xC000000000 + x.die.val * 0x100000000 + x.acre.val * 0x4000000 + x.off) x.len = none →
    exec (.scratchpadAccess x) s = .next (emit (.spad g x.off x.task.val
      (rdBytes s (0xC000000000 + x.die.val * 0x100000000 + x.acre.val * 0x4000000 + x.off) x.len) true) s)) ∧
  -- scratchpadAccess
  (∀ (s : State) (x : SpadAcc) (g : Nat),
    g = spadOf s x.die.val x.acre.val → frozen s = false → spadAwake s g = true → x.off < 0x200000 → bankClosing s g (bankOf x.off) = false →
    x.task.val < 2 → x.write = true → x.errs = [] → ownerAdmits s g (bankOf x.off) x.task.val = true →
    pairCovers s g x.task.val x.off x.len true = true →
    exec (.scratchpadAccess x) s = .next (modAcre g (dropWb g x.off)
      (wrMem (0xC000000000 + x.die.val * 0x100000000 + x.acre.val * 0x4000000 + x.off) x.data s))) ∧
  -- scratchpadAliasWrite
  (∀ (s : State) (x : SpadAcc) (set : Bool) (g off addr : Nat) (old d : BitVec 64),
    g = spadOf s x.die.val x.acre.val → off = x.off % 0x200000 / 8 * 8 →
    addr = 0xC000000000 + x.die.val * 0x100000000 + x.acre.val * 0x4000000 + off →
    old = BitVec.ofNat 64 (rdLE s addr 8) → d = BitVec.ofNat 64 (leVal x.data) →
    frozen s = false → spadAwake s g = true → bankClosing s g (bankOf off) = false → x.errs = [] →
    ownerAdmits s g (bankOf off) x.task.val = true → pairCovers s g x.task.val off 8 true = true →
    exec (.scratchpadAliasWrite x set) s = .next (modAcre g (dropWb g off) (wrLE addr 8 (if set then old ||| d else old &&& ~~~d).toNat s))) ∧
  -- eccWriteback
  (∀ (s : State) (die : Die) (acre : PAcre) (w : Nat), frozen s = false →
    exec (.eccWriteback die acre w) s = .next (modAcre (acreIx die acre) (fun a => { a with wbPend := a.wbPend.erase w }) s)) ∧
  -- columnRepairDone
  (∀ (s : State) (die : Die) (acre : PAcre) (bank : Bank) (g : Nat) (c : Nat × Nat) (st : Word),
    g = acreIx die acre → st = statusWord 15 (bankIx g bank.val) 6 0x46 → frozen s = false →
    (getAcre s g).colRepair.find? (fun c => c.1 = bank.val) = some c →
    exec (.columnRepairDone die acre bank) s = .next (lastEvt (spdB g) F.spdLastevtStatus st (logStatus st (bankIx g bank.val) [c.2]
      (setF (spdB g) (colspareFld bank.val) (getF s (spdB g) (colspareFld bank.val) - 1)
        (modAcre g (fun a => { a with colRepair := a.colRepair.erase c, colErr := setK a.colErr (bank.val * 1024 + c.2) [] [] }) s))))) ∧
  -- scrubLine
  (∀ (s : State) (die : Die) (acre : PAcre) (cycle : Nat) (g : Nat),
    g = acreIx die acre → acreLive s g = true → (getAcre s g).scrubLine < 4095 →
    exec (.scrubLine die acre [] cycle) s = .next (modAcre g (fun x => { x with scrubLine := (getAcre s g).scrubLine + 1 }) s)) ∧
  -- mgmtWordTimeout
  (∀ (s : State) (die : Die) (acre : LAcre) (off : Nat), frozen s = false →
    exec (.mgmtWordTimeout die acre off true) s = .next (countErr (spdB (physOf s die.val acre.val)) 15 off true 2 s)) ∧
  -- reservoirScrub
  (∀ (s : State) (die : Die) (line : Nat) (dirty : Bool) (loc : Option (Nat × Nat × Nat)), frozen s = false →
    exec (.reservoirScrub die line .corrected dirty loc) s = .next (bumpF (rsvB die.val) F.rsvEccCorrected 1 s)) ∧
  -- spareTestRun
  (∀ (s : State) (p : Path) (die : Die) (acre : PAcre) (data : Word) (g : Nat) (u : State),
    g = acreIx die acre → u = modAcre g (fun a => { a with spTest := s.counter })
      (setF (frwB g) F.frwSptestIntervalLog2 (fldOf F.frwSptestIntervalLog2 data) s) →
    writeGrant s p (frwB g) = .ok → fldOf F.frwSptestRun data = 1 → frozen u = false →
    exec (.spareTestRun p die acre data) s = .next (setF (frwB g) F.frwSptestBusy
      (((macroSpares u g).filter (fun q => 64 ≤ q)).foldl (fun n q => n + 2 ^ (q - 64)) 0) u)) ∧
  -- spareSelfTest
  (∀ (s : State) (die : Die) (acre : PAcre) (g : Nat),
    g = acreIx die acre → (s.counter - (getAcre s g).spTest) * 48 ≥ spareInterval s g → frozen s = false →
    exec (.spareSelfTest die acre) s = .next (setF (frwB g) F.frwSptestBusy
      (((macroSpares s g).filter (fun q => 64 ≤ q)).foldl (fun n q => n + 2 ^ (q - 64)) 0) s)) ∧
  -- spareTestDone
  (∀ (s : State) (die : Die) (acre : PAcre) (sp : Fin 2) (g busy was : Nat),
    g = acreIx die acre → busy = getF s (frwB g) F.frwSptestBusy → was = getF s (frwB g) F.frwSptestFail → frozen s = false → busy.testBit sp.val = true →
    exec (.spareTestDone die acre sp false) s = .next (setF (frwB g) F.frwSptestFail (if was.testBit sp.val then was - 2 ^ sp.val else was)
      (modAcre g (fun a => { a with spTest := s.counter }) (setF (frwB g) F.frwSptestBusy (busy - 2 ^ sp.val) s)))) ∧
  -- acreTestRequest
  (∀ (s : State) (p : Path) (data : Word) (g : Nat) (u : State),
    writeGrant s p rlyB = .ok → fldOf F.rlyTestreqGo data = 1 → fldOf F.rlyTestreqAll data = 0 → frozen s = false →
    fldOf F.rlyTestreqAcre data < 68 → g = fldOf F.rlyTestreqDie data * 68 + fldOf F.rlyTestreqAcre data →
    s.testQ.contains g = false → s.testing.contains g = false → s.swaps.any (fun j => j.old = g && j.why = .rotation) = false →
    u = regSet (rlyB + 0x10C) (fldPut F.rlyTestreqAcre (fldOf F.rlyTestreqAcre data) (fldPut F.rlyTestreqDie (fldOf F.rlyTestreqDie data)
      (fldPut F.rlyTestreqAll 0 0))) s →
    exec (.acreTestRequest p data) s = .next (serveTests { u with testQ := s.testQ ++ [g] })) ∧
  -- atomicAdd
  (∀ (s : State) (die : Die) (acre : PAcre) (g : Nat) (q : AtomicAdd) (rest : List AtomicAdd),
    g = acreIx die acre → (getAcre s g).atomics = q :: rest → frozen s = false → q.fp = true →
    exec (.atomicAdd die acre) s = .next (finishIfDone g (wrLE q.addr 4 (fadd (BitVec.ofNat 32 (rdLE s q.addr 4)) q.val).toNat
      (modRun g (fun r => { r with act := actAdd (g / 68) actRsv 1 r.act }) (modAcre g (fun a => { a with atomics := rest }) s)))))

/-- A pass goes to every macro of an acre on one cycle once its sets and its input are ready; a compare that matches commits the round and one that does
not stops issue; a repeat that matches commits its macro; a load writes row 0 and at its end row 63 makes the set READY; a pass that waited too long
faults SET_NOT_READY.
The rules: R59, R62, R69, R72, R73, R78, R81, R82. -/
def Obligations.FurrowPassesAndWeightLoads : Prop :=
  -- furrowPass
  (∀ (s : State) (die : Die) (acre : PAcre) (stall g n tok xa f q : Nat) (a : Acre) (c : CourseRun) (x : Acc) (sel : Bool),
    g = acreIx die acre → a = getAcre s g → a.run = some c → acreLive s g = true → dKind c.desc = 1 → a.held = false →
    passPos a c (walkTiles c.desc c.bounds + 1) c.tile = some (n, tok) → f = fillOf c.desc c.bounds n → x = getAcc a (accOf f) →
    q = weightTile c.desc c.bounds n → sel = decide (q % 2 = 1) → c.yielding = false → setsReady a c.sn q = true → xTile s c n = some xa →
    exec (.furrowPass die acre stall) s = .next (bumpPair (acrB g) 0x108 stall
      (modRun g (fun y => { y with tile := n, act := actAdd (g / 68) (if xBits (xfmtOf (dXfmt c.desc)) = 8 then actPass8 else actPass4) 64 y.act })
        (setAcre g (putAcc (accOf f) { x with st := .fill, issued := x.issued + 1 }
          { a with
            rounds := a.rounds ++ [{ setB := sel, acc := accOf f, fill := f, tile := n, tok := tok
                                     xs := (List.range 64).map (passInput s c.desc (tilePos c.desc c.bounds n) xa tok x.e) }]
            macros := a.macros.map (fun (e : Nat × Macro) => (e.1, { putSet sel { Machine.setOf e.2 sel with st := .active } e.2 with cset := sel })) }) s)))) ∧
  -- passResidueCompare
  (∀ (s : State) (die : Die) (acre : PAcre) (errs : List PassErr) (g : Nat) (a : Acre) (c : CourseRun) (r r1 : Round) (rest : List Round)
    (res : List (Nat × List Int × Bool)),
    g = acreIx die acre → a = getAcre s g → a.run = some c → a.rounds = r :: rest → acreLive s g = true → a.held = false → r.compared = false →
    res = (List.range 64).map (fun m => (m, withErrs m errs (passOut (decide (dWfmt c.desc = 1)) (xfmtOf (dXfmt c.desc)) (setRows (roundRows a r m)) (r.xs.getD m [])),
      residueOk (decide (dWfmt c.desc = 1)) (setRows (roundRows a r m)) (r.xs.getD m [])
        (withErrs m errs (passOut (decide (dWfmt c.desc = 1)) (xfmtOf (dXfmt c.desc)) (setRows (roundRows a r m)) (r.xs.getD m []))))) →
    r1 = { r with outs := (res.filter (fun t => t.2.2)).map (fun t => (t.1, t.2.1)), bad := (res.filter (fun t => !t.2.2)).map (fun t => t.1), compared := true } →
    exec (.passResidueCompare die acre errs) s = .next (if r1.bad.isEmpty
      then commitRound g (setAcre g { a with rounds := r1 :: rest, held := false } s)
      else setAcre g { a with rounds := r1 :: rest, held := true } s)) ∧
  -- residueRepeatDone
  (∀ (s : State) (die : Die) (acre : PAcre) (m : LMacro) (errs : List PassErr) (cycle g : Nat) (a : Acre) (c : CourseRun) (r : Round) (rest : List Round)
    (out : List Int) (bad : List Nat),
    g = acreIx die acre → a = getAcre s g → a.run = some c → a.rounds = r :: rest → acreLive s g = true → r.bad.contains m.val = true →
    out = withErrs m.val errs (passOut (decide (dWfmt c.desc = 1)) (xfmtOf (dXfmt c.desc)) (setRows (roundRows a r m.val)) (r.xs.getD m.val [])) →
    residueOk (decide (dWfmt c.desc = 1)) (setRows (roundRows a r m.val)) (r.xs.getD m.val []) out = true →
    thirdTransient (getMacro a m.val).transients cycle = false → bad = r.bad.filter (· ≠ m.val) → bad ≠ [] →
    exec (.residueRepeatDone die acre m errs cycle) s = .next (macroEvent g (physMacro s g m.val) 0x48 (bumpF (frwB g) F.frwEvtTransients 1
      (setAcre g (setMacro m.val { getMacro a m.val with transients := (cycle :: (getMacro a m.val).transients).take 3 }
        { a with rounds := { r with outs := insertK r.outs m.val out, bad := bad } :: rest }) s)))) ∧
  -- weightLoadStart
  (∀ (s : State) (die : Die) (acre : PAcre) (m : LMacro) (g q : Nat) (a : Acre) (c : CourseRun) (sel : Bool),
    g = acreIx die acre → a = getAcre s g → loadChoice a m.val = some (c, q) → sel = decide (q % 2 = 1) → acreLive s g = true →
    (Machine.setOf (getMacro a m.val) sel).st ≠ .active → (Machine.setOf (getMacro a m.val) sel).st ≠ .loading →
    loadFault s (tilePos c.desc c.bounds (weightFirst c.desc c.bounds q)) m.val = none →
    exec (.weightLoadStart die acre m) s = .next (modAcre g (setMacro m.val
      { putSet sel { st := .loading, int4 := dWfmt c.desc = 1, rows := [], tile := some (c.sn, q) } (getMacro a m.val) with rows := 1 }) s)) ∧
  -- weightLoadDone
  (∀ (s : State) (die : Die) (acre : PAcre) (m : LMacro) (g q : Nat) (a : Acre) (c : CourseRun),
    g = acreIx die acre → a = getAcre s g → a.run = some c → acreLive s g = true → (Machine.setOf (getMacro a m.val) false).st = .loading →
    (Machine.setOf (getMacro a m.val) false).tile = some (c.sn, q) →
    exec (.weightLoadDone die acre m) s = .next (modRun g (fun y => { y with act := actAdd (g / 68) actLineRd 64 (actAdd (g / 68) actRow 64 y.act) })
      (modAcre g (setMacro m.val { putSet false { Machine.setOf (getMacro a m.val) false with
          st := .ready, rows := loadRows s c.desc (tilePos c.desc c.bounds (weightFirst c.desc c.bounds q)) m.val } (getMacro a m.val) with rows := 64 }) s))) ∧
  -- setNotReady
  (∀ (s : State) (die : Die) (acre : PAcre) (g n tok : Nat) (a : Acre) (c : CourseRun),
    g = acreIx die acre → a = getAcre s g → a.run = some c → acreLive s g = true → dKind c.desc = 1 →
    passPos a c (walkTiles c.desc c.bounds + 1) c.tile = some (n, tok) → setsReady a c.sn (weightTile c.desc c.bounds n) = false →
    exec (.setNotReady die acre) s = .next (reportFault g 0x4B 3 g c (modAcre g (fun a => { clearFlight a with run := none }) s)))

/-- The next fill's accumulator starts its preload and is READY at its end; a fill whose passes have all committed starts its drain, whose end frees the
accumulator; a prompt course yields to a generation course, resumes, and a pending course moves to the running slot; an accepted MATMUL course enters
the pending slot.
The rules: R94, R96, R100, R102, R103, R104, R111, R254, R307. -/
def Obligations.AccumulatorsAndCourseSlots : Prop :=
  -- accPreloadStart
  (∀ (s : State) (die : Die) (acre : PAcre) (g : Nat) (c : CourseRun),
    g = acreIx die acre → (getAcre s g).run = some c → acreLive s g = true → dKind c.desc = 1 → c.yielding = false →
    c.nextFill < fillCount c.desc c.bounds → (getAcc (getAcre s g) (accOf c.nextFill)).st = .idle → fillKind c.desc c.bounds c.nextFill = 0 →
    exec (.accPreloadStart die acre) s = .next (modRun g (fun r => { r with
        nextFill := max r.nextFill (c.nextFill + 1), act := actAdd (g / 68) actAcc (preCycles r.desc r.bounds c.nextFill) r.act })
      (modAcre g (putAcc (accOf c.nextFill) { st := .preload, e := 0, eSrc := 0, ents := [], fill := c.nextFill }) s))) ∧
  -- accPreloadDone
  (∀ (s : State) (die : Die) (acre : PAcre) (acc1 : Bool) (g : Nat) (x : Acc),
    g = acreIx die acre → x = getAcc (getAcre s g) acc1 → acreLive s g = true → x.st = .preload →
    exec (.accPreloadDone die acre acc1) s = .next (modAcre g (putAcc acc1 { x with st := .ready }) s)) ∧
  -- accDrain
  (∀ (s : State) (die : Die) (acre : PAcre) (acc1 : Bool) (g : Nat) (x : Acc) (c : CourseRun),
    g = acreIx die acre → x = getAcc (getAcre s g) acc1 → (getAcre s g).run = some c → acreLive s g = true → x.st = .fill →
    x.commits = fillRounds c x.fill → toPark c.desc c.bounds x.fill = true →
    exec (.accDrain die acre acc1) s = .next (releaseInputs c x.fill (modRun g (fun r => { r with act := actAdd (g / 68) actAcc 128 r.act })
      (modAcre g (putAcc acc1 { x with st := .drain }) s)))) ∧
  -- accDrain
  (∀ (s : State) (die : Die) (acre : PAcre) (acc1 : Bool) (g : Nat) (x : Acc) (c : CourseRun),
    g = acreIx die acre → x = getAcc (getAcre s g) acc1 → (getAcre s g).run = some c → acreLive s g = true → x.st = .fill →
    x.commits = fillRounds c x.fill → toPark c.desc c.bounds x.fill = false → coutSlot s c x.fill = none → dRedmode c.desc ≠ 1 →
    exec (.accDrain die acre acc1) s = .next (releaseInputs c x.fill (modRun g (fun r => { r with act := actAdd (g / 68) actAcc 128 r.act })
      (modAcre g (putAcc acc1 { x with st := .drain }) s)))) ∧
  -- accDrainDone
  (∀ (s : State) (die : Die) (acre : PAcre) (acc1 : Bool) (g : Nat) (x : Acc) (c : CourseRun),
    g = acreIx die acre → x = getAcc (getAcre s g) acc1 → (getAcre s g).run = some c → acreLive s g = true → x.st = .drain →
    exec (.accDrainDone die acre acc1) s = .next (yieldIfDrained g (finishIfDone g (modRun g (fun r => { r with
        drained := r.drained + 1, spillExp := max r.spillExp x.e
        spillTiles := if (!toPark c.desc c.bounds x.fill && decide (x.e > 0)) = true then min 65535 (r.spillTiles + 1) else r.spillTiles })
      (modAcre g (putAcc acc1 {}) (drainWrite c x s)))))) ∧
  -- courseYield
  (∀ (s : State) (die : Die) (acre : PAcre) (g : Nat) (a : Acre) (c p : CourseRun),
    g = acreIx die acre → a = getAcre s g → a.run = some c → a.pend = some p → acreLive s g = true → courseYields c = true →
    courseYields p = false → c.yielding = false → a.acc0.st = .fill → a.acc1.st = .idle →
    exec (.courseYield die acre) s = .next (setAcre g { a with run := some { c with yielding := true } } s)) ∧
  -- courseResume
  (∀ (s : State) (die : Die) (acre : PAcre) (g : Nat) (a : Acre) (c : CourseRun),
    g = acreIx die acre → a = getAcre s g → a.run = none → a.pend = none → a.aside = some c → acreLive s g = true →
    exec (.courseResume die acre) s = .next (setAcre g { dropTiles a with
      aside := none
      run := some { c with yielded := false, tile := if dKind c.desc = 1 then firstTile c.desc c.bounds c.nextFill else c.tile } } s)) ∧
  -- courseStart
  (∀ (s : State) (die : Die) (acre : PAcre) (g : Nat) (a : Acre) (c : CourseRun),
    g = acreIx die acre → a = getAcre s g → a.run = none → a.pend = some c → acreLive s g = true → issueHeld s g = false →
    exec (.courseStart die acre) s = .next (setAcre g { passPairs a with run := some c, pend := none } s)) ∧
  -- matmulCourse
  (∀ (s : State) (iss : Issue) (im : Image) (d : List Byte) (bs : List Nat) (u : State) (g : Nat),
    courseDesc s iss = some (im, d) → dKind d = 1 → slotFree s d = true → issueCheck s iss im d = .ok bs → u = countIssue s → g = execAcre u d →
    exec (.matmulCourse iss) s = .next (bumpSerial (writePairs g iss.image d
      { modAcre g (fun a => { a with pend := some (newRun u iss im d bs) }) u with issued := setK u.issued g (getK u.issued g 0 + 1) 0 })))

/-- The command of a running VECTOR course takes its next tile: it reads the row, writes the row that the operation gives, drains and fills the gates of
its chains, adds its cycles and traffic to the course's record, and goes on to the tiles that follow.
The rules: R116, R124, R125, R126, R127, R129, R252, R261, R652, R654. -/
def Obligations.VectorCourses : Prop :=
  -- rmsNormalisation
  (∀ (s : State) (iss : Issue) (im : Image) (d : List Byte) (g k x y : Nat) (c : CourseRun) (p : TilePos) (xs : List Word),
    RunsOn s iss im d g c → isVec 0x10 d = true → isGatherIn s iss d = false → c.tile < walkTiles c.desc c.bounds → p = tilePos c.desc c.bounds c.tile → k = p.ext.getD 0 0 →
    tileIn s c c.tile p.x = some x → tileOut s c c.tile p.y = some y →
    readFault s x (elemBytes (latFmtX (dXfmt c.desc)) k) = none → readFault s (paramAddr c.desc p.idx) (4 * k) = none → xs = rdVec s (latFmtX (dXfmt c.desc)) x k →
    exec (.rmsNormalisation iss) s = .next (runTiles g (walkOf (rmsTile g)) (walkTiles c.desc c.bounds) (modRun g (fun r => { r with tile := c.tile + 1 })
      (chargeTile g (vecCycles (dOp c.desc) k 1 ((dScales c.desc).testBit 2)) (x, elemBytes (latFmtX (dXfmt c.desc)) k) (y, rowBytes c.desc k)
        (tileFilled c c.tile (tileDrained c c.tile (writeRow c.desc y (rmsNorm xs (rdVec s .fp32 (paramAddr c.desc p.idx) xs.length) (dParam c.desc)) s))))))) ∧
  -- layerNormalisation
  (∀ (s : State) (iss : Issue) (im : Image) (d : List Byte) (g k x y : Nat) (c : CourseRun) (p : TilePos) (xs : List Word),
    RunsOn s iss im d g c → isVec 0x11 d = true → isGatherIn s iss d = false → c.tile < walkTiles c.desc c.bounds → p = tilePos c.desc c.bounds c.tile → k = p.ext.getD 0 0 →
    tileIn s c c.tile p.x = some x → tileOut s c c.tile p.y = some y →
    readFault s x (elemBytes (latFmtX (dXfmt c.desc)) k) = none → readFault s (paramAddr c.desc p.idx) (8 * k) = none → xs = rdVec s (latFmtX (dXfmt c.desc)) x k →
    exec (.layerNormalisation iss) s = .next (runTiles g (walkOf (layerTile g)) (walkTiles c.desc c.bounds) (modRun g (fun r => { r with tile := c.tile + 1 })
      (chargeTile g (vecCycles (dOp c.desc) k 1 ((dScales c.desc).testBit 2)) (x, elemBytes (latFmtX (dXfmt c.desc)) k) (y, rowBytes c.desc k)
        (tileFilled c c.tile (tileDrained c c.tile (writeRow c.desc y (layerNorm xs (rdVec s .fp32 (paramAddr c.desc p.idx) xs.length) (rdVec s .fp32 (paramAddr c.desc p.idx + 4 * xs.length) xs.length) (dParam c.desc)) s))))))) ∧
  -- int8Quantisation
  (∀ (s : State) (iss : Issue) (im : Image) (d : List Byte) (g k x y : Nat) (c : CourseRun) (p : TilePos) (xs : List Word),
    RunsOn s iss im d g c → isVec 0x12 d = true → isGatherIn s iss d = false → c.tile < walkTiles c.desc c.bounds → p = tilePos c.desc c.bounds c.tile → k = p.ext.getD 0 0 →
    tileIn s c c.tile p.x = some x → tileOut s c c.tile p.y = some y →
    readFault s x (elemBytes (latFmtX (dXfmt c.desc)) k) = none → readFault s 0 0 = none → xs = rdVec s (latFmtX (dXfmt c.desc)) x k →
    exec (.int8Quantisation iss) s = .next (runTiles g (walkOf (quantTile g)) (walkTiles c.desc c.bounds) (modRun g (fun r => { r with tile := c.tile + 1 })
      (chargeTile g (vecCycles (dOp c.desc) k 1 ((dScales c.desc).testBit 2)) (x, elemBytes (latFmtX (dXfmt c.desc)) k) (y, rowBytes c.desc k)
        (tileFilled c c.tile (tileDrained c c.tile (writeRow c.desc y (xs) s))))))) ∧
  -- vectorAdd
  (∀ (s : State) (iss : Issue) (im : Image) (d : List Byte) (g k x y : Nat) (c : CourseRun) (p : TilePos) (xs : List Word),
    RunsOn s iss im d g c → isVec 0x15 d = true → isGatherIn s iss d = false → c.tile < walkTiles c.desc c.bounds → p = tilePos c.desc c.bounds c.tile → k = p.ext.getD 0 0 →
    tileIn s c c.tile p.x = some x → tileOut s c c.tile p.y = some y →
    readFault s x (elemBytes (latFmtX (dXfmt c.desc)) k) = none → readFault s (secondAddr c.desc p.idx) (elemBytes (latFmtX (dXfmt c.desc)) k) = none → xs = rdVec s (latFmtX (dXfmt c.desc)) x k →
    exec (.vectorAdd iss) s = .next (runTiles g (walkOf (zipTile fadd g)) (walkTiles c.desc c.bounds) (modRun g (fun r => { r with tile := c.tile + 1 })
      (chargeTile g (vecCycles (dOp c.desc) k 1 ((dScales c.desc).testBit 2)) (x, elemBytes (latFmtX (dXfmt c.desc)) k) (y, rowBytes c.desc k)
        (tileFilled c c.tile (tileDrained c c.tile (writeRow c.desc y (xs.zipWith fadd (rdVec s (latFmtX (dXfmt c.desc)) (secondAddr c.desc p.idx) xs.length)) s))))))) ∧
  -- vectorMultiply
  (∀ (s : State) (iss : Issue) (im : Image) (d : List Byte) (g k x y : Nat) (c : CourseRun) (p : TilePos) (xs : List Word),
    RunsOn s iss im d g c → isVec 0x16 d = true → isGatherIn s iss d = false → c.tile < walkTiles c.desc c.bounds → p = tilePos c.desc c.bounds c.tile → k = p.ext.getD 0 0 →
    tileIn s c c.tile p.x = some x → tileOut s c c.tile p.y = some y →
    readFault s x (elemBytes (latFmtX (dXfmt c.desc)) k) = none → readFault s (secondAddr c.desc p.idx) (elemBytes (latFmtX (dXfmt c.desc)) k) = none → xs = rdVec s (latFmtX (dXfmt c.desc)) x k →
    exec (.vectorMultiply iss) s = .next (runTiles g (walkOf (zipTile fmul g)) (walkTiles c.desc c.bounds) (modRun g (fun r => { r with tile := c.tile + 1 })
      (chargeTile g (vecCycles (dOp c.desc) k 1 ((dScales c.desc).testBit 2)) (x, elemBytes (latFmtX (dXfmt c.desc)) k) (y, rowBytes c.desc k)
        (tileFilled c c.tile (tileDrained c c.tile (writeRow c.desc y (xs.zipWith fmul (rdVec s (latFmtX (dXfmt c.desc)) (secondAddr c.desc p.idx) xs.length)) s))))))) ∧
  -- softmaxBlock
  (∀ (s : State) (iss : Issue) (im : Image) (d : List Byte) (g k x y : Nat) (c : CourseRun) (p : TilePos) (m l al : Word) (o : SoftOut),
    RunsOn s iss im d g c → isVec 0x13 d = true → isGatherIn s iss d = false → c.tile < walkTiles c.desc c.bounds → p = tilePos c.desc c.bounds c.tile → k = p.ext.getD 0 0 →
    tileIn s c c.tile p.x = some x → tileOut s c c.tile p.y = some y →
    readFault s x (elemBytes (latFmtX (dXfmt c.desc)) k) = none → (m, l, al) = getK (getAcre s g).soft c.tile (f32NegInf, 0, 0) →
    o = softBlock m l (rdVec s (latFmtX (dXfmt c.desc)) x k) →
    exec (.softmaxBlock iss) s = .next (runTiles g (walkOf (softTile g)) (walkTiles c.desc c.bounds) (modRun g (fun r => { r with tile := c.tile + 1 })
      (chargeTile g (vecCycles 0x13 k 1 false) (x, elemBytes (latFmtX (dXfmt c.desc)) k) (y, k)
        (tileFilled c c.tile (tileDrained c c.tile (modAcre g (fun a => { a with soft := setK a.soft c.tile (o.m, o.l, o.alpha) (f32NegInf, 0, 0) })
          (wrMem y (o.pq.map (BitVec.ofNat 8)) s)))))))) ∧
  -- routing
  (∀ (s : State) (iss : Issue) (im : Image) (d : List Byte) (g k x : Nat) (c : CourseRun) (p : TilePos) (zs : List Word),
    RunsOn s iss im d g c → isVec 0x14 d = true → isGatherIn s iss d = false → c.tile < walkTiles c.desc c.bounds →
    p = tilePos c.desc c.bounds c.tile → k = p.ext.getD 0 0 → tileIn s c c.tile p.x = some x →
    readFault s x (elemBytes (latFmtX (dXfmt c.desc)) k) = none → zs = rdVec s (latFmtX (dXfmt c.desc)) x k →
    exec (.routing iss) s = .next (runTiles g { walkOf (routeTile g) with last := routeLast g } (walkTiles c.desc c.bounds)
      (modRun g (fun r => { r with tile := c.tile + 1 })
        (chargeTile g (vecCycles 0x14 k (routeK c.desc) false) (x, elemBytes (latFmtX (dXfmt c.desc)) k) (physAddr (dY c.desc) + 80 * c.tile, 80)
          (tileDrained c c.tile (modRun g (fun r => { r with hist := histAdd (routeSel zs (routeK c.desc)) r.hist })
            (wrMem (physAddr (dY c.desc) + 80 * c.tile) (routeRecord zs (routeK c.desc)) s))))))) ∧
  -- sampling
  (∀ (s : State) (iss : Issue) (im : Image) (d : List Byte) (g v x y : Nat) (c : CourseRun) (r : RowRec) (zs : List Word),
    RunsOn s iss im d g c → isVec 0x17 d = true → isGatherIn s iss d = false → c.tile < walkTiles c.desc c.bounds → v = c.bounds.getD 0 0 →
    tileIn s c c.tile (physAddr (dX c.desc) + 4 * v * c.tile) = some x → tileOut s c c.tile (physAddr (dY c.desc) + 4 * c.tile) = some y →
    readFault s x (4 * v) = none → readFault s (physAddr (dP c.desc) + 32 * c.tile) 32 = none →
    zs = rdVec s .fp32 x v → r = rdRowRec s (physAddr (dP c.desc) + 32 * c.tile) →
    exec (.sampling iss []) s = .next (runTiles g (walkOf (stepSampleTile [] g)) (walkTiles c.desc c.bounds) (modRun g (fun r => { r with tile := c.tile + 1 })
      (chargeTile g (sampleCycles r zs) (x, 4 * v) (y, 4) (tileFilled c c.tile (tileDrained c c.tile (wrLE y 4 (sampleRow r zs) s))))))) ∧
  -- orderedSum
  (∀ (s : State) (iss : Issue) (im : Image) (d : List Byte) (g y n : Nat) (c : CourseRun) (ch : Chain) (slots : List Nat),
    RunsOn s iss im d g c → dKind d = 4 → isGatherIn s iss d = true → c.tile = 0 → getChain s c.issue.image (dCinIx c.desc) = some ch →
    tileOut s c 0 (physAddr (dY c.desc)) = some y → n = prodL c.bounds → slots = (List.range ch.slots).map (slotAddr ch) →
    (List.range ch.slots).all (fun k => (getGate s c.issue.image (dCinIx c.desc) k).full) = true →
    (List.range ch.slots).findSome? (fun k => readFault s (slotAddr ch k) (4 * n + 1)) = none → ch.fmt ≠ 0 →
    exec (.orderedSum iss) s = .next (runTiles g { total := fun _ => 1, tile := orderedTile g, last := noLast } 1
      (modRun g (fun r => { r with tile := c.tile + 1 }) (chargeTile g (lanePasses n * ch.slots) (slots.getD 0 0, 4 * n * ch.slots)
        (y, elemBytes (latFmtY (dYfmt c.desc)) n) (tileFilled c 0 ((List.range ch.slots).foldl (fun u k => gateDrain c.issue.image (dCinIx c.desc) k u)
          (writeRow c.desc y ((List.range n).map (fun i => orderedF32 (slots.map (fun a => rdF32 s (a + 4 * i))))) s)))))))

/-- The command of a running MOVE course takes its next tile: the elements that its operation gives go to Y, the gates drain and fill, and the tiles that
follow are taken. An ATTEND course with no segment and a merge of partial states end their one tile.
The rules: R252, R261, R312, R313, R315, R352. -/
def Obligations.MoveAndAttendCourses : Prop :=
  -- fill
  (∀ (s : State) (iss : Issue) (im : Image) (d : List Byte) (g k y : Nat) (c : CourseRun) (p : TilePos),
    RunsOn s iss im d g c → dKind d = 5 → dOp d = 0x20 → c.tile < walkTiles c.desc c.bounds → p = tilePos c.desc c.bounds c.tile → k = p.ext.getD 0 0 →
    tileOut s c c.tile p.y = some y →
    exec (.fill iss) s = .next (runTiles g (walkOf (fillTile g)) (walkTiles c.desc c.bounds) (modRun g (fun r => { r with tile := c.tile + 1 })
      (chargeTile g 0 (0, 0) (y, elemBytes (latFmtY (dYfmt c.desc)) k) (tileFilled c c.tile (clearPoison y (elemBytes (latFmtY (dYfmt c.desc)) k)
        (wrAt (latFmtY (dYfmt c.desc)) y ((List.range k).map (fun i => (i, (dParam c.desc).toNat % 2 ^ fmtBits (latFmtY (dYfmt c.desc))))) s))))))) ∧
  -- copy
  (∀ (s : State) (iss : Issue) (im : Image) (d : List Byte) (g k x y : Nat) (c : CourseRun) (p : TilePos) (es : List (Nat × Nat)),
    RunsOn s iss im d g c → dKind d = 5 → dOp d = 0x21 → c.tile < walkTiles c.desc c.bounds → p = tilePos c.desc c.bounds c.tile → k = p.ext.getD 0 0 →
    tileIn s c c.tile p.x = some x → tileOut s c c.tile p.y = some y →
    readFault s x (spanPacked c.desc k) = none → es = copyElems s c.desc x k →
    exec (.copy iss) s = .next (runTiles g (walkOf (copyTile g)) (walkTiles c.desc c.bounds) (modRun g (fun r => { r with tile := c.tile + 1 })
      (chargeTile g 0 (x, spanPacked c.desc k) (y, elemBytes (latFmtY (dYfmt c.desc)) es.length) (tileFilled c c.tile (tileDrained c c.tile
        (clearPoison y (if es.all (fun e => decide (e.1 < es.length)) then elemBytes (latFmtY (dYfmt c.desc)) es.length else 0)
          (wrAt (latFmtY (dYfmt c.desc)) y es s)))))))) ∧
  -- stride
  (∀ (s : State) (iss : Issue) (im : Image) (d : List Byte) (g k x y : Nat) (c : CourseRun) (p : TilePos) (es : List (Nat × Nat)),
    RunsOn s iss im d g c → dKind d = 5 → dOp d = 0x23 → c.tile < walkTiles c.desc c.bounds → p = tilePos c.desc c.bounds c.tile → k = p.ext.getD 0 0 →
    tileIn s c c.tile p.x = some x → tileOut s c c.tile p.y = some y →
    readFault s x (spanStride c.desc k) = none → es = strideElems s c.desc x k →
    exec (.stride iss) s = .next (runTiles g (walkOf (strideTile g)) (walkTiles c.desc c.bounds) (modRun g (fun r => { r with tile := c.tile + 1 })
      (chargeTile g 0 (x, spanStride c.desc k) (y, elemBytes (latFmtY (dYfmt c.desc)) es.length) (tileFilled c c.tile (tileDrained c c.tile
        (clearPoison y (if es.all (fun e => decide (e.1 < es.length)) then elemBytes (latFmtY (dYfmt c.desc)) es.length else 0)
          (wrAt (latFmtY (dYfmt c.desc)) y es s)))))))) ∧
  -- transpose
  (∀ (s : State) (iss : Issue) (im : Image) (d : List Byte) (g k x y : Nat) (c : CourseRun) (p : TilePos) (es : List (Nat × Nat)),
    RunsOn s iss im d g c → dKind d = 5 → dOp d = 0x22 → c.tile < walkTiles c.desc c.bounds → p = tilePos c.desc c.bounds c.tile → k = p.ext.getD 0 0 →
    tileIn s c c.tile p.x = some x → tileOut s c c.tile p.y = some y →
    readFault s x (spanPacked c.desc k) = none → es = transElems s c.desc x k → transShape (latFmtX (dXfmt c.desc)) ≠ none →
    exec (.transpose iss) s = .next (runTiles g (walkOf (transTile g)) (walkTiles c.desc c.bounds) (modRun g (fun r => { r with tile := c.tile + 1 })
      (chargeTile g 0 (x, spanPacked c.desc k) (y, elemBytes (latFmtY (dYfmt c.desc)) es.length) (tileFilled c c.tile (tileDrained c c.tile
        (clearPoison y (if es.all (fun e => decide (e.1 < es.length)) then elemBytes (latFmtY (dYfmt c.desc)) es.length else 0)
          (wrAt (latFmtY (dYfmt c.desc)) y es s)))))))) ∧
  -- expand
  (∀ (s : State) (iss : Issue) (im : Image) (d : List Byte) (g k x y : Nat) (c : CourseRun) (p : TilePos) (fr : Frame),
    RunsOn s iss im d g c → dKind d = 5 → dOp d = 0x24 → c.tile < walkTiles c.desc c.bounds → p = tilePos c.desc c.bounds c.tile → k = p.ext.getD 0 0 →
    tileIn s c c.tile p.x = some x → tileOut s c c.tile p.y = some y → readFault s x (16 + k) = none → readFrame s x k = some fr → fr.scale = none →
    exec (.expand iss) s = .next (runTiles g (walkOf (expandTile g)) (walkTiles c.desc c.bounds) (modRun g (fun r => { r with tile := c.tile + 1 })
      (chargeTile g 0 (x, 16 + k) (y, elemBytes (latFmtY (dYfmt c.desc)) k) (tileFilled c c.tile (tileDrained c c.tile
        (clearPoison y (elemBytes (latFmtY (dYfmt c.desc)) k)
          (wrAt (latFmtY (dYfmt c.desc)) y (numbered (fr.elems.map (moveElem fr.fmt (latFmtY (dYfmt c.desc))))) s)))))))) ∧
  -- attendCourse
  (∀ (s s1 : State) (iss : Issue) (im : Image) (d : List Byte) (g n rows pages x y : Nat) (c : CourseRun) (qt : QTable) (own : State → Seg → Nat) (frames : List Nat),
    RunsOn s iss im d g c → dKind d = 3 → (decide (dNlev d = 1) && isGatherIn s iss d) = false → c.tile = 0 → getImage s c.issue.image = some im →
    rows = c.bounds.getD 0 0 → pages = (if dNlev c.desc ≥ 2 then c.bounds.getD 1 0 else 1) → n = im.kvd →
    qt = rdQTable s (physAddr (dP c.desc)) (unitsOf n) rows → own = (fun t sg => (getStream t sg.stream).elim c.holding (fun z => z.holding)) →
    tileIn s c 0 (physAddr (dX c.desc)) = some x → tileOut s c 0 (physAddr (dY c.desc)) = some y →
    readFault s (physAddr (dP c.desc)) (0x40 + 32 * min (unitsOf n) (rdLE s (physAddr (dP c.desc)) 2) + 4 * rows) = none →
    readFault s x (rows * n) = none → segsOk qt (unitsOf n) rows pages = true →
    qt.segs.foldl (fun o sg => o.bind (fun t => appendSeg (dDie c.desc) (own t sg) n im.ctxP (winAddr c.desc sg.append) qt.h sg t)) (some s) = some s1 →
    qt.segs.any (fun sg => (segPages sg).any (fun e => !entryOk s1 (dDie c.desc) n (own s1 sg) e.2)) = false →
    frames = qt.segs.flatMap (fun sg => (segPages sg).map (fun e => frameAddr (dDie c.desc) n (rdEnt s1 e.2).frame)) →
    frames.findSome? (fun f => readFault s1 f (kvBytes n)) = none →
    exec (.attendCourse iss []) s = .next (runTiles g (oneTile (attendTile g)) 1 (modRun g (fun r => { r with tile := c.tile + 1 })
      (chargeTile g 0 (x, rows * n) (y, rows * n) (tileFilled c 0 (tileDrained c 0 (frameTraffic (dDie c.desc) n g frames
        (qt.segs.foldl (fun t sg => (List.range sg.nrows).foldl (fun w i =>
            if qt.partial_ then writePartial n y (sg.row0 + i) (walkRow s1 (dDie c.desc) n c.desc qt x (sg.row0 + i) sg) w
            else writeOut c.desc n rows y (sg.row0 + i) (rowOut (walkRow s1 (dDie c.desc) n c.desc qt x (sg.row0 + i) sg)) w) t)
          (modRun g (fun r => { r with
            act := attendAct (dDie c.desc) n qt.segs r.act, shares := qt.segs.map (fun sg => (sg.stream, sg.nrows * sg.npages)) }) s1))))))))) ∧
  -- attendMerge
  (∀ (s : State) (iss : Issue) (im : Image) (d : List Byte) (g rows y : Nat) (c : CourseRun) (ch : Chain) (slots : List Nat),
    RunsOn s iss im d g c → dKind d = 3 → dNlev d = 1 → isGatherIn s iss d = true → c.tile = 0 → getImage s c.issue.image = some im →
    rows = c.bounds.getD 0 0 → getChain s c.issue.image (dCinIx c.desc) = some ch → slots = (List.range ch.slots).map (slotAddr ch) →
    tileOut s c 0 (physAddr (dY c.desc)) = some y →
    (List.range ch.slots).all (fun k => (getGate s c.issue.image (dCinIx c.desc) k).full) = true →
    slots.findSome? (fun a => readFault s a (rows * partialBytes im.kvd)) = none →
    exec (.attendMerge iss) s = .next (runTiles g (oneTile (mergeTile g)) 1 (modRun g (fun r => { r with tile := c.tile + 1 })
      (chargeTile g (rows * ch.slots * lanePasses im.kvd) (slots.getD 0 0, ch.slots * rows * partialBytes im.kvd) (y, rows * im.kvd)
        (tileFilled c 0 ((List.range ch.slots).foldl (fun t k => gateDrain c.issue.image (dCinIx c.desc) k t)
          ((List.range rows).foldl (fun t r => writeOut c.desc im.kvd rows y r (rowOut (mergeRow s im.kvd slots r)) t) s)))))))

/-- An accepted BASIN course joins its controller's list; a pass whose input is readable runs on every basin of its group, a paused one resumes, a window
of splits closes with its counts, a reference slot is converted and the trims refitted, readings reach their plots and a limited plot reports itself.
The rules: R148, R152, R155, R158, R159, R160, R161, R162, R253. -/
def Obligations.CisternControllers : Prop :=
  -- basinCourse
  (∀ (s : State) (iss : Issue) (im : Image) (d : List Byte) (bs : List Nat) (u : State),
    courseDesc s iss = some (im, d) → dKind d = 2 → frozen s = false → (getRuns s (dDie d)).length < 1024 → issueCheck s iss im d = .ok bs → u = countIssue s →
    exec (.basinCourse iss) s = .next (bumpSerial (setRuns (dDie d) (getRuns u (dDie d) ++ [{ c := newRun u iss im d bs }]) u))) ∧
  -- basinPass
  (∀ (s : State) (die : Die) (run x : Nat) (mask : Option (List NeuronPair)) (theta : Int) (r : BasinRun) (ns : Option (List Neuron)) (bs : List Nat),
    (getRuns s die.val)[run]? = some r → frozen s = false → r.paused = false → r.corr = false → groupFree s die.val r.c.sn r.c = true →
    r.tok < inToks (basinTile r.c) → basinInput s r = some x → bs = groupBasins s (tileBasin s r.c (basinTile r.c)) →
    readFault s (x + r.tok * basinRowBytes r.c.desc bs.length) (basinRowBytes r.c.desc bs.length) = none →
    bs.any (fun b => weirHeld s (physBasin s b)) = false → ns = mask.map (fun l => l.map (fun n => ⟨n.gate.val, n.up.val⟩)) →
    exec (.basinPass die run mask theta false) s = .next (runPass die.val r x ns theta s)) ∧
  -- weirGroupResume
  (∀ (s : State) (die : Die) (run x : Nat) (r q : BasinRun) (bs : List Nat),
    (getRuns s die.val)[run]? = some r → frozen s = false → r.paused = true → q = { r with paused := false } →
    basinInput s q = some x → bs = groupBasins s (tileBasin s r.c (basinTile r.c)) →
    readFault s (x + r.tok * basinRowBytes r.c.desc bs.length) (basinRowBytes r.c.desc bs.length) = none →
    bs.any (fun b => weirHeld s (physBasin s b)) = false →
    exec (.weirGroupResume die run) s = .next (runPass die.val q x r.mask r.theta s)) ∧
  -- clipWindowClose
  (∀ (s : State) (basin : BasinIx) (b : Nat) (x : Basin),
    b = basin.toNat → x = getBasin s b → frozen s = false → 2 ^ 20 ≤ x.winGroups → x.winSplits = 0 →
    exec (.clipWindowClose basin) s = .next (setBasin b { x with
      winGroups := x.winGroups - 2 ^ 20, winSplits := x.winCarry, winCarry := 0, windows := min 65535 (x.windows + 1) } s)) ∧
  -- referenceSlot
  (∀ (s : State) (basin : BasinIx) (b n : Nat) (x : Basin) (due : List Nat) (slot : RefSlot) (base : NatMap Trim) (refs : List RefSlot),
    b = basin.toNat → x = getBasin s b → x.refDue = n :: due → frozen s = false →
    slot = ⟨x.refB, n, (List.range 16).map (fun k => Config.conversion (s.freeCtr + k) (if x.refB then 5 * (n : Int) else -6 * (n : Int)) x.s),
      (getPlot s (plotOf b)).temp⟩ →
    refs = (slot :: x.refs).take 256 → refs.length ≠ 256 → base = (x.newTrims).getD x.trims →
    exec (.referenceSlot basin) s = .next (modBasin b (fun z => { z with mon1 := if x.mon1 ≤ 1 then 0 else x.mon1 - 1 })
      (setBasin b { x with refDue := due, refs := refs, refB := !x.refB, newTrims := some ((List.range 16).foldl
        (fun m k => setK m k (fitTrim x.s k (refs.take 32) (getK base k {})) {}) base) } { s with freeCtr := s.freeCtr + 16 }))) ∧
  -- plotTempRead
  (∀ (s : State) (die : Die) (rs : List (PlotIx × Nat)), frozen s = false →
    exec (.plotTempRead die rs) s = .next (((rs.map (fun r => (r.1.toNat, r.2))).filter (fun r => plotDie r.1 = die.val)).foldl
      (fun t r => plotReading die.val r.1 r.2 t) s)) ∧
  -- plotThrottledReport
  (∀ (s : State) (plot : PlotIx) (p : Nat) (x : Plot) (st : Word),
    p = plot.toNat → x = getPlot s p → frozen s = false → 0 < x.limit → x.reported ≤ s.counter → st = statusWord x.owner p 0x0B 0x52 →
    exec (.plotThrottledReport plot) s = .next (emit (.telemetry x.owner st p) (lastEvt (cstB (plotDie p)) F.cstLastevtStatus st
      (setPlot p { x with reported := s.counter + 25000000 } s))))

/-- A running course that waits to read a slot ends with READ_BEFORE_FILL, one that waits to write with OVERWRITE_BEFORE_DRAIN, and one on a broken chain
with CHAIN_BROKEN: its record is sent, the running slot empties, the chain is broken for its step.
The rules: R281, R282, R286, R319, R383. -/
def Obligations.GateWaits : Prop :=
  -- readBeforeFill
  (∀ (s : State) (die : Die) (a : PAcre) (g : Nat) (c : CourseRun),
    g = acreIx die a → (getAcre s g).run = some c → acreLive s g = true → frozen s = false → waitsToRead s g c = true →
    fenceHolds s c.issue.image (dCinIx c.desc) = false →
    exec (.readBeforeFill (.acre die a)) s = .next (reportFault g 0x40 3 g c (modAcre g (fun a => { clearFlight a with run := none }) s))) ∧
  -- overwriteBeforeDrain
  (∀ (s : State) (die : Die) (a : PAcre) (g : Nat) (c : CourseRun),
    g = acreIx die a → (getAcre s g).run = some c → acreLive s g = true → frozen s = false → waitsToWrite s g c = true →
    fenceHolds s c.issue.image (dCoutIx c.desc) = false →
    exec (.overwriteBeforeDrain (.acre die a)) s = .next (reportFault g 0x41 3 g c (modAcre g (fun a => { clearFlight a with run := none }) s))) ∧
  -- chainBroken
  (∀ (s : State) (die : Die) (a : PAcre) (g : Nat) (c : CourseRun),
    g = acreIx die a → (getAcre s g).run = some c → acreLive s g = true → frozen s = false → onBroken s c.issue c.desc = true →
    waitsToRead s g c = true →
    exec (.chainBroken (.acre die a)) s = .next (reportFault g 0x42 3 g c (modAcre g (fun a => { clearFlight a with run := none }) s)))

/-- An image command that may be taken opens an image with its ring and channel or answers the refusal, activates a READY or ACTIVE image, releases it, or
answers its state; the control part that has arrived whole is accepted or refused; the mask of a module-owned image is written.
The rules: R43, R174, R175, R177, R179, R249, R250, R511, R518, R519. -/
def Obligations.ImageCommands : Prop :=
  -- imageOpen
  (∀ (s t u : State) (src : CmdSrc) (c : HostCmd) (h ch : Nat),
    taken src 0x10 s = some (c, t) → c.by_ ≠ 15 → openImage c.by_ c.arg0 c.arg1 t = .inr (h, ch, u) →
    exec (.imageOpen src) s = .next (respond c 0 h h ch 0 u)) ∧
  -- moduleImageOpen
  (∀ (s u : State) (mib size h ch : Nat), frozen s = false → openImage 15 mib size s = .inr (h, ch, u) →
    exec (.moduleImageOpen mib size) s = .next (emit (.mgmt 0x10 0 h h ch 0) u)) ∧
  -- imageControlCheck
  (∀ (s : State) (h : Nat) (im : Image),
    getImage s h = some im → frozen s = false → s.rely.coresLost = false → im.st = .staging → controlHere im = true →
    exec (.imageControlCheck h) s = .next (match controlBad s im, acceptImage im s with
      | some b, _ => refuseImage h 1 b s
      | none, .inl (cls, b) => refuseImage h cls b s
      | none, .inr t => readyCheck h (processAll h t))) ∧
  -- imageActivate
  (∀ (s t : State) (src : CmdSrc) (c : HostCmd) (im : Image),
    taken src 0x11 s = some (c, t) → ownImage t c.by_ c.handle = some im → (im.st = .ready ∨ im.st = .active) →
    exec (.imageActivate src) s = .next (ack c (activate im t))) ∧
  -- moduleImageActivate
  (∀ (s : State) (h : Nat) (im : Image), frozen s = false → ownImage s 15 h = some im → (im.st = .ready ∨ im.st = .active) →
    exec (.moduleImageActivate h) s = .next (emit (.mgmt 0x11 0 h 0 0 0) (activate im s))) ∧
  -- holdingMaskWrite
  (∀ (s : State) (h : Nat) (im : Image) (mask : BitVec 4), frozen s = false → ownImage s 15 h = some im →
    exec (.holdingMaskWrite h mask) s = .next (putImage { im with mask := mask.toNat } s)) ∧
  -- imageRelease
  (∀ (s t : State) (src : CmdSrc) (c : HostCmd) (im : Image), taken src 0x12 s = some (c, t) → ownImage t c.by_ c.handle = some im →
    exec (.imageRelease src) s = .next (ack c (releaseImage im t))) ∧
  -- imageStatus
  (∀ (s t : State) (src : CmdSrc) (c : HostCmd) (im : Image), taken src 0x13 s = some (c, t) → ownImage t c.by_ c.handle = some im →
    exec (.imageStatus src) s = .next (respond c 0 im.handle (imageCode im.st) im.programmed im.status.toNat t))

/-- A whole record that passes binds its basin, one that fails is asked for again; a row that may start stores its levels, pins and repairs; an armed swap
takes effect; a spare is tested; a due basin is queued and a queued one read back onto a spare; requests queue the basins of their plot.
The rules: R171, R176, R180, R188, R190, R192, R195, R196, R197, R199, R201. -/
def Obligations.BasinProgramming : Prop :=
  -- basinRecord
  (∀ (s : State) (h : Nat) (im : Image) (k e : Nat) (bs : List Byte),
    getImage s h = some im → frozen s = false → im.st = .programming → im.accepted = true → bulkAt im.sects im.freed = some (8, k, e) →
    im.freed + 131136 ≤ e → im.freed + 131136 ≤ im.arrived → bs = ctlBytes im im.freed 131136 →
    exec (.basinRecord h) s = .next (if recordOk im bs then takeRecord im bs s else failBasinRecord im s)) ∧
  -- programRow
  (∀ (s : State) (basin : BasinIx) (range : Fin 3) (b : Nat) (x : Basin),
    b = basin.toNat → x = getBasin s b → rowMayStart s b = true → x.row < 511 → x.image = none → x.recal = false → x.worn = [] →
    x.pins.length ≤ min 64 (getF s (cstB (basinDie b)) F.cstMoncfgCellWarn) → rowStops x [] [] = [] →
    exec (.programRow basin [] [] range) s = .next (setBasin b (rowDone x [] []).1 s)) ∧
  -- basinSwap
  (∀ (s : State) (basin : BasinIx) (b sp : Nat) (x : Basin),
    b = basin.toNat → x = getBasin s b → frozen s = false → x.armed = some .bringIn → spareFor s b = some sp →
    exec (.basinSwap basin) s = .next (if x.recal then
        modBasin b (fun y => { y with armed := none, standIn := some sp, st := .mirrored, programming := true, row := 0, target := (getBasin s sp).target })
          (modBasin sp (fun y => { y with st := .spareIn, target := [], ageFrom := s.counter, ageH := 0 }) s)
      else modBasin b (fun y => { y with armed := none, standIn := some sp, st := .retired, retireDue := true, deferred := false })
        (modBasin sp (fun y => { y with st := .spareIn, target := [], ageFrom := s.counter, ageH := 0 }) s))) ∧
  -- basinSwap
  (∀ (s : State) (basin : BasinIx) (b sp : Nat) (x : Basin),
    b = basin.toNat → x = getBasin s b → frozen s = false → x.armed = some .bringBack → spareFor s b = some sp →
    exec (.basinSwap basin) s = .next (leaveReqs b true false (freeSpare sp (modBasin b (fun y => { y with
      armed := none, standIn := none, st := if y.home.isSome then .spareIn else .service, recal := false
      ageH := 0, ageFrom := s.counter, overdue := false, overdueN := 0 }) s)))) ∧
  -- spareBasinTest
  (∀ (s : State) (basin : BasinIx) (unusable : Nat) (offgrid : Bool) (b cd : Nat) (u : State),
    b = basin.toNat → cd = cdieOf b → frozen s = false → (cistSpares s cd).contains b = true →
    getK s.cist.spareTests cd 0 + 24 * 90000000000 ≤ s.counter →
    u = { s with cist := { s.cist with spareTests := setK s.cist.spareTests cd s.counter 0 } } →
    exec (.spareBasinTest basin unusable offgrid) s = .next (if unusable > 16 ∨ offgrid then
      sparesLow cd (modBasin b (fun x => { x with st := .retired, offgrid := offgrid }) u) else u)) ∧
  -- recalDue
  (∀ (s : State) (basin : BasinIx) (b : Nat) (x : Basin), b = basin.toNat → x = getBasin s b →
    frozen s = false → serving s x = true → x.recal = false → calInterval s b ≤ basinAge s x →
    exec (.recalDue basin) s = .next (queueDue b s)) ∧
  -- recalibration
  (∀ (s : State) (basin : BasinIx) (b cd sp : Nat) (reads : List CellRead) (x : Basin) (sps : List Nat) (rows : List (List Nat)) (m target : NatMap Nat),
    b = basin.toNat → cd = cdieOf b → x = getBasin s b → frozen s = false → s.rely.coresLost = false → inTrickle s = false →
    s.cist.queue.find? (fun q => cdieOf q = cd) = some b → serving s x = true → x.recal = false → x.armed = none →
    mirrors s cd < max 1 (getF s (cstB (basinDie b)) F.cstCalcfgMirrorMax) → cistSpares s cd = sp :: sps →
    m = reads.foldl (fun n e => insertK n (cellKey e.row.val e.col.val) e.at_.val) [] → resolveAll x m = some rows →
    target = rows.zipIdx.flatMap (fun e => ((e.1.take 512).zipIdx.map (fun z => (cellKey e.2 z.2, z.1))).filter (fun z => z.2 ≠ 8)) →
    exec (.recalibration basin reads) s = .next (takeSpare b sp target (modBasin b (fun y => { y with recal := true, worn := wornCells m rows }) (dequeue b s)))) ∧
  -- calOverdue
  (∀ (s : State) (basin : BasinIx) (b i : Nat) (x : Basin), b = basin.toNat → x = getBasin s b → i = calInterval s b →
    frozen s = false → serving s x = true → (3 + 2 * x.overdueN) * i ≤ 2 * basinAge s x →
    exec (.calOverdue basin) s = .next (irqRaise (cstB (basinDie b)) 32 (logBasin b 0x56 [basinAge s x / 90000000000] (monitorTrip b 6
      (modBasin b (fun y => { y with overdue := true, overdueN := x.overdueN + 1 }) s))))) ∧
  -- calRequest
  (∀ (s t : State) (src : CmdSrc) (c : HostCmd) (p : Nat) (bs : List Nat), taken src 0x20 s = some (c, t) →
    (c.by_ < 4 → (getPlot t c.arg0).owner = c.by_ ∧ (getPlot t c.arg0).st ≠ .free ∧ c.arg0 < 2 ^ 13) →
    p = c.arg0 % 2 ^ 13 →
    bs = ((List.range 256).map (fun i => p * 256 + i)).filter (fun b => serving t (getBasin t (physBasin t b)) || (getBasin t b).recal) →
    exec (.calRequest src) s = .next (finishReqs p (bs.foldl (fun u b => if (getBasin u b).recal then u else queueCal (physBasin u b) u)
      (modPlot p (fun x => { x with reqs := x.reqs ++ [{ by_ := c.by_, qp := c.qp, left := bs }] }) (ack c t)))))

/-- A correction step of a tile merges every channel of its lists and repairs; with lanes it starts as a walk, an idle lane takes the nearest offer, and a
channel that is sent counts its products; the predictor's switches and the re-arm wait for the step boundary.
The rules: R206, R207, R209, R218, R219, R221, R222, R238, R239, R242. -/
def Obligations.OutlierCorrections : Prop :=
  -- correctionStep
  (∀ (s : State) (die : Die) (tgt : CorrTarget) (k : CorrFor) (x : CorrCtx) (m cs : NatMap (List ListChan)) (time : Nat),
    frozen s = false → lookupK s.cist.steps die.val = none → corrFor s die tgt = some k → corrCtx s die.val k = some x →
    dList x.c.desc = true → readList s (physAddr (dL x.c.desc)) = some m → cs = byLane s die.val (coverChans x m) →
    x.reps = [] → cs.isEmpty = false →
    exec (.correctionStep die tgt true false time) s = .next
      { s with cist := { s.cist with steps := insertK s.cist.steps die.val { for_ := k, left := cs } } }) ∧
  -- correctionStep
  (∀ (s : State) (die : Die) (tgt : CorrTarget) (k : CorrFor) (x : CorrCtx) (time : Nat),
    frozen s = false → lookupK s.cist.steps die.val = none → corrFor s die tgt = some k → corrCtx s die.val k = some x →
    dList x.c.desc = false → x.reps = [] →
    exec (.correctionStep die tgt false false time) s = .next (corrFinish die.val k x [] time (countProducts die.val k 0 s))) ∧
  -- laneBorrow
  (∀ (s : State) (die : Die) (lane : Fin 16384) (walked : List (Fin 16384 × Nat)) (l ch : Nat) (st : CorrStep),
    getStep s die.val = some st → frozen s = false → laneIn s die.val lane.val = true → (getK st.left lane.val []).isEmpty = true →
    ((List.range 8).flatMap (fun i => (if lane.val ≥ i + 1 then [lane.val - (i + 1)] else []) ++ [lane.val + (i + 1)])).findSome? (fun n =>
      (offerOf st n ((((walked.map (fun e => (e.1.val, e.2))).find? (fun e => e.1 = n)).map (·.2)).getD 1)).map (fun h => (n, h))) = some (l, ch) →
    exec (.laneBorrow die lane walked) s = .next (bumpPair (sphB die.val) 0x108 1 (putStep die.val { st with
      lent := insertK st.lent lane.val (l, ch), taken := insertK st.taken l (getK st.taken l [] ++ [ch]) } s))) ∧
  -- laneChannelSend
  (∀ (s : State) (die : Die) (lane : Fin 16384) (cycle time : Nat) (st : CorrStep) (c : ListChan) (rest : List ListChan) (x : CorrCtx)
      (sent : NatMap (List Int)),
    getStep s die.val = some st → getK st.left lane.val [] = c :: rest → frozen s = false → corrCtx s die.val st.for_ = some x →
    rest ≠ [] →
    sent = insertK st.sent c.ch (match lookupK st.sent c.ch with
      | some o => o.zipWith (· + ·) (corrChan x.rows c.ents) | none => corrChan x.rows c.ents) →
    exec (.laneChannelSend die lane 0 cycle time) s = .next (putStep die.val { st with
      left := insertK st.left lane.val rest, sent := sent, taken := eraseK st.taken lane.val
      lent := st.lent.filter (fun e => e.2.1 ≠ lane.val) } (countProducts die.val st.for_ (c.ents.length * x.rows.length) s))) ∧
  -- predictorOff
  (∀ (s t : State) (src : CmdSrc) (c : HostCmd) (im : Image), taken src 0x21 s = some (c, t) → c.arg0 = 0 → ownImage t c.by_ c.handle = some im →
    exec (.predictorOff src) s = .next (ack c (mapLSlots (fun x => if x.used && x.image = im.handle then { x with offDue := some true } else x) t))) ∧
  -- predictorOn
  (∀ (s t : State) (src : CmdSrc) (c : HostCmd) (im : Image), taken src 0x21 s = some (c, t) → c.arg0 = 1 → ownImage t c.by_ c.handle = some im →
    exec (.predictorOn src) s = .next (ack c (mapLSlots (fun x => if x.used && x.image = im.handle then { x with offDue := some false } else x) t))) ∧
  -- rearm
  (∀ (s t : State) (src : CmdSrc) (c : HostCmd) (im : Image), taken src 0x22 s = some (c, t) → ownImage t c.by_ c.handle = some im →
    exec (.rearm src) s = .next (ack c (mapLSlots (fun x =>
      if x.used && x.image = im.handle && (c.arg0 = 0xFFFFFFFF || x.layer = c.arg0) && (x.tripped || x.tripDue)
      then { x with rearmDue := true } else x) t)))

/-- An ADMIT that passes every check makes a stream in STAGING with its pages and next generation, its prompt moves it on and answers the command; a
command on a named stream aborts, parks, resumes or exports it or gives its context; LIST gives the holding's handles in ascending order; an ID leaves
DONE after its hold.
The rules: R356, R400, R403, R404, R405, R406, R408, R420, R421, R425, R516, R517. -/
def Obligations.StreamCommands : Prop :=
  -- admitPrompt
  (∀ (s t u v : State) (k : Nat) (desc : List Byte) (c : HostCmd) (d : AdmitDesc) (id gen : Nat) (ms : List Nat) (rs : List (Nat × Nat)) (buf : Option (Nat × Nat)),
    d = parseAdmit desc → desc.length = 128 → d.import_ = false → taken (.host k) 0x01 s = some (c, t) → admitGate t c d = none →
    admitFirst t c d = none → admitSteps t c d = .inr id →
    admitPages c.by_ ((getImage t d.image).elim ⟨0, 0, 64, 0⟩ imageDims) d t = .inr (ms, rs, buf, u) → ringHigh u c.by_ = false →
    gen = (getK u.eng.gens id 0 + 1) % 4096 →
    v = putStream (newStream u c d id gen ms rs buf) (setEng (fun e => { e with
      gens := setK e.gens id gen 0, lastId := id, admits := e.admits + 1, cache := evict u (id :: e.cache.erase id) }) u) →
    exec (.admitPrompt k desc) s = .next v) ∧
  -- admitImport
  (∀ (s t u v : State) (k ch : Nat) (desc : List Byte) (c : HostCmd) (d : AdmitDesc) (x : Machine.Stream) (id gen : Nat) (ms : List Nat) (rs : List (Nat × Nat))
      (buf : Option (Nat × Nat)),
    d = parseAdmit desc → desc.length = 128 → d.import_ = true → taken (.host k) 0x01 s = some (c, t) → admitGate t c d = none →
    admitFirst t c d = none → admitSteps t c d = .inr id →
    admitPages c.by_ ((getImage t d.image).elim ⟨0, 0, 64, 0⟩ imageDims) d t = .inr (ms, rs, buf, u) → ringHigh u c.by_ = false →
    gen = (getK u.eng.gens id 0 + 1) % 4096 → x = newStream u c d id gen ms rs buf →
    v = putStream x (setEng (fun e => { e with
      gens := setK e.gens id gen 0, lastId := id, admits := e.admits + 1, cache := evict u (id :: e.cache.erase id) }) u) →
    xchanOf v c.by_ .kvIn 0 d.xchan = some ch →
    exec (.admitImport k desc) s = .next (respond c 0 (handleOf x) 0 0 0 (modChan ch (fun y => { y with bind := bindOf x }) v))) ∧
  -- promptStaged
  (∀ (s : State) (stream : StreamId) (id : Nat) (toks : List Word) (x : Machine.Stream) (c : HostCmd),
    id = stream.toNat → getStream s id = some x → x.admitCmd = some c → frozen s = false → x.st = .staging → toks.length = x.promptLen →
    exec (.promptStaged stream toks) s = .next (respond c 0 (handleOf x) 0 0 0
      (setStreamSt id (if moduleRole s = 3 then .cached else .waiting) (modStream id (fun y => { y with admitCmd := none })
        (wrMem x.promptBuf (toks.flatMap (fun w => leBytes 4 w.toNat)) (chargeBytes id (128 + 4 * x.promptLen) s)))))) ∧
  -- abort
  (∀ (s t : State) (src : CmdSrc) (c : HostCmd) (x : Machine.Stream), taken src 0x02 s = some (c, t) → namedStream t c = some x → x.st ≠ .done →
    exec (.abort src) s = .next (if x.st = .active ∨ x.st = .prompt then
        modStream x.id (fun y => { y with abortDue := true, abortCmds := y.abortCmds ++ [c] }) (touch x.id t)
      else endStream x.id 0x02 (modStream x.id (fun y => { y with abortCmds := y.abortCmds ++ [c] }) (abandonExport x.id (touch x.id t))))) ∧
  -- park
  (∀ (s t : State) (src : CmdSrc) (c : HostCmd) (x : Machine.Stream), taken src 0x03 s = some (c, t) → namedStream t c = some x →
    (x.st = .waiting ∨ x.st = .prompt ∨ x.st = .active) → x.ending = none →
    exec (.park src) s = .next (ack c (modStream x.id (fun y => { y with parkDue := true }) (touch x.id t)))) ∧
  -- resume
  (∀ (s t : State) (src : CmdSrc) (c : HostCmd) (x : Machine.Stream), taken src 0x04 s = some (c, t) → namedStream t c = some x →
    x.st = .parked → x.lost = false → x.ending = none → roleServes (moduleRole (touch x.id t)) x = true →
    exec (.resume src) s = .next (ack c (unpark x.id (modStream x.id (fun y => { y with
      causes := y.causes.filter (fun k => k ≠ .host && k ≠ .fault) }) (touch x.id t))))) ∧
  -- exportStream
  (∀ (s t : State) (src : CmdSrc) (c : HostCmd) (x : Machine.Stream) (k : Nat), taken src 0x05 s = some (c, t) → namedStream t c = some x →
    xchanOf (touch x.id t) c.by_ .kvOut (bindOf x) c.arg0 = some k → (x.st = .parked ∨ x.st = .cached) → x.lost = false → x.ending = none →
    exec (.exportStream src) s = .next (ack c (startExport x.id k c.arg0 (touch x.id t)))) ∧
  -- query
  (∀ (s t u : State) (src : CmdSrc) (c : HostCmd) (x : Machine.Stream), taken src 0x06 s = some (c, t) → namedStream t c = some x →
    u = settleNow x.id (touch x.id t) →
    exec (.query src) s = .next (ack c (chargeBytes (holdKey c.by_) 256
      (emit (.hostWrite c.by_ c.addr (contextBytes u ((getStream u x.id).getD x) 0)) u)))) ∧
  -- list
  (∀ (s t : State) (src : CmdSrc) (c : HostCmd) (all out : List Machine.Stream), taken src 0x07 s = some (c, t) →
    all = (streamsOf t c.by_).filter (fun x => decide (x.id ≥ c.arg0) && (c.arg1 % 256).testBit (stateCode x.st - 1)) →
    out = all.take (c.len / 4) → out ≠ [] →
    exec (.list src) s = .next (respond c 0 0 out.length (((all.drop (c.len / 4)).head?).elim (2 ^ 20) (fun x => x.id)) 0
      (emit (.hostWrite c.by_ c.addr (out.flatMap (fun x => leBytes 4 (handleOf x)))) t))) ∧
  -- doneHoldExpire
  (∀ (s : State) (stream : StreamId) (id : Nat) (x : Machine.Stream), id = stream.toNat → getStream s id = some x → frozen s = false → x.st = .done →
    x.stateCtr + 25000 * 2 ^ (min 16 (getF s strB F.strCfgDoneHoldLog2)) ≤ s.counter → s.tally.terms.any (fun e => e.strm.id = id) = false →
    exec (.doneHoldExpire stream) s = .next (setEng (fun e => { e with streams := eraseK e.streams id, cache := e.cache.erase id }) s))

/-- A boundary whose step faulted once issues it again; one that is reached settles budgets, aborts, tokens or chunks, parks, resumes and the next step or
sweep, in that order; an owner's share write is clamped and answered; a role request closes admission and waits, and the switch makes it the current
role.
The rules: R412, R415, R418, R419, R422, R424, R427, R460, R622. -/
def Obligations.StepsSharesAndRoles : Prop :=
  -- stepBoundary
  (∀ (s : State) (m : MBatch) (r : StepRun), r = stepRun s m.val → stepReached s m.val = true → r.running = true → r.faulted = true →
    r.repeat_ = false → r.split = false → exec (.stepBoundary m) s = .next (reissue m.val s)) ∧
  -- stepBoundary
  (∀ (s s1 s2 s3 s4 s6 : State) (m : MBatch) (r : StepRun), r = stepRun s m.val → stepReached s m.val = true → r.faulted = false →
    s1 = retryEnds (subtractBudgets s) →
    s2 = ((slotOrder s1 m.val).filter (fun id => (getStream s1 id).any (fun x => x.abortDue))).foldl (fun t id => endStream id 0x02 t) s1 →
    s3 = (slotOrder s2 m.val).foldl (fun t id => match lookupK r.toks id with
      | some tok => if r.streams.contains id then takeToken id tok t else t | none => t) s2 →
    s4 = applyParks m.val (fun x => x.mb = m.val && (x.st = .waiting || x.st = .active)) s3 →
    s6 = roleStep (fillSlots m.val (reserveStep m.val (boundaryActions (workOf m.val) (autoResumes s4)))) →
    exec (.stepBoundary m) s = .next (issueStep m.val ((slotOrder s6 m.val).filter (fun id => (getStream s6 id).any (fun x => x.ending.isNone))) s6)) ∧
  -- sweepBoundary
  (∀ (s s1 s2 s3 s4 s5 : State) (r : StepRun), r = stepRun s 4 → stepReached s 4 = true → r.faulted = false →
    s1 = retryEnds (subtractBudgets s) →
    s2 = ((allStreams s1).filter (fun x => x.st = .prompt && x.abortDue)).foldl (fun t x => endStream x.id 0x02 t) s1 →
    s3 = r.streams.foldl (fun t id => takeChunk id r t) s2 →
    s4 = applyParks 4 (fun x => x.st = .prompt || (x.st = .waiting && (r.streams.contains x.id || moduleRole s = 1))) s3 →
    s5 = boundaryActions .sweep (autoResumes s4) →
    exec .sweepBoundary s = .next (issueStep 4 (fixSweep s5).1 (roleStep (fixSweep s5).2))) ∧
  -- shareWrite
  (∀ (s : State) (p : Path) (reg : Fin 4) (data : Word), writeGrant s p strB = .ok →
    exec (.shareWrite p reg data) s = .next (writeShare (selHold s p) reg.val data s)) ∧
  -- roleRequest
  (∀ (s : State) (p : Path) (data : Word), writeGrant s p modB = .ok → s.eng.roleTo = none → fldOf F.modRoleReq data ≠ moduleRole s →
    exec (.roleRequest p data) s = .next (roleStep (refreshClosed (setEng (fun e => { e with roleTo := some (fldOf F.modRoleReq data) })
      (setF modB F.modRoleStep 2 (setF modB F.modRoleChanging 1 (setF modB F.modRoleReq (fldOf F.modRoleReq data) s))))))) ∧
  -- roleSwitch
  (∀ (s : State) (r : Nat), s.eng.roleTo = some r → frozen s = false → anyWork s = false →
    (allStreams s).any (fun x => x.st = .active || x.st = .prompt) = false →
    exec .roleSwitch s = .next (irqRaise modB 4 (refreshClosed (setEng (fun e => { e with roleTo := none })
      (setF modB F.modRoleStep 0 (setF modB F.modRoleChanging 0 (setF modB F.modRoleCurrent r s)))))))

/-- A header that passes its checks is handed on, charged and kept with the number of pages; a record with a good CRC whose header names a page is taken
into a frame; the last one makes the stream wait or cached.
The rules: R356, R358, R359, R360, R416, R527. -/
def Obligations.ImportedPages : Prop :=
  -- kvImportHeader
  (∀ (s : State) (stream : StreamId) (id k : Nat) (x : Machine.Stream) (im : Image) (h : List Byte),
    id = stream.toNat → getStream s id = some x → frozen s = false → x.st = .staging → x.imported = true → x.impHdr = none → x.ending = none →
    importChan s x = some k → getImage s x.image = some im → peekBytes k 128 s = some h → importHeaderBad s x im h = none →
    exec (.kvImportHeader stream) s = .next (importDone id k (modStream id (fun y => { y with
      impHdr := some (fieldLE h 0x30 4, fieldLE h 0x28 4), impNext := 0, promptComplete := (fieldLE h 6 2).testBit 0 })
        (passTo k 128 (dropBytes k 128 (chargeBytes id 128 s)))))) ∧
  -- kvImportRecord
  (∀ (s : State) (stream : StreamId) (id k : Nat) (x : Machine.Stream) (r : List Byte) (c : Chan),
    id = stream.toNat → getStream s id = some x → frozen s = false → x.st = .staging → x.impHdr.isSome = true → x.ending = none →
    importChan s x = some k → peekBytes k (64 + kvBytes (kvDims s x).d) s = some r → getChan s k = some c → recordCrcOk r = true →
    recordHeadOk (kvDims s x) r = true →
    exec (.kvImportRecord stream) s = .next (takePage id k x r (passTo k (c.handed + (64 + kvBytes (kvDims s x).d))
      (dropBytes k (64 + kvBytes (kvDims s x).d) s))))

/-- A collective of a type whose check passes joins the ring with its channel and serial number; a die that has what it needs sends its arrival, the
fourth message that is known completes the fence; a fence record ends with it, a data collective moves its outputs, each die fills its output slot and
the last one drains the inputs and sends the record.
The rules: R368, R369, R380, R381, R382, R383, R384, R385. -/
def Obligations.RingCollectives : Prop :=
  -- allReduce
  (∀ (s s1 : State) (iss : Issue) (im : Image) (r : List Byte) (bs : List Nat) (c : CollRun),
    collDesc s iss = some (im, r) → frozen s = false → cType r = 1 → collCheck s iss im r = .ok bs →
    c = { sn := s.serial, issue := iss, holding := im.owner, desc := r, vc := vcOf s iss r, tokens := bs.getD 0 0, startCtr := s.counter } →
    s1 = showVcs (modRing (fun x => { x with colls := x.colls ++ [c] }) (bumpSerial (countIssue s))) → ringSplit s1 = false →
    exec (.allReduce iss) s = .next s1) ∧
  -- reduceScatter
  (∀ (s s1 : State) (iss : Issue) (im : Image) (r : List Byte) (bs : List Nat) (c : CollRun),
    collDesc s iss = some (im, r) → frozen s = false → cType r = 2 → collCheck s iss im r = .ok bs →
    c = { sn := s.serial, issue := iss, holding := im.owner, desc := r, vc := vcOf s iss r, tokens := bs.getD 0 0, startCtr := s.counter } →
    s1 = showVcs (modRing (fun x => { x with colls := x.colls ++ [c] }) (bumpSerial (countIssue s))) → ringSplit s1 = false →
    exec (.reduceScatter iss) s = .next s1) ∧
  -- allGather
  (∀ (s s1 : State) (iss : Issue) (im : Image) (r : List Byte) (bs : List Nat) (c : CollRun),
    collDesc s iss = some (im, r) → frozen s = false → cType r = 3 → collCheck s iss im r = .ok bs →
    c = { sn := s.serial, issue := iss, holding := im.owner, desc := r, vc := vcOf s iss r, tokens := bs.getD 0 0, startCtr := s.counter } →
    s1 = showVcs (modRing (fun x => { x with colls := x.colls ++ [c] }) (bumpSerial (countIssue s))) → ringSplit s1 = false →
    exec (.allGather iss) s = .next s1) ∧
  -- broadcast
  (∀ (s s1 : State) (iss : Issue) (im : Image) (r : List Byte) (bs : List Nat) (c : CollRun),
    collDesc s iss = some (im, r) → frozen s = false → cType r = 4 → collCheck s iss im r = .ok bs →
    c = { sn := s.serial, issue := iss, holding := im.owner, desc := r, vc := vcOf s iss r, tokens := bs.getD 0 0, startCtr := s.counter } →
    s1 = showVcs (modRing (fun x => { x with colls := x.colls ++ [c] }) (bumpSerial (countIssue s))) → ringSplit s1 = false →
    exec (.broadcast iss) s = .next s1) ∧
  -- fenceRecord
  (∀ (s s1 : State) (iss : Issue) (im : Image) (r : List Byte) (bs : List Nat) (c : CollRun),
    collDesc s iss = some (im, r) → frozen s = false → cType r = 0 → collCheck s iss im r = .ok bs →
    c = { sn := s.serial, issue := iss, holding := im.owner, desc := r, vc := vcOf s iss r, tokens := bs.getD 0 0, startCtr := s.counter } →
    s1 = showVcs (modRing (fun x => { x with colls := x.colls ++ [c] }) (bumpSerial (countIssue s))) → ringSplit s1 = false →
    exec (.fenceRecord iss) s = .next s1) ∧
  -- fenceArrival
  (∀ (s : State) (k : Nat) (die : Die) (c : CollRun), s.ring.colls[k]? = some c → frozen s = false → inLevel 2 s = false → c.moving = false →
    c.sent.any (fun e => e.1 = die.val) = false → onTurn s c = true → (brokenOn s c die.val = true ∨ arrived s c die.val = true) →
    exec (.fenceArrival k die) s = .next (modColl c.sn (fun x => { x with sent := x.sent ++ [(die.val, s.counter, brokenOn s c die.val)] }) s)) ∧
  -- fenceMessage
  (∀ (s : State) (k : Nat) (die : Die) (c d : CollRun) (m : Nat × Nat × Bool), s.ring.colls[k]? = some c → c.sent.find? (fun e => e.1 = die.val) = some m →
    frozen s = false → c.moving = false → c.known.any (fun e => e.1 = die.val) = false → d = { c with known := c.known ++ [m] } →
    exec (.fenceMessage k die) s = .next (if d.known.length = 4 then fenceComplete d (modColl c.sn (fun _ => d) s) else modColl c.sn (fun _ => d) s)) ∧
  -- collectiveDone
  (∀ (s s1 : State) (k a : Nat) (die : Die) (c d : CollRun), s.ring.colls[k]? = some c → frozen s = false → c.moving = true →
    c.done.contains die.val = false → (getGate s c.issue.image (cCout c.desc die.val) 0).full = false →
    slot0 s c.issue.image (cCout c.desc die.val) = some a → d = { c with done := c.done ++ [die.val] } →
    s1 = modColl c.sn (fun _ => d) (gateFill c.issue.image (cCout c.desc die.val) 0 (wrMem a (getK c.outs die.val []) s)) →
    exec (.collectiveDone k die) s = .next (if d.done.length = 4 then collFinish d s1 else s1)) ∧
  -- managementFence
  (∀ (s : State), mayFence s = true → exec .managementFence s = .next (fenceActions s)) ∧
  -- skewWindowClose
  (∀ (s s1 : State) (late top : Nat), frozen s = false → s.ring.winFrom + 25000 ≤ s.counter →
    (∀ d < 4, freqLimited s d = false) → top = (List.range 4).foldl (fun m d => max m (getK s.ring.skew d 0)) 0 →
    late = ((List.range 4).find? (fun d => getK s.ring.skew d 0 = top)).getD 0 →
    s1 = onDies (fun d t => setF (rngB d) F.rngSkewFences (min 255 s.ring.winFences) (setF (rngB d) F.rngSkewLateDie late
        (setF (rngB d) F.rngSkewSum (min 65535 top) t))) s →
    exec .skewWindowClose s = .next (modRing (fun r => { r with skew := [], winFrom := s.counter, winFences := 0 }) s1))

/-- A good flit advances the direction's numbers; a flit whose resend was good is counted as a replay and stamps its lane; a lane that fails twice takes a
spare and retrains; the end of a retraining sends every unacknowledged flit again.
The rules: R371, R392, R579. -/
def Obligations.RingLinks : Prop :=
  -- ringFlitReceive
  (∀ (s : State) (die : Die) (west acked : Bool) (lane : Fin 528) (cycle ix : Nat) (x : RingDir),
    ix = 2 * die.val + (if west then 1 else 0) → x = getK s.ring.dirs ix {} → frozen s = false → x.retrain = false →
    getF s (rngB die.val) (if west then F.rngLanesWRetired else F.rngLanesERetired) ≠ 1 →
    exec (.ringFlitReceive (.ring die west) lane true false acked cycle) s = .next (modRing (fun r => { r with dirs := setK r.dirs ix { x with nextFlit := x.nextFlit + 1, unacked := if acked then [] else x.unacked ++ [x.nextFlit] } {} }) s)) ∧
  -- ringFlitReceive
  (∀ (s : State) (die : Die) (west acked : Bool) (lane : Fin 528) (cycle ix : Nat) (x : RingDir),
    ix = 2 * die.val + (if west then 1 else 0) → x = getK s.ring.dirs ix {} → frozen s = false → x.retrain = false →
    getF s (rngB die.val) (if west then F.rngLanesWRetired else F.rngLanesERetired) ≠ 1 → thrice (getK x.trans lane.val []) cycle = false →
    exec (.ringFlitReceive (.ring die west) lane false true acked cycle) s = .next (modRing (fun r => { r with dirs := setK r.dirs ix { x with nextFlit := x.nextFlit + 1, unacked := if acked then [] else x.unacked ++ [x.nextFlit], trans := insertK x.trans lane.val ((cycle :: getK x.trans lane.val []).take 2) } {} }) (bumpF (rngB die.val) F.rngLanesReplays 1 s))) ∧
  -- ringFlitReceive
  (∀ (s : State) (l : LinkDir) (acked : Bool) (lane : Fin 528) (cycle k : Nat) (x : LinkSt),
    (∀ d w, l ≠ .ring d w) → k = linkKey l → x = getK s.ditch.links k {} → frozen s = false → x.retrain = false →
    exec (.ringFlitReceive l lane true false acked cycle) s = .next (setDitch (fun z => { z with links := setK z.links k { x with nextFlit := x.nextFlit + 1, unacked := if acked then [] else x.unacked ++ [x.nextFlit] } {} }) s)) ∧
  -- linkRetrainDone
  (∀ (s : State) (die : Die) (west : Bool) (ix : Nat) (x : RingDir),
    ix = 2 * die.val + (if west then 1 else 0) → x = getK s.ring.dirs ix {} → frozen s = false → x.retrain = true →
    exec (.linkRetrainDone (.ring die west)) s = .next (modRing (fun r => { r with dirs := setK r.dirs ix { x with retrain := false, resent := x.unacked, unacked := [] } {} }) s)) ∧
  -- linkRetrainDone
  (∀ (s : State) (l : LinkDir) (k : Nat) (x : LinkSt),
    (∀ d w, l ≠ .ring d w) → k = linkKey l → x = getK s.ditch.links k {} → frozen s = false → x.retrain = true →
    exec (.linkRetrainDone l) s = .next (setDitch (fun z => { z with links := setK z.links k { x with retrain := false, unacked := [] } {} }) s))

/-- The oldest record is taken, its activity charged to the consumers of its work and its spill noted; a fault of a step discards the step's tokens; a
course or collective whose bound cannot be read is refused with its code; training starts, counts its steps and answers the command at the end.
The rules: R271, R390, R427, R436, R521. -/
def Obligations.RecordsAndTraining : Prop :=
  -- courseRecordReceived
  (∀ (s : State) (rec : CourseRec) (rest : List CourseRec) (ws : List (Nat × Nat)) (k : Nat) (u : State),
    s.records = rec :: rest → frozen s = false → ws = (if rec.shares.isEmpty then workShares { s with records := rest } rec.issue.work rec.holding else rec.shares) →
    stepOfWork rec.issue.work = some k → rec.pred = false → u = noteSpill rec (chargeAct ws rec.act { s with records := rest }) →
    exec .courseRecordReceived s = .next (if isFault rec.status then stepFault k rec u else u)) ∧
  -- courseRecordReceived
  (∀ (s : State) (rec : CourseRec) (rest : List CourseRec) (ws : List (Nat × Nat)),
    s.records = rec :: rest → frozen s = false → ws = (if rec.shares.isEmpty then workShares { s with records := rest } rec.issue.work rec.holding else rec.shares) →
    stepOfWork rec.issue.work = none → (rec.issue.work ≠ .train ∨ isFault rec.status = false) →
    exec .courseRecordReceived s = .next (noteSpill rec (chargeAct ws rec.act { s with records := rest }))) ∧
  -- boundUnreadable
  (∀ (s : State) (iss : Issue) (im : Image) (d : List Byte), courseDesc s iss = some (im, d) → frozen s = false → issueCheck s iss im d = .held →
    exec (.boundUnreadable iss false) s = .next (refuseCourse iss im.owner d 0x2B (countIssue s))) ∧
  -- boundUnreadable
  (∀ (s : State) (iss : Issue) (im : Image) (r : List Byte), collDesc s iss = some (im, r) → frozen s = false → collCheck s iss im r = .held →
    exec (.boundUnreadable iss true) s = .next (refuseColl iss im.owner 0x2B r (countIssue s))) ∧
  -- trainStep
  (∀ (s t : State) (src : CmdSrc) (c : HostCmd) (a : Adapter), s.eng.training = none → taken src 0x1A s = some (c, t) →
    lookupK t.eng.adapters c.handle = some a → a.owner = c.by_ → a.released = false → c.arg1 ≠ 0 →
    exec (.trainStep src false) s = .next (setEng (fun e => { e with training := some { cmd := c, left := c.arg1 } }) t)) ∧
  -- trainStep
  (∀ (s : State) (src : CmdSrc) (t u : Training), s.eng.training = some t → frozen s = false → trainBusy s = false → t.fault = 0 →
    u = { t with left := t.left - 1, ran := t.ran + 1 } →
    exec (.trainStep src true) s = .next (if u.left = 0 then trainEnd u s else mendChains .train (setEng (fun e => { e with training := some u }) s)))

/-- An epoch that has passed settles every stream and attributes the energy; an open page closes after 250 ms or at a shutdown request; a unit in service
signs the oldest closed page with the next index; a signed page goes to the rings and queues of the holdings; a tree is ready; a host's ledger
doorbell lets entries go; an hour without a report reports the meter.
The rules: R436, R446, R449, R450, R451, R456, R457, R522, R590. -/
def Obligations.MeteringAndLedger : Prop :=
  -- attributionEpoch
  (∀ (s : State) (ein : Nat) (ed volts : List Nat), frozen s = false → s.tally.lastEpoch < s.counter / 25000 →
    exec (.attributionEpoch ein ed volts) s = .next (completeTerms (setTally (fun t => { t with lastEpoch := s.counter / 25000 })
      (attributeEpoch ein ed volts ((s.eng.streams.map (·.1)).foldl (fun u id => settle id (25000 * (s.counter / 25000)) u) s))))) ∧
  -- pageCloseTime
  (∀ (s : State), frozen s = false → s.tally.page.openCtr + 6250000 ≤ s.counter → exec .pageCloseTime s = .next (closePage 1 s)) ∧
  -- shutdownRequest
  (∀ (s : State), frozen s = false → exec .shutdownRequest s = .next (closePage 2 s)) ∧
  -- pageSign
  (∀ (s : State) (unit : Fin 2) (cycle : Nat) (ws : List (Bool × Bool)) (p : Page) (rest : List Page) (u : State),
    s.tally.closed = p :: rest → frozen s = false → signerOn s unit.val = true → s.tally.signing = none → s.tally.q < s.tally.qRes →
    s.tally.q + 2 ^ 32 < 2 ^ 40 → s.tally.q % 2 ^ 20 ≠ 0 →
    u = setF tlyB F.tlyStatSigning 1 { (signPage p s).2 with tally := { (signPage p s).2.tally with closed := rest, signing := some (signPage p s).1 } } →
    exec (.pageSign unit 0 cycle ws) s = .next (retryEnds u)) ∧
  -- pageSigned
  (∀ (s : State) (p : Page) (u : State), s.tally.signing = some p → frozen s = false →
    u = emit (.mgmtData (p.header ++ (p.recs.drop (p.recs.length - 5)).flatMap id))
      (setF tlyB F.tlyStatSigning 0 (setTally (fun t => { t with signing := none, signed := t.signed ++ [p] }) s)) →
    exec .pageSigned s = .next (retryEnds ((List.range 4).foldl (fun u h =>
          let w := deliverAll h (setTally (fun t => { t with
            rings := setK t.rings h (getK t.rings h [] ++ (pageElements p h).map (fun e => (p.seq, e))) [] }) u)
          if ringHigh w h ∧ !w.tally.fullLogged.contains h then
            tallyEvent h 0x7B [] (setTally (fun t => { t with fullLogged := t.fullLogged ++ [h] }) w)
          else w) u))) ∧
  -- lmsTreeBuilt
  (∀ (s : State), frozen s = false → exec .lmsTreeBuilt s = .next (setF tlyB F.tlyStatBottomReady 1 s)) ∧
  -- signatureBlockRead
  (∀ (s : State) (seq : Nat), frozen s = false →
    exec (.signatureBlockRead seq) s = .next (emit (.mgmtData ((s.tally.signed.find? (fun p => p.seq = seq)).elim [] (·.sigs))) s)) ∧
  -- meterCheck
  (∀ (s : State), frozen s = false → 1000 ≤ s.tally.outRun → (∀ c, s.tally.meterAt = some c → c + 90000000000 ≤ s.counter) →
    exec .meterCheck s = .next (logEv 0x30 0x11 0 [] (setTally (fun t => { t with meterAt := some s.counter }) s))) ∧
  -- ledgerDoorbell
  (∀ (s : State) (h : Holding) (data : Word), frozen s = false → ideBlocked s h.val = false → ledOn s h.val = true →
    data.toNat % 2 ^ 26 < ledUnits s h.val →
    exec (.ledgerDoorbell h data) s = .next (retryEnds (deliverAll h.val { s with
      ledq := setK s.ledq h.val { getK s.ledq h.val {} with head := data.toNat % 2 ^ 26 } {} })))

/-- A reading of a die below every threshold is shown and ends its stop; a recovery step raises the limit by 25 MHz; a stop of more than 10 ms is logged
once; a 10 microsecond mean below the emergency is shown; an unreachable cap, a droop, its end, a coolant out of specification and a slower acre act
once; a cap write waits for the fence; a holding lowers its share.
The rules: R471, R475, R479, R480, R482, R483, R484, R486, R487, R498. -/
def Obligations.PowerAndThermalLimits : Prop :=
  -- junctionRead
  (∀ (s u : State) (die : Die) (hot h0 h1 h2 head : Nat), frozen s = false →
    u = stackReading die.val 2 h2 (stackReading die.val 1 h1 (stackReading die.val 0 h0 (acreReading die.val hot s))) →
    exec (.junctionRead die hot h0 h1 h2 head) s = .next (setDitch (fun x => { x with
        headHot := if head ≥ 840 then true else if head < 800 then false else x.headHot })
      (setF (dpwB die.val) F.dpwThermHbmLimit ((List.range 3).foldl (fun m k => max m (getK u.ditch.hbm (3 * die.val + k) {}).limit) 0)
        (setF (dpwB die.val) F.dpwThermHotHbm (min 1023 (max h0 (max h1 h2))) u)))) ∧
  -- thermalRecoveryStep
  (∀ (s : State) (die : Die) (c : DieClk) (t0 n : Nat), c = getClk s die.val → c.cool = some t0 → frozen s = false → c.trip = false → c.therm < 1200 →
    t0 + 25000 ≤ s.counter → n = c.therm + 25 →
    exec (.thermalRecoveryStep die) s = .next (retarget die.val (modClk die.val (fun x => { x with
      therm := if n ≥ permitted s die.val then 1200 else n, cool := some s.counter }) s))) ∧
  -- thermalStillTimeout
  (∀ (s : State) (die : Die) (c : DieClk) (t0 : Nat), c = getClk s die.val → c.still = some t0 → frozen s = false → c.stillLogged = false →
    t0 + 250000 < s.counter →
    exec (.thermalStillTimeout die) s = .next (modClk die.val (fun x => { x with stillLogged := true }) (drdEvent 0x07 2 die.val [1] s))) ∧
  -- power10usMean
  (∀ (s u : State) (watts m eff : Nat) (ms : List Nat), frozen s = false → watts ≤ 3600 → ms = (watts :: s.ditch.means).take 100 →
    m = ms.foldl (· + ·) 0 / ms.length → eff = (effectiveCap s).1 →
    u = setDitch (fun x => { x with means := ms, low := if 100 * m < 97 * eff then some (x.low.getD s.counter) else none, above := if m > eff ∧ lowestPoint s = true then some (x.above.getD s.counter) else none })
      (setF drdB F.drdExcurTimer 0 (setF drdB F.drdPowerP1ms (min 8191 m) (setF drdB F.drdPowerP10us watts s))) →
    exec (.power10usMean watts) s = .next (if m ≤ eff then setF drdB F.drdCapUnreach 0 u else u)) ∧
  -- capUnreachable
  (∀ (s : State) (c : Nat), s.ditch.above = some c → frozen s = false → c + 250000 ≤ s.counter → getF s drdB F.drdCapUnreach = 0 →
    exec .capUnreachable s = .next (drdEvent 0x05 1 0 [] (irqRaise drdB 8 (setF drdB F.drdCapUnreach 1 s)))) ∧
  -- droopDetect
  (∀ (s : State) (die : Die) (mv ns : Nat), frozen s = false → 40 < mv → mv ≤ 80 → ns ≤ 10000 →
    exec (.droopDetect die mv ns) s = .next (bumpF (dpwB die.val) F.dpwDroopStretch 1 s)) ∧
  -- droopDetect
  (∀ (s : State) (die : Die) (mv ns : Nat), frozen s = false → 40 < mv → (80 < mv ∨ 10000 < ns) →
    exec (.droopDetect die mv ns) s = .next (retarget die.val (modClk die.val (fun c => { c with
        droop := max 300 (c.f - 100), droopTo := s.counter + 25000, droopEnd := false })
      (bumpF (dpwB die.val) F.dpwDroopEmerg 1 (drdEvent 0x09 2 die.val [mv, ns] (bumpF (dpwB die.val) F.dpwDroopStretch 1 s)))))) ∧
  -- droopHoldEnd
  (∀ (s : State) (die : Die), frozen s = false → (getClk s die.val).droop < 1200 → (getClk s die.val).droopTo ≤ s.counter →
    exec (.droopHoldEnd die) s = .next (modClk die.val (fun x => { x with droopEnd := true }) s)) ∧
  -- coolantOutOfSpec
  (∀ (s : State), frozen s = false → coolBad s = true → s.ditch.coolOut = false →
    exec .coolantOutOfSpec s = .next (drdEvent 0x0C 1 0 [s.ditch.inlet, s.ditch.flow] (setDitch (fun x => { x with coolOut := true }) s))) ∧
  -- ageingMonitor
  (∀ (s : State) (die : Die) (acre : PAcre) (g : Nat), g = acreIx die acre → frozen s = false → (getAcre s g).pw = .flow → (getAcre s g).guard < 5 →
    exec (.ageingMonitor die acre) s = .next (retarget (g / 68) (modAcre g (fun x => { x with guard := x.guard + 1 }) s))) ∧
  -- ageingMonitor
  (∀ (s : State) (die : Die) (acre : PAcre) (g : Nat), g = acreIx die acre → frozen s = false → (getAcre s g).pw = .flow → 5 ≤ (getAcre s g).guard →
    exec (.ageingMonitor die acre) s = .next (slowAcre g (drdEvent 0x0A 3 g [(getAcre s g).life - 25]
      (modAcre g (fun x => { x with guard := 0, life := x.life - 25 }) s)))) ∧
  -- capWrite
  (∀ (s : State) (p : Path) (data : Word), writeGrant s p drdB = .ok →
    exec (.capWrite p data) s = .next (setDitch (fun x => { x with capDue := true }) (setF drdB F.drdCapBmcCap (fldOf F.drdCapBmcCap data) s))) ∧
  -- powerShare
  (∀ (s t u : State) (k : Nat) (c : HostCmd), taken (.host k) 0x23 s = some (c, t) → u = setHold c.by_ { getHold t c.by_ with ownPower := some c.arg0 } t →
    exec (.powerShare (.host k)) s = .next (respond c 0 c.handle (powerShareOf u c.by_) 0 0 u))

/-- An alert latches and enters Trickle, its clearing starts the hold, the hold's end makes the exit due, a failing phase is disabled and then its rail
turned off; a quiet acre stops, loses its unretained memory and wakes again; Idle dries the acres, Deep loses them, and the wake ends in Idle.
The rules: R76, R327, R488, R489, R490, R491, R493, R494, R496, R497, R626. -/
def Obligations.PowerStates : Prop :=
  -- regulatorAlert
  (∀ (s : State) (rail : Rail) (u : State), s.power.phase ≠ .off → s.ditch.alerts.contains rail = false → s.ditch.railsOff.contains rail = false →
    u = setDitch (fun x => { x with alerts := x.alerts ++ [rail], exitDue := false }) s →
    exec (.regulatorAlert rail) s = .next (if frozen u || inLevel 2 u then u else trickleEnter u)) ∧
  -- regulatorAlertClear
  (∀ (s : State) (rail : Rail), s.power.phase ≠ .off → s.ditch.alerts.contains rail = true →
    exec (.regulatorAlertClear rail) s = .next (setDitch (fun x => { x with alerts := x.alerts.filter (· ≠ rail), clearAt := s.counter }) s)) ∧
  -- trickleHoldEnd
  (∀ (s : State), frozen s = false → inLevel 3 s = true → s.ditch.alerts = [] → s.ditch.clearAt + 25000 ≤ s.counter →
    exec .trickleHoldEnd s = .next (setDitch (fun x => { x with exitDue := true }) s)) ∧
  -- phaseDisable
  (∀ (s : State) (rail : Rail) (phase : Nat), frozen s = false → inLevel 3 s = true → s.ditch.alerts.contains rail = true → rail ≠ .input →
    s.ditch.phaseDone.contains rail = false → s.ditch.trickleAt + 50000 ≤ s.counter →
    exec (.phaseDisable rail phase) s = .next (retargetAll (showCap (setDitch (fun x => { x with
        phases := x.phases ++ (if x.phases.contains (rail, phase) then [] else [(rail, phase)]), phaseDone := x.phaseDone ++ [rail], capDue := true })
      (drdEvent 0x02 1 0 [railNum rail, phase] s))))) ∧
  -- railOff
  (∀ (s : State) (rail : Rail), frozen s = false → inLevel 3 s = true → s.ditch.alerts.contains rail = true → rail ≠ .input →
    s.ditch.trickleAt + 200000 ≤ s.counter →
    exec (.railOff rail) s = .next (setDitch (fun x => { x with exitDue := x.alerts.isEmpty }) (railUnits rail
      (setDitch (fun x => { x with alerts := x.alerts.filter (· ≠ rail), railsOff := x.railsOff ++ [rail] }) (drdEvent 0x03 1 0 [railNum rail] s))))) ∧
  -- acreStill
  (∀ (s : State) (die : Die) (acre : PAcre) (g : Nat), g = acreIx die acre → acreLive s g = true → quiet s g = true →
    exec (.acreStill die acre) s = .next (modAcre g (fun a => { a with pw := .still }) s)) ∧
  -- acreDry
  (∀ (s : State) (die : Die) (acre : PAcre) (g : Nat), g = acreIx die acre → frozen s = false → (getAcre s g).pw = .still → quiet s g = true →
    gatesFull s g = false → exec (.acreDry die acre) s = .next (enterDry g s)) ∧
  -- acreWake
  (∀ (s : State) (die : Die) (acre : PAcre) (g : Nat), g = acreIx die acre → frozen s = false → inLevel 2 s = false → inService s g = true →
    (getAcre s g).retired = false → (getClk s (g / 68)).still = none → exec (.acreWake die acre) s = .next (wakeFor g s)) ∧
  -- acreWakeDone
  (∀ (s u : State) (die : Die) (acre : PAcre) (g : Nat), g = acreIx die acre → frozen s = false → (getAcre s g).wake.isSome = true →
    u = modAcre g (fun a => { a with wake := none, pw := .flow }) s →
    exec (.acreWakeDone die acre) s = .next (drainWakes u.wakeQ.length { u with swaps := u.swaps.map (fun j =>
      if j.new = g && decide (j.phase = .waking) then { j with phase := if j.why = .fault then .copying else .waiting } else j) })) ∧
  -- idleEntry
  (∀ (s : State), frozen s = false → inLevel 0 s = true → busyModule s = false →
    exec .idleEntry s = .next (setLevel 1 (((List.range 272).filter (fun g =>
      (decide ((getAcre s g).pw = .flow) || decide ((getAcre s g).pw = .still)) && quiet s g && !gatesFull s g)).foldl (fun t g => enterDry g t) s))) ∧
  -- deepRequest
  (∀ (s : State) (p : Path) (data : Word), writeGrant s p drdB = .ok → data.getLsbD 2 = true →
    exec (.deepRequest p data) s = .next (levelWrite data s)) ∧
  -- deepRequestEnd
  (∀ (s : State) (p : Path) (data : Word), writeGrant s p drdB = .ok → data.getLsbD 2 = false →
    exec (.deepRequestEnd p data) s = .next (levelWrite data s)) ∧
  -- deepEntry
  (∀ (s u : State), frozen s = false → inLevel 1 s = true → getF s drdB F.drdLevelPending ≠ 0 → busyModule s = false →
    u = ((List.range 272).filter (fun g => decide ((getAcre s g).pw ≠ .fallow))).foldl (fun t g => enterFallow g t) s →
    exec .deepEntry s = .next (refreshClosed (setLevel 2 (setF drdB F.drdLevelPending 0 (setDitch (fun x => { x with deepWake := false })
      { u with acres := u.acres.map (fun e => (e.1, { e.2 with wake := none })), wakeQ := [] }))))) ∧
  -- deepWakeDone
  (∀ (s u : State), frozen s = false → inLevel 2 s = true → s.ditch.deepWake = true →
    u = setLevel 1 (setDitch (fun x => { x with deepWake := false }) s) →
    exec .deepWakeDone s = .next (refreshClosed (setF drdB F.drdLevelPending (getF u drdB F.drdLevelDeepReq)
      ((((List.range 4).flatMap (serviceAcres s)).filter (fun g => !(getAcre s g).retired)).foldl (fun t g => startWake g 2 t) u))))

/-- A doorbell in range moves its pointer, an entry that passes its checks joins the waiting commands, an unsignalled entry is signalled after its time, a
pair is enabled and disabled, a port's reset clears its block and queues, a failed read refuses its command, an adapter is loaded and released, and a
report goes to its requester.
The rules: R506, R507, R508, R509, R510, R512, R514, R517, R518, R519, R531. -/
def Obligations.HostPorts : Prop :=
  -- portReset
  (∀ (s : State) (h : Holding), exec (.portReset h) s = .next (resetBlock (hqB h.val) { s with
    qps := s.qps.filter (fun e => e.1 / 64 ≠ h.val), respBuf := s.respBuf.filter (fun e => e.1 ≠ h.val), ledq := eraseK s.ledq h.val
    hostLink := s.hostLink.filter (fun k => k ≠ h.val), msixMask := s.msixMask.filter (fun e => e.1 / 64 ≠ h.val)
    msixPend := s.msixPend.filter (fun e => e.1 / 64 ≠ h.val), ide := s.ide.filter (fun e => e.1 / 2 ≠ h.val) })) ∧
  -- sqDoorbell
  (∀ (s : State) (h : Holding) (qp : QPair) (data : Word) (x : QPSt), x = getQP s h.val qp.val → frozen s = false → ideBlocked s h.val = false →
    x.en = true → x.busy = false → data.toNat % 4096 < x.depth →
    exec (.sqDoorbell h qp data) s = .next (setQP h.val qp.val { x with sqTail := data.toNat % 4096 } (idleExit s))) ∧
  -- submissionEntry
  (∀ (s u : State) (h : Holding) (qp : QPair) (bs : List Byte) (x : QPSt), x = getQP s h.val qp.val → frozen s = false → x.en = true →
    x.sqRead ≠ x.sqTail → bs.length = 64 → ideBlocked s h.val = false →
    u = setQP h.val qp.val { x with sqRead := (x.sqRead + 1) % x.depth, consumed := (x.consumed + 1) % 65536 } s →
    entryCheck u bs (subCmd h.val qp.val bs) = none →
    exec (.submissionEntry h qp bs) s = .next { u with hostCmds := u.hostCmds ++ [subCmd h.val qp.val bs] }) ∧
  -- cqDoorbell
  (∀ (s u : State) (h : Holding) (qp : QPair) (data : Word) (x : QPSt), x = getQP s h.val qp.val → frozen s = false → ideBlocked s h.val = false →
    x.en = true → data.toNat % 4096 < x.depth → u = setQP h.val qp.val { x with cqHead := data.toNat % 4096 } s →
    exec (.cqDoorbell h qp data) s = .next (serveQP h.val qp.val (flushBuf h.val qp.val s.respBuf.length u))) ∧
  -- coalesceTimeout
  (∀ (s : State) (h : Holding) (qp : QPair) (x : QPSt), x = getQP s h.val qp.val → frozen s = false → 0 < x.unsig →
    x.unsigAt + 25 * getF s (hqB h.val) F.hqCoalCoalT ≤ s.counter →
    exec (.coalesceTimeout h qp) s = .next (signalQP h.val qp.val s)) ∧
  -- queueEnable
  (∀ (s : State) (p : Path) (h : Holding) (data : Word) (q : Nat) (x : QPSt), writeGrant s p (hqB h.val) = .ok → q = selQP s p h.val → x = getQP s h.val q →
    fldOf F.hqQcfgEn data = 1 → x.en = false → 2 ≤ fldOf F.hqQcfgDepth data → fldOf F.hqQcfgDepth data ≤ 4096 →
    exec (.queueEnable p h data) s = .next (serveQP h.val q (setQP h.val q { x with vector := fldOf F.hqQcfgVector data, depth := fldOf F.hqQcfgDepth data, en := true, busy := false, sqTail := 0, sqRead := 0, consumed := 0, cqTail := 0, cqHead := 0, phase := true, unsig := 0 } s))) ∧
  -- queueDisable
  (∀ (s : State) (p : Path) (h : Holding) (data : Word) (q : Nat) (x y : QPSt), writeGrant s p (hqB h.val) = .ok → q = selQP s p h.val → x = getQP s h.val q →
    fldOf F.hqQcfgEn data = 0 → x.en = true → y = { x with vector := fldOf F.hqQcfgVector data } →
    exec (.queueDisable p h data) s = .next (if x.sqRead ≠ x.sqTail then setQP h.val q { y with busy := true } s else disableQP h.val q (setQP h.val q y s))) ∧
  -- queueDisableDone
  (∀ (s : State) (h : Holding) (qp : QPair), frozen s = false → (getQP s h.val qp.val).busy = true → exec (.queueDisableDone h qp) s = .next (disableQP h.val qp.val s)) ∧
  -- hostPortLinkUp
  (∀ (s : State) (h : Holding), frozen s = false → s.hostLink.contains h.val = false → portOn s h.val = true →
    exec (.hostPortLinkUp h) s = .next { s with hostLink := s.hostLink ++ [h.val] }) ∧
  -- hostReadTimeout
  (∀ (s t : State) (k : Nat) (c : HostCmd), s.hostCmds[k]? = some c → (c.op = 0x01 ∨ c.op = 0x28) → taken (.host k) c.op s = some (c, t) →
    exec (.hostReadTimeout (.command k)) s = .next (refuseCmd c 0x38 (emit (.aer c.by_) t))) ∧
  -- hostReadTimeout
  (∀ (s : State) (id : StreamId) (x : Machine.Stream), getStream s id.toNat = some x → frozen s = false → x.admitCmd.isSome = true →
    exec (.hostReadTimeout (.prompt id)) s = .next (promptFailed id.toNat (emit (.aer x.holding) s))) ∧
  -- adapterLoad
  (∀ (s t : State) (src : CmdSrc) (c : HostCmd) (im : Image) (k a : Nat), taken src 0x18 s = some (c, t) → ownImage t c.by_ c.handle = some im →
    keyOfWire (c.arg0 % 65536) = some k → freeAdapter t = some a → c.arg0 < 65536 →
    (getChan t k).any (fun ch => ch.kind = .region && ch.st = .open_ && decide (ch.bind = im.handle)) = true → k / 256 = c.by_ →
    exec (.adapterLoad src) s = .next (respond c 0 a a 0 0 (setEng (fun e => { e with
      adapters := insertK e.adapters a { image := im.handle, owner := c.by_, chan := k } }) t))) ∧
  -- adapterRelease
  (∀ (s t : State) (src : CmdSrc) (c : HostCmd) (x : Adapter), taken src 0x19 s = some (c, t) → lookupK t.eng.adapters c.handle = some x →
    x.owner = c.by_ → x.released = false →
    exec (.adapterRelease src) s = .next (ack c (setEng (fun e => { e with
      adapters := if adapterUsed t c.handle then insertK e.adapters c.handle { x with released := true } else eraseK e.adapters c.handle }) t))) ∧
  -- telemetry
  (∀ (s t : State) (src : CmdSrc) (c : HostCmd) (out : List Byte), taken src 0x24 s = some (c, t) → c.by_ ≠ 15 →
    out = (reportBytes t c.by_).1.take c.len →
    exec (.telemetry src) s = .next (respond c 0 0 out.length 0 0 (emit (.hostWrite c.by_ c.addr out)
      (chargeBytes (holdKey c.by_) out.length { t with freeCtr := t.freeCtr + 2 * (reportBytes t c.by_).2 })))) ∧
  -- telemetry
  (∀ (s t : State) (src : CmdSrc) (c : HostCmd), taken src 0x24 s = some (c, t) → c.by_ = 15 →
    exec (.telemetry src) s = .next (respond c 0 0 (reportBytes t 15).1.length 0 0 (emit (.mgmtData (reportBytes t 15).1)
      { t with freeCtr := t.freeCtr + 2 * (reportBytes t 15).2 })))

/-- A datagram whose frame is good and whose type fits takes its effect on the channel it names, after the module leaves Idle; a receiving channel
acknowledges after 10 microseconds, a burst is sent again when its time has passed and given up after the eighth send, a channel without an ACK for 1
s is abandoned; a link that falls abandons the transfers without a port, one that rises sends what waits.
The rules: R523, R524, R525, R526, R527, R612. -/
def Obligations.FlumeDatagrams : Prop :=
  -- flumeWrite
  (∀ (s : State) (port : FPort) (ip : Nat) (bs : List Byte), frozen s = false → flmUp s port.val = true → dgramOk bs = true → fieldLE bs 0 1 = 1 →
    (parseDgram bs).type = 1 → exec (.flumeWrite port ip bs) s = .next (onBurst (parseDgram bs) (idleExit s))) ∧
  -- flumeReadReq
  (∀ (s : State) (port : FPort) (ip : Nat) (bs : List Byte), frozen s = false → flmUp s port.val = true → dgramOk bs = true → fieldLE bs 0 1 = 1 →
    (parseDgram bs).type = 2 → exec (.flumeReadReq port ip bs) s = .next (onReadReq (parseDgram bs) (idleExit s))) ∧
  -- flumeReadData
  (∀ (s : State) (port : FPort) (ip : Nat) (bs : List Byte), frozen s = false → flmUp s port.val = true → dgramOk bs = true → fieldLE bs 0 1 = 1 →
    (parseDgram bs).type = 3 → exec (.flumeReadData port ip bs) s = .next (onBurst (parseDgram bs) (idleExit s))) ∧
  -- flumeAck
  (∀ (s : State) (port : FPort) (ip : Nat) (bs : List Byte), frozen s = false → flmUp s port.val = true → dgramOk bs = true → fieldLE bs 0 1 = 1 →
    (parseDgram bs).type = 4 → exec (.flumeAck port ip bs) s = .next (onAck (parseDgram bs) (idleExit s))) ∧
  -- flumeNak
  (∀ (s : State) (port : FPort) (ip : Nat) (bs : List Byte), frozen s = false → flmUp s port.val = true → dgramOk bs = true → fieldLE bs 0 1 = 1 →
    (parseDgram bs).type = 5 → exec (.flumeNak port ip bs) s = .next (onNak (parseDgram bs) (idleExit s))) ∧
  -- flumeOpen
  (∀ (s : State) (port : FPort) (ip : Nat) (bs : List Byte), frozen s = false → flmUp s port.val = true → dgramOk bs = true → fieldLE bs 0 1 = 1 →
    (parseDgram bs).type = 6 → exec (.flumeOpen port ip bs) s = .next (onOpen ip (parseDgram bs) (idleExit s))) ∧
  -- flumeOpenAck
  (∀ (s : State) (port : FPort) (ip : Nat) (bs : List Byte), frozen s = false → flmUp s port.val = true → dgramOk bs = true → fieldLE bs 0 1 = 1 →
    (parseDgram bs).type = 7 → exec (.flumeOpenAck port ip bs) s = .next (onOpenAck (parseDgram bs) (idleExit s))) ∧
  -- flumeClose
  (∀ (s : State) (port : FPort) (ip : Nat) (bs : List Byte), frozen s = false → flmUp s port.val = true → dgramOk bs = true → fieldLE bs 0 1 = 1 →
    (parseDgram bs).type = 8 → exec (.flumeClose port ip bs) s = .next (onClose (parseDgram bs) (idleExit s))) ∧
  -- channelOpen
  (∀ (s t : State) (k : Nat) (req : List Byte) (c : HostCmd), taken (.host k) 0x28 s = some (c, t) →
    exec (.channelOpen k req) s = .next (openChannel c req t)) ∧
  -- moduleChannelOpen
  (∀ (s : State) (req : List Byte), frozen s = false → exec (.moduleChannelOpen req) s = .next (openChannel { by_ := 15, op := 0x28 } req s)) ∧
  -- channelClose
  (∀ (s t : State) (src : CmdSrc) (c : HostCmd) (k : Nat) (ch : Chan), taken src 0x29 s = some (c, t) → keyOfWire (c.arg0 % 65536) = some k →
    getChan t k = some ch → k / 256 = c.by_ → ch.st = .open_ → c.arg0 < 65536 →
    exec (.channelClose src) s = .next (closeCheck k (putChan k { ch with st := .closing, cmd := some c } t))) ∧
  -- ackTimer
  (∀ (s : State) (k : Nat) (c : Chan), getChan s k = some c → frozen s = false → c.st ≠ .opening → c.kind ≠ .kvOut → c.ackAt + 250 ≤ s.counter →
    exec (.ackTimer k) s = .next (sendAck k s)) ∧
  -- retransmitTimeout
  (∀ (s : State) (k seq : Nat) (c : Chan) (b : Burst), getChan s k = some c → c.unacked.find? (fun b => b.seq = seq) = some b → frozen s = false →
    b.due ≤ s.counter → exec (.retransmitTimeout k seq) s = .next (if b.sends ≥ 8 then abandonChan k s else resend k seq s)) ∧
  -- channelAckTimeout
  (∀ (s : State) (k : Nat) (c : Chan), getChan s k = some c → frozen s = false → (c.st = .opening ∨ c.unacked ≠ []) → c.lastAck + 25000000 ≤ s.counter →
    exec (.channelAckTimeout k) s = .next (abandonChan k s)) ∧
  -- flumeLinkDown
  (∀ (s u : State) (port : FPort), frozen s = false → flmUp s port.val = true → u = setLink port.val 0 s →
    exec (.flumeLinkDown port) s = .next ((u.chans.filter (fun e => (usable u e.2).isEmpty && inTransfer u e.2)).foldl (fun t e => abandonChan e.1 t) u)) ∧
  -- flumeLinkUp
  (∀ (s : State) (port : FPort), frozen s = false → flmUp s port.val = false →
    exec (.flumeLinkUp port) s = .next ((s.chans.map (·.1)).foldl (fun t k => pumpAll k t) (setLink port.val 1 s)))

/-- Discovery and the assignment of an endpoint ID are answered with the endpoint ID and the management address; a sensor's reading is answered and leaves
Idle; the event log answers up to 64 entries from a sequence number on.
The rules: R529, R587, R595. -/
def Obligations.ManagementReports : Prop :=
  -- mctpControl
  (∀ (s : State), mgmtUp s = true →
    exec (.mctpControl .discovery) s = .next (emit (.mgmtData [BitVec.ofNat 8 s.power.eid, BitVec.ofNat 8 (0x30 + s.power.addr)]) s)) ∧
  -- mctpControl
  (∀ (s : State) (e : Byte), mgmtUp s = true →
    exec (.mctpControl (.assignEid e)) s = .next (emit (.mgmtData [e, BitVec.ofNat 8 (0x30 + s.power.addr)]) { s with power := { s.power with eid := e.toNat } })) ∧
  -- pldmSensorRead
  (∀ (s : State) (x : Sensor), frozen s = false → exec (.pldmSensorRead x) s = .next (emit (.mgmtData (leBytes 4 (sensorValue s x))) (idleExit s))) ∧
  -- eventLogRead
  (∀ (s : State) (seq n : Nat), (isFrozen s = true ∨ headgateUp s false = true) →
    exec (.eventLogRead seq n) s = .next (emit (.mgmtData (((s.log.reverse.filter (fun e => decide (e.seq ≥ seq))).take (min n 64)).flatMap logBytes)) s))

/-- A staged slot is checked and answered; an update of a good slot opens its trial or is rejected; the standby that has booted makes the update due at
the next fence; a window that closes without a fault commits it and a watchdog reverts it.
The rules: R543, R547, R560, R561, R562, R563, R565. -/
def Obligations.FirmwareUpdates : Prop :=
  -- pldmFirmwareStage
  (∀ (s u : State) (bs : List Byte) (k : Nat), pldmUp s = true → s.rely.coresLost = false → s.trust.update = none → k = 1 - committedSlot s →
    u = setTrust (fun t => { t with slots := insertK t.slots k bs, trial := none }) s →
    exec (.pldmFirmwareStage bs) s = .next (match slotBad u bs with
      | none => emit (.mgmt 0x201 0 k 0 0 0) (setF fwuB (slotFld k) 2 u)
      | some c => emit (.mgmt 0x201 (statusWord 15 0 1 c) k 0 0 0) (setF fwuB (slotFld k) 6 (trustEvent 15 c [k] u)))) ∧
  -- activateFirmware
  (∀ (s : State) (k : Nat) (u : Update), k = 1 - committedSlot s → u = updateOf s k → pldmUp s = true → s.rely.coresLost = false → s.trust.update = none →
    (u.hg = true → standby s = 0) → (getF s fwuB (slotFld k) = 2 ∨ getF s fwuB (slotFld k) = 5) → s.power.phase = .service →
    exec .activateFirmware s = .next (match slotBad s (slotBytes s k) with
      | some c => emit (.mgmt 0x202 (statusWord 15 0 1 0x70) k 0 0 0) (rejectSlot k c s)
      | none => emit (.mgmt 0x202 0 k 0 0 0) (if u.hg
          then setPhase 2 (setStandby 1 (setF fwuB (slotFld k) 3 (setTrust (fun t => { t with update := some u, trial := some k, tried := true }) s)))
          else setPhase 3 (setF fwuB (slotFld k) 3 (setTrust (fun t => { t with update := some u, trial := some k, tried := true }) s))))) ∧
  -- standbyBootDone
  (∀ (s : State), frozen s = false → standby s = 1 →
    exec .standbyBootDone s = .next (if fwPhase s = 2 then setPhase 3 (setF fwuB F.fwuStatStandbyReady 1 (setStandby 0 s)) else setStandby 0 s)) ∧
  -- healthWindowExpire
  (∀ (s : State) (u : Update), s.trust.update = some u → frozen s = false → fwPhase s = 4 → u.endAt ≤ s.counter →
    exec .healthWindowExpire s = .next (commitUpdate u s)) ∧
  -- firmwareWatchdogExpiry
  (∀ (s : State) (u : Update), frozen s = false → s.trust.update = some u → fwPhase s = 4 →
    exec .firmwareWatchdogExpiry s = .next (setPhase 5 (setF fwuB (slotFld u.slot) 5 (trustEvent 15 0x76 [u.slot]
      (setTrust (fun t => { t with trial := none }) s)))))

/-- A request of a served connection that has reached its stage is answered with the reply, both messages join the transcript, the stage or session moves
on, a signed reply keeps the message that both signatures cover and an HSS signature consumes a reserved index. The bytes that the spec leaves to
other documents are free values (log entry 13).
The rules: R541, R549, R550, R551, R554. -/
def Obligations.SpdmRequests : Prop :=
  -- getCapabilities
  (∀ (s : State) (conn : SpdmPort) (msg : List Byte) (c : Nat), c = connNum conn → spdmUp s c = true → 1 ≤ (getConn s c).stage → 
    exec (.getCapabilities conn msg) s = .next (spdmReply c 0xE1 msg (spdmFresh 0xE1 msg s).1 (fun x => { x with stage := max 2 x.stage }) (spdmFresh 0xE1 msg s).2)) ∧
  -- negotiateAlgorithms
  (∀ (s : State) (conn : SpdmPort) (msg : List Byte) (c : Nat), c = connNum conn → spdmUp s c = true → 2 ≤ (getConn s c).stage → 
    exec (.negotiateAlgorithms conn msg) s = .next (spdmReply c 0xE3 msg (spdmFresh 0xE3 msg s).1 (fun x => { x with stage := 3 }) (spdmFresh 0xE3 msg s).2)) ∧
  -- finish
  (∀ (s : State) (conn : SpdmPort) (msg : List Byte) (c : Nat), c = connNum conn → spdmUp s c = true → 3 ≤ (getConn s c).stage → (getConn s c).session = 1 → 
    exec (.finish conn msg) s = .next (spdmReply c 0xE5 msg (spdmFresh 0xE5 msg s).1 (fun x => { x with session := 2 }) (spdmFresh 0xE5 msg s).2)) ∧
  -- keyUpdate
  (∀ (s : State) (conn : SpdmPort) (msg : List Byte) (c : Nat), c = connNum conn → spdmUp s c = true → 3 ≤ (getConn s c).stage → (getConn s c).session = 2 → 
    exec (.keyUpdate conn msg) s = .next (spdmReply c 0xE9 msg (spdmFresh 0xE9 msg s).1 (fun x => { x with keyGen := x.keyGen + 1 }) (spdmFresh 0xE9 msg s).2)) ∧
  -- heartbeat
  (∀ (s : State) (conn : SpdmPort) (msg : List Byte) (c : Nat), c = connNum conn → spdmUp s c = true → 3 ≤ (getConn s c).stage → (getConn s c).session = 2 → 
    exec (.heartbeat conn msg) s = .next (spdmReply c 0xE8 msg (spdmFresh 0xE8 msg s).1 (fun x => x) (spdmFresh 0xE8 msg s).2)) ∧
  -- endSession
  (∀ (s : State) (conn : SpdmPort) (msg : List Byte) (c : Nat), c = connNum conn → spdmUp s c = true → 3 ≤ (getConn s c).stage → (getConn s c).session = 2 → 
    exec (.endSession conn msg) s = .next (spdmReply c 0xEA msg (spdmFresh 0xEA msg s).1 (fun x => { x with session := 0, keyGen := 0 }) (spdmFresh 0xEA msg s).2)) ∧
  -- getVersion
  (∀ (s : State) (conn : SpdmPort) (msg : List Byte) (c : Nat), c = connNum conn → spdmUp s c = true →
    exec (.getVersion conn msg) s = .next (spdmReply c 0x84 msg (spdmFresh 0x84 msg s).1 (fun x => { x with stage := 1 }) (setConn c {} (spdmFresh 0x84 msg s).2))) ∧
  -- getDigests
  (∀ (s : State) (conn : SpdmPort) (msg : List Byte) (c : Nat), c = connNum conn → spdmUp s c = true → 3 ≤ (getConn s c).stage →
    exec (.getDigests conn msg) s = .next (spdmReply c 0x81 msg (sha384 (certChain s 0 false) ++ sha384 (certChain s 1 false)) id s)) ∧
  -- getCertificate
  (∀ (s : State) (conn : SpdmPort) (msg : List Byte) (slot : Fin 8) (c : Nat), c = connNum conn → spdmUp s c = true → 3 ≤ (getConn s c).stage → slot.val < 2 →
    exec (.getCertificate conn msg slot) s = .next (spdmReply c 0x82 msg (certChain s slot.val false) id s)) ∧
  -- challenge
  (∀ (s : State) (conn : SpdmPort) (msg : List Byte) (c : Nat), c = connNum conn → spdmUp s c = true → 3 ≤ (getConn s c).stage → s.trust.treeUp = true →
    exec (.challenge conn msg) s = .next (spdmSigned c 0x83 msg (sha384 (certChain s 0 false) ++ ((List.range 7).flatMap (fun i => measure s (i + 1)))
      ++ (spdmFresh 0x83 msg s).1) id (spdmFresh 0x83 msg s).2)) ∧
  -- getMeasurements
  (∀ (s : State) (conn : SpdmPort) (msg : List Byte) (index : Option (BitVec 8)) (signed : Bool) (c : Nat) (es : List (Nat × List Byte)) (body : List Byte),
    c = connNum conn → spdmUp s c = true → 3 ≤ (getConn s c).stage → (signed = true → s.trust.treeUp = true) →
    es = (visible s c).filter (fun e => (index.map (·.toNat)).all (fun i => e.1 = i)) → es ≠ [] → body = leBytes 1 es.length ++ es.flatMap measBlock →
    exec (.getMeasurements conn msg index signed) s = .next (if signed then spdmSigned c 0xE0 msg body id s else spdmReply c 0xE0 msg body id s)) ∧
  -- keyExchange
  (∀ (s u : State) (conn : SpdmPort) (msg b m : List Byte) (c : Nat), c = connNum conn → spdmUp s c = true → 3 ≤ (getConn s c).stage → s.trust.treeUp = true →
    b = (spdmFresh 0xE4 msg s).1 → u = (spdmFresh 0xE4 msg s).2 → m = signedMsg 0xE4 ((getConn u c).trans ++ msg ++ b) →
    exec (.keyExchange conn msg) s = .next (spdmReply c 0xE4 msg (b ++ fixLen 96 (Config.ecdsaSign (derivedKey s (keyAlias s)) m (nextFree u).1))
      (fun x => { x with session := 1, keyGen := 0 }) (nextFree u).2)) ∧
  -- hssChain
  (∀ (s : State) (conn : SpdmPort) (msg : List Byte) (c : Nat), c = connNum conn → spdmUp s c = true → 3 ≤ (getConn s c).stage → s.trust.treeUp = true →
    exec (.hssChain conn msg) s = .next (spdmReply c 0xFE msg (certChain s 0 true ++ certChain s 1 true) id s)) ∧
  -- hssSign
  (∀ (s u : State) (conn : SpdmPort) (msg m : List Byte) (ws : List (Bool × Bool)) (c n : Nat), c = connNum conn → spdmUp s c = true → 3 ≤ (getConn s c).stage →
    (getConn s c).signed = some m → s.trust.treeUp = true → s.trust.aliasQ < s.trust.aliasRes → n = s.freeCtr → u = (nextFree s).2 →
    exec (.hssSign conn msg ws) s = .next (keysLowCheck (spdmReply c 0xFF msg (fixLen 5396 (Config.hssSign (derivedKey u (keyAlias u)) u.trust.aliasQ m n)) id
      (setTrust (fun x => { x with aliasQ := x.aliasQ + 1 }) u)))) ∧
  -- aliasTreeBuilt
  (∀ (s : State), isFrozen s = false → s.power.phase ≠ .off → exec .aliasTreeBuilt s = .next (setTrust (fun t => { t with treeUp := true }) s)) ∧
  -- ideKeyManagement
  (∀ (s : State) (h : Holding) (stream : Fin 2) (k : Fin 2), spdmUp s h.val = true → (getConn s h.val).session = 2 →
    exec (.ideKeyManagement h stream (.program k)) s = .next (modIde h.val stream.val (fun x => { x with
      programmed := x.programmed ++ (if x.programmed.contains k.val then [] else [k.val]) }) s)) ∧
  -- ideKeyManagement
  (∀ (s : State) (h : Holding) (stream : Fin 2) (k : Fin 2), spdmUp s h.val = true → (getConn s h.val).session = 2 →
    (getK s.ide (h.val * 2 + stream.val) {}).programmed.contains k.val = true →
    exec (.ideKeyManagement h stream (.go k)) s = .next (servePort h.val (modIde h.val stream.val (fun x => { x with active := true }) s))) ∧
  -- ideKeyManagement
  (∀ (s : State) (h : Holding) (stream : Fin 2), spdmUp s h.val = true → (getConn s h.val).session = 2 →
    exec (.ideKeyManagement h stream .stop) s = .next (modIde h.val stream.val (fun x => { x with active := false, programmed := [] }) s))

/-- A token of its kind is refused where a check fails, denied where the Charter forbids the act and carried out otherwise, and its nonce is used up; a
nonce expires after 60 s; an edge that samples the pin low or a command freezes the module; while it is frozen the stacks stop and the readout
answers; the release edge thaws it and the clocks start again.
The rules: R555, R556, R557, R558, R593, R594, R595, R596, R597, R598. -/
def Obligations.TokensAndTheFreeze : Prop :=
  -- getNonce
  (∀ (s : State) (v : List Byte), tokenUp s = true → v = fixLen 32 (Config.freshBytes (nextFree s).1 32) →
    exec .getNonce s = .next (emit (.mgmtData v) (setTrust (fun x => { x with nonce := some (v, s.counter) }) (nextFree s).2))) ∧
  -- nonceExpire
  (∀ (s : State) (v : List Byte) (c : Nat), s.power.phase ≠ .off → s.trust.nonce = some (v, c) → c + 1500000000 ≤ s.counter →
    exec .nonceExpire s = .next (setTrust (fun x => { x with nonce := none }) s)) ∧
  -- freezeToken
  (∀ (s u : State) (b : List Byte), tokenUp s = true → fieldLE b 6 1 = 1 → u = useNonce b s →
    exec (.freezeToken b) s = .next (if tokenOk s b = false then emit (.mgmt 0x101 (statusWord 15 0 1 0x74) 0 0 0 0) (trustEvent 15 0x74 [1] u)
      else if policy s F.chtLifeFreeze ≠ 3 then emit (.mgmt 0x101 0 0 0 0 0) (freezeNow (setF rlyB F.rlyFreezeByCmd 1 u))
      else emit (.mgmt 0x101 (statusWord 15 0 1 0x75) 0 0 0 0) (trustEvent 15 0x75 [1] u))) ∧
  -- debugReadoutToken
  (∀ (s u : State) (b : List Byte), tokenUp s = true → fieldLE b 6 1 = 2 → u = useNonce b s →
    exec (.debugReadoutToken b) s = .next (if tokenOk s b = false then emit (.mgmt 0x102 (statusWord 15 0 1 0x74) 0 0 0 0) (trustEvent 15 0x74 [2] u)
      else if policy s F.chtLifeDebug ≠ 3 then emit (.mgmt 0x102 0 0 0 0 0) (if isFrozen u then { u with readout := true } else u)
      else emit (.mgmt 0x102 (statusWord 15 0 1 0x75) 0 0 0 0) (trustEvent 15 0x75 [2] u))) ∧
  -- fullDebugToken
  (∀ (s u : State) (b : List Byte), tokenUp s = true → fieldLE b 6 1 = 3 → u = useNonce b s →
    exec (.fullDebugToken b) s = .next (if tokenOk s b = false then emit (.mgmt 0x103 (statusWord 15 0 1 0x74) 0 0 0 0) (trustEvent 15 0x74 [3] u)
      else if (policy s F.chtLifeDebug = 0 ∧ lifecycle s ≠ 1) then emit (.mgmt 0x103 0 0 0 0 0) ({ u with fullDebug := true })
      else emit (.mgmt 0x103 (statusWord 15 0 1 0x75) 0 0 0 0) (trustEvent 15 0x75 [3] u))) ∧
  -- ownerChangeToken
  (∀ (s u : State) (b : List Byte), tokenUp s = true → fieldLE b 6 1 = 4 → u = useNonce b s →
    exec (.ownerChangeToken b) s = .next (if tokenOk s b = false then emit (.mgmt 0x104 (statusWord 15 0 1 0x74) 0 0 0 0) (trustEvent 15 0x74 [4] u)
      else if getF s chtB F.chtLifeOwnerActive < 3 then emit (.mgmt 0x104 0 0 0 0 0) (trustEvent 15 0x7E [getF u chtB F.chtLifeOwnerActive + 1] (setF chtB F.chtLifeOwnerActive (getF u chtB F.chtLifeOwnerActive + 1)
        (setTrust (fun x => { x with owners := insertK x.owners (getF u chtB F.chtLifeOwnerActive + 1) ((b.drop 0x48).take 96) }) u)))
      else emit (.mgmt 0x104 (statusWord 15 0 1 0x75) 0 0 0 0) (trustEvent 15 0x75 [4] u))) ∧
  -- charterRestrictionToken
  (∀ (s u : State) (b : List Byte), tokenUp s = true → fieldLE b 6 1 = 5 → u = useNonce b s →
    exec (.charterRestrictionToken b) s = .next (if tokenOk s b then emit (.mgmt 0x105 0 0 0 0 0) (restricted (blow F.chtLifeIdeReq (fieldLE b 0x48 2 / 64 % 16) (blow F.chtLifeHoldings (fieldLE b 0x48 2 / 16 % 4)
        (blow F.chtLifeFreeze (fieldLE b 0x48 2 / 4 % 4) (blow F.chtLifeDebug (fieldLE b 0x48 2 % 4) u)))))
      else emit (.mgmt 0x105 (statusWord 15 0 1 0x74) 0 0 0 0) (trustEvent 15 0x74 [5] u))) ∧
  -- enterReturnToken
  (∀ (s u : State) (b : List Byte), tokenUp s = true → fieldLE b 6 1 = 6 → u = useNonce b s →
    exec (.enterReturnToken b) s = .next (if tokenOk s b = false then emit (.mgmt 0x106 (statusWord 15 0 1 0x74) 0 0 0 0) (trustEvent 15 0x74 [6] u)
      else if (allStreams s).all (fun x => x.st = .done) = true then emit (.mgmt 0x106 0 0 0 0 0) (refreshClosed (retCheck ((u.images.map (·.2)).foldl (fun v im => releaseImage im v) (setTrust (fun x => { x with retDue := true }) u))))
      else emit (.mgmt 0x106 (statusWord 15 0 1 0x75) 0 0 0 0) (trustEvent 15 0x75 [6] u))) ∧
  -- freezeCapture
  (∀ (s u : State), u = { s with rely := { s.rely with pinLow := true } } → policy s F.chtLifeFreeze = 0 → 3 ≤ s.power.step →
    exec (.freezeCapture true) s = .next (freezeNow (setF rlyB F.rlyFreezeByPin 1 u))) ∧
  -- freezeCapture
  (∀ (s : State), getF s rlyB F.rlyFreezeByCmd = 1 → s.power.phase ≠ .off → exec (.freezeCapture false) s = .next (freezeNow s)) ∧
  -- hbmFreezeStop
  (∀ (s : State), isFrozen s = true → exec .hbmFreezeStop s = .next { s with rely := { s.rely with hbmDown := true } }) ∧
  -- thaw
  (∀ (s : State), exec .thaw s = .next (startThaw (setF rlyB F.rlyFreezeByPin 0 { s with rely := { s.rely with pinLow := false } }))) ∧
  -- freezeReleaseCommand
  (∀ (s : State), isFrozen s = true → exec .freezeReleaseCommand s = .next (startThaw (setF rlyB F.rlyFreezeByCmd 0 s))) ∧
  -- thawClockStart
  (∀ (s : State), isFrozen s = true → s.rely.thawing = true →
    exec .thawClockStart s = .next (latchedAlerts (whenB s.ditch.capDue showCap (retrainRing (clocksRun s))))) ∧
  -- tapReadout
  (∀ (s : State) (seq : Nat), isFrozen s = true →
    exec (.tapReadout (.log seq)) s = .next (emit (.mgmtData ((s.log.filter (fun e => e.seq = seq)).flatMap logBytes)) s)) ∧
  -- tapReadout
  (∀ (s : State) (addr : PAddr) (base : Nat) (b : Blk), isFrozen s = true → placeOf addr.toNat = .block base b →
    (s.readout = true ∨ s.fullDebug = true) → implemented b.tag (addr.toNat % 0x1000) = true →
    exec (.tapReadout (.reg addr)) s = .next (emit (.read .tap addr.toNat (liveWord s .tap base b (addr.toNat % 0x1000))) s)) ∧
  -- tapReadout
  (∀ (s : State) (die : Die) (acre : PAcre) (off : Fin 2097152), isFrozen s = true → (s.readout = true ∨ s.fullDebug = true) →
    exec (.tapReadout (.spad die acre off)) s = .next (emit (.mgmtData ((List.range 8).map (fun i =>
      getK s.spad (spadKey (acreIx die acre) (off.val / 8 * 8 + i)) memDefault))) s))

/-- A first parity error of a unit repeats its work and stamps its cycle, a failing repeat or the third within 2^32 cycles replaces the acre; a sequencer
error restarts the course once; a swap waits, copies and remaps; rotation and requests queue tests whose result is logged; a mismatch of the standby
starts its self-test, and a mismatch of the active pair is taken over.
The rules: R563, R569, R570, R571, R574, R575, R576, R577, R580. -/
def Obligations.AcreReliability : Prop :=
  -- lateralParityError
  (∀ (s : State) (die : Die) (acre : PAcre) (again : Bool) (cycle g : Nat), g = acreIx die acre → acreLive s g = true → (getAcre s g).run.isSome = true →
    exec (.lateralParityError die acre again cycle) s = .next (if again = true ∨ thirdTransient (getAcre s g).latTrans cycle = true then replaceAcre g s
      else modAcre g (fun a => { a with latTrans := (cycle :: (getAcre s g).latTrans).take 3 }) s)) ∧
  -- accParityError
  (∀ (s : State) (die : Die) (acre : PAcre) (acc : Fin 2) (again : Bool) (cycle g : Nat) (x : Acc), g = acreIx die acre → x = getAcc (getAcre s g) (acc.val = 1) →
    x.st ≠ .idle → acreLive s g = true → (getAcre s g).run.isSome = true → again = false → thirdTransient (getAcre s g).accTrans cycle = false →
    exec (.accParityError die acre acc again cycle) s = .next (refill g x.fill x.e
      (modAcre g (fun a => { a with accTrans := (cycle :: (getAcre s g).accTrans).take 3 }) s))) ∧
  -- sequencerParityError
  (∀ (s : State) (die : Die) (acre : PAcre) (cycle g : Nat) (c : CourseRun), g = acreIx die acre → (getAcre s g).run = some c → acreLive s g = true →
    (getAcre s g).seqRep ≠ some c.sn → thirdTransient (getAcre s g).seqTrans cycle = false →
    exec (.sequencerParityError die acre cycle) s = .next (modAcre g (fun y => { releaseSets (clearFlight y) with
        run := some { restart c with replaced := c.replaced }, seqTrans := (cycle :: y.seqTrans).take 3, seqRep := some c.sn }) s)) ∧
  -- sequencerWatchdog
  (∀ (s : State) (die : Die) (acre : PAcre) (cycle g : Nat) (c : CourseRun), g = acreIx die acre → (getAcre s g).run = some c → acreLive s g = true →
    (getAcre s g).seqRep ≠ some c.sn → thirdTransient (getAcre s g).seqTrans cycle = false →
    exec (.sequencerWatchdog die acre cycle) s = .next (modAcre g (fun y => { releaseSets (clearFlight y) with
        run := some { restart c with replaced := c.replaced }, seqTrans := (cycle :: y.seqTrans).take 3, seqRep := some c.sn }) s)) ∧
  -- acreSwap
  (∀ (s : State) (die : Die) (acre : PAcre) (g : Nat), g = acreIx die acre → frozen s = false → (getAcre s g).run = none → (getAcre s g).aside = none →
    exec (.acreSwap die acre) s = .next { s with swaps := s.swaps.map (fun j => if j.old = g && j.phase = .waiting then { j with phase := .copying } else j) }) ∧
  -- acreCopyDone
  (∀ (s u : State) (die : Die) (acre : PAcre) (g : Nat) (j : SwapJob), g = acreIx die acre → s.swaps.find? (fun j => j.old = g && j.phase = .copying) = some j →
    frozen s = false → u = enterFallow g (remapAcre g j.new { s with swaps := s.swaps.filter (fun k => k ≠ j) }) → j.why = .slow →
    exec (.acreCopyDone die acre) s = .next (serveTests (countSpares (g / 68) (logEv 0x20 3 g [j.new] u)))) ∧
  -- acreCopyDone
  (∀ (s u : State) (die : Die) (acre : PAcre) (g : Nat) (j : SwapJob), g = acreIx die acre → s.swaps.find? (fun j => j.old = g && j.phase = .copying) = some j →
    frozen s = false → u = enterFallow g (remapAcre g j.new { s with swaps := s.swaps.filter (fun k => k ≠ j) }) → j.why = .fault →
    exec (.acreCopyDone die acre) s = .next (serveTests (countSpares (g / 68) (logEv 0x21 3 g [j.new] (modAcre g (fun a => { a with retired := true }) u))))) ∧
  -- acreBistRotation
  (∀ (s : State) (die : Die) (acre : PAcre) (g sp n : Nat), g = acreIx die acre → frozen s = false → s.rely.coresLost = false →
    bistInterval s = some n → n ≤ (getAcre s g).bistAge + (s.counter - (getAcre s g).testedAt) → inService s g = true →
    s.swaps.any (fun j => j.old = g) = false → bestSpare s (g / 68) = some sp → (getClk s (g / 68)).fmax < (getAcre s sp).life + slowGap s →
    exec (.acreBistRotation die acre) s = .next (showTests (planSwap g sp .rotation { s with testQ := s.testQ.filter (· ≠ g) }))) ∧
  -- acreSelfTestDone
  (∀ (s u v : State) (die : Die) (acre : PAcre) (res : TestRes) (g : Nat), g = acreIx die acre → frozen s = false → s.testing.contains g = true →
    u = { s with testing := s.testing.filter (· ≠ g) } →
    v = setF rlyB F.rlyTeststatLastAcre (g % 68) (setF rlyB F.rlyTeststatLastDie (g / 68) (setF rlyB F.rlyTeststatResult (testResult g res u).1
      (modAcre g (fun a => { a with bistAge := 0, testedAt := s.counter }) (testResult g res u).2))) →
    exec (.acreSelfTestDone die acre res) s = .next (serveTests (countSpares (g / 68) (irqRaise rlyB 8 (logEv 0x23 3 g [(testResult g res u).1] v))))) ∧
  -- lockstepMismatch
  (∀ (s : State) (pair : Fin 2), frozen s = false → s.rely.coresLost = false → pair.val = getF s rlyB F.rlyCoresActive → standby s ≠ 2 → standby s ≠ 3 →
    exec (.lockstepMismatch pair) s = .next (takeover (if fwPhase s = 2 ∨ fwPhase s = 3 then abandonUpdate s else s))) ∧
  -- lockstepMismatch
  (∀ (s : State) (pair : Fin 2), frozen s = false → s.rely.coresLost = false → pair.val ≠ getF s rlyB F.rlyCoresActive → standby s ≠ 2 → standby s ≠ 3 →
    exec (.lockstepMismatch pair) s = .next (setStandby 2 (if fwPhase s = 2 ∨ fwPhase s = 3 then abandonUpdate s else s))) ∧
  -- mgmtCheckpoint
  (∀ (s : State), frozen s = false → s.rely.coresLost = false → s.rely.ckpt + 25000 ≤ s.counter →
    exec .mgmtCheckpoint s = .next (setRely (fun r => { r with ckpt := s.counter }) s)) ∧
  -- corePairSelfTestDone
  (∀ (s : State) (ok : Bool), frozen s = false → standby s = 2 →
    exec (.corePairSelfTestDone ok) s = .next (if ok then setStandby 0 s else logEv 0x2D 1 (1 - getF s rlyB F.rlyCoresActive) [] (setStandby 3 s)))

/-- A codeword that reads uncorrectable twice poisons its block, retires its page and faults the reading course; a corrected one is counted in its page; a
page that has moved is logged; a patrol counts its codewords; a stuck location of the stream cache is disabled; a channel with more than four times
its share is logged.
The rules: R581, R582, R585, R586, R592, R598. -/
def Obligations.MemoryReliability : Prop :=
  -- hbmRead
  (∀ (s : State) (addr : PAddr) (err : ReadErr) (stack : Nat), frozen s = false → addr.toNat < 0x9000000000 → stack = hbmStack s addr.toNat → err ≠ .lasting →
    exec (.hbmRead addr err none) s = .next (if err = .corrected then countCorrected stack (addr.toNat / 0x200000) s else s)) ∧
  -- hbmRead
  (∀ (s : State) (addr : PAddr) (ex : Executor) (stack : Nat), frozen s = false → addr.toNat < 0x9000000000 → stack = hbmStack s addr.toNat →
    exec (.hbmRead addr .lasting (some ex)) s = .next (faultExec ex 0x43 0x0C stack (retirePage stack (addr.toNat / 0x200000) (poisonBlock stack addr.toNat s)))) ∧
  -- hbmPageMigrateDone
  (∀ (s u : State) (page sp stack : Nat) (poisoned : List PAddr), frozen s = false → s.rely.migrating.contains page = true →
    sp = getK s.rely.moved page 0 → stack = (if sp ≥ 2 ^ 20 then (sp - 2 ^ 20) / 64 else 3 * (page / 73728)) →
    u = { s with hbmPoison := ((poisoned.map (·.toNat)).filter (fun a => a / 0x200000 = page)).foldl (fun m a => setK m (a / 64) true false) s.hbmPoison } →
    exec (.hbmPageMigrateDone page poisoned) s = .next (logEv 0x24 0x0C stack [page] (setRely (fun r => { r with
        migrating := r.migrating.filter (· ≠ page), retired := setK r.retired stack (getK r.retired stack 0 + 1) 0
        pageErr := r.pageErr.filter (fun e => e.1 % 2 ^ 20 ≠ page) }) u))) ∧
  -- hbmPatrolScrub
  (∀ (s u : State) (stack : Stack) (addr : PAddr) (err : ReadErr) (n : Nat), frozen s = false → addr.toNat < 0x9000000000 → hbmStack s addr.toNat = stack.val →
    u = codewordRead stack.val addr.toNat err s → n = getK u.rely.patrol stack.val 0 + 1 → n ≠ 1610612736 →
    exec (.hbmPatrolScrub stack addr err) s = .next (setRely (fun r => { r with patrol := setK r.patrol stack.val n 0 }) u)) ∧
  -- sramScrub
  (∀ (s u : State) (loc : Nat), frozen s = false → s.rely.cacheOff.contains loc = false → loc < 65536 →
    u = logEv 0x26 0x10 0 [loc] (setRely (fun r => { r with cacheOff := r.cacheOff ++ [loc] }) s) →
    exec (.sramScrub true loc .lasting true) s = .next (setEng (fun e => { e with cache := evict u e.cache }) u)) ∧
  -- imbalanceWindow
  (∀ (s u : State) (die : Die) (chan : Fin 96) (busiest total region ratio : Nat), frozen s = false → 0 < total → ratio = min 4095 (busiest * 16 * 96 / total) →
    getF s rlyB F.rlyImbalRatio ≤ ratio →
    u = setF rlyB F.rlyImbalRatio ratio (setF rlyB F.rlyImbalChannel chan.val (setF rlyB F.rlyImbalDie die.val s)) →
    4 * total < busiest * 96 → getK s.rely.imbAt die.val 0 = 0 →
    exec (.imbalanceWindow die chan busiest total region) s = .next (logEv 0x2F 0x0C die.val [chan.val, region]
      (setRely (fun r => { r with imbAt := setK r.imbAt die.val (s.counter + 1) 0 }) u)))

/-- A cold power-on begins the epoch with what is kept; a good rail runs the next step, a rail that fails stops the sequence, the sequence resumes when
nothing holds it; losing the input turns the module off, an overvoltage opens the hot-swap controller and a restart follows; alerts of the input, a
fuse, the reference and the coolant act; a module reset completes through the boot chain; a configuration request is answered.
The rules: R485, R625, R626, R628, R630, R631, R634, R636, R637, R638, R641, R643. -/
def Obligations.PowerOnAndReset : Prop :=
  -- coldPowerOn
  (∀ (s : State) (pins : Fin 8) (ref : Bool) (inlet flow : Nat), s.power.opened = false →
    exec (.coldPowerOn pins ref inlet flow) s = .next (coldStart pins.val ref inlet flow s)) ∧
  -- overvoltageRestart
  (∀ (s : State) (pins : Fin 8) (ref : Bool) (inlet flow : Nat), s.power.opened = true →
    exec (.overvoltageRestart pins ref inlet flow) s = .next (coldStart pins.val ref inlet flow s)) ∧
  -- railGood
  (∀ (s u : State) (step : Fin 7), isFrozen s = false → s.power.phase = .starting → s.power.wait = false → step.val = s.power.step + 1 → step.val ≠ 3 →
    u = setPower (fun p => { p with step := step.val }) s →
    exec (.railGood step) s = .next (if step.val = 6 then enterService u else seqGate u)) ∧
  -- railTimeout
  (∀ (s : State) (rail : Rail), isFrozen s = false → s.power.phase = .starting → s.power.wait = false → railStep rail = s.power.step + 1 →
    exec (.railTimeout rail) s = .next (logEv 0x31 1 (railNum rail) [railNum rail] (setDitch (fun x => { x with railsOff := x.railsOff ++ [rail] })
      (drdEvent 0x03 1 0 [railNum rail] (setPower (fun p => { p with phase := .railStop }) s))))) ∧
  -- coolantResume
  (∀ (s : State), isFrozen s = false → s.power.phase ≠ .off → s.power.wait = true → mustWait s = false →
    exec .coolantResume s = .next (setPower (fun p => { p with wait := false, phase := if p.phase = .hold then .starting else p.phase }) s)) ∧
  -- inputPowerLoss
  (∀ (s : State), s.power.phase ≠ .off →
    exec .inputPowerLoss s = .next (setPower (fun p => { p with phase := .off, step := 0, wait := false }) { s with hostLink := [] })) ∧
  -- inputOvervoltage
  (∀ (s : State), exec .inputOvervoltage s = .next (setPower (fun p => { p with opened := true }) (powerOff s))) ∧
  -- inputUndervoltage
  (∀ (s : State), s.power.phase ≠ .off → s.ditch.alerts.contains .input = false →
    exec .inputUndervoltage s = .next (regulatorAlert .input (if isFrozen s then s else drdEvent 0x0E 1 0 [] s))) ∧
  -- inputUndervoltageClear
  (∀ (s : State), exec .inputUndervoltageClear s = .next (seqResume (regulatorClear .input s))) ∧
  -- inputHigh
  (∀ (s : State), isFrozen s = false → s.power.phase ≠ .off → s.ditch.inputHigh = false →
    exec .inputHigh s = .next (drdEvent 0x0F 1 0 [] (setDitch (fun x => { x with inputHigh := true }) s))) ∧
  -- bladeFuseOpen
  (∀ (s u : State) (pair : Fin 2), isFrozen s = false → s.power.phase ≠ .off → s.ditch.blades.contains pair.val = false →
    u = drdEvent 0x02 1 0 [railNum .input, pair.val] (showCap (setDitch (fun x => { x with blades := x.blades ++ [pair.val], capDue := true }) s)) →
    exec (.bladeFuseOpen pair) s = .next (if u.ditch.blades.length ≥ 2 then powerOff u else u)) ∧
  -- refclkLost
  (∀ (s : State), s.power.phase ≠ .off → s.power.osc = false → isFrozen s = false →
    exec .refclkLost s = .next (setF modB F.modAlertAsserted 1 (drdEvent 0x0D 1 0 [] (setPower (fun p => { p with osc := true }) s)))) ∧
  -- refclkReturn
  (∀ (s : State), s.power.phase ≠ .off → exec .refclkReturn s = .next (setPower (fun p => { p with osc := false }) s)) ∧
  -- coolantReading
  (∀ (s : State) (inlet flow : Nat), isFrozen s = false → s.power.phase = .service → exec (.coolantReading inlet flow) s = .next (coolantSensors inlet flow s)) ∧
  -- coolantReading
  (∀ (s : State) (inlet flow : Nat), isFrozen s = false → s.power.phase ≠ .off → s.power.phase ≠ .service →
    exec (.coolantReading inlet flow) s = .next (showCap (setDitch (fun x => { x with inlet := inlet, flow := flow }) s))) ∧
  -- moduleReset
  (∀ (s u : State), isFrozen s = false → s.rely.coresLost = false → s.power.phase = .service →
    u = warmBoot (setF drdB F.drdLevelPending 0 (setF drdB F.drdLevelLevel 0 (moduleResetState (resetPrepare s)))) →
    exec .moduleReset s = .next (emit (.mgmt 0x203 0 0 0 0 0) (refreshClosed (if u.power.phase = .starting then seqGate u else u)))) ∧
  -- configRequest
  (∀ (s : State) (h : Holding), isFrozen s = false → s.power.phase ≠ .off → portOn s h.val = true →
    exec (.configRequest h) s = .next (emit (.config h.val (!configUp s)) s))

/-- For every command and every state with it at the front of its queue, step is exec of the command on the state whose queue is the rest. The queue is
the model's (log entry 1).
The rules: spec/00_scope.md, spec/opcode_table.json. -/
def Obligations.StepTakesTheFrontCommand : Prop :=
  ∀ (c : Instr) (rest : List Instr) (s : State), s.pending = c :: rest → step s = exec c { s with pending := rest }

/-- On an empty queue the module counter rises by one, at the end of a second the issues counted in it are dropped, and nothing else changes; while the
module is frozen FRZ_DUR rises by one and the counter stands; with the power off nothing changes. That such a step stands for a clock period is the
model's choice (log entry 1).
The rules: R9, R594, R595. -/
def Obligations.IdleStepCountsTheReferenceClock : Prop :=
  (∀ (s : State), s.pending = [] → s.power.phase ≠ .off → isFrozen s = false →
    step s = .next (if (s.counter + 1) % 25000000 = 0 then { s with counter := s.counter + 1, issued := [] } else { s with counter := s.counter + 1 })) ∧
  (∀ (s : State), s.pending = [] → isFrozen s = true →
    ∃ t, step s = .next t ∧ t.counter = s.counter ∧ SameRegsBut [rlyB + 0x134, rlyB + 0x138] s t ∧ SameMemory s t ∧
      pairVal t rlyB 0x134 = (pairVal s rlyB 0x134 + 1) % 2 ^ 64) ∧
  (∀ (s : State), s.pending = [] → s.power.phase = .off → step s = .next s)

/-- For every command and every state exec answers a next state (never a fault or a refusal), and the queue of waiting commands in it is the one before:
no command adds, drops or reorders a command of the queue. An event whose condition does not hold in the state changes nothing (log entry 2).
The rules: spec/opcode_table.json, spec/00_scope.md. -/
def Obligations.EveryCommandAnswersAndLeavesTheQueue : Prop :=
  ∀ (c : Instr) (s : State), ∃ t, exec c s = .next t ∧ t.pending = s.pending

/-- Every command except COLD_POWER_ON and OVERVOLTAGE_RESTART leaves the module counter and the boot epoch as they are: a register write, a stream
command, a freeze or a module reset cannot set or skip time.
The rules: R9, R594, R596. -/
def Obligations.OnlyTimeAndPowerOnMoveTheCounter : Prop :=
  ∀ (c : Instr) (s t : State), exec c s = .next t →
    (t.counter = s.counter ∧ t.epoch = s.epoch) ∨ (∃ pins ref inlet flow, c = .coldPowerOn pins ref inlet flow ∨ c = .overvoltageRestart pins ref inlet flow)

/-- From every state whose HBM and scratchpads list their bytes in rising order, each at most once and none equal to what an unlisted byte reads as, a
step (of any command, or of the clock) answers a state in which they do so again. So equal memories are equal data.
The rules: spec/08_buffers.md, spec/09_attention_kv.md, spec/17_register_map.md. -/
def Obligations.EveryStepKeepsMemoryCanonical : Prop :=
  ∀ (s t : State), MemInv s → step s = .next t → MemInv t

/-- From every state whose register file lists rising offsets and no register at its reset value, a step answers a state whose register file does so
again: two register files that read alike are equal data, through every command, reset and power-on.
The rules: R604, R611, R621. -/
def Obligations.EveryStepKeepsRegistersCanonical : Prop :=
  ∀ (s t : State), RegsInv s → step s = .next t → RegsInv t

/-- State.reset has the memory and register invariants, an empty queue, and reads every register at the value that the tables give for reset (where they
give none, the value of the log entries).
The rules: R621, spec/17_register_map.md. -/
def Obligations.ResetIsCanonicalAndReadsResetValues : Prop :=
  MemInv State.reset ∧ RegsInv State.reset ∧ State.reset.pending = [] ∧ ∀ a, regGet State.reset a = resetAt a

/-- In every state in which the module is frozen, every command whose unit's clock has stopped leaves the whole state as it is: no register write, course,
pass, collective, stream command, timer, doorbell, datagram, SPDM request, test or swap takes effect. The commands that still act are the ones that
freezeServes lists. Full debug, which alone opens writes through the TAP (R595), is excluded. That an event of a stopped unit is not held back but
lost is the model's (log entry 2).
The rules: R594, R595, R596, R597. -/
def Obligations.FrozenModuleStandsStill : Prop :=
  ∀ (c : Instr) (s : State), isFrozen s = true → s.fullDebug = false → freezeServes c = false → exec c s = .next s

/-- In every state without power every command leaves the whole state as it is, except a cold power-on, an overvoltage of the input and the restart after
it, the FREEZE_N pin (whose level the next power-on samples), a port's reset, and reads of registers, which only answer zero.
The rules: R630, R634, R643. -/
def Obligations.OffModuleIsInert : Prop :=
  ∀ (c : Instr) (s : State), s.power.phase = .off → s.fullDebug = false → offServes c = false → exec c s = .next s

/-- While the module is frozen a register read by any path (LO and HI included), a read of the event log and a TAP readout of anything but an engine's own
state leave every part of the state but the answers sent: no latch fills or empties, no error is counted. (What an engine's state reads as is a free
value, log entry 61.).
The rules: R595, R607. -/
def Obligations.ReadoutOfAFrozenModuleChangesNothing : Prop :=
  ∀ (c : Instr) (s : State), isFrozen s = true →
    ((∃ p addr, c = .registerRead p addr ∨ c = .loRead p addr ∨ c = .hiRead p addr) ∨ (∃ seq n, c = .eventLogRead seq n) ∨
      (∃ what, c = .tapReadout what ∧ ∀ x, what ≠ .engine x)) →
    ∃ es, exec c s = .next { s with emitted := s.emitted ++ es }

/-- For INT8 and INT4 weights, each of the four input formats, rows and inputs of any number and every channel, the plane-by-plane sum of the pseudocode
(column sums, sign column, sign plane) is the integer sum of x[r] times w[r][c]. (The register widths that the rule also names are the subject of
PassOutputsStayWithinTheirExtremes.).
The rules: R46, R50, R51, R52, R53, R54, R55, R56, R57. -/
def Obligations.PassIsTheExactDotProduct : Prop :=
  ∀ (int4 : Bool) (f : XFmt) (rows : List (BitVec 512)) (xs : List Int) (c : Nat),
    (∀ x ∈ xs, xLo f ≤ x ∧ x ≤ xHi f) → c < passCh int4 →
    passChan int4 (xSigned f) rows (xBits f) xs c = dotChan int4 rows xs c

/-- For 64 rows every output of a pass lies between the extremes that Table: Largest pass outputs gives for the weight and input format; its magnitude is
at most 2^20, or 2,088,960 for UINT8 inputs, so it fits 24 bits; and both extremes are reached.
The rules: R58. -/
def Obligations.PassOutputsStayWithinTheirExtremes : Prop :=
  ∀ (int4 : Bool) (f : XFmt), let e : Int × Int := match int4, f with
      | false, .int8 => (-1040384, 1048576) | false, .uint8 => (-2088960, 2072640)
      | true, .int8 => (-65024, 65536) | true, .uint8 => (-130560, 114240)
      | false, .int4 => (-65024, 65536) | true, .int4 => (-3584, 4096)
      | false, .uint4 => (-122880, 121920) | true, .uint4 => (-7680, 6720)
    (∀ (rows : List (BitVec 512)) (xs : List Int) (c : Nat), rows.length = 64 → xs.length = 64 → (∀ x ∈ xs, xLo f ≤ x ∧ x ≤ xHi f) → c < passCh int4 →
      let o := passChan int4 (xSigned f) rows (xBits f) xs c
      e.1 ≤ o ∧ o ≤ e.2 ∧ (f ≠ .uint8 → -(2 ^ 20 : Int) ≤ o ∧ o ≤ 2 ^ 20) ∧ -2088960 ≤ o ∧ o ≤ 2088960 ∧ -(2 ^ 23 : Int) ≤ o ∧ o < 2 ^ 23) ∧
    (∀ c, c < passCh int4 → ∃ (rows : List (BitVec 512)) (xs : List Int), rows.length = 64 ∧ xs.length = 64 ∧ (∀ x ∈ xs, xLo f ≤ x ∧ x ≤ xHi f) ∧
      passChan int4 (xSigned f) rows (xBits f) xs c = e.1) ∧
    (∀ c, c < passCh int4 → ∃ (rows : List (BitVec 512)) (xs : List Int), rows.length = 64 ∧ xs.length = 64 ∧ (∀ x ∈ xs, xLo f ≤ x ∧ x ≤ xHi f) ∧
      passChan int4 (xSigned f) rows (xBits f) xs c = e.2)

/-- For the rows of a set and an input vector of a format, the compare of a pass passes for its exact outputs, and for any list of outputs exactly where
their sum differs from the exact sum by a multiple of 3. A single channel off by 2^k either way, as one wrong column sum makes it, is therefore always
detected.
The rules: R78, R79, R80. -/
def Obligations.ResidueCheckDetectsWhatIsNoMultipleOfThree : Prop :=
  ∀ (int4 : Bool) (f : XFmt) (rows : List (BitVec 512)) (xs : List Int), (∀ x ∈ xs, xLo f ≤ x ∧ x ≤ xHi f) →
    residueOk int4 rows xs (passOut int4 f rows xs) = true ∧
    (∀ outs : List Int, residueOk int4 rows xs outs = true ↔ (outs.sum - (passOut int4 f rows xs).sum) % 3 = 0) ∧
    (∀ (outs : List Int) (k : Nat), outs.sum = (passOut int4 f rows xs).sum + 2 ^ k ∨ outs.sum = (passOut int4 f rows xs).sum - 2 ^ k →
      residueOk int4 rows xs outs = false)

/-- For a limit of 1 or more, the groups of an input vector laid end to end are its rows with a non-zero element in ascending order; no group is empty or
longer than the limit, and every group but the last is as long as the limit. An all-zero vector forms no group.
The rules: R142, R143, R144. -/
def Obligations.WeirGroupsHoldTheNonZeroRowsInOrder : Prop :=
  ∀ (lim : Nat) (xs : List Int), 1 ≤ lim →
    (weirGroups lim xs).flatten = (List.range xs.length).filter (fun r => decide (xs.getD r 0 ≠ 0)) ∧
    (∀ g ∈ weirGroups lim xs, 1 ≤ g.length ∧ g.length ≤ lim) ∧
    (∀ g ∈ (weirGroups lim xs).dropLast, g.length = lim) ∧
    ((∀ x ∈ xs, x = 0) → weirGroups lim xs = [])

/-- For every command of Table: Command set that comes from a submission queue: while an earlier entry of the same queue still waits, and, where the entry
has FENCE set, while a command of the queue has not received its response, the command changes nothing. Entries of other queues do not hold it.
The rules: R510. -/
def Obligations.CommandsOfAQueueAreTakenInOrderAndBehindFences : Prop :=
  ∀ (c : Instr) (s : State) (k : Nat) (x : HostCmd), hostTakes c = some k → s.hostCmds[k]? = some x →
    ((∃ (j : Nat) (y : HostCmd), j < k ∧ s.hostCmds[j]? = some y ∧ y.by_ = x.by_ ∧ y.qp = x.qp) ∨
      (x.fence = true ∧ ∃ y ∈ s.openCmds, y.by_ = x.by_ ∧ y.qp = x.qp)) →
    exec c s = .next s

/-- A permitted write of STR_SHR3 whose plots, with the shares of the other three holdings, sum above 7,680 leaves every holding's plot share as it was
and shows SHARE_INVALID (0x62) for the holding in STR_LASTSHR.
The rules: R424. -/
def Obligations.PlotShareAboveTheModuleIsRefused : Prop :=
  ∀ (s : State) (p : Path) (data : Word), writeGrant s p strB = .ok →
    fldOf F.strShr3Plots data + (((List.range 4).filter (fun k => k ≠ selHold s p)).map (fun k => (getHold s k).shPlots)).foldl (· + ·) 0 > 7680 →
    ∃ t, exec (.shareWrite p 3 data) s = .next t ∧ (∀ k, (getHold t k).shPlots = (getHold s k).shPlots) ∧
      getF t strB F.strLastshrStatus = (statusWord (selHold s p) (selHold s p) 0 0x62).toNat

/-- A read of a LO register answers its word and fills the reading path's latch with the HI of that moment; a read of HI by the path answers its latch, or
the live HI where the latch is empty, and empties it; neither changes a latch of another path or another pair. So LO and then HI, with nothing
between, answer the two halves of one state.
The rules: R607. -/
def Obligations.PairReadsAnswerOneSample : Prop :=
  ∀ (s : State) (p : Path) (lo hi : PAddr) (base : Nat) (b : Blk),
    MayRead s p lo.toNat base b → MayRead s p hi.toNat base b → hi.toNat % 0x1000 = lo.toNat % 0x1000 + 4 →
    isLo b.tag (lo.toNat % 0x1000) = true → isHi b.tag (hi.toNat % 0x1000) = true → isHi b.tag (lo.toNat % 0x1000) = false → isLo b.tag (hi.toNat % 0x1000) = false →
    (∃ t, exec (.registerRead p lo) s = .next t ∧ t.emitted = s.emitted ++ [.read p lo.toNat (liveWord s p base b (lo.toNat % 0x1000))] ∧
      (getLatch t p (base + lo.toNat % 0x1000)).hi = some (liveWord s p base b (hi.toNat % 0x1000)) ∧
      (∀ q a, (q ≠ p ∨ a ≠ base + lo.toNat % 0x1000) → getLatch t q a = getLatch s q a) ∧
      ∃ u, exec (.registerRead p hi) t = .next u ∧
        u.emitted = t.emitted ++ [.read p hi.toNat (liveWord s p base b (hi.toNat % 0x1000))]) ∧
    (∃ t, exec (.registerRead p hi) s = .next t ∧
      t.emitted = s.emitted ++ [.read p hi.toNat (((getLatch s p (base + lo.toNat % 0x1000)).hi).getD (liveWord s p base b (hi.toNat % 0x1000)))] ∧
      (getLatch t p (base + lo.toNat % 0x1000)).hi = none ∧
      (∀ q a, (q ≠ p ∨ a ≠ base + lo.toNat % 0x1000) → getLatch t q a = getLatch s q a))

/-- Where the allocator finds an ID, it is below 2^20 and free, and every ID between the last allocated one and it, counted up modulo 2^20, is in use.
The rules: R400. -/
def Obligations.NextStreamIdIsTheNextFreeOne : Prop :=
  ∀ (s : State) (k : Nat), freeId s = some k → ∃ n, k = (s.eng.lastId + 1 + n) % 2 ^ 20 ∧ getStream s k = none ∧
    ∀ m, m < n → (getStream s ((s.eng.lastId + 1 + m) % 2 ^ 20)).isSome = true

/-- After a reset of the port of holding h: every register outside HQ block h, every queue pair of another holding, all memory, and every stream, image,
share, page, channel, acre and waiting command are as before; and every register of HQ block h reads its reset value, every queue pair of h is
disabled and its link is down.
The rules: R506, R507, R621. -/
def Obligations.PortResetTouchesOnlyItsHolding : Prop :=
  ∀ (s : State) (h : Holding), ∃ t, exec (.portReset h) s = .next t ∧
    (∀ a, (a < hqB h.val ∨ hqB h.val + 0x4000 ≤ a) → regGet t a = regGet s a) ∧
    (∀ a, hqB h.val ≤ a → a < hqB h.val + 0x4000 → regGet t a = resetAt a) ∧
    (∀ k q, k ≠ h.val → q < 64 → getQP t k q = getQP s k q) ∧ (∀ q, q < 64 → getQP t h.val q = {}) ∧
    h.val ∉ t.hostLink ∧ (∀ k, k ≠ h.val → (k ∈ t.hostLink ↔ k ∈ s.hostLink)) ∧ SameMemory s t ∧
    t.eng = s.eng ∧ t.images = s.images ∧ t.holds = s.holds ∧ t.pages = s.pages ∧ t.chans = s.chans ∧ t.acres = s.acres ∧
    t.hostCmds = s.hostCmds ∧ t.tally = s.tally ∧ t.cist = s.cist

/-- For d dimensions, the K byte of dimension r and position t lies at 64r + t below 64d, the V byte of dimension r and position t at 64d + dt + r from
there to 128d, and two elements of one page never share a byte.
The rules: R339. -/
def Obligations.FrameBytesOfPagesDoNotOverlap : Prop :=
  ∀ (d r t : Nat) (v : Bool), r < d → t < 64 →
    (kvOff d v r t = if v then 64 * d + d * t + r else 64 * r + t) ∧ (if v then 64 * d else 0) ≤ kvOff d v r t ∧ kvOff d v r t < (if v then 128 * d else 64 * d) ∧
    ∀ (w : Bool) (r' t' : Nat), r' < d → t' < 64 → kvOff d v r t = kvOff d w r' t' → v = w ∧ r = r' ∧ t = t'

/-- For iteration counts of 1 or more, the index vector of tile n (below their product) has one index per level, each below its level's count, and n is
the sum of the indices times the products of the counts of the levels below. So tiles 0, 1, 2, … run through every index vector exactly once, L0
innermost.
The rules: R261. -/
def Obligations.WalkVisitsEveryIndexVectorOnceInnermostFirst : Prop :=
  ∀ (its : List Nat), (∀ i ∈ its, 1 ≤ i) →
    (∀ n, n < prodL its → (indexOf its n).length = its.length ∧ (∀ k (h : k < its.length), ((indexOf its n).getD k 0) < its[k]) ∧
      n = ((List.range its.length).map (fun k => (indexOf its n).getD k 0 * prodL (its.take k))).foldl (· + ·) 0) ∧
    (∀ m n, m < prodL its → n < prodL its → indexOf its m = indexOf its n → m = n) ∧
    (∀ idx : List Nat, idx.length = its.length → (∀ k (h : k < its.length), idx.getD k 0 < its[k]) → ∃ n, n < prodL its ∧ indexOf its n = idx)

/-- A write by a path that may not write the block (any register, data and byte enables), and an unaligned or partial write, a write to the last region of
the slot or to no register, leaves every register but IRQ_STAT, ERR_CNT, ERR_FIRST and ERR_LAST of that block, all memory, and every latch, select,
queue, holding, stream and image; ERR_LAST holds the access with its KIND, ERR_FIRST the first one, ERR_CNT rises by one and stops at 65,535. A read
that is denied answers zero and leaves the same record with the write bit clear.
The rules: R22, R611, R612, R620. -/
def Obligations.DiscardedWritesLeaveOnlyTheirRecord : Prop :=
  (∀ (s : State) (p : Path) (addr : PAddr) (data : Word) (be : BitVec 4) (base : Nat) (b : Blk),
    placeOf addr.toNat = .block base b → writeGrant s p base = .denied →
    let w := BitVec.ofNat 32 (addr.toNat % 0x4000 + 2 ^ 14 + reqAt p base % 16 * 2 ^ 16 + 2 ^ 31)
    ∃ t, exec (.registerWrite p addr data be) s = .next t ∧
      SameRegsBut [base + 0x14, base + 0x20, base + 0x24, base + 0x28] s t ∧ SameMemory s t ∧
      regGet t (base + 0x28) = w ∧ regGet t (base + 0x24) = (if getF s base F.errFirstValid = 1 then regGet s (base + 0x24) else w) ∧
      getF t base F.errCntCount = min (getF s base F.errCntCount + 1) 65535 ∧
      t.latches = s.latches ∧ t.selects = s.selects ∧ t.qps = s.qps ∧ t.holds = s.holds ∧ t.eng = s.eng ∧ t.images = s.images) ∧
  (∀ (s : State) (p : Path) (addr : PAddr) (data : Word) (be : BitVec 4) (base : Nat) (b : Blk) (kind : Nat),
    placeOf addr.toNat = .block base b → writeGrant s p base = .ok →
    (addr.toNat % 4 ≠ 0 ∨ be ≠ 15 ∨ addr.toNat % 0x4000 / 0x1000 = 3 ∨ implemented b.tag (addr.toNat % 0x1000) = false) →
    kind = (if addr.toNat % 4 ≠ 0 ∨ be ≠ 15 then 2 else if addr.toNat % 0x4000 / 0x1000 = 3 then 3 else 1) →
    let w := BitVec.ofNat 32 (addr.toNat % 0x4000 + 2 ^ 14 + reqAt p base % 16 * 2 ^ 16 + kind * 2 ^ 20 + 2 ^ 31)
    ∃ t, exec (.registerWrite p addr data be) s = .next t ∧
      SameRegsBut [base + 0x14, base + 0x20, base + 0x24, base + 0x28] s t ∧ SameMemory s t ∧
      regGet t (base + 0x28) = w ∧ regGet t (base + 0x24) = (if getF s base F.errFirstValid = 1 then regGet s (base + 0x24) else w) ∧
      getF t base F.errCntCount = min (getF s base F.errCntCount + 1) 65535 ∧
      t.latches = s.latches ∧ t.selects = s.selects ∧ t.qps = s.qps ∧ t.holds = s.holds ∧ t.eng = s.eng ∧ t.images = s.images) ∧
  (∀ (s : State) (p : Path) (addr : PAddr) (base : Nat) (b : Blk),
    placeOf addr.toNat = .block base b → readGrant s p base (addr.toNat % 0x1000) = .denied → isFrozen s = false →
    let w := BitVec.ofNat 32 (addr.toNat % 0x4000 + reqAt p base % 16 * 2 ^ 16 + 2 ^ 31)
    ∃ t, exec (.registerRead p addr) s = .next t ∧ (∃ es, t.emitted = es ++ [.read p addr.toNat 0]) ∧
      SameRegsBut [base + 0x14, base + 0x20, base + 0x24, base + 0x28] s t ∧ SameMemory s t ∧ regGet t (base + 0x28) = w ∧
      t.latches = s.latches ∧ t.selects = s.selects ∧ t.qps = s.qps ∧ t.holds = s.holds ∧ t.eng = s.eng ∧ t.images = s.images)

/-- A write of a task's or agent's access to the window of a logical acre, under the conditions of ScratchpadAccessesAndScrubs, stores byte i of its data
at the window's offset plus i; every address that lies elsewhere than those bytes (HBM, other scratchpads, the rest of this one, and the logical
acre's name or a doubled one's, since locate resolves them) reads as before; no register changes.
The rules: R290, R291, R300, R306, R602. -/
def Obligations.ScratchpadStoreReachesItsBytesOnly : Prop :=
  ∀ (s : State) (x : SpadAcc) (g A : Nat),
    g = spadOf s x.die.val x.acre.val → A = 0xC000000000 + x.die.val * 0x100000000 + x.acre.val * 0x4000000 + x.off →
    frozen s = false → spadAwake s g = true → x.off + x.data.length ≤ 0x200000 → x.data ≠ [] → bankClosing s g (bankOf x.off) = false →
    x.task.val < 2 → x.write = true → x.errs = [] → ownerAdmits s g (bankOf x.off) x.task.val = true → pairCovers s g x.task.val x.off x.len true = true →
    ∃ t, exec (.scratchpadAccess x) s = .next t ∧
      (∀ i (h : i < x.data.length), rdByte t (A + i) = x.data[i]) ∧
      (∀ y, (∀ i < x.data.length, locate s y ≠ locate s (A + i)) → rdByte t y = rdByte s y) ∧ SameRegsBut [] s t

/-- Whatever the path may do there, a whole plain write of STR_SHR0 to 3, STR_CREDIT_HI, MOD_ROLE, MOD_ALERT, DRD_CAP, DRD_LEVEL, SPD_SLUICE, SPD_BIST,
FRW_SPTEST, RLY_TESTREQ or HQ_QCFG answers the same state as the command that the table names for it: SHARE_WRITE, STR_CREDIT, ROLE_REQUEST,
MOD_ALERT_CLEAR (for CLEAR), CAP_WRITE, DEEP_REQUEST or DEEP_REQUEST_END by DEEP_REQ, SLUICE_GO, BIST_RUN, SPARE_TEST_RUN, ACRE_TEST_REQUEST,
QUEUE_ENABLE or QUEUE_DISABLE by EN.
The rules: R604, R608, R622, R476, R497, R302, R325, R85, R584, R508, R423. -/
def Obligations.RegisterWritesAreTheirRows : Prop :=
  (∀ (s : State) (p : Path) (addr : PAddr) (data : Word) (reg : Fin 4), addr.toNat = strB + 0x108 + 4 * reg.val →
    exec (.registerWrite p addr data 15#4) s = exec (.shareWrite p reg data) s) ∧
  (∀ (s : State) (p : Path) (addr : PAddr) (data : Word), addr.toNat = strB + 0x124 →
    exec (.registerWrite p addr data 15#4) s = exec (.strCredit p data) s) ∧
  (∀ (s : State) (p : Path) (addr : PAddr) (data : Word), addr.toNat = modB + 0x10C →
    exec (.registerWrite p addr data 15#4) s = exec (.roleRequest p data) s) ∧
  (∀ (s : State) (p : Path) (addr : PAddr) (data : Word), addr.toNat = modB + 0x11C →
    exec (.registerWrite p addr data 15#4) s = exec (.modAlertClear p data) s) ∧
  (∀ (s : State) (p : Path) (addr : PAddr) (data : Word), addr.toNat = drdB + 0x104 →
    exec (.registerWrite p addr data 15#4) s = exec (if data.getLsbD 2 then .deepRequest p data else .deepRequestEnd p data) s) ∧
  (∀ (s : State) (p : Path) (addr : PAddr) (data : Word), addr.toNat = drdB + 0x100 →
    exec (.registerWrite p addr data 15#4) s = exec (.capWrite p data) s) ∧
  (∀ (s : State) (p : Path) (addr : PAddr) (data : Word), addr.toNat = rlyB + 0x10C →
    exec (.registerWrite p addr data 15#4) s = exec (.acreTestRequest p data) s) ∧
  (∀ (s : State) (p : Path) (addr : PAddr) (data : Word) (die : Die) (acre : PAcre), addr.toNat = spdB (acreIx die acre) + 0x100 →
    exec (.registerWrite p addr data 15#4) s = exec (.sluiceGo p die acre data) s) ∧
  (∀ (s : State) (p : Path) (addr : PAddr) (data : Word) (die : Die) (acre : PAcre), addr.toNat = spdB (acreIx die acre) + 0x130 →
    exec (.registerWrite p addr data 15#4) s = exec (.bistRun p die acre data) s) ∧
  (∀ (s : State) (p : Path) (addr : PAddr) (data : Word) (die : Die) (acre : PAcre), addr.toNat = frwB (acreIx die acre) + 0x170 →
    exec (.registerWrite p addr data 15#4) s = exec (.spareTestRun p die acre data) s) ∧
  (∀ (s : State) (p : Path) (addr : PAddr) (data : Word) (h : Holding), addr.toNat = hqB h.val + 0x114 →
    exec (.registerWrite p addr data 15#4) s = exec (if fldOf F.hqQcfgEn data = 1 then .queueEnable p h data else .queueDisable p h data) s)

/-- A write of a select changes the writer's copy alone. IRQ_EN and BLK_CTRL store and, in an HQ block, send the message when the enabled pending bits
become non-zero. HQ_COAL stores, and with COAL_T 0 signals every pair that has unsignalled entries. HQ_LCFG stores, and the enabling write starts the
ring at its base and delivers what waits (log entry 59). DRD_CIST stores and the Cistern shares are divided anew at the next fence. SPD_TBASE and
SPD_TBOUND write the selected pair of task 3 and nothing for another task (log entry 33). HQ_CQB_HI sets the completion base of a disabled pair, and
HQ_LDB_HI both halves of the ledger base.
The rules: R307, R481, R508, R512, R522, R608, R609, R613, R614. -/
def Obligations.RegisterWritesWithFurtherEffect : Prop :=
  (∀ (s : State) (p : Path) (addr : PAddr) (data : Word) (base : Nat) (b : Blk),
    MayWrite s p addr.toNat base b 0 → isSel b.tag (addr.toNat % 0x1000) = true →
    ∃ t, exec (.registerWrite p addr data 15#4) s = .next t ∧
      selGet t p (base + addr.toNat % 0x1000) = mergeRw (rwMask b.tag (addr.toNat % 0x1000)) (selGet s p (base + addr.toNat % 0x1000)) data ∧
      (∀ (q : Sys2Proof.Path) (a : Nat), (q ≠ p ∨ a ≠ base + addr.toNat % 0x1000) → selGet t q a = selGet s q a) ∧ SameRegsBut [] s t ∧ SameMemory s t) ∧
  (∀ (s u : State) (p : Path) (addr : PAddr) (data : Word) (base : Nat) (b : Blk) (off : Nat),
    MayWrite s p addr.toNat base b 0 → addr.toNat % 0x1000 = off → (off = 0x18 ∨ (off = 0x0C ∧ data.getLsbD 8 = false)) →
    u = regSet (base + off) (mergeRw (rwMask b.tag off) (regGet s (base + off)) data) s →
    ∃ t, exec (.registerWrite p addr data 15#4) s = .next t ∧
      t = (if b.tag = .hq ∧ irqActive s base = 0 ∧ irqActive u base ≠ 0 then signalVec b.inst (getF u base F.hqIrqcfgVector) u else u) ∧
      SameRegsBut [base + off] s t ∧ SameMemory s t) ∧
  (∀ (s u : State) (p : Path) (addr : PAddr) (data : Word) (b : Blk) (h : Holding),
    MayWrite s p addr.toNat (hqB h.val) b 0 → addr.toNat % 0x1000 = 0x118 → b.tag = .hq → b.inst = h.val →
    u = regSet (hqB h.val + 0x118) (mergeRw (rwMask .hq 0x118) (regGet s (hqB h.val + 0x118)) data) s →
    exec (.registerWrite p addr data 15#4) s =
      .next (if getF u (hqB h.val) F.hqCoalCoalT = 0 then (List.range 64).foldl (fun t q => signalQP h.val q t) u else u)) ∧
  (∀ (s u : State) (p : Path) (addr : PAddr) (data : Word) (b : Blk) (h : Holding),
    MayWrite s p addr.toNat (hqB h.val) b 0 → addr.toNat % 0x1000 = 0x124 → b.tag = .hq → b.inst = h.val →
    u = regSet (hqB h.val + 0x124) (mergeRw (rwMask .hq 0x124) (regGet s (hqB h.val + 0x124)) data) s →
    exec (.registerWrite p addr data 15#4) s =
      .next (if getF s (hqB h.val) F.hqLcfgEn = 0 ∧ getF u (hqB h.val) F.hqLcfgEn = 1
        then retryEnds (deliverAll h.val { u with ledq := eraseK u.ledq h.val }) else u)) ∧
  (∀ (s : State) (p : Path) (addr : PAddr) (data : Word), MayWrite s p addr.toNat drdB ⟨.drd, 0, 15, 15⟩ 0 → addr.toNat % 0x1000 = 0x110 →
    exec (.registerWrite p addr data 15#4) s = .next (setDitch (fun x => { x with capDue := true })
      (regSet (drdB + 0x110) (mergeRw (rwMask .drd 0x110) (regGet s (drdB + 0x110)) data) s))) ∧
  (∀ (s : State) (p : Path) (addr : PAddr) (data : Word) (die : Die) (acre : PAcre) (g k : Nat) (b : Blk) (t : Word) (bound : Bool) (x y : Pair),
    g = acreIx die acre → b = ⟨.spd, acre.val, die.val, 15⟩ → MayWrite s p addr.toNat (spdB g) b 0 → addr.toNat % 0x1000 = (if bound then 0x118 else 0x114) →
    t = selGet s p (spdB g + 0x110) → k = 12 + fldOf F.spdTselPair t → x = getK (getAcre s g).pairs k {} →
    y = (if bound then { x with bound := 64 * min 0x8000 (fldOf F.spdTboundBound data), r := decide (fldOf F.spdTboundR data = 1), w := decide (fldOf F.spdTboundW data = 1), valid := decide (fldOf F.spdTboundValid data = 1) }
        else { x with base := 64 * fldOf F.spdTbaseBase data }) →
    exec (.registerWrite p addr data 15#4) s =
      .next (if fldOf F.spdTselTask t = 3 then modAcre g (fun a => { a with pairs := setK a.pairs k y {} }) s else s)) ∧
  (∀ (s : State) (p : Path) (addr : PAddr) (data : Word) (h : Nat) (b : Blk),
    MayWrite s p addr.toNat (hqB h) b 0 → b.tag = .hq → b.inst = h → addr.toNat % 0x4000 = 0x110 → (getQP s h (selQP s p h)).en = false →
    let lo := pairValue p (hqB h + 0x10C) (liveWord s p (hqB h) b 0x10C) data s
    ∃ t, exec (.hiWrite p addr data) s = .next t ∧
      (getQP t h (selQP s p h)).cqb = lo % 2 ^ 32 / 4096 * 4096 + data.toNat * 2 ^ 32 ∧
      (getLatch t p (hqB h + 0x10C)).staged = none ∧ SameRegsBut [] s t ∧ SameMemory s t) ∧
  (∀ (s : State) (p : Path) (addr : PAddr) (data : Word) (b : Blk) (h : Holding) (v : Nat),
    MayWrite s p addr.toNat (hqB h.val) b 0 → b.tag = .hq → addr.toNat % 0x4000 = 0x120 →
    v = pairValue p (hqB h.val + 0x11C) (liveWord s p (hqB h.val) b 0x11C) data s →
    ∃ t, exec (.hiWrite p addr data) s = .next t ∧
      regGet t (hqB h.val + 0x11C) = mergeRw (rwMask .hq 0x11C) (regGet s (hqB h.val + 0x11C)) (BitVec.ofNat 32 v) ∧
      regGet t (hqB h.val + 0x120) = mergeRw (rwMask .hq 0x120) (regGet s (hqB h.val + 0x120)) data ∧
      (getLatch t p (hqB h.val + 0x11C)).staged = none ∧ SameRegsBut [hqB h.val + 0x11C, hqB h.val + 0x120] s t ∧ SameMemory s t)
end

