-- ==== Sys2Proof/Laws/Bytes.lean ====
section
/-!
SUPPORT. Laws of byte strings: little-endian values and their fields, lengths of digests, checksums, the bytes that a channel hands
on, and the lists of outliers.
-/

namespace Sys2Proof.Laws

open Sys2Proof Sys2Proof.Machine

/-! ### Little-endian values -/

@[simp] theorem leBytes_length (n v : Nat) : (leBytes n v).length = n := by
  induction n generalizing v with
  | zero => rfl
  | succ n ih => simp [leBytes, ih]

theorem leVal_leBytes (n v : Nat) : leVal (leBytes n v) = v % 256 ^ n := by
  induction n generalizing v with
  | zero => simp [leBytes, leVal, Nat.mod_one]
  | succ n ih =>
    have h : (BitVec.ofNat 8 v).toNat = v % 256 := by simp
    simp only [leBytes, leVal, ih, h]
    rw [Nat.pow_succ, Nat.mul_comm (256 ^ n) 256, Nat.mod_mul]

/-- A field that a byte string's first part ends in front of. -/
theorem fieldLE_behind (h z : List Byte) (n v : Nat) : fieldLE (h ++ leBytes n v ++ z) h.length n = v % 256 ^ n := by
  have e : ((h ++ leBytes n v ++ z).drop h.length).take n = leBytes n v := by
    rw [List.append_assoc, List.drop_left]
    exact List.take_left' (leBytes_length n v)
  rw [fieldLE, e, leVal_leBytes]

/-- A field within a byte string's first part. -/
theorem fieldLE_within (h z : List Byte) (o n : Nat) (hn : o + n ≤ h.length) : fieldLE (h ++ z) o n = fieldLE h o n := by
  unfold fieldLE
  rw [List.drop_append_of_le_length (by omega), List.take_append_of_le_length (by simp; omega)]

/-! ### Digests and checksums -/

theorem crc32c_lt (bs : List Byte) : crc32c bs < 2 ^ 32 := BitVec.isLt _

@[simp] theorem beBytes_length (n v : Nat) : (beBytes n v).length = n := by simp [beBytes]

@[simp] theorem sha384_length (bs : List Byte) : (sha384 bs).length = 48 := by simp [sha384]
@[simp] theorem sha256_length (bs : List Byte) : (sha256 bs).length = 32 := by simp [sha256]

/-- A header with its CRC behind it checks. -/
theorem crcField (h z : List Byte) (v : Nat) (hv : v < 2 ^ 32) : fieldLE (h ++ leBytes 4 v ++ z) h.length 4 = v := by
  rw [fieldLE_behind]
  exact Nat.mod_eq_of_lt hv

/-! ### Received bytes -/

/-- The bytes of a string by their offset from k on. -/
def numbered : Nat → List Byte → NatMap Byte
  | _, [] => []
  | k, b :: bs => (k, b) :: numbered (k + 1) bs

theorem eraseK_numbered (j k : Nat) (bs : List Byte) (h : j < k) : eraseK (numbered k bs) j = numbered k bs := by
  induction bs generalizing k with
  | nil => rfl
  | cons b bs ih =>
    simp only [numbered, eraseK]
    rw [if_neg (by omega), ih (k + 1) (by omega)]

theorem readyBytes_numbered (bs : List Byte) (c : Chan) (h : c.rxData = numbered c.handed bs) : readyBytes bs.length c = bs := by
  induction bs generalizing c with
  | nil => rfl
  | cons b bs ih =>
    simp only [List.length_cons, readyBytes, h, numbered, lookupK, if_true]
    rw [ih _ (by simp [eraseK, eraseK_numbered])]

/-- A channel hands on what it has received in one piece. -/
theorem peek_numbered (s : State) (k n : Nat) (c : Chan) (bs : List Byte) (hc : getChan s k = some c) (h : c.rxData = numbered c.handed bs)
    (hn : bs.length = n) : peekBytes k n s = some bs := by
  subst hn
  simp [peekBytes, hc, readyBytes_numbered bs c h]

/-! ### Lists -/

theorem allSome_map {α β : Type} (l : List α) (f : α → Option β) (g : α → β) (h : ∀ x ∈ l, f x = some (g x)) :
    allSome (l.map f) = some (l.map g) := by
  induction l with
  | nil => rfl
  | cons a l ih =>
    rw [List.map_cons, h a (by simp), allSome, ih (fun x hx => h x (by simp [hx]))]
    rfl

/-- A list of outliers whose lane 0 alone has a segment. -/
theorem readList_lane0 (s : State) (a : Nat) (cs : List ListChan) (h0 : parseSeg (segWords s a 0).length (segWords s a 0) = some cs)
    (hc : cs ≠ []) (h : ∀ l, 0 < l → l < 16384 → segWords s a l = []) : readList s a = some [(0, cs)] := by
  have e : ∀ l ∈ List.range 16384, (parseSeg (segWords s a l).length (segWords s a l)).map (fun c => (l, c)) =
      some (l, if l = 0 then cs else []) := by
    intro l hl
    by_cases z : l = 0
    · subst z
      rw [h0]
      rfl
    · rw [h l (by omega) (by simpa using hl), if_neg z]
      rfl
  have f : ((List.range 16384).map (fun l => (l, if l = 0 then cs else []))).filter (fun x => !x.2.isEmpty) = [(0, cs)] := by
    rw [List.range_succ_eq_map, List.map_cons, List.filter_cons_of_pos (by simp [hc])]
    refine congrArg _ (List.filter_eq_nil_iff.2 ?_)
    intro x hx
    simp only [List.mem_map, List.mem_range] at hx
    obtain ⟨l, ⟨k, _, rfl⟩, rfl⟩ := hx
    simp
  unfold readList
  dsimp only
  rw [allSome_map _ _ _ e, Option.map_some, f]

end Sys2Proof.Laws
end

