-- ==== Sys2Proof/Laws/Commands.lean ====
section
/-!
SUPPORT. What taking a command of a host or of the board management controller does.
-/

namespace Sys2Proof.Laws

open Sys2Proof.Machine

/-- A command that may be taken is run on the state without its entry. -/
theorem takeCmd_taken {src : CmdSrc} {op : Nat} {s t : State} {c : HostCmd} (f : HostCmd → State → State)
    (h : taken src op s = some (c, t)) : takeCmd src op f s = f c t := by
  unfold taken at h
  split at h
  · cases h
  · rename_i hl
    cases src with
    | host k =>
      dsimp only at h
      split at h
      · cases h
      · rename_i c' hk
        split at h
        · rename_i hm
          cases h
          unfold takeCmd runCmd
          simp only [hk]
          rw [if_pos hm, if_neg hl]
        · cases h
    | board handle arg0 =>
      dsimp only at h
      split at h
      · cases h
      · rename_i hf
        cases h
        unfold takeCmd runCmd
        dsimp only
        rw [if_neg hf, if_neg hl]
        rfl

/-- A taken command has the opcode. -/
theorem taken_op {src : CmdSrc} {op : Nat} {s t : State} {c : HostCmd} (h : taken src op s = some (c, t)) : c.op = op := by
  unfold taken at h
  split at h
  · cases h
  · cases src with
    | host k =>
      dsimp only at h
      split at h
      · cases h
      · split at h
        · rename_i hm
          cases h
          simp at hm
          exact hm.1
        · cases h
    | board handle arg0 =>
      dsimp only at h
      split at h
      · cases h
      · cases h
        rfl

/-- What a taken command is: the waiting entry of its index, or the board management controller's with its ARG0. -/
theorem taken_cmd {src : CmdSrc} {op : Nat} {s t : State} {c : HostCmd} (h : taken src op s = some (c, t)) :
    match src with
    | .host k => s.hostCmds[k]? = some c
    | .board _ arg0 => c.arg0 = arg0 := by
  unfold taken at h
  split at h
  · cases h
  · cases src with
    | host k =>
      dsimp only at h ⊢
      split at h
      · cases h
      · rename_i hk
        split at h
        · cases h
          exact hk
        · cases h
    | board handle arg0 =>
      dsimp only at h ⊢
      split at h
      · cases h
      · cases h
        rfl

end Sys2Proof.Laws
end

