-- ==== Sys2Proof/Laws/Maps.lean ====
section
/-!
SUPPORT. Sparse maps: what reads see after a write, and that writes keep the canonical form.
-/

namespace Sys2Proof.Laws

open Sys2Proof.Machine

variable {α : Type}

theorem lookupK_insertK_same (m : NatMap α) (k : Nat) (v : α) : lookupK (insertK m k v) k = some v := by
  induction m with
  | nil => simp [insertK, lookupK]
  | cons e m ih =>
    obtain ⟨j, w⟩ := e
    simp only [insertK]
    split
    · simp [lookupK]
    · split
      · simp [lookupK]
      · next h1 h2 => simp [lookupK, h2, ih]

theorem lookupK_insertK_other (m : NatMap α) (k k' : Nat) (v : α) (h : k' ≠ k) :
    lookupK (insertK m k v) k' = lookupK m k' := by
  induction m with
  | nil => simp [insertK, lookupK, h]
  | cons e m ih =>
    obtain ⟨j, w⟩ := e
    simp only [insertK]
    split
    · simp [lookupK, h]
    · split
      · next h1 h2 => subst h2; simp [lookupK, h]
      · simp [lookupK, ih]

theorem lookupK_eraseK_other (m : NatMap α) (k k' : Nat) (h : k' ≠ k) : lookupK (eraseK m k) k' = lookupK m k' := by
  induction m with
  | nil => rfl
  | cons e m ih =>
    obtain ⟨j, w⟩ := e
    simp only [eraseK]
    split
    · next h1 => subst h1; simp [lookupK, h, ih]
    · simp [lookupK, ih]

/-- The head key of a map with rising keys is below every other key. -/
theorem keysRise_cons (j : Nat) (w : α) (m : NatMap α) :
    keysRise ((j, w) :: m) = true ↔ (∀ e ∈ m, j < e.1) ∧ keysRise m = true := by
  induction m generalizing j w with
  | nil => simp [keysRise]
  | cons e m ih =>
    obtain ⟨k, v⟩ := e
    rw [keysRise, Bool.and_eq_true]
    simp only [decide_eq_true_eq]
    constructor
    · rintro ⟨h1, h2⟩
      refine ⟨fun e he => ?_, h2⟩
      rcases List.mem_cons.1 he with rfl | he
      · exact h1
      · exact Nat.lt_trans h1 (((ih k v).1 h2).1 e he)
    · rintro ⟨h1, h2⟩
      exact ⟨h1 (k, v) (by simp), h2⟩

theorem lookupK_eraseK_same (m : NatMap α) (k : Nat) : lookupK (eraseK m k) k = none := by
  induction m with
  | nil => rfl
  | cons e m ih =>
    obtain ⟨j, w⟩ := e
    simp only [eraseK]
    split
    · exact ih
    · next h1 => simp [lookupK, h1, ih]

theorem mem_insertK (m : NatMap α) (k : Nat) (v : α) (e : Nat × α) (h : e ∈ insertK m k v) : e = (k, v) ∨ e ∈ m := by
  induction m with
  | nil => simpa [insertK] using h
  | cons x m ih =>
    obtain ⟨j, w⟩ := x
    simp only [insertK] at h
    split at h
    · simpa using h
    · split at h
      · rcases List.mem_cons.1 h with h | h
        · exact .inl h
        · exact .inr (by simp [h])
      · rcases List.mem_cons.1 h with h | h
        · exact .inr (by simp [h])
        · rcases ih h with h | h
          · exact .inl h
          · exact .inr (by simp [h])

theorem mem_eraseK (m : NatMap α) (k : Nat) (e : Nat × α) (h : e ∈ eraseK m k) : e ∈ m := by
  induction m with
  | nil => exact h
  | cons x m ih =>
    obtain ⟨j, w⟩ := x
    simp only [eraseK] at h
    split at h
    · simp [ih h]
    · rcases List.mem_cons.1 h with h | h
      · simp [h]
      · simp [ih h]

theorem keysRise_insertK (m : NatMap α) (k : Nat) (v : α) (h : keysRise m = true) : keysRise (insertK m k v) = true := by
  induction m with
  | nil => rfl
  | cons x m ih =>
    obtain ⟨j, w⟩ := x
    have hc := (keysRise_cons j w m).1 h
    simp only [insertK]
    split
    · next h1 =>
      rw [keysRise_cons]
      refine ⟨fun e he => ?_, h⟩
      rcases List.mem_cons.1 he with rfl | he
      · exact h1
      · exact Nat.lt_trans h1 (hc.1 e he)
    · split
      · next h1 h2 => subst h2; rw [keysRise_cons]; exact hc
      · next h1 h2 =>
        rw [keysRise_cons]
        refine ⟨fun e he => ?_, ih hc.2⟩
        rcases mem_insertK _ _ _ _ he with rfl | he
        · simp only; omega
        · exact hc.1 e he

theorem keysRise_eraseK (m : NatMap α) (k : Nat) (h : keysRise m = true) : keysRise (eraseK m k) = true := by
  induction m with
  | nil => rfl
  | cons x m ih =>
    obtain ⟨j, w⟩ := x
    have hc := (keysRise_cons j w m).1 h
    simp only [eraseK]
    split
    · exact ih hc.2
    · rw [keysRise_cons]
      exact ⟨fun e he => hc.1 e (mem_eraseK _ _ _ he), ih hc.2⟩

theorem keysRise_filter (m : NatMap α) (p : Nat × α → Bool) (h : keysRise m = true) : keysRise (m.filter p) = true := by
  induction m with
  | nil => rfl
  | cons x m ih =>
    obtain ⟨j, w⟩ := x
    have hc := (keysRise_cons j w m).1 h
    rw [List.filter_cons]
    split
    · rw [keysRise_cons]
      exact ⟨fun e he => hc.1 e (List.mem_filter.1 he).1, ih hc.2⟩
    · exact ih hc.2

/-- A register file or memory is in canonical form when its keys rise and no entry equals the default of its key. -/
def canonD [DecidableEq α] (m : NatMap α) (d : Nat → α) : Prop := keysRise m = true ∧ ∀ e ∈ m, e.2 ≠ d e.1

/-- Filtering by a predicate keeps the first entry of a key that passes, and drops a key none of whose entries does. -/
theorem lookupK_filter_keep (m : NatMap α) (p : Nat × α → Bool) (k : Nat) (h : ∀ v, p (k, v) = true) : lookupK (m.filter p) k = lookupK m k := by
  induction m with
  | nil => rfl
  | cons e m ih =>
    obtain ⟨j, w⟩ := e
    rw [List.filter_cons]
    by_cases hj : k = j
    · subst hj
      rw [h w, if_pos rfl]
      simp [lookupK]
    · split
      · simp [lookupK, hj, ih]
      · simp [lookupK, hj, ih]

theorem lookupK_filter_drop (m : NatMap α) (p : Nat × α → Bool) (k : Nat) (h : ∀ v, p (k, v) = false) : lookupK (m.filter p) k = none := by
  induction m with
  | nil => rfl
  | cons e m ih =>
    obtain ⟨j, w⟩ := e
    rw [List.filter_cons]
    by_cases hj : k = j
    · subst hj
      rw [h w]
      exact ih
    · split
      · simp [lookupK, hj, ih]
      · exact ih

theorem canonK_iff [DecidableEq α] (m : NatMap α) (d : α) : canonK m d = true ↔ canonD m (fun _ => d) := by
  simp [canonK, canonD]

theorem canonD_setK [DecidableEq α] (m : NatMap α) (d : Nat → α) (k : Nat) (v : α) (h : canonD m d) :
    canonD (setK m k v (d k)) d := by
  unfold setK
  split
  · exact ⟨keysRise_eraseK _ _ h.1, fun e he => h.2 e (mem_eraseK _ _ _ he)⟩
  · next hv =>
    refine ⟨keysRise_insertK _ _ _ h.1, fun e he => ?_⟩
    rcases mem_insertK _ _ _ _ he with rfl | he
    · exact hv
    · exact h.2 e he

theorem canonD_filter [DecidableEq α] (m : NatMap α) (d : Nat → α) (p : Nat × α → Bool) (h : canonD m d) :
    canonD (m.filter p) d :=
  ⟨keysRise_filter _ _ h.1, fun e he => h.2 e (List.mem_filter.1 he).1⟩

theorem canonK_setK [DecidableEq α] (m : NatMap α) (d : α) (k : Nat) (v : α) (h : canonK m d = true) :
    canonK (setK m k v d) d = true := by
  rw [canonK_iff] at h ⊢
  exact canonD_setK m (fun _ => d) k v h

theorem canonK_filter [DecidableEq α] (m : NatMap α) (d : α) (p : Nat × α → Bool) (h : canonK m d = true) :
    canonK (m.filter p) d = true := by
  rw [canonK_iff] at h ⊢
  exact canonD_filter m _ p h

/-- A read after a write of the same key sees the value written. -/
theorem getK_setK_same [DecidableEq α] (m : NatMap α) (k : Nat) (v d : α) : getK (setK m k v d) k d = v := by
  unfold setK getK
  split
  · next hv => rw [lookupK_eraseK_same]; simp [hv]
  · rw [lookupK_insertK_same]; rfl

/-- A read of another key sees what it saw before. -/
theorem getK_setK_other [DecidableEq α] (m : NatMap α) (k k' : Nat) (v d d' : α) (h : k' ≠ k) :
    getK (setK m k v d) k' d' = getK m k' d' := by
  unfold setK getK
  split
  · rw [lookupK_eraseK_other _ _ _ h]
  · rw [lookupK_insertK_other _ _ _ _ h]

end Sys2Proof.Laws
end

