-- ==== Sys2Proof/Laws/Keeps.lean ====
section
/-!
SUPPORT. What every operation keeps: the queue of waiting commands, the module's time where the operation is no reset, and the canonical
form of the memories and of the register file. One lemma for each operation, in this file and the files Keeps<Family>; a proof
about a command cites the lemma of its operation.
-/

namespace Sys2Proof.Laws

open Sys2Proof.Machine

/-- The register file is in canonical form: addresses rise and no register at its reset word is listed. -/
def RegsWf (s : State) : Prop := canonD s.regs resetAt

/-- What an operation that leads from s to t keeps; with `timed`, also the module counter and the epoch. -/
structure Keeps (timed : Bool) (s t : State) : Prop where
  queue : t.pending = s.pending
  time  : timed = true → t.counter = s.counter ∧ t.epoch = s.epoch
  hbm   : canonK s.hbm memDefault = true → canonK t.hbm memDefault = true
  spad  : canonK s.spad memDefault = true → canonK t.spad memDefault = true
  regs  : RegsWf s → RegsWf t

/-- The five facts for an update that touches none of the fields. -/
theorem Keeps.of_eq {c : Bool} {s t : State} (h1 : t.pending = s.pending) (h2 : t.counter = s.counter) (h3 : t.epoch = s.epoch)
    (h4 : t.hbm = s.hbm) (h5 : t.spad = s.spad) (h6 : t.regs = s.regs) : Keeps c s t :=
  ⟨h1, fun _ => ⟨h2, h3⟩, fun h => h4 ▸ h, fun h => h5 ▸ h, fun h => by unfold RegsWf; rw [h6]; exact h⟩

theorem Keeps.refl {c : Bool} (s : State) : Keeps c s s := .of_eq rfl rfl rfl rfl rfl rfl

theorem Keeps.trans {c : Bool} {s t u : State} (h : Keeps c s t) (g : Keeps c t u) : Keeps c s u :=
  ⟨g.queue.trans h.queue, fun w => ⟨(g.time w).1.trans (h.time w).1, (g.time w).2.trans (h.time w).2⟩, fun w => g.hbm (h.hbm w), fun w => g.spad (h.spad w),
    fun w => g.regs (h.regs w)⟩

/-- An update of other fields only, after what keeps. -/
theorem Keeps.upd {c : Bool} {s t u : State} (h1 : u.pending = t.pending) (h2 : u.counter = t.counter) (h3 : u.epoch = t.epoch)
    (h4 : u.hbm = t.hbm) (h5 : u.spad = t.spad) (h6 : u.regs = t.regs) (h : Keeps c s t) : Keeps c s u :=
  h.trans (.of_eq h1 h2 h3 h4 h5 h6)

theorem Keeps.memWf {c : Bool} {s t : State} (h : Keeps c s t) (w : memWf s = true) : memWf t = true := by
  simp only [Sys2Proof.Machine.memWf, Bool.and_eq_true] at w ⊢
  exact ⟨h.hbm w.1, h.spad w.2⟩

theorem Keeps.ite {c : Bool} {s t u : State} {p : Prop} [Decidable p] (h : p → Keeps c s t) (g : ¬p → Keeps c s u) :
    Keeps c s (if p then t else u) := by
  split
  · exact h ‹_›
  · exact g ‹_›

theorem Keeps.foldl {α : Type} {c : Bool} {s : State} {f : State → α → State} (l : List α) {t : State}
    (hf : ∀ u a, Keeps c s u → Keeps c s (f u a)) (h : Keeps c s t) : Keeps c s (l.foldl f t) := by
  induction l generalizing t with
  | nil => exact h
  | cons a l ih => exact ih (hf _ _ h)

theorem Keeps.foldl1 {α β : Type} {c : Bool} {s : State} {f : State × β → α → State × β} (l : List α) {x : State × β}
    (hf : ∀ y a, Keeps c s y.1 → Keeps c s (f y a).1) (h : Keeps c s x.1) : Keeps c s (l.foldl f x).1 := by
  induction l generalizing x with
  | nil => exact h
  | cons a l ih => exact ih (hf _ _ h)

theorem Keeps.foldl2 {α β : Type} {c : Bool} {s : State} {f : β × State → α → β × State} (l : List α) {x : β × State}
    (hf : ∀ y a, Keeps c s y.2 → Keeps c s (f y a).2) (h : Keeps c s x.2) : Keeps c s (l.foldl f x).2 := by
  induction l generalizing x with
  | nil => exact h
  | cons a l ih => exact ih (hf _ _ h)

theorem Keeps.foldl22 {α β γ : Type} {c : Bool} {s : State} {f : β × γ × State → α → β × γ × State} (l : List α) {x : β × γ × State}
    (hf : ∀ y a, Keeps c s y.2.2 → Keeps c s (f y a).2.2) (h : Keeps c s x.2.2) : Keeps c s (l.foldl f x).2.2 := by
  induction l generalizing x with
  | nil => exact h
  | cons a l ih => exact ih (hf _ _ h)

/-- The state of a pair that an operation answers. -/
theorem Keeps.of_pair {α : Type} {c : Bool} {s t : State} {x : α × State} {a : α} (e : x = (a, t)) (h : Keeps c s x.2) : Keeps c s t := by
  subst e; exact h

theorem Keeps.of_pair' {α : Type} {c : Bool} {s t : State} {x : State × α} {a : α} (e : x = (t, a)) (h : Keeps c s x.1) : Keeps c s t := by
  subst e; exact h

/-- An update of the other fields of State. -/
theorem keeps_mk_iff {c : Bool} {s t : State} (freeCtr' : Nat) (latches' : NatMap PairLatch) (selects' : NatMap Word) (unmappedLog' : NatMap Nat) (readout' : Bool) (fullDebug' : Bool) (hbmPoison' : NatMap Bool) (rsvPoison' : NatMap Bool) (rsvDisabled' : List (Nat × Nat × Nat × Nat)) (log' : List LogEntry) (emitted' : List Emit) (acres' : NatMap Acre) (amap' : NatMap Nat) (doubled' : NatMap Nat) (swaps' : List SwapJob) (wakeQ' : List (Nat × Nat)) (testQ' : List Nat) (testing' : List Nat) (issued' : NatMap Nat) (beyond' : Bool) (gates' : NatMap Gate) (broken' : List (Nat × Nat × Work)) (records' : List CourseRec) (satur' : List (Nat × Nat × Work)) (images' : NatMap Image) (cist' : Cistern) (serial' : Nat) (hostCmds' : List HostCmd) (openCmds' : List HostCmd) (qps' : NatMap QPSt) (respBuf' : List (Nat × Nat × Cpl)) (ledq' : NatMap LedgerQ) (hostLink' : List Nat) (msixMask' : NatMap Bool) (msixPend' : NatMap Bool) (ide' : NatMap IdeStream) (chans' : NatMap Chan) (chanGen' : Nat) (pages' : NatMap Nat) (holds' : NatMap Hold) (nextImage' : Nat) (ring' : Ring) (ditch' : Ditch) (eng' : Engine) (tally' : Tally) (trust' : Trust) (rely' : Rely) (power' : Power) (journal' : List LogEntry) :
    Keeps c s (State.mk t.pending freeCtr' t.counter t.epoch t.regs latches' selects' unmappedLog' readout' fullDebug' t.hbm t.spad hbmPoison' rsvPoison' rsvDisabled' log' emitted' acres' amap' doubled' swaps' wakeQ' testQ' testing' issued' beyond' gates' broken' records' satur' images' cist' serial' hostCmds' openCmds' qps' respBuf' ledq' hostLink' msixMask' msixPend' ide' chans' chanGen' pages' holds' nextImage' ring' ditch' eng' tally' trust' rely' power' journal') ↔ Keeps c s t :=
  ⟨fun h => ⟨h.queue, h.time, h.hbm, h.spad, h.regs⟩, fun h => .upd (t := t) rfl rfl rfl rfl rfl rfl h⟩

theorem Keeps.of_triple {α β : Type} {c : Bool} {s t : State} {x : α × β × State} {a : α} {b : β} (e : x = (a, b, t)) (h : Keeps c s x.2.2) :
    Keeps c s t := by
  subst e; exact h

theorem Keeps.of_quad {α β γ : Type} {c : Bool} {s t : State} {x : α × β × γ × State} {a : α} {b : β} {d : γ} (e : x = (a, b, d, t))
    (h : Keeps c s x.2.2.2) : Keeps c s t := by
  subst e; exact h

/-- An update of the scratchpads and of other fields. -/
theorem keeps_mk_spad {c : Bool} {s t : State} {m : NatMap Byte} {freeCtr' : Nat} {latches' : NatMap PairLatch} {selects' : NatMap Word} {unmappedLog' : NatMap Nat} {readout' : Bool} {fullDebug' : Bool} {hbmPoison' : NatMap Bool} {rsvPoison' : NatMap Bool} {rsvDisabled' : List (Nat × Nat × Nat × Nat)} {log' : List LogEntry} {emitted' : List Emit} {acres' : NatMap Acre} {amap' : NatMap Nat} {doubled' : NatMap Nat} {swaps' : List SwapJob} {wakeQ' : List (Nat × Nat)} {testQ' : List Nat} {testing' : List Nat} {issued' : NatMap Nat} {beyond' : Bool} {gates' : NatMap Gate} {broken' : List (Nat × Nat × Work)} {records' : List CourseRec} {satur' : List (Nat × Nat × Work)} {images' : NatMap Image} {cist' : Cistern} {serial' : Nat} {hostCmds' : List HostCmd} {openCmds' : List HostCmd} {qps' : NatMap QPSt} {respBuf' : List (Nat × Nat × Cpl)} {ledq' : NatMap LedgerQ} {hostLink' : List Nat} {msixMask' : NatMap Bool} {msixPend' : NatMap Bool} {ide' : NatMap IdeStream} {chans' : NatMap Chan} {chanGen' : Nat} {pages' : NatMap Nat} {holds' : NatMap Hold} {nextImage' : Nat} {ring' : Ring} {ditch' : Ditch} {eng' : Engine} {tally' : Tally} {trust' : Trust} {rely' : Rely} {power' : Power} {journal' : List LogEntry} (hm : canonK t.spad memDefault = true → canonK m memDefault = true)
    (h : Keeps c s t) :
    Keeps c s (State.mk t.pending freeCtr' t.counter t.epoch t.regs latches' selects' unmappedLog' readout' fullDebug' t.hbm m hbmPoison' rsvPoison' rsvDisabled' log' emitted' acres' amap' doubled' swaps' wakeQ' testQ' testing' issued' beyond' gates' broken' records' satur' images' cist' serial' hostCmds' openCmds' qps' respBuf' ledq' hostLink' msixMask' msixPend' ide' chans' chanGen' pages' holds' nextImage' ring' ditch' eng' tally' trust' rely' power' journal') :=
  ⟨h.queue, h.time, h.hbm, fun w => hm (h.spad w), h.regs⟩

/-- Entries that are moved to other keys keep the canonical form. -/
theorem canonK_move (m m' : NatMap Byte) (f : Nat × Byte → Nat) (hm : ∀ e ∈ m, e.2 ≠ memDefault) (h : canonK m' memDefault = true) :
    canonK (m.foldl (fun m e => insertK m (f e) e.2) m') memDefault = true := by
  induction m generalizing m' with
  | nil => exact h
  | cons e m ih =>
    refine ih _ (fun e he => hm e (by simp [he])) ?_
    have := canonK_setK m' memDefault (f e) e.2 h
    rwa [setK, if_neg (hm e (by simp))] at this

/-- A scratchpad's bytes moved to another acre (R574, R578). -/
theorem canonK_moveAcre (m : NatMap Byte) (old new : Nat) (h : canonK m memDefault = true) :
    canonK (((m.filter (fun e => e.1 / 0x200000 = old)).foldl (fun m e => insertK m (spadKey new (e.1 % 0x200000)) e.2)
      (m.filter (fun e => e.1 / 0x200000 ≠ new))).filter (fun e => e.1 / 0x200000 ≠ old)) memDefault = true := by
  refine canonK_filter _ _ _ (canonK_move _ _ (fun e => spadKey new (e.1 % 0x200000)) (fun e he => ?_) (canonK_filter _ _ _ h))
  have := ((canonK_iff _ _).1 h).2 e (List.mem_filter.1 he).1
  exact this

/-- What a tile's result keeps. -/
def KeepsTile (c : Bool) (s : State) : TileRes → Prop
  | .wait => True
  | .done t => Keeps c s t
  | .fault _ _ _ t => Keeps c s t

/-- What an optional result keeps. -/
def KeepsOpt (c : Bool) (s : State) : Option State → Prop
  | none => True
  | some t => Keeps c s t

def KeepsOpt2 {α : Type} (c : Bool) (s : State) : Option (α × State) → Prop
  | none => True
  | some (_, t) => Keeps c s t

/-- What the answer of an allocation keeps: `f` names the state in it. -/
def KeepsSum {α β : Type} (c : Bool) (s : State) (f : β → State) : Sum α β → Prop
  | .inl _ => True
  | .inr b => Keeps c s (f b)

theorem keepsSum_inl {α β : Type} {c : Bool} {s : State} {f : β → State} {a : α} : KeepsSum c s f (.inl a) := trivial
theorem keepsSum_inr {α β : Type} {c : Bool} {s : State} {f : β → State} {b : β} (h : Keeps c s (f b)) : KeepsSum (α := α) c s f (.inr b) := h

theorem KeepsSum.get {α β : Type} {c : Bool} {s : State} {f : β → State} {r : Sum α β} {b : β} (e : r = .inr b) (h : KeepsSum c s f r) :
    Keeps c s (f b) := by
  subst e; exact h

theorem KeepsSum.get1 {α : Type} {c : Bool} {s t : State} {r : Sum α State} (e : r = .inr t) (h : KeepsSum c s id r) : Keeps c s t := by
  subst e; exact h

theorem KeepsSum.get2 {α β : Type} {c : Bool} {s t : State} {r : Sum α (β × State)} {b : β} (e : r = .inr (b, t)) (h : KeepsSum c s (·.2) r) :
    Keeps c s t := by
  subst e; exact h

theorem KeepsSum.get3 {α β γ : Type} {c : Bool} {s t : State} {r : Sum α (β × γ × State)} {b : β} {d : γ} (e : r = .inr (b, d, t))
    (h : KeepsSum c s (·.2.2) r) : Keeps c s t := by
  subst e; exact h

theorem KeepsSum.get4 {α β γ δ : Type} {c : Bool} {s t : State} {r : Sum α (β × γ × δ × State)} {b : β} {d : γ} {a : δ} (e : r = .inr (b, d, a, t))
    (h : KeepsSum c s (·.2.2.2) r) : Keeps c s t := by
  subst e; exact h

theorem KeepsSum.foldl {α β γ : Type} {c : Bool} {s : State} {f : β → State} {g : Sum α β → γ → Sum α β} (l : List γ) {x : Sum α β}
    (hg : ∀ y a, KeepsSum c s f y → KeepsSum c s f (g y a)) (h : KeepsSum c s f x) : KeepsSum c s f (l.foldl g x) := by
  induction l generalizing x with
  | nil => exact h
  | cons a l ih => exact ih (hg _ _ h)

theorem keepsTile_wait {c : Bool} {s : State} : KeepsTile c s .wait := trivial
theorem keepsTile_done {c : Bool} {s t : State} (h : Keeps c s t) : KeepsTile c s (.done t) := h
theorem keepsTile_fault {c : Bool} {s t : State} {a b d : Nat} (h : Keeps c s t) : KeepsTile c s (.fault a b d t) := h
theorem keepsTile_ite {c : Bool} {s : State} {t u : TileRes} {p : Prop} [Decidable p] (h : p → KeepsTile c s t) (g : ¬p → KeepsTile c s u) :
    KeepsTile c s (if p then t else u) := by
  split
  · exact h ‹_›
  · exact g ‹_›
theorem keepsOpt_none {c : Bool} {s : State} : KeepsOpt c s none := trivial
theorem keepsOpt_some {c : Bool} {s t : State} (h : Keeps c s t) : KeepsOpt c s (some t) := h
theorem keepsOpt2_none {α : Type} {c : Bool} {s : State} : KeepsOpt2 (α := α) c s none := trivial
theorem keepsOpt2_some {α : Type} {c : Bool} {s t : State} {a : α} (h : Keeps c s t) : KeepsOpt2 c s (some (a, t)) := h

theorem keepsOpt2_map {α β : Type} {c : Bool} {s : State} {g : β → α × State} (o : Option β) (h : ∀ b, Keeps c s (g b).2) :
    KeepsOpt2 c s (o.map g) := by
  cases o with
  | none => trivial
  | some b => exact h b
theorem keepsOpt_map {β : Type} {c : Bool} {s : State} {g : β → State} (o : Option β) (h : ∀ b, Keeps c s (g b)) : KeepsOpt c s (o.map g) := by
  cases o with
  | none => trivial
  | some b => exact h b

theorem keepsOpt2_findSome {α β : Type} {c : Bool} {s : State} {g : β → Option (α × State)} (l : List β) (h : ∀ b, KeepsOpt2 c s (g b)) :
    KeepsOpt2 c s (l.findSome? g) := by
  induction l with
  | nil => trivial
  | cons b l ih =>
    rw [List.findSome?_cons]
    split
    · next x e => have := h b; rw [e] at this; exact this
    · exact ih

theorem KeepsOpt.bind {c : Bool} {s : State} {f : State → Option State} {o : Option State} (h : KeepsOpt c s o)
    (hf : ∀ t, Keeps c s t → KeepsOpt c s (f t)) : KeepsOpt c s (o.bind f) := by
  cases o with
  | none => trivial
  | some t => exact hf t h

theorem KeepsOpt.foldl {α : Type} {c : Bool} {s : State} {g : Option State → α → Option State} (l : List α) {o : Option State}
    (hg : ∀ o a, KeepsOpt c s o → KeepsOpt c s (g o a)) (h : KeepsOpt c s o) : KeepsOpt c s (l.foldl g o) := by
  induction l generalizing o with
  | nil => exact h
  | cons a l ih => exact ih (hg _ _ h)

theorem keepsOpt_map2 {α : Type} {c : Bool} {s : State} {g : α × State → State} {o : Option (α × State)} (h : KeepsOpt2 c s o)
    (hg : ∀ r, Keeps c s r.2 → Keeps c s (g r)) : KeepsOpt c s (o.map g) := by
  cases o with
  | none => trivial
  | some r => exact hg r h

theorem KeepsTile.done {c : Bool} {s t : State} {r : TileRes} (e : r = .done t) (h : KeepsTile c s r) : Keeps c s t := by
  subst e; exact h

theorem KeepsTile.fault {c : Bool} {s t : State} {r : TileRes} {a b d : Nat} (e : r = .fault a b d t) (h : KeepsTile c s r) :
    Keeps c s t := by
  subst e; exact h

theorem KeepsOpt.get {c : Bool} {s t : State} {r : Option State} (e : r = some t) (h : KeepsOpt c s r) : Keeps c s t := by
  subst e; exact h

theorem KeepsOpt2.get {α : Type} {c : Bool} {s t : State} {r : Option (α × State)} {a : α} (e : r = some (a, t)) (h : KeepsOpt2 c s r) :
    Keeps c s t := by
  subst e; exact h

/-! ### The operations that write registers and memory -/

theorem keeps_regSet {c : Bool} {s t : State} (a : Nat) (w : Word) (h : Keeps c s t) : Keeps c s (regSet a w t) :=
  h.trans ⟨rfl, fun _ => ⟨rfl, rfl⟩, id, id, fun g => canonD_setK _ _ _ _ g⟩

theorem keeps_wrByte {c : Bool} {s t : State} (a : Nat) (b : Byte) (h : Keeps c s t) : Keeps c s (wrByte a b t) := by
  unfold wrByte
  split
  · exact h.trans ⟨rfl, fun _ => ⟨rfl, rfl⟩, fun g => canonK_setK _ _ _ _ g, id, id⟩
  · exact h.trans ⟨rfl, fun _ => ⟨rfl, rfl⟩, id, fun g => canonK_setK _ _ _ _ g, id⟩
  · exact h

theorem keeps_wrBytes {c : Bool} {s t : State} (a : Nat) (bs : List Byte) (h : Keeps c s t) : Keeps c s (wrBytes a bs t) := by
  induction bs generalizing a t with
  | nil => exact h
  | cons b bs ih => exact ih _ (keeps_wrByte _ _ h)

theorem keeps_whenB {c : Bool} {s t : State} (b : Bool) (f : State → State) (hf : ∀ u, Keeps c s u → Keeps c s (f u)) (h : Keeps c s t) :
    Keeps c s (whenB b f t) := by
  unfold whenB
  split
  · exact hf _ h
  · exact h

theorem keeps_withSome {α : Type} {c : Bool} {s t : State} (o : Option α) (f : α → State → State)
    (hf : ∀ a u, Keeps c s u → Keeps c s (f a u)) (h : Keeps c s t) : Keeps c s (withSome o f t) := by
  unfold withSome
  split
  · exact hf _ _ h
  · exact h

end Sys2Proof.Laws
end

