-- ==== Sys2Proof/Laws/Regs.lean ====
section
/-!
SUPPORT. Register fields: what a read of a register or of a field sees after a write, and the values of the field helpers.
-/

namespace Sys2Proof.Laws

open Sys2Proof.Machine

/-! ### Fields of a word -/

theorem fldPut_toNat (f : Fld) (v : Nat) (w : Word) (h : f.lo + f.w ≤ 32) :
    (fldPut f v w).toNat = w.toNat / 2 ^ (f.lo + f.w) * 2 ^ (f.lo + f.w) + v % 2 ^ f.w * 2 ^ f.lo + w.toNat % 2 ^ f.lo := by
  have hx := w.isLt
  unfold fldPut fldOf
  rw [BitVec.toNat_ofNat, Nat.shiftRight_eq_div_pow]
  have e1 : w.toNat / 2 ^ f.lo / 2 ^ f.w = w.toNat / 2 ^ (f.lo + f.w) := by rw [Nat.div_div_eq_div_mul, Nat.pow_add]
  have e2 := Nat.div_add_mod w.toNat (2 ^ f.lo)
  have e3 := Nat.div_add_mod (w.toNat / 2 ^ f.lo) (2 ^ f.w)
  rw [e1] at e3
  have hv : v % 2 ^ f.w < 2 ^ f.w := Nat.mod_lt _ (Nat.two_pow_pos _)
  have hl : w.toNat % 2 ^ f.lo < 2 ^ f.lo := Nat.mod_lt _ (Nat.two_pow_pos _)
  have hh : w.toNat / 2 ^ (f.lo + f.w) < 2 ^ (32 - (f.lo + f.w)) := by
    rw [Nat.div_lt_iff_lt_mul (Nat.two_pow_pos _), ← Nat.pow_add]
    rwa [Nat.sub_add_cancel h]
  have h32 : 2 ^ 32 = 2 ^ (32 - (f.lo + f.w)) * (2 ^ f.w * 2 ^ f.lo) := by
    rw [← Nat.pow_add, ← Nat.pow_add]; congr 1; omega
  generalize w.toNat / 2 ^ (f.lo + f.w) = H at *
  rw [Nat.pow_add]
  generalize w.toNat / 2 ^ f.lo = Q at *
  generalize Q % 2 ^ f.w = M at *
  generalize w.toNat % 2 ^ f.lo = L at *
  generalize v % 2 ^ f.w = V at *
  generalize 2 ^ f.w = A at *
  generalize 2 ^ f.lo = B at *
  generalize 2 ^ (32 - (f.lo + f.w)) = C at *
  have e4 : w.toNat = H * (B * A) + M * B + L := by rw [← e2, ← e3]; ring
  have e5 : w.toNat - M * B + V * B = H * (B * A) + V * B + L := by
    have : w.toNat - M * B = H * (B * A) + L := by omega
    omega
  rw [e5, Nat.mod_eq_of_lt]
  rw [h32]
  calc H * (B * A) + V * B + L < H * (B * A) + V * B + B := by omega
    _ = H * (B * A) + (V + 1) * B := by ring
    _ ≤ H * (B * A) + A * B := by gcongr; omega
    _ = (H + 1) * (A * B) := by ring
    _ ≤ C * (A * B) := by gcongr; omega

/-- A field put reads back, modulo its range. -/
theorem fldOf_fldPut_same (f : Fld) (v : Nat) (w : Word) (h : f.lo + f.w ≤ 32) : fldOf f (fldPut f v w) = v % 2 ^ f.w := by
  unfold fldOf
  rw [fldPut_toNat f v w h, Nat.shiftRight_eq_div_pow]
  have hl : w.toNat % 2 ^ f.lo < 2 ^ f.lo := Nat.mod_lt _ (Nat.two_pow_pos _)
  have e : w.toNat / 2 ^ (f.lo + f.w) * 2 ^ (f.lo + f.w) + v % 2 ^ f.w * 2 ^ f.lo + w.toNat % 2 ^ f.lo
      = w.toNat % 2 ^ f.lo + 2 ^ f.lo * (v % 2 ^ f.w + 2 ^ f.w * (w.toNat / 2 ^ (f.lo + f.w))) := by
    rw [Nat.pow_add]; ring
  rw [e, Nat.add_mul_div_left _ _ (Nat.two_pow_pos _), Nat.div_eq_of_lt hl, Nat.zero_add, Nat.add_mul_mod_self_left, Nat.mod_mod]

/-- A field put leaves the fields beside it. -/
theorem fldOf_fldPut_other (f g : Fld) (v : Nat) (w : Word) (h : f.lo + f.w ≤ 32) (hd : g.lo + g.w ≤ f.lo ∨ f.lo + f.w ≤ g.lo) :
    fldOf g (fldPut f v w) = fldOf g w := by
  apply Nat.eq_of_testBit_eq
  intro i
  unfold fldOf
  rw [Nat.testBit_mod_two_pow, Nat.testBit_mod_two_pow, Nat.testBit_shiftRight, Nat.testBit_shiftRight]
  by_cases hi : i < g.w
  · simp only [hi, decide_true, Bool.true_and]
    rw [fldPut_toNat f v w h]
    have hv : v % 2 ^ f.w < 2 ^ f.w := Nat.mod_lt _ (Nat.two_pow_pos _)
    have hl : w.toNat % 2 ^ f.lo < 2 ^ f.lo := Nat.mod_lt _ (Nat.two_pow_pos _)
    rcases hd with hd | hd
    · have e : w.toNat / 2 ^ (f.lo + f.w) * 2 ^ (f.lo + f.w) + v % 2 ^ f.w * 2 ^ f.lo + w.toNat % 2 ^ f.lo
          = 2 ^ f.lo * (v % 2 ^ f.w + 2 ^ f.w * (w.toNat / 2 ^ (f.lo + f.w))) + w.toNat % 2 ^ f.lo := by
        rw [Nat.pow_add]; ring
      rw [e, Nat.testBit_two_pow_mul_add _ hl, if_pos (by omega), Nat.testBit_mod_two_pow]
      simp only [show g.lo + i < f.lo by omega, decide_true, Bool.true_and]
    · have hb : v % 2 ^ f.w * 2 ^ f.lo + w.toNat % 2 ^ f.lo < 2 ^ (f.lo + f.w) := by
        rw [Nat.pow_add]
        calc v % 2 ^ f.w * 2 ^ f.lo + w.toNat % 2 ^ f.lo < v % 2 ^ f.w * 2 ^ f.lo + 2 ^ f.lo := by omega
          _ = (v % 2 ^ f.w + 1) * 2 ^ f.lo := by ring
          _ ≤ 2 ^ f.w * 2 ^ f.lo := by gcongr; omega
          _ = 2 ^ f.lo * 2 ^ f.w := by ring
      have e : w.toNat / 2 ^ (f.lo + f.w) * 2 ^ (f.lo + f.w) + v % 2 ^ f.w * 2 ^ f.lo + w.toNat % 2 ^ f.lo
          = 2 ^ (f.lo + f.w) * (w.toNat / 2 ^ (f.lo + f.w)) + (v % 2 ^ f.w * 2 ^ f.lo + w.toNat % 2 ^ f.lo) := by ring
      rw [e, Nat.testBit_two_pow_mul_add _ hb, if_neg (by omega), Nat.testBit_div_two_pow]
      congr 1; omega
  · simp [hi]

/-! ### Registers -/

theorem regGet_eq (s : State) (a : Nat) : regGet s a = getK s.regs a (resetAt a) := by
  unfold regGet getK
  cases lookupK s.regs a <;> rfl

/-- A register written reads back. -/
theorem regGet_regSet_same (a : Nat) (w : Word) (s : State) : regGet (regSet a w s) a = w := by
  rw [regGet_eq]
  exact getK_setK_same s.regs a w _

/-- A register write leaves every other register. -/
theorem regGet_regSet_other (a b : Nat) (w : Word) (s : State) (h : b ≠ a) : regGet (regSet a w s) b = regGet s b := by
  rw [regGet_eq, regGet_eq]
  exact getK_setK_other s.regs a b w _ _ h

theorem regGet_congr {s t : State} (h : t.regs = s.regs) (a : Nat) : regGet t a = regGet s a := by
  unfold regGet; rw [h]

theorem getF_congr {s t : State} (h : t.regs = s.regs) (b : Nat) (f : Fld) : getF t b f = getF s b f := by
  unfold getF; rw [regGet_congr h]

theorem regGet_setF_other (b a : Nat) (f : Fld) (v : Nat) (s : State) (h : a ≠ b + f.off) : regGet (setF b f v s) a = regGet s a :=
  regGet_regSet_other _ _ _ _ h

/-- A field written reads back. -/
theorem getF_setF_same (b : Nat) (f : Fld) (v : Nat) (s : State) (h : f.lo + f.w ≤ 32) :
    getF (setF b f v s) b f = v % 2 ^ f.w := by
  unfold getF setF
  rw [regGet_regSet_same, fldOf_fldPut_same f v _ h]

/-- A field write leaves a field of another register. -/
theorem getF_setF_other (b c : Nat) (f g : Fld) (v : Nat) (s : State) (h : c + g.off ≠ b + f.off) :
    getF (setF b f v s) c g = getF s c g := by
  unfold getF
  rw [regGet_setF_other _ _ _ _ _ h]

/-- A field write leaves the register's other fields. -/
theorem getF_setF_beside (b : Nat) (f g : Fld) (v : Nat) (s : State) (ho : g.off = f.off) (h : f.lo + f.w ≤ 32)
    (hd : g.lo + g.w ≤ f.lo ∨ f.lo + f.w ≤ g.lo) : getF (setF b f v s) b g = getF s b g := by
  unfold getF setF
  rw [ho, regGet_regSet_same, fldOf_fldPut_other f g v _ h hd]

theorem fldOf_lt (f : Fld) (w : Word) : fldOf f w < 2 ^ f.w := Nat.mod_lt _ (Nat.two_pow_pos _)

theorem getF_lt (s : State) (b : Nat) (f : Fld) : getF s b f < 2 ^ f.w := fldOf_lt _ _

end Sys2Proof.Laws
end

