-- ==== Sys2Proof/Laws/State.lean ====
section
/-!
SUPPORT. Each field of the state after each of the updates that the operations are built from: one lemma for each field and update.
-/

namespace Sys2Proof.Laws

open Sys2Proof.Machine

/-! ### regSet -/

section

variable (a : Nat) (w : Word) (s : State)

@[simp] theorem regSet_pending : (regSet a w s).pending = s.pending := rfl
@[simp] theorem regSet_freeCtr : (regSet a w s).freeCtr = s.freeCtr := rfl
@[simp] theorem regSet_counter : (regSet a w s).counter = s.counter := rfl
@[simp] theorem regSet_epoch : (regSet a w s).epoch = s.epoch := rfl
@[simp] theorem regSet_regs : (regSet a w s).regs = setK s.regs a w (resetAt a) := rfl
@[simp] theorem regSet_latches : (regSet a w s).latches = s.latches := rfl
@[simp] theorem regSet_selects : (regSet a w s).selects = s.selects := rfl
@[simp] theorem regSet_unmappedLog : (regSet a w s).unmappedLog = s.unmappedLog := rfl
@[simp] theorem regSet_readout : (regSet a w s).readout = s.readout := rfl
@[simp] theorem regSet_fullDebug : (regSet a w s).fullDebug = s.fullDebug := rfl
@[simp] theorem regSet_hbm : (regSet a w s).hbm = s.hbm := rfl
@[simp] theorem regSet_spad : (regSet a w s).spad = s.spad := rfl
@[simp] theorem regSet_hbmPoison : (regSet a w s).hbmPoison = s.hbmPoison := rfl
@[simp] theorem regSet_rsvPoison : (regSet a w s).rsvPoison = s.rsvPoison := rfl
@[simp] theorem regSet_rsvDisabled : (regSet a w s).rsvDisabled = s.rsvDisabled := rfl
@[simp] theorem regSet_log : (regSet a w s).log = s.log := rfl
@[simp] theorem regSet_emitted : (regSet a w s).emitted = s.emitted := rfl
@[simp] theorem regSet_acres : (regSet a w s).acres = s.acres := rfl
@[simp] theorem regSet_amap : (regSet a w s).amap = s.amap := rfl
@[simp] theorem regSet_doubled : (regSet a w s).doubled = s.doubled := rfl
@[simp] theorem regSet_swaps : (regSet a w s).swaps = s.swaps := rfl
@[simp] theorem regSet_wakeQ : (regSet a w s).wakeQ = s.wakeQ := rfl
@[simp] theorem regSet_testQ : (regSet a w s).testQ = s.testQ := rfl
@[simp] theorem regSet_testing : (regSet a w s).testing = s.testing := rfl
@[simp] theorem regSet_issued : (regSet a w s).issued = s.issued := rfl
@[simp] theorem regSet_beyond : (regSet a w s).beyond = s.beyond := rfl
@[simp] theorem regSet_gates : (regSet a w s).gates = s.gates := rfl
@[simp] theorem regSet_broken : (regSet a w s).broken = s.broken := rfl
@[simp] theorem regSet_records : (regSet a w s).records = s.records := rfl
@[simp] theorem regSet_satur : (regSet a w s).satur = s.satur := rfl
@[simp] theorem regSet_images : (regSet a w s).images = s.images := rfl
@[simp] theorem regSet_cist : (regSet a w s).cist = s.cist := rfl
@[simp] theorem regSet_serial : (regSet a w s).serial = s.serial := rfl
@[simp] theorem regSet_hostCmds : (regSet a w s).hostCmds = s.hostCmds := rfl
@[simp] theorem regSet_openCmds : (regSet a w s).openCmds = s.openCmds := rfl
@[simp] theorem regSet_qps : (regSet a w s).qps = s.qps := rfl
@[simp] theorem regSet_respBuf : (regSet a w s).respBuf = s.respBuf := rfl
@[simp] theorem regSet_ledq : (regSet a w s).ledq = s.ledq := rfl
@[simp] theorem regSet_hostLink : (regSet a w s).hostLink = s.hostLink := rfl
@[simp] theorem regSet_msixMask : (regSet a w s).msixMask = s.msixMask := rfl
@[simp] theorem regSet_msixPend : (regSet a w s).msixPend = s.msixPend := rfl
@[simp] theorem regSet_ide : (regSet a w s).ide = s.ide := rfl
@[simp] theorem regSet_chans : (regSet a w s).chans = s.chans := rfl
@[simp] theorem regSet_chanGen : (regSet a w s).chanGen = s.chanGen := rfl
@[simp] theorem regSet_pages : (regSet a w s).pages = s.pages := rfl
@[simp] theorem regSet_holds : (regSet a w s).holds = s.holds := rfl
@[simp] theorem regSet_nextImage : (regSet a w s).nextImage = s.nextImage := rfl
@[simp] theorem regSet_ring : (regSet a w s).ring = s.ring := rfl
@[simp] theorem regSet_ditch : (regSet a w s).ditch = s.ditch := rfl
@[simp] theorem regSet_eng : (regSet a w s).eng = s.eng := rfl
@[simp] theorem regSet_tally : (regSet a w s).tally = s.tally := rfl
@[simp] theorem regSet_trust : (regSet a w s).trust = s.trust := rfl
@[simp] theorem regSet_rely : (regSet a w s).rely = s.rely := rfl
@[simp] theorem regSet_power : (regSet a w s).power = s.power := rfl
@[simp] theorem regSet_journal : (regSet a w s).journal = s.journal := rfl

end

/-! ### emit -/

section

variable (e : Emit) (s : State)

@[simp] theorem emit_pending : (emit e s).pending = s.pending := rfl
@[simp] theorem emit_freeCtr : (emit e s).freeCtr = s.freeCtr := rfl
@[simp] theorem emit_counter : (emit e s).counter = s.counter := rfl
@[simp] theorem emit_epoch : (emit e s).epoch = s.epoch := rfl
@[simp] theorem emit_regs : (emit e s).regs = s.regs := rfl
@[simp] theorem emit_latches : (emit e s).latches = s.latches := rfl
@[simp] theorem emit_selects : (emit e s).selects = s.selects := rfl
@[simp] theorem emit_unmappedLog : (emit e s).unmappedLog = s.unmappedLog := rfl
@[simp] theorem emit_readout : (emit e s).readout = s.readout := rfl
@[simp] theorem emit_fullDebug : (emit e s).fullDebug = s.fullDebug := rfl
@[simp] theorem emit_hbm : (emit e s).hbm = s.hbm := rfl
@[simp] theorem emit_spad : (emit e s).spad = s.spad := rfl
@[simp] theorem emit_hbmPoison : (emit e s).hbmPoison = s.hbmPoison := rfl
@[simp] theorem emit_rsvPoison : (emit e s).rsvPoison = s.rsvPoison := rfl
@[simp] theorem emit_rsvDisabled : (emit e s).rsvDisabled = s.rsvDisabled := rfl
@[simp] theorem emit_log : (emit e s).log = s.log := rfl
@[simp] theorem emit_emitted : (emit e s).emitted = s.emitted ++ [e] := rfl
@[simp] theorem emit_acres : (emit e s).acres = s.acres := rfl
@[simp] theorem emit_amap : (emit e s).amap = s.amap := rfl
@[simp] theorem emit_doubled : (emit e s).doubled = s.doubled := rfl
@[simp] theorem emit_swaps : (emit e s).swaps = s.swaps := rfl
@[simp] theorem emit_wakeQ : (emit e s).wakeQ = s.wakeQ := rfl
@[simp] theorem emit_testQ : (emit e s).testQ = s.testQ := rfl
@[simp] theorem emit_testing : (emit e s).testing = s.testing := rfl
@[simp] theorem emit_issued : (emit e s).issued = s.issued := rfl
@[simp] theorem emit_beyond : (emit e s).beyond = s.beyond := rfl
@[simp] theorem emit_gates : (emit e s).gates = s.gates := rfl
@[simp] theorem emit_broken : (emit e s).broken = s.broken := rfl
@[simp] theorem emit_records : (emit e s).records = s.records := rfl
@[simp] theorem emit_satur : (emit e s).satur = s.satur := rfl
@[simp] theorem emit_images : (emit e s).images = s.images := rfl
@[simp] theorem emit_cist : (emit e s).cist = s.cist := rfl
@[simp] theorem emit_serial : (emit e s).serial = s.serial := rfl
@[simp] theorem emit_hostCmds : (emit e s).hostCmds = s.hostCmds := rfl
@[simp] theorem emit_openCmds : (emit e s).openCmds = s.openCmds := rfl
@[simp] theorem emit_qps : (emit e s).qps = s.qps := rfl
@[simp] theorem emit_respBuf : (emit e s).respBuf = s.respBuf := rfl
@[simp] theorem emit_ledq : (emit e s).ledq = s.ledq := rfl
@[simp] theorem emit_hostLink : (emit e s).hostLink = s.hostLink := rfl
@[simp] theorem emit_msixMask : (emit e s).msixMask = s.msixMask := rfl
@[simp] theorem emit_msixPend : (emit e s).msixPend = s.msixPend := rfl
@[simp] theorem emit_ide : (emit e s).ide = s.ide := rfl
@[simp] theorem emit_chans : (emit e s).chans = s.chans := rfl
@[simp] theorem emit_chanGen : (emit e s).chanGen = s.chanGen := rfl
@[simp] theorem emit_pages : (emit e s).pages = s.pages := rfl
@[simp] theorem emit_holds : (emit e s).holds = s.holds := rfl
@[simp] theorem emit_nextImage : (emit e s).nextImage = s.nextImage := rfl
@[simp] theorem emit_ring : (emit e s).ring = s.ring := rfl
@[simp] theorem emit_ditch : (emit e s).ditch = s.ditch := rfl
@[simp] theorem emit_eng : (emit e s).eng = s.eng := rfl
@[simp] theorem emit_tally : (emit e s).tally = s.tally := rfl
@[simp] theorem emit_trust : (emit e s).trust = s.trust := rfl
@[simp] theorem emit_rely : (emit e s).rely = s.rely := rfl
@[simp] theorem emit_power : (emit e s).power = s.power := rfl
@[simp] theorem emit_journal : (emit e s).journal = s.journal := rfl

end

/-! ### setAcre -/

section

variable (g : Nat) (a : Acre) (s : State)

@[simp] theorem setAcre_pending : (setAcre g a s).pending = s.pending := rfl
@[simp] theorem setAcre_freeCtr : (setAcre g a s).freeCtr = s.freeCtr := rfl
@[simp] theorem setAcre_counter : (setAcre g a s).counter = s.counter := rfl
@[simp] theorem setAcre_epoch : (setAcre g a s).epoch = s.epoch := rfl
@[simp] theorem setAcre_regs : (setAcre g a s).regs = s.regs := rfl
@[simp] theorem setAcre_latches : (setAcre g a s).latches = s.latches := rfl
@[simp] theorem setAcre_selects : (setAcre g a s).selects = s.selects := rfl
@[simp] theorem setAcre_unmappedLog : (setAcre g a s).unmappedLog = s.unmappedLog := rfl
@[simp] theorem setAcre_readout : (setAcre g a s).readout = s.readout := rfl
@[simp] theorem setAcre_fullDebug : (setAcre g a s).fullDebug = s.fullDebug := rfl
@[simp] theorem setAcre_hbm : (setAcre g a s).hbm = s.hbm := rfl
@[simp] theorem setAcre_spad : (setAcre g a s).spad = s.spad := rfl
@[simp] theorem setAcre_hbmPoison : (setAcre g a s).hbmPoison = s.hbmPoison := rfl
@[simp] theorem setAcre_rsvPoison : (setAcre g a s).rsvPoison = s.rsvPoison := rfl
@[simp] theorem setAcre_rsvDisabled : (setAcre g a s).rsvDisabled = s.rsvDisabled := rfl
@[simp] theorem setAcre_log : (setAcre g a s).log = s.log := rfl
@[simp] theorem setAcre_emitted : (setAcre g a s).emitted = s.emitted := rfl
@[simp] theorem setAcre_acres : (setAcre g a s).acres = setK s.acres g a {} := rfl
@[simp] theorem setAcre_amap : (setAcre g a s).amap = s.amap := rfl
@[simp] theorem setAcre_doubled : (setAcre g a s).doubled = s.doubled := rfl
@[simp] theorem setAcre_swaps : (setAcre g a s).swaps = s.swaps := rfl
@[simp] theorem setAcre_wakeQ : (setAcre g a s).wakeQ = s.wakeQ := rfl
@[simp] theorem setAcre_testQ : (setAcre g a s).testQ = s.testQ := rfl
@[simp] theorem setAcre_testing : (setAcre g a s).testing = s.testing := rfl
@[simp] theorem setAcre_issued : (setAcre g a s).issued = s.issued := rfl
@[simp] theorem setAcre_beyond : (setAcre g a s).beyond = s.beyond := rfl
@[simp] theorem setAcre_gates : (setAcre g a s).gates = s.gates := rfl
@[simp] theorem setAcre_broken : (setAcre g a s).broken = s.broken := rfl
@[simp] theorem setAcre_records : (setAcre g a s).records = s.records := rfl
@[simp] theorem setAcre_satur : (setAcre g a s).satur = s.satur := rfl
@[simp] theorem setAcre_images : (setAcre g a s).images = s.images := rfl
@[simp] theorem setAcre_cist : (setAcre g a s).cist = s.cist := rfl
@[simp] theorem setAcre_serial : (setAcre g a s).serial = s.serial := rfl
@[simp] theorem setAcre_hostCmds : (setAcre g a s).hostCmds = s.hostCmds := rfl
@[simp] theorem setAcre_openCmds : (setAcre g a s).openCmds = s.openCmds := rfl
@[simp] theorem setAcre_qps : (setAcre g a s).qps = s.qps := rfl
@[simp] theorem setAcre_respBuf : (setAcre g a s).respBuf = s.respBuf := rfl
@[simp] theorem setAcre_ledq : (setAcre g a s).ledq = s.ledq := rfl
@[simp] theorem setAcre_hostLink : (setAcre g a s).hostLink = s.hostLink := rfl
@[simp] theorem setAcre_msixMask : (setAcre g a s).msixMask = s.msixMask := rfl
@[simp] theorem setAcre_msixPend : (setAcre g a s).msixPend = s.msixPend := rfl
@[simp] theorem setAcre_ide : (setAcre g a s).ide = s.ide := rfl
@[simp] theorem setAcre_chans : (setAcre g a s).chans = s.chans := rfl
@[simp] theorem setAcre_chanGen : (setAcre g a s).chanGen = s.chanGen := rfl
@[simp] theorem setAcre_pages : (setAcre g a s).pages = s.pages := rfl
@[simp] theorem setAcre_holds : (setAcre g a s).holds = s.holds := rfl
@[simp] theorem setAcre_nextImage : (setAcre g a s).nextImage = s.nextImage := rfl
@[simp] theorem setAcre_ring : (setAcre g a s).ring = s.ring := rfl
@[simp] theorem setAcre_ditch : (setAcre g a s).ditch = s.ditch := rfl
@[simp] theorem setAcre_eng : (setAcre g a s).eng = s.eng := rfl
@[simp] theorem setAcre_tally : (setAcre g a s).tally = s.tally := rfl
@[simp] theorem setAcre_trust : (setAcre g a s).trust = s.trust := rfl
@[simp] theorem setAcre_rely : (setAcre g a s).rely = s.rely := rfl
@[simp] theorem setAcre_power : (setAcre g a s).power = s.power := rfl
@[simp] theorem setAcre_journal : (setAcre g a s).journal = s.journal := rfl

end

/-! ### selSet -/

section

variable (p : Path) (a : Nat) (w : Word) (s : State)

@[simp] theorem selSet_pending : (selSet p a w s).pending = s.pending := rfl
@[simp] theorem selSet_freeCtr : (selSet p a w s).freeCtr = s.freeCtr := rfl
@[simp] theorem selSet_counter : (selSet p a w s).counter = s.counter := rfl
@[simp] theorem selSet_epoch : (selSet p a w s).epoch = s.epoch := rfl
@[simp] theorem selSet_regs : (selSet p a w s).regs = s.regs := rfl
@[simp] theorem selSet_latches : (selSet p a w s).latches = s.latches := rfl
@[simp] theorem selSet_selects : (selSet p a w s).selects = setK s.selects (selKey p a) w (resetAt a) := rfl
@[simp] theorem selSet_unmappedLog : (selSet p a w s).unmappedLog = s.unmappedLog := rfl
@[simp] theorem selSet_readout : (selSet p a w s).readout = s.readout := rfl
@[simp] theorem selSet_fullDebug : (selSet p a w s).fullDebug = s.fullDebug := rfl
@[simp] theorem selSet_hbm : (selSet p a w s).hbm = s.hbm := rfl
@[simp] theorem selSet_spad : (selSet p a w s).spad = s.spad := rfl
@[simp] theorem selSet_hbmPoison : (selSet p a w s).hbmPoison = s.hbmPoison := rfl
@[simp] theorem selSet_rsvPoison : (selSet p a w s).rsvPoison = s.rsvPoison := rfl
@[simp] theorem selSet_rsvDisabled : (selSet p a w s).rsvDisabled = s.rsvDisabled := rfl
@[simp] theorem selSet_log : (selSet p a w s).log = s.log := rfl
@[simp] theorem selSet_emitted : (selSet p a w s).emitted = s.emitted := rfl
@[simp] theorem selSet_acres : (selSet p a w s).acres = s.acres := rfl
@[simp] theorem selSet_amap : (selSet p a w s).amap = s.amap := rfl
@[simp] theorem selSet_doubled : (selSet p a w s).doubled = s.doubled := rfl
@[simp] theorem selSet_swaps : (selSet p a w s).swaps = s.swaps := rfl
@[simp] theorem selSet_wakeQ : (selSet p a w s).wakeQ = s.wakeQ := rfl
@[simp] theorem selSet_testQ : (selSet p a w s).testQ = s.testQ := rfl
@[simp] theorem selSet_testing : (selSet p a w s).testing = s.testing := rfl
@[simp] theorem selSet_issued : (selSet p a w s).issued = s.issued := rfl
@[simp] theorem selSet_beyond : (selSet p a w s).beyond = s.beyond := rfl
@[simp] theorem selSet_gates : (selSet p a w s).gates = s.gates := rfl
@[simp] theorem selSet_broken : (selSet p a w s).broken = s.broken := rfl
@[simp] theorem selSet_records : (selSet p a w s).records = s.records := rfl
@[simp] theorem selSet_satur : (selSet p a w s).satur = s.satur := rfl
@[simp] theorem selSet_images : (selSet p a w s).images = s.images := rfl
@[simp] theorem selSet_cist : (selSet p a w s).cist = s.cist := rfl
@[simp] theorem selSet_serial : (selSet p a w s).serial = s.serial := rfl
@[simp] theorem selSet_hostCmds : (selSet p a w s).hostCmds = s.hostCmds := rfl
@[simp] theorem selSet_openCmds : (selSet p a w s).openCmds = s.openCmds := rfl
@[simp] theorem selSet_qps : (selSet p a w s).qps = s.qps := rfl
@[simp] theorem selSet_respBuf : (selSet p a w s).respBuf = s.respBuf := rfl
@[simp] theorem selSet_ledq : (selSet p a w s).ledq = s.ledq := rfl
@[simp] theorem selSet_hostLink : (selSet p a w s).hostLink = s.hostLink := rfl
@[simp] theorem selSet_msixMask : (selSet p a w s).msixMask = s.msixMask := rfl
@[simp] theorem selSet_msixPend : (selSet p a w s).msixPend = s.msixPend := rfl
@[simp] theorem selSet_ide : (selSet p a w s).ide = s.ide := rfl
@[simp] theorem selSet_chans : (selSet p a w s).chans = s.chans := rfl
@[simp] theorem selSet_chanGen : (selSet p a w s).chanGen = s.chanGen := rfl
@[simp] theorem selSet_pages : (selSet p a w s).pages = s.pages := rfl
@[simp] theorem selSet_holds : (selSet p a w s).holds = s.holds := rfl
@[simp] theorem selSet_nextImage : (selSet p a w s).nextImage = s.nextImage := rfl
@[simp] theorem selSet_ring : (selSet p a w s).ring = s.ring := rfl
@[simp] theorem selSet_ditch : (selSet p a w s).ditch = s.ditch := rfl
@[simp] theorem selSet_eng : (selSet p a w s).eng = s.eng := rfl
@[simp] theorem selSet_tally : (selSet p a w s).tally = s.tally := rfl
@[simp] theorem selSet_trust : (selSet p a w s).trust = s.trust := rfl
@[simp] theorem selSet_rely : (selSet p a w s).rely = s.rely := rfl
@[simp] theorem selSet_power : (selSet p a w s).power = s.power := rfl
@[simp] theorem selSet_journal : (selSet p a w s).journal = s.journal := rfl

end

/-! ### setLatch -/

section

variable (p : Path) (a : Nat) (v : PairLatch) (s : State)

@[simp] theorem setLatch_pending : (setLatch p a v s).pending = s.pending := rfl
@[simp] theorem setLatch_freeCtr : (setLatch p a v s).freeCtr = s.freeCtr := rfl
@[simp] theorem setLatch_counter : (setLatch p a v s).counter = s.counter := rfl
@[simp] theorem setLatch_epoch : (setLatch p a v s).epoch = s.epoch := rfl
@[simp] theorem setLatch_regs : (setLatch p a v s).regs = s.regs := rfl
@[simp] theorem setLatch_latches : (setLatch p a v s).latches = setK s.latches (latchKey p a) v {} := rfl
@[simp] theorem setLatch_selects : (setLatch p a v s).selects = s.selects := rfl
@[simp] theorem setLatch_unmappedLog : (setLatch p a v s).unmappedLog = s.unmappedLog := rfl
@[simp] theorem setLatch_readout : (setLatch p a v s).readout = s.readout := rfl
@[simp] theorem setLatch_fullDebug : (setLatch p a v s).fullDebug = s.fullDebug := rfl
@[simp] theorem setLatch_hbm : (setLatch p a v s).hbm = s.hbm := rfl
@[simp] theorem setLatch_spad : (setLatch p a v s).spad = s.spad := rfl
@[simp] theorem setLatch_hbmPoison : (setLatch p a v s).hbmPoison = s.hbmPoison := rfl
@[simp] theorem setLatch_rsvPoison : (setLatch p a v s).rsvPoison = s.rsvPoison := rfl
@[simp] theorem setLatch_rsvDisabled : (setLatch p a v s).rsvDisabled = s.rsvDisabled := rfl
@[simp] theorem setLatch_log : (setLatch p a v s).log = s.log := rfl
@[simp] theorem setLatch_emitted : (setLatch p a v s).emitted = s.emitted := rfl
@[simp] theorem setLatch_acres : (setLatch p a v s).acres = s.acres := rfl
@[simp] theorem setLatch_amap : (setLatch p a v s).amap = s.amap := rfl
@[simp] theorem setLatch_doubled : (setLatch p a v s).doubled = s.doubled := rfl
@[simp] theorem setLatch_swaps : (setLatch p a v s).swaps = s.swaps := rfl
@[simp] theorem setLatch_wakeQ : (setLatch p a v s).wakeQ = s.wakeQ := rfl
@[simp] theorem setLatch_testQ : (setLatch p a v s).testQ = s.testQ := rfl
@[simp] theorem setLatch_testing : (setLatch p a v s).testing = s.testing := rfl
@[simp] theorem setLatch_issued : (setLatch p a v s).issued = s.issued := rfl
@[simp] theorem setLatch_beyond : (setLatch p a v s).beyond = s.beyond := rfl
@[simp] theorem setLatch_gates : (setLatch p a v s).gates = s.gates := rfl
@[simp] theorem setLatch_broken : (setLatch p a v s).broken = s.broken := rfl
@[simp] theorem setLatch_records : (setLatch p a v s).records = s.records := rfl
@[simp] theorem setLatch_satur : (setLatch p a v s).satur = s.satur := rfl
@[simp] theorem setLatch_images : (setLatch p a v s).images = s.images := rfl
@[simp] theorem setLatch_cist : (setLatch p a v s).cist = s.cist := rfl
@[simp] theorem setLatch_serial : (setLatch p a v s).serial = s.serial := rfl
@[simp] theorem setLatch_hostCmds : (setLatch p a v s).hostCmds = s.hostCmds := rfl
@[simp] theorem setLatch_openCmds : (setLatch p a v s).openCmds = s.openCmds := rfl
@[simp] theorem setLatch_qps : (setLatch p a v s).qps = s.qps := rfl
@[simp] theorem setLatch_respBuf : (setLatch p a v s).respBuf = s.respBuf := rfl
@[simp] theorem setLatch_ledq : (setLatch p a v s).ledq = s.ledq := rfl
@[simp] theorem setLatch_hostLink : (setLatch p a v s).hostLink = s.hostLink := rfl
@[simp] theorem setLatch_msixMask : (setLatch p a v s).msixMask = s.msixMask := rfl
@[simp] theorem setLatch_msixPend : (setLatch p a v s).msixPend = s.msixPend := rfl
@[simp] theorem setLatch_ide : (setLatch p a v s).ide = s.ide := rfl
@[simp] theorem setLatch_chans : (setLatch p a v s).chans = s.chans := rfl
@[simp] theorem setLatch_chanGen : (setLatch p a v s).chanGen = s.chanGen := rfl
@[simp] theorem setLatch_pages : (setLatch p a v s).pages = s.pages := rfl
@[simp] theorem setLatch_holds : (setLatch p a v s).holds = s.holds := rfl
@[simp] theorem setLatch_nextImage : (setLatch p a v s).nextImage = s.nextImage := rfl
@[simp] theorem setLatch_ring : (setLatch p a v s).ring = s.ring := rfl
@[simp] theorem setLatch_ditch : (setLatch p a v s).ditch = s.ditch := rfl
@[simp] theorem setLatch_eng : (setLatch p a v s).eng = s.eng := rfl
@[simp] theorem setLatch_tally : (setLatch p a v s).tally = s.tally := rfl
@[simp] theorem setLatch_trust : (setLatch p a v s).trust = s.trust := rfl
@[simp] theorem setLatch_rely : (setLatch p a v s).rely = s.rely := rfl
@[simp] theorem setLatch_power : (setLatch p a v s).power = s.power := rfl
@[simp] theorem setLatch_journal : (setLatch p a v s).journal = s.journal := rfl

end

/-! ### setHold -/

section

variable (h : Nat) (v : Hold) (s : State)

@[simp] theorem setHold_pending : (setHold h v s).pending = s.pending := rfl
@[simp] theorem setHold_freeCtr : (setHold h v s).freeCtr = s.freeCtr := rfl
@[simp] theorem setHold_counter : (setHold h v s).counter = s.counter := rfl
@[simp] theorem setHold_epoch : (setHold h v s).epoch = s.epoch := rfl
@[simp] theorem setHold_regs : (setHold h v s).regs = s.regs := rfl
@[simp] theorem setHold_latches : (setHold h v s).latches = s.latches := rfl
@[simp] theorem setHold_selects : (setHold h v s).selects = s.selects := rfl
@[simp] theorem setHold_unmappedLog : (setHold h v s).unmappedLog = s.unmappedLog := rfl
@[simp] theorem setHold_readout : (setHold h v s).readout = s.readout := rfl
@[simp] theorem setHold_fullDebug : (setHold h v s).fullDebug = s.fullDebug := rfl
@[simp] theorem setHold_hbm : (setHold h v s).hbm = s.hbm := rfl
@[simp] theorem setHold_spad : (setHold h v s).spad = s.spad := rfl
@[simp] theorem setHold_hbmPoison : (setHold h v s).hbmPoison = s.hbmPoison := rfl
@[simp] theorem setHold_rsvPoison : (setHold h v s).rsvPoison = s.rsvPoison := rfl
@[simp] theorem setHold_rsvDisabled : (setHold h v s).rsvDisabled = s.rsvDisabled := rfl
@[simp] theorem setHold_log : (setHold h v s).log = s.log := rfl
@[simp] theorem setHold_emitted : (setHold h v s).emitted = s.emitted := rfl
@[simp] theorem setHold_acres : (setHold h v s).acres = s.acres := rfl
@[simp] theorem setHold_amap : (setHold h v s).amap = s.amap := rfl
@[simp] theorem setHold_doubled : (setHold h v s).doubled = s.doubled := rfl
@[simp] theorem setHold_swaps : (setHold h v s).swaps = s.swaps := rfl
@[simp] theorem setHold_wakeQ : (setHold h v s).wakeQ = s.wakeQ := rfl
@[simp] theorem setHold_testQ : (setHold h v s).testQ = s.testQ := rfl
@[simp] theorem setHold_testing : (setHold h v s).testing = s.testing := rfl
@[simp] theorem setHold_issued : (setHold h v s).issued = s.issued := rfl
@[simp] theorem setHold_beyond : (setHold h v s).beyond = s.beyond := rfl
@[simp] theorem setHold_gates : (setHold h v s).gates = s.gates := rfl
@[simp] theorem setHold_broken : (setHold h v s).broken = s.broken := rfl
@[simp] theorem setHold_records : (setHold h v s).records = s.records := rfl
@[simp] theorem setHold_satur : (setHold h v s).satur = s.satur := rfl
@[simp] theorem setHold_images : (setHold h v s).images = s.images := rfl
@[simp] theorem setHold_cist : (setHold h v s).cist = s.cist := rfl
@[simp] theorem setHold_serial : (setHold h v s).serial = s.serial := rfl
@[simp] theorem setHold_hostCmds : (setHold h v s).hostCmds = s.hostCmds := rfl
@[simp] theorem setHold_openCmds : (setHold h v s).openCmds = s.openCmds := rfl
@[simp] theorem setHold_qps : (setHold h v s).qps = s.qps := rfl
@[simp] theorem setHold_respBuf : (setHold h v s).respBuf = s.respBuf := rfl
@[simp] theorem setHold_ledq : (setHold h v s).ledq = s.ledq := rfl
@[simp] theorem setHold_hostLink : (setHold h v s).hostLink = s.hostLink := rfl
@[simp] theorem setHold_msixMask : (setHold h v s).msixMask = s.msixMask := rfl
@[simp] theorem setHold_msixPend : (setHold h v s).msixPend = s.msixPend := rfl
@[simp] theorem setHold_ide : (setHold h v s).ide = s.ide := rfl
@[simp] theorem setHold_chans : (setHold h v s).chans = s.chans := rfl
@[simp] theorem setHold_chanGen : (setHold h v s).chanGen = s.chanGen := rfl
@[simp] theorem setHold_pages : (setHold h v s).pages = s.pages := rfl
@[simp] theorem setHold_holds : (setHold h v s).holds = setK s.holds h v {} := rfl
@[simp] theorem setHold_nextImage : (setHold h v s).nextImage = s.nextImage := rfl
@[simp] theorem setHold_ring : (setHold h v s).ring = s.ring := rfl
@[simp] theorem setHold_ditch : (setHold h v s).ditch = s.ditch := rfl
@[simp] theorem setHold_eng : (setHold h v s).eng = s.eng := rfl
@[simp] theorem setHold_tally : (setHold h v s).tally = s.tally := rfl
@[simp] theorem setHold_trust : (setHold h v s).trust = s.trust := rfl
@[simp] theorem setHold_rely : (setHold h v s).rely = s.rely := rfl
@[simp] theorem setHold_power : (setHold h v s).power = s.power := rfl
@[simp] theorem setHold_journal : (setHold h v s).journal = s.journal := rfl

end

/-! ### setBasin -/

section

variable (b : Nat) (v : Basin) (s : State)

@[simp] theorem setBasin_pending : (setBasin b v s).pending = s.pending := rfl
@[simp] theorem setBasin_freeCtr : (setBasin b v s).freeCtr = s.freeCtr := rfl
@[simp] theorem setBasin_counter : (setBasin b v s).counter = s.counter := rfl
@[simp] theorem setBasin_epoch : (setBasin b v s).epoch = s.epoch := rfl
@[simp] theorem setBasin_regs : (setBasin b v s).regs = s.regs := rfl
@[simp] theorem setBasin_latches : (setBasin b v s).latches = s.latches := rfl
@[simp] theorem setBasin_selects : (setBasin b v s).selects = s.selects := rfl
@[simp] theorem setBasin_unmappedLog : (setBasin b v s).unmappedLog = s.unmappedLog := rfl
@[simp] theorem setBasin_readout : (setBasin b v s).readout = s.readout := rfl
@[simp] theorem setBasin_fullDebug : (setBasin b v s).fullDebug = s.fullDebug := rfl
@[simp] theorem setBasin_hbm : (setBasin b v s).hbm = s.hbm := rfl
@[simp] theorem setBasin_spad : (setBasin b v s).spad = s.spad := rfl
@[simp] theorem setBasin_hbmPoison : (setBasin b v s).hbmPoison = s.hbmPoison := rfl
@[simp] theorem setBasin_rsvPoison : (setBasin b v s).rsvPoison = s.rsvPoison := rfl
@[simp] theorem setBasin_rsvDisabled : (setBasin b v s).rsvDisabled = s.rsvDisabled := rfl
@[simp] theorem setBasin_log : (setBasin b v s).log = s.log := rfl
@[simp] theorem setBasin_emitted : (setBasin b v s).emitted = s.emitted := rfl
@[simp] theorem setBasin_acres : (setBasin b v s).acres = s.acres := rfl
@[simp] theorem setBasin_amap : (setBasin b v s).amap = s.amap := rfl
@[simp] theorem setBasin_doubled : (setBasin b v s).doubled = s.doubled := rfl
@[simp] theorem setBasin_swaps : (setBasin b v s).swaps = s.swaps := rfl
@[simp] theorem setBasin_wakeQ : (setBasin b v s).wakeQ = s.wakeQ := rfl
@[simp] theorem setBasin_testQ : (setBasin b v s).testQ = s.testQ := rfl
@[simp] theorem setBasin_testing : (setBasin b v s).testing = s.testing := rfl
@[simp] theorem setBasin_issued : (setBasin b v s).issued = s.issued := rfl
@[simp] theorem setBasin_beyond : (setBasin b v s).beyond = s.beyond := rfl
@[simp] theorem setBasin_gates : (setBasin b v s).gates = s.gates := rfl
@[simp] theorem setBasin_broken : (setBasin b v s).broken = s.broken := rfl
@[simp] theorem setBasin_records : (setBasin b v s).records = s.records := rfl
@[simp] theorem setBasin_satur : (setBasin b v s).satur = s.satur := rfl
@[simp] theorem setBasin_images : (setBasin b v s).images = s.images := rfl
@[simp] theorem setBasin_serial : (setBasin b v s).serial = s.serial := rfl
@[simp] theorem setBasin_hostCmds : (setBasin b v s).hostCmds = s.hostCmds := rfl
@[simp] theorem setBasin_openCmds : (setBasin b v s).openCmds = s.openCmds := rfl
@[simp] theorem setBasin_qps : (setBasin b v s).qps = s.qps := rfl
@[simp] theorem setBasin_respBuf : (setBasin b v s).respBuf = s.respBuf := rfl
@[simp] theorem setBasin_ledq : (setBasin b v s).ledq = s.ledq := rfl
@[simp] theorem setBasin_hostLink : (setBasin b v s).hostLink = s.hostLink := rfl
@[simp] theorem setBasin_msixMask : (setBasin b v s).msixMask = s.msixMask := rfl
@[simp] theorem setBasin_msixPend : (setBasin b v s).msixPend = s.msixPend := rfl
@[simp] theorem setBasin_ide : (setBasin b v s).ide = s.ide := rfl
@[simp] theorem setBasin_chans : (setBasin b v s).chans = s.chans := rfl
@[simp] theorem setBasin_chanGen : (setBasin b v s).chanGen = s.chanGen := rfl
@[simp] theorem setBasin_pages : (setBasin b v s).pages = s.pages := rfl
@[simp] theorem setBasin_holds : (setBasin b v s).holds = s.holds := rfl
@[simp] theorem setBasin_nextImage : (setBasin b v s).nextImage = s.nextImage := rfl
@[simp] theorem setBasin_ring : (setBasin b v s).ring = s.ring := rfl
@[simp] theorem setBasin_ditch : (setBasin b v s).ditch = s.ditch := rfl
@[simp] theorem setBasin_eng : (setBasin b v s).eng = s.eng := rfl
@[simp] theorem setBasin_tally : (setBasin b v s).tally = s.tally := rfl
@[simp] theorem setBasin_trust : (setBasin b v s).trust = s.trust := rfl
@[simp] theorem setBasin_rely : (setBasin b v s).rely = s.rely := rfl
@[simp] theorem setBasin_power : (setBasin b v s).power = s.power := rfl
@[simp] theorem setBasin_journal : (setBasin b v s).journal = s.journal := rfl

end

/-! ### setPlot -/

section

variable (p : Nat) (v : Plot) (s : State)

@[simp] theorem setPlot_pending : (setPlot p v s).pending = s.pending := rfl
@[simp] theorem setPlot_freeCtr : (setPlot p v s).freeCtr = s.freeCtr := rfl
@[simp] theorem setPlot_counter : (setPlot p v s).counter = s.counter := rfl
@[simp] theorem setPlot_epoch : (setPlot p v s).epoch = s.epoch := rfl
@[simp] theorem setPlot_regs : (setPlot p v s).regs = s.regs := rfl
@[simp] theorem setPlot_latches : (setPlot p v s).latches = s.latches := rfl
@[simp] theorem setPlot_selects : (setPlot p v s).selects = s.selects := rfl
@[simp] theorem setPlot_unmappedLog : (setPlot p v s).unmappedLog = s.unmappedLog := rfl
@[simp] theorem setPlot_readout : (setPlot p v s).readout = s.readout := rfl
@[simp] theorem setPlot_fullDebug : (setPlot p v s).fullDebug = s.fullDebug := rfl
@[simp] theorem setPlot_hbm : (setPlot p v s).hbm = s.hbm := rfl
@[simp] theorem setPlot_spad : (setPlot p v s).spad = s.spad := rfl
@[simp] theorem setPlot_hbmPoison : (setPlot p v s).hbmPoison = s.hbmPoison := rfl
@[simp] theorem setPlot_rsvPoison : (setPlot p v s).rsvPoison = s.rsvPoison := rfl
@[simp] theorem setPlot_rsvDisabled : (setPlot p v s).rsvDisabled = s.rsvDisabled := rfl
@[simp] theorem setPlot_log : (setPlot p v s).log = s.log := rfl
@[simp] theorem setPlot_emitted : (setPlot p v s).emitted = s.emitted := rfl
@[simp] theorem setPlot_acres : (setPlot p v s).acres = s.acres := rfl
@[simp] theorem setPlot_amap : (setPlot p v s).amap = s.amap := rfl
@[simp] theorem setPlot_doubled : (setPlot p v s).doubled = s.doubled := rfl
@[simp] theorem setPlot_swaps : (setPlot p v s).swaps = s.swaps := rfl
@[simp] theorem setPlot_wakeQ : (setPlot p v s).wakeQ = s.wakeQ := rfl
@[simp] theorem setPlot_testQ : (setPlot p v s).testQ = s.testQ := rfl
@[simp] theorem setPlot_testing : (setPlot p v s).testing = s.testing := rfl
@[simp] theorem setPlot_issued : (setPlot p v s).issued = s.issued := rfl
@[simp] theorem setPlot_beyond : (setPlot p v s).beyond = s.beyond := rfl
@[simp] theorem setPlot_gates : (setPlot p v s).gates = s.gates := rfl
@[simp] theorem setPlot_broken : (setPlot p v s).broken = s.broken := rfl
@[simp] theorem setPlot_records : (setPlot p v s).records = s.records := rfl
@[simp] theorem setPlot_satur : (setPlot p v s).satur = s.satur := rfl
@[simp] theorem setPlot_images : (setPlot p v s).images = s.images := rfl
@[simp] theorem setPlot_serial : (setPlot p v s).serial = s.serial := rfl
@[simp] theorem setPlot_hostCmds : (setPlot p v s).hostCmds = s.hostCmds := rfl
@[simp] theorem setPlot_openCmds : (setPlot p v s).openCmds = s.openCmds := rfl
@[simp] theorem setPlot_qps : (setPlot p v s).qps = s.qps := rfl
@[simp] theorem setPlot_respBuf : (setPlot p v s).respBuf = s.respBuf := rfl
@[simp] theorem setPlot_ledq : (setPlot p v s).ledq = s.ledq := rfl
@[simp] theorem setPlot_hostLink : (setPlot p v s).hostLink = s.hostLink := rfl
@[simp] theorem setPlot_msixMask : (setPlot p v s).msixMask = s.msixMask := rfl
@[simp] theorem setPlot_msixPend : (setPlot p v s).msixPend = s.msixPend := rfl
@[simp] theorem setPlot_ide : (setPlot p v s).ide = s.ide := rfl
@[simp] theorem setPlot_chans : (setPlot p v s).chans = s.chans := rfl
@[simp] theorem setPlot_chanGen : (setPlot p v s).chanGen = s.chanGen := rfl
@[simp] theorem setPlot_pages : (setPlot p v s).pages = s.pages := rfl
@[simp] theorem setPlot_holds : (setPlot p v s).holds = s.holds := rfl
@[simp] theorem setPlot_nextImage : (setPlot p v s).nextImage = s.nextImage := rfl
@[simp] theorem setPlot_ring : (setPlot p v s).ring = s.ring := rfl
@[simp] theorem setPlot_ditch : (setPlot p v s).ditch = s.ditch := rfl
@[simp] theorem setPlot_eng : (setPlot p v s).eng = s.eng := rfl
@[simp] theorem setPlot_tally : (setPlot p v s).tally = s.tally := rfl
@[simp] theorem setPlot_trust : (setPlot p v s).trust = s.trust := rfl
@[simp] theorem setPlot_rely : (setPlot p v s).rely = s.rely := rfl
@[simp] theorem setPlot_power : (setPlot p v s).power = s.power := rfl
@[simp] theorem setPlot_journal : (setPlot p v s).journal = s.journal := rfl

end

/-! ### setRuns -/

section

variable (d : Nat) (v : List BasinRun) (s : State)

@[simp] theorem setRuns_pending : (setRuns d v s).pending = s.pending := rfl
@[simp] theorem setRuns_freeCtr : (setRuns d v s).freeCtr = s.freeCtr := rfl
@[simp] theorem setRuns_counter : (setRuns d v s).counter = s.counter := rfl
@[simp] theorem setRuns_epoch : (setRuns d v s).epoch = s.epoch := rfl
@[simp] theorem setRuns_regs : (setRuns d v s).regs = s.regs := rfl
@[simp] theorem setRuns_latches : (setRuns d v s).latches = s.latches := rfl
@[simp] theorem setRuns_selects : (setRuns d v s).selects = s.selects := rfl
@[simp] theorem setRuns_unmappedLog : (setRuns d v s).unmappedLog = s.unmappedLog := rfl
@[simp] theorem setRuns_readout : (setRuns d v s).readout = s.readout := rfl
@[simp] theorem setRuns_fullDebug : (setRuns d v s).fullDebug = s.fullDebug := rfl
@[simp] theorem setRuns_hbm : (setRuns d v s).hbm = s.hbm := rfl
@[simp] theorem setRuns_spad : (setRuns d v s).spad = s.spad := rfl
@[simp] theorem setRuns_hbmPoison : (setRuns d v s).hbmPoison = s.hbmPoison := rfl
@[simp] theorem setRuns_rsvPoison : (setRuns d v s).rsvPoison = s.rsvPoison := rfl
@[simp] theorem setRuns_rsvDisabled : (setRuns d v s).rsvDisabled = s.rsvDisabled := rfl
@[simp] theorem setRuns_log : (setRuns d v s).log = s.log := rfl
@[simp] theorem setRuns_emitted : (setRuns d v s).emitted = s.emitted := rfl
@[simp] theorem setRuns_acres : (setRuns d v s).acres = s.acres := rfl
@[simp] theorem setRuns_amap : (setRuns d v s).amap = s.amap := rfl
@[simp] theorem setRuns_doubled : (setRuns d v s).doubled = s.doubled := rfl
@[simp] theorem setRuns_swaps : (setRuns d v s).swaps = s.swaps := rfl
@[simp] theorem setRuns_wakeQ : (setRuns d v s).wakeQ = s.wakeQ := rfl
@[simp] theorem setRuns_testQ : (setRuns d v s).testQ = s.testQ := rfl
@[simp] theorem setRuns_testing : (setRuns d v s).testing = s.testing := rfl
@[simp] theorem setRuns_issued : (setRuns d v s).issued = s.issued := rfl
@[simp] theorem setRuns_beyond : (setRuns d v s).beyond = s.beyond := rfl
@[simp] theorem setRuns_gates : (setRuns d v s).gates = s.gates := rfl
@[simp] theorem setRuns_broken : (setRuns d v s).broken = s.broken := rfl
@[simp] theorem setRuns_records : (setRuns d v s).records = s.records := rfl
@[simp] theorem setRuns_satur : (setRuns d v s).satur = s.satur := rfl
@[simp] theorem setRuns_images : (setRuns d v s).images = s.images := rfl
@[simp] theorem setRuns_serial : (setRuns d v s).serial = s.serial := rfl
@[simp] theorem setRuns_hostCmds : (setRuns d v s).hostCmds = s.hostCmds := rfl
@[simp] theorem setRuns_openCmds : (setRuns d v s).openCmds = s.openCmds := rfl
@[simp] theorem setRuns_qps : (setRuns d v s).qps = s.qps := rfl
@[simp] theorem setRuns_respBuf : (setRuns d v s).respBuf = s.respBuf := rfl
@[simp] theorem setRuns_ledq : (setRuns d v s).ledq = s.ledq := rfl
@[simp] theorem setRuns_hostLink : (setRuns d v s).hostLink = s.hostLink := rfl
@[simp] theorem setRuns_msixMask : (setRuns d v s).msixMask = s.msixMask := rfl
@[simp] theorem setRuns_msixPend : (setRuns d v s).msixPend = s.msixPend := rfl
@[simp] theorem setRuns_ide : (setRuns d v s).ide = s.ide := rfl
@[simp] theorem setRuns_chans : (setRuns d v s).chans = s.chans := rfl
@[simp] theorem setRuns_chanGen : (setRuns d v s).chanGen = s.chanGen := rfl
@[simp] theorem setRuns_pages : (setRuns d v s).pages = s.pages := rfl
@[simp] theorem setRuns_holds : (setRuns d v s).holds = s.holds := rfl
@[simp] theorem setRuns_nextImage : (setRuns d v s).nextImage = s.nextImage := rfl
@[simp] theorem setRuns_ring : (setRuns d v s).ring = s.ring := rfl
@[simp] theorem setRuns_ditch : (setRuns d v s).ditch = s.ditch := rfl
@[simp] theorem setRuns_eng : (setRuns d v s).eng = s.eng := rfl
@[simp] theorem setRuns_tally : (setRuns d v s).tally = s.tally := rfl
@[simp] theorem setRuns_trust : (setRuns d v s).trust = s.trust := rfl
@[simp] theorem setRuns_rely : (setRuns d v s).rely = s.rely := rfl
@[simp] theorem setRuns_power : (setRuns d v s).power = s.power := rfl
@[simp] theorem setRuns_journal : (setRuns d v s).journal = s.journal := rfl

end

/-! ### setLSlot -/

section

variable (k : Nat) (v : LSlot) (s : State)

@[simp] theorem setLSlot_pending : (setLSlot k v s).pending = s.pending := rfl
@[simp] theorem setLSlot_freeCtr : (setLSlot k v s).freeCtr = s.freeCtr := rfl
@[simp] theorem setLSlot_counter : (setLSlot k v s).counter = s.counter := rfl
@[simp] theorem setLSlot_epoch : (setLSlot k v s).epoch = s.epoch := rfl
@[simp] theorem setLSlot_regs : (setLSlot k v s).regs = s.regs := rfl
@[simp] theorem setLSlot_latches : (setLSlot k v s).latches = s.latches := rfl
@[simp] theorem setLSlot_selects : (setLSlot k v s).selects = s.selects := rfl
@[simp] theorem setLSlot_unmappedLog : (setLSlot k v s).unmappedLog = s.unmappedLog := rfl
@[simp] theorem setLSlot_readout : (setLSlot k v s).readout = s.readout := rfl
@[simp] theorem setLSlot_fullDebug : (setLSlot k v s).fullDebug = s.fullDebug := rfl
@[simp] theorem setLSlot_hbm : (setLSlot k v s).hbm = s.hbm := rfl
@[simp] theorem setLSlot_spad : (setLSlot k v s).spad = s.spad := rfl
@[simp] theorem setLSlot_hbmPoison : (setLSlot k v s).hbmPoison = s.hbmPoison := rfl
@[simp] theorem setLSlot_rsvPoison : (setLSlot k v s).rsvPoison = s.rsvPoison := rfl
@[simp] theorem setLSlot_rsvDisabled : (setLSlot k v s).rsvDisabled = s.rsvDisabled := rfl
@[simp] theorem setLSlot_log : (setLSlot k v s).log = s.log := rfl
@[simp] theorem setLSlot_emitted : (setLSlot k v s).emitted = s.emitted := rfl
@[simp] theorem setLSlot_acres : (setLSlot k v s).acres = s.acres := rfl
@[simp] theorem setLSlot_amap : (setLSlot k v s).amap = s.amap := rfl
@[simp] theorem setLSlot_doubled : (setLSlot k v s).doubled = s.doubled := rfl
@[simp] theorem setLSlot_swaps : (setLSlot k v s).swaps = s.swaps := rfl
@[simp] theorem setLSlot_wakeQ : (setLSlot k v s).wakeQ = s.wakeQ := rfl
@[simp] theorem setLSlot_testQ : (setLSlot k v s).testQ = s.testQ := rfl
@[simp] theorem setLSlot_testing : (setLSlot k v s).testing = s.testing := rfl
@[simp] theorem setLSlot_issued : (setLSlot k v s).issued = s.issued := rfl
@[simp] theorem setLSlot_beyond : (setLSlot k v s).beyond = s.beyond := rfl
@[simp] theorem setLSlot_gates : (setLSlot k v s).gates = s.gates := rfl
@[simp] theorem setLSlot_broken : (setLSlot k v s).broken = s.broken := rfl
@[simp] theorem setLSlot_records : (setLSlot k v s).records = s.records := rfl
@[simp] theorem setLSlot_satur : (setLSlot k v s).satur = s.satur := rfl
@[simp] theorem setLSlot_images : (setLSlot k v s).images = s.images := rfl
@[simp] theorem setLSlot_serial : (setLSlot k v s).serial = s.serial := rfl
@[simp] theorem setLSlot_hostCmds : (setLSlot k v s).hostCmds = s.hostCmds := rfl
@[simp] theorem setLSlot_openCmds : (setLSlot k v s).openCmds = s.openCmds := rfl
@[simp] theorem setLSlot_qps : (setLSlot k v s).qps = s.qps := rfl
@[simp] theorem setLSlot_respBuf : (setLSlot k v s).respBuf = s.respBuf := rfl
@[simp] theorem setLSlot_ledq : (setLSlot k v s).ledq = s.ledq := rfl
@[simp] theorem setLSlot_hostLink : (setLSlot k v s).hostLink = s.hostLink := rfl
@[simp] theorem setLSlot_msixMask : (setLSlot k v s).msixMask = s.msixMask := rfl
@[simp] theorem setLSlot_msixPend : (setLSlot k v s).msixPend = s.msixPend := rfl
@[simp] theorem setLSlot_ide : (setLSlot k v s).ide = s.ide := rfl
@[simp] theorem setLSlot_chans : (setLSlot k v s).chans = s.chans := rfl
@[simp] theorem setLSlot_chanGen : (setLSlot k v s).chanGen = s.chanGen := rfl
@[simp] theorem setLSlot_pages : (setLSlot k v s).pages = s.pages := rfl
@[simp] theorem setLSlot_holds : (setLSlot k v s).holds = s.holds := rfl
@[simp] theorem setLSlot_nextImage : (setLSlot k v s).nextImage = s.nextImage := rfl
@[simp] theorem setLSlot_ring : (setLSlot k v s).ring = s.ring := rfl
@[simp] theorem setLSlot_ditch : (setLSlot k v s).ditch = s.ditch := rfl
@[simp] theorem setLSlot_eng : (setLSlot k v s).eng = s.eng := rfl
@[simp] theorem setLSlot_tally : (setLSlot k v s).tally = s.tally := rfl
@[simp] theorem setLSlot_trust : (setLSlot k v s).trust = s.trust := rfl
@[simp] theorem setLSlot_rely : (setLSlot k v s).rely = s.rely := rfl
@[simp] theorem setLSlot_power : (setLSlot k v s).power = s.power := rfl
@[simp] theorem setLSlot_journal : (setLSlot k v s).journal = s.journal := rfl

end

/-! ### putStep -/

section

variable (d : Nat) (v : CorrStep) (s : State)

@[simp] theorem putStep_pending : (putStep d v s).pending = s.pending := rfl
@[simp] theorem putStep_freeCtr : (putStep d v s).freeCtr = s.freeCtr := rfl
@[simp] theorem putStep_counter : (putStep d v s).counter = s.counter := rfl
@[simp] theorem putStep_epoch : (putStep d v s).epoch = s.epoch := rfl
@[simp] theorem putStep_regs : (putStep d v s).regs = s.regs := rfl
@[simp] theorem putStep_latches : (putStep d v s).latches = s.latches := rfl
@[simp] theorem putStep_selects : (putStep d v s).selects = s.selects := rfl
@[simp] theorem putStep_unmappedLog : (putStep d v s).unmappedLog = s.unmappedLog := rfl
@[simp] theorem putStep_readout : (putStep d v s).readout = s.readout := rfl
@[simp] theorem putStep_fullDebug : (putStep d v s).fullDebug = s.fullDebug := rfl
@[simp] theorem putStep_hbm : (putStep d v s).hbm = s.hbm := rfl
@[simp] theorem putStep_spad : (putStep d v s).spad = s.spad := rfl
@[simp] theorem putStep_hbmPoison : (putStep d v s).hbmPoison = s.hbmPoison := rfl
@[simp] theorem putStep_rsvPoison : (putStep d v s).rsvPoison = s.rsvPoison := rfl
@[simp] theorem putStep_rsvDisabled : (putStep d v s).rsvDisabled = s.rsvDisabled := rfl
@[simp] theorem putStep_log : (putStep d v s).log = s.log := rfl
@[simp] theorem putStep_emitted : (putStep d v s).emitted = s.emitted := rfl
@[simp] theorem putStep_acres : (putStep d v s).acres = s.acres := rfl
@[simp] theorem putStep_amap : (putStep d v s).amap = s.amap := rfl
@[simp] theorem putStep_doubled : (putStep d v s).doubled = s.doubled := rfl
@[simp] theorem putStep_swaps : (putStep d v s).swaps = s.swaps := rfl
@[simp] theorem putStep_wakeQ : (putStep d v s).wakeQ = s.wakeQ := rfl
@[simp] theorem putStep_testQ : (putStep d v s).testQ = s.testQ := rfl
@[simp] theorem putStep_testing : (putStep d v s).testing = s.testing := rfl
@[simp] theorem putStep_issued : (putStep d v s).issued = s.issued := rfl
@[simp] theorem putStep_beyond : (putStep d v s).beyond = s.beyond := rfl
@[simp] theorem putStep_gates : (putStep d v s).gates = s.gates := rfl
@[simp] theorem putStep_broken : (putStep d v s).broken = s.broken := rfl
@[simp] theorem putStep_records : (putStep d v s).records = s.records := rfl
@[simp] theorem putStep_satur : (putStep d v s).satur = s.satur := rfl
@[simp] theorem putStep_images : (putStep d v s).images = s.images := rfl
@[simp] theorem putStep_serial : (putStep d v s).serial = s.serial := rfl
@[simp] theorem putStep_hostCmds : (putStep d v s).hostCmds = s.hostCmds := rfl
@[simp] theorem putStep_openCmds : (putStep d v s).openCmds = s.openCmds := rfl
@[simp] theorem putStep_qps : (putStep d v s).qps = s.qps := rfl
@[simp] theorem putStep_respBuf : (putStep d v s).respBuf = s.respBuf := rfl
@[simp] theorem putStep_ledq : (putStep d v s).ledq = s.ledq := rfl
@[simp] theorem putStep_hostLink : (putStep d v s).hostLink = s.hostLink := rfl
@[simp] theorem putStep_msixMask : (putStep d v s).msixMask = s.msixMask := rfl
@[simp] theorem putStep_msixPend : (putStep d v s).msixPend = s.msixPend := rfl
@[simp] theorem putStep_ide : (putStep d v s).ide = s.ide := rfl
@[simp] theorem putStep_chans : (putStep d v s).chans = s.chans := rfl
@[simp] theorem putStep_chanGen : (putStep d v s).chanGen = s.chanGen := rfl
@[simp] theorem putStep_pages : (putStep d v s).pages = s.pages := rfl
@[simp] theorem putStep_holds : (putStep d v s).holds = s.holds := rfl
@[simp] theorem putStep_nextImage : (putStep d v s).nextImage = s.nextImage := rfl
@[simp] theorem putStep_ring : (putStep d v s).ring = s.ring := rfl
@[simp] theorem putStep_ditch : (putStep d v s).ditch = s.ditch := rfl
@[simp] theorem putStep_eng : (putStep d v s).eng = s.eng := rfl
@[simp] theorem putStep_tally : (putStep d v s).tally = s.tally := rfl
@[simp] theorem putStep_trust : (putStep d v s).trust = s.trust := rfl
@[simp] theorem putStep_rely : (putStep d v s).rely = s.rely := rfl
@[simp] theorem putStep_power : (putStep d v s).power = s.power := rfl
@[simp] theorem putStep_journal : (putStep d v s).journal = s.journal := rfl

end

/-! ### sendRecord -/

section

variable (r : CourseRec) (s : State)

@[simp] theorem sendRecord_pending : (sendRecord r s).pending = s.pending := rfl
@[simp] theorem sendRecord_freeCtr : (sendRecord r s).freeCtr = s.freeCtr := rfl
@[simp] theorem sendRecord_counter : (sendRecord r s).counter = s.counter := rfl
@[simp] theorem sendRecord_epoch : (sendRecord r s).epoch = s.epoch := rfl
@[simp] theorem sendRecord_regs : (sendRecord r s).regs = s.regs := rfl
@[simp] theorem sendRecord_latches : (sendRecord r s).latches = s.latches := rfl
@[simp] theorem sendRecord_selects : (sendRecord r s).selects = s.selects := rfl
@[simp] theorem sendRecord_unmappedLog : (sendRecord r s).unmappedLog = s.unmappedLog := rfl
@[simp] theorem sendRecord_readout : (sendRecord r s).readout = s.readout := rfl
@[simp] theorem sendRecord_fullDebug : (sendRecord r s).fullDebug = s.fullDebug := rfl
@[simp] theorem sendRecord_hbm : (sendRecord r s).hbm = s.hbm := rfl
@[simp] theorem sendRecord_spad : (sendRecord r s).spad = s.spad := rfl
@[simp] theorem sendRecord_hbmPoison : (sendRecord r s).hbmPoison = s.hbmPoison := rfl
@[simp] theorem sendRecord_rsvPoison : (sendRecord r s).rsvPoison = s.rsvPoison := rfl
@[simp] theorem sendRecord_rsvDisabled : (sendRecord r s).rsvDisabled = s.rsvDisabled := rfl
@[simp] theorem sendRecord_log : (sendRecord r s).log = s.log := rfl
@[simp] theorem sendRecord_emitted : (sendRecord r s).emitted = s.emitted := rfl
@[simp] theorem sendRecord_acres : (sendRecord r s).acres = s.acres := rfl
@[simp] theorem sendRecord_amap : (sendRecord r s).amap = s.amap := rfl
@[simp] theorem sendRecord_doubled : (sendRecord r s).doubled = s.doubled := rfl
@[simp] theorem sendRecord_swaps : (sendRecord r s).swaps = s.swaps := rfl
@[simp] theorem sendRecord_wakeQ : (sendRecord r s).wakeQ = s.wakeQ := rfl
@[simp] theorem sendRecord_testQ : (sendRecord r s).testQ = s.testQ := rfl
@[simp] theorem sendRecord_testing : (sendRecord r s).testing = s.testing := rfl
@[simp] theorem sendRecord_issued : (sendRecord r s).issued = s.issued := rfl
@[simp] theorem sendRecord_beyond : (sendRecord r s).beyond = s.beyond := rfl
@[simp] theorem sendRecord_gates : (sendRecord r s).gates = s.gates := rfl
@[simp] theorem sendRecord_broken : (sendRecord r s).broken = s.broken := rfl
@[simp] theorem sendRecord_records : (sendRecord r s).records = s.records ++ [r] := rfl
@[simp] theorem sendRecord_satur : (sendRecord r s).satur = s.satur := rfl
@[simp] theorem sendRecord_images : (sendRecord r s).images = s.images := rfl
@[simp] theorem sendRecord_cist : (sendRecord r s).cist = s.cist := rfl
@[simp] theorem sendRecord_serial : (sendRecord r s).serial = s.serial := rfl
@[simp] theorem sendRecord_hostCmds : (sendRecord r s).hostCmds = s.hostCmds := rfl
@[simp] theorem sendRecord_openCmds : (sendRecord r s).openCmds = s.openCmds := rfl
@[simp] theorem sendRecord_qps : (sendRecord r s).qps = s.qps := rfl
@[simp] theorem sendRecord_respBuf : (sendRecord r s).respBuf = s.respBuf := rfl
@[simp] theorem sendRecord_ledq : (sendRecord r s).ledq = s.ledq := rfl
@[simp] theorem sendRecord_hostLink : (sendRecord r s).hostLink = s.hostLink := rfl
@[simp] theorem sendRecord_msixMask : (sendRecord r s).msixMask = s.msixMask := rfl
@[simp] theorem sendRecord_msixPend : (sendRecord r s).msixPend = s.msixPend := rfl
@[simp] theorem sendRecord_ide : (sendRecord r s).ide = s.ide := rfl
@[simp] theorem sendRecord_chans : (sendRecord r s).chans = s.chans := rfl
@[simp] theorem sendRecord_chanGen : (sendRecord r s).chanGen = s.chanGen := rfl
@[simp] theorem sendRecord_pages : (sendRecord r s).pages = s.pages := rfl
@[simp] theorem sendRecord_holds : (sendRecord r s).holds = s.holds := rfl
@[simp] theorem sendRecord_nextImage : (sendRecord r s).nextImage = s.nextImage := rfl
@[simp] theorem sendRecord_ring : (sendRecord r s).ring = s.ring := rfl
@[simp] theorem sendRecord_ditch : (sendRecord r s).ditch = s.ditch := rfl
@[simp] theorem sendRecord_eng : (sendRecord r s).eng = s.eng := rfl
@[simp] theorem sendRecord_tally : (sendRecord r s).tally = s.tally := rfl
@[simp] theorem sendRecord_trust : (sendRecord r s).trust = s.trust := rfl
@[simp] theorem sendRecord_rely : (sendRecord r s).rely = s.rely := rfl
@[simp] theorem sendRecord_power : (sendRecord r s).power = s.power := rfl
@[simp] theorem sendRecord_journal : (sendRecord r s).journal = s.journal := rfl

end

/-! ### bumpSerial -/

section

variable (s : State)

@[simp] theorem bumpSerial_pending : (bumpSerial s).pending = s.pending := rfl
@[simp] theorem bumpSerial_freeCtr : (bumpSerial s).freeCtr = s.freeCtr := rfl
@[simp] theorem bumpSerial_counter : (bumpSerial s).counter = s.counter := rfl
@[simp] theorem bumpSerial_epoch : (bumpSerial s).epoch = s.epoch := rfl
@[simp] theorem bumpSerial_regs : (bumpSerial s).regs = s.regs := rfl
@[simp] theorem bumpSerial_latches : (bumpSerial s).latches = s.latches := rfl
@[simp] theorem bumpSerial_selects : (bumpSerial s).selects = s.selects := rfl
@[simp] theorem bumpSerial_unmappedLog : (bumpSerial s).unmappedLog = s.unmappedLog := rfl
@[simp] theorem bumpSerial_readout : (bumpSerial s).readout = s.readout := rfl
@[simp] theorem bumpSerial_fullDebug : (bumpSerial s).fullDebug = s.fullDebug := rfl
@[simp] theorem bumpSerial_hbm : (bumpSerial s).hbm = s.hbm := rfl
@[simp] theorem bumpSerial_spad : (bumpSerial s).spad = s.spad := rfl
@[simp] theorem bumpSerial_hbmPoison : (bumpSerial s).hbmPoison = s.hbmPoison := rfl
@[simp] theorem bumpSerial_rsvPoison : (bumpSerial s).rsvPoison = s.rsvPoison := rfl
@[simp] theorem bumpSerial_rsvDisabled : (bumpSerial s).rsvDisabled = s.rsvDisabled := rfl
@[simp] theorem bumpSerial_log : (bumpSerial s).log = s.log := rfl
@[simp] theorem bumpSerial_emitted : (bumpSerial s).emitted = s.emitted := rfl
@[simp] theorem bumpSerial_acres : (bumpSerial s).acres = s.acres := rfl
@[simp] theorem bumpSerial_amap : (bumpSerial s).amap = s.amap := rfl
@[simp] theorem bumpSerial_doubled : (bumpSerial s).doubled = s.doubled := rfl
@[simp] theorem bumpSerial_swaps : (bumpSerial s).swaps = s.swaps := rfl
@[simp] theorem bumpSerial_wakeQ : (bumpSerial s).wakeQ = s.wakeQ := rfl
@[simp] theorem bumpSerial_testQ : (bumpSerial s).testQ = s.testQ := rfl
@[simp] theorem bumpSerial_testing : (bumpSerial s).testing = s.testing := rfl
@[simp] theorem bumpSerial_issued : (bumpSerial s).issued = s.issued := rfl
@[simp] theorem bumpSerial_beyond : (bumpSerial s).beyond = s.beyond := rfl
@[simp] theorem bumpSerial_gates : (bumpSerial s).gates = s.gates := rfl
@[simp] theorem bumpSerial_broken : (bumpSerial s).broken = s.broken := rfl
@[simp] theorem bumpSerial_records : (bumpSerial s).records = s.records := rfl
@[simp] theorem bumpSerial_satur : (bumpSerial s).satur = s.satur := rfl
@[simp] theorem bumpSerial_images : (bumpSerial s).images = s.images := rfl
@[simp] theorem bumpSerial_cist : (bumpSerial s).cist = s.cist := rfl
@[simp] theorem bumpSerial_serial : (bumpSerial s).serial = s.serial + 1 := rfl
@[simp] theorem bumpSerial_hostCmds : (bumpSerial s).hostCmds = s.hostCmds := rfl
@[simp] theorem bumpSerial_openCmds : (bumpSerial s).openCmds = s.openCmds := rfl
@[simp] theorem bumpSerial_qps : (bumpSerial s).qps = s.qps := rfl
@[simp] theorem bumpSerial_respBuf : (bumpSerial s).respBuf = s.respBuf := rfl
@[simp] theorem bumpSerial_ledq : (bumpSerial s).ledq = s.ledq := rfl
@[simp] theorem bumpSerial_hostLink : (bumpSerial s).hostLink = s.hostLink := rfl
@[simp] theorem bumpSerial_msixMask : (bumpSerial s).msixMask = s.msixMask := rfl
@[simp] theorem bumpSerial_msixPend : (bumpSerial s).msixPend = s.msixPend := rfl
@[simp] theorem bumpSerial_ide : (bumpSerial s).ide = s.ide := rfl
@[simp] theorem bumpSerial_chans : (bumpSerial s).chans = s.chans := rfl
@[simp] theorem bumpSerial_chanGen : (bumpSerial s).chanGen = s.chanGen := rfl
@[simp] theorem bumpSerial_pages : (bumpSerial s).pages = s.pages := rfl
@[simp] theorem bumpSerial_holds : (bumpSerial s).holds = s.holds := rfl
@[simp] theorem bumpSerial_nextImage : (bumpSerial s).nextImage = s.nextImage := rfl
@[simp] theorem bumpSerial_ring : (bumpSerial s).ring = s.ring := rfl
@[simp] theorem bumpSerial_ditch : (bumpSerial s).ditch = s.ditch := rfl
@[simp] theorem bumpSerial_eng : (bumpSerial s).eng = s.eng := rfl
@[simp] theorem bumpSerial_tally : (bumpSerial s).tally = s.tally := rfl
@[simp] theorem bumpSerial_trust : (bumpSerial s).trust = s.trust := rfl
@[simp] theorem bumpSerial_rely : (bumpSerial s).rely = s.rely := rfl
@[simp] theorem bumpSerial_power : (bumpSerial s).power = s.power := rfl
@[simp] theorem bumpSerial_journal : (bumpSerial s).journal = s.journal := rfl

end

/-! ### setDitch -/

section

variable (f : Ditch → Ditch) (s : State)

@[simp] theorem setDitch_pending : (setDitch f s).pending = s.pending := rfl
@[simp] theorem setDitch_freeCtr : (setDitch f s).freeCtr = s.freeCtr := rfl
@[simp] theorem setDitch_counter : (setDitch f s).counter = s.counter := rfl
@[simp] theorem setDitch_epoch : (setDitch f s).epoch = s.epoch := rfl
@[simp] theorem setDitch_regs : (setDitch f s).regs = s.regs := rfl
@[simp] theorem setDitch_latches : (setDitch f s).latches = s.latches := rfl
@[simp] theorem setDitch_selects : (setDitch f s).selects = s.selects := rfl
@[simp] theorem setDitch_unmappedLog : (setDitch f s).unmappedLog = s.unmappedLog := rfl
@[simp] theorem setDitch_readout : (setDitch f s).readout = s.readout := rfl
@[simp] theorem setDitch_fullDebug : (setDitch f s).fullDebug = s.fullDebug := rfl
@[simp] theorem setDitch_hbm : (setDitch f s).hbm = s.hbm := rfl
@[simp] theorem setDitch_spad : (setDitch f s).spad = s.spad := rfl
@[simp] theorem setDitch_hbmPoison : (setDitch f s).hbmPoison = s.hbmPoison := rfl
@[simp] theorem setDitch_rsvPoison : (setDitch f s).rsvPoison = s.rsvPoison := rfl
@[simp] theorem setDitch_rsvDisabled : (setDitch f s).rsvDisabled = s.rsvDisabled := rfl
@[simp] theorem setDitch_log : (setDitch f s).log = s.log := rfl
@[simp] theorem setDitch_emitted : (setDitch f s).emitted = s.emitted := rfl
@[simp] theorem setDitch_acres : (setDitch f s).acres = s.acres := rfl
@[simp] theorem setDitch_amap : (setDitch f s).amap = s.amap := rfl
@[simp] theorem setDitch_doubled : (setDitch f s).doubled = s.doubled := rfl
@[simp] theorem setDitch_swaps : (setDitch f s).swaps = s.swaps := rfl
@[simp] theorem setDitch_wakeQ : (setDitch f s).wakeQ = s.wakeQ := rfl
@[simp] theorem setDitch_testQ : (setDitch f s).testQ = s.testQ := rfl
@[simp] theorem setDitch_testing : (setDitch f s).testing = s.testing := rfl
@[simp] theorem setDitch_issued : (setDitch f s).issued = s.issued := rfl
@[simp] theorem setDitch_beyond : (setDitch f s).beyond = s.beyond := rfl
@[simp] theorem setDitch_gates : (setDitch f s).gates = s.gates := rfl
@[simp] theorem setDitch_broken : (setDitch f s).broken = s.broken := rfl
@[simp] theorem setDitch_records : (setDitch f s).records = s.records := rfl
@[simp] theorem setDitch_satur : (setDitch f s).satur = s.satur := rfl
@[simp] theorem setDitch_images : (setDitch f s).images = s.images := rfl
@[simp] theorem setDitch_cist : (setDitch f s).cist = s.cist := rfl
@[simp] theorem setDitch_serial : (setDitch f s).serial = s.serial := rfl
@[simp] theorem setDitch_hostCmds : (setDitch f s).hostCmds = s.hostCmds := rfl
@[simp] theorem setDitch_openCmds : (setDitch f s).openCmds = s.openCmds := rfl
@[simp] theorem setDitch_qps : (setDitch f s).qps = s.qps := rfl
@[simp] theorem setDitch_respBuf : (setDitch f s).respBuf = s.respBuf := rfl
@[simp] theorem setDitch_ledq : (setDitch f s).ledq = s.ledq := rfl
@[simp] theorem setDitch_hostLink : (setDitch f s).hostLink = s.hostLink := rfl
@[simp] theorem setDitch_msixMask : (setDitch f s).msixMask = s.msixMask := rfl
@[simp] theorem setDitch_msixPend : (setDitch f s).msixPend = s.msixPend := rfl
@[simp] theorem setDitch_ide : (setDitch f s).ide = s.ide := rfl
@[simp] theorem setDitch_chans : (setDitch f s).chans = s.chans := rfl
@[simp] theorem setDitch_chanGen : (setDitch f s).chanGen = s.chanGen := rfl
@[simp] theorem setDitch_pages : (setDitch f s).pages = s.pages := rfl
@[simp] theorem setDitch_holds : (setDitch f s).holds = s.holds := rfl
@[simp] theorem setDitch_nextImage : (setDitch f s).nextImage = s.nextImage := rfl
@[simp] theorem setDitch_ring : (setDitch f s).ring = s.ring := rfl
@[simp] theorem setDitch_ditch : (setDitch f s).ditch = f s.ditch := rfl
@[simp] theorem setDitch_eng : (setDitch f s).eng = s.eng := rfl
@[simp] theorem setDitch_tally : (setDitch f s).tally = s.tally := rfl
@[simp] theorem setDitch_trust : (setDitch f s).trust = s.trust := rfl
@[simp] theorem setDitch_rely : (setDitch f s).rely = s.rely := rfl
@[simp] theorem setDitch_power : (setDitch f s).power = s.power := rfl
@[simp] theorem setDitch_journal : (setDitch f s).journal = s.journal := rfl

end

/-! ### setTrust -/

section

variable (f : Trust → Trust) (s : State)

@[simp] theorem setTrust_pending : (setTrust f s).pending = s.pending := rfl
@[simp] theorem setTrust_freeCtr : (setTrust f s).freeCtr = s.freeCtr := rfl
@[simp] theorem setTrust_counter : (setTrust f s).counter = s.counter := rfl
@[simp] theorem setTrust_epoch : (setTrust f s).epoch = s.epoch := rfl
@[simp] theorem setTrust_regs : (setTrust f s).regs = s.regs := rfl
@[simp] theorem setTrust_latches : (setTrust f s).latches = s.latches := rfl
@[simp] theorem setTrust_selects : (setTrust f s).selects = s.selects := rfl
@[simp] theorem setTrust_unmappedLog : (setTrust f s).unmappedLog = s.unmappedLog := rfl
@[simp] theorem setTrust_readout : (setTrust f s).readout = s.readout := rfl
@[simp] theorem setTrust_fullDebug : (setTrust f s).fullDebug = s.fullDebug := rfl
@[simp] theorem setTrust_hbm : (setTrust f s).hbm = s.hbm := rfl
@[simp] theorem setTrust_spad : (setTrust f s).spad = s.spad := rfl
@[simp] theorem setTrust_hbmPoison : (setTrust f s).hbmPoison = s.hbmPoison := rfl
@[simp] theorem setTrust_rsvPoison : (setTrust f s).rsvPoison = s.rsvPoison := rfl
@[simp] theorem setTrust_rsvDisabled : (setTrust f s).rsvDisabled = s.rsvDisabled := rfl
@[simp] theorem setTrust_log : (setTrust f s).log = s.log := rfl
@[simp] theorem setTrust_emitted : (setTrust f s).emitted = s.emitted := rfl
@[simp] theorem setTrust_acres : (setTrust f s).acres = s.acres := rfl
@[simp] theorem setTrust_amap : (setTrust f s).amap = s.amap := rfl
@[simp] theorem setTrust_doubled : (setTrust f s).doubled = s.doubled := rfl
@[simp] theorem setTrust_swaps : (setTrust f s).swaps = s.swaps := rfl
@[simp] theorem setTrust_wakeQ : (setTrust f s).wakeQ = s.wakeQ := rfl
@[simp] theorem setTrust_testQ : (setTrust f s).testQ = s.testQ := rfl
@[simp] theorem setTrust_testing : (setTrust f s).testing = s.testing := rfl
@[simp] theorem setTrust_issued : (setTrust f s).issued = s.issued := rfl
@[simp] theorem setTrust_beyond : (setTrust f s).beyond = s.beyond := rfl
@[simp] theorem setTrust_gates : (setTrust f s).gates = s.gates := rfl
@[simp] theorem setTrust_broken : (setTrust f s).broken = s.broken := rfl
@[simp] theorem setTrust_records : (setTrust f s).records = s.records := rfl
@[simp] theorem setTrust_satur : (setTrust f s).satur = s.satur := rfl
@[simp] theorem setTrust_images : (setTrust f s).images = s.images := rfl
@[simp] theorem setTrust_cist : (setTrust f s).cist = s.cist := rfl
@[simp] theorem setTrust_serial : (setTrust f s).serial = s.serial := rfl
@[simp] theorem setTrust_hostCmds : (setTrust f s).hostCmds = s.hostCmds := rfl
@[simp] theorem setTrust_openCmds : (setTrust f s).openCmds = s.openCmds := rfl
@[simp] theorem setTrust_qps : (setTrust f s).qps = s.qps := rfl
@[simp] theorem setTrust_respBuf : (setTrust f s).respBuf = s.respBuf := rfl
@[simp] theorem setTrust_ledq : (setTrust f s).ledq = s.ledq := rfl
@[simp] theorem setTrust_hostLink : (setTrust f s).hostLink = s.hostLink := rfl
@[simp] theorem setTrust_msixMask : (setTrust f s).msixMask = s.msixMask := rfl
@[simp] theorem setTrust_msixPend : (setTrust f s).msixPend = s.msixPend := rfl
@[simp] theorem setTrust_ide : (setTrust f s).ide = s.ide := rfl
@[simp] theorem setTrust_chans : (setTrust f s).chans = s.chans := rfl
@[simp] theorem setTrust_chanGen : (setTrust f s).chanGen = s.chanGen := rfl
@[simp] theorem setTrust_pages : (setTrust f s).pages = s.pages := rfl
@[simp] theorem setTrust_holds : (setTrust f s).holds = s.holds := rfl
@[simp] theorem setTrust_nextImage : (setTrust f s).nextImage = s.nextImage := rfl
@[simp] theorem setTrust_ring : (setTrust f s).ring = s.ring := rfl
@[simp] theorem setTrust_ditch : (setTrust f s).ditch = s.ditch := rfl
@[simp] theorem setTrust_eng : (setTrust f s).eng = s.eng := rfl
@[simp] theorem setTrust_tally : (setTrust f s).tally = s.tally := rfl
@[simp] theorem setTrust_trust : (setTrust f s).trust = f s.trust := rfl
@[simp] theorem setTrust_rely : (setTrust f s).rely = s.rely := rfl
@[simp] theorem setTrust_power : (setTrust f s).power = s.power := rfl
@[simp] theorem setTrust_journal : (setTrust f s).journal = s.journal := rfl

end

/-! ### setEng -/

section

variable (f : Engine → Engine) (s : State)

@[simp] theorem setEng_pending : (setEng f s).pending = s.pending := rfl
@[simp] theorem setEng_freeCtr : (setEng f s).freeCtr = s.freeCtr := rfl
@[simp] theorem setEng_counter : (setEng f s).counter = s.counter := rfl
@[simp] theorem setEng_epoch : (setEng f s).epoch = s.epoch := rfl
@[simp] theorem setEng_regs : (setEng f s).regs = s.regs := rfl
@[simp] theorem setEng_latches : (setEng f s).latches = s.latches := rfl
@[simp] theorem setEng_selects : (setEng f s).selects = s.selects := rfl
@[simp] theorem setEng_unmappedLog : (setEng f s).unmappedLog = s.unmappedLog := rfl
@[simp] theorem setEng_readout : (setEng f s).readout = s.readout := rfl
@[simp] theorem setEng_fullDebug : (setEng f s).fullDebug = s.fullDebug := rfl
@[simp] theorem setEng_hbm : (setEng f s).hbm = s.hbm := rfl
@[simp] theorem setEng_spad : (setEng f s).spad = s.spad := rfl
@[simp] theorem setEng_hbmPoison : (setEng f s).hbmPoison = s.hbmPoison := rfl
@[simp] theorem setEng_rsvPoison : (setEng f s).rsvPoison = s.rsvPoison := rfl
@[simp] theorem setEng_rsvDisabled : (setEng f s).rsvDisabled = s.rsvDisabled := rfl
@[simp] theorem setEng_log : (setEng f s).log = s.log := rfl
@[simp] theorem setEng_emitted : (setEng f s).emitted = s.emitted := rfl
@[simp] theorem setEng_acres : (setEng f s).acres = s.acres := rfl
@[simp] theorem setEng_amap : (setEng f s).amap = s.amap := rfl
@[simp] theorem setEng_doubled : (setEng f s).doubled = s.doubled := rfl
@[simp] theorem setEng_swaps : (setEng f s).swaps = s.swaps := rfl
@[simp] theorem setEng_wakeQ : (setEng f s).wakeQ = s.wakeQ := rfl
@[simp] theorem setEng_testQ : (setEng f s).testQ = s.testQ := rfl
@[simp] theorem setEng_testing : (setEng f s).testing = s.testing := rfl
@[simp] theorem setEng_issued : (setEng f s).issued = s.issued := rfl
@[simp] theorem setEng_beyond : (setEng f s).beyond = s.beyond := rfl
@[simp] theorem setEng_gates : (setEng f s).gates = s.gates := rfl
@[simp] theorem setEng_broken : (setEng f s).broken = s.broken := rfl
@[simp] theorem setEng_records : (setEng f s).records = s.records := rfl
@[simp] theorem setEng_satur : (setEng f s).satur = s.satur := rfl
@[simp] theorem setEng_images : (setEng f s).images = s.images := rfl
@[simp] theorem setEng_cist : (setEng f s).cist = s.cist := rfl
@[simp] theorem setEng_serial : (setEng f s).serial = s.serial := rfl
@[simp] theorem setEng_hostCmds : (setEng f s).hostCmds = s.hostCmds := rfl
@[simp] theorem setEng_openCmds : (setEng f s).openCmds = s.openCmds := rfl
@[simp] theorem setEng_qps : (setEng f s).qps = s.qps := rfl
@[simp] theorem setEng_respBuf : (setEng f s).respBuf = s.respBuf := rfl
@[simp] theorem setEng_ledq : (setEng f s).ledq = s.ledq := rfl
@[simp] theorem setEng_hostLink : (setEng f s).hostLink = s.hostLink := rfl
@[simp] theorem setEng_msixMask : (setEng f s).msixMask = s.msixMask := rfl
@[simp] theorem setEng_msixPend : (setEng f s).msixPend = s.msixPend := rfl
@[simp] theorem setEng_ide : (setEng f s).ide = s.ide := rfl
@[simp] theorem setEng_chans : (setEng f s).chans = s.chans := rfl
@[simp] theorem setEng_chanGen : (setEng f s).chanGen = s.chanGen := rfl
@[simp] theorem setEng_pages : (setEng f s).pages = s.pages := rfl
@[simp] theorem setEng_holds : (setEng f s).holds = s.holds := rfl
@[simp] theorem setEng_nextImage : (setEng f s).nextImage = s.nextImage := rfl
@[simp] theorem setEng_ring : (setEng f s).ring = s.ring := rfl
@[simp] theorem setEng_ditch : (setEng f s).ditch = s.ditch := rfl
@[simp] theorem setEng_eng : (setEng f s).eng = f s.eng := rfl
@[simp] theorem setEng_tally : (setEng f s).tally = s.tally := rfl
@[simp] theorem setEng_trust : (setEng f s).trust = s.trust := rfl
@[simp] theorem setEng_rely : (setEng f s).rely = s.rely := rfl
@[simp] theorem setEng_power : (setEng f s).power = s.power := rfl
@[simp] theorem setEng_journal : (setEng f s).journal = s.journal := rfl

end

/-! ### setTally -/

section

variable (f : Tally → Tally) (s : State)

@[simp] theorem setTally_pending : (setTally f s).pending = s.pending := rfl
@[simp] theorem setTally_freeCtr : (setTally f s).freeCtr = s.freeCtr := rfl
@[simp] theorem setTally_counter : (setTally f s).counter = s.counter := rfl
@[simp] theorem setTally_epoch : (setTally f s).epoch = s.epoch := rfl
@[simp] theorem setTally_regs : (setTally f s).regs = s.regs := rfl
@[simp] theorem setTally_latches : (setTally f s).latches = s.latches := rfl
@[simp] theorem setTally_selects : (setTally f s).selects = s.selects := rfl
@[simp] theorem setTally_unmappedLog : (setTally f s).unmappedLog = s.unmappedLog := rfl
@[simp] theorem setTally_readout : (setTally f s).readout = s.readout := rfl
@[simp] theorem setTally_fullDebug : (setTally f s).fullDebug = s.fullDebug := rfl
@[simp] theorem setTally_hbm : (setTally f s).hbm = s.hbm := rfl
@[simp] theorem setTally_spad : (setTally f s).spad = s.spad := rfl
@[simp] theorem setTally_hbmPoison : (setTally f s).hbmPoison = s.hbmPoison := rfl
@[simp] theorem setTally_rsvPoison : (setTally f s).rsvPoison = s.rsvPoison := rfl
@[simp] theorem setTally_rsvDisabled : (setTally f s).rsvDisabled = s.rsvDisabled := rfl
@[simp] theorem setTally_log : (setTally f s).log = s.log := rfl
@[simp] theorem setTally_emitted : (setTally f s).emitted = s.emitted := rfl
@[simp] theorem setTally_acres : (setTally f s).acres = s.acres := rfl
@[simp] theorem setTally_amap : (setTally f s).amap = s.amap := rfl
@[simp] theorem setTally_doubled : (setTally f s).doubled = s.doubled := rfl
@[simp] theorem setTally_swaps : (setTally f s).swaps = s.swaps := rfl
@[simp] theorem setTally_wakeQ : (setTally f s).wakeQ = s.wakeQ := rfl
@[simp] theorem setTally_testQ : (setTally f s).testQ = s.testQ := rfl
@[simp] theorem setTally_testing : (setTally f s).testing = s.testing := rfl
@[simp] theorem setTally_issued : (setTally f s).issued = s.issued := rfl
@[simp] theorem setTally_beyond : (setTally f s).beyond = s.beyond := rfl
@[simp] theorem setTally_gates : (setTally f s).gates = s.gates := rfl
@[simp] theorem setTally_broken : (setTally f s).broken = s.broken := rfl
@[simp] theorem setTally_records : (setTally f s).records = s.records := rfl
@[simp] theorem setTally_satur : (setTally f s).satur = s.satur := rfl
@[simp] theorem setTally_images : (setTally f s).images = s.images := rfl
@[simp] theorem setTally_cist : (setTally f s).cist = s.cist := rfl
@[simp] theorem setTally_serial : (setTally f s).serial = s.serial := rfl
@[simp] theorem setTally_hostCmds : (setTally f s).hostCmds = s.hostCmds := rfl
@[simp] theorem setTally_openCmds : (setTally f s).openCmds = s.openCmds := rfl
@[simp] theorem setTally_qps : (setTally f s).qps = s.qps := rfl
@[simp] theorem setTally_respBuf : (setTally f s).respBuf = s.respBuf := rfl
@[simp] theorem setTally_ledq : (setTally f s).ledq = s.ledq := rfl
@[simp] theorem setTally_hostLink : (setTally f s).hostLink = s.hostLink := rfl
@[simp] theorem setTally_msixMask : (setTally f s).msixMask = s.msixMask := rfl
@[simp] theorem setTally_msixPend : (setTally f s).msixPend = s.msixPend := rfl
@[simp] theorem setTally_ide : (setTally f s).ide = s.ide := rfl
@[simp] theorem setTally_chans : (setTally f s).chans = s.chans := rfl
@[simp] theorem setTally_chanGen : (setTally f s).chanGen = s.chanGen := rfl
@[simp] theorem setTally_pages : (setTally f s).pages = s.pages := rfl
@[simp] theorem setTally_holds : (setTally f s).holds = s.holds := rfl
@[simp] theorem setTally_nextImage : (setTally f s).nextImage = s.nextImage := rfl
@[simp] theorem setTally_ring : (setTally f s).ring = s.ring := rfl
@[simp] theorem setTally_ditch : (setTally f s).ditch = s.ditch := rfl
@[simp] theorem setTally_eng : (setTally f s).eng = s.eng := rfl
@[simp] theorem setTally_tally : (setTally f s).tally = f s.tally := rfl
@[simp] theorem setTally_trust : (setTally f s).trust = s.trust := rfl
@[simp] theorem setTally_rely : (setTally f s).rely = s.rely := rfl
@[simp] theorem setTally_power : (setTally f s).power = s.power := rfl
@[simp] theorem setTally_journal : (setTally f s).journal = s.journal := rfl

end

/-! ### setRely -/

section

variable (f : Rely → Rely) (s : State)

@[simp] theorem setRely_pending : (setRely f s).pending = s.pending := rfl
@[simp] theorem setRely_freeCtr : (setRely f s).freeCtr = s.freeCtr := rfl
@[simp] theorem setRely_counter : (setRely f s).counter = s.counter := rfl
@[simp] theorem setRely_epoch : (setRely f s).epoch = s.epoch := rfl
@[simp] theorem setRely_regs : (setRely f s).regs = s.regs := rfl
@[simp] theorem setRely_latches : (setRely f s).latches = s.latches := rfl
@[simp] theorem setRely_selects : (setRely f s).selects = s.selects := rfl
@[simp] theorem setRely_unmappedLog : (setRely f s).unmappedLog = s.unmappedLog := rfl
@[simp] theorem setRely_readout : (setRely f s).readout = s.readout := rfl
@[simp] theorem setRely_fullDebug : (setRely f s).fullDebug = s.fullDebug := rfl
@[simp] theorem setRely_hbm : (setRely f s).hbm = s.hbm := rfl
@[simp] theorem setRely_spad : (setRely f s).spad = s.spad := rfl
@[simp] theorem setRely_hbmPoison : (setRely f s).hbmPoison = s.hbmPoison := rfl
@[simp] theorem setRely_rsvPoison : (setRely f s).rsvPoison = s.rsvPoison := rfl
@[simp] theorem setRely_rsvDisabled : (setRely f s).rsvDisabled = s.rsvDisabled := rfl
@[simp] theorem setRely_log : (setRely f s).log = s.log := rfl
@[simp] theorem setRely_emitted : (setRely f s).emitted = s.emitted := rfl
@[simp] theorem setRely_acres : (setRely f s).acres = s.acres := rfl
@[simp] theorem setRely_amap : (setRely f s).amap = s.amap := rfl
@[simp] theorem setRely_doubled : (setRely f s).doubled = s.doubled := rfl
@[simp] theorem setRely_swaps : (setRely f s).swaps = s.swaps := rfl
@[simp] theorem setRely_wakeQ : (setRely f s).wakeQ = s.wakeQ := rfl
@[simp] theorem setRely_testQ : (setRely f s).testQ = s.testQ := rfl
@[simp] theorem setRely_testing : (setRely f s).testing = s.testing := rfl
@[simp] theorem setRely_issued : (setRely f s).issued = s.issued := rfl
@[simp] theorem setRely_beyond : (setRely f s).beyond = s.beyond := rfl
@[simp] theorem setRely_gates : (setRely f s).gates = s.gates := rfl
@[simp] theorem setRely_broken : (setRely f s).broken = s.broken := rfl
@[simp] theorem setRely_records : (setRely f s).records = s.records := rfl
@[simp] theorem setRely_satur : (setRely f s).satur = s.satur := rfl
@[simp] theorem setRely_images : (setRely f s).images = s.images := rfl
@[simp] theorem setRely_cist : (setRely f s).cist = s.cist := rfl
@[simp] theorem setRely_serial : (setRely f s).serial = s.serial := rfl
@[simp] theorem setRely_hostCmds : (setRely f s).hostCmds = s.hostCmds := rfl
@[simp] theorem setRely_openCmds : (setRely f s).openCmds = s.openCmds := rfl
@[simp] theorem setRely_qps : (setRely f s).qps = s.qps := rfl
@[simp] theorem setRely_respBuf : (setRely f s).respBuf = s.respBuf := rfl
@[simp] theorem setRely_ledq : (setRely f s).ledq = s.ledq := rfl
@[simp] theorem setRely_hostLink : (setRely f s).hostLink = s.hostLink := rfl
@[simp] theorem setRely_msixMask : (setRely f s).msixMask = s.msixMask := rfl
@[simp] theorem setRely_msixPend : (setRely f s).msixPend = s.msixPend := rfl
@[simp] theorem setRely_ide : (setRely f s).ide = s.ide := rfl
@[simp] theorem setRely_chans : (setRely f s).chans = s.chans := rfl
@[simp] theorem setRely_chanGen : (setRely f s).chanGen = s.chanGen := rfl
@[simp] theorem setRely_pages : (setRely f s).pages = s.pages := rfl
@[simp] theorem setRely_holds : (setRely f s).holds = s.holds := rfl
@[simp] theorem setRely_nextImage : (setRely f s).nextImage = s.nextImage := rfl
@[simp] theorem setRely_ring : (setRely f s).ring = s.ring := rfl
@[simp] theorem setRely_ditch : (setRely f s).ditch = s.ditch := rfl
@[simp] theorem setRely_eng : (setRely f s).eng = s.eng := rfl
@[simp] theorem setRely_tally : (setRely f s).tally = s.tally := rfl
@[simp] theorem setRely_trust : (setRely f s).trust = s.trust := rfl
@[simp] theorem setRely_rely : (setRely f s).rely = f s.rely := rfl
@[simp] theorem setRely_power : (setRely f s).power = s.power := rfl
@[simp] theorem setRely_journal : (setRely f s).journal = s.journal := rfl

end

/-! ### modRing -/

section

variable (f : Ring → Ring) (s : State)

@[simp] theorem modRing_pending : (modRing f s).pending = s.pending := rfl
@[simp] theorem modRing_freeCtr : (modRing f s).freeCtr = s.freeCtr := rfl
@[simp] theorem modRing_counter : (modRing f s).counter = s.counter := rfl
@[simp] theorem modRing_epoch : (modRing f s).epoch = s.epoch := rfl
@[simp] theorem modRing_regs : (modRing f s).regs = s.regs := rfl
@[simp] theorem modRing_latches : (modRing f s).latches = s.latches := rfl
@[simp] theorem modRing_selects : (modRing f s).selects = s.selects := rfl
@[simp] theorem modRing_unmappedLog : (modRing f s).unmappedLog = s.unmappedLog := rfl
@[simp] theorem modRing_readout : (modRing f s).readout = s.readout := rfl
@[simp] theorem modRing_fullDebug : (modRing f s).fullDebug = s.fullDebug := rfl
@[simp] theorem modRing_hbm : (modRing f s).hbm = s.hbm := rfl
@[simp] theorem modRing_spad : (modRing f s).spad = s.spad := rfl
@[simp] theorem modRing_hbmPoison : (modRing f s).hbmPoison = s.hbmPoison := rfl
@[simp] theorem modRing_rsvPoison : (modRing f s).rsvPoison = s.rsvPoison := rfl
@[simp] theorem modRing_rsvDisabled : (modRing f s).rsvDisabled = s.rsvDisabled := rfl
@[simp] theorem modRing_log : (modRing f s).log = s.log := rfl
@[simp] theorem modRing_emitted : (modRing f s).emitted = s.emitted := rfl
@[simp] theorem modRing_acres : (modRing f s).acres = s.acres := rfl
@[simp] theorem modRing_amap : (modRing f s).amap = s.amap := rfl
@[simp] theorem modRing_doubled : (modRing f s).doubled = s.doubled := rfl
@[simp] theorem modRing_swaps : (modRing f s).swaps = s.swaps := rfl
@[simp] theorem modRing_wakeQ : (modRing f s).wakeQ = s.wakeQ := rfl
@[simp] theorem modRing_testQ : (modRing f s).testQ = s.testQ := rfl
@[simp] theorem modRing_testing : (modRing f s).testing = s.testing := rfl
@[simp] theorem modRing_issued : (modRing f s).issued = s.issued := rfl
@[simp] theorem modRing_beyond : (modRing f s).beyond = s.beyond := rfl
@[simp] theorem modRing_gates : (modRing f s).gates = s.gates := rfl
@[simp] theorem modRing_broken : (modRing f s).broken = s.broken := rfl
@[simp] theorem modRing_records : (modRing f s).records = s.records := rfl
@[simp] theorem modRing_satur : (modRing f s).satur = s.satur := rfl
@[simp] theorem modRing_images : (modRing f s).images = s.images := rfl
@[simp] theorem modRing_cist : (modRing f s).cist = s.cist := rfl
@[simp] theorem modRing_serial : (modRing f s).serial = s.serial := rfl
@[simp] theorem modRing_hostCmds : (modRing f s).hostCmds = s.hostCmds := rfl
@[simp] theorem modRing_openCmds : (modRing f s).openCmds = s.openCmds := rfl
@[simp] theorem modRing_qps : (modRing f s).qps = s.qps := rfl
@[simp] theorem modRing_respBuf : (modRing f s).respBuf = s.respBuf := rfl
@[simp] theorem modRing_ledq : (modRing f s).ledq = s.ledq := rfl
@[simp] theorem modRing_hostLink : (modRing f s).hostLink = s.hostLink := rfl
@[simp] theorem modRing_msixMask : (modRing f s).msixMask = s.msixMask := rfl
@[simp] theorem modRing_msixPend : (modRing f s).msixPend = s.msixPend := rfl
@[simp] theorem modRing_ide : (modRing f s).ide = s.ide := rfl
@[simp] theorem modRing_chans : (modRing f s).chans = s.chans := rfl
@[simp] theorem modRing_chanGen : (modRing f s).chanGen = s.chanGen := rfl
@[simp] theorem modRing_pages : (modRing f s).pages = s.pages := rfl
@[simp] theorem modRing_holds : (modRing f s).holds = s.holds := rfl
@[simp] theorem modRing_nextImage : (modRing f s).nextImage = s.nextImage := rfl
@[simp] theorem modRing_ring : (modRing f s).ring = f s.ring := rfl
@[simp] theorem modRing_ditch : (modRing f s).ditch = s.ditch := rfl
@[simp] theorem modRing_eng : (modRing f s).eng = s.eng := rfl
@[simp] theorem modRing_tally : (modRing f s).tally = s.tally := rfl
@[simp] theorem modRing_trust : (modRing f s).trust = s.trust := rfl
@[simp] theorem modRing_rely : (modRing f s).rely = s.rely := rfl
@[simp] theorem modRing_power : (modRing f s).power = s.power := rfl
@[simp] theorem modRing_journal : (modRing f s).journal = s.journal := rfl

end

/-! ### setPower -/

section

variable (f : Power → Power) (s : State)

@[simp] theorem setPower_pending : (setPower f s).pending = s.pending := rfl
@[simp] theorem setPower_freeCtr : (setPower f s).freeCtr = s.freeCtr := rfl
@[simp] theorem setPower_counter : (setPower f s).counter = s.counter := rfl
@[simp] theorem setPower_epoch : (setPower f s).epoch = s.epoch := rfl
@[simp] theorem setPower_regs : (setPower f s).regs = s.regs := rfl
@[simp] theorem setPower_latches : (setPower f s).latches = s.latches := rfl
@[simp] theorem setPower_selects : (setPower f s).selects = s.selects := rfl
@[simp] theorem setPower_unmappedLog : (setPower f s).unmappedLog = s.unmappedLog := rfl
@[simp] theorem setPower_readout : (setPower f s).readout = s.readout := rfl
@[simp] theorem setPower_fullDebug : (setPower f s).fullDebug = s.fullDebug := rfl
@[simp] theorem setPower_hbm : (setPower f s).hbm = s.hbm := rfl
@[simp] theorem setPower_spad : (setPower f s).spad = s.spad := rfl
@[simp] theorem setPower_hbmPoison : (setPower f s).hbmPoison = s.hbmPoison := rfl
@[simp] theorem setPower_rsvPoison : (setPower f s).rsvPoison = s.rsvPoison := rfl
@[simp] theorem setPower_rsvDisabled : (setPower f s).rsvDisabled = s.rsvDisabled := rfl
@[simp] theorem setPower_log : (setPower f s).log = s.log := rfl
@[simp] theorem setPower_emitted : (setPower f s).emitted = s.emitted := rfl
@[simp] theorem setPower_acres : (setPower f s).acres = s.acres := rfl
@[simp] theorem setPower_amap : (setPower f s).amap = s.amap := rfl
@[simp] theorem setPower_doubled : (setPower f s).doubled = s.doubled := rfl
@[simp] theorem setPower_swaps : (setPower f s).swaps = s.swaps := rfl
@[simp] theorem setPower_wakeQ : (setPower f s).wakeQ = s.wakeQ := rfl
@[simp] theorem setPower_testQ : (setPower f s).testQ = s.testQ := rfl
@[simp] theorem setPower_testing : (setPower f s).testing = s.testing := rfl
@[simp] theorem setPower_issued : (setPower f s).issued = s.issued := rfl
@[simp] theorem setPower_beyond : (setPower f s).beyond = s.beyond := rfl
@[simp] theorem setPower_gates : (setPower f s).gates = s.gates := rfl
@[simp] theorem setPower_broken : (setPower f s).broken = s.broken := rfl
@[simp] theorem setPower_records : (setPower f s).records = s.records := rfl
@[simp] theorem setPower_satur : (setPower f s).satur = s.satur := rfl
@[simp] theorem setPower_images : (setPower f s).images = s.images := rfl
@[simp] theorem setPower_cist : (setPower f s).cist = s.cist := rfl
@[simp] theorem setPower_serial : (setPower f s).serial = s.serial := rfl
@[simp] theorem setPower_hostCmds : (setPower f s).hostCmds = s.hostCmds := rfl
@[simp] theorem setPower_openCmds : (setPower f s).openCmds = s.openCmds := rfl
@[simp] theorem setPower_qps : (setPower f s).qps = s.qps := rfl
@[simp] theorem setPower_respBuf : (setPower f s).respBuf = s.respBuf := rfl
@[simp] theorem setPower_ledq : (setPower f s).ledq = s.ledq := rfl
@[simp] theorem setPower_hostLink : (setPower f s).hostLink = s.hostLink := rfl
@[simp] theorem setPower_msixMask : (setPower f s).msixMask = s.msixMask := rfl
@[simp] theorem setPower_msixPend : (setPower f s).msixPend = s.msixPend := rfl
@[simp] theorem setPower_ide : (setPower f s).ide = s.ide := rfl
@[simp] theorem setPower_chans : (setPower f s).chans = s.chans := rfl
@[simp] theorem setPower_chanGen : (setPower f s).chanGen = s.chanGen := rfl
@[simp] theorem setPower_pages : (setPower f s).pages = s.pages := rfl
@[simp] theorem setPower_holds : (setPower f s).holds = s.holds := rfl
@[simp] theorem setPower_nextImage : (setPower f s).nextImage = s.nextImage := rfl
@[simp] theorem setPower_ring : (setPower f s).ring = s.ring := rfl
@[simp] theorem setPower_ditch : (setPower f s).ditch = s.ditch := rfl
@[simp] theorem setPower_eng : (setPower f s).eng = s.eng := rfl
@[simp] theorem setPower_tally : (setPower f s).tally = s.tally := rfl
@[simp] theorem setPower_trust : (setPower f s).trust = s.trust := rfl
@[simp] theorem setPower_rely : (setPower f s).rely = s.rely := rfl
@[simp] theorem setPower_power : (setPower f s).power = f s.power := rfl
@[simp] theorem setPower_journal : (setPower f s).journal = s.journal := rfl

end

/-! ### putChan -/

section

variable (k : Nat) (v : Chan) (s : State)

@[simp] theorem putChan_pending : (putChan k v s).pending = s.pending := rfl
@[simp] theorem putChan_freeCtr : (putChan k v s).freeCtr = s.freeCtr := rfl
@[simp] theorem putChan_counter : (putChan k v s).counter = s.counter := rfl
@[simp] theorem putChan_epoch : (putChan k v s).epoch = s.epoch := rfl
@[simp] theorem putChan_regs : (putChan k v s).regs = s.regs := rfl
@[simp] theorem putChan_latches : (putChan k v s).latches = s.latches := rfl
@[simp] theorem putChan_selects : (putChan k v s).selects = s.selects := rfl
@[simp] theorem putChan_unmappedLog : (putChan k v s).unmappedLog = s.unmappedLog := rfl
@[simp] theorem putChan_readout : (putChan k v s).readout = s.readout := rfl
@[simp] theorem putChan_fullDebug : (putChan k v s).fullDebug = s.fullDebug := rfl
@[simp] theorem putChan_hbm : (putChan k v s).hbm = s.hbm := rfl
@[simp] theorem putChan_spad : (putChan k v s).spad = s.spad := rfl
@[simp] theorem putChan_hbmPoison : (putChan k v s).hbmPoison = s.hbmPoison := rfl
@[simp] theorem putChan_rsvPoison : (putChan k v s).rsvPoison = s.rsvPoison := rfl
@[simp] theorem putChan_rsvDisabled : (putChan k v s).rsvDisabled = s.rsvDisabled := rfl
@[simp] theorem putChan_log : (putChan k v s).log = s.log := rfl
@[simp] theorem putChan_emitted : (putChan k v s).emitted = s.emitted := rfl
@[simp] theorem putChan_acres : (putChan k v s).acres = s.acres := rfl
@[simp] theorem putChan_amap : (putChan k v s).amap = s.amap := rfl
@[simp] theorem putChan_doubled : (putChan k v s).doubled = s.doubled := rfl
@[simp] theorem putChan_swaps : (putChan k v s).swaps = s.swaps := rfl
@[simp] theorem putChan_wakeQ : (putChan k v s).wakeQ = s.wakeQ := rfl
@[simp] theorem putChan_testQ : (putChan k v s).testQ = s.testQ := rfl
@[simp] theorem putChan_testing : (putChan k v s).testing = s.testing := rfl
@[simp] theorem putChan_issued : (putChan k v s).issued = s.issued := rfl
@[simp] theorem putChan_beyond : (putChan k v s).beyond = s.beyond := rfl
@[simp] theorem putChan_gates : (putChan k v s).gates = s.gates := rfl
@[simp] theorem putChan_broken : (putChan k v s).broken = s.broken := rfl
@[simp] theorem putChan_records : (putChan k v s).records = s.records := rfl
@[simp] theorem putChan_satur : (putChan k v s).satur = s.satur := rfl
@[simp] theorem putChan_images : (putChan k v s).images = s.images := rfl
@[simp] theorem putChan_cist : (putChan k v s).cist = s.cist := rfl
@[simp] theorem putChan_serial : (putChan k v s).serial = s.serial := rfl
@[simp] theorem putChan_hostCmds : (putChan k v s).hostCmds = s.hostCmds := rfl
@[simp] theorem putChan_openCmds : (putChan k v s).openCmds = s.openCmds := rfl
@[simp] theorem putChan_qps : (putChan k v s).qps = s.qps := rfl
@[simp] theorem putChan_respBuf : (putChan k v s).respBuf = s.respBuf := rfl
@[simp] theorem putChan_ledq : (putChan k v s).ledq = s.ledq := rfl
@[simp] theorem putChan_hostLink : (putChan k v s).hostLink = s.hostLink := rfl
@[simp] theorem putChan_msixMask : (putChan k v s).msixMask = s.msixMask := rfl
@[simp] theorem putChan_msixPend : (putChan k v s).msixPend = s.msixPend := rfl
@[simp] theorem putChan_ide : (putChan k v s).ide = s.ide := rfl
@[simp] theorem putChan_chans : (putChan k v s).chans = insertK s.chans k v := rfl
@[simp] theorem putChan_chanGen : (putChan k v s).chanGen = s.chanGen := rfl
@[simp] theorem putChan_pages : (putChan k v s).pages = s.pages := rfl
@[simp] theorem putChan_holds : (putChan k v s).holds = s.holds := rfl
@[simp] theorem putChan_nextImage : (putChan k v s).nextImage = s.nextImage := rfl
@[simp] theorem putChan_ring : (putChan k v s).ring = s.ring := rfl
@[simp] theorem putChan_ditch : (putChan k v s).ditch = s.ditch := rfl
@[simp] theorem putChan_eng : (putChan k v s).eng = s.eng := rfl
@[simp] theorem putChan_tally : (putChan k v s).tally = s.tally := rfl
@[simp] theorem putChan_trust : (putChan k v s).trust = s.trust := rfl
@[simp] theorem putChan_rely : (putChan k v s).rely = s.rely := rfl
@[simp] theorem putChan_power : (putChan k v s).power = s.power := rfl
@[simp] theorem putChan_journal : (putChan k v s).journal = s.journal := rfl

end

/-! ### dropChan -/

section

variable (k : Nat) (s : State)

@[simp] theorem dropChan_pending : (dropChan k s).pending = s.pending := rfl
@[simp] theorem dropChan_freeCtr : (dropChan k s).freeCtr = s.freeCtr := rfl
@[simp] theorem dropChan_counter : (dropChan k s).counter = s.counter := rfl
@[simp] theorem dropChan_epoch : (dropChan k s).epoch = s.epoch := rfl
@[simp] theorem dropChan_regs : (dropChan k s).regs = s.regs := rfl
@[simp] theorem dropChan_latches : (dropChan k s).latches = s.latches := rfl
@[simp] theorem dropChan_selects : (dropChan k s).selects = s.selects := rfl
@[simp] theorem dropChan_unmappedLog : (dropChan k s).unmappedLog = s.unmappedLog := rfl
@[simp] theorem dropChan_readout : (dropChan k s).readout = s.readout := rfl
@[simp] theorem dropChan_fullDebug : (dropChan k s).fullDebug = s.fullDebug := rfl
@[simp] theorem dropChan_hbm : (dropChan k s).hbm = s.hbm := rfl
@[simp] theorem dropChan_spad : (dropChan k s).spad = s.spad := rfl
@[simp] theorem dropChan_hbmPoison : (dropChan k s).hbmPoison = s.hbmPoison := rfl
@[simp] theorem dropChan_rsvPoison : (dropChan k s).rsvPoison = s.rsvPoison := rfl
@[simp] theorem dropChan_rsvDisabled : (dropChan k s).rsvDisabled = s.rsvDisabled := rfl
@[simp] theorem dropChan_log : (dropChan k s).log = s.log := rfl
@[simp] theorem dropChan_emitted : (dropChan k s).emitted = s.emitted := rfl
@[simp] theorem dropChan_acres : (dropChan k s).acres = s.acres := rfl
@[simp] theorem dropChan_amap : (dropChan k s).amap = s.amap := rfl
@[simp] theorem dropChan_doubled : (dropChan k s).doubled = s.doubled := rfl
@[simp] theorem dropChan_swaps : (dropChan k s).swaps = s.swaps := rfl
@[simp] theorem dropChan_wakeQ : (dropChan k s).wakeQ = s.wakeQ := rfl
@[simp] theorem dropChan_testQ : (dropChan k s).testQ = s.testQ := rfl
@[simp] theorem dropChan_testing : (dropChan k s).testing = s.testing := rfl
@[simp] theorem dropChan_issued : (dropChan k s).issued = s.issued := rfl
@[simp] theorem dropChan_beyond : (dropChan k s).beyond = s.beyond := rfl
@[simp] theorem dropChan_gates : (dropChan k s).gates = s.gates := rfl
@[simp] theorem dropChan_broken : (dropChan k s).broken = s.broken := rfl
@[simp] theorem dropChan_records : (dropChan k s).records = s.records := rfl
@[simp] theorem dropChan_satur : (dropChan k s).satur = s.satur := rfl
@[simp] theorem dropChan_images : (dropChan k s).images = s.images := rfl
@[simp] theorem dropChan_cist : (dropChan k s).cist = s.cist := rfl
@[simp] theorem dropChan_serial : (dropChan k s).serial = s.serial := rfl
@[simp] theorem dropChan_hostCmds : (dropChan k s).hostCmds = s.hostCmds := rfl
@[simp] theorem dropChan_openCmds : (dropChan k s).openCmds = s.openCmds := rfl
@[simp] theorem dropChan_qps : (dropChan k s).qps = s.qps := rfl
@[simp] theorem dropChan_respBuf : (dropChan k s).respBuf = s.respBuf := rfl
@[simp] theorem dropChan_ledq : (dropChan k s).ledq = s.ledq := rfl
@[simp] theorem dropChan_hostLink : (dropChan k s).hostLink = s.hostLink := rfl
@[simp] theorem dropChan_msixMask : (dropChan k s).msixMask = s.msixMask := rfl
@[simp] theorem dropChan_msixPend : (dropChan k s).msixPend = s.msixPend := rfl
@[simp] theorem dropChan_ide : (dropChan k s).ide = s.ide := rfl
@[simp] theorem dropChan_chans : (dropChan k s).chans = eraseK s.chans k := rfl
@[simp] theorem dropChan_chanGen : (dropChan k s).chanGen = s.chanGen := rfl
@[simp] theorem dropChan_pages : (dropChan k s).pages = s.pages := rfl
@[simp] theorem dropChan_holds : (dropChan k s).holds = s.holds := rfl
@[simp] theorem dropChan_nextImage : (dropChan k s).nextImage = s.nextImage := rfl
@[simp] theorem dropChan_ring : (dropChan k s).ring = s.ring := rfl
@[simp] theorem dropChan_ditch : (dropChan k s).ditch = s.ditch := rfl
@[simp] theorem dropChan_eng : (dropChan k s).eng = s.eng := rfl
@[simp] theorem dropChan_tally : (dropChan k s).tally = s.tally := rfl
@[simp] theorem dropChan_trust : (dropChan k s).trust = s.trust := rfl
@[simp] theorem dropChan_rely : (dropChan k s).rely = s.rely := rfl
@[simp] theorem dropChan_power : (dropChan k s).power = s.power := rfl
@[simp] theorem dropChan_journal : (dropChan k s).journal = s.journal := rfl

end

/-! ### setQP -/

section

variable (h q : Nat) (v : QPSt) (s : State)

@[simp] theorem setQP_pending : (setQP h q v s).pending = s.pending := rfl
@[simp] theorem setQP_freeCtr : (setQP h q v s).freeCtr = s.freeCtr := rfl
@[simp] theorem setQP_counter : (setQP h q v s).counter = s.counter := rfl
@[simp] theorem setQP_epoch : (setQP h q v s).epoch = s.epoch := rfl
@[simp] theorem setQP_regs : (setQP h q v s).regs = s.regs := rfl
@[simp] theorem setQP_latches : (setQP h q v s).latches = s.latches := rfl
@[simp] theorem setQP_selects : (setQP h q v s).selects = s.selects := rfl
@[simp] theorem setQP_unmappedLog : (setQP h q v s).unmappedLog = s.unmappedLog := rfl
@[simp] theorem setQP_readout : (setQP h q v s).readout = s.readout := rfl
@[simp] theorem setQP_fullDebug : (setQP h q v s).fullDebug = s.fullDebug := rfl
@[simp] theorem setQP_hbm : (setQP h q v s).hbm = s.hbm := rfl
@[simp] theorem setQP_spad : (setQP h q v s).spad = s.spad := rfl
@[simp] theorem setQP_hbmPoison : (setQP h q v s).hbmPoison = s.hbmPoison := rfl
@[simp] theorem setQP_rsvPoison : (setQP h q v s).rsvPoison = s.rsvPoison := rfl
@[simp] theorem setQP_rsvDisabled : (setQP h q v s).rsvDisabled = s.rsvDisabled := rfl
@[simp] theorem setQP_log : (setQP h q v s).log = s.log := rfl
@[simp] theorem setQP_emitted : (setQP h q v s).emitted = s.emitted := rfl
@[simp] theorem setQP_acres : (setQP h q v s).acres = s.acres := rfl
@[simp] theorem setQP_amap : (setQP h q v s).amap = s.amap := rfl
@[simp] theorem setQP_doubled : (setQP h q v s).doubled = s.doubled := rfl
@[simp] theorem setQP_swaps : (setQP h q v s).swaps = s.swaps := rfl
@[simp] theorem setQP_wakeQ : (setQP h q v s).wakeQ = s.wakeQ := rfl
@[simp] theorem setQP_testQ : (setQP h q v s).testQ = s.testQ := rfl
@[simp] theorem setQP_testing : (setQP h q v s).testing = s.testing := rfl
@[simp] theorem setQP_issued : (setQP h q v s).issued = s.issued := rfl
@[simp] theorem setQP_beyond : (setQP h q v s).beyond = s.beyond := rfl
@[simp] theorem setQP_gates : (setQP h q v s).gates = s.gates := rfl
@[simp] theorem setQP_broken : (setQP h q v s).broken = s.broken := rfl
@[simp] theorem setQP_records : (setQP h q v s).records = s.records := rfl
@[simp] theorem setQP_satur : (setQP h q v s).satur = s.satur := rfl
@[simp] theorem setQP_images : (setQP h q v s).images = s.images := rfl
@[simp] theorem setQP_cist : (setQP h q v s).cist = s.cist := rfl
@[simp] theorem setQP_serial : (setQP h q v s).serial = s.serial := rfl
@[simp] theorem setQP_hostCmds : (setQP h q v s).hostCmds = s.hostCmds := rfl
@[simp] theorem setQP_openCmds : (setQP h q v s).openCmds = s.openCmds := rfl
@[simp] theorem setQP_qps : (setQP h q v s).qps = setK s.qps (qpKey h q) v {} := rfl
@[simp] theorem setQP_respBuf : (setQP h q v s).respBuf = s.respBuf := rfl
@[simp] theorem setQP_ledq : (setQP h q v s).ledq = s.ledq := rfl
@[simp] theorem setQP_hostLink : (setQP h q v s).hostLink = s.hostLink := rfl
@[simp] theorem setQP_msixMask : (setQP h q v s).msixMask = s.msixMask := rfl
@[simp] theorem setQP_msixPend : (setQP h q v s).msixPend = s.msixPend := rfl
@[simp] theorem setQP_ide : (setQP h q v s).ide = s.ide := rfl
@[simp] theorem setQP_chans : (setQP h q v s).chans = s.chans := rfl
@[simp] theorem setQP_chanGen : (setQP h q v s).chanGen = s.chanGen := rfl
@[simp] theorem setQP_pages : (setQP h q v s).pages = s.pages := rfl
@[simp] theorem setQP_holds : (setQP h q v s).holds = s.holds := rfl
@[simp] theorem setQP_nextImage : (setQP h q v s).nextImage = s.nextImage := rfl
@[simp] theorem setQP_ring : (setQP h q v s).ring = s.ring := rfl
@[simp] theorem setQP_ditch : (setQP h q v s).ditch = s.ditch := rfl
@[simp] theorem setQP_eng : (setQP h q v s).eng = s.eng := rfl
@[simp] theorem setQP_tally : (setQP h q v s).tally = s.tally := rfl
@[simp] theorem setQP_trust : (setQP h q v s).trust = s.trust := rfl
@[simp] theorem setQP_rely : (setQP h q v s).rely = s.rely := rfl
@[simp] theorem setQP_power : (setQP h q v s).power = s.power := rfl
@[simp] theorem setQP_journal : (setQP h q v s).journal = s.journal := rfl

end

/-! ### putImage -/

section

variable (im : Image) (s : State)

@[simp] theorem putImage_pending : (putImage im s).pending = s.pending := rfl
@[simp] theorem putImage_freeCtr : (putImage im s).freeCtr = s.freeCtr := rfl
@[simp] theorem putImage_counter : (putImage im s).counter = s.counter := rfl
@[simp] theorem putImage_epoch : (putImage im s).epoch = s.epoch := rfl
@[simp] theorem putImage_regs : (putImage im s).regs = s.regs := rfl
@[simp] theorem putImage_latches : (putImage im s).latches = s.latches := rfl
@[simp] theorem putImage_selects : (putImage im s).selects = s.selects := rfl
@[simp] theorem putImage_unmappedLog : (putImage im s).unmappedLog = s.unmappedLog := rfl
@[simp] theorem putImage_readout : (putImage im s).readout = s.readout := rfl
@[simp] theorem putImage_fullDebug : (putImage im s).fullDebug = s.fullDebug := rfl
@[simp] theorem putImage_hbm : (putImage im s).hbm = s.hbm := rfl
@[simp] theorem putImage_spad : (putImage im s).spad = s.spad := rfl
@[simp] theorem putImage_hbmPoison : (putImage im s).hbmPoison = s.hbmPoison := rfl
@[simp] theorem putImage_rsvPoison : (putImage im s).rsvPoison = s.rsvPoison := rfl
@[simp] theorem putImage_rsvDisabled : (putImage im s).rsvDisabled = s.rsvDisabled := rfl
@[simp] theorem putImage_log : (putImage im s).log = s.log := rfl
@[simp] theorem putImage_emitted : (putImage im s).emitted = s.emitted := rfl
@[simp] theorem putImage_acres : (putImage im s).acres = s.acres := rfl
@[simp] theorem putImage_amap : (putImage im s).amap = s.amap := rfl
@[simp] theorem putImage_doubled : (putImage im s).doubled = s.doubled := rfl
@[simp] theorem putImage_swaps : (putImage im s).swaps = s.swaps := rfl
@[simp] theorem putImage_wakeQ : (putImage im s).wakeQ = s.wakeQ := rfl
@[simp] theorem putImage_testQ : (putImage im s).testQ = s.testQ := rfl
@[simp] theorem putImage_testing : (putImage im s).testing = s.testing := rfl
@[simp] theorem putImage_issued : (putImage im s).issued = s.issued := rfl
@[simp] theorem putImage_beyond : (putImage im s).beyond = s.beyond := rfl
@[simp] theorem putImage_gates : (putImage im s).gates = s.gates := rfl
@[simp] theorem putImage_broken : (putImage im s).broken = s.broken := rfl
@[simp] theorem putImage_records : (putImage im s).records = s.records := rfl
@[simp] theorem putImage_satur : (putImage im s).satur = s.satur := rfl
@[simp] theorem putImage_images : (putImage im s).images = insertK s.images im.handle im := rfl
@[simp] theorem putImage_cist : (putImage im s).cist = s.cist := rfl
@[simp] theorem putImage_serial : (putImage im s).serial = s.serial := rfl
@[simp] theorem putImage_hostCmds : (putImage im s).hostCmds = s.hostCmds := rfl
@[simp] theorem putImage_openCmds : (putImage im s).openCmds = s.openCmds := rfl
@[simp] theorem putImage_qps : (putImage im s).qps = s.qps := rfl
@[simp] theorem putImage_respBuf : (putImage im s).respBuf = s.respBuf := rfl
@[simp] theorem putImage_ledq : (putImage im s).ledq = s.ledq := rfl
@[simp] theorem putImage_hostLink : (putImage im s).hostLink = s.hostLink := rfl
@[simp] theorem putImage_msixMask : (putImage im s).msixMask = s.msixMask := rfl
@[simp] theorem putImage_msixPend : (putImage im s).msixPend = s.msixPend := rfl
@[simp] theorem putImage_ide : (putImage im s).ide = s.ide := rfl
@[simp] theorem putImage_chans : (putImage im s).chans = s.chans := rfl
@[simp] theorem putImage_chanGen : (putImage im s).chanGen = s.chanGen := rfl
@[simp] theorem putImage_pages : (putImage im s).pages = s.pages := rfl
@[simp] theorem putImage_holds : (putImage im s).holds = s.holds := rfl
@[simp] theorem putImage_nextImage : (putImage im s).nextImage = s.nextImage := rfl
@[simp] theorem putImage_ring : (putImage im s).ring = s.ring := rfl
@[simp] theorem putImage_ditch : (putImage im s).ditch = s.ditch := rfl
@[simp] theorem putImage_eng : (putImage im s).eng = s.eng := rfl
@[simp] theorem putImage_tally : (putImage im s).tally = s.tally := rfl
@[simp] theorem putImage_trust : (putImage im s).trust = s.trust := rfl
@[simp] theorem putImage_rely : (putImage im s).rely = s.rely := rfl
@[simp] theorem putImage_power : (putImage im s).power = s.power := rfl
@[simp] theorem putImage_journal : (putImage im s).journal = s.journal := rfl

end

/-! ### setGate -/

section

variable (h i k : Nat) (g : Gate) (s : State)

@[simp] theorem setGate_pending : (setGate h i k g s).pending = s.pending := rfl
@[simp] theorem setGate_freeCtr : (setGate h i k g s).freeCtr = s.freeCtr := rfl
@[simp] theorem setGate_counter : (setGate h i k g s).counter = s.counter := rfl
@[simp] theorem setGate_epoch : (setGate h i k g s).epoch = s.epoch := rfl
@[simp] theorem setGate_regs : (setGate h i k g s).regs = s.regs := rfl
@[simp] theorem setGate_latches : (setGate h i k g s).latches = s.latches := rfl
@[simp] theorem setGate_selects : (setGate h i k g s).selects = s.selects := rfl
@[simp] theorem setGate_unmappedLog : (setGate h i k g s).unmappedLog = s.unmappedLog := rfl
@[simp] theorem setGate_readout : (setGate h i k g s).readout = s.readout := rfl
@[simp] theorem setGate_fullDebug : (setGate h i k g s).fullDebug = s.fullDebug := rfl
@[simp] theorem setGate_hbm : (setGate h i k g s).hbm = s.hbm := rfl
@[simp] theorem setGate_spad : (setGate h i k g s).spad = s.spad := rfl
@[simp] theorem setGate_hbmPoison : (setGate h i k g s).hbmPoison = s.hbmPoison := rfl
@[simp] theorem setGate_rsvPoison : (setGate h i k g s).rsvPoison = s.rsvPoison := rfl
@[simp] theorem setGate_rsvDisabled : (setGate h i k g s).rsvDisabled = s.rsvDisabled := rfl
@[simp] theorem setGate_log : (setGate h i k g s).log = s.log := rfl
@[simp] theorem setGate_emitted : (setGate h i k g s).emitted = s.emitted := rfl
@[simp] theorem setGate_acres : (setGate h i k g s).acres = s.acres := rfl
@[simp] theorem setGate_amap : (setGate h i k g s).amap = s.amap := rfl
@[simp] theorem setGate_doubled : (setGate h i k g s).doubled = s.doubled := rfl
@[simp] theorem setGate_swaps : (setGate h i k g s).swaps = s.swaps := rfl
@[simp] theorem setGate_wakeQ : (setGate h i k g s).wakeQ = s.wakeQ := rfl
@[simp] theorem setGate_testQ : (setGate h i k g s).testQ = s.testQ := rfl
@[simp] theorem setGate_testing : (setGate h i k g s).testing = s.testing := rfl
@[simp] theorem setGate_issued : (setGate h i k g s).issued = s.issued := rfl
@[simp] theorem setGate_beyond : (setGate h i k g s).beyond = s.beyond := rfl
@[simp] theorem setGate_gates : (setGate h i k g s).gates = setK s.gates (gateKey h i k) g {} := rfl
@[simp] theorem setGate_broken : (setGate h i k g s).broken = s.broken := rfl
@[simp] theorem setGate_records : (setGate h i k g s).records = s.records := rfl
@[simp] theorem setGate_satur : (setGate h i k g s).satur = s.satur := rfl
@[simp] theorem setGate_images : (setGate h i k g s).images = s.images := rfl
@[simp] theorem setGate_cist : (setGate h i k g s).cist = s.cist := rfl
@[simp] theorem setGate_serial : (setGate h i k g s).serial = s.serial := rfl
@[simp] theorem setGate_hostCmds : (setGate h i k g s).hostCmds = s.hostCmds := rfl
@[simp] theorem setGate_openCmds : (setGate h i k g s).openCmds = s.openCmds := rfl
@[simp] theorem setGate_qps : (setGate h i k g s).qps = s.qps := rfl
@[simp] theorem setGate_respBuf : (setGate h i k g s).respBuf = s.respBuf := rfl
@[simp] theorem setGate_ledq : (setGate h i k g s).ledq = s.ledq := rfl
@[simp] theorem setGate_hostLink : (setGate h i k g s).hostLink = s.hostLink := rfl
@[simp] theorem setGate_msixMask : (setGate h i k g s).msixMask = s.msixMask := rfl
@[simp] theorem setGate_msixPend : (setGate h i k g s).msixPend = s.msixPend := rfl
@[simp] theorem setGate_ide : (setGate h i k g s).ide = s.ide := rfl
@[simp] theorem setGate_chans : (setGate h i k g s).chans = s.chans := rfl
@[simp] theorem setGate_chanGen : (setGate h i k g s).chanGen = s.chanGen := rfl
@[simp] theorem setGate_pages : (setGate h i k g s).pages = s.pages := rfl
@[simp] theorem setGate_holds : (setGate h i k g s).holds = s.holds := rfl
@[simp] theorem setGate_nextImage : (setGate h i k g s).nextImage = s.nextImage := rfl
@[simp] theorem setGate_ring : (setGate h i k g s).ring = s.ring := rfl
@[simp] theorem setGate_ditch : (setGate h i k g s).ditch = s.ditch := rfl
@[simp] theorem setGate_eng : (setGate h i k g s).eng = s.eng := rfl
@[simp] theorem setGate_tally : (setGate h i k g s).tally = s.tally := rfl
@[simp] theorem setGate_trust : (setGate h i k g s).trust = s.trust := rfl
@[simp] theorem setGate_rely : (setGate h i k g s).rely = s.rely := rfl
@[simp] theorem setGate_power : (setGate h i k g s).power = s.power := rfl
@[simp] theorem setGate_journal : (setGate h i k g s).journal = s.journal := rfl

end

/-! ### putStream -/

section

variable (x : Stream) (s : State)

@[simp] theorem putStream_pending : (putStream x s).pending = s.pending := rfl
@[simp] theorem putStream_freeCtr : (putStream x s).freeCtr = s.freeCtr := rfl
@[simp] theorem putStream_counter : (putStream x s).counter = s.counter := rfl
@[simp] theorem putStream_epoch : (putStream x s).epoch = s.epoch := rfl
@[simp] theorem putStream_regs : (putStream x s).regs = s.regs := rfl
@[simp] theorem putStream_latches : (putStream x s).latches = s.latches := rfl
@[simp] theorem putStream_selects : (putStream x s).selects = s.selects := rfl
@[simp] theorem putStream_unmappedLog : (putStream x s).unmappedLog = s.unmappedLog := rfl
@[simp] theorem putStream_readout : (putStream x s).readout = s.readout := rfl
@[simp] theorem putStream_fullDebug : (putStream x s).fullDebug = s.fullDebug := rfl
@[simp] theorem putStream_hbm : (putStream x s).hbm = s.hbm := rfl
@[simp] theorem putStream_spad : (putStream x s).spad = s.spad := rfl
@[simp] theorem putStream_hbmPoison : (putStream x s).hbmPoison = s.hbmPoison := rfl
@[simp] theorem putStream_rsvPoison : (putStream x s).rsvPoison = s.rsvPoison := rfl
@[simp] theorem putStream_rsvDisabled : (putStream x s).rsvDisabled = s.rsvDisabled := rfl
@[simp] theorem putStream_log : (putStream x s).log = s.log := rfl
@[simp] theorem putStream_emitted : (putStream x s).emitted = s.emitted := rfl
@[simp] theorem putStream_acres : (putStream x s).acres = s.acres := rfl
@[simp] theorem putStream_amap : (putStream x s).amap = s.amap := rfl
@[simp] theorem putStream_doubled : (putStream x s).doubled = s.doubled := rfl
@[simp] theorem putStream_swaps : (putStream x s).swaps = s.swaps := rfl
@[simp] theorem putStream_wakeQ : (putStream x s).wakeQ = s.wakeQ := rfl
@[simp] theorem putStream_testQ : (putStream x s).testQ = s.testQ := rfl
@[simp] theorem putStream_testing : (putStream x s).testing = s.testing := rfl
@[simp] theorem putStream_issued : (putStream x s).issued = s.issued := rfl
@[simp] theorem putStream_beyond : (putStream x s).beyond = s.beyond := rfl
@[simp] theorem putStream_gates : (putStream x s).gates = s.gates := rfl
@[simp] theorem putStream_broken : (putStream x s).broken = s.broken := rfl
@[simp] theorem putStream_records : (putStream x s).records = s.records := rfl
@[simp] theorem putStream_satur : (putStream x s).satur = s.satur := rfl
@[simp] theorem putStream_images : (putStream x s).images = s.images := rfl
@[simp] theorem putStream_cist : (putStream x s).cist = s.cist := rfl
@[simp] theorem putStream_serial : (putStream x s).serial = s.serial := rfl
@[simp] theorem putStream_hostCmds : (putStream x s).hostCmds = s.hostCmds := rfl
@[simp] theorem putStream_openCmds : (putStream x s).openCmds = s.openCmds := rfl
@[simp] theorem putStream_qps : (putStream x s).qps = s.qps := rfl
@[simp] theorem putStream_respBuf : (putStream x s).respBuf = s.respBuf := rfl
@[simp] theorem putStream_ledq : (putStream x s).ledq = s.ledq := rfl
@[simp] theorem putStream_hostLink : (putStream x s).hostLink = s.hostLink := rfl
@[simp] theorem putStream_msixMask : (putStream x s).msixMask = s.msixMask := rfl
@[simp] theorem putStream_msixPend : (putStream x s).msixPend = s.msixPend := rfl
@[simp] theorem putStream_ide : (putStream x s).ide = s.ide := rfl
@[simp] theorem putStream_chans : (putStream x s).chans = s.chans := rfl
@[simp] theorem putStream_chanGen : (putStream x s).chanGen = s.chanGen := rfl
@[simp] theorem putStream_pages : (putStream x s).pages = s.pages := rfl
@[simp] theorem putStream_holds : (putStream x s).holds = s.holds := rfl
@[simp] theorem putStream_nextImage : (putStream x s).nextImage = s.nextImage := rfl
@[simp] theorem putStream_ring : (putStream x s).ring = s.ring := rfl
@[simp] theorem putStream_ditch : (putStream x s).ditch = s.ditch := rfl
@[simp] theorem putStream_tally : (putStream x s).tally = s.tally := rfl
@[simp] theorem putStream_trust : (putStream x s).trust = s.trust := rfl
@[simp] theorem putStream_rely : (putStream x s).rely = s.rely := rfl
@[simp] theorem putStream_power : (putStream x s).power = s.power := rfl
@[simp] theorem putStream_journal : (putStream x s).journal = s.journal := rfl

end

/-! ### A field write: nothing but the register file -/

section

variable (b : Nat) (f : Fld) (v : Nat) (s : State)

@[simp] theorem setF_pending : (setF b f v s).pending = s.pending := rfl
@[simp] theorem setF_freeCtr : (setF b f v s).freeCtr = s.freeCtr := rfl
@[simp] theorem setF_counter : (setF b f v s).counter = s.counter := rfl
@[simp] theorem setF_epoch : (setF b f v s).epoch = s.epoch := rfl
@[simp] theorem setF_latches : (setF b f v s).latches = s.latches := rfl
@[simp] theorem setF_selects : (setF b f v s).selects = s.selects := rfl
@[simp] theorem setF_unmappedLog : (setF b f v s).unmappedLog = s.unmappedLog := rfl
@[simp] theorem setF_readout : (setF b f v s).readout = s.readout := rfl
@[simp] theorem setF_fullDebug : (setF b f v s).fullDebug = s.fullDebug := rfl
@[simp] theorem setF_hbm : (setF b f v s).hbm = s.hbm := rfl
@[simp] theorem setF_spad : (setF b f v s).spad = s.spad := rfl
@[simp] theorem setF_hbmPoison : (setF b f v s).hbmPoison = s.hbmPoison := rfl
@[simp] theorem setF_rsvPoison : (setF b f v s).rsvPoison = s.rsvPoison := rfl
@[simp] theorem setF_rsvDisabled : (setF b f v s).rsvDisabled = s.rsvDisabled := rfl
@[simp] theorem setF_log : (setF b f v s).log = s.log := rfl
@[simp] theorem setF_emitted : (setF b f v s).emitted = s.emitted := rfl
@[simp] theorem setF_acres : (setF b f v s).acres = s.acres := rfl
@[simp] theorem setF_amap : (setF b f v s).amap = s.amap := rfl
@[simp] theorem setF_doubled : (setF b f v s).doubled = s.doubled := rfl
@[simp] theorem setF_swaps : (setF b f v s).swaps = s.swaps := rfl
@[simp] theorem setF_wakeQ : (setF b f v s).wakeQ = s.wakeQ := rfl
@[simp] theorem setF_testQ : (setF b f v s).testQ = s.testQ := rfl
@[simp] theorem setF_testing : (setF b f v s).testing = s.testing := rfl
@[simp] theorem setF_issued : (setF b f v s).issued = s.issued := rfl
@[simp] theorem setF_beyond : (setF b f v s).beyond = s.beyond := rfl
@[simp] theorem setF_gates : (setF b f v s).gates = s.gates := rfl
@[simp] theorem setF_broken : (setF b f v s).broken = s.broken := rfl
@[simp] theorem setF_records : (setF b f v s).records = s.records := rfl
@[simp] theorem setF_satur : (setF b f v s).satur = s.satur := rfl
@[simp] theorem setF_images : (setF b f v s).images = s.images := rfl
@[simp] theorem setF_cist : (setF b f v s).cist = s.cist := rfl
@[simp] theorem setF_serial : (setF b f v s).serial = s.serial := rfl
@[simp] theorem setF_hostCmds : (setF b f v s).hostCmds = s.hostCmds := rfl
@[simp] theorem setF_openCmds : (setF b f v s).openCmds = s.openCmds := rfl
@[simp] theorem setF_qps : (setF b f v s).qps = s.qps := rfl
@[simp] theorem setF_respBuf : (setF b f v s).respBuf = s.respBuf := rfl
@[simp] theorem setF_ledq : (setF b f v s).ledq = s.ledq := rfl
@[simp] theorem setF_hostLink : (setF b f v s).hostLink = s.hostLink := rfl
@[simp] theorem setF_msixMask : (setF b f v s).msixMask = s.msixMask := rfl
@[simp] theorem setF_msixPend : (setF b f v s).msixPend = s.msixPend := rfl
@[simp] theorem setF_ide : (setF b f v s).ide = s.ide := rfl
@[simp] theorem setF_chans : (setF b f v s).chans = s.chans := rfl
@[simp] theorem setF_chanGen : (setF b f v s).chanGen = s.chanGen := rfl
@[simp] theorem setF_pages : (setF b f v s).pages = s.pages := rfl
@[simp] theorem setF_holds : (setF b f v s).holds = s.holds := rfl
@[simp] theorem setF_nextImage : (setF b f v s).nextImage = s.nextImage := rfl
@[simp] theorem setF_ring : (setF b f v s).ring = s.ring := rfl
@[simp] theorem setF_ditch : (setF b f v s).ditch = s.ditch := rfl
@[simp] theorem setF_eng : (setF b f v s).eng = s.eng := rfl
@[simp] theorem setF_tally : (setF b f v s).tally = s.tally := rfl
@[simp] theorem setF_trust : (setF b f v s).trust = s.trust := rfl
@[simp] theorem setF_rely : (setF b f v s).rely = s.rely := rfl
@[simp] theorem setF_power : (setF b f v s).power = s.power := rfl
@[simp] theorem setF_journal : (setF b f v s).journal = s.journal := rfl

end

end Sys2Proof.Laws
end

