-- ==== Sys2Proof/Laws/Ops.lean ====
section
/-!
SUPPORT. Reads after writes of the acres, streams, images, queue pairs and other keyed pieces of state.
-/

namespace Sys2Proof.Laws

open Sys2Proof.Machine

@[simp] theorem getAcre_setAcre_same (g : Nat) (a : Acre) (s : State) : getAcre (setAcre g a s) g = a := getK_setK_same ..
theorem getAcre_setAcre_other (g k : Nat) (a : Acre) (s : State) (h : k ≠ g) : getAcre (setAcre g a s) k = getAcre s k :=
  getK_setK_other _ _ _ _ _ _ h
@[simp] theorem getAcre_modAcre_same (g : Nat) (f : Acre → Acre) (s : State) : getAcre (modAcre g f s) g = f (getAcre s g) :=
  getAcre_setAcre_same ..
theorem getAcre_modAcre_other (g k : Nat) (f : Acre → Acre) (s : State) (h : k ≠ g) : getAcre (modAcre g f s) k = getAcre s k :=
  getAcre_setAcre_other _ _ _ _ h
@[simp] theorem getBasin_setBasin_same (b : Nat) (v : Basin) (s : State) : getBasin (setBasin b v s) b = v := getK_setK_same ..
@[simp] theorem getPlot_setPlot_same (p : Nat) (v : Plot) (s : State) : getPlot (setPlot p v s) p = v := getK_setK_same ..
@[simp] theorem getHold_setHold_same (h : Nat) (v : Hold) (s : State) : getHold (setHold h v s) h = v := getK_setK_same ..
@[simp] theorem getQP_setQP_same (h q : Nat) (v : QPSt) (s : State) : getQP (setQP h q v s) h q = v := getK_setK_same ..
@[simp] theorem getLatch_setLatch_same (p : Path) (a : Nat) (v : PairLatch) (s : State) : getLatch (setLatch p a v s) p a = v :=
  getK_setK_same ..
@[simp] theorem selGet_selSet_same (p : Path) (a : Nat) (w : Word) (s : State) : selGet (selSet p a w s) p a = w := getK_setK_same ..
@[simp] theorem getGate_setGate_same (h i k : Nat) (g : Gate) (s : State) : getGate (setGate h i k g s) h i k = g := getK_setK_same ..
theorem getAcre_congr {s t : State} (h : t.acres = s.acres) (g : Nat) : getAcre t g = getAcre s g := by unfold getAcre; rw [h]
theorem getQP_congr {s t : State} (h : t.qps = s.qps) (k q : Nat) : getQP t k q = getQP s k q := by unfold getQP; rw [h]
theorem getHold_congr {s t : State} (h : t.holds = s.holds) (k : Nat) : getHold t k = getHold s k := by unfold getHold; rw [h]
theorem getLatch_congr {s t : State} (h : t.latches = s.latches) (p : Path) (a : Nat) : getLatch t p a = getLatch s p a := by
  unfold getLatch; rw [h]
theorem getStream_congr {s t : State} (h : t.eng = s.eng) (k : Nat) : getStream t k = getStream s k := by unfold getStream; rw [h]
theorem getImage_congr {s t : State} (h : t.images = s.images) (k : Nat) : getImage t k = getImage s k := by unfold getImage; rw [h]
theorem getBasin_congr {s t : State} (h : t.cist = s.cist) (b : Nat) : getBasin t b = getBasin s b := by unfold getBasin; rw [h]
@[simp] theorem getStream_putStream_same (x : Machine.Stream) (s : State) : getStream (putStream x s) x.id = some x :=
  lookupK_insertK_same ..
@[simp] theorem getImage_putImage_same (im : Image) (s : State) : getImage (putImage im s) im.handle = some im :=
  lookupK_insertK_same ..

/-- Where an address lies depends on the map of the logical acres alone. -/
theorem locate_congr {s t : State} (h1 : t.amap = s.amap) (h2 : t.doubled = s.doubled) (a : Nat) : locate t a = locate s a := by
  unfold locate physOf
  rw [h1, h2]

/-- A byte of memory depends on the memories and that map alone. -/
theorem rdByte_congr {s t : State} (h1 : t.amap = s.amap) (h2 : t.doubled = s.doubled) (h3 : t.hbm = s.hbm) (h4 : t.spad = s.spad)
    (a : Nat) : rdByte t a = rdByte s a := by
  unfold rdByte
  rw [locate_congr h1 h2, h3, h4]

theorem sameMemory_of {s t : State} (h1 : t.amap = s.amap) (h2 : t.doubled = s.doubled) (h3 : t.hbm = s.hbm) (h4 : t.spad = s.spad) :
    SameMemory s t := rdByte_congr h1 h2 h3 h4

theorem wrByte_amap (a : Nat) (b : Byte) (s : State) : (wrByte a b s).amap = s.amap := by unfold wrByte; split <;> rfl
theorem wrByte_doubled (a : Nat) (b : Byte) (s : State) : (wrByte a b s).doubled = s.doubled := by unfold wrByte; split <;> rfl

/-- A write of one byte: the byte at its address takes it, where anything lies there. -/
theorem rdByte_wrByte_same (a : Nat) (b : Byte) (s : State) (h : locate s a ≠ .nowhere) : rdByte (wrByte a b s) a = b := by
  unfold rdByte
  rw [locate_congr (wrByte_amap a b s) (wrByte_doubled a b s)]
  unfold wrByte
  split
  · exact getK_setK_same ..
  · exact getK_setK_same ..
  · next e => exact absurd e h

theorem locate_spad_lt {s : State} {a g off : Nat} (h : locate s a = .spad g off) : off < 0x200000 := by
  unfold locate at h
  dsimp only at h
  split at h
  · cases h
  · split at h
    · cases h
    · split at h
      · split at h
        · next hlt => split at h <;> cases h <;> exact hlt
        · cases h
      · cases h

/-- A write of one byte leaves every byte that lies elsewhere. -/
theorem rdByte_wrByte_other (a x : Nat) (b : Byte) (s : State) (h : locate s x ≠ locate s a) : rdByte (wrByte a b s) x = rdByte s x := by
  unfold rdByte
  rw [locate_congr (wrByte_amap a b s) (wrByte_doubled a b s)]
  cases e : locate s x with
  | nowhere => rfl
  | hbm y =>
    unfold wrByte
    cases e' : locate s a with
    | hbm z =>
      refine getK_setK_other _ _ _ _ _ _ fun c => h ?_
      rw [e, e', c]
    | spad g o => rfl
    | nowhere => rfl
  | spad g o =>
    unfold wrByte
    cases e' : locate s a with
    | hbm z => rfl
    | spad g' o' =>
      refine getK_setK_other _ _ _ _ _ _ fun c => h ?_
      have h1 := locate_spad_lt e
      have h2 := locate_spad_lt e'
      unfold spadKey at c
      rw [e, e', show g = g' by omega, show o = o' by omega]
    | nowhere => rfl

end Sys2Proof.Laws
end

