-- ==== Sys2Proof/Laws/Events.lean ====
section
/-!
SUPPORT. Raising an interrupt source, writing the event log, an event register or an error record: all that they may change, and the
registers that they may write. A proof about a command cites these and never unfolds them.
-/

namespace Sys2Proof.Laws

open Sys2Proof.Machine

/-! ### What they change -/

/-- An update of registers and of the outputs of interrupts alone. -/
def RegsOnly (s t : State) : Prop := ∃ r m e, t = { s with regs := r, msixPend := m, emitted := e }

/-- The same with the event log and its journal. -/
def LogsOnly (s t : State) : Prop := ∃ r m e l j, t = { s with regs := r, msixPend := m, emitted := e, log := l, journal := j }

theorem RegsOnly.refl (s : State) : RegsOnly s s := ⟨s.regs, s.msixPend, s.emitted, rfl⟩

theorem RegsOnly.trans {s t u : State} (h : RegsOnly s t) (g : RegsOnly t u) : RegsOnly s u := by
  obtain ⟨r, m, e, rfl⟩ := h
  obtain ⟨r', m', e', rfl⟩ := g
  exact ⟨r', m', e', rfl⟩

theorem RegsOnly.logs {s t : State} (h : RegsOnly s t) : LogsOnly s t := by
  obtain ⟨r, m, e, rfl⟩ := h
  exact ⟨r, m, e, s.log, s.journal, rfl⟩

theorem LogsOnly.trans {s t u : State} (h : LogsOnly s t) (g : LogsOnly t u) : LogsOnly s u := by
  obtain ⟨r, m, e, l, j, rfl⟩ := h
  obtain ⟨r', m', e', l', j', rfl⟩ := g
  exact ⟨r', m', e', l', j', rfl⟩

theorem setF_regsOnly (b : Nat) (f : Fld) (v : Nat) (s : State) : RegsOnly s (setF b f v s) := ⟨_, s.msixPend, s.emitted, rfl⟩

theorem regSet_regsOnly (a : Nat) (w : Word) (s : State) : RegsOnly s (regSet a w s) := ⟨_, s.msixPend, s.emitted, rfl⟩

theorem signalVec_regsOnly (h v : Nat) (s : State) : RegsOnly s (signalVec h v s) := by
  unfold signalVec
  split
  · exact ⟨s.regs, _, s.emitted, rfl⟩
  · exact ⟨s.regs, s.msixPend, _, rfl⟩

theorem hqIrqEdge_regsOnly (b n : Nat) (s : State) : RegsOnly s (hqIrqEdge b n s) := by
  unfold hqIrqEdge
  split
  · unfold whenB
    split
    · exact signalVec_regsOnly _ _ _
    · exact .refl _
  · exact .refl _

theorem irqRaise_only (b n : Nat) (s : State) : RegsOnly s (irqRaise b n s) := by
  unfold irqRaise
  split
  · exact .refl _
  · exact (setF_regsOnly _ _ _ _).trans (hqIrqEdge_regsOnly _ _ _)

theorem lastEvt_only (b : Nat) (f : Fld) (st : Word) (s : State) : RegsOnly s (lastEvt b f st s) :=
  (setF_regsOnly _ _ _ _).trans (irqRaise_only _ _ _)

theorem bumpF_only (b : Nat) (f : Fld) (n : Nat) (s : State) : RegsOnly s (bumpF b f n s) := setF_regsOnly _ _ _ _

theorem bumpPair_only (b o n : Nat) (s : State) : RegsOnly s (bumpPair b o n s) := (regSet_regsOnly _ _ _).trans (regSet_regsOnly _ _ _)

theorem countErr_only (b q o : Nat) (w : Bool) (k : Nat) (s : State) : RegsOnly s (countErr b q o w k s) := by
  unfold countErr
  dsimp only
  refine RegsOnly.trans ?_ ((regSet_regsOnly _ _ _).trans (irqRaise_only _ _ _))
  split
  · exact bumpF_only _ _ _ _
  · exact (bumpF_only _ _ _ _).trans (regSet_regsOnly _ _ _)

theorem setLevel_only (n : Nat) (s : State) : RegsOnly s (setLevel n s) := by
  unfold setLevel
  split
  · exact .refl _
  · exact (setF_regsOnly _ _ _ _).trans (irqRaise_only _ _ _)

theorem alertFor_only (n : Nat) (s : State) : RegsOnly s (alertFor n s) := by
  unfold alertFor
  split
  · exact setF_regsOnly _ _ _ _
  · exact .refl _

theorem logEvent_only (st : Word) (ev ix : Nat) (d : List Nat) (s : State) : LogsOnly s (logEvent st ev ix d s) := by
  unfold logEvent
  refine LogsOnly.trans (t := logAdd (logEntryOf st ev ix d s) s) ⟨s.regs, s.msixPend, s.emitted, _, _, rfl⟩ (RegsOnly.logs ?_)
  exact ((bumpPair_only _ _ _ _).trans (irqRaise_only _ _ _)).trans (alertFor_only _ _)

theorem logStatus_only (st : Word) (ix : Nat) (d : List Nat) (s : State) : LogsOnly s (logStatus st ix d s) := logEvent_only _ _ _ _ _
theorem logEv_only (ev cls ix : Nat) (d : List Nat) (s : State) : LogsOnly s (logEv ev cls ix d s) := logEvent_only _ _ _ _ _

/-! ### The fields that they leave -/

section

variable (b n : Nat) (s : State)

@[simp] theorem irqRaise_counter : (irqRaise b n s).counter = s.counter := by obtain ⟨_, _, _, h⟩ := irqRaise_only b n s; rw [h]
@[simp] theorem irqRaise_epoch : (irqRaise b n s).epoch = s.epoch := by obtain ⟨_, _, _, h⟩ := irqRaise_only b n s; rw [h]
@[simp] theorem irqRaise_pending : (irqRaise b n s).pending = s.pending := by obtain ⟨_, _, _, h⟩ := irqRaise_only b n s; rw [h]
@[simp] theorem irqRaise_hbm : (irqRaise b n s).hbm = s.hbm := by obtain ⟨_, _, _, h⟩ := irqRaise_only b n s; rw [h]
@[simp] theorem irqRaise_spad : (irqRaise b n s).spad = s.spad := by obtain ⟨_, _, _, h⟩ := irqRaise_only b n s; rw [h]
@[simp] theorem irqRaise_amap : (irqRaise b n s).amap = s.amap := by obtain ⟨_, _, _, h⟩ := irqRaise_only b n s; rw [h]
@[simp] theorem irqRaise_doubled : (irqRaise b n s).doubled = s.doubled := by obtain ⟨_, _, _, h⟩ := irqRaise_only b n s; rw [h]
@[simp] theorem irqRaise_acres : (irqRaise b n s).acres = s.acres := by obtain ⟨_, _, _, h⟩ := irqRaise_only b n s; rw [h]
@[simp] theorem irqRaise_gates : (irqRaise b n s).gates = s.gates := by obtain ⟨_, _, _, h⟩ := irqRaise_only b n s; rw [h]
@[simp] theorem irqRaise_records : (irqRaise b n s).records = s.records := by obtain ⟨_, _, _, h⟩ := irqRaise_only b n s; rw [h]
@[simp] theorem irqRaise_images : (irqRaise b n s).images = s.images := by obtain ⟨_, _, _, h⟩ := irqRaise_only b n s; rw [h]
@[simp] theorem irqRaise_cist : (irqRaise b n s).cist = s.cist := by obtain ⟨_, _, _, h⟩ := irqRaise_only b n s; rw [h]
@[simp] theorem irqRaise_openCmds : (irqRaise b n s).openCmds = s.openCmds := by obtain ⟨_, _, _, h⟩ := irqRaise_only b n s; rw [h]
@[simp] theorem irqRaise_hostCmds : (irqRaise b n s).hostCmds = s.hostCmds := by obtain ⟨_, _, _, h⟩ := irqRaise_only b n s; rw [h]
@[simp] theorem irqRaise_qps : (irqRaise b n s).qps = s.qps := by obtain ⟨_, _, _, h⟩ := irqRaise_only b n s; rw [h]
@[simp] theorem irqRaise_ledq : (irqRaise b n s).ledq = s.ledq := by obtain ⟨_, _, _, h⟩ := irqRaise_only b n s; rw [h]
@[simp] theorem irqRaise_holds : (irqRaise b n s).holds = s.holds := by obtain ⟨_, _, _, h⟩ := irqRaise_only b n s; rw [h]
@[simp] theorem irqRaise_pages : (irqRaise b n s).pages = s.pages := by obtain ⟨_, _, _, h⟩ := irqRaise_only b n s; rw [h]
@[simp] theorem irqRaise_chans : (irqRaise b n s).chans = s.chans := by obtain ⟨_, _, _, h⟩ := irqRaise_only b n s; rw [h]
@[simp] theorem irqRaise_ide : (irqRaise b n s).ide = s.ide := by obtain ⟨_, _, _, h⟩ := irqRaise_only b n s; rw [h]
@[simp] theorem irqRaise_swaps : (irqRaise b n s).swaps = s.swaps := by obtain ⟨_, _, _, h⟩ := irqRaise_only b n s; rw [h]
@[simp] theorem irqRaise_wakeQ : (irqRaise b n s).wakeQ = s.wakeQ := by obtain ⟨_, _, _, h⟩ := irqRaise_only b n s; rw [h]
@[simp] theorem irqRaise_testQ : (irqRaise b n s).testQ = s.testQ := by obtain ⟨_, _, _, h⟩ := irqRaise_only b n s; rw [h]
@[simp] theorem irqRaise_testing : (irqRaise b n s).testing = s.testing := by obtain ⟨_, _, _, h⟩ := irqRaise_only b n s; rw [h]
@[simp] theorem irqRaise_eng : (irqRaise b n s).eng = s.eng := by obtain ⟨_, _, _, h⟩ := irqRaise_only b n s; rw [h]
@[simp] theorem irqRaise_ring : (irqRaise b n s).ring = s.ring := by obtain ⟨_, _, _, h⟩ := irqRaise_only b n s; rw [h]
@[simp] theorem irqRaise_ditch : (irqRaise b n s).ditch = s.ditch := by obtain ⟨_, _, _, h⟩ := irqRaise_only b n s; rw [h]
@[simp] theorem irqRaise_tally : (irqRaise b n s).tally = s.tally := by obtain ⟨_, _, _, h⟩ := irqRaise_only b n s; rw [h]
@[simp] theorem irqRaise_trust : (irqRaise b n s).trust = s.trust := by obtain ⟨_, _, _, h⟩ := irqRaise_only b n s; rw [h]
@[simp] theorem irqRaise_rely : (irqRaise b n s).rely = s.rely := by obtain ⟨_, _, _, h⟩ := irqRaise_only b n s; rw [h]
@[simp] theorem irqRaise_power : (irqRaise b n s).power = s.power := by obtain ⟨_, _, _, h⟩ := irqRaise_only b n s; rw [h]
@[simp] theorem irqRaise_latches : (irqRaise b n s).latches = s.latches := by obtain ⟨_, _, _, h⟩ := irqRaise_only b n s; rw [h]
@[simp] theorem irqRaise_selects : (irqRaise b n s).selects = s.selects := by obtain ⟨_, _, _, h⟩ := irqRaise_only b n s; rw [h]
@[simp] theorem irqRaise_readout : (irqRaise b n s).readout = s.readout := by obtain ⟨_, _, _, h⟩ := irqRaise_only b n s; rw [h]
@[simp] theorem irqRaise_fullDebug : (irqRaise b n s).fullDebug = s.fullDebug := by obtain ⟨_, _, _, h⟩ := irqRaise_only b n s; rw [h]
@[simp] theorem irqRaise_hbmPoison : (irqRaise b n s).hbmPoison = s.hbmPoison := by obtain ⟨_, _, _, h⟩ := irqRaise_only b n s; rw [h]
@[simp] theorem irqRaise_rsvPoison : (irqRaise b n s).rsvPoison = s.rsvPoison := by obtain ⟨_, _, _, h⟩ := irqRaise_only b n s; rw [h]
@[simp] theorem irqRaise_rsvDisabled : (irqRaise b n s).rsvDisabled = s.rsvDisabled := by obtain ⟨_, _, _, h⟩ := irqRaise_only b n s; rw [h]

end

section

variable (st : Word) (ev ix : Nat) (d : List Nat) (s : State)

@[simp] theorem logEvent_counter : (logEvent st ev ix d s).counter = s.counter := by obtain ⟨_, _, _, _, _, h⟩ := logEvent_only st ev ix d s; rw [h]
@[simp] theorem logEvent_epoch : (logEvent st ev ix d s).epoch = s.epoch := by obtain ⟨_, _, _, _, _, h⟩ := logEvent_only st ev ix d s; rw [h]
@[simp] theorem logEvent_pending : (logEvent st ev ix d s).pending = s.pending := by obtain ⟨_, _, _, _, _, h⟩ := logEvent_only st ev ix d s; rw [h]
@[simp] theorem logEvent_hbm : (logEvent st ev ix d s).hbm = s.hbm := by obtain ⟨_, _, _, _, _, h⟩ := logEvent_only st ev ix d s; rw [h]
@[simp] theorem logEvent_spad : (logEvent st ev ix d s).spad = s.spad := by obtain ⟨_, _, _, _, _, h⟩ := logEvent_only st ev ix d s; rw [h]
@[simp] theorem logEvent_amap : (logEvent st ev ix d s).amap = s.amap := by obtain ⟨_, _, _, _, _, h⟩ := logEvent_only st ev ix d s; rw [h]
@[simp] theorem logEvent_doubled : (logEvent st ev ix d s).doubled = s.doubled := by obtain ⟨_, _, _, _, _, h⟩ := logEvent_only st ev ix d s; rw [h]
@[simp] theorem logEvent_acres : (logEvent st ev ix d s).acres = s.acres := by obtain ⟨_, _, _, _, _, h⟩ := logEvent_only st ev ix d s; rw [h]
@[simp] theorem logEvent_gates : (logEvent st ev ix d s).gates = s.gates := by obtain ⟨_, _, _, _, _, h⟩ := logEvent_only st ev ix d s; rw [h]
@[simp] theorem logEvent_records : (logEvent st ev ix d s).records = s.records := by obtain ⟨_, _, _, _, _, h⟩ := logEvent_only st ev ix d s; rw [h]
@[simp] theorem logEvent_images : (logEvent st ev ix d s).images = s.images := by obtain ⟨_, _, _, _, _, h⟩ := logEvent_only st ev ix d s; rw [h]
@[simp] theorem logEvent_cist : (logEvent st ev ix d s).cist = s.cist := by obtain ⟨_, _, _, _, _, h⟩ := logEvent_only st ev ix d s; rw [h]
@[simp] theorem logEvent_openCmds : (logEvent st ev ix d s).openCmds = s.openCmds := by obtain ⟨_, _, _, _, _, h⟩ := logEvent_only st ev ix d s; rw [h]
@[simp] theorem logEvent_hostCmds : (logEvent st ev ix d s).hostCmds = s.hostCmds := by obtain ⟨_, _, _, _, _, h⟩ := logEvent_only st ev ix d s; rw [h]
@[simp] theorem logEvent_qps : (logEvent st ev ix d s).qps = s.qps := by obtain ⟨_, _, _, _, _, h⟩ := logEvent_only st ev ix d s; rw [h]
@[simp] theorem logEvent_ledq : (logEvent st ev ix d s).ledq = s.ledq := by obtain ⟨_, _, _, _, _, h⟩ := logEvent_only st ev ix d s; rw [h]
@[simp] theorem logEvent_holds : (logEvent st ev ix d s).holds = s.holds := by obtain ⟨_, _, _, _, _, h⟩ := logEvent_only st ev ix d s; rw [h]
@[simp] theorem logEvent_pages : (logEvent st ev ix d s).pages = s.pages := by obtain ⟨_, _, _, _, _, h⟩ := logEvent_only st ev ix d s; rw [h]
@[simp] theorem logEvent_chans : (logEvent st ev ix d s).chans = s.chans := by obtain ⟨_, _, _, _, _, h⟩ := logEvent_only st ev ix d s; rw [h]
@[simp] theorem logEvent_ide : (logEvent st ev ix d s).ide = s.ide := by obtain ⟨_, _, _, _, _, h⟩ := logEvent_only st ev ix d s; rw [h]
@[simp] theorem logEvent_swaps : (logEvent st ev ix d s).swaps = s.swaps := by obtain ⟨_, _, _, _, _, h⟩ := logEvent_only st ev ix d s; rw [h]
@[simp] theorem logEvent_wakeQ : (logEvent st ev ix d s).wakeQ = s.wakeQ := by obtain ⟨_, _, _, _, _, h⟩ := logEvent_only st ev ix d s; rw [h]
@[simp] theorem logEvent_testQ : (logEvent st ev ix d s).testQ = s.testQ := by obtain ⟨_, _, _, _, _, h⟩ := logEvent_only st ev ix d s; rw [h]
@[simp] theorem logEvent_testing : (logEvent st ev ix d s).testing = s.testing := by obtain ⟨_, _, _, _, _, h⟩ := logEvent_only st ev ix d s; rw [h]
@[simp] theorem logEvent_eng : (logEvent st ev ix d s).eng = s.eng := by obtain ⟨_, _, _, _, _, h⟩ := logEvent_only st ev ix d s; rw [h]
@[simp] theorem logEvent_ring : (logEvent st ev ix d s).ring = s.ring := by obtain ⟨_, _, _, _, _, h⟩ := logEvent_only st ev ix d s; rw [h]
@[simp] theorem logEvent_ditch : (logEvent st ev ix d s).ditch = s.ditch := by obtain ⟨_, _, _, _, _, h⟩ := logEvent_only st ev ix d s; rw [h]
@[simp] theorem logEvent_tally : (logEvent st ev ix d s).tally = s.tally := by obtain ⟨_, _, _, _, _, h⟩ := logEvent_only st ev ix d s; rw [h]
@[simp] theorem logEvent_trust : (logEvent st ev ix d s).trust = s.trust := by obtain ⟨_, _, _, _, _, h⟩ := logEvent_only st ev ix d s; rw [h]
@[simp] theorem logEvent_rely : (logEvent st ev ix d s).rely = s.rely := by obtain ⟨_, _, _, _, _, h⟩ := logEvent_only st ev ix d s; rw [h]
@[simp] theorem logEvent_power : (logEvent st ev ix d s).power = s.power := by obtain ⟨_, _, _, _, _, h⟩ := logEvent_only st ev ix d s; rw [h]
@[simp] theorem logEvent_latches : (logEvent st ev ix d s).latches = s.latches := by obtain ⟨_, _, _, _, _, h⟩ := logEvent_only st ev ix d s; rw [h]
@[simp] theorem logEvent_selects : (logEvent st ev ix d s).selects = s.selects := by obtain ⟨_, _, _, _, _, h⟩ := logEvent_only st ev ix d s; rw [h]
@[simp] theorem logEvent_readout : (logEvent st ev ix d s).readout = s.readout := by obtain ⟨_, _, _, _, _, h⟩ := logEvent_only st ev ix d s; rw [h]
@[simp] theorem logEvent_fullDebug : (logEvent st ev ix d s).fullDebug = s.fullDebug := by obtain ⟨_, _, _, _, _, h⟩ := logEvent_only st ev ix d s; rw [h]
@[simp] theorem logEvent_hbmPoison : (logEvent st ev ix d s).hbmPoison = s.hbmPoison := by obtain ⟨_, _, _, _, _, h⟩ := logEvent_only st ev ix d s; rw [h]
@[simp] theorem logEvent_rsvPoison : (logEvent st ev ix d s).rsvPoison = s.rsvPoison := by obtain ⟨_, _, _, _, _, h⟩ := logEvent_only st ev ix d s; rw [h]
@[simp] theorem logEvent_rsvDisabled : (logEvent st ev ix d s).rsvDisabled = s.rsvDisabled := by obtain ⟨_, _, _, _, _, h⟩ := logEvent_only st ev ix d s; rw [h]

end

section

variable (st : Word) (ix : Nat) (d : List Nat) (s : State)

@[simp] theorem logStatus_counter : (logStatus st ix d s).counter = s.counter := by obtain ⟨_, _, _, _, _, h⟩ := logStatus_only st ix d s; rw [h]
@[simp] theorem logStatus_epoch : (logStatus st ix d s).epoch = s.epoch := by obtain ⟨_, _, _, _, _, h⟩ := logStatus_only st ix d s; rw [h]
@[simp] theorem logStatus_pending : (logStatus st ix d s).pending = s.pending := by obtain ⟨_, _, _, _, _, h⟩ := logStatus_only st ix d s; rw [h]
@[simp] theorem logStatus_hbm : (logStatus st ix d s).hbm = s.hbm := by obtain ⟨_, _, _, _, _, h⟩ := logStatus_only st ix d s; rw [h]
@[simp] theorem logStatus_spad : (logStatus st ix d s).spad = s.spad := by obtain ⟨_, _, _, _, _, h⟩ := logStatus_only st ix d s; rw [h]
@[simp] theorem logStatus_amap : (logStatus st ix d s).amap = s.amap := by obtain ⟨_, _, _, _, _, h⟩ := logStatus_only st ix d s; rw [h]
@[simp] theorem logStatus_doubled : (logStatus st ix d s).doubled = s.doubled := by obtain ⟨_, _, _, _, _, h⟩ := logStatus_only st ix d s; rw [h]
@[simp] theorem logStatus_acres : (logStatus st ix d s).acres = s.acres := by obtain ⟨_, _, _, _, _, h⟩ := logStatus_only st ix d s; rw [h]
@[simp] theorem logStatus_gates : (logStatus st ix d s).gates = s.gates := by obtain ⟨_, _, _, _, _, h⟩ := logStatus_only st ix d s; rw [h]
@[simp] theorem logStatus_records : (logStatus st ix d s).records = s.records := by obtain ⟨_, _, _, _, _, h⟩ := logStatus_only st ix d s; rw [h]
@[simp] theorem logStatus_images : (logStatus st ix d s).images = s.images := by obtain ⟨_, _, _, _, _, h⟩ := logStatus_only st ix d s; rw [h]
@[simp] theorem logStatus_cist : (logStatus st ix d s).cist = s.cist := by obtain ⟨_, _, _, _, _, h⟩ := logStatus_only st ix d s; rw [h]
@[simp] theorem logStatus_openCmds : (logStatus st ix d s).openCmds = s.openCmds := by obtain ⟨_, _, _, _, _, h⟩ := logStatus_only st ix d s; rw [h]
@[simp] theorem logStatus_hostCmds : (logStatus st ix d s).hostCmds = s.hostCmds := by obtain ⟨_, _, _, _, _, h⟩ := logStatus_only st ix d s; rw [h]
@[simp] theorem logStatus_qps : (logStatus st ix d s).qps = s.qps := by obtain ⟨_, _, _, _, _, h⟩ := logStatus_only st ix d s; rw [h]
@[simp] theorem logStatus_ledq : (logStatus st ix d s).ledq = s.ledq := by obtain ⟨_, _, _, _, _, h⟩ := logStatus_only st ix d s; rw [h]
@[simp] theorem logStatus_holds : (logStatus st ix d s).holds = s.holds := by obtain ⟨_, _, _, _, _, h⟩ := logStatus_only st ix d s; rw [h]
@[simp] theorem logStatus_pages : (logStatus st ix d s).pages = s.pages := by obtain ⟨_, _, _, _, _, h⟩ := logStatus_only st ix d s; rw [h]
@[simp] theorem logStatus_chans : (logStatus st ix d s).chans = s.chans := by obtain ⟨_, _, _, _, _, h⟩ := logStatus_only st ix d s; rw [h]
@[simp] theorem logStatus_ide : (logStatus st ix d s).ide = s.ide := by obtain ⟨_, _, _, _, _, h⟩ := logStatus_only st ix d s; rw [h]
@[simp] theorem logStatus_swaps : (logStatus st ix d s).swaps = s.swaps := by obtain ⟨_, _, _, _, _, h⟩ := logStatus_only st ix d s; rw [h]
@[simp] theorem logStatus_wakeQ : (logStatus st ix d s).wakeQ = s.wakeQ := by obtain ⟨_, _, _, _, _, h⟩ := logStatus_only st ix d s; rw [h]
@[simp] theorem logStatus_testQ : (logStatus st ix d s).testQ = s.testQ := by obtain ⟨_, _, _, _, _, h⟩ := logStatus_only st ix d s; rw [h]
@[simp] theorem logStatus_testing : (logStatus st ix d s).testing = s.testing := by obtain ⟨_, _, _, _, _, h⟩ := logStatus_only st ix d s; rw [h]
@[simp] theorem logStatus_eng : (logStatus st ix d s).eng = s.eng := by obtain ⟨_, _, _, _, _, h⟩ := logStatus_only st ix d s; rw [h]
@[simp] theorem logStatus_ring : (logStatus st ix d s).ring = s.ring := by obtain ⟨_, _, _, _, _, h⟩ := logStatus_only st ix d s; rw [h]
@[simp] theorem logStatus_ditch : (logStatus st ix d s).ditch = s.ditch := by obtain ⟨_, _, _, _, _, h⟩ := logStatus_only st ix d s; rw [h]
@[simp] theorem logStatus_tally : (logStatus st ix d s).tally = s.tally := by obtain ⟨_, _, _, _, _, h⟩ := logStatus_only st ix d s; rw [h]
@[simp] theorem logStatus_trust : (logStatus st ix d s).trust = s.trust := by obtain ⟨_, _, _, _, _, h⟩ := logStatus_only st ix d s; rw [h]
@[simp] theorem logStatus_rely : (logStatus st ix d s).rely = s.rely := by obtain ⟨_, _, _, _, _, h⟩ := logStatus_only st ix d s; rw [h]
@[simp] theorem logStatus_power : (logStatus st ix d s).power = s.power := by obtain ⟨_, _, _, _, _, h⟩ := logStatus_only st ix d s; rw [h]
@[simp] theorem logStatus_latches : (logStatus st ix d s).latches = s.latches := by obtain ⟨_, _, _, _, _, h⟩ := logStatus_only st ix d s; rw [h]
@[simp] theorem logStatus_selects : (logStatus st ix d s).selects = s.selects := by obtain ⟨_, _, _, _, _, h⟩ := logStatus_only st ix d s; rw [h]
@[simp] theorem logStatus_readout : (logStatus st ix d s).readout = s.readout := by obtain ⟨_, _, _, _, _, h⟩ := logStatus_only st ix d s; rw [h]
@[simp] theorem logStatus_fullDebug : (logStatus st ix d s).fullDebug = s.fullDebug := by obtain ⟨_, _, _, _, _, h⟩ := logStatus_only st ix d s; rw [h]
@[simp] theorem logStatus_hbmPoison : (logStatus st ix d s).hbmPoison = s.hbmPoison := by obtain ⟨_, _, _, _, _, h⟩ := logStatus_only st ix d s; rw [h]
@[simp] theorem logStatus_rsvPoison : (logStatus st ix d s).rsvPoison = s.rsvPoison := by obtain ⟨_, _, _, _, _, h⟩ := logStatus_only st ix d s; rw [h]
@[simp] theorem logStatus_rsvDisabled : (logStatus st ix d s).rsvDisabled = s.rsvDisabled := by obtain ⟨_, _, _, _, _, h⟩ := logStatus_only st ix d s; rw [h]

end

section

variable (ev cls ix : Nat) (d : List Nat) (s : State)

@[simp] theorem logEv_counter : (logEv ev cls ix d s).counter = s.counter := by obtain ⟨_, _, _, _, _, h⟩ := logEv_only ev cls ix d s; rw [h]
@[simp] theorem logEv_epoch : (logEv ev cls ix d s).epoch = s.epoch := by obtain ⟨_, _, _, _, _, h⟩ := logEv_only ev cls ix d s; rw [h]
@[simp] theorem logEv_pending : (logEv ev cls ix d s).pending = s.pending := by obtain ⟨_, _, _, _, _, h⟩ := logEv_only ev cls ix d s; rw [h]
@[simp] theorem logEv_hbm : (logEv ev cls ix d s).hbm = s.hbm := by obtain ⟨_, _, _, _, _, h⟩ := logEv_only ev cls ix d s; rw [h]
@[simp] theorem logEv_spad : (logEv ev cls ix d s).spad = s.spad := by obtain ⟨_, _, _, _, _, h⟩ := logEv_only ev cls ix d s; rw [h]
@[simp] theorem logEv_amap : (logEv ev cls ix d s).amap = s.amap := by obtain ⟨_, _, _, _, _, h⟩ := logEv_only ev cls ix d s; rw [h]
@[simp] theorem logEv_doubled : (logEv ev cls ix d s).doubled = s.doubled := by obtain ⟨_, _, _, _, _, h⟩ := logEv_only ev cls ix d s; rw [h]
@[simp] theorem logEv_acres : (logEv ev cls ix d s).acres = s.acres := by obtain ⟨_, _, _, _, _, h⟩ := logEv_only ev cls ix d s; rw [h]
@[simp] theorem logEv_gates : (logEv ev cls ix d s).gates = s.gates := by obtain ⟨_, _, _, _, _, h⟩ := logEv_only ev cls ix d s; rw [h]
@[simp] theorem logEv_records : (logEv ev cls ix d s).records = s.records := by obtain ⟨_, _, _, _, _, h⟩ := logEv_only ev cls ix d s; rw [h]
@[simp] theorem logEv_images : (logEv ev cls ix d s).images = s.images := by obtain ⟨_, _, _, _, _, h⟩ := logEv_only ev cls ix d s; rw [h]
@[simp] theorem logEv_cist : (logEv ev cls ix d s).cist = s.cist := by obtain ⟨_, _, _, _, _, h⟩ := logEv_only ev cls ix d s; rw [h]
@[simp] theorem logEv_openCmds : (logEv ev cls ix d s).openCmds = s.openCmds := by obtain ⟨_, _, _, _, _, h⟩ := logEv_only ev cls ix d s; rw [h]
@[simp] theorem logEv_hostCmds : (logEv ev cls ix d s).hostCmds = s.hostCmds := by obtain ⟨_, _, _, _, _, h⟩ := logEv_only ev cls ix d s; rw [h]
@[simp] theorem logEv_qps : (logEv ev cls ix d s).qps = s.qps := by obtain ⟨_, _, _, _, _, h⟩ := logEv_only ev cls ix d s; rw [h]
@[simp] theorem logEv_ledq : (logEv ev cls ix d s).ledq = s.ledq := by obtain ⟨_, _, _, _, _, h⟩ := logEv_only ev cls ix d s; rw [h]
@[simp] theorem logEv_holds : (logEv ev cls ix d s).holds = s.holds := by obtain ⟨_, _, _, _, _, h⟩ := logEv_only ev cls ix d s; rw [h]
@[simp] theorem logEv_pages : (logEv ev cls ix d s).pages = s.pages := by obtain ⟨_, _, _, _, _, h⟩ := logEv_only ev cls ix d s; rw [h]
@[simp] theorem logEv_chans : (logEv ev cls ix d s).chans = s.chans := by obtain ⟨_, _, _, _, _, h⟩ := logEv_only ev cls ix d s; rw [h]
@[simp] theorem logEv_ide : (logEv ev cls ix d s).ide = s.ide := by obtain ⟨_, _, _, _, _, h⟩ := logEv_only ev cls ix d s; rw [h]
@[simp] theorem logEv_swaps : (logEv ev cls ix d s).swaps = s.swaps := by obtain ⟨_, _, _, _, _, h⟩ := logEv_only ev cls ix d s; rw [h]
@[simp] theorem logEv_wakeQ : (logEv ev cls ix d s).wakeQ = s.wakeQ := by obtain ⟨_, _, _, _, _, h⟩ := logEv_only ev cls ix d s; rw [h]
@[simp] theorem logEv_testQ : (logEv ev cls ix d s).testQ = s.testQ := by obtain ⟨_, _, _, _, _, h⟩ := logEv_only ev cls ix d s; rw [h]
@[simp] theorem logEv_testing : (logEv ev cls ix d s).testing = s.testing := by obtain ⟨_, _, _, _, _, h⟩ := logEv_only ev cls ix d s; rw [h]
@[simp] theorem logEv_eng : (logEv ev cls ix d s).eng = s.eng := by obtain ⟨_, _, _, _, _, h⟩ := logEv_only ev cls ix d s; rw [h]
@[simp] theorem logEv_ring : (logEv ev cls ix d s).ring = s.ring := by obtain ⟨_, _, _, _, _, h⟩ := logEv_only ev cls ix d s; rw [h]
@[simp] theorem logEv_ditch : (logEv ev cls ix d s).ditch = s.ditch := by obtain ⟨_, _, _, _, _, h⟩ := logEv_only ev cls ix d s; rw [h]
@[simp] theorem logEv_tally : (logEv ev cls ix d s).tally = s.tally := by obtain ⟨_, _, _, _, _, h⟩ := logEv_only ev cls ix d s; rw [h]
@[simp] theorem logEv_trust : (logEv ev cls ix d s).trust = s.trust := by obtain ⟨_, _, _, _, _, h⟩ := logEv_only ev cls ix d s; rw [h]
@[simp] theorem logEv_rely : (logEv ev cls ix d s).rely = s.rely := by obtain ⟨_, _, _, _, _, h⟩ := logEv_only ev cls ix d s; rw [h]
@[simp] theorem logEv_power : (logEv ev cls ix d s).power = s.power := by obtain ⟨_, _, _, _, _, h⟩ := logEv_only ev cls ix d s; rw [h]
@[simp] theorem logEv_latches : (logEv ev cls ix d s).latches = s.latches := by obtain ⟨_, _, _, _, _, h⟩ := logEv_only ev cls ix d s; rw [h]
@[simp] theorem logEv_selects : (logEv ev cls ix d s).selects = s.selects := by obtain ⟨_, _, _, _, _, h⟩ := logEv_only ev cls ix d s; rw [h]
@[simp] theorem logEv_readout : (logEv ev cls ix d s).readout = s.readout := by obtain ⟨_, _, _, _, _, h⟩ := logEv_only ev cls ix d s; rw [h]
@[simp] theorem logEv_fullDebug : (logEv ev cls ix d s).fullDebug = s.fullDebug := by obtain ⟨_, _, _, _, _, h⟩ := logEv_only ev cls ix d s; rw [h]
@[simp] theorem logEv_hbmPoison : (logEv ev cls ix d s).hbmPoison = s.hbmPoison := by obtain ⟨_, _, _, _, _, h⟩ := logEv_only ev cls ix d s; rw [h]
@[simp] theorem logEv_rsvPoison : (logEv ev cls ix d s).rsvPoison = s.rsvPoison := by obtain ⟨_, _, _, _, _, h⟩ := logEv_only ev cls ix d s; rw [h]
@[simp] theorem logEv_rsvDisabled : (logEv ev cls ix d s).rsvDisabled = s.rsvDisabled := by obtain ⟨_, _, _, _, _, h⟩ := logEv_only ev cls ix d s; rw [h]

end

section

variable (b : Nat) (f : Fld) (st : Word) (s : State)

@[simp] theorem lastEvt_counter : (lastEvt b f st s).counter = s.counter := by obtain ⟨_, _, _, h⟩ := lastEvt_only b f st s; rw [h]
@[simp] theorem lastEvt_epoch : (lastEvt b f st s).epoch = s.epoch := by obtain ⟨_, _, _, h⟩ := lastEvt_only b f st s; rw [h]
@[simp] theorem lastEvt_pending : (lastEvt b f st s).pending = s.pending := by obtain ⟨_, _, _, h⟩ := lastEvt_only b f st s; rw [h]
@[simp] theorem lastEvt_hbm : (lastEvt b f st s).hbm = s.hbm := by obtain ⟨_, _, _, h⟩ := lastEvt_only b f st s; rw [h]
@[simp] theorem lastEvt_spad : (lastEvt b f st s).spad = s.spad := by obtain ⟨_, _, _, h⟩ := lastEvt_only b f st s; rw [h]
@[simp] theorem lastEvt_amap : (lastEvt b f st s).amap = s.amap := by obtain ⟨_, _, _, h⟩ := lastEvt_only b f st s; rw [h]
@[simp] theorem lastEvt_doubled : (lastEvt b f st s).doubled = s.doubled := by obtain ⟨_, _, _, h⟩ := lastEvt_only b f st s; rw [h]
@[simp] theorem lastEvt_acres : (lastEvt b f st s).acres = s.acres := by obtain ⟨_, _, _, h⟩ := lastEvt_only b f st s; rw [h]
@[simp] theorem lastEvt_gates : (lastEvt b f st s).gates = s.gates := by obtain ⟨_, _, _, h⟩ := lastEvt_only b f st s; rw [h]
@[simp] theorem lastEvt_records : (lastEvt b f st s).records = s.records := by obtain ⟨_, _, _, h⟩ := lastEvt_only b f st s; rw [h]
@[simp] theorem lastEvt_images : (lastEvt b f st s).images = s.images := by obtain ⟨_, _, _, h⟩ := lastEvt_only b f st s; rw [h]
@[simp] theorem lastEvt_cist : (lastEvt b f st s).cist = s.cist := by obtain ⟨_, _, _, h⟩ := lastEvt_only b f st s; rw [h]
@[simp] theorem lastEvt_openCmds : (lastEvt b f st s).openCmds = s.openCmds := by obtain ⟨_, _, _, h⟩ := lastEvt_only b f st s; rw [h]
@[simp] theorem lastEvt_hostCmds : (lastEvt b f st s).hostCmds = s.hostCmds := by obtain ⟨_, _, _, h⟩ := lastEvt_only b f st s; rw [h]
@[simp] theorem lastEvt_qps : (lastEvt b f st s).qps = s.qps := by obtain ⟨_, _, _, h⟩ := lastEvt_only b f st s; rw [h]
@[simp] theorem lastEvt_ledq : (lastEvt b f st s).ledq = s.ledq := by obtain ⟨_, _, _, h⟩ := lastEvt_only b f st s; rw [h]
@[simp] theorem lastEvt_holds : (lastEvt b f st s).holds = s.holds := by obtain ⟨_, _, _, h⟩ := lastEvt_only b f st s; rw [h]
@[simp] theorem lastEvt_pages : (lastEvt b f st s).pages = s.pages := by obtain ⟨_, _, _, h⟩ := lastEvt_only b f st s; rw [h]
@[simp] theorem lastEvt_chans : (lastEvt b f st s).chans = s.chans := by obtain ⟨_, _, _, h⟩ := lastEvt_only b f st s; rw [h]
@[simp] theorem lastEvt_ide : (lastEvt b f st s).ide = s.ide := by obtain ⟨_, _, _, h⟩ := lastEvt_only b f st s; rw [h]
@[simp] theorem lastEvt_swaps : (lastEvt b f st s).swaps = s.swaps := by obtain ⟨_, _, _, h⟩ := lastEvt_only b f st s; rw [h]
@[simp] theorem lastEvt_wakeQ : (lastEvt b f st s).wakeQ = s.wakeQ := by obtain ⟨_, _, _, h⟩ := lastEvt_only b f st s; rw [h]
@[simp] theorem lastEvt_testQ : (lastEvt b f st s).testQ = s.testQ := by obtain ⟨_, _, _, h⟩ := lastEvt_only b f st s; rw [h]
@[simp] theorem lastEvt_testing : (lastEvt b f st s).testing = s.testing := by obtain ⟨_, _, _, h⟩ := lastEvt_only b f st s; rw [h]
@[simp] theorem lastEvt_eng : (lastEvt b f st s).eng = s.eng := by obtain ⟨_, _, _, h⟩ := lastEvt_only b f st s; rw [h]
@[simp] theorem lastEvt_ring : (lastEvt b f st s).ring = s.ring := by obtain ⟨_, _, _, h⟩ := lastEvt_only b f st s; rw [h]
@[simp] theorem lastEvt_ditch : (lastEvt b f st s).ditch = s.ditch := by obtain ⟨_, _, _, h⟩ := lastEvt_only b f st s; rw [h]
@[simp] theorem lastEvt_tally : (lastEvt b f st s).tally = s.tally := by obtain ⟨_, _, _, h⟩ := lastEvt_only b f st s; rw [h]
@[simp] theorem lastEvt_trust : (lastEvt b f st s).trust = s.trust := by obtain ⟨_, _, _, h⟩ := lastEvt_only b f st s; rw [h]
@[simp] theorem lastEvt_rely : (lastEvt b f st s).rely = s.rely := by obtain ⟨_, _, _, h⟩ := lastEvt_only b f st s; rw [h]
@[simp] theorem lastEvt_power : (lastEvt b f st s).power = s.power := by obtain ⟨_, _, _, h⟩ := lastEvt_only b f st s; rw [h]
@[simp] theorem lastEvt_latches : (lastEvt b f st s).latches = s.latches := by obtain ⟨_, _, _, h⟩ := lastEvt_only b f st s; rw [h]
@[simp] theorem lastEvt_selects : (lastEvt b f st s).selects = s.selects := by obtain ⟨_, _, _, h⟩ := lastEvt_only b f st s; rw [h]
@[simp] theorem lastEvt_readout : (lastEvt b f st s).readout = s.readout := by obtain ⟨_, _, _, h⟩ := lastEvt_only b f st s; rw [h]
@[simp] theorem lastEvt_fullDebug : (lastEvt b f st s).fullDebug = s.fullDebug := by obtain ⟨_, _, _, h⟩ := lastEvt_only b f st s; rw [h]
@[simp] theorem lastEvt_hbmPoison : (lastEvt b f st s).hbmPoison = s.hbmPoison := by obtain ⟨_, _, _, h⟩ := lastEvt_only b f st s; rw [h]
@[simp] theorem lastEvt_rsvPoison : (lastEvt b f st s).rsvPoison = s.rsvPoison := by obtain ⟨_, _, _, h⟩ := lastEvt_only b f st s; rw [h]
@[simp] theorem lastEvt_rsvDisabled : (lastEvt b f st s).rsvDisabled = s.rsvDisabled := by obtain ⟨_, _, _, h⟩ := lastEvt_only b f st s; rw [h]

end

section

variable (b q o : Nat) (w : Bool) (k : Nat) (s : State)

@[simp] theorem countErr_counter : (countErr b q o w k s).counter = s.counter := by obtain ⟨_, _, _, h⟩ := countErr_only b q o w k s; rw [h]
@[simp] theorem countErr_epoch : (countErr b q o w k s).epoch = s.epoch := by obtain ⟨_, _, _, h⟩ := countErr_only b q o w k s; rw [h]
@[simp] theorem countErr_pending : (countErr b q o w k s).pending = s.pending := by obtain ⟨_, _, _, h⟩ := countErr_only b q o w k s; rw [h]
@[simp] theorem countErr_hbm : (countErr b q o w k s).hbm = s.hbm := by obtain ⟨_, _, _, h⟩ := countErr_only b q o w k s; rw [h]
@[simp] theorem countErr_spad : (countErr b q o w k s).spad = s.spad := by obtain ⟨_, _, _, h⟩ := countErr_only b q o w k s; rw [h]
@[simp] theorem countErr_amap : (countErr b q o w k s).amap = s.amap := by obtain ⟨_, _, _, h⟩ := countErr_only b q o w k s; rw [h]
@[simp] theorem countErr_doubled : (countErr b q o w k s).doubled = s.doubled := by obtain ⟨_, _, _, h⟩ := countErr_only b q o w k s; rw [h]
@[simp] theorem countErr_acres : (countErr b q o w k s).acres = s.acres := by obtain ⟨_, _, _, h⟩ := countErr_only b q o w k s; rw [h]
@[simp] theorem countErr_gates : (countErr b q o w k s).gates = s.gates := by obtain ⟨_, _, _, h⟩ := countErr_only b q o w k s; rw [h]
@[simp] theorem countErr_records : (countErr b q o w k s).records = s.records := by obtain ⟨_, _, _, h⟩ := countErr_only b q o w k s; rw [h]
@[simp] theorem countErr_images : (countErr b q o w k s).images = s.images := by obtain ⟨_, _, _, h⟩ := countErr_only b q o w k s; rw [h]
@[simp] theorem countErr_cist : (countErr b q o w k s).cist = s.cist := by obtain ⟨_, _, _, h⟩ := countErr_only b q o w k s; rw [h]
@[simp] theorem countErr_openCmds : (countErr b q o w k s).openCmds = s.openCmds := by obtain ⟨_, _, _, h⟩ := countErr_only b q o w k s; rw [h]
@[simp] theorem countErr_hostCmds : (countErr b q o w k s).hostCmds = s.hostCmds := by obtain ⟨_, _, _, h⟩ := countErr_only b q o w k s; rw [h]
@[simp] theorem countErr_qps : (countErr b q o w k s).qps = s.qps := by obtain ⟨_, _, _, h⟩ := countErr_only b q o w k s; rw [h]
@[simp] theorem countErr_ledq : (countErr b q o w k s).ledq = s.ledq := by obtain ⟨_, _, _, h⟩ := countErr_only b q o w k s; rw [h]
@[simp] theorem countErr_holds : (countErr b q o w k s).holds = s.holds := by obtain ⟨_, _, _, h⟩ := countErr_only b q o w k s; rw [h]
@[simp] theorem countErr_pages : (countErr b q o w k s).pages = s.pages := by obtain ⟨_, _, _, h⟩ := countErr_only b q o w k s; rw [h]
@[simp] theorem countErr_chans : (countErr b q o w k s).chans = s.chans := by obtain ⟨_, _, _, h⟩ := countErr_only b q o w k s; rw [h]
@[simp] theorem countErr_ide : (countErr b q o w k s).ide = s.ide := by obtain ⟨_, _, _, h⟩ := countErr_only b q o w k s; rw [h]
@[simp] theorem countErr_swaps : (countErr b q o w k s).swaps = s.swaps := by obtain ⟨_, _, _, h⟩ := countErr_only b q o w k s; rw [h]
@[simp] theorem countErr_wakeQ : (countErr b q o w k s).wakeQ = s.wakeQ := by obtain ⟨_, _, _, h⟩ := countErr_only b q o w k s; rw [h]
@[simp] theorem countErr_testQ : (countErr b q o w k s).testQ = s.testQ := by obtain ⟨_, _, _, h⟩ := countErr_only b q o w k s; rw [h]
@[simp] theorem countErr_testing : (countErr b q o w k s).testing = s.testing := by obtain ⟨_, _, _, h⟩ := countErr_only b q o w k s; rw [h]
@[simp] theorem countErr_eng : (countErr b q o w k s).eng = s.eng := by obtain ⟨_, _, _, h⟩ := countErr_only b q o w k s; rw [h]
@[simp] theorem countErr_ring : (countErr b q o w k s).ring = s.ring := by obtain ⟨_, _, _, h⟩ := countErr_only b q o w k s; rw [h]
@[simp] theorem countErr_ditch : (countErr b q o w k s).ditch = s.ditch := by obtain ⟨_, _, _, h⟩ := countErr_only b q o w k s; rw [h]
@[simp] theorem countErr_tally : (countErr b q o w k s).tally = s.tally := by obtain ⟨_, _, _, h⟩ := countErr_only b q o w k s; rw [h]
@[simp] theorem countErr_trust : (countErr b q o w k s).trust = s.trust := by obtain ⟨_, _, _, h⟩ := countErr_only b q o w k s; rw [h]
@[simp] theorem countErr_rely : (countErr b q o w k s).rely = s.rely := by obtain ⟨_, _, _, h⟩ := countErr_only b q o w k s; rw [h]
@[simp] theorem countErr_power : (countErr b q o w k s).power = s.power := by obtain ⟨_, _, _, h⟩ := countErr_only b q o w k s; rw [h]
@[simp] theorem countErr_latches : (countErr b q o w k s).latches = s.latches := by obtain ⟨_, _, _, h⟩ := countErr_only b q o w k s; rw [h]
@[simp] theorem countErr_selects : (countErr b q o w k s).selects = s.selects := by obtain ⟨_, _, _, h⟩ := countErr_only b q o w k s; rw [h]
@[simp] theorem countErr_readout : (countErr b q o w k s).readout = s.readout := by obtain ⟨_, _, _, h⟩ := countErr_only b q o w k s; rw [h]
@[simp] theorem countErr_fullDebug : (countErr b q o w k s).fullDebug = s.fullDebug := by obtain ⟨_, _, _, h⟩ := countErr_only b q o w k s; rw [h]
@[simp] theorem countErr_hbmPoison : (countErr b q o w k s).hbmPoison = s.hbmPoison := by obtain ⟨_, _, _, h⟩ := countErr_only b q o w k s; rw [h]
@[simp] theorem countErr_rsvPoison : (countErr b q o w k s).rsvPoison = s.rsvPoison := by obtain ⟨_, _, _, h⟩ := countErr_only b q o w k s; rw [h]
@[simp] theorem countErr_rsvDisabled : (countErr b q o w k s).rsvDisabled = s.rsvDisabled := by obtain ⟨_, _, _, h⟩ := countErr_only b q o w k s; rw [h]

end

section

variable (n : Nat) (s : State)

@[simp] theorem setLevel_counter : (setLevel n s).counter = s.counter := by obtain ⟨_, _, _, h⟩ := setLevel_only n s; rw [h]
@[simp] theorem setLevel_epoch : (setLevel n s).epoch = s.epoch := by obtain ⟨_, _, _, h⟩ := setLevel_only n s; rw [h]
@[simp] theorem setLevel_pending : (setLevel n s).pending = s.pending := by obtain ⟨_, _, _, h⟩ := setLevel_only n s; rw [h]
@[simp] theorem setLevel_hbm : (setLevel n s).hbm = s.hbm := by obtain ⟨_, _, _, h⟩ := setLevel_only n s; rw [h]
@[simp] theorem setLevel_spad : (setLevel n s).spad = s.spad := by obtain ⟨_, _, _, h⟩ := setLevel_only n s; rw [h]
@[simp] theorem setLevel_amap : (setLevel n s).amap = s.amap := by obtain ⟨_, _, _, h⟩ := setLevel_only n s; rw [h]
@[simp] theorem setLevel_doubled : (setLevel n s).doubled = s.doubled := by obtain ⟨_, _, _, h⟩ := setLevel_only n s; rw [h]
@[simp] theorem setLevel_acres : (setLevel n s).acres = s.acres := by obtain ⟨_, _, _, h⟩ := setLevel_only n s; rw [h]
@[simp] theorem setLevel_gates : (setLevel n s).gates = s.gates := by obtain ⟨_, _, _, h⟩ := setLevel_only n s; rw [h]
@[simp] theorem setLevel_records : (setLevel n s).records = s.records := by obtain ⟨_, _, _, h⟩ := setLevel_only n s; rw [h]
@[simp] theorem setLevel_images : (setLevel n s).images = s.images := by obtain ⟨_, _, _, h⟩ := setLevel_only n s; rw [h]
@[simp] theorem setLevel_cist : (setLevel n s).cist = s.cist := by obtain ⟨_, _, _, h⟩ := setLevel_only n s; rw [h]
@[simp] theorem setLevel_openCmds : (setLevel n s).openCmds = s.openCmds := by obtain ⟨_, _, _, h⟩ := setLevel_only n s; rw [h]
@[simp] theorem setLevel_hostCmds : (setLevel n s).hostCmds = s.hostCmds := by obtain ⟨_, _, _, h⟩ := setLevel_only n s; rw [h]
@[simp] theorem setLevel_qps : (setLevel n s).qps = s.qps := by obtain ⟨_, _, _, h⟩ := setLevel_only n s; rw [h]
@[simp] theorem setLevel_ledq : (setLevel n s).ledq = s.ledq := by obtain ⟨_, _, _, h⟩ := setLevel_only n s; rw [h]
@[simp] theorem setLevel_holds : (setLevel n s).holds = s.holds := by obtain ⟨_, _, _, h⟩ := setLevel_only n s; rw [h]
@[simp] theorem setLevel_pages : (setLevel n s).pages = s.pages := by obtain ⟨_, _, _, h⟩ := setLevel_only n s; rw [h]
@[simp] theorem setLevel_chans : (setLevel n s).chans = s.chans := by obtain ⟨_, _, _, h⟩ := setLevel_only n s; rw [h]
@[simp] theorem setLevel_ide : (setLevel n s).ide = s.ide := by obtain ⟨_, _, _, h⟩ := setLevel_only n s; rw [h]
@[simp] theorem setLevel_swaps : (setLevel n s).swaps = s.swaps := by obtain ⟨_, _, _, h⟩ := setLevel_only n s; rw [h]
@[simp] theorem setLevel_wakeQ : (setLevel n s).wakeQ = s.wakeQ := by obtain ⟨_, _, _, h⟩ := setLevel_only n s; rw [h]
@[simp] theorem setLevel_testQ : (setLevel n s).testQ = s.testQ := by obtain ⟨_, _, _, h⟩ := setLevel_only n s; rw [h]
@[simp] theorem setLevel_testing : (setLevel n s).testing = s.testing := by obtain ⟨_, _, _, h⟩ := setLevel_only n s; rw [h]
@[simp] theorem setLevel_eng : (setLevel n s).eng = s.eng := by obtain ⟨_, _, _, h⟩ := setLevel_only n s; rw [h]
@[simp] theorem setLevel_ring : (setLevel n s).ring = s.ring := by obtain ⟨_, _, _, h⟩ := setLevel_only n s; rw [h]
@[simp] theorem setLevel_ditch : (setLevel n s).ditch = s.ditch := by obtain ⟨_, _, _, h⟩ := setLevel_only n s; rw [h]
@[simp] theorem setLevel_tally : (setLevel n s).tally = s.tally := by obtain ⟨_, _, _, h⟩ := setLevel_only n s; rw [h]
@[simp] theorem setLevel_trust : (setLevel n s).trust = s.trust := by obtain ⟨_, _, _, h⟩ := setLevel_only n s; rw [h]
@[simp] theorem setLevel_rely : (setLevel n s).rely = s.rely := by obtain ⟨_, _, _, h⟩ := setLevel_only n s; rw [h]
@[simp] theorem setLevel_power : (setLevel n s).power = s.power := by obtain ⟨_, _, _, h⟩ := setLevel_only n s; rw [h]
@[simp] theorem setLevel_latches : (setLevel n s).latches = s.latches := by obtain ⟨_, _, _, h⟩ := setLevel_only n s; rw [h]
@[simp] theorem setLevel_selects : (setLevel n s).selects = s.selects := by obtain ⟨_, _, _, h⟩ := setLevel_only n s; rw [h]
@[simp] theorem setLevel_readout : (setLevel n s).readout = s.readout := by obtain ⟨_, _, _, h⟩ := setLevel_only n s; rw [h]
@[simp] theorem setLevel_fullDebug : (setLevel n s).fullDebug = s.fullDebug := by obtain ⟨_, _, _, h⟩ := setLevel_only n s; rw [h]
@[simp] theorem setLevel_hbmPoison : (setLevel n s).hbmPoison = s.hbmPoison := by obtain ⟨_, _, _, h⟩ := setLevel_only n s; rw [h]
@[simp] theorem setLevel_rsvPoison : (setLevel n s).rsvPoison = s.rsvPoison := by obtain ⟨_, _, _, h⟩ := setLevel_only n s; rw [h]
@[simp] theorem setLevel_rsvDisabled : (setLevel n s).rsvDisabled = s.rsvDisabled := by obtain ⟨_, _, _, h⟩ := setLevel_only n s; rw [h]

end

section

variable (b : Nat) (f : Fld) (n : Nat) (s : State)

@[simp] theorem bumpF_counter : (bumpF b f n s).counter = s.counter := by obtain ⟨_, _, _, h⟩ := bumpF_only b f n s; rw [h]
@[simp] theorem bumpF_epoch : (bumpF b f n s).epoch = s.epoch := by obtain ⟨_, _, _, h⟩ := bumpF_only b f n s; rw [h]
@[simp] theorem bumpF_pending : (bumpF b f n s).pending = s.pending := by obtain ⟨_, _, _, h⟩ := bumpF_only b f n s; rw [h]
@[simp] theorem bumpF_hbm : (bumpF b f n s).hbm = s.hbm := by obtain ⟨_, _, _, h⟩ := bumpF_only b f n s; rw [h]
@[simp] theorem bumpF_spad : (bumpF b f n s).spad = s.spad := by obtain ⟨_, _, _, h⟩ := bumpF_only b f n s; rw [h]
@[simp] theorem bumpF_amap : (bumpF b f n s).amap = s.amap := by obtain ⟨_, _, _, h⟩ := bumpF_only b f n s; rw [h]
@[simp] theorem bumpF_doubled : (bumpF b f n s).doubled = s.doubled := by obtain ⟨_, _, _, h⟩ := bumpF_only b f n s; rw [h]
@[simp] theorem bumpF_acres : (bumpF b f n s).acres = s.acres := by obtain ⟨_, _, _, h⟩ := bumpF_only b f n s; rw [h]
@[simp] theorem bumpF_gates : (bumpF b f n s).gates = s.gates := by obtain ⟨_, _, _, h⟩ := bumpF_only b f n s; rw [h]
@[simp] theorem bumpF_records : (bumpF b f n s).records = s.records := by obtain ⟨_, _, _, h⟩ := bumpF_only b f n s; rw [h]
@[simp] theorem bumpF_images : (bumpF b f n s).images = s.images := by obtain ⟨_, _, _, h⟩ := bumpF_only b f n s; rw [h]
@[simp] theorem bumpF_cist : (bumpF b f n s).cist = s.cist := by obtain ⟨_, _, _, h⟩ := bumpF_only b f n s; rw [h]
@[simp] theorem bumpF_openCmds : (bumpF b f n s).openCmds = s.openCmds := by obtain ⟨_, _, _, h⟩ := bumpF_only b f n s; rw [h]
@[simp] theorem bumpF_hostCmds : (bumpF b f n s).hostCmds = s.hostCmds := by obtain ⟨_, _, _, h⟩ := bumpF_only b f n s; rw [h]
@[simp] theorem bumpF_qps : (bumpF b f n s).qps = s.qps := by obtain ⟨_, _, _, h⟩ := bumpF_only b f n s; rw [h]
@[simp] theorem bumpF_ledq : (bumpF b f n s).ledq = s.ledq := by obtain ⟨_, _, _, h⟩ := bumpF_only b f n s; rw [h]
@[simp] theorem bumpF_holds : (bumpF b f n s).holds = s.holds := by obtain ⟨_, _, _, h⟩ := bumpF_only b f n s; rw [h]
@[simp] theorem bumpF_pages : (bumpF b f n s).pages = s.pages := by obtain ⟨_, _, _, h⟩ := bumpF_only b f n s; rw [h]
@[simp] theorem bumpF_chans : (bumpF b f n s).chans = s.chans := by obtain ⟨_, _, _, h⟩ := bumpF_only b f n s; rw [h]
@[simp] theorem bumpF_ide : (bumpF b f n s).ide = s.ide := by obtain ⟨_, _, _, h⟩ := bumpF_only b f n s; rw [h]
@[simp] theorem bumpF_swaps : (bumpF b f n s).swaps = s.swaps := by obtain ⟨_, _, _, h⟩ := bumpF_only b f n s; rw [h]
@[simp] theorem bumpF_wakeQ : (bumpF b f n s).wakeQ = s.wakeQ := by obtain ⟨_, _, _, h⟩ := bumpF_only b f n s; rw [h]
@[simp] theorem bumpF_testQ : (bumpF b f n s).testQ = s.testQ := by obtain ⟨_, _, _, h⟩ := bumpF_only b f n s; rw [h]
@[simp] theorem bumpF_testing : (bumpF b f n s).testing = s.testing := by obtain ⟨_, _, _, h⟩ := bumpF_only b f n s; rw [h]
@[simp] theorem bumpF_eng : (bumpF b f n s).eng = s.eng := by obtain ⟨_, _, _, h⟩ := bumpF_only b f n s; rw [h]
@[simp] theorem bumpF_ring : (bumpF b f n s).ring = s.ring := by obtain ⟨_, _, _, h⟩ := bumpF_only b f n s; rw [h]
@[simp] theorem bumpF_ditch : (bumpF b f n s).ditch = s.ditch := by obtain ⟨_, _, _, h⟩ := bumpF_only b f n s; rw [h]
@[simp] theorem bumpF_tally : (bumpF b f n s).tally = s.tally := by obtain ⟨_, _, _, h⟩ := bumpF_only b f n s; rw [h]
@[simp] theorem bumpF_trust : (bumpF b f n s).trust = s.trust := by obtain ⟨_, _, _, h⟩ := bumpF_only b f n s; rw [h]
@[simp] theorem bumpF_rely : (bumpF b f n s).rely = s.rely := by obtain ⟨_, _, _, h⟩ := bumpF_only b f n s; rw [h]
@[simp] theorem bumpF_power : (bumpF b f n s).power = s.power := by obtain ⟨_, _, _, h⟩ := bumpF_only b f n s; rw [h]
@[simp] theorem bumpF_latches : (bumpF b f n s).latches = s.latches := by obtain ⟨_, _, _, h⟩ := bumpF_only b f n s; rw [h]
@[simp] theorem bumpF_selects : (bumpF b f n s).selects = s.selects := by obtain ⟨_, _, _, h⟩ := bumpF_only b f n s; rw [h]
@[simp] theorem bumpF_readout : (bumpF b f n s).readout = s.readout := by obtain ⟨_, _, _, h⟩ := bumpF_only b f n s; rw [h]
@[simp] theorem bumpF_fullDebug : (bumpF b f n s).fullDebug = s.fullDebug := by obtain ⟨_, _, _, h⟩ := bumpF_only b f n s; rw [h]
@[simp] theorem bumpF_hbmPoison : (bumpF b f n s).hbmPoison = s.hbmPoison := by obtain ⟨_, _, _, h⟩ := bumpF_only b f n s; rw [h]
@[simp] theorem bumpF_rsvPoison : (bumpF b f n s).rsvPoison = s.rsvPoison := by obtain ⟨_, _, _, h⟩ := bumpF_only b f n s; rw [h]
@[simp] theorem bumpF_rsvDisabled : (bumpF b f n s).rsvDisabled = s.rsvDisabled := by obtain ⟨_, _, _, h⟩ := bumpF_only b f n s; rw [h]

end

section

variable (b o n : Nat) (s : State)

@[simp] theorem bumpPair_counter : (bumpPair b o n s).counter = s.counter := by obtain ⟨_, _, _, h⟩ := bumpPair_only b o n s; rw [h]
@[simp] theorem bumpPair_epoch : (bumpPair b o n s).epoch = s.epoch := by obtain ⟨_, _, _, h⟩ := bumpPair_only b o n s; rw [h]
@[simp] theorem bumpPair_pending : (bumpPair b o n s).pending = s.pending := by obtain ⟨_, _, _, h⟩ := bumpPair_only b o n s; rw [h]
@[simp] theorem bumpPair_hbm : (bumpPair b o n s).hbm = s.hbm := by obtain ⟨_, _, _, h⟩ := bumpPair_only b o n s; rw [h]
@[simp] theorem bumpPair_spad : (bumpPair b o n s).spad = s.spad := by obtain ⟨_, _, _, h⟩ := bumpPair_only b o n s; rw [h]
@[simp] theorem bumpPair_amap : (bumpPair b o n s).amap = s.amap := by obtain ⟨_, _, _, h⟩ := bumpPair_only b o n s; rw [h]
@[simp] theorem bumpPair_doubled : (bumpPair b o n s).doubled = s.doubled := by obtain ⟨_, _, _, h⟩ := bumpPair_only b o n s; rw [h]
@[simp] theorem bumpPair_acres : (bumpPair b o n s).acres = s.acres := by obtain ⟨_, _, _, h⟩ := bumpPair_only b o n s; rw [h]
@[simp] theorem bumpPair_gates : (bumpPair b o n s).gates = s.gates := by obtain ⟨_, _, _, h⟩ := bumpPair_only b o n s; rw [h]
@[simp] theorem bumpPair_records : (bumpPair b o n s).records = s.records := by obtain ⟨_, _, _, h⟩ := bumpPair_only b o n s; rw [h]
@[simp] theorem bumpPair_images : (bumpPair b o n s).images = s.images := by obtain ⟨_, _, _, h⟩ := bumpPair_only b o n s; rw [h]
@[simp] theorem bumpPair_cist : (bumpPair b o n s).cist = s.cist := by obtain ⟨_, _, _, h⟩ := bumpPair_only b o n s; rw [h]
@[simp] theorem bumpPair_openCmds : (bumpPair b o n s).openCmds = s.openCmds := by obtain ⟨_, _, _, h⟩ := bumpPair_only b o n s; rw [h]
@[simp] theorem bumpPair_hostCmds : (bumpPair b o n s).hostCmds = s.hostCmds := by obtain ⟨_, _, _, h⟩ := bumpPair_only b o n s; rw [h]
@[simp] theorem bumpPair_qps : (bumpPair b o n s).qps = s.qps := by obtain ⟨_, _, _, h⟩ := bumpPair_only b o n s; rw [h]
@[simp] theorem bumpPair_ledq : (bumpPair b o n s).ledq = s.ledq := by obtain ⟨_, _, _, h⟩ := bumpPair_only b o n s; rw [h]
@[simp] theorem bumpPair_holds : (bumpPair b o n s).holds = s.holds := by obtain ⟨_, _, _, h⟩ := bumpPair_only b o n s; rw [h]
@[simp] theorem bumpPair_pages : (bumpPair b o n s).pages = s.pages := by obtain ⟨_, _, _, h⟩ := bumpPair_only b o n s; rw [h]
@[simp] theorem bumpPair_chans : (bumpPair b o n s).chans = s.chans := by obtain ⟨_, _, _, h⟩ := bumpPair_only b o n s; rw [h]
@[simp] theorem bumpPair_ide : (bumpPair b o n s).ide = s.ide := by obtain ⟨_, _, _, h⟩ := bumpPair_only b o n s; rw [h]
@[simp] theorem bumpPair_swaps : (bumpPair b o n s).swaps = s.swaps := by obtain ⟨_, _, _, h⟩ := bumpPair_only b o n s; rw [h]
@[simp] theorem bumpPair_wakeQ : (bumpPair b o n s).wakeQ = s.wakeQ := by obtain ⟨_, _, _, h⟩ := bumpPair_only b o n s; rw [h]
@[simp] theorem bumpPair_testQ : (bumpPair b o n s).testQ = s.testQ := by obtain ⟨_, _, _, h⟩ := bumpPair_only b o n s; rw [h]
@[simp] theorem bumpPair_testing : (bumpPair b o n s).testing = s.testing := by obtain ⟨_, _, _, h⟩ := bumpPair_only b o n s; rw [h]
@[simp] theorem bumpPair_eng : (bumpPair b o n s).eng = s.eng := by obtain ⟨_, _, _, h⟩ := bumpPair_only b o n s; rw [h]
@[simp] theorem bumpPair_ring : (bumpPair b o n s).ring = s.ring := by obtain ⟨_, _, _, h⟩ := bumpPair_only b o n s; rw [h]
@[simp] theorem bumpPair_ditch : (bumpPair b o n s).ditch = s.ditch := by obtain ⟨_, _, _, h⟩ := bumpPair_only b o n s; rw [h]
@[simp] theorem bumpPair_tally : (bumpPair b o n s).tally = s.tally := by obtain ⟨_, _, _, h⟩ := bumpPair_only b o n s; rw [h]
@[simp] theorem bumpPair_trust : (bumpPair b o n s).trust = s.trust := by obtain ⟨_, _, _, h⟩ := bumpPair_only b o n s; rw [h]
@[simp] theorem bumpPair_rely : (bumpPair b o n s).rely = s.rely := by obtain ⟨_, _, _, h⟩ := bumpPair_only b o n s; rw [h]
@[simp] theorem bumpPair_power : (bumpPair b o n s).power = s.power := by obtain ⟨_, _, _, h⟩ := bumpPair_only b o n s; rw [h]
@[simp] theorem bumpPair_latches : (bumpPair b o n s).latches = s.latches := by obtain ⟨_, _, _, h⟩ := bumpPair_only b o n s; rw [h]
@[simp] theorem bumpPair_selects : (bumpPair b o n s).selects = s.selects := by obtain ⟨_, _, _, h⟩ := bumpPair_only b o n s; rw [h]
@[simp] theorem bumpPair_readout : (bumpPair b o n s).readout = s.readout := by obtain ⟨_, _, _, h⟩ := bumpPair_only b o n s; rw [h]
@[simp] theorem bumpPair_fullDebug : (bumpPair b o n s).fullDebug = s.fullDebug := by obtain ⟨_, _, _, h⟩ := bumpPair_only b o n s; rw [h]
@[simp] theorem bumpPair_hbmPoison : (bumpPair b o n s).hbmPoison = s.hbmPoison := by obtain ⟨_, _, _, h⟩ := bumpPair_only b o n s; rw [h]
@[simp] theorem bumpPair_rsvPoison : (bumpPair b o n s).rsvPoison = s.rsvPoison := by obtain ⟨_, _, _, h⟩ := bumpPair_only b o n s; rw [h]
@[simp] theorem bumpPair_rsvDisabled : (bumpPair b o n s).rsvDisabled = s.rsvDisabled := by obtain ⟨_, _, _, h⟩ := bumpPair_only b o n s; rw [h]

end

/-! ### The registers that they may write -/

theorem regGet_signalVec (h v : Nat) (s : State) (a : Nat) : regGet (signalVec h v s) a = regGet s a := by
  unfold signalVec
  split <;> rfl

theorem regGet_hqIrqEdge (b n : Nat) (s : State) (a : Nat) : regGet (hqIrqEdge b n s) a = regGet s a := by
  unfold hqIrqEdge
  split
  · unfold whenB
    split
    · exact regGet_signalVec _ _ _ _
    · rfl
  · rfl

/-- Raising a source writes the block's IRQ_STAT alone. -/
theorem regGet_irqRaise (b n : Nat) (s : State) (a : Nat) (h : a ≠ b + 0x14) : regGet (irqRaise b n s) a = regGet s a := by
  unfold irqRaise
  split
  · rfl
  · rw [regGet_hqIrqEdge]
    exact regGet_setF_other _ _ _ _ _ h

theorem regGet_bumpPair (b o n : Nat) (s : State) (a : Nat) (h1 : a ≠ b + o) (h2 : a ≠ b + o + 4) : regGet (bumpPair b o n s) a = regGet s a := by
  unfold bumpPair
  rw [regGet_regSet_other _ _ _ _ h1, regGet_regSet_other _ _ _ _ h2]

/-- An event register's write changes it and IRQ_STAT. -/
theorem regGet_lastEvt (b : Nat) (f : Fld) (st : Word) (s : State) (a : Nat) (h1 : a ≠ b + 0x14) (h2 : a ≠ b + f.off) :
    regGet (lastEvt b f st s) a = regGet s a := by
  unfold lastEvt
  rw [regGet_irqRaise _ _ _ _ h1, regGet_setF_other _ _ _ _ _ h2]

/-- A counted access writes the block's error record and IRQ_STAT. -/
theorem regGet_countErr (b q o : Nat) (w : Bool) (k : Nat) (s : State) (a : Nat) (h : a ∉ [b + 0x14, b + 0x20, b + 0x24, b + 0x28]) :
    regGet (countErr b q o w k s) a = regGet s a := by
  simp only [List.mem_cons, List.mem_nil_iff, or_false, not_or] at h
  unfold countErr
  dsimp only
  rw [regGet_irqRaise _ _ _ _ h.1, regGet_regSet_other _ _ _ _ h.2.2.2]
  split
  · exact regGet_setF_other _ _ _ _ _ h.2.1
  · rw [regGet_regSet_other _ _ _ _ h.2.2.1]
    exact regGet_setF_other _ _ _ _ _ h.2.1

theorem regGet_alertFor (n : Nat) (s : State) (a : Nat) (h : a ≠ modB + 0x11C) : regGet (alertFor n s) a = regGet s a := by
  unfold alertFor
  split
  · exact regGet_setF_other _ _ _ _ _ h
  · rfl

/-- A log entry writes LOG_SEQ and IRQ_STAT of RLY, and MOD_ALERT. -/
theorem regGet_logEvent (st : Word) (ev ix : Nat) (d : List Nat) (s : State) (a : Nat)
    (h : a ∉ [rlyB + 0x14, rlyB + 0x120, rlyB + 0x124, modB + 0x11C]) : regGet (logEvent st ev ix d s) a = regGet s a := by
  simp only [List.mem_cons, List.mem_nil_iff, or_false, not_or] at h
  unfold logEvent
  rw [regGet_alertFor _ _ _ h.2.2.2, regGet_irqRaise _ _ _ _ h.1, regGet_bumpPair _ _ _ _ _ h.2.1 h.2.2.1]
  rfl

theorem getF_irqRaise (b n : Nat) (s : State) (c : Nat) (f : Fld) (h : c + f.off ≠ b + 0x14) : getF (irqRaise b n s) c f = getF s c f := by
  unfold getF; rw [regGet_irqRaise _ _ _ _ h]
theorem getF_lastEvt (b : Nat) (g : Fld) (st : Word) (s : State) (c : Nat) (f : Fld) (h1 : c + f.off ≠ b + 0x14) (h2 : c + f.off ≠ b + g.off) :
    getF (lastEvt b g st s) c f = getF s c f := by
  unfold getF; rw [regGet_lastEvt _ _ _ _ _ h1 h2]
theorem getF_logEvent (st : Word) (ev ix : Nat) (d : List Nat) (s : State) (c : Nat) (f : Fld)
    (h : c + f.off ∉ [rlyB + 0x14, rlyB + 0x120, rlyB + 0x124, modB + 0x11C]) : getF (logEvent st ev ix d s) c f = getF s c f := by
  unfold getF; rw [regGet_logEvent _ _ _ _ _ _ h]
theorem getF_logEv (ev cls ix : Nat) (d : List Nat) (s : State) (c : Nat) (f : Fld)
    (h : c + f.off ∉ [rlyB + 0x14, rlyB + 0x120, rlyB + 0x124, modB + 0x11C]) : getF (logEv ev cls ix d s) c f = getF s c f :=
  getF_logEvent _ _ _ _ _ _ _ h
theorem getF_logStatus (st : Word) (ix : Nat) (d : List Nat) (s : State) (c : Nat) (f : Fld)
    (h : c + f.off ∉ [rlyB + 0x14, rlyB + 0x120, rlyB + 0x124, modB + 0x11C]) : getF (logStatus st ix d s) c f = getF s c f :=
  getF_logEvent _ _ _ _ _ _ _ h

/-- The event log after an entry: the entry is at the front. -/
theorem logEvent_log (st : Word) (ev ix : Nat) (d : List Nat) (s : State) :
    (logEvent st ev ix d s).log = (logEntryOf st ev ix d s :: s.log).take 65536 := by
  unfold logEvent
  have h1 := (irqRaise_only rlyB 4 (bumpPair rlyB 0x120 1 (logAdd (logEntryOf st ev ix d s) s))).trans (alertFor_only (logSeverity (st.toNat % 256) ev) _)
  obtain ⟨_, _, _, h⟩ := h1
  rw [h]
  simp only [bumpPair, regSet_log, logAdd]

theorem logEv_log (ev cls ix : Nat) (d : List Nat) (s : State) :
    (logEv ev cls ix d s).log = (logEntryOf (statusWord 15 ix cls 0) ev ix d s :: s.log).take 65536   := by
  unfold logEv
  exact logEvent_log _ _ _ _ _
theorem logStatus_log (st : Word) (ix : Nat) (d : List Nat) (s : State) :
    (logStatus st ix d s).log = (logEntryOf st 0 ix d s :: s.log).take 65536 := by
  unfold logStatus
  exact logEvent_log _ _ _ _ _

end Sys2Proof.Laws
end

