-- ==== Sys2Proof/Laws/KeepsOps.lean ====
section
/-!
SUPPORT. What the operations of Machine/Ops.lean keep (see Keeps).
-/

namespace Sys2Proof.Laws

open Sys2Proof.Machine

theorem keeps_setF {w₀ : Bool} {s₀ u₀ : State} (base : Nat) (f : Fld) (v : Nat) (hk₀ : Keeps w₀ s₀ u₀) :
    Keeps w₀ s₀ (setF base f v u₀) := by
  unfold setF
  repeat' (first
    | with_reducible assumption
    | with_reducible apply keeps_regSet
    | (intro _ _ _)
    | (intro _ _)
    | intro _
    | dsimp only
    | dsimp only [id_eq]
    | split)

theorem keeps_setB {w₀ : Bool} {s₀ u₀ : State} (base : Nat) (f : Fld) (b : Bool) (hk₀ : Keeps w₀ s₀ u₀) :
    Keeps w₀ s₀ (setB base f b u₀) := by
  unfold setB
  repeat' (first
    | with_reducible assumption
    | with_reducible apply keeps_setF
    | with_reducible apply Keeps.ite
    | (intro _ _ _)
    | (intro _ _)
    | intro _
    | dsimp only
    | dsimp only [id_eq]
    | split)

theorem keeps_bumpF {w₀ : Bool} {s₀ u₀ : State} (base : Nat) (f : Fld) (n : Nat) (hk₀ : Keeps w₀ s₀ u₀) :
    Keeps w₀ s₀ (bumpF base f n u₀) := by
  unfold bumpF
  repeat' (first
    | with_reducible assumption
    | with_reducible apply keeps_setF
    | (intro _ _ _)
    | (intro _ _)
    | intro _
    | dsimp only
    | dsimp only [id_eq]
    | split)

theorem keeps_bumpPair {w₀ : Bool} {s₀ u₀ : State} (base : Nat) (off : Nat) (n : Nat) (hk₀ : Keeps w₀ s₀ u₀) :
    Keeps w₀ s₀ (bumpPair base off n u₀) := by
  unfold bumpPair
  repeat' (first
    | with_reducible assumption
    | with_reducible apply keeps_regSet
    | (intro _ _ _)
    | (intro _ _)
    | intro _
    | dsimp only
    | dsimp only [id_eq]
    | split)

theorem keeps_emit {w₀ : Bool} {s₀ u₀ : State} (e : Emit) (hk₀ : Keeps w₀ s₀ u₀) :
    Keeps w₀ s₀ (emit e u₀) := by
  unfold emit
  repeat' (first
    | with_reducible assumption
    | (intro _ _ _)
    | (intro _ _)
    | intro _
    | simp only [keeps_mk_iff]
    | dsimp only
    | dsimp only [id_eq]
    | split)

theorem keeps_signalVec {w₀ : Bool} {s₀ u₀ : State} (h : Nat) (v : Nat) (hk₀ : Keeps w₀ s₀ u₀) :
    Keeps w₀ s₀ (signalVec h v u₀) := by
  unfold signalVec
  repeat' (first
    | with_reducible assumption
    | with_reducible apply keeps_emit
    | with_reducible apply Keeps.ite
    | (intro _ _ _)
    | (intro _ _)
    | intro _
    | simp only [keeps_mk_iff]
    | dsimp only
    | dsimp only [id_eq]
    | split)

theorem keeps_hqIrqEdge {w₀ : Bool} {s₀ u₀ : State} (base : Nat) (before : Nat) (hk₀ : Keeps w₀ s₀ u₀) :
    Keeps w₀ s₀ (hqIrqEdge base before u₀) := by
  unfold hqIrqEdge
  repeat' (first
    | with_reducible assumption
    | with_reducible apply keeps_signalVec
    | with_reducible apply keeps_whenB
    | (intro _ _ _)
    | (intro _ _)
    | intro _
    | simp only [keeps_mk_iff]
    | dsimp only
    | dsimp only [id_eq]
    | split)

theorem keeps_irqRaise {w₀ : Bool} {s₀ u₀ : State} (base : Nat) (bits : Nat) (hk₀ : Keeps w₀ s₀ u₀) :
    Keeps w₀ s₀ (irqRaise base bits u₀) := by
  unfold irqRaise
  repeat' (first
    | with_reducible assumption
    | with_reducible apply keeps_hqIrqEdge
    | with_reducible apply keeps_setF
    | (intro _ _ _)
    | (intro _ _)
    | intro _
    | simp only [keeps_mk_iff]
    | dsimp only
    | dsimp only [id_eq]
    | split)

theorem keeps_logAdd {w₀ : Bool} {s₀ u₀ : State} (e : LogEntry) (hk₀ : Keeps w₀ s₀ u₀) :
    Keeps w₀ s₀ (logAdd e u₀) := by
  unfold logAdd
  repeat' (first
    | with_reducible assumption
    | with_reducible apply Keeps.ite
    | (intro _ _ _)
    | (intro _ _)
    | intro _
    | simp only [keeps_mk_iff]
    | dsimp only
    | dsimp only [id_eq]
    | split)

theorem keeps_alertFor {w₀ : Bool} {s₀ u₀ : State} (sev : Nat) (hk₀ : Keeps w₀ s₀ u₀) :
    Keeps w₀ s₀ (alertFor sev u₀) := by
  unfold alertFor
  repeat' (first
    | with_reducible assumption
    | with_reducible apply keeps_setF
    | with_reducible apply Keeps.ite
    | (intro _ _ _)
    | (intro _ _)
    | intro _
    | dsimp only
    | dsimp only [id_eq]
    | split)

theorem keeps_logEvent {w₀ : Bool} {s₀ u₀ : State} (status : Word) (event : Nat) (index : Nat) (detail : List Nat) (hk₀ : Keeps w₀ s₀ u₀) :
    Keeps w₀ s₀ (logEvent status event index detail u₀) := by
  unfold logEvent
  repeat' (first
    | with_reducible assumption
    | with_reducible apply keeps_alertFor
    | with_reducible apply keeps_bumpPair
    | with_reducible apply keeps_irqRaise
    | with_reducible apply keeps_logAdd
    | (intro _ _ _)
    | (intro _ _)
    | intro _
    | dsimp only
    | dsimp only [id_eq]
    | split)

theorem keeps_logStatus {w₀ : Bool} {s₀ u₀ : State} (status : Word) (index : Nat) (detail : List Nat) (hk₀ : Keeps w₀ s₀ u₀) :
    Keeps w₀ s₀ (logStatus status index detail u₀) := by
  unfold logStatus
  repeat' (first
    | with_reducible assumption
    | with_reducible apply keeps_logEvent
    | (intro _ _ _)
    | (intro _ _)
    | intro _
    | dsimp only
    | dsimp only [id_eq]
    | split)

theorem keeps_logEv {w₀ : Bool} {s₀ u₀ : State} (event : Nat) (cls : Nat) (index : Nat) (detail : List Nat) (hk₀ : Keeps w₀ s₀ u₀) :
    Keeps w₀ s₀ (logEv event cls index detail u₀) := by
  unfold logEv
  repeat' (first
    | with_reducible assumption
    | with_reducible apply keeps_logEvent
    | (intro _ _ _)
    | (intro _ _)
    | intro _
    | dsimp only
    | dsimp only [id_eq]
    | split)

theorem keeps_lastEvt {w₀ : Bool} {s₀ u₀ : State} (base : Nat) (f : Fld) (status : Word) (hk₀ : Keeps w₀ s₀ u₀) :
    Keeps w₀ s₀ (lastEvt base f status u₀) := by
  unfold lastEvt
  repeat' (first
    | with_reducible assumption
    | with_reducible apply keeps_irqRaise
    | with_reducible apply keeps_setF
    | (intro _ _ _)
    | (intro _ _)
    | intro _
    | dsimp only
    | dsimp only [id_eq]
    | split)

theorem keeps_setLevel {w₀ : Bool} {s₀ u₀ : State} (n : Nat) (hk₀ : Keeps w₀ s₀ u₀) :
    Keeps w₀ s₀ (setLevel n u₀) := by
  unfold setLevel
  repeat' (first
    | with_reducible assumption
    | with_reducible apply keeps_irqRaise
    | with_reducible apply keeps_setF
    | with_reducible apply Keeps.ite
    | (intro _ _ _)
    | (intro _ _)
    | intro _
    | dsimp only
    | dsimp only [id_eq]
    | split)

theorem keeps_idleExit {w₀ : Bool} {s₀ u₀ : State} (hk₀ : Keeps w₀ s₀ u₀) :
    Keeps w₀ s₀ (idleExit u₀) := by
  unfold idleExit
  repeat' (first
    | with_reducible assumption
    | with_reducible apply keeps_setLevel
    | with_reducible apply keeps_whenB
    | (intro _ _ _)
    | (intro _ _)
    | intro _
    | simp only [keeps_mk_iff]
    | dsimp only
    | dsimp only [id_eq]
    | split)

theorem keeps_nextFree {w₀ : Bool} {s₀ u₀ : State} (hk₀ : Keeps w₀ s₀ u₀) :
    Keeps w₀ s₀ (nextFree u₀).2 := by
  unfold nextFree
  repeat' (first
    | with_reducible assumption
    | (intro _ _ _)
    | (intro _ _)
    | intro _
    | simp only [keeps_mk_iff]
    | dsimp only
    | dsimp only [id_eq]
    | split)

theorem keeps_setAcre {w₀ : Bool} {s₀ u₀ : State} (g : Nat) (a : Acre) (hk₀ : Keeps w₀ s₀ u₀) :
    Keeps w₀ s₀ (setAcre g a u₀) := by
  unfold setAcre
  repeat' (first
    | with_reducible assumption
    | (intro _ _ _)
    | (intro _ _)
    | intro _
    | simp only [keeps_mk_iff]
    | dsimp only
    | dsimp only [id_eq]
    | split)

theorem keeps_modAcre {w₀ : Bool} {s₀ u₀ : State} (g : Nat) (f : Acre → Acre) (hk₀ : Keeps w₀ s₀ u₀) :
    Keeps w₀ s₀ (modAcre g f u₀) := by
  unfold modAcre
  repeat' (first
    | with_reducible assumption
    | with_reducible apply keeps_setAcre
    | (intro _ _ _)
    | (intro _ _)
    | intro _
    | dsimp only
    | dsimp only [id_eq]
    | split)

theorem keeps_wrLE {w₀ : Bool} {s₀ u₀ : State} (addr : Nat) (n : Nat) (v : Nat) (hk₀ : Keeps w₀ s₀ u₀) :
    Keeps w₀ s₀ (wrLE addr n v u₀) := by
  unfold wrLE
  repeat' (first
    | with_reducible assumption
    | with_reducible apply keeps_wrBytes
    | (intro _ _ _)
    | (intro _ _)
    | intro _
    | dsimp only
    | dsimp only [id_eq]
    | split)

end Sys2Proof.Laws
end

