-- ==== Sys2Proof/Laws/KeepsOperands.lean ====
section
/-!
SUPPORT. What the operations of Machine/Operands.lean keep (see Keeps).
-/

namespace Sys2Proof.Laws

open Sys2Proof.Machine

theorem keeps_wrElem {w₀ : Bool} {s₀ u₀ : State} (f : LFmt) (addr : Nat) (i : Nat) (v : Nat) (hk₀ : Keeps w₀ s₀ u₀) :
    Keeps w₀ s₀ (wrElem f addr i v u₀) := by
  unfold wrElem
  repeat' (first
    | with_reducible assumption
    | with_reducible apply keeps_wrByte
    | with_reducible apply keeps_wrLE
    | with_reducible apply Keeps.ite
    | (intro _ _ _)
    | (intro _ _)
    | intro _
    | simp only [keeps_mk_iff]
    | dsimp only
    | dsimp only [id_eq]
    | split)

theorem keeps_wrVecFrom {w₀ : Bool} {s₀ u₀ : State} (f : LFmt) (addr i : Nat) (vs : List Word) (hk₀ : Keeps w₀ s₀ u₀) :
    Keeps w₀ s₀ (wrVecFrom f addr i vs u₀) := by
  induction vs generalizing i u₀ with
  | nil =>
    rw [wrVecFrom]
    repeat' (first
    | with_reducible assumption
    | with_reducible apply keeps_wrElem
    | (intro _ _ _)
    | (intro _ _)
    | intro _
    | dsimp only
    | dsimp only [id_eq]
    | split)
  | cons a₀ l₀ ih =>
    rw [wrVecFrom]
    repeat' (first
    | with_reducible assumption
    | with_reducible apply ih
    | with_reducible apply keeps_wrElem
    | (intro _ _ _)
    | (intro _ _)
    | intro _
    | dsimp only
    | dsimp only [id_eq]
    | split)

theorem keeps_wrVec {w₀ : Bool} {s₀ u₀ : State} (f : LFmt) (addr : Nat) (vs : List Word) (hk₀ : Keeps w₀ s₀ u₀) :
    Keeps w₀ s₀ (wrVec f addr vs u₀) := by
  unfold wrVec
  repeat' (first
    | with_reducible assumption
    | with_reducible apply keeps_wrVecFrom
    | (intro _ _ _)
    | (intro _ _)
    | intro _
    | dsimp only
    | dsimp only [id_eq]
    | split)

theorem keeps_setGate {w₀ : Bool} {s₀ u₀ : State} (h : Nat) (ix : Nat) (slot : Nat) (g : Gate) (hk₀ : Keeps w₀ s₀ u₀) :
    Keeps w₀ s₀ (setGate h ix slot g u₀) := by
  unfold setGate
  repeat' (first
    | with_reducible assumption
    | (intro _ _ _)
    | (intro _ _)
    | intro _
    | simp only [keeps_mk_iff]
    | dsimp only
    | dsimp only [id_eq]
    | split)

theorem keeps_gateFill {w₀ : Bool} {s₀ u₀ : State} (h : Nat) (ix : Nat) (slot : Nat) (hk₀ : Keeps w₀ s₀ u₀) :
    Keeps w₀ s₀ (gateFill h ix slot u₀) := by
  unfold gateFill
  repeat' (first
    | with_reducible assumption
    | with_reducible apply keeps_setGate
    | with_reducible apply keeps_withSome
    | with_reducible apply Keeps.ite
    | (intro _ _ _)
    | (intro _ _)
    | intro _
    | simp only [keeps_mk_iff]
    | dsimp only
    | dsimp only [id_eq]
    | split)

theorem keeps_gateDrain {w₀ : Bool} {s₀ u₀ : State} (h : Nat) (ix : Nat) (slot : Nat) (hk₀ : Keeps w₀ s₀ u₀) :
    Keeps w₀ s₀ (gateDrain h ix slot u₀) := by
  unfold gateDrain
  repeat' (first
    | with_reducible assumption
    | with_reducible apply keeps_setGate
    | with_reducible apply Keeps.ite
    | (intro _ _ _)
    | (intro _ _)
    | intro _
    | dsimp only
    | dsimp only [id_eq]
    | split)

end Sys2Proof.Laws
end

