-- ==== Sys2Proof/Laws/KeepsMemory.lean ====
section
/-!
SUPPORT. What the operations of Machine/Memory.lean keep (see Keeps).
-/

namespace Sys2Proof.Laws

open Sys2Proof.Machine

theorem keeps_clearPoison {w₀ : Bool} {s₀ u₀ : State} (addr : Nat) (n : Nat) (hk₀ : Keeps w₀ s₀ u₀) :
    Keeps w₀ s₀ (clearPoison addr n u₀) := by
  unfold clearPoison
  repeat' (first
    | with_reducible assumption
    | with_reducible apply keeps_modAcre
    | (intro _ _ _)
    | (intro _ _)
    | intro _
    | simp only [keeps_mk_iff]
    | dsimp only
    | dsimp only [id_eq]
    | split)

theorem keeps_wrMem {w₀ : Bool} {s₀ u₀ : State} (addr : Nat) (bs : List Byte) (hk₀ : Keeps w₀ s₀ u₀) :
    Keeps w₀ s₀ (wrMem addr bs u₀) := by
  unfold wrMem
  repeat' (first
    | with_reducible assumption
    | with_reducible apply keeps_clearPoison
    | with_reducible apply keeps_wrBytes
    | (intro _ _ _)
    | (intro _ _)
    | intro _
    | dsimp only
    | dsimp only [id_eq]
    | split)

theorem keeps_traffic {w₀ : Bool} {s₀ u₀ : State} (die : Nat) (addr : Nat) (n : Nat) (wr : Bool) (act : Activity) (hk₀ : Keeps w₀ s₀ u₀) :
    Keeps w₀ s₀ (traffic die addr n wr act u₀).2 := by
  unfold traffic
  repeat' (first
    | with_reducible assumption
    | with_reducible apply keeps_bumpPair
    | with_reducible apply Keeps.ite
    | (intro _ _ _)
    | (intro _ _)
    | intro _
    | simp only [keeps_mk_iff]
    | dsimp only
    | dsimp only [id_eq]
    | split)

end Sys2Proof.Laws
end

