-- ==== Sys2Proof/Laws/KeepsCourse.lean ====
section
/-!
SUPPORT. What the operations of Machine/Course.lean keep (see Keeps).
-/

namespace Sys2Proof.Laws

open Sys2Proof.Machine

theorem keeps_setBasin {w₀ : Bool} {s₀ u₀ : State} (b : Nat) (v : Basin) (hk₀ : Keeps w₀ s₀ u₀) :
    Keeps w₀ s₀ (setBasin b v u₀) := by
  unfold setBasin
  repeat' (first
    | with_reducible assumption
    | (intro _ _ _)
    | (intro _ _)
    | intro _
    | simp only [keeps_mk_iff]
    | dsimp only
    | dsimp only [id_eq]
    | split)

theorem keeps_modBasin {w₀ : Bool} {s₀ u₀ : State} (b : Nat) (f : Basin → Basin) (hk₀ : Keeps w₀ s₀ u₀) :
    Keeps w₀ s₀ (modBasin b f u₀) := by
  unfold modBasin
  repeat' (first
    | with_reducible assumption
    | with_reducible apply keeps_setBasin
    | (intro _ _ _)
    | (intro _ _)
    | intro _
    | dsimp only
    | dsimp only [id_eq]
    | split)

theorem keeps_setPlot {w₀ : Bool} {s₀ u₀ : State} (p : Nat) (v : Plot) (hk₀ : Keeps w₀ s₀ u₀) :
    Keeps w₀ s₀ (setPlot p v u₀) := by
  unfold setPlot
  repeat' (first
    | with_reducible assumption
    | (intro _ _ _)
    | (intro _ _)
    | intro _
    | simp only [keeps_mk_iff]
    | dsimp only
    | dsimp only [id_eq]
    | split)

theorem keeps_modPlot {w₀ : Bool} {s₀ u₀ : State} (p : Nat) (f : Plot → Plot) (hk₀ : Keeps w₀ s₀ u₀) :
    Keeps w₀ s₀ (modPlot p f u₀) := by
  unfold modPlot
  repeat' (first
    | with_reducible assumption
    | with_reducible apply keeps_setPlot
    | (intro _ _ _)
    | (intro _ _)
    | intro _
    | dsimp only
    | dsimp only [id_eq]
    | split)

theorem keeps_sendRecord {w₀ : Bool} {s₀ u₀ : State} (r : CourseRec) (hk₀ : Keeps w₀ s₀ u₀) :
    Keeps w₀ s₀ (sendRecord r u₀) := by
  unfold sendRecord
  repeat' (first
    | with_reducible assumption
    | (intro _ _ _)
    | (intro _ _)
    | intro _
    | simp only [keeps_mk_iff]
    | dsimp only
    | dsimp only [id_eq]
    | split)

theorem keeps_breakChains {w₀ : Bool} {s₀ u₀ : State} (iss : Issue) (d : List Byte) (hk₀ : Keeps w₀ s₀ u₀) :
    Keeps w₀ s₀ (breakChains iss d u₀) := by
  unfold breakChains
  repeat' (first
    | with_reducible assumption
    | with_reducible apply Keeps.ite
    | (intro _ _ _)
    | (intro _ _)
    | intro _
    | simp only [keeps_mk_iff]
    | dsimp only
    | dsimp only [id_eq]
    | split)

theorem keeps_countIssue {w₀ : Bool} {s₀ u₀ : State} (hk₀ : Keeps w₀ s₀ u₀) :
    Keeps w₀ s₀ (countIssue u₀) := by
  unfold countIssue
  repeat' (first
    | with_reducible assumption
    | with_reducible apply keeps_bumpPair
    | with_reducible apply keeps_idleExit
    | (intro _ _ _)
    | (intro _ _)
    | intro _
    | dsimp only
    | dsimp only [id_eq]
    | split)

theorem keeps_refuseCourse {w₀ : Bool} {s₀ u₀ : State} (iss : Issue) (holding : Nat) (d : List Byte) (code : Nat) (hk₀ : Keeps w₀ s₀ u₀) :
    Keeps w₀ s₀ (refuseCourse iss holding d code u₀) := by
  unfold refuseCourse
  repeat' (first
    | with_reducible assumption
    | with_reducible apply keeps_breakChains
    | with_reducible apply keeps_bumpF
    | with_reducible apply keeps_irqRaise
    | with_reducible apply keeps_lastEvt
    | with_reducible apply keeps_logStatus
    | with_reducible apply keeps_sendRecord
    | with_reducible apply keeps_whenB
    | (intro _ _ _)
    | (intro _ _)
    | intro _
    | dsimp only
    | dsimp only [id_eq]
    | split)

theorem keeps_refuseUnknown {w₀ : Bool} {s₀ u₀ : State} (iss : Issue) (hk₀ : Keeps w₀ s₀ u₀) :
    Keeps w₀ s₀ (refuseUnknown iss u₀) := by
  unfold refuseUnknown
  repeat' (first
    | with_reducible assumption
    | with_reducible apply keeps_countIssue
    | with_reducible apply Keeps.ite
    | with_reducible apply keeps_lastEvt
    | with_reducible apply keeps_logStatus
    | with_reducible apply keeps_sendRecord
    | (intro _ _ _)
    | (intro _ _)
    | intro _
    | dsimp only
    | dsimp only [id_eq]
    | split)

theorem keeps_zeroCourse {w₀ : Bool} {s₀ u₀ : State} (iss : Issue) (holding : Nat) (d : List Byte) (hk₀ : Keeps w₀ s₀ u₀) :
    Keeps w₀ s₀ (zeroCourse iss holding d u₀) := by
  unfold zeroCourse
  repeat' (first
    | with_reducible assumption
    | with_reducible apply keeps_sendRecord
    | (intro _ _ _)
    | (intro _ _)
    | intro _
    | dsimp only
    | dsimp only [id_eq]
    | split)

theorem keeps_issueCourse {w₀ : Bool} {s₀ u₀ : State} (iss : Issue) (want : Image → List Byte → Bool) (k : Image → List Byte → List Nat → State → State) (h_k : ∀ (x0 : Image) (x1 : List Byte) (x2 : List Nat) (x3 : State), Keeps w₀ s₀ x3 → Keeps w₀ s₀ (k x0 x1 x2 x3)) (hk₀ : Keeps w₀ s₀ u₀) :
    Keeps w₀ s₀ (issueCourse iss want k u₀) := by
  unfold issueCourse
  repeat' (first
    | with_reducible assumption
    | with_reducible apply h_k
    | with_reducible apply keeps_countIssue
    | with_reducible apply keeps_refuseCourse
    | with_reducible apply keeps_refuseUnknown
    | with_reducible apply keeps_zeroCourse
    | with_reducible apply Keeps.ite
    | (intro _ _ _)
    | (intro _ _)
    | intro _
    | simp only [keeps_mk_iff]
    | dsimp only
    | dsimp only [id_eq]
    | split)

theorem keeps_bumpSerial {w₀ : Bool} {s₀ u₀ : State} (hk₀ : Keeps w₀ s₀ u₀) :
    Keeps w₀ s₀ (bumpSerial u₀) := by
  unfold bumpSerial
  repeat' (first
    | with_reducible assumption
    | (intro _ _ _)
    | (intro _ _)
    | intro _
    | simp only [keeps_mk_iff]
    | dsimp only
    | dsimp only [id_eq]
    | split)

theorem keeps_completeRun {w₀ : Bool} {s₀ u₀ : State} (g : Nat) (hk₀ : Keeps w₀ s₀ u₀) :
    Keeps w₀ s₀ (completeRun g u₀) := by
  unfold completeRun
  repeat' (first
    | with_reducible assumption
    | with_reducible apply keeps_bumpPair
    | with_reducible apply keeps_modAcre
    | with_reducible apply keeps_sendRecord
    | with_reducible apply keeps_withSome
    | with_reducible apply Keeps.ite
    | (intro _ _ _)
    | (intro _ _)
    | intro _
    | simp only [keeps_mk_iff]
    | dsimp only
    | dsimp only [id_eq]
    | split)

theorem keeps_reportFault {w₀ : Bool} {s₀ u₀ : State} (g : Nat) (code : Nat) (cls : Nat) (ix : Nat) (c : CourseRun) (hk₀ : Keeps w₀ s₀ u₀) :
    Keeps w₀ s₀ (reportFault g code cls ix c u₀) := by
  unfold reportFault
  repeat' (first
    | with_reducible assumption
    | with_reducible apply keeps_breakChains
    | with_reducible apply keeps_bumpF
    | with_reducible apply keeps_bumpPair
    | with_reducible apply keeps_irqRaise
    | with_reducible apply keeps_lastEvt
    | with_reducible apply keeps_logStatus
    | with_reducible apply keeps_sendRecord
    | with_reducible apply keeps_whenB
    | (intro _ _ _)
    | (intro _ _)
    | intro _
    | dsimp only
    | dsimp only [id_eq]
    | split)

theorem keeps_faultRun {w₀ : Bool} {s₀ u₀ : State} (g : Nat) (code : Nat) (cls : Nat) (ix : Nat) (hk₀ : Keeps w₀ s₀ u₀) :
    Keeps w₀ s₀ (faultRun g code cls ix u₀) := by
  unfold faultRun
  repeat' (first
    | with_reducible assumption
    | with_reducible apply keeps_modAcre
    | with_reducible apply keeps_reportFault
    | with_reducible apply keeps_withSome
    | (intro _ _ _)
    | (intro _ _)
    | intro _
    | simp only [keeps_mk_iff]
    | dsimp only
    | dsimp only [id_eq]
    | split)

theorem keeps_faultPend {w₀ : Bool} {s₀ u₀ : State} (g : Nat) (code : Nat) (cls : Nat) (ix : Nat) (hk₀ : Keeps w₀ s₀ u₀) :
    Keeps w₀ s₀ (faultPend g code cls ix u₀) := by
  unfold faultPend
  repeat' (first
    | with_reducible assumption
    | with_reducible apply keeps_modAcre
    | with_reducible apply keeps_reportFault
    | with_reducible apply keeps_withSome
    | (intro _ _ _)
    | (intro _ _)
    | intro _
    | simp only [keeps_mk_iff]
    | dsimp only
    | dsimp only [id_eq]
    | split)

theorem keeps_modRun {w₀ : Bool} {s₀ u₀ : State} (g : Nat) (f : CourseRun → CourseRun) (hk₀ : Keeps w₀ s₀ u₀) :
    Keeps w₀ s₀ (modRun g f u₀) := by
  unfold modRun
  repeat' (first
    | with_reducible assumption
    | with_reducible apply keeps_modAcre
    | (intro _ _ _)
    | (intro _ _)
    | intro _
    | simp only [keeps_mk_iff]
    | dsimp only
    | dsimp only [id_eq]
    | split)

end Sys2Proof.Laws
end

