-- ==== Sys2Proof/Laws/KeepsAccess.lean ====
section
/-!
SUPPORT. What the operations of Machine/Access.lean keep (see Keeps).
-/

namespace Sys2Proof.Laws

open Sys2Proof.Machine

theorem keeps_countErr {w₀ : Bool} {s₀ u₀ : State} (base : Nat) (req : Nat) (off : Nat) (wr : Bool) (kind : Nat) (hk₀ : Keeps w₀ s₀ u₀) :
    Keeps w₀ s₀ (countErr base req off wr kind u₀) := by
  unfold countErr
  repeat' (first
    | with_reducible assumption
    | with_reducible apply keeps_bumpF
    | with_reducible apply keeps_irqRaise
    | with_reducible apply keeps_regSet
    | with_reducible apply Keeps.ite
    | (intro _ _ _)
    | (intro _ _)
    | intro _
    | dsimp only
    | dsimp only [id_eq]
    | split)

theorem keeps_ownedWrite {w₀ : Bool} {s₀ u₀ : State} (p : Path) (base : Nat) (off : Nat) (f : State → State) (h_f : ∀ (x0 : State), Keeps w₀ s₀ x0 → Keeps w₀ s₀ (f x0)) (hk₀ : Keeps w₀ s₀ u₀) :
    Keeps w₀ s₀ (ownedWrite p base off f u₀) := by
  unfold ownedWrite
  repeat' (first
    | with_reducible assumption
    | with_reducible apply h_f
    | with_reducible apply keeps_countErr
    | (intro _ _ _)
    | (intro _ _)
    | intro _
    | simp only [keeps_mk_iff]
    | dsimp only
    | dsimp only [id_eq]
    | split)

theorem keeps_ideRefuse {w₀ : Bool} {s₀ u₀ : State} (h : Nat) (off : Nat) (wr : Bool) (hk₀ : Keeps w₀ s₀ u₀) :
    Keeps w₀ s₀ (ideRefuse h off wr u₀) := by
  unfold ideRefuse
  repeat' (first
    | with_reducible assumption
    | with_reducible apply keeps_countErr
    | with_reducible apply keeps_emit
    | with_reducible apply keeps_lastEvt
    | with_reducible apply keeps_logStatus
    | (intro _ _ _)
    | (intro _ _)
    | intro _
    | dsimp only
    | dsimp only [id_eq]
    | split)

theorem keeps_selSet {w₀ : Bool} {s₀ u₀ : State} (p : Path) (addr : Nat) (w : Word) (hk₀ : Keeps w₀ s₀ u₀) :
    Keeps w₀ s₀ (selSet p addr w u₀) := by
  unfold selSet
  repeat' (first
    | with_reducible assumption
    | (intro _ _ _)
    | (intro _ _)
    | intro _
    | simp only [keeps_mk_iff]
    | dsimp only
    | dsimp only [id_eq]
    | split)

end Sys2Proof.Laws
end

