-- ==== Sys2Proof/Laws/KeepsHost.lean ====
section
/-!
SUPPORT. What the operations of Machine/Host.lean keep (see Keeps).
-/

namespace Sys2Proof.Laws

open Sys2Proof.Machine

theorem keeps_setQP {w₀ : Bool} {s₀ u₀ : State} (h : Nat) (q : Nat) (v : QPSt) (hk₀ : Keeps w₀ s₀ u₀) :
    Keeps w₀ s₀ (setQP h q v u₀) := by
  unfold setQP
  repeat' (first
    | with_reducible assumption
    | (intro _ _ _)
    | (intro _ _)
    | intro _
    | simp only [keeps_mk_iff]
    | dsimp only
    | dsimp only [id_eq]
    | split)

theorem keeps_signalQP {w₀ : Bool} {s₀ u₀ : State} (h : Nat) (q : Nat) (hk₀ : Keeps w₀ s₀ u₀) :
    Keeps w₀ s₀ (signalQP h q u₀) := by
  unfold signalQP
  repeat' (first
    | with_reducible assumption
    | with_reducible apply keeps_setQP
    | with_reducible apply keeps_signalVec
    | with_reducible apply Keeps.ite
    | (intro _ _ _)
    | (intro _ _)
    | intro _
    | simp only [keeps_mk_iff]
    | dsimp only
    | dsimp only [id_eq]
    | split)

theorem keeps_writeCpl {w₀ : Bool} {s₀ u₀ : State} (h : Nat) (q : Nat) (e : Cpl) (hk₀ : Keeps w₀ s₀ u₀) :
    Keeps w₀ s₀ (writeCpl h q e u₀) := by
  unfold writeCpl
  repeat' (first
    | with_reducible assumption
    | with_reducible apply keeps_emit
    | with_reducible apply keeps_setQP
    | with_reducible apply keeps_signalQP
    | with_reducible apply Keeps.ite
    | (intro _ _ _)
    | (intro _ _)
    | intro _
    | simp only [keeps_mk_iff]
    | dsimp only
    | dsimp only [id_eq]
    | split)

theorem keeps_dropResponse {w₀ : Bool} {s₀ u₀ : State} (h : Nat) (hk₀ : Keeps w₀ s₀ u₀) :
    Keeps w₀ s₀ (dropResponse h u₀) := by
  unfold dropResponse
  repeat' (first
    | with_reducible assumption
    | with_reducible apply keeps_bumpF
    | with_reducible apply keeps_irqRaise
    | (intro _ _ _)
    | (intro _ _)
    | intro _
    | dsimp only
    | dsimp only [id_eq]
    | split)

theorem keeps_postCpl {w₀ : Bool} {s₀ u₀ : State} (h : Nat) (q : Nat) (e : Cpl) (hk₀ : Keeps w₀ s₀ u₀) :
    Keeps w₀ s₀ (postCpl h q e u₀) := by
  unfold postCpl
  repeat' (first
    | with_reducible assumption
    | with_reducible apply keeps_dropResponse
    | with_reducible apply keeps_writeCpl
    | with_reducible apply Keeps.ite
    | (intro _ _ _)
    | (intro _ _)
    | intro _
    | simp only [keeps_mk_iff]
    | dsimp only
    | dsimp only [id_eq]
    | split)

theorem keeps_noticeOwner {w₀ : Bool} {s₀ u₀ : State} (h : Nat) (st : Word) (hk₀ : Keeps w₀ s₀ u₀) :
    Keeps w₀ s₀ (noticeOwner h st u₀) := by
  unfold noticeOwner
  repeat' (first
    | with_reducible assumption
    | with_reducible apply keeps_dropResponse
    | with_reducible apply keeps_postCpl
    | with_reducible apply Keeps.ite
    | (intro _ _ _)
    | (intro _ _)
    | intro _
    | simp only [keeps_mk_iff]
    | dsimp only
    | dsimp only [id_eq]
    | split)

theorem keeps_flushBuf {w₀ : Bool} {s₀ u₀ : State} (h q n : Nat) (hk₀ : Keeps w₀ s₀ u₀) :
    Keeps w₀ s₀ (flushBuf h q n u₀) := by
  induction n generalizing u₀ with
  | zero =>
    rw [flushBuf]
    repeat' (first
    | with_reducible assumption
    | with_reducible apply keeps_writeCpl
    | with_reducible apply Keeps.ite
    | (intro _ _ _)
    | (intro _ _)
    | intro _
    | simp only [keeps_mk_iff]
    | dsimp only
    | dsimp only [id_eq]
    | split)
  | succ n₀ ih =>
    rw [flushBuf]
    repeat' (first
    | with_reducible assumption
    | with_reducible apply ih
    | with_reducible apply keeps_writeCpl
    | with_reducible apply Keeps.ite
    | (intro _ _ _)
    | (intro _ _)
    | intro _
    | simp only [keeps_mk_iff]
    | dsimp only
    | dsimp only [id_eq]
    | split)

theorem keeps_respond {w₀ : Bool} {s₀ u₀ : State} (c : HostCmd) (status : Word) (handle : Nat) (v0 : Nat) (v1 : Nat) (v2 : Nat) (hk₀ : Keeps w₀ s₀ u₀) :
    Keeps w₀ s₀ (respond c status handle v0 v1 v2 u₀) := by
  unfold respond
  repeat' (first
    | with_reducible assumption
    | with_reducible apply keeps_emit
    | with_reducible apply keeps_postCpl
    | with_reducible apply Keeps.ite
    | (intro _ _ _)
    | (intro _ _)
    | intro _
    | simp only [keeps_mk_iff]
    | dsimp only
    | dsimp only [id_eq]
    | split)

theorem keeps_refuseCmd {w₀ : Bool} {s₀ u₀ : State} (c : HostCmd) (code : Nat) (hk₀ : Keeps w₀ s₀ u₀) :
    Keeps w₀ s₀ (refuseCmd c code u₀) := by
  unfold refuseCmd
  repeat' (first
    | with_reducible assumption
    | with_reducible apply keeps_bumpF
    | with_reducible apply keeps_irqRaise
    | with_reducible apply keeps_respond
    | with_reducible apply keeps_whenB
    | (intro _ _ _)
    | (intro _ _)
    | intro _
    | dsimp only
    | dsimp only [id_eq]
    | split)

theorem keeps_refuseAt {w₀ : Bool} {s₀ u₀ : State} (c : HostCmd) (cls : Nat) (ix : Nat) (code : Nat) (hk₀ : Keeps w₀ s₀ u₀) :
    Keeps w₀ s₀ (refuseAt c cls ix code u₀) := by
  unfold refuseAt
  repeat' (first
    | with_reducible assumption
    | with_reducible apply keeps_respond
    | (intro _ _ _)
    | (intro _ _)
    | intro _
    | dsimp only
    | dsimp only [id_eq]
    | split)

theorem keeps_ack {w₀ : Bool} {s₀ u₀ : State} (c : HostCmd) (hk₀ : Keeps w₀ s₀ u₀) :
    Keeps w₀ s₀ (Sys2Proof.Machine.ack c u₀) := by
  unfold Sys2Proof.Machine.ack
  repeat' (first
    | with_reducible assumption
    | with_reducible apply keeps_respond
    | (intro _ _ _)
    | (intro _ _)
    | intro _
    | dsimp only
    | dsimp only [id_eq]
    | split)

theorem keeps_runCmd {w₀ : Bool} {s₀ u₀ : State} (c : HostCmd) (take : State → State) (f : State → State) (h_take : ∀ (x0 : State), Keeps w₀ s₀ x0 → Keeps w₀ s₀ (take x0)) (h_f : ∀ (x0 : State), Keeps w₀ s₀ x0 → Keeps w₀ s₀ (f x0)) (hk₀ : Keeps w₀ s₀ u₀) :
    Keeps w₀ s₀ (runCmd c take f u₀) := by
  unfold runCmd
  repeat' (first
    | with_reducible assumption
    | with_reducible apply h_take
    | with_reducible apply h_f
    | with_reducible apply keeps_idleExit
    | with_reducible apply keeps_refuseAt
    | with_reducible apply Keeps.ite
    | (intro _ _ _)
    | (intro _ _)
    | intro _
    | dsimp only
    | dsimp only [id_eq]
    | split)

theorem keeps_takeCmd {w₀ : Bool} {s₀ u₀ : State} (src : CmdSrc) (op : Nat) (f : HostCmd → State → State) (h_f : ∀ (x0 : HostCmd) (x1 : State), Keeps w₀ s₀ x1 → Keeps w₀ s₀ (f x0 x1)) (hk₀ : Keeps w₀ s₀ u₀) :
    Keeps w₀ s₀ (takeCmd src op f u₀) := by
  unfold takeCmd
  repeat' (first
    | with_reducible assumption
    | with_reducible apply h_f
    | with_reducible apply keeps_runCmd
    | with_reducible apply Keeps.ite
    | (intro _ _ _)
    | (intro _ _)
    | intro _
    | simp only [keeps_mk_iff]
    | dsimp only
    | dsimp only [id_eq]
    | split)

theorem keeps_submissionEntry {w₀ : Bool} {s₀ u₀ : State} (h : Nat) (q : Nat) (bs : List Byte) (hk₀ : Keeps w₀ s₀ u₀) :
    Keeps w₀ s₀ (submissionEntry h q bs u₀) := by
  unfold submissionEntry
  repeat' (first
    | with_reducible assumption
    | with_reducible apply keeps_refuseCmd
    | with_reducible apply keeps_setQP
    | with_reducible apply Keeps.ite
    | (intro _ _ _)
    | (intro _ _)
    | intro _
    | simp only [keeps_mk_iff]
    | dsimp only
    | dsimp only [id_eq]
    | split)

theorem keeps_badDoorbell {w₀ : Bool} {s₀ u₀ : State} (h : Nat) (hk₀ : Keeps w₀ s₀ u₀) :
    Keeps w₀ s₀ (badDoorbell h u₀) := by
  unfold badDoorbell
  repeat' (first
    | with_reducible assumption
    | with_reducible apply keeps_bumpF
    | with_reducible apply keeps_irqRaise
    | (intro _ _ _)
    | (intro _ _)
    | intro _
    | dsimp only
    | dsimp only [id_eq]
    | split)

theorem keeps_sqDoorbell {w₀ : Bool} {s₀ u₀ : State} (h : Nat) (q : Nat) (data : Word) (hk₀ : Keeps w₀ s₀ u₀) :
    Keeps w₀ s₀ (sqDoorbell h q data u₀) := by
  unfold sqDoorbell
  repeat' (first
    | with_reducible assumption
    | with_reducible apply keeps_badDoorbell
    | with_reducible apply keeps_ideRefuse
    | with_reducible apply keeps_idleExit
    | with_reducible apply keeps_setQP
    | with_reducible apply Keeps.ite
    | (intro _ _ _)
    | (intro _ _)
    | intro _
    | simp only [keeps_mk_iff]
    | dsimp only
    | dsimp only [id_eq]
    | split)

theorem keeps_cqDoorbell {w₀ : Bool} {s₀ u₀ : State} (h : Nat) (q : Nat) (data : Word) (hk₀ : Keeps w₀ s₀ u₀) :
    Keeps w₀ s₀ (cqDoorbell h q data u₀) := by
  unfold cqDoorbell
  repeat' (first
    | with_reducible assumption
    | with_reducible apply keeps_badDoorbell
    | with_reducible apply keeps_flushBuf
    | with_reducible apply keeps_ideRefuse
    | with_reducible apply keeps_setQP
    | with_reducible apply Keeps.ite
    | (intro _ _ _)
    | (intro _ _)
    | intro _
    | simp only [keeps_mk_iff]
    | dsimp only
    | dsimp only [id_eq]
    | split)

theorem keeps_coalesceTimeout {w₀ : Bool} {s₀ u₀ : State} (h : Nat) (q : Nat) (hk₀ : Keeps w₀ s₀ u₀) :
    Keeps w₀ s₀ (coalesceTimeout h q u₀) := by
  unfold coalesceTimeout
  repeat' (first
    | with_reducible assumption
    | with_reducible apply keeps_signalQP
    | with_reducible apply Keeps.ite
    | (intro _ _ _)
    | (intro _ _)
    | intro _
    | dsimp only
    | dsimp only [id_eq]
    | split)

theorem keeps_disableQP {w₀ : Bool} {s₀ u₀ : State} (h : Nat) (q : Nat) (hk₀ : Keeps w₀ s₀ u₀) :
    Keeps w₀ s₀ (disableQP h q u₀) := by
  unfold disableQP
  repeat' (first
    | with_reducible assumption
    | with_reducible apply keeps_dropResponse
    | with_reducible apply keeps_setQP
    | with_reducible apply Keeps.foldl
    | with_reducible apply Keeps.foldl1
    | with_reducible apply Keeps.foldl2
    | with_reducible apply Keeps.foldl22
    | with_reducible apply Keeps.of_pair (by assumption)
    | with_reducible apply Keeps.of_triple (by assumption)
    | with_reducible apply Keeps.of_pair' (by assumption)
    | (intro _ _ _)
    | (intro _ _)
    | intro _
    | simp only [keeps_mk_iff]
    | dsimp only
    | dsimp only [id_eq]
    | split)

theorem keeps_enableQP {w₀ : Bool} {s₀ u₀ : State} (h : Nat) (q : Nat) (data : Word) (hk₀ : Keeps w₀ s₀ u₀) :
    Keeps w₀ s₀ (enableQP h q data u₀) := by
  unfold enableQP
  repeat' (first
    | with_reducible assumption
    | with_reducible apply keeps_setQP
    | with_reducible apply Keeps.ite
    | (intro _ _ _)
    | (intro _ _)
    | intro _
    | simp only [keeps_mk_iff]
    | dsimp only
    | dsimp only [id_eq]
    | split)

theorem keeps_requestDisableQP {w₀ : Bool} {s₀ u₀ : State} (h : Nat) (q : Nat) (data : Word) (hk₀ : Keeps w₀ s₀ u₀) :
    Keeps w₀ s₀ (requestDisableQP h q data u₀) := by
  unfold requestDisableQP
  repeat' (first
    | with_reducible assumption
    | with_reducible apply keeps_disableQP
    | with_reducible apply keeps_setQP
    | with_reducible apply Keeps.ite
    | (intro _ _ _)
    | (intro _ _)
    | intro _
    | simp only [keeps_mk_iff]
    | dsimp only
    | dsimp only [id_eq]
    | split)

theorem keeps_queueDisableDone {w₀ : Bool} {s₀ u₀ : State} (h : Nat) (q : Nat) (hk₀ : Keeps w₀ s₀ u₀) :
    Keeps w₀ s₀ (queueDisableDone h q u₀) := by
  unfold queueDisableDone
  repeat' (first
    | with_reducible assumption
    | with_reducible apply keeps_disableQP
    | with_reducible apply Keeps.ite
    | (intro _ _ _)
    | (intro _ _)
    | intro _
    | dsimp only
    | dsimp only [id_eq]
    | split)

theorem keeps_resetBlock {w₀ : Bool} {s₀ u₀ : State} (base : Nat) (hk₀ : Keeps w₀ s₀ u₀) : Keeps w₀ s₀ (resetBlock base u₀) :=
  hk₀.trans ⟨rfl, fun _ => ⟨rfl, rfl⟩, id, id, fun g => canonD_filter _ _ _ g⟩

theorem keeps_portReset {w₀ : Bool} {s₀ u₀ : State} (h : Nat) (hk₀ : Keeps w₀ s₀ u₀) :
    Keeps w₀ s₀ (portReset h u₀) := by
  unfold portReset
  repeat' (first
    | with_reducible assumption
    | with_reducible apply keeps_resetBlock
    | (intro _ _ _)
    | (intro _ _)
    | intro _
    | simp only [keeps_mk_iff]
    | dsimp only
    | dsimp only [id_eq]
    | split)

theorem keeps_hostPortLinkUp {w₀ : Bool} {s₀ u₀ : State} (h : Nat) (hk₀ : Keeps w₀ s₀ u₀) :
    Keeps w₀ s₀ (hostPortLinkUp h u₀) := by
  unfold hostPortLinkUp
  repeat' (first
    | with_reducible assumption
    | with_reducible apply Keeps.ite
    | (intro _ _ _)
    | (intro _ _)
    | intro _
    | simp only [keeps_mk_iff]
    | dsimp only
    | dsimp only [id_eq]
    | split)

end Sys2Proof.Laws
end

