-- ==== Sys2Proof/Laws/KeepsSparing.lean ====
section
/-!
SUPPORT. What the operations of Machine/Sparing.lean keep (see Keeps).
-/

namespace Sys2Proof.Laws

open Sys2Proof.Machine

theorem keeps_startWake {w₀ : Bool} {s₀ u₀ : State} (g : Nat) (entry : Nat) (hk₀ : Keeps w₀ s₀ u₀) :
    Keeps w₀ s₀ (startWake g entry u₀) := by
  unfold startWake
  repeat' (first
    | with_reducible assumption
    | with_reducible apply keeps_modAcre
    | with_reducible apply Keeps.ite
    | (intro _ _ _)
    | (intro _ _)
    | intro _
    | simp only [keeps_mk_iff]
    | dsimp only
    | dsimp only [id_eq]
    | split)

theorem keeps_countSpares {w₀ : Bool} {s₀ u₀ : State} (die : Nat) (hk₀ : Keeps w₀ s₀ u₀) :
    Keeps w₀ s₀ (countSpares die u₀) := by
  unfold countSpares
  repeat' (first
    | with_reducible assumption
    | with_reducible apply keeps_setF
    | (intro _ _ _)
    | (intro _ _)
    | intro _
    | dsimp only
    | dsimp only [id_eq]
    | split)

theorem keeps_beyondSpares {w₀ : Bool} {s₀ u₀ : State} (cls : Nat) (ix : Nat) (hk₀ : Keeps w₀ s₀ u₀) :
    Keeps w₀ s₀ (beyondSpares cls ix u₀) := by
  unfold beyondSpares
  repeat' (first
    | with_reducible assumption
    | with_reducible apply keeps_irqRaise
    | with_reducible apply keeps_logEv
    | with_reducible apply keeps_setF
    | (intro _ _ _)
    | (intro _ _)
    | intro _
    | simp only [keeps_mk_iff]
    | dsimp only
    | dsimp only [id_eq]
    | split)

theorem keeps_remapAcre {w₀ : Bool} {s₀ u₀ : State} (old new : Nat) (hk₀ : Keeps w₀ s₀ u₀) : Keeps w₀ s₀ (remapAcre old new u₀) := by
  unfold remapAcre
  dsimp only
  exact keeps_setAcre _ _ (keeps_setAcre _ _ (keeps_mk_spad (canonK_moveAcre _ _ _) hk₀))

theorem keeps_replaceNow {w₀ : Bool} {s₀ u₀ : State} (g : Nat) (hk₀ : Keeps w₀ s₀ u₀) : Keeps w₀ s₀ (replaceNow g u₀) := by
  unfold replaceNow
  dsimp only
  split
  · exact keeps_countSpares _ (keeps_startWake _ _ ((keeps_mk_iff ..).2 hk₀))
  · split
    · split
      · exact keeps_logEv _ _ _ _ (keeps_countSpares _ (keeps_modAcre _ _ (keeps_modAcre _ _ (keeps_mk_spad (canonK_moveAcre _ _ _) hk₀))))
      · exact keeps_beyondSpares _ _ hk₀
    · exact keeps_beyondSpares _ _ hk₀

theorem keeps_retireSpare {w₀ : Bool} {s₀ u₀ : State} (g : Nat) (hk₀ : Keeps w₀ s₀ u₀) :
    Keeps w₀ s₀ (retireSpare g u₀) := by
  unfold retireSpare
  repeat' (first
    | with_reducible assumption
    | with_reducible apply keeps_countSpares
    | with_reducible apply keeps_logEv
    | with_reducible apply keeps_modAcre
    | with_reducible apply Keeps.ite
    | (intro _ _ _)
    | (intro _ _)
    | intro _
    | simp only [keeps_mk_iff]
    | dsimp only
    | dsimp only [id_eq]
    | split)

theorem keeps_spareFailed {w₀ : Bool} {s₀ u₀ : State} (j : SwapJob) (hk₀ : Keeps w₀ s₀ u₀) :
    Keeps w₀ s₀ (spareFailed j u₀) := by
  unfold spareFailed
  repeat' (first
    | with_reducible assumption
    | with_reducible apply keeps_countSpares
    | with_reducible apply keeps_replaceNow
    | with_reducible apply keeps_retireSpare
    | with_reducible apply keeps_startWake
    | with_reducible apply Keeps.ite
    | (intro _ _ _)
    | (intro _ _)
    | intro _
    | simp only [keeps_mk_iff]
    | dsimp only
    | dsimp only [id_eq]
    | split)

theorem keeps_replaceAcre {w₀ : Bool} {s₀ u₀ : State} (g : Nat) (hk₀ : Keeps w₀ s₀ u₀) :
    Keeps w₀ s₀ (replaceAcre g u₀) := by
  unfold replaceAcre
  repeat' (first
    | with_reducible assumption
    | with_reducible apply keeps_replaceNow
    | with_reducible apply keeps_retireSpare
    | with_reducible apply keeps_spareFailed
    | with_reducible apply Keeps.ite
    | (intro _ _ _)
    | (intro _ _)
    | intro _
    | simp only [keeps_mk_iff]
    | dsimp only
    | dsimp only [id_eq]
    | split)

end Sys2Proof.Laws
end

