-- ==== Sys2Proof/Laws/KeepsScreen.lean ====
section
/-!
SUPPORT. What the operations of Machine/Screen.lean keep (see Keeps).
-/

namespace Sys2Proof.Laws

open Sys2Proof.Machine

theorem keeps_countFrame {w₀ : Bool} {s₀ u₀ : State} (die : Nat) (f : LFmt) (vs : List Nat) (bytes : List Byte) (hk₀ : Keeps w₀ s₀ u₀) :
    Keeps w₀ s₀ (countFrame die f vs bytes u₀) := by
  unfold countFrame
  repeat' (first
    | with_reducible assumption
    | with_reducible apply keeps_bumpF
    | with_reducible apply keeps_bumpPair
    | with_reducible apply Keeps.ite
    | (intro _ _ _)
    | (intro _ _)
    | intro _
    | dsimp only
    | dsimp only [id_eq]
    | split)

end Sys2Proof.Laws
end

