-- ==== Sys2Proof/Laws/KeepsAccum.lean ====
section
/-!
SUPPORT. What the operations of Machine/Accum.lean keep (see Keeps).
-/

namespace Sys2Proof.Laws

open Sys2Proof.Machine

theorem keeps_countRepeat {w₀ : Bool} {s₀ u₀ : State} (g : Nat) (e : Nat) (hk₀ : Keeps w₀ s₀ u₀) :
    Keeps w₀ s₀ (countRepeat g e u₀) := by
  unfold countRepeat
  repeat' (first
    | with_reducible assumption
    | with_reducible apply keeps_bumpF
    | with_reducible apply Keeps.ite
    | (intro _ _ _)
    | (intro _ _)
    | intro _
    | dsimp only
    | dsimp only [id_eq]
    | split)

theorem keeps_accOverflow {w₀ : Bool} {s₀ u₀ : State} (g : Nat) (hk₀ : Keeps w₀ s₀ u₀) :
    Keeps w₀ s₀ (accOverflow g u₀) := by
  unfold accOverflow
  repeat' (first
    | with_reducible assumption
    | with_reducible apply keeps_bumpF
    | with_reducible apply keeps_faultRun
    | with_reducible apply keeps_lastEvt
    | (intro _ _ _)
    | (intro _ _)
    | intro _
    | simp only [keeps_mk_iff]
    | dsimp only
    | dsimp only [id_eq]
    | split)

theorem keeps_startPreload {w₀ : Bool} {s₀ u₀ : State} (g f n e : Nat) (hk₀ : Keeps w₀ s₀ u₀) :
    Keeps w₀ s₀ (startPreload g f n e u₀) := by
  induction n generalizing e u₀ with
  | zero =>
    rw [startPreload]
    repeat' (first
    | with_reducible assumption
    | with_reducible apply keeps_accOverflow
    | with_reducible apply keeps_countRepeat
    | with_reducible apply keeps_modAcre
    | with_reducible apply keeps_modRun
    | with_reducible apply Keeps.ite
    | (intro _ _ _)
    | (intro _ _)
    | intro _
    | simp only [keeps_mk_iff]
    | dsimp only
    | dsimp only [id_eq]
    | split)
  | succ n₀ ih =>
    rw [startPreload]
    repeat' (first
    | with_reducible assumption
    | with_reducible apply ih
    | with_reducible apply keeps_accOverflow
    | with_reducible apply keeps_countRepeat
    | with_reducible apply keeps_modAcre
    | with_reducible apply keeps_modRun
    | with_reducible apply Keeps.ite
    | (intro _ _ _)
    | (intro _ _)
    | intro _
    | simp only [keeps_mk_iff]
    | dsimp only
    | dsimp only [id_eq]
    | split)

theorem keeps_accPreloadStart {w₀ : Bool} {s₀ u₀ : State} (g : Nat) (hk₀ : Keeps w₀ s₀ u₀) :
    Keeps w₀ s₀ (accPreloadStart g u₀) := by
  unfold accPreloadStart
  repeat' (first
    | with_reducible assumption
    | with_reducible apply keeps_startPreload
    | with_reducible apply Keeps.ite
    | (intro _ _ _)
    | (intro _ _)
    | intro _
    | simp only [keeps_mk_iff]
    | dsimp only
    | dsimp only [id_eq]
    | split)

theorem keeps_accPreloadDone {w₀ : Bool} {s₀ u₀ : State} (g : Nat) (b : Bool) (hk₀ : Keeps w₀ s₀ u₀) :
    Keeps w₀ s₀ (accPreloadDone g b u₀) := by
  unfold accPreloadDone
  repeat' (first
    | with_reducible assumption
    | with_reducible apply keeps_modAcre
    | with_reducible apply Keeps.ite
    | (intro _ _ _)
    | (intro _ _)
    | intro _
    | simp only [keeps_mk_iff]
    | dsimp only
    | dsimp only [id_eq]
    | split)

theorem keeps_overflowFill {w₀ : Bool} {s₀ u₀ : State} (g : Nat) (f : Nat) (hk₀ : Keeps w₀ s₀ u₀) :
    Keeps w₀ s₀ (overflowFill g f u₀) := by
  unfold overflowFill
  repeat' (first
    | with_reducible assumption
    | with_reducible apply keeps_accOverflow
    | with_reducible apply keeps_countRepeat
    | with_reducible apply keeps_modRun
    | with_reducible apply keeps_setAcre
    | with_reducible apply keeps_startPreload
    | with_reducible apply Keeps.ite
    | (intro _ _ _)
    | (intro _ _)
    | intro _
    | simp only [keeps_mk_iff]
    | dsimp only
    | dsimp only [id_eq]
    | split)

theorem keeps_commitRound {w₀ : Bool} {s₀ u₀ : State} (g : Nat) (hk₀ : Keeps w₀ s₀ u₀) :
    Keeps w₀ s₀ (commitRound g u₀) := by
  unfold commitRound
  repeat' (first
    | with_reducible assumption
    | with_reducible apply keeps_bumpPair
    | with_reducible apply keeps_overflowFill
    | with_reducible apply keeps_setAcre
    | with_reducible apply Keeps.foldl
    | with_reducible apply Keeps.foldl1
    | with_reducible apply Keeps.foldl2
    | with_reducible apply Keeps.foldl22
    | with_reducible apply Keeps.of_pair (by assumption)
    | with_reducible apply Keeps.of_triple (by assumption)
    | with_reducible apply Keeps.of_pair' (by assumption)
    | with_reducible apply Keeps.ite
    | (intro _ _ _)
    | (intro _ _)
    | intro _
    | simp only [keeps_mk_iff]
    | dsimp only
    | dsimp only [id_eq]
    | split)

theorem keeps_wrInts {w₀ : Bool} {s₀ u₀ : State} (addr : Nat) (d : List Byte) (p : TilePos) (x : Acc) (hk₀ : Keeps w₀ s₀ u₀) :
    Keeps w₀ s₀ (wrInts addr d p x u₀) := by
  unfold wrInts
  repeat' (first
    | with_reducible assumption
    | with_reducible apply keeps_clearPoison
    | with_reducible apply keeps_wrLE
    | with_reducible apply Keeps.foldl
    | with_reducible apply Keeps.foldl1
    | with_reducible apply Keeps.foldl2
    | with_reducible apply Keeps.foldl22
    | with_reducible apply Keeps.of_pair (by assumption)
    | with_reducible apply Keeps.of_triple (by assumption)
    | with_reducible apply Keeps.of_pair' (by assumption)
    | (intro _ _ _)
    | (intro _ _)
    | intro _
    | dsimp only
    | dsimp only [id_eq]
    | split)

theorem keeps_drainTok {w₀ : Bool} {s₀ u₀ : State} (d : List Byte) (p : TilePos) (x : Acc) (y : Nat) (t : Nat) (src : State) (hk₀ : Keeps w₀ s₀ u₀) :
    Keeps w₀ s₀ (drainTok d p x y t src u₀) := by
  unfold drainTok
  repeat' (first
    | with_reducible assumption
    | with_reducible apply keeps_clearPoison
    | with_reducible apply keeps_countFrame
    | with_reducible apply keeps_wrLE
    | with_reducible apply keeps_wrMem
    | with_reducible apply keeps_wrVec
    | with_reducible apply Keeps.ite
    | (intro _ _ _)
    | (intro _ _)
    | intro _
    | dsimp only
    | dsimp only [id_eq]
    | split)

theorem keeps_countSat {w₀ : Bool} {s₀ u₀ : State} (g : Nat) (n : Nat) (hk₀ : Keeps w₀ s₀ u₀) :
    Keeps w₀ s₀ (countSat g n u₀) := by
  unfold countSat
  repeat' (first
    | with_reducible assumption
    | with_reducible apply keeps_bumpF
    | with_reducible apply keeps_lastEvt
    | with_reducible apply keeps_logStatus
    | with_reducible apply keeps_modRun
    | with_reducible apply Keeps.ite
    | (intro _ _ _)
    | (intro _ _)
    | intro _
    | simp only [keeps_mk_iff]
    | dsimp only
    | dsimp only [id_eq]
    | split)

theorem keeps_releaseInputs {w₀ : Bool} {s₀ u₀ : State} (c : CourseRun) (f : Nat) (hk₀ : Keeps w₀ s₀ u₀) :
    Keeps w₀ s₀ (releaseInputs c f u₀) := by
  unfold releaseInputs
  repeat' (first
    | with_reducible assumption
    | with_reducible apply keeps_gateDrain
    | with_reducible apply Keeps.foldl
    | with_reducible apply Keeps.foldl1
    | with_reducible apply Keeps.foldl2
    | with_reducible apply Keeps.foldl22
    | with_reducible apply Keeps.of_pair (by assumption)
    | with_reducible apply Keeps.of_triple (by assumption)
    | with_reducible apply Keeps.of_pair' (by assumption)
    | with_reducible apply Keeps.ite
    | (intro _ _ _)
    | (intro _ _)
    | intro _
    | simp only [keeps_mk_iff]
    | dsimp only
    | dsimp only [id_eq]
    | split)

theorem keeps_accDrain {w₀ : Bool} {s₀ u₀ : State} (g : Nat) (b : Bool) (hk₀ : Keeps w₀ s₀ u₀) :
    Keeps w₀ s₀ (accDrain g b u₀) := by
  unfold accDrain
  repeat' (first
    | with_reducible assumption
    | with_reducible apply keeps_countSat
    | with_reducible apply keeps_modAcre
    | with_reducible apply keeps_modRun
    | with_reducible apply keeps_releaseInputs
    | with_reducible apply Keeps.ite
    | (intro _ _ _)
    | (intro _ _)
    | intro _
    | simp only [keeps_mk_iff]
    | dsimp only
    | dsimp only [id_eq]
    | split)

theorem keeps_drainWrite {w₀ : Bool} {s₀ u₀ : State} (c : CourseRun) (x : Acc) (hk₀ : Keeps w₀ s₀ u₀) :
    Keeps w₀ s₀ (drainWrite c x u₀) := by
  unfold drainWrite
  repeat' (first
    | with_reducible assumption
    | with_reducible apply keeps_drainTok
    | with_reducible apply keeps_gateFill
    | with_reducible apply keeps_wrByte
    | with_reducible apply keeps_wrInts
    | with_reducible apply Keeps.foldl
    | with_reducible apply Keeps.foldl1
    | with_reducible apply Keeps.foldl2
    | with_reducible apply Keeps.foldl22
    | with_reducible apply Keeps.of_pair (by assumption)
    | with_reducible apply Keeps.of_triple (by assumption)
    | with_reducible apply Keeps.of_pair' (by assumption)
    | with_reducible apply Keeps.ite
    | (intro _ _ _)
    | (intro _ _)
    | intro _
    | simp only [keeps_mk_iff]
    | dsimp only
    | dsimp only [id_eq]
    | split)

theorem keeps_finishIfDone {w₀ : Bool} {s₀ u₀ : State} (g : Nat) (hk₀ : Keeps w₀ s₀ u₀) :
    Keeps w₀ s₀ (finishIfDone g u₀) := by
  unfold finishIfDone
  repeat' (first
    | with_reducible assumption
    | with_reducible apply keeps_completeRun
    | with_reducible apply Keeps.ite
    | (intro _ _ _)
    | (intro _ _)
    | intro _
    | simp only [keeps_mk_iff]
    | dsimp only
    | dsimp only [id_eq]
    | split)

theorem keeps_yieldIfDrained {w₀ : Bool} {s₀ u₀ : State} (g : Nat) (hk₀ : Keeps w₀ s₀ u₀) :
    Keeps w₀ s₀ (yieldIfDrained g u₀) := by
  unfold yieldIfDrained
  repeat' (first
    | with_reducible assumption
    | with_reducible apply keeps_setAcre
    | with_reducible apply Keeps.ite
    | (intro _ _ _)
    | (intro _ _)
    | intro _
    | simp only [keeps_mk_iff]
    | dsimp only
    | dsimp only [id_eq]
    | split)

theorem keeps_accDrainDone {w₀ : Bool} {s₀ u₀ : State} (g : Nat) (b : Bool) (hk₀ : Keeps w₀ s₀ u₀) :
    Keeps w₀ s₀ (accDrainDone g b u₀) := by
  unfold accDrainDone
  repeat' (first
    | with_reducible assumption
    | with_reducible apply keeps_drainWrite
    | with_reducible apply keeps_finishIfDone
    | with_reducible apply keeps_modAcre
    | with_reducible apply keeps_modRun
    | with_reducible apply keeps_yieldIfDrained
    | with_reducible apply Keeps.ite
    | (intro _ _ _)
    | (intro _ _)
    | intro _
    | simp only [keeps_mk_iff]
    | dsimp only
    | dsimp only [id_eq]
    | split)

theorem keeps_atomicAdd {w₀ : Bool} {s₀ u₀ : State} (g : Nat) (hk₀ : Keeps w₀ s₀ u₀) :
    Keeps w₀ s₀ (atomicAdd g u₀) := by
  unfold atomicAdd
  repeat' (first
    | with_reducible assumption
    | with_reducible apply keeps_countSat
    | with_reducible apply keeps_finishIfDone
    | with_reducible apply keeps_modAcre
    | with_reducible apply keeps_modRun
    | with_reducible apply keeps_wrLE
    | with_reducible apply Keeps.ite
    | (intro _ _ _)
    | (intro _ _)
    | intro _
    | simp only [keeps_mk_iff]
    | dsimp only
    | dsimp only [id_eq]
    | split)

theorem keeps_courseYield {w₀ : Bool} {s₀ u₀ : State} (g : Nat) (hk₀ : Keeps w₀ s₀ u₀) :
    Keeps w₀ s₀ (courseYield g u₀) := by
  unfold courseYield
  repeat' (first
    | with_reducible assumption
    | with_reducible apply keeps_setAcre
    | with_reducible apply keeps_yieldIfDrained
    | with_reducible apply Keeps.foldl
    | with_reducible apply Keeps.foldl1
    | with_reducible apply Keeps.foldl2
    | with_reducible apply Keeps.foldl22
    | with_reducible apply Keeps.of_pair (by assumption)
    | with_reducible apply Keeps.of_triple (by assumption)
    | with_reducible apply Keeps.of_pair' (by assumption)
    | with_reducible apply Keeps.ite
    | (intro _ _ _)
    | (intro _ _)
    | intro _
    | simp only [keeps_mk_iff]
    | dsimp only
    | dsimp only [id_eq]
    | split)

theorem keeps_courseResume {w₀ : Bool} {s₀ u₀ : State} (g : Nat) (hk₀ : Keeps w₀ s₀ u₀) :
    Keeps w₀ s₀ (courseResume g u₀) := by
  unfold courseResume
  repeat' (first
    | with_reducible assumption
    | with_reducible apply keeps_setAcre
    | with_reducible apply Keeps.ite
    | (intro _ _ _)
    | (intro _ _)
    | intro _
    | simp only [keeps_mk_iff]
    | dsimp only
    | dsimp only [id_eq]
    | split)

theorem keeps_courseStart {w₀ : Bool} {s₀ u₀ : State} (g : Nat) (hk₀ : Keeps w₀ s₀ u₀) :
    Keeps w₀ s₀ (courseStart g u₀) := by
  unfold courseStart
  repeat' (first
    | with_reducible assumption
    | with_reducible apply keeps_setAcre
    | with_reducible apply Keeps.ite
    | (intro _ _ _)
    | (intro _ _)
    | intro _
    | simp only [keeps_mk_iff]
    | dsimp only
    | dsimp only [id_eq]
    | split)

theorem keeps_writePairs {w₀ : Bool} {s₀ u₀ : State} (g : Nat) (h : Nat) (d : List Byte) (hk₀ : Keeps w₀ s₀ u₀) :
    Keeps w₀ s₀ (writePairs g h d u₀) := by
  unfold writePairs
  repeat' (first
    | with_reducible assumption
    | with_reducible apply keeps_modAcre
    | with_reducible apply Keeps.foldl
    | with_reducible apply Keeps.foldl1
    | with_reducible apply Keeps.foldl2
    | with_reducible apply Keeps.foldl22
    | with_reducible apply Keeps.of_pair (by assumption)
    | with_reducible apply Keeps.of_triple (by assumption)
    | with_reducible apply Keeps.of_pair' (by assumption)
    | with_reducible apply Keeps.ite
    | (intro _ _ _)
    | (intro _ _)
    | intro _
    | simp only [keeps_mk_iff]
    | dsimp only
    | dsimp only [id_eq]
    | split)

theorem keeps_matmulCourse {w₀ : Bool} {s₀ u₀ : State} (iss : Issue) (hk₀ : Keeps w₀ s₀ u₀) :
    Keeps w₀ s₀ (matmulCourse iss u₀) := by
  unfold matmulCourse
  repeat' (first
    | with_reducible assumption
    | with_reducible apply keeps_bumpSerial
    | with_reducible apply keeps_issueCourse
    | with_reducible apply keeps_modAcre
    | with_reducible apply keeps_writePairs
    | (intro _ _ _)
    | (intro _ _)
    | intro _
    | simp only [keeps_mk_iff]
    | dsimp only
    | dsimp only [id_eq]
    | split)

end Sys2Proof.Laws
end

