-- ==== Sys2Proof/Laws/KeepsFurrow.lean ====
section
/-!
SUPPORT. What the operations of Machine/Furrow.lean keep (see Keeps).
-/

namespace Sys2Proof.Laws

open Sys2Proof.Machine

theorem keeps_furrowPass {w₀ : Bool} {s₀ u₀ : State} (g : Nat) (stall : Nat) (hk₀ : Keeps w₀ s₀ u₀) :
    Keeps w₀ s₀ (furrowPass g stall u₀) := by
  unfold furrowPass
  repeat' (first
    | with_reducible assumption
    | with_reducible apply keeps_bumpPair
    | with_reducible apply keeps_modRun
    | with_reducible apply keeps_setAcre
    | with_reducible apply keeps_setB
    | with_reducible apply Keeps.ite
    | (intro _ _ _)
    | (intro _ _)
    | intro _
    | simp only [keeps_mk_iff]
    | dsimp only
    | dsimp only [id_eq]
    | split)

theorem keeps_setNotReady {w₀ : Bool} {s₀ u₀ : State} (g : Nat) (hk₀ : Keeps w₀ s₀ u₀) :
    Keeps w₀ s₀ (setNotReady g u₀) := by
  unfold setNotReady
  repeat' (first
    | with_reducible assumption
    | with_reducible apply keeps_faultRun
    | with_reducible apply Keeps.ite
    | (intro _ _ _)
    | (intro _ _)
    | intro _
    | simp only [keeps_mk_iff]
    | dsimp only
    | dsimp only [id_eq]
    | split)

theorem keeps_markRetired {w₀ : Bool} {s₀ u₀ : State} (g : Nat) (p : Nat) (hk₀ : Keeps w₀ s₀ u₀) :
    Keeps w₀ s₀ (markRetired g p u₀) := by
  unfold markRetired
  repeat' (first
    | with_reducible assumption
    | with_reducible apply keeps_setF
    | with_reducible apply Keeps.ite
    | (intro _ _ _)
    | (intro _ _)
    | intro _
    | dsimp only
    | dsimp only [id_eq]
    | split)

theorem keeps_countMacroSpares {w₀ : Bool} {s₀ u₀ : State} (g : Nat) (hk₀ : Keeps w₀ s₀ u₀) :
    Keeps w₀ s₀ (countMacroSpares g u₀) := by
  unfold countMacroSpares
  repeat' (first
    | with_reducible assumption
    | with_reducible apply keeps_irqRaise
    | with_reducible apply keeps_setF
    | with_reducible apply keeps_whenB
    | (intro _ _ _)
    | (intro _ _)
    | intro _
    | dsimp only
    | dsimp only [id_eq]
    | split)

theorem keeps_macroEvent {w₀ : Bool} {s₀ u₀ : State} (g : Nat) (p : Nat) (code : Nat) (hk₀ : Keeps w₀ s₀ u₀) :
    Keeps w₀ s₀ (macroEvent g p code u₀) := by
  unfold macroEvent
  repeat' (first
    | with_reducible assumption
    | with_reducible apply keeps_lastEvt
    | with_reducible apply keeps_logStatus
    | (intro _ _ _)
    | (intro _ _)
    | intro _
    | dsimp only
    | dsimp only [id_eq]
    | split)

theorem keeps_reloadMacro {w₀ : Bool} {s₀ u₀ : State} (g : Nat) (lm : Nat) (hk₀ : Keeps w₀ s₀ u₀) :
    Keeps w₀ s₀ (reloadMacro g lm u₀) := by
  unfold reloadMacro
  repeat' (first
    | with_reducible assumption
    | with_reducible apply keeps_modAcre
    | with_reducible apply keeps_setB
    | with_reducible apply Keeps.ite
    | (intro _ _ _)
    | (intro _ _)
    | intro _
    | simp only [keeps_mk_iff]
    | dsimp only
    | dsimp only [id_eq]
    | split)

theorem keeps_remapMacro {w₀ : Bool} {s₀ u₀ : State} (g : Nat) (lm : Nat) (p : Nat) (spares : List Nat) (hk₀ : Keeps w₀ s₀ u₀) :
    Keeps w₀ s₀ (remapMacro g lm p spares u₀) := by
  unfold remapMacro
  repeat' (first
    | with_reducible assumption
    | with_reducible apply keeps_countMacroSpares
    | with_reducible apply keeps_macroEvent
    | with_reducible apply keeps_reloadMacro
    | with_reducible apply keeps_replaceAcre
    | with_reducible apply keeps_setF
    | with_reducible apply keeps_whenB
    | (intro _ _ _)
    | (intro _ _)
    | intro _
    | simp only [keeps_mk_iff]
    | dsimp only
    | dsimp only [id_eq]
    | split)

theorem keeps_retireMacro {w₀ : Bool} {s₀ u₀ : State} (g : Nat) (lm : Nat) (hk₀ : Keeps w₀ s₀ u₀) :
    Keeps w₀ s₀ (retireMacro g lm u₀) := by
  unfold retireMacro
  repeat' (first
    | with_reducible assumption
    | with_reducible apply keeps_bumpF
    | with_reducible apply keeps_markRetired
    | with_reducible apply keeps_remapMacro
    | (intro _ _ _)
    | (intro _ _)
    | intro _
    | dsimp only
    | dsimp only [id_eq]
    | split)

theorem keeps_passCompare {w₀ : Bool} {s₀ u₀ : State} (g : Nat) (errs : List PassErr) (hk₀ : Keeps w₀ s₀ u₀) :
    Keeps w₀ s₀ (passCompare g errs u₀) := by
  unfold passCompare
  repeat' (first
    | with_reducible assumption
    | with_reducible apply keeps_commitRound
    | with_reducible apply keeps_setAcre
    | with_reducible apply Keeps.ite
    | (intro _ _ _)
    | (intro _ _)
    | intro _
    | simp only [keeps_mk_iff]
    | dsimp only
    | dsimp only [id_eq]
    | split)

theorem keeps_repeatDone {w₀ : Bool} {s₀ u₀ : State} (g : Nat) (m : Nat) (errs : List PassErr) (cycle : Nat) (hk₀ : Keeps w₀ s₀ u₀) :
    Keeps w₀ s₀ (repeatDone g m errs cycle u₀) := by
  unfold repeatDone
  repeat' (first
    | with_reducible assumption
    | with_reducible apply keeps_bumpF
    | with_reducible apply keeps_commitRound
    | with_reducible apply keeps_macroEvent
    | with_reducible apply keeps_retireMacro
    | with_reducible apply keeps_setAcre
    | with_reducible apply Keeps.ite
    | (intro _ _ _)
    | (intro _ _)
    | intro _
    | simp only [keeps_mk_iff]
    | dsimp only
    | dsimp only [id_eq]
    | split)

theorem keeps_weightLoadStart {w₀ : Bool} {s₀ u₀ : State} (g : Nat) (m : Nat) (hk₀ : Keeps w₀ s₀ u₀) :
    Keeps w₀ s₀ (weightLoadStart g m u₀) := by
  unfold weightLoadStart
  repeat' (first
    | with_reducible assumption
    | with_reducible apply keeps_faultRun
    | with_reducible apply keeps_modAcre
    | with_reducible apply Keeps.ite
    | (intro _ _ _)
    | (intro _ _)
    | intro _
    | simp only [keeps_mk_iff]
    | dsimp only
    | dsimp only [id_eq]
    | split)

theorem keeps_weightLoadDone {w₀ : Bool} {s₀ u₀ : State} (g : Nat) (m : Nat) (hk₀ : Keeps w₀ s₀ u₀) :
    Keeps w₀ s₀ (weightLoadDone g m u₀) := by
  unfold weightLoadDone
  repeat' (first
    | with_reducible assumption
    | with_reducible apply keeps_modAcre
    | with_reducible apply keeps_modRun
    | with_reducible apply Keeps.ite
    | (intro _ _ _)
    | (intro _ _)
    | intro _
    | simp only [keeps_mk_iff]
    | dsimp only
    | dsimp only [id_eq]
    | split)

theorem keeps_spareTestStart {w₀ : Bool} {s₀ u₀ : State} (g : Nat) (hk₀ : Keeps w₀ s₀ u₀) :
    Keeps w₀ s₀ (spareTestStart g u₀) := by
  unfold spareTestStart
  repeat' (first
    | with_reducible assumption
    | with_reducible apply keeps_setF
    | with_reducible apply Keeps.foldl
    | with_reducible apply Keeps.foldl1
    | with_reducible apply Keeps.foldl2
    | with_reducible apply Keeps.foldl22
    | with_reducible apply Keeps.of_pair (by assumption)
    | with_reducible apply Keeps.of_triple (by assumption)
    | with_reducible apply Keeps.of_pair' (by assumption)
    | with_reducible apply Keeps.ite
    | (intro _ _ _)
    | (intro _ _)
    | intro _
    | dsimp only
    | dsimp only [id_eq]
    | split)

theorem keeps_spareSelfTest {w₀ : Bool} {s₀ u₀ : State} (g : Nat) (hk₀ : Keeps w₀ s₀ u₀) :
    Keeps w₀ s₀ (spareSelfTest g u₀) := by
  unfold spareSelfTest
  repeat' (first
    | with_reducible assumption
    | with_reducible apply keeps_spareTestStart
    | with_reducible apply Keeps.ite
    | (intro _ _ _)
    | (intro _ _)
    | intro _
    | dsimp only
    | dsimp only [id_eq]
    | split)

theorem keeps_spareTestDone {w₀ : Bool} {s₀ u₀ : State} (g : Nat) (sp : Nat) (fail : Bool) (hk₀ : Keeps w₀ s₀ u₀) :
    Keeps w₀ s₀ (spareTestDone g sp fail u₀) := by
  unfold spareTestDone
  repeat' (first
    | with_reducible assumption
    | with_reducible apply keeps_bumpF
    | with_reducible apply keeps_countMacroSpares
    | with_reducible apply keeps_markRetired
    | with_reducible apply keeps_modAcre
    | with_reducible apply keeps_setF
    | with_reducible apply Keeps.ite
    | (intro _ _ _)
    | (intro _ _)
    | intro _
    | simp only [keeps_mk_iff]
    | dsimp only
    | dsimp only [id_eq]
    | split)

end Sys2Proof.Laws
end

