-- ==== Sys2Proof/Laws/KeepsRuns.lean ====
section
/-!
SUPPORT. What the operations of Machine/Runs.lean keep (see Keeps).
-/

namespace Sys2Proof.Laws

open Sys2Proof.Machine

theorem keeps_runTiles {w₀ : Bool} {s₀ u₀ : State} (g : Nat) (w : Walk) (n : Nat) (h_t : ∀ c n u, Keeps w₀ s₀ u → KeepsTile w₀ s₀ (w.tile c n u)) (h_l : ∀ c u, Keeps w₀ s₀ u → KeepsTile w₀ s₀ (w.last c u)) (hk₀ : Keeps w₀ s₀ u₀) :
    Keeps w₀ s₀ (runTiles g w n u₀) := by
  induction n generalizing u₀ with
  | zero =>
    rw [runTiles]
    repeat' (first
    | with_reducible assumption
    | with_reducible apply h_t
    | with_reducible apply h_l
    | with_reducible apply KeepsTile.done (by assumption)
    | with_reducible apply KeepsTile.fault (by assumption)
    | with_reducible apply keeps_completeRun
    | with_reducible apply keeps_faultRun
    | with_reducible apply keeps_modRun
    | with_reducible apply Keeps.ite
    | (intro _ _ _)
    | (intro _ _)
    | intro _
    | simp only [keeps_mk_iff]
    | dsimp only
    | dsimp only [id_eq]
    | split)
  | succ n₀ ih =>
    rw [runTiles]
    repeat' (first
    | with_reducible assumption
    | with_reducible apply ih
    | with_reducible apply h_t
    | with_reducible apply h_l
    | with_reducible apply KeepsTile.done (by assumption)
    | with_reducible apply KeepsTile.fault (by assumption)
    | with_reducible apply keeps_completeRun
    | with_reducible apply keeps_faultRun
    | with_reducible apply keeps_modRun
    | with_reducible apply Keeps.ite
    | (intro _ _ _)
    | (intro _ _)
    | intro _
    | simp only [keeps_mk_iff]
    | dsimp only
    | dsimp only [id_eq]
    | split)

theorem keeps_runOn {w₀ : Bool} {s₀ u₀ : State} (g : Nat) (w : Walk) (h_w_t : ∀ c n u, Keeps w₀ s₀ u → KeepsTile w₀ s₀ (w.tile c n u)) (h_w_l : ∀ c u, Keeps w₀ s₀ u → KeepsTile w₀ s₀ (w.last c u)) (hk₀ : Keeps w₀ s₀ u₀) :
    Keeps w₀ s₀ (runOn g w u₀) := by
  unfold runOn
  repeat' (first
    | with_reducible assumption
    | with_reducible apply h_w_t
    | with_reducible apply h_w_l
    | with_reducible apply keeps_runTiles
    | with_reducible apply Keeps.ite
    | (intro _ _ _)
    | (intro _ _)
    | intro _
    | simp only [keeps_mk_iff]
    | dsimp only
    | dsimp only [id_eq]
    | split)

theorem keeps_enterPending {w₀ : Bool} {s₀ u₀ : State} (g : Nat) (iss : Issue) (im : Image) (d : List Byte) (bs : List Nat) (hk₀ : Keeps w₀ s₀ u₀) :
    Keeps w₀ s₀ (enterPending g iss im d bs u₀) := by
  unfold enterPending
  repeat' (first
    | with_reducible assumption
    | with_reducible apply keeps_bumpSerial
    | with_reducible apply keeps_modAcre
    | with_reducible apply keeps_writePairs
    | (intro _ _ _)
    | (intro _ _)
    | intro _
    | simp only [keeps_mk_iff]
    | dsimp only
    | dsimp only [id_eq]
    | split)

theorem keeps_startHere {w₀ : Bool} {s₀ u₀ : State} (g : Nat) (hk₀ : Keeps w₀ s₀ u₀) :
    Keeps w₀ s₀ (startHere g u₀) := by
  unfold startHere
  repeat' (first
    | with_reducible assumption
    | with_reducible apply keeps_courseStart
    | with_reducible apply keeps_modAcre
    | with_reducible apply Keeps.ite
    | (intro _ _ _)
    | (intro _ _)
    | intro _
    | simp only [keeps_mk_iff]
    | dsimp only
    | dsimp only [id_eq]
    | split)

theorem keeps_laneCourse {w₀ : Bool} {s₀ u₀ : State} (iss : Issue) (is : List Byte → Bool) (w : Walk) (h_w_t : ∀ c n u, Keeps w₀ s₀ u → KeepsTile w₀ s₀ (w.tile c n u)) (h_w_l : ∀ c u, Keeps w₀ s₀ u → KeepsTile w₀ s₀ (w.last c u)) (hk₀ : Keeps w₀ s₀ u₀) :
    Keeps w₀ s₀ (laneCourse iss is w u₀) := by
  unfold laneCourse
  repeat' (first
    | with_reducible assumption
    | with_reducible apply h_w_t
    | with_reducible apply h_w_l
    | with_reducible apply keeps_countIssue
    | with_reducible apply keeps_enterPending
    | with_reducible apply keeps_issueCourse
    | with_reducible apply keeps_refuseUnknown
    | with_reducible apply keeps_runOn
    | with_reducible apply keeps_startHere
    | with_reducible apply Keeps.ite
    | (intro _ _ _)
    | (intro _ _)
    | intro _
    | simp only [keeps_mk_iff]
    | dsimp only
    | dsimp only [id_eq]
    | split)

theorem keeps_tileDrained {w₀ : Bool} {s₀ u₀ : State} (c : CourseRun) (n : Nat) (hk₀ : Keeps w₀ s₀ u₀) :
    Keeps w₀ s₀ (tileDrained c n u₀) := by
  unfold tileDrained
  repeat' (first
    | with_reducible assumption
    | with_reducible apply keeps_gateDrain
    | with_reducible apply keeps_withSome
    | with_reducible apply Keeps.ite
    | (intro _ _ _)
    | (intro _ _)
    | intro _
    | simp only [keeps_mk_iff]
    | dsimp only
    | dsimp only [id_eq]
    | split)

theorem keeps_tileFilled {w₀ : Bool} {s₀ u₀ : State} (c : CourseRun) (n : Nat) (hk₀ : Keeps w₀ s₀ u₀) :
    Keeps w₀ s₀ (tileFilled c n u₀) := by
  unfold tileFilled
  repeat' (first
    | with_reducible assumption
    | with_reducible apply keeps_gateFill
    | with_reducible apply keeps_withSome
    | with_reducible apply Keeps.ite
    | (intro _ _ _)
    | (intro _ _)
    | intro _
    | simp only [keeps_mk_iff]
    | dsimp only
    | dsimp only [id_eq]
    | split)

theorem keeps_chargeTile {w₀ : Bool} {s₀ u₀ : State} (g : Nat) (cycles : Nat) (rd : Nat × Nat) (wr : Nat × Nat) (hk₀ : Keeps w₀ s₀ u₀) :
    Keeps w₀ s₀ (chargeTile g cycles rd wr u₀) := by
  unfold chargeTile
  repeat' (first
    | with_reducible assumption
    | with_reducible apply keeps_modRun
    | with_reducible apply keeps_traffic
    | with_reducible apply Keeps.of_pair (by assumption)
    | (intro _ _ _)
    | (intro _ _)
    | intro _
    | simp only [keeps_mk_iff]
    | dsimp only
    | dsimp only [id_eq]
    | split)

end Sys2Proof.Laws
end

