-- ==== Sys2Proof/Laws/KeepsVector.lean ====
section
/-!
SUPPORT. What the operations of Machine/Vector.lean keep (see Keeps).
-/

namespace Sys2Proof.Laws

open Sys2Proof.Machine

theorem keeps_writeRow {w₀ : Bool} {s₀ u₀ : State} (d : List Byte) (y : Nat) (vs : List Word) (hk₀ : Keeps w₀ s₀ u₀) :
    Keeps w₀ s₀ (writeRow d y vs u₀) := by
  unfold writeRow
  repeat' (first
    | with_reducible assumption
    | with_reducible apply keeps_clearPoison
    | with_reducible apply keeps_wrLE
    | with_reducible apply keeps_wrMem
    | with_reducible apply keeps_wrVec
    | with_reducible apply Keeps.ite
    | (intro _ _ _)
    | (intro _ _)
    | intro _
    | dsimp only
    | dsimp only [id_eq]
    | split)

theorem keeps_mapTile {w₀ : Bool} {s₀ u₀ : State} (g : Nat) (f : State → List Byte → TilePos → List Word → List Word) (par : List Byte → TilePos → Nat → Nat × Nat) (c : CourseRun) (n : Nat) (hk₀ : Keeps w₀ s₀ u₀) :
    KeepsTile w₀ s₀ (mapTile g f par c n u₀) := by
  unfold mapTile
  repeat' (first
    | with_reducible assumption
    | with_reducible apply keepsTile_wait
    | with_reducible apply keepsTile_done
    | with_reducible apply keepsTile_fault
    | with_reducible apply keepsTile_ite
    | with_reducible apply keeps_chargeTile
    | with_reducible apply keeps_tileDrained
    | with_reducible apply keeps_tileFilled
    | with_reducible apply keeps_writeRow
    | with_reducible apply KeepsTile.done (by assumption)
    | with_reducible apply KeepsTile.fault (by assumption)
    | (intro _ _ _)
    | (intro _ _)
    | intro _
    | simp only [keeps_mk_iff]
    | dsimp only
    | dsimp only [id_eq]
    | split)

theorem keeps_noLast {w₀ : Bool} {s₀ u₀ : State} (a0 : CourseRun) (hk₀ : Keeps w₀ s₀ u₀) :
    KeepsTile w₀ s₀ (noLast a0 u₀) := by
  unfold noLast
  repeat' (first
    | with_reducible assumption
    | with_reducible apply keepsTile_wait
    | with_reducible apply keepsTile_done
    | with_reducible apply keepsTile_fault
    | with_reducible apply keepsTile_ite
    | with_reducible apply KeepsTile.done (by assumption)
    | with_reducible apply KeepsTile.fault (by assumption)
    | (intro _ _ _)
    | (intro _ _)
    | intro _
    | dsimp only
    | dsimp only [id_eq]
    | split)

theorem keeps_rmsTile {w₀ : Bool} {s₀ u₀ : State} (g : Nat) (c : CourseRun) (n : Nat) (hk₀ : Keeps w₀ s₀ u₀) :
    KeepsTile w₀ s₀ (rmsTile g c n u₀) := by
  unfold rmsTile
  repeat' (first
    | with_reducible assumption
    | with_reducible apply keepsTile_wait
    | with_reducible apply keepsTile_done
    | with_reducible apply keepsTile_fault
    | with_reducible apply keepsTile_ite
    | with_reducible apply keeps_mapTile
    | with_reducible apply KeepsTile.done (by assumption)
    | with_reducible apply KeepsTile.fault (by assumption)
    | (intro _ _ _)
    | (intro _ _)
    | intro _
    | dsimp only
    | dsimp only [id_eq]
    | split)

theorem keeps_layerTile {w₀ : Bool} {s₀ u₀ : State} (g : Nat) (c : CourseRun) (n : Nat) (hk₀ : Keeps w₀ s₀ u₀) :
    KeepsTile w₀ s₀ (layerTile g c n u₀) := by
  unfold layerTile
  repeat' (first
    | with_reducible assumption
    | with_reducible apply keepsTile_wait
    | with_reducible apply keepsTile_done
    | with_reducible apply keepsTile_fault
    | with_reducible apply keepsTile_ite
    | with_reducible apply keeps_mapTile
    | with_reducible apply KeepsTile.done (by assumption)
    | with_reducible apply KeepsTile.fault (by assumption)
    | (intro _ _ _)
    | (intro _ _)
    | intro _
    | dsimp only
    | dsimp only [id_eq]
    | split)

theorem keeps_quantTile {w₀ : Bool} {s₀ u₀ : State} (g : Nat) (c : CourseRun) (n : Nat) (hk₀ : Keeps w₀ s₀ u₀) :
    KeepsTile w₀ s₀ (quantTile g c n u₀) := by
  unfold quantTile
  repeat' (first
    | with_reducible assumption
    | with_reducible apply keepsTile_wait
    | with_reducible apply keepsTile_done
    | with_reducible apply keepsTile_fault
    | with_reducible apply keepsTile_ite
    | with_reducible apply keeps_mapTile
    | with_reducible apply KeepsTile.done (by assumption)
    | with_reducible apply KeepsTile.fault (by assumption)
    | (intro _ _ _)
    | (intro _ _)
    | intro _
    | dsimp only
    | dsimp only [id_eq]
    | split)

theorem keeps_zipTile {w₀ : Bool} {s₀ u₀ : State} (f : Word → Word → Word) (g : Nat) (c : CourseRun) (n : Nat) (hk₀ : Keeps w₀ s₀ u₀) :
    KeepsTile w₀ s₀ (zipTile f g c n u₀) := by
  unfold zipTile
  repeat' (first
    | with_reducible assumption
    | with_reducible apply keepsTile_wait
    | with_reducible apply keepsTile_done
    | with_reducible apply keepsTile_fault
    | with_reducible apply keepsTile_ite
    | with_reducible apply keeps_mapTile
    | with_reducible apply KeepsTile.done (by assumption)
    | with_reducible apply KeepsTile.fault (by assumption)
    | (intro _ _ _)
    | (intro _ _)
    | intro _
    | dsimp only
    | dsimp only [id_eq]
    | split)

theorem keeps_softTile {w₀ : Bool} {s₀ u₀ : State} (g : Nat) (c : CourseRun) (n : Nat) (hk₀ : Keeps w₀ s₀ u₀) :
    KeepsTile w₀ s₀ (softTile g c n u₀) := by
  unfold softTile
  repeat' (first
    | with_reducible assumption
    | with_reducible apply keepsTile_wait
    | with_reducible apply keepsTile_done
    | with_reducible apply keepsTile_fault
    | with_reducible apply keepsTile_ite
    | with_reducible apply keeps_chargeTile
    | with_reducible apply keeps_modAcre
    | with_reducible apply keeps_tileDrained
    | with_reducible apply keeps_tileFilled
    | with_reducible apply keeps_wrMem
    | with_reducible apply KeepsTile.done (by assumption)
    | with_reducible apply KeepsTile.fault (by assumption)
    | (intro _ _ _)
    | (intro _ _)
    | intro _
    | simp only [keeps_mk_iff]
    | dsimp only
    | dsimp only [id_eq]
    | split)

theorem keeps_routeTile {w₀ : Bool} {s₀ u₀ : State} (g : Nat) (c : CourseRun) (n : Nat) (hk₀ : Keeps w₀ s₀ u₀) :
    KeepsTile w₀ s₀ (routeTile g c n u₀) := by
  unfold routeTile
  repeat' (first
    | with_reducible assumption
    | with_reducible apply keepsTile_wait
    | with_reducible apply keepsTile_done
    | with_reducible apply keepsTile_fault
    | with_reducible apply keepsTile_ite
    | with_reducible apply keeps_chargeTile
    | with_reducible apply keeps_modRun
    | with_reducible apply keeps_tileDrained
    | with_reducible apply keeps_wrMem
    | with_reducible apply KeepsTile.done (by assumption)
    | with_reducible apply KeepsTile.fault (by assumption)
    | (intro _ _ _)
    | (intro _ _)
    | intro _
    | simp only [keeps_mk_iff]
    | dsimp only
    | dsimp only [id_eq]
    | split)

theorem keeps_routeLast {w₀ : Bool} {s₀ u₀ : State} (g : Nat) (c : CourseRun) (hk₀ : Keeps w₀ s₀ u₀) :
    KeepsTile w₀ s₀ (routeLast g c u₀) := by
  unfold routeLast
  repeat' (first
    | with_reducible assumption
    | with_reducible apply keepsTile_wait
    | with_reducible apply keepsTile_done
    | with_reducible apply keepsTile_fault
    | with_reducible apply keepsTile_ite
    | with_reducible apply keeps_chargeTile
    | with_reducible apply keeps_setF
    | with_reducible apply keeps_tileFilled
    | with_reducible apply keeps_wrMem
    | with_reducible apply KeepsTile.done (by assumption)
    | with_reducible apply KeepsTile.fault (by assumption)
    | with_reducible apply Keeps.ite
    | (intro _ _ _)
    | (intro _ _)
    | intro _
    | simp only [keeps_mk_iff]
    | dsimp only
    | dsimp only [id_eq]
    | split)

theorem keeps_sampleTile {w₀ : Bool} {s₀ u₀ : State} (g : Nat) (c : CourseRun) (n : Nat) (hk₀ : Keeps w₀ s₀ u₀) :
    KeepsTile w₀ s₀ (sampleTile g c n u₀) := by
  unfold sampleTile
  repeat' (first
    | with_reducible assumption
    | with_reducible apply keepsTile_wait
    | with_reducible apply keepsTile_done
    | with_reducible apply keepsTile_fault
    | with_reducible apply keepsTile_ite
    | with_reducible apply keeps_chargeTile
    | with_reducible apply keeps_tileDrained
    | with_reducible apply keeps_tileFilled
    | with_reducible apply keeps_wrLE
    | with_reducible apply KeepsTile.done (by assumption)
    | with_reducible apply KeepsTile.fault (by assumption)
    | (intro _ _ _)
    | (intro _ _)
    | intro _
    | simp only [keeps_mk_iff]
    | dsimp only
    | dsimp only [id_eq]
    | split)

theorem keeps_orderedTile {w₀ : Bool} {s₀ u₀ : State} (g : Nat) (c : CourseRun) (a2 : Nat) (hk₀ : Keeps w₀ s₀ u₀) :
    KeepsTile w₀ s₀ (orderedTile g c a2 u₀) := by
  unfold orderedTile
  repeat' (first
    | with_reducible assumption
    | with_reducible apply keepsTile_wait
    | with_reducible apply keepsTile_done
    | with_reducible apply keepsTile_fault
    | with_reducible apply keepsTile_ite
    | with_reducible apply keeps_chargeTile
    | with_reducible apply keeps_clearPoison
    | with_reducible apply keeps_gateDrain
    | with_reducible apply keeps_tileFilled
    | with_reducible apply keeps_wrByte
    | with_reducible apply keeps_wrElem
    | with_reducible apply keeps_writeRow
    | with_reducible apply keepsOpt2_findSome
    | with_reducible apply KeepsTile.done (by assumption)
    | with_reducible apply KeepsTile.fault (by assumption)
    | with_reducible apply Keeps.foldl
    | with_reducible apply Keeps.foldl1
    | with_reducible apply Keeps.foldl2
    | with_reducible apply Keeps.foldl22
    | with_reducible apply Keeps.of_pair (by assumption)
    | with_reducible apply Keeps.of_triple (by assumption)
    | with_reducible apply Keeps.of_pair' (by assumption)
    | with_reducible apply Keeps.ite
    | (intro _ _ _)
    | (intro _ _)
    | intro _
    | simp only [keeps_mk_iff]
    | dsimp only
    | dsimp only [id_eq]
    | split)

theorem keeps_vecCourse {w₀ : Bool} {s₀ u₀ : State} (op : Nat) (w : Nat → Walk) (iss : Issue) (h_w_t : ∀ (x0 : Nat) c n u, Keeps w₀ s₀ u → KeepsTile w₀ s₀ ((w x0).tile c n u)) (h_w_l : ∀ (x0 : Nat) c u, Keeps w₀ s₀ u → KeepsTile w₀ s₀ ((w x0).last c u)) (hk₀ : Keeps w₀ s₀ u₀) :
    Keeps w₀ s₀ (vecCourse op w iss u₀) := by
  unfold vecCourse
  repeat' (first
    | with_reducible assumption
    | with_reducible apply h_w_t
    | with_reducible apply h_w_l
    | with_reducible apply keeps_countIssue
    | with_reducible apply keeps_laneCourse
    | with_reducible apply keeps_refuseUnknown
    | (intro _ _ _)
    | (intro _ _)
    | intro _
    | simp only [keeps_mk_iff]
    | dsimp only
    | dsimp only [id_eq]
    | split)

theorem keeps_orderedSum {w₀ : Bool} {s₀ u₀ : State} (iss : Issue) (hk₀ : Keeps w₀ s₀ u₀) :
    Keeps w₀ s₀ (orderedSum iss u₀) := by
  unfold orderedSum
  repeat' (first
    | with_reducible assumption
    | with_reducible apply keeps_countIssue
    | with_reducible apply keeps_laneCourse
    | with_reducible apply keeps_noLast
    | with_reducible apply keeps_orderedTile
    | with_reducible apply keeps_refuseUnknown
    | with_reducible apply KeepsTile.done (by assumption)
    | with_reducible apply KeepsTile.fault (by assumption)
    | (intro _ _ _)
    | (intro _ _)
    | intro _
    | simp only [keeps_mk_iff]
    | dsimp only
    | dsimp only [id_eq]
    | split)

end Sys2Proof.Laws
end

