-- ==== Sys2Proof/Laws/KeepsMove.lean ====
section
/-!
SUPPORT. What the operations of Machine/Move.lean keep (see Keeps).
-/

namespace Sys2Proof.Laws

open Sys2Proof.Machine

theorem keeps_wrAt {w₀ : Bool} {s₀ u₀ : State} (f : LFmt) (y : Nat) (es : List (Nat × Nat)) (hk₀ : Keeps w₀ s₀ u₀) :
    Keeps w₀ s₀ (wrAt f y es u₀) := by
  unfold wrAt
  repeat' (first
    | with_reducible assumption
    | with_reducible apply keeps_wrElem
    | with_reducible apply Keeps.foldl
    | with_reducible apply Keeps.foldl1
    | with_reducible apply Keeps.foldl2
    | with_reducible apply Keeps.foldl22
    | with_reducible apply Keeps.of_pair (by assumption)
    | with_reducible apply Keeps.of_triple (by assumption)
    | with_reducible apply Keeps.of_pair' (by assumption)
    | (intro _ _ _)
    | (intro _ _)
    | intro _
    | dsimp only
    | dsimp only [id_eq]
    | split)

theorem keeps_moveTile {w₀ : Bool} {s₀ u₀ : State} (g : Nat) (span : List Byte → Nat → Nat) (elems : State → List Byte → Nat → Nat → List (Nat × Nat)) (c : CourseRun) (n : Nat) (hk₀ : Keeps w₀ s₀ u₀) :
    KeepsTile w₀ s₀ (moveTile g span elems c n u₀) := by
  unfold moveTile
  repeat' (first
    | with_reducible assumption
    | with_reducible apply keepsTile_wait
    | with_reducible apply keepsTile_done
    | with_reducible apply keepsTile_fault
    | with_reducible apply keepsTile_ite
    | with_reducible apply keeps_chargeTile
    | with_reducible apply keeps_clearPoison
    | with_reducible apply keeps_tileDrained
    | with_reducible apply keeps_tileFilled
    | with_reducible apply keeps_wrAt
    | with_reducible apply KeepsTile.done (by assumption)
    | with_reducible apply KeepsTile.fault (by assumption)
    | with_reducible apply Keeps.ite
    | (intro _ _ _)
    | (intro _ _)
    | intro _
    | simp only [keeps_mk_iff]
    | dsimp only
    | dsimp only [id_eq]
    | split)

theorem keeps_fillTile {w₀ : Bool} {s₀ u₀ : State} (g : Nat) (c : CourseRun) (n : Nat) (hk₀ : Keeps w₀ s₀ u₀) :
    KeepsTile w₀ s₀ (fillTile g c n u₀) := by
  unfold fillTile
  repeat' (first
    | with_reducible assumption
    | with_reducible apply keepsTile_wait
    | with_reducible apply keepsTile_done
    | with_reducible apply keepsTile_fault
    | with_reducible apply keepsTile_ite
    | with_reducible apply keeps_chargeTile
    | with_reducible apply keeps_clearPoison
    | with_reducible apply keeps_tileFilled
    | with_reducible apply keeps_wrAt
    | with_reducible apply KeepsTile.done (by assumption)
    | with_reducible apply KeepsTile.fault (by assumption)
    | (intro _ _ _)
    | (intro _ _)
    | intro _
    | simp only [keeps_mk_iff]
    | dsimp only
    | dsimp only [id_eq]
    | split)

theorem keeps_expandTile {w₀ : Bool} {s₀ u₀ : State} (g : Nat) (c : CourseRun) (n : Nat) (hk₀ : Keeps w₀ s₀ u₀) :
    KeepsTile w₀ s₀ (expandTile g c n u₀) := by
  unfold expandTile
  repeat' (first
    | with_reducible assumption
    | with_reducible apply keepsTile_wait
    | with_reducible apply keepsTile_done
    | with_reducible apply keepsTile_fault
    | with_reducible apply keepsTile_ite
    | with_reducible apply keeps_chargeTile
    | with_reducible apply keeps_clearPoison
    | with_reducible apply keeps_tileDrained
    | with_reducible apply keeps_tileFilled
    | with_reducible apply keeps_wrAt
    | with_reducible apply keeps_wrLE
    | with_reducible apply KeepsTile.done (by assumption)
    | with_reducible apply KeepsTile.fault (by assumption)
    | with_reducible apply Keeps.ite
    | (intro _ _ _)
    | (intro _ _)
    | intro _
    | simp only [keeps_mk_iff]
    | dsimp only
    | dsimp only [id_eq]
    | split)

theorem keeps_tookFree {w₀ : Bool} {s₀ : State} (k : Nat) (r : TileRes) (hk₀ : KeepsTile w₀ s₀ r) : KeepsTile w₀ s₀ (tookFree k r) := by
  unfold tookFree
  split
  · exact (keeps_mk_iff ..).2 hk₀
  · exact hk₀

theorem keeps_copyTile {w₀ : Bool} {s₀ u₀ : State} (g : Nat) (c : CourseRun) (n : Nat) (hk₀ : Keeps w₀ s₀ u₀) :
    KeepsTile w₀ s₀ (copyTile g c n u₀) := by
  unfold copyTile
  repeat' (first
    | with_reducible assumption
    | with_reducible apply keepsTile_wait
    | with_reducible apply keepsTile_done
    | with_reducible apply keepsTile_fault
    | with_reducible apply keepsTile_ite
    | with_reducible apply keeps_moveTile
    | with_reducible apply KeepsTile.done (by assumption)
    | with_reducible apply KeepsTile.fault (by assumption)
    | (intro _ _ _)
    | (intro _ _)
    | intro _
    | dsimp only
    | dsimp only [id_eq]
    | split)

theorem keeps_transTile {w₀ : Bool} {s₀ u₀ : State} (g : Nat) (c : CourseRun) (n : Nat) (hk₀ : Keeps w₀ s₀ u₀) :
    KeepsTile w₀ s₀ (transTile g c n u₀) := by
  unfold transTile
  repeat' (first
    | with_reducible assumption
    | with_reducible apply keepsTile_wait
    | with_reducible apply keepsTile_done
    | with_reducible apply keepsTile_fault
    | with_reducible apply keepsTile_ite
    | with_reducible apply keeps_moveTile
    | with_reducible apply keeps_tookFree
    | with_reducible apply KeepsTile.done (by assumption)
    | with_reducible apply KeepsTile.fault (by assumption)
    | with_reducible apply Keeps.ite
    | (intro _ _ _)
    | (intro _ _)
    | intro _
    | dsimp only
    | dsimp only [id_eq]
    | split)

theorem keeps_strideTile {w₀ : Bool} {s₀ u₀ : State} (g : Nat) (c : CourseRun) (n : Nat) (hk₀ : Keeps w₀ s₀ u₀) :
    KeepsTile w₀ s₀ (strideTile g c n u₀) := by
  unfold strideTile
  repeat' (first
    | with_reducible assumption
    | with_reducible apply keepsTile_wait
    | with_reducible apply keepsTile_done
    | with_reducible apply keepsTile_fault
    | with_reducible apply keepsTile_ite
    | with_reducible apply keeps_moveTile
    | with_reducible apply KeepsTile.done (by assumption)
    | with_reducible apply KeepsTile.fault (by assumption)
    | (intro _ _ _)
    | (intro _ _)
    | intro _
    | dsimp only
    | dsimp only [id_eq]
    | split)

theorem keeps_moveCourse {w₀ : Bool} {s₀ u₀ : State} (op : Nat) (tile : Nat → CourseRun → Nat → State → TileRes) (iss : Issue) (h_tile : ∀ (x0 : Nat) (x1 : CourseRun) (x2 : Nat) (x3 : State), Keeps w₀ s₀ x3 → KeepsTile w₀ s₀ (tile x0 x1 x2 x3)) (hk₀ : Keeps w₀ s₀ u₀) :
    Keeps w₀ s₀ (moveCourse op tile iss u₀) := by
  unfold moveCourse
  repeat' (first
    | with_reducible assumption
    | with_reducible apply h_tile
    | with_reducible apply keeps_noLast
    | with_reducible apply keeps_countIssue
    | with_reducible apply keeps_laneCourse
    | with_reducible apply keeps_refuseUnknown
    | with_reducible apply KeepsTile.done (by assumption)
    | with_reducible apply KeepsTile.fault (by assumption)
    | (intro _ _ _)
    | (intro _ _)
    | intro _
    | simp only [keeps_mk_iff]
    | dsimp only
    | dsimp only [id_eq]
    | dsimp only [walkOf]
    | split)

end Sys2Proof.Laws
end

