-- ==== Sys2Proof/Laws/KeepsScratchpad.lean ====
section
/-!
SUPPORT. What the operations of Machine/Scratchpad.lean keep (see Keeps).
-/

namespace Sys2Proof.Laws

open Sys2Proof.Machine

theorem keeps_setBank {w₀ : Bool} {s₀ u₀ : State} (g : Nat) (k : Nat) (b : BankSt) (hk₀ : Keeps w₀ s₀ u₀) :
    Keeps w₀ s₀ (setBank g k b u₀) := by
  unfold setBank
  repeat' (first
    | with_reducible assumption
    | with_reducible apply keeps_modAcre
    | (intro _ _ _)
    | (intro _ _)
    | intro _
    | simp only [keeps_mk_iff]
    | dsimp only
    | dsimp only [id_eq]
    | split)

theorem keeps_retireAcre {w₀ : Bool} {s₀ u₀ : State} (g : Nat) (hk₀ : Keeps w₀ s₀ u₀) :
    Keeps w₀ s₀ (retireAcre g u₀) := by
  unfold retireAcre
  repeat' (first
    | with_reducible assumption
    | with_reducible apply keeps_replaceAcre
    | (intro _ _ _)
    | (intro _ _)
    | intro _
    | dsimp only
    | dsimp only [id_eq]
    | split)

theorem keeps_startColumn {w₀ : Bool} {s₀ u₀ : State} (g : Nat) (k : Nat) (col : Nat) (hk₀ : Keeps w₀ s₀ u₀) :
    Keeps w₀ s₀ (startColumn g k col u₀) := by
  unfold startColumn
  repeat' (first
    | with_reducible assumption
    | with_reducible apply keeps_modAcre
    | with_reducible apply keeps_retireAcre
    | with_reducible apply Keeps.ite
    | (intro _ _ _)
    | (intro _ _)
    | intro _
    | simp only [keeps_mk_iff]
    | dsimp only
    | dsimp only [id_eq]
    | split)

theorem keeps_logCorrected {w₀ : Bool} {s₀ u₀ : State} (g : Nat) (k : Nat) (hk₀ : Keeps w₀ s₀ u₀) :
    Keeps w₀ s₀ (logCorrected g k u₀) := by
  unfold logCorrected
  repeat' (first
    | with_reducible assumption
    | with_reducible apply keeps_lastEvt
    | with_reducible apply keeps_logStatus
    | with_reducible apply keeps_modAcre
    | with_reducible apply Keeps.ite
    | (intro _ _ _)
    | (intro _ _)
    | intro _
    | simp only [keeps_mk_iff]
    | dsimp only
    | dsimp only [id_eq]
    | split)

theorem keeps_correctedWord {w₀ : Bool} {s₀ u₀ : State} (g : Nat) (w : Nat) (col : Nat) (cycle : Nat) (hk₀ : Keeps w₀ s₀ u₀) :
    Keeps w₀ s₀ (correctedWord g w col cycle u₀) := by
  unfold correctedWord
  repeat' (first
    | with_reducible assumption
    | with_reducible apply keeps_bumpF
    | with_reducible apply keeps_logCorrected
    | with_reducible apply keeps_modAcre
    | with_reducible apply keeps_startColumn
    | with_reducible apply Keeps.ite
    | (intro _ _ _)
    | (intro _ _)
    | intro _
    | simp only [keeps_mk_iff]
    | dsimp only
    | dsimp only [id_eq]
    | split)

theorem keeps_poisonWord {w₀ : Bool} {s₀ u₀ : State} (g : Nat) (w : Nat) (hk₀ : Keeps w₀ s₀ u₀) :
    Keeps w₀ s₀ (poisonWord g w u₀) := by
  unfold poisonWord
  repeat' (first
    | with_reducible assumption
    | with_reducible apply keeps_bumpF
    | with_reducible apply keeps_modAcre
    | (intro _ _ _)
    | (intro _ _)
    | intro _
    | simp only [keeps_mk_iff]
    | dsimp only
    | dsimp only [id_eq]
    | split)

theorem keeps_wordErr {w₀ : Bool} {s₀ u₀ : State} (g : Nat) (w : Nat) (cycle : Nat) (e : WordErr) (hk₀ : Keeps w₀ s₀ u₀) :
    Keeps w₀ s₀ (wordErr g w cycle e u₀).1 := by
  unfold wordErr
  repeat' (first
    | with_reducible assumption
    | with_reducible apply keeps_correctedWord
    | with_reducible apply keeps_modAcre
    | with_reducible apply keeps_poisonWord
    | with_reducible apply Keeps.ite
    | (intro _ _ _)
    | (intro _ _)
    | intro _
    | simp only [keeps_mk_iff]
    | dsimp only
    | dsimp only [id_eq]
    | split)

theorem keeps_wordErrs {w₀ : Bool} {s₀ : State} (g off cycle : Nat) (es : List WordErr) (r : State × Bool) (hk₀ : Keeps w₀ s₀ r.1) :
    Keeps w₀ s₀ (wordErrs g off cycle es r).1 := by
  induction es generalizing r with
  | nil => exact hk₀
  | cons e es ih => exact ih _ (keeps_wordErr _ _ _ _ hk₀)

theorem keeps_faultTask {w₀ : Bool} {s₀ u₀ : State} (g : Nat) (task : Nat) (code : Nat) (bank : Nat) (by_ : Option Nat) (hk₀ : Keeps w₀ s₀ u₀) :
    Keeps w₀ s₀ (faultTask g task code bank by_ u₀) := by
  unfold faultTask
  repeat' (first
    | with_reducible assumption
    | with_reducible apply keeps_faultPend
    | with_reducible apply keeps_faultRun
    | with_reducible apply keeps_withSome
    | (intro _ _ _)
    | (intro _ _)
    | intro _
    | simp only [keeps_mk_iff]
    | dsimp only
    | dsimp only [id_eq]
    | split)

theorem keeps_wakeFor {w₀ : Bool} {s₀ u₀ : State} (g : Nat) (hk₀ : Keeps w₀ s₀ u₀) :
    Keeps w₀ s₀ (wakeFor g u₀) := by
  unfold wakeFor
  repeat' (first
    | with_reducible assumption
    | with_reducible apply keeps_startWake
    | (intro _ _ _)
    | (intro _ _)
    | intro _
    | simp only [keeps_mk_iff]
    | dsimp only
    | dsimp only [id_eq]
    | split)

theorem keeps_doAccess {w₀ : Bool} {s₀ u₀ : State} (g : Nat) (x : SpadAcc) (off : Nat) (addr : Nat) (hk₀ : Keeps w₀ s₀ u₀) :
    Keeps w₀ s₀ (doAccess g x off addr u₀) := by
  unfold doAccess
  repeat' (first
    | with_reducible assumption
    | with_reducible apply keeps_emit
    | with_reducible apply keeps_faultTask
    | with_reducible apply keeps_modAcre
    | with_reducible apply keeps_wordErrs
    | with_reducible apply keeps_wrMem
    | with_reducible apply Keeps.of_pair' (by assumption)
    | with_reducible apply Keeps.ite
    | (intro _ _ _)
    | (intro _ _)
    | intro _
    | dsimp only
    | dsimp only [id_eq]
    | split)

theorem keeps_badAccess {w₀ : Bool} {s₀ u₀ : State} (g : Nat) (x : SpadAcc) (off : Nat) (hk₀ : Keeps w₀ s₀ u₀) :
    Keeps w₀ s₀ (badAccess g x off u₀) := by
  unfold badAccess
  repeat' (first
    | with_reducible assumption
    | with_reducible apply keeps_countErr
    | with_reducible apply keeps_emit
    | with_reducible apply keeps_faultTask
    | with_reducible apply Keeps.ite
    | (intro _ _ _)
    | (intro _ _)
    | intro _
    | dsimp only
    | dsimp only [id_eq]
    | split)

theorem keeps_plainAccess {w₀ : Bool} {s₀ u₀ : State} (g : Nat) (x : SpadAcc) (off : Nat) (hk₀ : Keeps w₀ s₀ u₀) :
    Keeps w₀ s₀ (plainAccess g x off u₀) := by
  unfold plainAccess
  repeat' (first
    | with_reducible assumption
    | with_reducible apply keeps_badAccess
    | with_reducible apply keeps_bumpPair
    | with_reducible apply keeps_doAccess
    | with_reducible apply Keeps.ite
    | (intro _ _ _)
    | (intro _ _)
    | intro _
    | dsimp only
    | dsimp only [id_eq]
    | split)

theorem keeps_spadAccess {w₀ : Bool} {s₀ u₀ : State} (x : SpadAcc) (hk₀ : Keeps w₀ s₀ u₀) :
    Keeps w₀ s₀ (spadAccess x u₀) := by
  unfold spadAccess
  repeat' (first
    | with_reducible assumption
    | with_reducible apply keeps_countErr
    | with_reducible apply keeps_emit
    | with_reducible apply keeps_plainAccess
    | with_reducible apply keeps_wakeFor
    | with_reducible apply Keeps.ite
    | (intro _ _ _)
    | (intro _ _)
    | intro _
    | dsimp only
    | dsimp only [id_eq]
    | split)

theorem keeps_aliasWrite {w₀ : Bool} {s₀ u₀ : State} (x : SpadAcc) (set : Bool) (hk₀ : Keeps w₀ s₀ u₀) :
    Keeps w₀ s₀ (aliasWrite x set u₀) := by
  unfold aliasWrite
  repeat' (first
    | with_reducible assumption
    | with_reducible apply keeps_badAccess
    | with_reducible apply keeps_modAcre
    | with_reducible apply keeps_wakeFor
    | with_reducible apply keeps_wordErrs
    | with_reducible apply keeps_wrLE
    | with_reducible apply Keeps.of_pair' (by assumption)
    | with_reducible apply Keeps.ite
    | (intro _ _ _)
    | (intro _ _)
    | intro _
    | simp only [keeps_mk_iff]
    | dsimp only
    | dsimp only [id_eq]
    | split)

theorem keeps_wrBankBytes {w₀ : Bool} {s₀ u₀ : State} (g k w : Nat) (bs : List Byte) (hk₀ : Keeps w₀ s₀ u₀) : Keeps w₀ s₀ (wrBankBytes g k w bs u₀) := by
  induction bs generalizing w u₀ with
  | nil => exact hk₀
  | cons b bs ih => exact ih _ (keeps_mk_spad (fun h => canonK_setK _ _ _ _ h) hk₀)

theorem keeps_circWrite {w₀ : Bool} {s₀ u₀ : State} (g : Nat) (k : Nat) (data : List Byte) (hk₀ : Keeps w₀ s₀ u₀) :
    Keeps w₀ s₀ (circWrite g k data u₀) := by
  unfold circWrite
  repeat' (first
    | with_reducible assumption
    | with_reducible apply keeps_countErr
    | with_reducible apply keeps_setBank
    | with_reducible apply keeps_wrBankBytes
    | with_reducible apply Keeps.ite
    | (intro _ _ _)
    | (intro _ _)
    | intro _
    | simp only [keeps_mk_iff]
    | dsimp only
    | dsimp only [id_eq]
    | split)

theorem keeps_circRead {w₀ : Bool} {s₀ u₀ : State} (g : Nat) (k : Nat) (line : Bool) (hk₀ : Keeps w₀ s₀ u₀) :
    Keeps w₀ s₀ (circRead g k line u₀) := by
  unfold circRead
  repeat' (first
    | with_reducible assumption
    | with_reducible apply keeps_countErr
    | with_reducible apply keeps_emit
    | with_reducible apply keeps_setBank
    | with_reducible apply Keeps.ite
    | (intro _ _ _)
    | (intro _ _)
    | intro _
    | simp only [keeps_mk_iff]
    | dsimp only
    | dsimp only [id_eq]
    | split)

theorem keeps_eccWriteback {w₀ : Bool} {s₀ u₀ : State} (g : Nat) (w : Nat) (hk₀ : Keeps w₀ s₀ u₀) :
    Keeps w₀ s₀ (eccWriteback g w u₀) := by
  unfold eccWriteback
  repeat' (first
    | with_reducible assumption
    | with_reducible apply keeps_modAcre
    | with_reducible apply Keeps.ite
    | (intro _ _ _)
    | (intro _ _)
    | intro _
    | simp only [keeps_mk_iff]
    | dsimp only
    | dsimp only [id_eq]
    | split)

theorem keeps_columnDone {w₀ : Bool} {s₀ u₀ : State} (g : Nat) (k : Nat) (hk₀ : Keeps w₀ s₀ u₀) :
    Keeps w₀ s₀ (columnDone g k u₀) := by
  unfold columnDone
  repeat' (first
    | with_reducible assumption
    | with_reducible apply keeps_lastEvt
    | with_reducible apply keeps_logStatus
    | with_reducible apply keeps_modAcre
    | with_reducible apply keeps_setF
    | with_reducible apply Keeps.ite
    | (intro _ _ _)
    | (intro _ _)
    | intro _
    | simp only [keeps_mk_iff]
    | dsimp only
    | dsimp only [id_eq]
    | split)

theorem keeps_scrubLine {w₀ : Bool} {s₀ u₀ : State} (g : Nat) (errs : List (Bank × WordErr)) (cycle : Nat) (hk₀ : Keeps w₀ s₀ u₀) :
    Keeps w₀ s₀ (scrubLine g errs cycle u₀) := by
  unfold scrubLine
  repeat' (first
    | with_reducible assumption
    | with_reducible apply keeps_bumpF
    | with_reducible apply keeps_modAcre
    | with_reducible apply keeps_wordErr
    | with_reducible apply Keeps.of_pair' (by assumption)
    | with_reducible apply Keeps.foldl
    | with_reducible apply Keeps.foldl1
    | with_reducible apply Keeps.foldl2
    | with_reducible apply Keeps.foldl22
    | with_reducible apply Keeps.of_pair (by assumption)
    | with_reducible apply Keeps.of_triple (by assumption)
    | with_reducible apply Keeps.ite
    | (intro _ _ _)
    | (intro _ _)
    | intro _
    | simp only [keeps_mk_iff]
    | dsimp only
    | dsimp only [id_eq]
    | split)

theorem keeps_mgmtTimeout {w₀ : Bool} {s₀ u₀ : State} (die : Nat) (la : Nat) (off : Nat) (write : Bool) (hk₀ : Keeps w₀ s₀ u₀) :
    Keeps w₀ s₀ (mgmtTimeout die la off write u₀) := by
  unfold mgmtTimeout
  repeat' (first
    | with_reducible assumption
    | with_reducible apply keeps_countErr
    | with_reducible apply keeps_emit
    | with_reducible apply Keeps.ite
    | (intro _ _ _)
    | (intro _ _)
    | intro _
    | dsimp only
    | dsimp only [id_eq]
    | split)

theorem keeps_sluiceGo {w₀ : Bool} {s₀ u₀ : State} (g : Nat) (data : Word) (hk₀ : Keeps w₀ s₀ u₀) :
    Keeps w₀ s₀ (sluiceGo g data u₀) := by
  unfold sluiceGo
  repeat' (first
    | with_reducible assumption
    | with_reducible apply keeps_irqRaise
    | with_reducible apply keeps_modAcre
    | with_reducible apply keeps_regSet
    | with_reducible apply keeps_setF
    | with_reducible apply Keeps.ite
    | (intro _ _ _)
    | (intro _ _)
    | intro _
    | simp only [keeps_mk_iff]
    | dsimp only
    | dsimp only [id_eq]
    | split)

theorem keeps_sluiceComplete {w₀ : Bool} {s₀ u₀ : State} (g : Nat) (hk₀ : Keeps w₀ s₀ u₀) :
    Keeps w₀ s₀ (sluiceComplete g u₀) := by
  unfold sluiceComplete
  repeat' (first
    | with_reducible assumption
    | with_reducible apply keeps_irqRaise
    | with_reducible apply keeps_modAcre
    | with_reducible apply keeps_setBank
    | with_reducible apply keeps_setF
    | with_reducible apply Keeps.ite
    | (intro _ _ _)
    | (intro _ _)
    | intro _
    | simp only [keeps_mk_iff]
    | dsimp only
    | dsimp only [id_eq]
    | split)

theorem keeps_bistRun {w₀ : Bool} {s₀ u₀ : State} (g : Nat) (data : Word) (hk₀ : Keeps w₀ s₀ u₀) :
    Keeps w₀ s₀ (bistRun g data u₀) := by
  unfold bistRun
  repeat' (first
    | with_reducible assumption
    | with_reducible apply keeps_modAcre
    | with_reducible apply keeps_setF
    | with_reducible apply Keeps.ite
    | (intro _ _ _)
    | (intro _ _)
    | intro _
    | simp only [keeps_mk_iff]
    | dsimp only
    | dsimp only [id_eq]
    | split)

theorem keeps_fillBank {w₀ : Bool} {s₀ u₀ : State} (g : Nat) (k : Nat) (b : Byte) (hk₀ : Keeps w₀ s₀ u₀) :
    Keeps w₀ s₀ (fillBank g k b u₀) := by
  unfold fillBank
  repeat' (first
    | with_reducible assumption
    | with_reducible apply keeps_modAcre
    | with_reducible apply keeps_wrBankBytes
    | (intro _ _ _)
    | (intro _ _)
    | intro _
    | simp only [keeps_mk_iff]
    | dsimp only
    | dsimp only [id_eq]
    | split)

theorem keeps_bistDone {w₀ : Bool} {s₀ u₀ : State} (g : Nat) (fail : Option Nat) (hk₀ : Keeps w₀ s₀ u₀) :
    Keeps w₀ s₀ (bistDone g fail u₀) := by
  unfold bistDone
  repeat' (first
    | with_reducible assumption
    | with_reducible apply keeps_fillBank
    | with_reducible apply keeps_irqRaise
    | with_reducible apply keeps_modAcre
    | with_reducible apply keeps_setB
    | with_reducible apply keeps_setF
    | with_reducible apply keeps_startColumn
    | with_reducible apply keeps_withSome
    | with_reducible apply Keeps.ite
    | (intro _ _ _)
    | (intro _ _)
    | intro _
    | simp only [keeps_mk_iff]
    | dsimp only
    | dsimp only [id_eq]
    | split)

theorem keeps_reservoirScrub {w₀ : Bool} {s₀ u₀ : State} (die : Nat) (line : Nat) (err : ReadErr) (dirty : Bool) (loc : Option (Nat × Nat × Nat)) (hk₀ : Keeps w₀ s₀ u₀) :
    Keeps w₀ s₀ (reservoirScrub die line err dirty loc u₀) := by
  unfold reservoirScrub
  repeat' (first
    | with_reducible assumption
    | with_reducible apply keeps_bumpF
    | with_reducible apply keeps_logEv
    | with_reducible apply keeps_withSome
    | with_reducible apply Keeps.ite
    | (intro _ _ _)
    | (intro _ _)
    | intro _
    | simp only [keeps_mk_iff]
    | dsimp only
    | dsimp only [id_eq]
    | split)

end Sys2Proof.Laws
end

