-- ==== Sys2Proof/Laws/KeepsFlume.lean ====
section
/-!
SUPPORT. What the operations of Machine/Flume.lean keep (see Keeps).
-/

namespace Sys2Proof.Laws

open Sys2Proof.Machine

theorem keeps_putChan {w₀ : Bool} {s₀ u₀ : State} (k : Nat) (v : Chan) (hk₀ : Keeps w₀ s₀ u₀) :
    Keeps w₀ s₀ (putChan k v u₀) := by
  unfold putChan
  repeat' (first
    | with_reducible assumption
    | (intro _ _ _)
    | (intro _ _)
    | intro _
    | simp only [keeps_mk_iff]
    | dsimp only
    | dsimp only [id_eq]
    | split)

theorem keeps_dropChan {w₀ : Bool} {s₀ u₀ : State} (k : Nat) (hk₀ : Keeps w₀ s₀ u₀) :
    Keeps w₀ s₀ (dropChan k u₀) := by
  unfold dropChan
  repeat' (first
    | with_reducible assumption
    | (intro _ _ _)
    | (intro _ _)
    | intro _
    | simp only [keeps_mk_iff]
    | dsimp only
    | dsimp only [id_eq]
    | split)

theorem keeps_modChan {w₀ : Bool} {s₀ u₀ : State} (k : Nat) (f : Chan → Chan) (hk₀ : Keeps w₀ s₀ u₀) :
    Keeps w₀ s₀ (modChan k f u₀) := by
  unfold modChan
  repeat' (first
    | with_reducible assumption
    | with_reducible apply keeps_putChan
    | with_reducible apply keeps_withSome
    | (intro _ _ _)
    | (intro _ _)
    | intro _
    | simp only [keeps_mk_iff]
    | dsimp only
    | dsimp only [id_eq]
    | split)

theorem keeps_countChans {w₀ : Bool} {s₀ u₀ : State} (hk₀ : Keeps w₀ s₀ u₀) :
    Keeps w₀ s₀ (countChans u₀) := by
  unfold countChans
  repeat' (first
    | with_reducible assumption
    | with_reducible apply keeps_setF
    | with_reducible apply Keeps.foldl
    | with_reducible apply Keeps.foldl1
    | with_reducible apply Keeps.foldl2
    | with_reducible apply Keeps.foldl22
    | with_reducible apply Keeps.of_pair (by assumption)
    | with_reducible apply Keeps.of_triple (by assumption)
    | with_reducible apply Keeps.of_pair' (by assumption)
    | (intro _ _ _)
    | (intro _ _)
    | intro _
    | dsimp only
    | dsimp only [id_eq]
    | split)

theorem keeps_receive {w₀ : Bool} {s₀ u₀ : State} (port : Nat) (type : Nat) (bs : List Byte) (f : Dgram → State → State) (h_f : ∀ (x0 : Dgram) (x1 : State), Keeps w₀ s₀ x1 → Keeps w₀ s₀ (f x0 x1)) (hk₀ : Keeps w₀ s₀ u₀) :
    Keeps w₀ s₀ (receive port type bs f u₀) := by
  unfold receive
  repeat' (first
    | with_reducible assumption
    | with_reducible apply h_f
    | with_reducible apply keeps_bumpF
    | with_reducible apply keeps_idleExit
    | with_reducible apply Keeps.ite
    | (intro _ _ _)
    | (intro _ _)
    | intro _
    | dsimp only
    | dsimp only [id_eq]
    | split)

theorem keeps_sendDgram {w₀ : Bool} {s₀ u₀ : State} (k : Nat) (port : Nat) (c : Chan) (d : Dgram) (hk₀ : Keeps w₀ s₀ u₀) :
    Keeps w₀ s₀ (sendDgram k port c d u₀) := by
  unfold sendDgram
  repeat' (first
    | with_reducible assumption
    | with_reducible apply keeps_bumpPair
    | with_reducible apply keeps_emit
    | (intro _ _ _)
    | (intro _ _)
    | intro _
    | simp only [keeps_mk_iff]
    | dsimp only
    | dsimp only [id_eq]
    | split)

theorem keeps_sendCtl {w₀ : Bool} {s₀ u₀ : State} (k : Nat) (c : Chan) (d : Dgram) (hk₀ : Keeps w₀ s₀ u₀) :
    Keeps w₀ s₀ (sendCtl k c d u₀) := by
  unfold sendCtl
  repeat' (first
    | with_reducible assumption
    | with_reducible apply keeps_sendDgram
    | (intro _ _ _)
    | (intro _ _)
    | intro _
    | simp only [keeps_mk_iff]
    | dsimp only
    | dsimp only [id_eq]
    | split)

theorem keeps_sendAck {w₀ : Bool} {s₀ u₀ : State} (k : Nat) (hk₀ : Keeps w₀ s₀ u₀) :
    Keeps w₀ s₀ (sendAck k u₀) := by
  unfold sendAck
  repeat' (first
    | with_reducible assumption
    | with_reducible apply keeps_putChan
    | with_reducible apply keeps_sendCtl
    | with_reducible apply keeps_withSome
    | (intro _ _ _)
    | (intro _ _)
    | intro _
    | simp only [keeps_mk_iff]
    | dsimp only
    | dsimp only [id_eq]
    | split)

theorem keeps_failRecord {w₀ : Bool} {s₀ u₀ : State} (k : Nat) (off : Nat) (len : Nat) (hk₀ : Keeps w₀ s₀ u₀) :
    Keeps w₀ s₀ (failRecord k off len u₀).2 := by
  unfold failRecord
  repeat' (first
    | with_reducible assumption
    | with_reducible apply keeps_putChan
    | with_reducible apply keeps_sendCtl
    | with_reducible apply Keeps.foldl
    | with_reducible apply Keeps.foldl1
    | with_reducible apply Keeps.foldl2
    | with_reducible apply Keeps.foldl22
    | with_reducible apply Keeps.of_pair (by assumption)
    | with_reducible apply Keeps.of_triple (by assumption)
    | with_reducible apply Keeps.of_pair' (by assumption)
    | with_reducible apply Keeps.ite
    | (intro _ _ _)
    | (intro _ _)
    | intro _
    | simp only [keeps_mk_iff]
    | dsimp only
    | dsimp only [id_eq]
    | split)

theorem keeps_passTo {w₀ : Bool} {s₀ u₀ : State} (k : Nat) (addr : Nat) (hk₀ : Keeps w₀ s₀ u₀) :
    Keeps w₀ s₀ (passTo k addr u₀) := by
  unfold passTo
  repeat' (first
    | with_reducible assumption
    | with_reducible apply keeps_modChan
    | (intro _ _ _)
    | (intro _ _)
    | intro _
    | simp only [keeps_mk_iff]
    | dsimp only
    | dsimp only [id_eq]
    | split)

theorem keeps_sendBurst {w₀ : Bool} {s₀ u₀ : State} (k : Nat) (c : Chan) (b : Burst) (hk₀ : Keeps w₀ s₀ u₀) :
    Keeps w₀ s₀ (sendBurst k c b u₀) := by
  unfold sendBurst
  repeat' (first
    | with_reducible assumption
    | with_reducible apply keeps_sendDgram
    | with_reducible apply Keeps.ite
    | (intro _ _ _)
    | (intro _ _)
    | intro _
    | simp only [keeps_mk_iff]
    | dsimp only
    | dsimp only [id_eq]
    | split)

theorem keeps_pump {w₀ : Bool} {s₀ u₀ : State} (k n : Nat) (hk₀ : Keeps w₀ s₀ u₀) :
    Keeps w₀ s₀ (pump k n u₀) := by
  induction n generalizing u₀ with
  | zero =>
    rw [pump]
    repeat' (first
    | with_reducible assumption
    | with_reducible apply keeps_putChan
    | with_reducible apply keeps_sendBurst
    | with_reducible apply Keeps.ite
    | (intro _ _ _)
    | (intro _ _)
    | intro _
    | simp only [keeps_mk_iff]
    | dsimp only
    | dsimp only [id_eq]
    | split)
  | succ n₀ ih =>
    rw [pump]
    repeat' (first
    | with_reducible assumption
    | with_reducible apply ih
    | with_reducible apply keeps_putChan
    | with_reducible apply keeps_sendBurst
    | with_reducible apply Keeps.ite
    | (intro _ _ _)
    | (intro _ _)
    | intro _
    | simp only [keeps_mk_iff]
    | dsimp only
    | dsimp only [id_eq]
    | split)

theorem keeps_pumpAll {w₀ : Bool} {s₀ u₀ : State} (k : Nat) (hk₀ : Keeps w₀ s₀ u₀) :
    Keeps w₀ s₀ (pumpAll k u₀) := by
  unfold pumpAll
  repeat' (first
    | with_reducible assumption
    | with_reducible apply keeps_pump
    | (intro _ _ _)
    | (intro _ _)
    | intro _
    | dsimp only
    | dsimp only [id_eq]
    | split)

theorem keeps_resend {w₀ : Bool} {s₀ u₀ : State} (k : Nat) (seq : Nat) (hk₀ : Keeps w₀ s₀ u₀) :
    Keeps w₀ s₀ (resend k seq u₀) := by
  unfold resend
  repeat' (first
    | with_reducible assumption
    | with_reducible apply keeps_bumpF
    | with_reducible apply keeps_putChan
    | with_reducible apply keeps_sendBurst
    | with_reducible apply Keeps.ite
    | (intro _ _ _)
    | (intro _ _)
    | intro _
    | simp only [keeps_mk_iff]
    | dsimp only
    | dsimp only [id_eq]
    | split)

theorem keeps_queueBytes {w₀ : Bool} {s₀ u₀ : State} (k : Nat) (addr : Nat) (rd : Bool) (bs : List Byte) (hk₀ : Keeps w₀ s₀ u₀) :
    Keeps w₀ s₀ (queueBytes k addr rd bs u₀) := by
  unfold queueBytes
  repeat' (first
    | with_reducible assumption
    | with_reducible apply keeps_pumpAll
    | with_reducible apply keeps_putChan
    | (intro _ _ _)
    | (intro _ _)
    | intro _
    | simp only [keeps_mk_iff]
    | dsimp only
    | dsimp only [id_eq]
    | split)

theorem keeps_takeAck {w₀ : Bool} {s₀ u₀ : State} (k : Nat) (d : Dgram) (hk₀ : Keeps w₀ s₀ u₀) :
    Keeps w₀ s₀ (takeAck k d u₀).2 := by
  unfold takeAck
  repeat' (first
    | with_reducible assumption
    | with_reducible apply keeps_pumpAll
    | with_reducible apply keeps_putChan
    | with_reducible apply keeps_resend
    | with_reducible apply Keeps.foldl
    | with_reducible apply Keeps.foldl1
    | with_reducible apply Keeps.foldl2
    | with_reducible apply Keeps.foldl22
    | with_reducible apply Keeps.of_pair (by assumption)
    | with_reducible apply Keeps.of_triple (by assumption)
    | with_reducible apply Keeps.of_pair' (by assumption)
    | (intro _ _ _)
    | (intro _ _)
    | intro _
    | simp only [keeps_mk_iff]
    | dsimp only
    | dsimp only [id_eq]
    | split)

theorem keeps_abandonLocal {w₀ : Bool} {s₀ u₀ : State} (k : Nat) (hk₀ : Keeps w₀ s₀ u₀) :
    Keeps w₀ s₀ (abandonLocal k u₀) := by
  unfold abandonLocal
  repeat' (first
    | with_reducible assumption
    | with_reducible apply keeps_bumpF
    | with_reducible apply keeps_logStatus
    | with_reducible apply keeps_putChan
    | with_reducible apply Keeps.ite
    | (intro _ _ _)
    | (intro _ _)
    | intro _
    | simp only [keeps_mk_iff]
    | dsimp only
    | dsimp only [id_eq]
    | split)

theorem keeps_closeChan {w₀ : Bool} {s₀ u₀ : State} (k : Nat) (hk₀ : Keeps w₀ s₀ u₀) :
    Keeps w₀ s₀ (closeChan k u₀) := by
  unfold closeChan
  repeat' (first
    | with_reducible assumption
    | with_reducible apply keeps_countChans
    | with_reducible apply keeps_dropChan
    | with_reducible apply keeps_sendCtl
    | (intro _ _ _)
    | (intro _ _)
    | intro _
    | simp only [keeps_mk_iff]
    | dsimp only
    | dsimp only [id_eq]
    | split)

end Sys2Proof.Laws
end

