-- ==== Sys2Proof/Laws/KeepsBasin.lean ====
section
/-!
SUPPORT. What the operations of Machine/Basin.lean keep (see Keeps).
-/

namespace Sys2Proof.Laws

open Sys2Proof.Machine

theorem keeps_logBasin {w₀ : Bool} {s₀ u₀ : State} (b : Nat) (code : Nat) (detail : List Nat) (hk₀ : Keeps w₀ s₀ u₀) :
    Keeps w₀ s₀ (logBasin b code detail u₀) := by
  unfold logBasin
  repeat' (first
    | with_reducible assumption
    | with_reducible apply keeps_logStatus
    | (intro _ _ _)
    | (intro _ _)
    | intro _
    | dsimp only
    | dsimp only [id_eq]
    | split)

theorem keeps_monitorTrip {w₀ : Bool} {s₀ u₀ : State} (b : Nat) (mon : Nat) (hk₀ : Keeps w₀ s₀ u₀) :
    Keeps w₀ s₀ (monitorTrip b mon u₀) := by
  unfold monitorTrip
  repeat' (first
    | with_reducible assumption
    | with_reducible apply keeps_logBasin
    | (intro _ _ _)
    | (intro _ _)
    | intro _
    | dsimp only
    | dsimp only [id_eq]
    | split)

end Sys2Proof.Laws
end

