-- ==== Sys2Proof/Laws/KeepsCistern.lean ====
section
/-!
SUPPORT. What the operations of Machine/Cistern.lean keep (see Keeps).
-/

namespace Sys2Proof.Laws

open Sys2Proof.Machine

theorem keeps_setRuns {w₀ : Bool} {s₀ u₀ : State} (die : Nat) (rs : List BasinRun) (hk₀ : Keeps w₀ s₀ u₀) :
    Keeps w₀ s₀ (setRuns die rs u₀) := by
  unfold setRuns
  repeat' (first
    | with_reducible assumption
    | (intro _ _ _)
    | (intro _ _)
    | intro _
    | simp only [keeps_mk_iff]
    | dsimp only
    | dsimp only [id_eq]
    | split)

theorem keeps_setLSlot {w₀ : Bool} {s₀ u₀ : State} (k : Nat) (v : LSlot) (hk₀ : Keeps w₀ s₀ u₀) :
    Keeps w₀ s₀ (setLSlot k v u₀) := by
  unfold setLSlot
  repeat' (first
    | with_reducible assumption
    | (intro _ _ _)
    | (intro _ _)
    | intro _
    | simp only [keeps_mk_iff]
    | dsimp only
    | dsimp only [id_eq]
    | split)

theorem keeps_modRunB {w₀ : Bool} {s₀ u₀ : State} (die : Nat) (sn : Nat) (f : BasinRun → BasinRun) (hk₀ : Keeps w₀ s₀ u₀) :
    Keeps w₀ s₀ (modRunB die sn f u₀) := by
  unfold modRunB
  repeat' (first
    | with_reducible assumption
    | with_reducible apply keeps_setRuns
    | with_reducible apply Keeps.ite
    | (intro _ _ _)
    | (intro _ _)
    | intro _
    | dsimp only
    | dsimp only [id_eq]
    | split)

theorem keeps_dropRunB {w₀ : Bool} {s₀ u₀ : State} (die : Nat) (sn : Nat) (hk₀ : Keeps w₀ s₀ u₀) :
    Keeps w₀ s₀ (dropRunB die sn u₀) := by
  unfold dropRunB
  repeat' (first
    | with_reducible assumption
    | with_reducible apply keeps_setRuns
    | (intro _ _ _)
    | (intro _ _)
    | intro _
    | dsimp only
    | dsimp only [id_eq]
    | split)

theorem keeps_faultBasin {w₀ : Bool} {s₀ u₀ : State} (die : Nat) (code : Nat) (cls : Nat) (ix : Nat) (r : BasinRun) (hk₀ : Keeps w₀ s₀ u₀) :
    Keeps w₀ s₀ (faultBasin die code cls ix r u₀) := by
  unfold faultBasin
  repeat' (first
    | with_reducible assumption
    | with_reducible apply keeps_breakChains
    | with_reducible apply keeps_dropRunB
    | with_reducible apply keeps_lastEvt
    | with_reducible apply keeps_logStatus
    | with_reducible apply keeps_sendRecord
    | with_reducible apply keeps_whenB
    | (intro _ _ _)
    | (intro _ _)
    | intro _
    | simp only [keeps_mk_iff]
    | dsimp only
    | dsimp only [id_eq]
    | split)

theorem keeps_completeBasin {w₀ : Bool} {s₀ u₀ : State} (die : Nat) (r : BasinRun) (hk₀ : Keeps w₀ s₀ u₀) :
    Keeps w₀ s₀ (completeBasin die r u₀) := by
  unfold completeBasin
  repeat' (first
    | with_reducible assumption
    | with_reducible apply keeps_dropRunB
    | with_reducible apply keeps_sendRecord
    | with_reducible apply Keeps.ite
    | (intro _ _ _)
    | (intro _ _)
    | intro _
    | simp only [keeps_mk_iff]
    | dsimp only
    | dsimp only [id_eq]
    | split)

theorem keeps_tripLayer {w₀ : Bool} {s₀ u₀ : State} (die : Nat) (k : Nat) (hk₀ : Keeps w₀ s₀ u₀) :
    Keeps w₀ s₀ (tripLayer die k u₀) := by
  unfold tripLayer
  repeat' (first
    | with_reducible assumption
    | with_reducible apply keeps_irqRaise
    | with_reducible apply keeps_lastEvt
    | with_reducible apply keeps_logStatus
    | with_reducible apply keeps_setLSlot
    | with_reducible apply keeps_withSome
    | with_reducible apply Keeps.foldl
    | with_reducible apply Keeps.foldl1
    | with_reducible apply Keeps.foldl2
    | with_reducible apply Keeps.foldl22
    | with_reducible apply Keeps.of_pair (by assumption)
    | with_reducible apply Keeps.of_triple (by assumption)
    | with_reducible apply Keeps.of_pair' (by assumption)
    | (intro _ _ _)
    | (intro _ _)
    | intro _
    | simp only [keeps_mk_iff]
    | dsimp only
    | dsimp only [id_eq]
    | split)

theorem keeps_judge {w₀ : Bool} {s₀ u₀ : State} (die : Nat) (k : Nat) (miss : Bool) (hk₀ : Keeps w₀ s₀ u₀) :
    Keeps w₀ s₀ (judge die k miss u₀) := by
  unfold judge
  repeat' (first
    | with_reducible assumption
    | with_reducible apply keeps_setLSlot
    | with_reducible apply keeps_tripLayer
    | with_reducible apply keeps_whenB
    | with_reducible apply Keeps.ite
    | (intro _ _ _)
    | (intro _ _)
    | intro _
    | simp only [keeps_mk_iff]
    | dsimp only
    | dsimp only [id_eq]
    | split)

theorem keeps_writeBasinTile {w₀ : Bool} {s₀ u₀ : State} (c : CourseRun) (p : TilePos) (y : Nat) (sums : NatMap Int) (hk₀ : Keeps w₀ s₀ u₀) :
    Keeps w₀ s₀ (writeBasinTile c p y sums u₀) := by
  unfold writeBasinTile
  repeat' (first
    | with_reducible assumption
    | with_reducible apply keeps_wrByte
    | with_reducible apply keeps_wrMem
    | with_reducible apply Keeps.foldl
    | with_reducible apply Keeps.foldl1
    | with_reducible apply Keeps.foldl2
    | with_reducible apply Keeps.foldl22
    | with_reducible apply Keeps.of_pair (by assumption)
    | with_reducible apply Keeps.of_triple (by assumption)
    | with_reducible apply Keeps.of_pair' (by assumption)
    | with_reducible apply Keeps.ite
    | (intro _ _ _)
    | (intro _ _)
    | intro _
    | dsimp only
    | dsimp only [id_eq]
    | split)

theorem keeps_atomicBasinTile {w₀ : Bool} {s₀ u₀ : State} (c : CourseRun) (p : TilePos) (sums : NatMap Int) (hk₀ : Keeps w₀ s₀ u₀) :
    Keeps w₀ s₀ (atomicBasinTile c p sums u₀).1 := by
  refine Keeps.foldl1 _ (fun y a h => ?_) hk₀
  dsimp only
  split <;> exact keeps_wrLE _ _ _ h

theorem keeps_basinNext {w₀ : Bool} {s₀ u₀ : State} (die : Nat) (sn : Nat) (hk₀ : Keeps w₀ s₀ u₀) :
    Keeps w₀ s₀ (basinNext die sn u₀) := by
  unfold basinNext
  repeat' (first
    | with_reducible assumption
    | with_reducible apply keeps_completeBasin
    | with_reducible apply Keeps.ite
    | (intro _ _ _)
    | (intro _ _)
    | intro _
    | simp only [keeps_mk_iff]
    | dsimp only
    | dsimp only [id_eq]
    | split)

theorem keeps_basinTileOut {w₀ : Bool} {s₀ u₀ : State} (die : Nat) (r : BasinRun) (hk₀ : Keeps w₀ s₀ u₀) :
    Keeps w₀ s₀ (basinTileOut die r u₀) := by
  unfold basinTileOut
  repeat' (first
    | with_reducible assumption
    | with_reducible apply keeps_atomicBasinTile
    | with_reducible apply keeps_basinNext
    | with_reducible apply keeps_judge
    | with_reducible apply keeps_logStatus
    | with_reducible apply keeps_modRunB
    | with_reducible apply keeps_tileDrained
    | with_reducible apply keeps_tileFilled
    | with_reducible apply keeps_traffic
    | with_reducible apply keeps_whenB
    | with_reducible apply keeps_writeBasinTile
    | with_reducible apply Keeps.of_pair (by assumption)
    | with_reducible apply Keeps.of_pair' (by assumption)
    | with_reducible apply Keeps.foldl
    | with_reducible apply Keeps.foldl1
    | with_reducible apply Keeps.foldl2
    | with_reducible apply Keeps.foldl22
    | with_reducible apply Keeps.of_triple (by assumption)
    | with_reducible apply Keeps.ite
    | (intro _ _ _)
    | (intro _ _)
    | intro _
    | simp only [keeps_mk_iff]
    | dsimp only
    | dsimp only [id_eq]
    | split)

theorem keeps_basinTileEnd {w₀ : Bool} {s₀ u₀ : State} (die : Nat) (sn : Nat) (hk₀ : Keeps w₀ s₀ u₀) :
    Keeps w₀ s₀ (basinTileEnd die sn u₀) := by
  unfold basinTileEnd
  repeat' (first
    | with_reducible assumption
    | with_reducible apply keeps_basinTileOut
    | with_reducible apply keeps_modRunB
    | with_reducible apply Keeps.ite
    | (intro _ _ _)
    | (intro _ _)
    | intro _
    | simp only [keeps_mk_iff]
    | dsimp only
    | dsimp only [id_eq]
    | split)

theorem keeps_passBasin {w₀ : Bool} {s₀ u₀ : State} (die : Nat) (d : List Byte) (b : Nat) (xs : List Int) (skip : List Nat) (hk₀ : Keeps w₀ s₀ u₀) :
    Keeps w₀ s₀ (passBasin die d b xs skip u₀).2.2 := by
  unfold passBasin
  repeat' (first
    | with_reducible assumption
    | with_reducible apply keeps_bumpPair
    | with_reducible apply keeps_monitorTrip
    | with_reducible apply keeps_setBasin
    | with_reducible apply keeps_whenB
    | with_reducible apply Keeps.foldl
    | with_reducible apply Keeps.foldl1
    | with_reducible apply Keeps.foldl2
    | with_reducible apply Keeps.foldl22
    | with_reducible apply Keeps.of_pair (by assumption)
    | with_reducible apply Keeps.of_triple (by assumption)
    | with_reducible apply Keeps.of_pair' (by assumption)
    | with_reducible apply Keeps.ite
    | (intro _ _ _)
    | (intro _ _)
    | intro _
    | simp only [keeps_mk_iff]
    | dsimp only
    | dsimp only [id_eq]
    | split)

theorem keeps_runPass {w₀ : Bool} {s₀ u₀ : State} (die : Nat) (r : BasinRun) (x : Nat) (mask : Option (List Neuron)) (theta : Int) (hk₀ : Keeps w₀ s₀ u₀) :
    Keeps w₀ s₀ (runPass die r x mask theta u₀) := by
  unfold runPass
  repeat' (first
    | with_reducible assumption
    | with_reducible apply keeps_basinTileEnd
    | with_reducible apply keeps_bumpF
    | with_reducible apply keeps_modRunB
    | with_reducible apply keeps_passBasin
    | with_reducible apply keeps_setLSlot
    | with_reducible apply keeps_traffic
    | with_reducible apply Keeps.of_pair (by assumption)
    | with_reducible apply Keeps.of_triple (by assumption)
    | with_reducible apply Keeps.foldl
    | with_reducible apply Keeps.foldl1
    | with_reducible apply Keeps.foldl2
    | with_reducible apply Keeps.foldl22
    | with_reducible apply Keeps.of_pair' (by assumption)
    | with_reducible apply Keeps.ite
    | (intro _ _ _)
    | (intro _ _)
    | intro _
    | simp only [keeps_mk_iff]
    | dsimp only
    | dsimp only [id_eq]
    | split)

theorem keeps_passOrPause {w₀ : Bool} {s₀ u₀ : State} (die : Nat) (r : BasinRun) (mask : Option (List Neuron)) (theta : Int) (hold : Bool) (hk₀ : Keeps w₀ s₀ u₀) :
    Keeps w₀ s₀ (passOrPause die r mask theta hold u₀) := by
  unfold passOrPause
  repeat' (first
    | with_reducible assumption
    | with_reducible apply keeps_faultBasin
    | with_reducible apply keeps_modRunB
    | with_reducible apply keeps_runPass
    | with_reducible apply Keeps.ite
    | (intro _ _ _)
    | (intro _ _)
    | intro _
    | simp only [keeps_mk_iff]
    | dsimp only
    | dsimp only [id_eq]
    | split)

theorem keeps_basinPass {w₀ : Bool} {s₀ u₀ : State} (die : Nat) (k : Nat) (mask : Option (List Neuron)) (theta : Int) (hold : Bool) (hk₀ : Keeps w₀ s₀ u₀) :
    Keeps w₀ s₀ (basinPass die k mask theta hold u₀) := by
  unfold basinPass
  repeat' (first
    | with_reducible assumption
    | with_reducible apply keeps_basinTileEnd
    | with_reducible apply keeps_passOrPause
    | with_reducible apply Keeps.ite
    | (intro _ _ _)
    | (intro _ _)
    | intro _
    | simp only [keeps_mk_iff]
    | dsimp only
    | dsimp only [id_eq]
    | split)

theorem keeps_weirGroupResume {w₀ : Bool} {s₀ u₀ : State} (die : Nat) (k : Nat) (hk₀ : Keeps w₀ s₀ u₀) :
    Keeps w₀ s₀ (weirGroupResume die k u₀) := by
  unfold weirGroupResume
  repeat' (first
    | with_reducible assumption
    | with_reducible apply keeps_passOrPause
    | with_reducible apply Keeps.ite
    | (intro _ _ _)
    | (intro _ _)
    | intro _
    | simp only [keeps_mk_iff]
    | dsimp only
    | dsimp only [id_eq]
    | split)

theorem keeps_basinCourse {w₀ : Bool} {s₀ u₀ : State} (iss : Issue) (hk₀ : Keeps w₀ s₀ u₀) :
    Keeps w₀ s₀ (basinCourse iss u₀) := by
  unfold basinCourse
  repeat' (first
    | with_reducible assumption
    | with_reducible apply keeps_bumpSerial
    | with_reducible apply keeps_issueCourse
    | with_reducible apply keeps_setRuns
    | (intro _ _ _)
    | (intro _ _)
    | intro _
    | dsimp only
    | dsimp only [id_eq]
    | split)

theorem keeps_clipWindowClose {w₀ : Bool} {s₀ u₀ : State} (b : Nat) (hk₀ : Keeps w₀ s₀ u₀) :
    Keeps w₀ s₀ (clipWindowClose b u₀) := by
  unfold clipWindowClose
  repeat' (first
    | with_reducible assumption
    | with_reducible apply keeps_bumpF
    | with_reducible apply keeps_irqRaise
    | with_reducible apply keeps_lastEvt
    | with_reducible apply keeps_logBasin
    | with_reducible apply keeps_modBasin
    | with_reducible apply keeps_monitorTrip
    | with_reducible apply keeps_setBasin
    | with_reducible apply keeps_whenB
    | with_reducible apply Keeps.ite
    | (intro _ _ _)
    | (intro _ _)
    | intro _
    | simp only [keeps_mk_iff]
    | dsimp only
    | dsimp only [id_eq]
    | split)

theorem keeps_queueCal {w₀ : Bool} {s₀ u₀ : State} (b : Nat) (hk₀ : Keeps w₀ s₀ u₀) :
    Keeps w₀ s₀ (queueCal b u₀) := by
  unfold queueCal
  repeat' (first
    | with_reducible assumption
    | with_reducible apply keeps_modBasin
    | with_reducible apply Keeps.ite
    | (intro _ _ _)
    | (intro _ _)
    | intro _
    | simp only [keeps_mk_iff]
    | dsimp only
    | dsimp only [id_eq]
    | split)

theorem keeps_referenceSlot {w₀ : Bool} {s₀ u₀ : State} (b : Nat) (hk₀ : Keeps w₀ s₀ u₀) :
    Keeps w₀ s₀ (referenceSlot b u₀) := by
  unfold referenceSlot
  repeat' (first
    | with_reducible assumption
    | with_reducible apply keeps_modBasin
    | with_reducible apply keeps_monitorTrip
    | with_reducible apply keeps_queueCal
    | with_reducible apply keeps_setBasin
    | with_reducible apply keeps_whenB
    | with_reducible apply Keeps.foldl
    | with_reducible apply Keeps.foldl1
    | with_reducible apply Keeps.foldl2
    | with_reducible apply Keeps.foldl22
    | with_reducible apply Keeps.of_pair (by assumption)
    | with_reducible apply Keeps.of_triple (by assumption)
    | with_reducible apply Keeps.of_pair' (by assumption)
    | with_reducible apply Keeps.ite
    | (intro _ _ _)
    | (intro _ _)
    | intro _
    | simp only [keeps_mk_iff]
    | dsimp only
    | dsimp only [id_eq]
    | split)

theorem keeps_plotReading {w₀ : Bool} {s₀ u₀ : State} (die : Nat) (p : Nat) (t : Nat) (hk₀ : Keeps w₀ s₀ u₀) :
    Keeps w₀ s₀ (plotReading die p t u₀) := by
  unfold plotReading
  repeat' (first
    | with_reducible assumption
    | with_reducible apply keeps_irqRaise
    | with_reducible apply keeps_lastEvt
    | with_reducible apply keeps_setPlot
    | with_reducible apply keeps_whenB
    | with_reducible apply Keeps.ite
    | (intro _ _ _)
    | (intro _ _)
    | intro _
    | simp only [keeps_mk_iff]
    | dsimp only
    | dsimp only [id_eq]
    | split)

theorem keeps_plotTempRead {w₀ : Bool} {s₀ u₀ : State} (die : Nat) (rs : List (Nat × Nat)) (hk₀ : Keeps w₀ s₀ u₀) :
    Keeps w₀ s₀ (plotTempRead die rs u₀) := by
  unfold plotTempRead
  repeat' (first
    | with_reducible assumption
    | with_reducible apply keeps_plotReading
    | with_reducible apply Keeps.foldl
    | with_reducible apply Keeps.foldl1
    | with_reducible apply Keeps.foldl2
    | with_reducible apply Keeps.foldl22
    | with_reducible apply Keeps.of_pair (by assumption)
    | with_reducible apply Keeps.of_triple (by assumption)
    | with_reducible apply Keeps.of_pair' (by assumption)
    | with_reducible apply Keeps.ite
    | (intro _ _ _)
    | (intro _ _)
    | intro _
    | dsimp only
    | dsimp only [id_eq]
    | split)

theorem keeps_plotThrottledReport {w₀ : Bool} {s₀ u₀ : State} (p : Nat) (hk₀ : Keeps w₀ s₀ u₀) :
    Keeps w₀ s₀ (plotThrottledReport p u₀) := by
  unfold plotThrottledReport
  repeat' (first
    | with_reducible assumption
    | with_reducible apply keeps_emit
    | with_reducible apply keeps_lastEvt
    | with_reducible apply keeps_setPlot
    | with_reducible apply Keeps.ite
    | (intro _ _ _)
    | (intro _ _)
    | intro _
    | simp only [keeps_mk_iff]
    | dsimp only
    | dsimp only [id_eq]
    | split)

end Sys2Proof.Laws
end

