-- ==== Sys2Proof/Laws/KeepsSiphon.lean ====
section
/-!
SUPPORT. What the operations of Machine/Siphon.lean keep (see Keeps).
-/

namespace Sys2Proof.Laws

open Sys2Proof.Machine

theorem keeps_writeCorrTile {w₀ : Bool} {s₀ u₀ : State} (x : CorrCtx) (f : Nat) (sent : NatMap (List Int)) (hk₀ : Keeps w₀ s₀ u₀) :
    Keeps w₀ s₀ (writeCorrTile x f sent u₀) := by
  unfold writeCorrTile
  repeat' (first
    | with_reducible assumption
    | with_reducible apply keeps_gateFill
    | with_reducible apply keeps_withSome
    | with_reducible apply keeps_wrByte
    | with_reducible apply keeps_wrMem
    | with_reducible apply Keeps.ite
    | (intro _ _ _)
    | (intro _ _)
    | intro _
    | simp only [keeps_mk_iff]
    | dsimp only
    | dsimp only [id_eq]
    | split)

theorem keeps_siphonEvent {w₀ : Bool} {s₀ u₀ : State} (holding : Nat) (die : Nat) (code : Nat) (detail : List Nat) (hk₀ : Keeps w₀ s₀ u₀) :
    Keeps w₀ s₀ (siphonEvent holding die code detail u₀) := by
  unfold siphonEvent
  repeat' (first
    | with_reducible assumption
    | with_reducible apply keeps_lastEvt
    | with_reducible apply keeps_logStatus
    | (intro _ _ _)
    | (intro _ _)
    | intro _
    | dsimp only
    | dsimp only [id_eq]
    | split)

theorem keeps_loadLSlot {w₀ : Bool} {s₀ u₀ : State} (die : Nat) (x : CorrCtx) (time : Nat) (hk₀ : Keeps w₀ s₀ u₀) :
    Keeps w₀ s₀ (loadLSlot die x time u₀) := by
  unfold loadLSlot
  repeat' (first
    | with_reducible assumption
    | with_reducible apply keeps_setLSlot
    | with_reducible apply Keeps.foldl
    | with_reducible apply Keeps.foldl1
    | with_reducible apply Keeps.foldl2
    | with_reducible apply Keeps.foldl22
    | with_reducible apply Keeps.of_pair (by assumption)
    | with_reducible apply Keeps.of_triple (by assumption)
    | with_reducible apply Keeps.of_pair' (by assumption)
    | with_reducible apply Keeps.ite
    | (intro _ _ _)
    | (intro _ _)
    | intro _
    | simp only [keeps_mk_iff]
    | dsimp only
    | dsimp only [id_eq]
    | split)

theorem keeps_corrFinish {w₀ : Bool} {s₀ u₀ : State} (die : Nat) (k : CorrFor) (x : CorrCtx) (sent : NatMap (List Int)) (time : Nat) (hk₀ : Keeps w₀ s₀ u₀) :
    Keeps w₀ s₀ (corrFinish die k x sent time u₀) := by
  unfold corrFinish
  repeat' (first
    | with_reducible assumption
    | with_reducible apply keeps_basinTileOut
    | with_reducible apply keeps_bumpF
    | with_reducible apply keeps_loadLSlot
    | with_reducible apply keeps_modRunB
    | with_reducible apply keeps_siphonEvent
    | with_reducible apply keeps_whenB
    | with_reducible apply keeps_writeCorrTile
    | with_reducible apply Keeps.ite
    | (intro _ _ _)
    | (intro _ _)
    | intro _
    | simp only [keeps_mk_iff]
    | dsimp only
    | dsimp only [id_eq]
    | split)

theorem keeps_countProducts {w₀ : Bool} {s₀ u₀ : State} (die : Nat) (k : CorrFor) (n : Nat) (hk₀ : Keeps w₀ s₀ u₀) :
    Keeps w₀ s₀ (countProducts die k n u₀) := by
  unfold countProducts
  repeat' (first
    | with_reducible assumption
    | with_reducible apply keeps_bumpPair
    | with_reducible apply keeps_modAcre
    | with_reducible apply keeps_modRunB
    | with_reducible apply Keeps.ite
    | (intro _ _ _)
    | (intro _ _)
    | intro _
    | simp only [keeps_mk_iff]
    | dsimp only
    | dsimp only [id_eq]
    | split)

theorem keeps_faultCorr {w₀ : Bool} {s₀ u₀ : State} (die : Nat) (k : CorrFor) (hk₀ : Keeps w₀ s₀ u₀) :
    Keeps w₀ s₀ (faultCorr die k u₀) := by
  unfold faultCorr
  repeat' (first
    | with_reducible assumption
    | with_reducible apply keeps_faultBasin
    | with_reducible apply keeps_faultPend
    | with_reducible apply keeps_faultRun
    | with_reducible apply keeps_withSome
    | with_reducible apply Keeps.ite
    | (intro _ _ _)
    | (intro _ _)
    | intro _
    | simp only [keeps_mk_iff]
    | dsimp only
    | dsimp only [id_eq]
    | split)

theorem keeps_markBad {w₀ : Bool} {s₀ u₀ : State} (h : Nat) (addr : Nat) (hk₀ : Keeps w₀ s₀ u₀) :
    Keeps w₀ s₀ (markBad h addr u₀) := by
  unfold markBad
  repeat' (first
    | with_reducible assumption
    | with_reducible apply keeps_withSome
    | with_reducible apply Keeps.ite
    | (intro _ _ _)
    | (intro _ _)
    | intro _
    | simp only [keeps_mk_iff]
    | dsimp only
    | dsimp only [id_eq]
    | split)

theorem keeps_listFault {w₀ : Bool} {s₀ u₀ : State} (die : Nat) (k : CorrFor) (x : CorrCtx) (hk₀ : Keeps w₀ s₀ u₀) :
    Keeps w₀ s₀ (listFault die k x u₀) := by
  unfold listFault
  repeat' (first
    | with_reducible assumption
    | with_reducible apply keeps_faultCorr
    | with_reducible apply keeps_lastEvt
    | with_reducible apply keeps_markBad
    | (intro _ _ _)
    | (intro _ _)
    | intro _
    | dsimp only
    | dsimp only [id_eq]
    | split)

theorem keeps_correctionStep {w₀ : Bool} {s₀ u₀ : State} (die : Die) (t : CorrTarget) (lanes : Bool) (repairBad : Bool) (time : Nat) (hk₀ : Keeps w₀ s₀ u₀) :
    Keeps w₀ s₀ (correctionStep die t lanes repairBad time u₀) := by
  unfold correctionStep
  repeat' (first
    | with_reducible assumption
    | with_reducible apply keeps_corrFinish
    | with_reducible apply keeps_countProducts
    | with_reducible apply keeps_listFault
    | with_reducible apply keeps_siphonEvent
    | with_reducible apply keeps_whenB
    | with_reducible apply Keeps.foldl
    | with_reducible apply Keeps.foldl1
    | with_reducible apply Keeps.foldl2
    | with_reducible apply Keeps.foldl22
    | with_reducible apply Keeps.of_pair (by assumption)
    | with_reducible apply Keeps.of_triple (by assumption)
    | with_reducible apply Keeps.of_pair' (by assumption)
    | with_reducible apply Keeps.ite
    | (intro _ _ _)
    | (intro _ _)
    | intro _
    | simp only [keeps_mk_iff]
    | dsimp only
    | dsimp only [id_eq]
    | split)

theorem keeps_putStep {w₀ : Bool} {s₀ u₀ : State} (die : Nat) (v : CorrStep) (hk₀ : Keeps w₀ s₀ u₀) :
    Keeps w₀ s₀ (putStep die v u₀) := by
  unfold putStep
  repeat' (first
    | with_reducible assumption
    | (intro _ _ _)
    | (intro _ _)
    | intro _
    | simp only [keeps_mk_iff]
    | dsimp only
    | dsimp only [id_eq]
    | split)

theorem keeps_laneBorrow {w₀ : Bool} {s₀ u₀ : State} (die : Nat) (lane : Nat) (walked : List (Nat × Nat)) (hk₀ : Keeps w₀ s₀ u₀) :
    Keeps w₀ s₀ (laneBorrow die lane walked u₀) := by
  unfold laneBorrow
  repeat' (first
    | with_reducible assumption
    | with_reducible apply keeps_bumpPair
    | with_reducible apply keeps_putStep
    | with_reducible apply keepsOpt2_findSome
    | with_reducible apply Keeps.ite
    | (intro _ _ _)
    | (intro _ _)
    | intro _
    | simp only [keeps_mk_iff]
    | dsimp only
    | dsimp only [id_eq]
    | split)

theorem keeps_leaveLane {w₀ : Bool} {s₀ u₀ : State} (die : Nat) (lane : Nat) (st : CorrStep) (hk₀ : Keeps w₀ s₀ u₀) :
    Keeps w₀ s₀ (leaveLane die lane st u₀) := by
  unfold leaveLane
  repeat' (first
    | with_reducible assumption
    | with_reducible apply keeps_putStep
    | with_reducible apply Keeps.ite
    | (intro _ _ _)
    | (intro _ _)
    | intro _
    | simp only [keeps_mk_iff]
    | dsimp only
    | dsimp only [id_eq]
    | split)

theorem keeps_retireLane {w₀ : Bool} {s₀ u₀ : State} (die : Nat) (lane : Nat) (holding : Nat) (hk₀ : Keeps w₀ s₀ u₀) :
    Keeps w₀ s₀ (retireLane die lane holding u₀) := by
  unfold retireLane
  repeat' (first
    | with_reducible assumption
    | with_reducible apply keeps_irqRaise
    | with_reducible apply keeps_leaveLane
    | with_reducible apply keeps_setF
    | with_reducible apply keeps_siphonEvent
    | with_reducible apply keeps_withSome
    | (intro _ _ _)
    | (intro _ _)
    | intro _
    | simp only [keeps_mk_iff]
    | dsimp only
    | dsimp only [id_eq]
    | split)

theorem keeps_laneTransient {w₀ : Bool} {s₀ u₀ : State} (die : Nat) (lane : Nat) (cycle : Nat) (hk₀ : Keeps w₀ s₀ u₀) :
    Keeps w₀ s₀ (laneTransient die lane cycle u₀).2 := by
  unfold laneTransient
  repeat' (first
    | with_reducible assumption
    | (intro _ _ _)
    | (intro _ _)
    | intro _
    | simp only [keeps_mk_iff]
    | dsimp only
    | dsimp only [id_eq]
    | split)

theorem keeps_laneChannelSend {w₀ : Bool} {s₀ u₀ : State} (die : Nat) (lane : Nat) (bad : Nat) (cycle : Nat) (time : Nat) (hk₀ : Keeps w₀ s₀ u₀) :
    Keeps w₀ s₀ (laneChannelSend die lane bad cycle time u₀) := by
  unfold laneChannelSend
  repeat' (first
    | with_reducible assumption
    | with_reducible apply keeps_bumpF
    | with_reducible apply keeps_corrFinish
    | with_reducible apply keeps_countProducts
    | with_reducible apply keeps_laneTransient
    | with_reducible apply keeps_putStep
    | with_reducible apply keeps_retireLane
    | with_reducible apply keeps_siphonEvent
    | with_reducible apply keeps_whenB
    | with_reducible apply Keeps.of_pair (by assumption)
    | with_reducible apply Keeps.ite
    | (intro _ _ _)
    | (intro _ _)
    | intro _
    | simp only [keeps_mk_iff]
    | dsimp only
    | dsimp only [id_eq]
    | split)

theorem keeps_mapLSlots {w₀ : Bool} {s₀ u₀ : State} (f : LSlot → LSlot) (hk₀ : Keeps w₀ s₀ u₀) :
    Keeps w₀ s₀ (mapLSlots f u₀) := by
  unfold mapLSlots
  repeat' (first
    | with_reducible assumption
    | (intro _ _ _)
    | (intro _ _)
    | intro _
    | simp only [keeps_mk_iff]
    | dsimp only
    | dsimp only [id_eq]
    | split)

theorem keeps_tensFence {w₀ : Bool} {s₀ u₀ : State} (hk₀ : Keeps w₀ s₀ u₀) :
    Keeps w₀ s₀ (tensFence u₀) := by
  unfold tensFence
  repeat' (first
    | with_reducible assumption
    | with_reducible apply keeps_mapLSlots
    | with_reducible apply Keeps.ite
    | (intro _ _ _)
    | (intro _ _)
    | intro _
    | simp only [keeps_mk_iff]
    | dsimp only
    | dsimp only [id_eq]
    | split)

theorem keeps_siphonBoundary {w₀ : Bool} {s₀ u₀ : State} (hk₀ : Keeps w₀ s₀ u₀) :
    Keeps w₀ s₀ (siphonBoundary u₀) := by
  unfold siphonBoundary
  repeat' (first
    | with_reducible assumption
    | with_reducible apply keeps_mapLSlots
    | with_reducible apply Keeps.ite
    | (intro _ _ _)
    | (intro _ _)
    | intro _
    | simp only [keeps_mk_iff]
    | dsimp only
    | dsimp only [id_eq]
    | split)

theorem keeps_predictorSwitch {w₀ : Bool} {s₀ u₀ : State} (on : Bool) (src : CmdSrc) (hk₀ : Keeps w₀ s₀ u₀) :
    Keeps w₀ s₀ (predictorSwitch on src u₀) := by
  unfold predictorSwitch
  repeat' (first
    | with_reducible assumption
    | with_reducible apply keeps_ack
    | with_reducible apply keeps_mapLSlots
    | with_reducible apply keeps_refuseCmd
    | with_reducible apply keeps_takeCmd
    | with_reducible apply Keeps.ite
    | (intro _ _ _)
    | (intro _ _)
    | intro _
    | simp only [keeps_mk_iff]
    | dsimp only
    | dsimp only [id_eq]
    | split)

theorem keeps_rearm {w₀ : Bool} {s₀ u₀ : State} (src : CmdSrc) (hk₀ : Keeps w₀ s₀ u₀) :
    Keeps w₀ s₀ (rearm src u₀) := by
  unfold rearm
  repeat' (first
    | with_reducible assumption
    | with_reducible apply keeps_ack
    | with_reducible apply keeps_mapLSlots
    | with_reducible apply keeps_refuseCmd
    | with_reducible apply keeps_takeCmd
    | with_reducible apply Keeps.ite
    | (intro _ _ _)
    | (intro _ _)
    | intro _
    | simp only [keeps_mk_iff]
    | dsimp only
    | dsimp only [id_eq]
    | split)

end Sys2Proof.Laws
end

