-- ==== Sys2Proof/Laws/KeepsAlloc.lean ====
section
/-!
SUPPORT. What the operations of Machine/Alloc.lean keep (see Keeps).
-/

namespace Sys2Proof.Laws

open Sys2Proof.Machine

theorem keeps_setHold {w₀ : Bool} {s₀ u₀ : State} (h : Nat) (v : Hold) (hk₀ : Keeps w₀ s₀ u₀) :
    Keeps w₀ s₀ (setHold h v u₀) := by
  unfold setHold
  repeat' (first
    | with_reducible assumption
    | (intro _ _ _)
    | (intro _ _)
    | intro _
    | simp only [keeps_mk_iff]
    | dsimp only
    | dsimp only [id_eq]
    | split)

theorem keeps_takePages {w₀ : Bool} {s₀ u₀ : State} (k : Nat) (n : Nat) (owner : Nat) (hk₀ : Keeps w₀ s₀ u₀) :
    Keeps w₀ s₀ (takePages k n owner u₀) := by
  unfold takePages
  repeat' (first
    | with_reducible assumption
    | with_reducible apply Keeps.foldl
    | with_reducible apply Keeps.foldl1
    | with_reducible apply Keeps.foldl2
    | with_reducible apply Keeps.foldl22
    | with_reducible apply Keeps.of_pair (by assumption)
    | with_reducible apply Keeps.of_triple (by assumption)
    | with_reducible apply Keeps.of_pair' (by assumption)
    | (intro _ _ _)
    | (intro _ _)
    | intro _
    | simp only [keeps_mk_iff]
    | dsimp only
    | dsimp only [id_eq]
    | split)

theorem keeps_freePages {w₀ : Bool} {s₀ u₀ : State} (k : Nat) (n : Nat) (hk₀ : Keeps w₀ s₀ u₀) :
    Keeps w₀ s₀ (freePages k n u₀) := by
  unfold freePages
  repeat' (first
    | with_reducible assumption
    | (intro _ _ _)
    | (intro _ _)
    | intro _
    | simp only [keeps_mk_iff]
    | dsimp only
    | dsimp only [id_eq]
    | split)

theorem keeps_takeOne {w₀ : Bool} {s₀ u₀ : State} (die : Nat) (owner : Nat) (hk₀ : Keeps w₀ s₀ u₀) :
    KeepsOpt2 w₀ s₀ (takeOne die owner u₀) := by
  unfold takeOne
  repeat' (first
    | with_reducible assumption
    | with_reducible apply keepsOpt2_none
    | with_reducible apply keepsOpt2_some
    | with_reducible apply keepsOpt2_map
    | with_reducible apply keepsOpt2_findSome
    | with_reducible apply keeps_takePages
    | with_reducible apply Keeps.ite
    | (intro _ _ _)
    | (intro _ _)
    | intro _
    | dsimp only
    | dsimp only [id_eq]
    | split)

theorem keeps_zeroFill {w₀ : Bool} {s₀ u₀ : State} (addr n : Nat) (hk₀ : Keeps w₀ s₀ u₀) : Keeps w₀ s₀ (zeroFill addr n u₀) :=
  hk₀.trans ⟨rfl, fun _ => ⟨rfl, rfl⟩, fun g => canonK_filter _ _ _ g, id, id⟩

end Sys2Proof.Laws
end

