-- ==== Sys2Proof/Laws/KeepsImages.lean ====
section
/-!
SUPPORT. What the operations of Machine/Images.lean keep (see Keeps).
-/

namespace Sys2Proof.Laws

open Sys2Proof.Machine

theorem keeps_putImage {w₀ : Bool} {s₀ u₀ : State} (im : Image) (hk₀ : Keeps w₀ s₀ u₀) :
    Keeps w₀ s₀ (putImage im u₀) := by
  unfold putImage
  repeat' (first
    | with_reducible assumption
    | (intro _ _ _)
    | (intro _ _)
    | intro _
    | simp only [keeps_mk_iff]
    | dsimp only
    | dsimp only [id_eq]
    | split)

theorem keeps_modImage {w₀ : Bool} {s₀ u₀ : State} (h : Nat) (f : Image → Image) (hk₀ : Keeps w₀ s₀ u₀) :
    Keeps w₀ s₀ (modImage h f u₀) := by
  unfold modImage
  repeat' (first
    | with_reducible assumption
    | with_reducible apply keeps_putImage
    | with_reducible apply keeps_withSome
    | (intro _ _ _)
    | (intro _ _)
    | intro _
    | simp only [keeps_mk_iff]
    | dsimp only
    | dsimp only [id_eq]
    | split)

theorem keeps_takeMany {w₀ : Bool} {s₀ u₀ : State} (owner n : Nat) (acc : List Nat) (hk₀ : Keeps w₀ s₀ u₀) :
    KeepsOpt2 w₀ s₀ (takeMany owner n acc u₀) := by
  induction n generalizing acc u₀ with
  | zero =>
    rw [takeMany]
    repeat' (first
    | with_reducible assumption
    | with_reducible apply keepsOpt2_none
    | with_reducible apply keepsOpt2_some
    | with_reducible apply keepsOpt2_map
    | with_reducible apply keepsOpt2_findSome
    | with_reducible apply keeps_takeOne
    | with_reducible apply KeepsOpt2.get (by assumption)
    | (intro _ _ _)
    | (intro _ _)
    | intro _
    | simp only [keeps_mk_iff]
    | dsimp only
    | dsimp only [id_eq]
    | split)
  | succ n₀ ih =>
    rw [takeMany]
    repeat' (first
    | with_reducible assumption
    | with_reducible apply ih
    | with_reducible apply keepsOpt2_none
    | with_reducible apply keepsOpt2_some
    | with_reducible apply keepsOpt2_map
    | with_reducible apply keepsOpt2_findSome
    | with_reducible apply keeps_takeOne
    | with_reducible apply KeepsOpt2.get (by assumption)
    | (intro _ _ _)
    | (intro _ _)
    | intro _
    | simp only [keeps_mk_iff]
    | dsimp only
    | dsimp only [id_eq]
    | split)

theorem keeps_freeRing {w₀ : Bool} {s₀ u₀ : State} (h : Nat) (hk₀ : Keeps w₀ s₀ u₀) :
    Keeps w₀ s₀ (freeRing h u₀) := by
  unfold freeRing
  repeat' (first
    | with_reducible assumption
    | with_reducible apply keeps_freePages
    | with_reducible apply keeps_putImage
    | with_reducible apply keeps_withSome
    | with_reducible apply Keeps.foldl
    | with_reducible apply Keeps.foldl1
    | with_reducible apply Keeps.foldl2
    | with_reducible apply Keeps.foldl22
    | with_reducible apply Keeps.of_pair (by assumption)
    | with_reducible apply Keeps.of_triple (by assumption)
    | with_reducible apply Keeps.of_pair' (by assumption)
    | (intro _ _ _)
    | (intro _ _)
    | intro _
    | simp only [keeps_mk_iff]
    | dsimp only
    | dsimp only [id_eq]
    | split)

theorem keeps_closeStage {w₀ : Bool} {s₀ u₀ : State} (h : Nat) (hk₀ : Keeps w₀ s₀ u₀) :
    Keeps w₀ s₀ (closeStage h u₀) := by
  unfold closeStage
  repeat' (first
    | with_reducible assumption
    | with_reducible apply keeps_closeChan
    | with_reducible apply keeps_putImage
    | with_reducible apply keeps_withSome
    | (intro _ _ _)
    | (intro _ _)
    | intro _
    | simp only [keeps_mk_iff]
    | dsimp only
    | dsimp only [id_eq]
    | split)

theorem keeps_openImage {w₀ : Bool} {s₀ u₀ : State} (owner mib size : Nat) (hk₀ : Keeps w₀ s₀ u₀) :
    KeepsSum w₀ s₀ (·.2.2) (openImage owner mib size u₀) := by
  unfold openImage
  repeat' (first
    | with_reducible assumption
    | with_reducible apply keepsSum_inl
    | with_reducible apply keepsSum_inr
    | with_reducible apply keeps_countChans
    | with_reducible apply keeps_putChan
    | with_reducible apply keeps_putImage
    | with_reducible apply keeps_takeMany
    | with_reducible apply KeepsOpt2.get (by assumption)
    | with_reducible apply Keeps.ite
    | (intro _ _ _)
    | (intro _ _)
    | intro _
    | simp only [keeps_mk_iff]
    | dsimp only
    | dsimp only [id_eq]
    | split)

theorem keeps_imageOpen {w₀ : Bool} {s₀ u₀ : State} (src : CmdSrc) (hk₀ : Keeps w₀ s₀ u₀) :
    Keeps w₀ s₀ (imageOpen src u₀) := by
  unfold imageOpen
  repeat' (first
    | with_reducible assumption
    | with_reducible apply keeps_openImage
    | with_reducible apply keeps_refuseAt
    | with_reducible apply keeps_respond
    | with_reducible apply keeps_takeCmd
    | with_reducible apply KeepsSum.get3 (by assumption)
    | with_reducible apply Keeps.ite
    | (intro _ _ _)
    | (intro _ _)
    | intro _
    | simp only [keeps_mk_iff]
    | dsimp only
    | dsimp only [id_eq]
    | split)

theorem keeps_moduleImageOpen {w₀ : Bool} {s₀ u₀ : State} (mib : Nat) (size : Nat) (hk₀ : Keeps w₀ s₀ u₀) :
    Keeps w₀ s₀ (moduleImageOpen mib size u₀) := by
  unfold moduleImageOpen
  repeat' (first
    | with_reducible assumption
    | with_reducible apply keeps_emit
    | with_reducible apply keeps_openImage
    | with_reducible apply KeepsSum.get3 (by assumption)
    | with_reducible apply Keeps.ite
    | (intro _ _ _)
    | (intro _ _)
    | intro _
    | simp only [keeps_mk_iff]
    | dsimp only
    | dsimp only [id_eq]
    | split)

theorem keeps_refuseImage {w₀ : Bool} {s₀ u₀ : State} (h : Nat) (cls : Nat) (b : Bad) (hk₀ : Keeps w₀ s₀ u₀) :
    Keeps w₀ s₀ (refuseImage h cls b u₀) := by
  unfold refuseImage
  repeat' (first
    | with_reducible assumption
    | with_reducible apply keeps_bumpF
    | with_reducible apply keeps_closeStage
    | with_reducible apply keeps_freeRing
    | with_reducible apply keeps_irqRaise
    | with_reducible apply keeps_lastEvt
    | with_reducible apply keeps_logStatus
    | with_reducible apply keeps_putImage
    | with_reducible apply keeps_setF
    | (intro _ _ _)
    | (intro _ _)
    | intro _
    | simp only [keeps_mk_iff]
    | dsimp only
    | dsimp only [id_eq]
    | split)

theorem keeps_takeRegions {w₀ : Bool} {s₀ u₀ : State} (owner k : Nat) (rs done : List Region) (runs : List (Nat × Nat)) (hk₀ : Keeps w₀ s₀ u₀) :
    KeepsSum w₀ s₀ (·.2.2) (takeRegions owner k rs done runs u₀) := by
  induction rs generalizing k done runs u₀ with
  | nil =>
    rw [takeRegions]
    repeat' (first
    | with_reducible assumption
    | with_reducible apply keepsSum_inl
    | with_reducible apply keepsSum_inr
    | with_reducible apply keeps_takePages
    | with_reducible apply keeps_zeroFill
    | with_reducible apply Keeps.ite
    | (intro _ _ _)
    | (intro _ _)
    | intro _
    | simp only [keeps_mk_iff]
    | dsimp only
    | dsimp only [id_eq]
    | split)
  | cons a₀ l₀ ih =>
    rw [takeRegions]
    repeat' (first
    | with_reducible assumption
    | with_reducible apply ih
    | with_reducible apply keepsSum_inl
    | with_reducible apply keepsSum_inr
    | with_reducible apply keeps_takePages
    | with_reducible apply keeps_zeroFill
    | with_reducible apply Keeps.ite
    | (intro _ _ _)
    | (intro _ _)
    | intro _
    | simp only [keeps_mk_iff]
    | dsimp only
    | dsimp only [id_eq]
    | split)

theorem keeps_andThen {α β γ : Type} {w₀ : Bool} {s₀ : State} {r : Sum α β} {f : β → Sum α γ} {p : β → State} {q : γ → State}
    (hk₀ : KeepsSum w₀ s₀ p r) (hf : ∀ b, Keeps w₀ s₀ (p b) → KeepsSum w₀ s₀ q (f b)) : KeepsSum w₀ s₀ q (andThen r f) := by
  unfold andThen
  split
  · trivial
  · exact hf _ hk₀

theorem keeps_takeArea {w₀ : Bool} {s₀ u₀ : State} (owner n lo hi sect : Nat) (hk₀ : Keeps w₀ s₀ u₀) :
    KeepsSum w₀ s₀ (·.2) (takeArea owner n lo hi sect u₀) := by
  unfold takeArea
  repeat' (first
    | with_reducible assumption
    | with_reducible apply keepsSum_inl
    | with_reducible apply keepsSum_inr
    | with_reducible apply keeps_takePages
    | with_reducible apply Keeps.ite
    | (intro _ _ _)
    | (intro _ _)
    | intro _
    | simp only [keeps_mk_iff]
    | dsimp only
    | dsimp only [id_eq]
    | split)

theorem keeps_bindPlots {w₀ : Bool} {s₀ u₀ : State} (h owner k : Nat) (es : List (List Byte)) (acc : List (Nat × Nat)) (hk₀ : Keeps w₀ s₀ u₀) :
    KeepsSum w₀ s₀ (·.2) (bindPlots h owner k es acc u₀) := by
  induction es generalizing k acc u₀ with
  | nil =>
    rw [bindPlots]
    repeat' (first
    | with_reducible assumption
    | with_reducible apply keepsSum_inl
    | with_reducible apply keepsSum_inr
    | with_reducible apply keeps_modPlot
    | with_reducible apply Keeps.ite
    | (intro _ _ _)
    | (intro _ _)
    | intro _
    | simp only [keeps_mk_iff]
    | dsimp only
    | dsimp only [id_eq]
    | split)
  | cons a₀ l₀ ih =>
    rw [bindPlots]
    repeat' (first
    | with_reducible assumption
    | with_reducible apply ih
    | with_reducible apply keepsSum_inl
    | with_reducible apply keepsSum_inr
    | with_reducible apply keeps_modPlot
    | with_reducible apply Keeps.ite
    | (intro _ _ _)
    | (intro _ _)
    | intro _
    | simp only [keeps_mk_iff]
    | dsimp only
    | dsimp only [id_eq]
    | split)

theorem keeps_takeStores {w₀ : Bool} {s₀ u₀ : State} (im : Image) (ss : List (Nat × Nat × Nat)) (courses : List (List Byte)) (sec6 : List Byte) (ns : List Nat) (runs : List (Nat × Nat)) (bases : List (Nat × Nat × Nat)) (hk₀ : Keeps w₀ s₀ u₀) :
    KeepsSum w₀ s₀ (·.2.2) (takeStores im ss courses sec6 ns runs bases u₀) := by
  induction ns generalizing runs bases u₀ with
  | nil =>
    rw [takeStores]
    repeat' (first
    | with_reducible assumption
    | with_reducible apply keepsSum_inl
    | with_reducible apply keepsSum_inr
    | with_reducible apply KeepsSum.get2 (by assumption)
    | with_reducible apply keeps_andThen
    | with_reducible apply keeps_takeArea
    | with_reducible apply Keeps.foldl
    | with_reducible apply Keeps.foldl1
    | with_reducible apply Keeps.foldl2
    | with_reducible apply Keeps.foldl22
    | with_reducible apply Keeps.of_pair (by assumption)
    | with_reducible apply Keeps.of_triple (by assumption)
    | with_reducible apply Keeps.of_pair' (by assumption)
    | (intro _ _ _)
    | (intro _ _)
    | intro _
    | dsimp only
    | dsimp only [id_eq]
    | split)
  | cons a₀ l₀ ih =>
    rw [takeStores]
    repeat' (first
    | with_reducible assumption
    | with_reducible apply ih
    | with_reducible apply keepsSum_inl
    | with_reducible apply keepsSum_inr
    | with_reducible apply KeepsSum.get2 (by assumption)
    | with_reducible apply keeps_andThen
    | with_reducible apply keeps_takeArea
    | with_reducible apply Keeps.foldl
    | with_reducible apply Keeps.foldl1
    | with_reducible apply Keeps.foldl2
    | with_reducible apply Keeps.foldl22
    | with_reducible apply Keeps.of_pair (by assumption)
    | with_reducible apply Keeps.of_triple (by assumption)
    | with_reducible apply Keeps.of_pair' (by assumption)
    | (intro _ _ _)
    | (intro _ _)
    | intro _
    | dsimp only
    | dsimp only [id_eq]
    | split)

theorem keeps_acceptImage {w₀ : Bool} {s₀ u₀ : State} (im : Image) (hk₀ : Keeps w₀ s₀ u₀) :
    KeepsSum w₀ s₀ id (acceptImage im u₀) := by
  unfold acceptImage
  repeat' (first
    | with_reducible assumption
    | with_reducible apply keepsSum_inl
    | with_reducible apply keepsSum_inr
    | with_reducible apply keeps_andThen
    | with_reducible apply keeps_bindPlots
    | with_reducible apply keeps_bumpF
    | with_reducible apply keeps_putImage
    | with_reducible apply keeps_takeRegions
    | with_reducible apply keeps_takeStores
    | with_reducible apply keeps_wrBytes
    | with_reducible apply KeepsSum.get2 (by assumption)
    | with_reducible apply KeepsSum.get3 (by assumption)
    | with_reducible apply Keeps.foldl
    | with_reducible apply Keeps.foldl1
    | with_reducible apply Keeps.foldl2
    | with_reducible apply Keeps.foldl22
    | with_reducible apply Keeps.of_pair (by assumption)
    | with_reducible apply Keeps.of_triple (by assumption)
    | with_reducible apply Keeps.of_pair' (by assumption)
    | (intro _ _ _)
    | (intro _ _)
    | intro _
    | simp only [keeps_mk_iff]
    | dsimp only
    | dsimp only [id_eq]
    | split)

theorem keeps_dataWrite {w₀ : Bool} {s₀ u₀ : State} (rs : List Region) (k : Nat) (bs : List Byte) (hk₀ : Keeps w₀ s₀ u₀) :
    Keeps w₀ s₀ (dataWrite rs k bs u₀) := by
  unfold dataWrite
  repeat' (first
    | with_reducible assumption
    | with_reducible apply keeps_wrBytes
    | with_reducible apply Keeps.foldl
    | with_reducible apply Keeps.foldl1
    | with_reducible apply Keeps.foldl2
    | with_reducible apply Keeps.foldl22
    | with_reducible apply Keeps.of_pair (by assumption)
    | with_reducible apply Keeps.of_triple (by assumption)
    | with_reducible apply Keeps.of_pair' (by assumption)
    | with_reducible apply Keeps.ite
    | (intro _ _ _)
    | (intro _ _)
    | intro _
    | dsimp only
    | dsimp only [id_eq]
    | split)

theorem keeps_processBulk {w₀ : Bool} {s₀ u₀ : State} (h n : Nat) (hk₀ : Keeps w₀ s₀ u₀) :
    Keeps w₀ s₀ (processBulk h n u₀) := by
  induction n generalizing u₀ with
  | zero =>
    rw [processBulk]
    repeat' (first
    | with_reducible assumption
    | with_reducible apply keeps_dataWrite
    | with_reducible apply keeps_putImage
    | with_reducible apply Keeps.ite
    | (intro _ _ _)
    | (intro _ _)
    | intro _
    | simp only [keeps_mk_iff]
    | dsimp only
    | dsimp only [id_eq]
    | split)
  | succ n₀ ih =>
    rw [processBulk]
    repeat' (first
    | with_reducible assumption
    | with_reducible apply ih
    | with_reducible apply keeps_dataWrite
    | with_reducible apply keeps_putImage
    | with_reducible apply Keeps.ite
    | (intro _ _ _)
    | (intro _ _)
    | intro _
    | simp only [keeps_mk_iff]
    | dsimp only
    | dsimp only [id_eq]
    | split)

theorem keeps_processAll {w₀ : Bool} {s₀ u₀ : State} (h : Nat) (hk₀ : Keeps w₀ s₀ u₀) :
    Keeps w₀ s₀ (processAll h u₀) := by
  unfold processAll
  repeat' (first
    | with_reducible assumption
    | with_reducible apply keeps_passTo
    | with_reducible apply keeps_processBulk
    | with_reducible apply keeps_withSome
    | (intro _ _ _)
    | (intro _ _)
    | intro _
    | simp only [keeps_mk_iff]
    | dsimp only
    | dsimp only [id_eq]
    | split)

theorem keeps_readyCheck {w₀ : Bool} {s₀ u₀ : State} (h : Nat) (hk₀ : Keeps w₀ s₀ u₀) :
    Keeps w₀ s₀ (readyCheck h u₀) := by
  unfold readyCheck
  repeat' (first
    | with_reducible assumption
    | with_reducible apply keeps_closeStage
    | with_reducible apply keeps_freeRing
    | with_reducible apply keeps_putImage
    | with_reducible apply Keeps.ite
    | (intro _ _ _)
    | (intro _ _)
    | intro _
    | simp only [keeps_mk_iff]
    | dsimp only
    | dsimp only [id_eq]
    | split)

theorem keeps_stageBytes {w₀ : Bool} {s₀ u₀ : State} (h : Nat) (bs : List Byte) (hk₀ : Keeps w₀ s₀ u₀) :
    Keeps w₀ s₀ (stageBytes h bs u₀) := by
  unfold stageBytes
  repeat' (first
    | with_reducible assumption
    | with_reducible apply keeps_passTo
    | with_reducible apply keeps_processAll
    | with_reducible apply keeps_putImage
    | with_reducible apply keeps_readyCheck
    | with_reducible apply keeps_withSome
    | with_reducible apply Keeps.foldl
    | with_reducible apply Keeps.foldl1
    | with_reducible apply Keeps.foldl2
    | with_reducible apply Keeps.foldl22
    | with_reducible apply Keeps.of_pair (by assumption)
    | with_reducible apply Keeps.of_triple (by assumption)
    | with_reducible apply Keeps.of_pair' (by assumption)
    | with_reducible apply Keeps.ite
    | (intro _ _ _)
    | (intro _ _)
    | intro _
    | simp only [keeps_mk_iff]
    | dsimp only
    | dsimp only [id_eq]
    | split)

theorem keeps_imageControlCheck {w₀ : Bool} {s₀ u₀ : State} (h : Nat) (hk₀ : Keeps w₀ s₀ u₀) :
    Keeps w₀ s₀ (imageControlCheck h u₀) := by
  unfold imageControlCheck
  repeat' (first
    | with_reducible assumption
    | with_reducible apply keeps_acceptImage
    | with_reducible apply keeps_processAll
    | with_reducible apply keeps_readyCheck
    | with_reducible apply keeps_refuseImage
    | with_reducible apply KeepsSum.get1 (by assumption)
    | with_reducible apply Keeps.ite
    | (intro _ _ _)
    | (intro _ _)
    | intro _
    | simp only [keeps_mk_iff]
    | dsimp only
    | dsimp only [id_eq]
    | split)

theorem keeps_assignSlots {w₀ : Bool} {s₀ u₀ : State} (im : Image) (die : Nat) (hk₀ : Keeps w₀ s₀ u₀) :
    Keeps w₀ s₀ (assignSlots im die u₀) := by
  unfold assignSlots
  repeat' (first
    | with_reducible assumption
    | with_reducible apply keeps_setLSlot
    | with_reducible apply Keeps.foldl
    | with_reducible apply Keeps.foldl1
    | with_reducible apply Keeps.foldl2
    | with_reducible apply Keeps.foldl22
    | with_reducible apply Keeps.of_pair (by assumption)
    | with_reducible apply Keeps.of_triple (by assumption)
    | with_reducible apply Keeps.of_pair' (by assumption)
    | (intro _ _ _)
    | (intro _ _)
    | intro _
    | simp only [keeps_mk_iff]
    | dsimp only
    | dsimp only [id_eq]
    | split)

theorem keeps_dropSlots {w₀ : Bool} {s₀ u₀ : State} (h : Nat) (hk₀ : Keeps w₀ s₀ u₀) :
    Keeps w₀ s₀ (dropSlots h u₀) := by
  unfold dropSlots
  repeat' (first
    | with_reducible assumption
    | with_reducible apply keeps_mapLSlots
    | with_reducible apply Keeps.ite
    | (intro _ _ _)
    | (intro _ _)
    | intro _
    | dsimp only
    | dsimp only [id_eq]
    | split)

theorem keeps_activate {w₀ : Bool} {s₀ u₀ : State} (im : Image) (hk₀ : Keeps w₀ s₀ u₀) :
    Keeps w₀ s₀ (activate im u₀) := by
  unfold activate
  repeat' (first
    | with_reducible assumption
    | with_reducible apply keeps_assignSlots
    | with_reducible apply keeps_dropSlots
    | with_reducible apply keeps_putImage
    | with_reducible apply Keeps.foldl
    | with_reducible apply Keeps.foldl1
    | with_reducible apply Keeps.foldl2
    | with_reducible apply Keeps.foldl22
    | with_reducible apply Keeps.of_pair (by assumption)
    | with_reducible apply Keeps.of_triple (by assumption)
    | with_reducible apply Keeps.of_pair' (by assumption)
    | (intro _ _ _)
    | (intro _ _)
    | intro _
    | simp only [keeps_mk_iff]
    | dsimp only
    | dsimp only [id_eq]
    | split)

theorem keeps_imageActivate {w₀ : Bool} {s₀ u₀ : State} (src : CmdSrc) (hk₀ : Keeps w₀ s₀ u₀) :
    Keeps w₀ s₀ (imageActivate src u₀) := by
  unfold imageActivate
  repeat' (first
    | with_reducible assumption
    | with_reducible apply keeps_ack
    | with_reducible apply keeps_activate
    | with_reducible apply keeps_refuseAt
    | with_reducible apply keeps_refuseCmd
    | with_reducible apply keeps_takeCmd
    | with_reducible apply Keeps.ite
    | (intro _ _ _)
    | (intro _ _)
    | intro _
    | simp only [keeps_mk_iff]
    | dsimp only
    | dsimp only [id_eq]
    | split)

theorem keeps_moduleImageActivate {w₀ : Bool} {s₀ u₀ : State} (h : Nat) (hk₀ : Keeps w₀ s₀ u₀) :
    Keeps w₀ s₀ (moduleImageActivate h u₀) := by
  unfold moduleImageActivate
  repeat' (first
    | with_reducible assumption
    | with_reducible apply keeps_activate
    | with_reducible apply keeps_emit
    | with_reducible apply Keeps.ite
    | (intro _ _ _)
    | (intro _ _)
    | intro _
    | simp only [keeps_mk_iff]
    | dsimp only
    | dsimp only [id_eq]
    | split)

theorem keeps_holdingMaskWrite {w₀ : Bool} {s₀ u₀ : State} (h : Nat) (mask : Nat) (hk₀ : Keeps w₀ s₀ u₀) :
    Keeps w₀ s₀ (holdingMaskWrite h mask u₀) := by
  unfold holdingMaskWrite
  repeat' (first
    | with_reducible assumption
    | with_reducible apply keeps_putImage
    | with_reducible apply Keeps.ite
    | (intro _ _ _)
    | (intro _ _)
    | intro _
    | simp only [keeps_mk_iff]
    | dsimp only
    | dsimp only [id_eq]
    | split)

theorem keeps_releasePlots {w₀ : Bool} {s₀ u₀ : State} (im : Image) (hk₀ : Keeps w₀ s₀ u₀) :
    Keeps w₀ s₀ (releasePlots im u₀) := by
  unfold releasePlots
  repeat' (first
    | with_reducible assumption
    | with_reducible apply keeps_modBasin
    | with_reducible apply keeps_modPlot
    | with_reducible apply Keeps.foldl
    | with_reducible apply Keeps.foldl1
    | with_reducible apply Keeps.foldl2
    | with_reducible apply Keeps.foldl22
    | with_reducible apply Keeps.of_pair (by assumption)
    | with_reducible apply Keeps.of_triple (by assumption)
    | with_reducible apply Keeps.of_pair' (by assumption)
    | with_reducible apply Keeps.ite
    | (intro _ _ _)
    | (intro _ _)
    | intro _
    | simp only [keeps_mk_iff]
    | dsimp only
    | dsimp only [id_eq]
    | split)

theorem keeps_freeRuns {w₀ : Bool} {s₀ u₀ : State} (im : Image) (hk₀ : Keeps w₀ s₀ u₀) :
    Keeps w₀ s₀ (freeRuns im u₀) := by
  unfold freeRuns
  repeat' (first
    | with_reducible assumption
    | with_reducible apply keeps_freePages
    | with_reducible apply Keeps.foldl
    | with_reducible apply Keeps.foldl1
    | with_reducible apply Keeps.foldl2
    | with_reducible apply Keeps.foldl22
    | with_reducible apply Keeps.of_pair (by assumption)
    | with_reducible apply Keeps.of_triple (by assumption)
    | with_reducible apply Keeps.of_pair' (by assumption)
    | (intro _ _ _)
    | (intro _ _)
    | intro _
    | dsimp only
    | dsimp only [id_eq]
    | split)

theorem keeps_dropGates {w₀ : Bool} {s₀ u₀ : State} (h : Nat) (hk₀ : Keeps w₀ s₀ u₀) :
    Keeps w₀ s₀ (dropGates h u₀) := by
  unfold dropGates
  repeat' (first
    | with_reducible assumption
    | (intro _ _ _)
    | (intro _ _)
    | intro _
    | simp only [keeps_mk_iff]
    | dsimp only
    | dsimp only [id_eq]
    | split)

theorem keeps_releaseStep {w₀ : Bool} {s₀ u₀ : State} (h : Nat) (hk₀ : Keeps w₀ s₀ u₀) :
    Keeps w₀ s₀ (releaseStep h u₀) := by
  unfold releaseStep
  repeat' (first
    | with_reducible assumption
    | with_reducible apply keeps_dropGates
    | with_reducible apply keeps_dropSlots
    | with_reducible apply keeps_freeRuns
    | with_reducible apply keeps_putImage
    | with_reducible apply keeps_releasePlots
    | with_reducible apply Keeps.ite
    | (intro _ _ _)
    | (intro _ _)
    | intro _
    | simp only [keeps_mk_iff]
    | dsimp only
    | dsimp only [id_eq]
    | split)

theorem keeps_releaseImage {w₀ : Bool} {s₀ u₀ : State} (im : Image) (hk₀ : Keeps w₀ s₀ u₀) :
    Keeps w₀ s₀ (releaseImage im u₀) := by
  unfold releaseImage
  repeat' (first
    | with_reducible assumption
    | with_reducible apply keeps_closeStage
    | with_reducible apply keeps_freeRing
    | with_reducible apply keeps_putImage
    | with_reducible apply keeps_releaseStep
    | with_reducible apply Keeps.ite
    | (intro _ _ _)
    | (intro _ _)
    | intro _
    | simp only [keeps_mk_iff]
    | dsimp only
    | dsimp only [id_eq]
    | split)

theorem keeps_imageRelease {w₀ : Bool} {s₀ u₀ : State} (src : CmdSrc) (hk₀ : Keeps w₀ s₀ u₀) :
    Keeps w₀ s₀ (imageRelease src u₀) := by
  unfold imageRelease
  repeat' (first
    | with_reducible assumption
    | with_reducible apply keeps_ack
    | with_reducible apply keeps_refuseCmd
    | with_reducible apply keeps_releaseImage
    | with_reducible apply keeps_takeCmd
    | (intro _ _ _)
    | (intro _ _)
    | intro _
    | simp only [keeps_mk_iff]
    | dsimp only
    | dsimp only [id_eq]
    | split)

theorem keeps_imageStatus {w₀ : Bool} {s₀ u₀ : State} (src : CmdSrc) (hk₀ : Keeps w₀ s₀ u₀) :
    Keeps w₀ s₀ (imageStatus src u₀) := by
  unfold imageStatus
  repeat' (first
    | with_reducible assumption
    | with_reducible apply keeps_refuseCmd
    | with_reducible apply keeps_respond
    | with_reducible apply keeps_takeCmd
    | (intro _ _ _)
    | (intro _ _)
    | intro _
    | simp only [keeps_mk_iff]
    | dsimp only
    | dsimp only [id_eq]
    | split)

end Sys2Proof.Laws
end

