-- ==== Sys2Proof/Laws/KeepsProgram.lean ====
section
/-!
SUPPORT. What the operations of Machine/Program.lean keep (see Keeps).
-/

namespace Sys2Proof.Laws

open Sys2Proof.Machine

theorem keeps_sparesLow {w₀ : Bool} {s₀ u₀ : State} (cd : Nat) (hk₀ : Keeps w₀ s₀ u₀) :
    Keeps w₀ s₀ (sparesLow cd u₀) := by
  unfold sparesLow
  repeat' (first
    | with_reducible assumption
    | with_reducible apply keeps_irqRaise
    | with_reducible apply keeps_logStatus
    | with_reducible apply Keeps.ite
    | (intro _ _ _)
    | (intro _ _)
    | intro _
    | simp only [keeps_mk_iff]
    | dsimp only
    | dsimp only [id_eq]
    | split)

theorem keeps_takeSpare {w₀ : Bool} {s₀ u₀ : State} (b : Nat) (sp : Nat) (target : NatMap Nat) (hk₀ : Keeps w₀ s₀ u₀) :
    Keeps w₀ s₀ (takeSpare b sp target u₀) := by
  unfold takeSpare
  repeat' (first
    | with_reducible assumption
    | with_reducible apply keeps_modBasin
    | with_reducible apply keeps_sparesLow
    | (intro _ _ _)
    | (intro _ _)
    | intro _
    | simp only [keeps_mk_iff]
    | dsimp only
    | dsimp only [id_eq]
    | split)

theorem keeps_freeSpare {w₀ : Bool} {s₀ u₀ : State} (sp : Nat) (hk₀ : Keeps w₀ s₀ u₀) :
    Keeps w₀ s₀ (freeSpare sp u₀) := by
  unfold freeSpare
  repeat' (first
    | with_reducible assumption
    | with_reducible apply keeps_modBasin
    | (intro _ _ _)
    | (intro _ _)
    | intro _
    | simp only [keeps_mk_iff]
    | dsimp only
    | dsimp only [id_eq]
    | split)

theorem keeps_retireBasin {w₀ : Bool} {s₀ u₀ : State} (b : Nat) (hk₀ : Keeps w₀ s₀ u₀) :
    Keeps w₀ s₀ (retireBasin b u₀) := by
  unfold retireBasin
  repeat' (first
    | with_reducible assumption
    | with_reducible apply keeps_modBasin
    | with_reducible apply keeps_sparesLow
    | with_reducible apply keeps_takeSpare
    | with_reducible apply Keeps.ite
    | (intro _ _ _)
    | (intro _ _)
    | intro _
    | simp only [keeps_mk_iff]
    | dsimp only
    | dsimp only [id_eq]
    | split)

theorem keeps_calDone {w₀ : Bool} {s₀ u₀ : State} (p : Nat) (q : CalReq) (hk₀ : Keeps w₀ s₀ u₀) :
    Keeps w₀ s₀ (calDone p q u₀) := by
  unfold calDone
  repeat' (first
    | with_reducible assumption
    | with_reducible apply keeps_emit
    | with_reducible apply keeps_logStatus
    | with_reducible apply keeps_postCpl
    | with_reducible apply Keeps.ite
    | (intro _ _ _)
    | (intro _ _)
    | intro _
    | dsimp only
    | dsimp only [id_eq]
    | split)

theorem keeps_finishReqs {w₀ : Bool} {s₀ u₀ : State} (p : Nat) (hk₀ : Keeps w₀ s₀ u₀) :
    Keeps w₀ s₀ (finishReqs p u₀) := by
  unfold finishReqs
  repeat' (first
    | with_reducible assumption
    | with_reducible apply keeps_calDone
    | with_reducible apply keeps_modPlot
    | with_reducible apply Keeps.foldl
    | with_reducible apply Keeps.foldl1
    | with_reducible apply Keeps.foldl2
    | with_reducible apply Keeps.foldl22
    | with_reducible apply Keeps.of_pair (by assumption)
    | with_reducible apply Keeps.of_triple (by assumption)
    | with_reducible apply Keeps.of_pair' (by assumption)
    | (intro _ _ _)
    | (intro _ _)
    | intro _
    | simp only [keeps_mk_iff]
    | dsimp only
    | dsimp only [id_eq]
    | split)

theorem keeps_leaveReqs {w₀ : Bool} {s₀ u₀ : State} (b : Nat) (served : Bool) (retired : Bool) (hk₀ : Keeps w₀ s₀ u₀) :
    Keeps w₀ s₀ (leaveReqs b served retired u₀) := by
  unfold leaveReqs
  repeat' (first
    | with_reducible assumption
    | with_reducible apply keeps_finishReqs
    | with_reducible apply keeps_modPlot
    | with_reducible apply Keeps.ite
    | (intro _ _ _)
    | (intro _ _)
    | intro _
    | simp only [keeps_mk_iff]
    | dsimp only
    | dsimp only [id_eq]
    | split)

theorem keeps_setTrims {w₀ : Bool} {s₀ u₀ : State} (b : Nat) (hk₀ : Keeps w₀ s₀ u₀) :
    Keeps w₀ s₀ (setTrims b u₀) := by
  unfold setTrims
  repeat' (first
    | with_reducible assumption
    | with_reducible apply keeps_modBasin
    | (intro _ _ _)
    | (intro _ _)
    | intro _
    | simp only [keeps_mk_iff]
    | dsimp only
    | dsimp only [id_eq]
    | split)

theorem keeps_retCheck {w₀ : Bool} {s₀ u₀ : State} (hk₀ : Keeps w₀ s₀ u₀) :
    Keeps w₀ s₀ (retCheck u₀) := by
  unfold retCheck
  repeat' (first
    | with_reducible assumption
    | with_reducible apply keeps_irqRaise
    | with_reducible apply keeps_setF
    | with_reducible apply Keeps.ite
    | (intro _ _ _)
    | (intro _ _)
    | intro _
    | simp only [keeps_mk_iff]
    | dsimp only
    | dsimp only [id_eq]
    | split)

theorem keeps_plotCleared {w₀ : Bool} {s₀ u₀ : State} (p : Nat) (hk₀ : Keeps w₀ s₀ u₀) :
    Keeps w₀ s₀ (plotCleared p u₀) := by
  unfold plotCleared
  repeat' (first
    | with_reducible assumption
    | with_reducible apply keeps_modPlot
    | with_reducible apply keeps_releaseStep
    | with_reducible apply keeps_retCheck
    | with_reducible apply keeps_withSome
    | with_reducible apply Keeps.ite
    | (intro _ _ _)
    | (intro _ _)
    | intro _
    | simp only [keeps_mk_iff]
    | dsimp only
    | dsimp only [id_eq]
    | split)

theorem keeps_clearedBasin {w₀ : Bool} {s₀ u₀ : State} (b : Nat) (hk₀ : Keeps w₀ s₀ u₀) :
    Keeps w₀ s₀ (clearedBasin b u₀) := by
  unfold clearedBasin
  repeat' (first
    | with_reducible assumption
    | with_reducible apply keeps_modBasin
    | with_reducible apply keeps_plotCleared
    | (intro _ _ _)
    | (intro _ _)
    | intro _
    | simp only [keeps_mk_iff]
    | dsimp only
    | dsimp only [id_eq]
    | split)

theorem keeps_recordDone {w₀ : Bool} {s₀ u₀ : State} (b : Nat) (range : Nat) (hk₀ : Keeps w₀ s₀ u₀) :
    Keeps w₀ s₀ (recordDone b range u₀) := by
  unfold recordDone
  repeat' (first
    | with_reducible assumption
    | with_reducible apply keeps_modBasin
    | with_reducible apply keeps_modImage
    | with_reducible apply keeps_readyCheck
    | with_reducible apply keeps_retireBasin
    | with_reducible apply keeps_setTrims
    | with_reducible apply keeps_whenB
    | with_reducible apply keeps_withSome
    | with_reducible apply Keeps.ite
    | (intro _ _ _)
    | (intro _ _)
    | intro _
    | simp only [keeps_mk_iff]
    | dsimp only
    | dsimp only [id_eq]
    | split)

theorem keeps_spareDone {w₀ : Bool} {s₀ u₀ : State} (sp : Nat) (b : Nat) (hk₀ : Keeps w₀ s₀ u₀) :
    Keeps w₀ s₀ (spareDone sp b u₀) := by
  unfold spareDone
  repeat' (first
    | with_reducible assumption
    | with_reducible apply keeps_modBasin
    | with_reducible apply keeps_setTrims
    | with_reducible apply keeps_takeSpare
    | with_reducible apply Keeps.ite
    | (intro _ _ _)
    | (intro _ _)
    | intro _
    | simp only [keeps_mk_iff]
    | dsimp only
    | dsimp only [id_eq]
    | split)

theorem keeps_stayIn {w₀ : Bool} {s₀ u₀ : State} (b : Nat) (hk₀ : Keeps w₀ s₀ u₀) :
    Keeps w₀ s₀ (stayIn b u₀) := by
  unfold stayIn
  repeat' (first
    | with_reducible assumption
    | with_reducible apply keeps_leaveReqs
    | with_reducible apply keeps_modBasin
    | (intro _ _ _)
    | (intro _ _)
    | intro _
    | simp only [keeps_mk_iff]
    | dsimp only
    | dsimp only [id_eq]
    | split)

theorem keeps_refreshDone {w₀ : Bool} {s₀ u₀ : State} (b : Nat) (hk₀ : Keeps w₀ s₀ u₀) :
    Keeps w₀ s₀ (refreshDone b u₀) := by
  unfold refreshDone
  repeat' (first
    | with_reducible assumption
    | with_reducible apply keeps_modBasin
    | with_reducible apply keeps_setTrims
    | with_reducible apply keeps_stayIn
    | with_reducible apply Keeps.ite
    | (intro _ _ _)
    | (intro _ _)
    | intro _
    | simp only [keeps_mk_iff]
    | dsimp only
    | dsimp only [id_eq]
    | split)

theorem keeps_basinFinished {w₀ : Bool} {s₀ u₀ : State} (b : Nat) (range : Nat) (hk₀ : Keeps w₀ s₀ u₀) :
    Keeps w₀ s₀ (basinFinished b range u₀) := by
  unfold basinFinished
  repeat' (first
    | with_reducible assumption
    | with_reducible apply keeps_clearedBasin
    | with_reducible apply keeps_modBasin
    | with_reducible apply keeps_recordDone
    | with_reducible apply keeps_refreshDone
    | with_reducible apply keeps_spareDone
    | with_reducible apply Keeps.ite
    | (intro _ _ _)
    | (intro _ _)
    | intro _
    | simp only [keeps_mk_iff]
    | dsimp only
    | dsimp only [id_eq]
    | split)

theorem keeps_programRow {w₀ : Bool} {s₀ u₀ : State} (b : Nat) (stuck : List Stop) (pulsed : List Nat) (range : Nat) (hk₀ : Keeps w₀ s₀ u₀) :
    Keeps w₀ s₀ (programRow b stuck pulsed range u₀) := by
  unfold programRow
  repeat' (first
    | with_reducible assumption
    | with_reducible apply keeps_basinFinished
    | with_reducible apply keeps_logBasin
    | with_reducible apply keeps_monitorTrip
    | with_reducible apply keeps_setBasin
    | with_reducible apply keeps_whenB
    | with_reducible apply Keeps.foldl
    | with_reducible apply Keeps.foldl1
    | with_reducible apply Keeps.foldl2
    | with_reducible apply Keeps.foldl22
    | with_reducible apply Keeps.of_pair (by assumption)
    | with_reducible apply Keeps.of_triple (by assumption)
    | with_reducible apply Keeps.of_pair' (by assumption)
    | with_reducible apply Keeps.ite
    | (intro _ _ _)
    | (intro _ _)
    | intro _
    | simp only [keeps_mk_iff]
    | dsimp only
    | dsimp only [id_eq]
    | split)

theorem keeps_takeRecord {w₀ : Bool} {s₀ u₀ : State} (im : Image) (bs : List Byte) (hk₀ : Keeps w₀ s₀ u₀) :
    Keeps w₀ s₀ (takeRecord im bs u₀) := by
  unfold takeRecord
  repeat' (first
    | with_reducible assumption
    | with_reducible apply keeps_modBasin
    | with_reducible apply keeps_modImage
    | with_reducible apply keeps_passTo
    | with_reducible apply keeps_processAll
    | with_reducible apply keeps_putImage
    | with_reducible apply keeps_readyCheck
    | with_reducible apply keeps_setBasin
    | with_reducible apply keeps_sparesLow
    | with_reducible apply keeps_withSome
    | with_reducible apply Keeps.ite
    | (intro _ _ _)
    | (intro _ _)
    | intro _
    | simp only [keeps_mk_iff]
    | dsimp only
    | dsimp only [id_eq]
    | split)

theorem keeps_failBasinRecord {w₀ : Bool} {s₀ u₀ : State} (im : Image) (hk₀ : Keeps w₀ s₀ u₀) :
    Keeps w₀ s₀ (failBasinRecord im u₀) := by
  unfold failBasinRecord
  repeat' (first
    | with_reducible assumption
    | with_reducible apply keeps_failRecord
    | with_reducible apply keeps_lastEvt
    | with_reducible apply keeps_logStatus
    | with_reducible apply keeps_modImage
    | with_reducible apply keeps_putImage
    | with_reducible apply keeps_setF
    | with_reducible apply Keeps.of_pair (by assumption)
    | with_reducible apply Keeps.ite
    | (intro _ _ _)
    | (intro _ _)
    | intro _
    | simp only [keeps_mk_iff]
    | dsimp only
    | dsimp only [id_eq]
    | split)

theorem keeps_basinRecord {w₀ : Bool} {s₀ u₀ : State} (h : Nat) (hk₀ : Keeps w₀ s₀ u₀) :
    Keeps w₀ s₀ (basinRecord h u₀) := by
  unfold basinRecord
  repeat' (first
    | with_reducible assumption
    | with_reducible apply keeps_failBasinRecord
    | with_reducible apply keeps_takeRecord
    | with_reducible apply Keeps.ite
    | (intro _ _ _)
    | (intro _ _)
    | intro _
    | simp only [keeps_mk_iff]
    | dsimp only
    | dsimp only [id_eq]
    | split)

theorem keeps_basinSwap {w₀ : Bool} {s₀ u₀ : State} (b : Nat) (hk₀ : Keeps w₀ s₀ u₀) :
    Keeps w₀ s₀ (basinSwap b u₀) := by
  unfold basinSwap
  repeat' (first
    | with_reducible assumption
    | with_reducible apply keeps_freeSpare
    | with_reducible apply keeps_leaveReqs
    | with_reducible apply keeps_modBasin
    | with_reducible apply Keeps.ite
    | (intro _ _ _)
    | (intro _ _)
    | intro _
    | simp only [keeps_mk_iff]
    | dsimp only
    | dsimp only [id_eq]
    | split)

theorem keeps_retireBoundary {w₀ : Bool} {s₀ u₀ : State} (hk₀ : Keeps w₀ s₀ u₀) :
    Keeps w₀ s₀ (retireBoundary u₀) := by
  unfold retireBoundary
  repeat' (first
    | with_reducible assumption
    | with_reducible apply keeps_logBasin
    | with_reducible apply keeps_modBasin
    | with_reducible apply Keeps.foldl
    | with_reducible apply Keeps.foldl1
    | with_reducible apply Keeps.foldl2
    | with_reducible apply Keeps.foldl22
    | with_reducible apply Keeps.of_pair (by assumption)
    | with_reducible apply Keeps.of_triple (by assumption)
    | with_reducible apply Keeps.of_pair' (by assumption)
    | (intro _ _ _)
    | (intro _ _)
    | intro _
    | simp only [keeps_mk_iff]
    | dsimp only
    | dsimp only [id_eq]
    | split)

theorem keeps_queueDue {w₀ : Bool} {s₀ u₀ : State} (b : Nat) (hk₀ : Keeps w₀ s₀ u₀) :
    Keeps w₀ s₀ (queueDue b u₀) := by
  unfold queueDue
  repeat' (first
    | with_reducible assumption
    | with_reducible apply keeps_modBasin
    | with_reducible apply Keeps.ite
    | (intro _ _ _)
    | (intro _ _)
    | intro _
    | simp only [keeps_mk_iff]
    | dsimp only
    | dsimp only [id_eq]
    | split)

theorem keeps_recalDue {w₀ : Bool} {s₀ u₀ : State} (b : Nat) (hk₀ : Keeps w₀ s₀ u₀) :
    Keeps w₀ s₀ (recalDue b u₀) := by
  unfold recalDue
  repeat' (first
    | with_reducible assumption
    | with_reducible apply keeps_queueDue
    | with_reducible apply Keeps.ite
    | (intro _ _ _)
    | (intro _ _)
    | intro _
    | dsimp only
    | dsimp only [id_eq]
    | split)

theorem keeps_calOverdue {w₀ : Bool} {s₀ u₀ : State} (b : Nat) (hk₀ : Keeps w₀ s₀ u₀) :
    Keeps w₀ s₀ (calOverdue b u₀) := by
  unfold calOverdue
  repeat' (first
    | with_reducible assumption
    | with_reducible apply keeps_irqRaise
    | with_reducible apply keeps_logBasin
    | with_reducible apply keeps_modBasin
    | with_reducible apply keeps_monitorTrip
    | with_reducible apply Keeps.ite
    | (intro _ _ _)
    | (intro _ _)
    | intro _
    | simp only [keeps_mk_iff]
    | dsimp only
    | dsimp only [id_eq]
    | split)

theorem keeps_spareBasinTest {w₀ : Bool} {s₀ u₀ : State} (b : Nat) (unusable : Nat) (offgrid : Bool) (hk₀ : Keeps w₀ s₀ u₀) :
    Keeps w₀ s₀ (spareBasinTest b unusable offgrid u₀) := by
  unfold spareBasinTest
  repeat' (first
    | with_reducible assumption
    | with_reducible apply keeps_modBasin
    | with_reducible apply keeps_sparesLow
    | with_reducible apply Keeps.ite
    | (intro _ _ _)
    | (intro _ _)
    | intro _
    | simp only [keeps_mk_iff]
    | dsimp only
    | dsimp only [id_eq]
    | split)

theorem keeps_dequeue {w₀ : Bool} {s₀ u₀ : State} (b : Nat) (hk₀ : Keeps w₀ s₀ u₀) :
    Keeps w₀ s₀ (dequeue b u₀) := by
  unfold dequeue
  repeat' (first
    | with_reducible assumption
    | with_reducible apply keeps_modBasin
    | (intro _ _ _)
    | (intro _ _)
    | intro _
    | simp only [keeps_mk_iff]
    | dsimp only
    | dsimp only [id_eq]
    | split)

theorem keeps_recalibration {w₀ : Bool} {s₀ u₀ : State} (b : Nat) (reads : NatMap Nat) (hk₀ : Keeps w₀ s₀ u₀) :
    Keeps w₀ s₀ (recalibration b reads u₀) := by
  unfold recalibration
  repeat' (first
    | with_reducible assumption
    | with_reducible apply keeps_dequeue
    | with_reducible apply keeps_leaveReqs
    | with_reducible apply keeps_logBasin
    | with_reducible apply keeps_modBasin
    | with_reducible apply keeps_noticeOwner
    | with_reducible apply keeps_takeSpare
    | with_reducible apply Keeps.ite
    | (intro _ _ _)
    | (intro _ _)
    | intro _
    | simp only [keeps_mk_iff]
    | dsimp only
    | dsimp only [id_eq]
    | split)

theorem keeps_calRequest {w₀ : Bool} {s₀ u₀ : State} (src : CmdSrc) (hk₀ : Keeps w₀ s₀ u₀) :
    Keeps w₀ s₀ (calRequest src u₀) := by
  unfold calRequest
  repeat' (first
    | with_reducible assumption
    | with_reducible apply keeps_ack
    | with_reducible apply keeps_finishReqs
    | with_reducible apply keeps_modPlot
    | with_reducible apply keeps_queueCal
    | with_reducible apply keeps_refuseCmd
    | with_reducible apply keeps_takeCmd
    | with_reducible apply Keeps.foldl
    | with_reducible apply Keeps.foldl1
    | with_reducible apply Keeps.foldl2
    | with_reducible apply Keeps.foldl22
    | with_reducible apply Keeps.of_pair (by assumption)
    | with_reducible apply Keeps.of_triple (by assumption)
    | with_reducible apply Keeps.of_pair' (by assumption)
    | with_reducible apply Keeps.ite
    | (intro _ _ _)
    | (intro _ _)
    | intro _
    | simp only [keeps_mk_iff]
    | dsimp only
    | dsimp only [id_eq]
    | split)

theorem keeps_recoverBasin {w₀ : Bool} {s₀ u₀ : State} (b : Nat) (hk₀ : Keeps w₀ s₀ u₀) :
    Keeps w₀ s₀ (recoverBasin b u₀) := by
  unfold recoverBasin
  repeat' (first
    | with_reducible assumption
    | with_reducible apply keeps_freeSpare
    | with_reducible apply keeps_logBasin
    | with_reducible apply keeps_noticeOwner
    | with_reducible apply keeps_setBasin
    | with_reducible apply Keeps.ite
    | (intro _ _ _)
    | (intro _ _)
    | intro _
    | simp only [keeps_mk_iff]
    | dsimp only
    | dsimp only [id_eq]
    | split)

theorem keeps_basinRecovery {w₀ : Bool} {s₀ u₀ : State} (hk₀ : Keeps w₀ s₀ u₀) :
    Keeps w₀ s₀ (basinRecovery u₀) := by
  unfold basinRecovery
  repeat' (first
    | with_reducible assumption
    | with_reducible apply keeps_recoverBasin
    | with_reducible apply Keeps.foldl
    | with_reducible apply Keeps.foldl1
    | with_reducible apply Keeps.foldl2
    | with_reducible apply Keeps.foldl22
    | with_reducible apply Keeps.of_pair (by assumption)
    | with_reducible apply Keeps.of_triple (by assumption)
    | with_reducible apply Keeps.of_pair' (by assumption)
    | (intro _ _ _)
    | (intro _ _)
    | intro _
    | dsimp only
    | dsimp only [id_eq]
    | split)

end Sys2Proof.Laws
end

