-- ==== Sys2Proof/Laws/KeepsGates.lean ====
section
/-!
SUPPORT. What the operations of Machine/Gates.lean keep (see Keeps).
-/

namespace Sys2Proof.Laws

open Sys2Proof.Machine

theorem keeps_endWait {w₀ : Bool} {s₀ u₀ : State} (ex : Executor) (code : Nat) (onAcre : Nat → CourseRun → Bool) (onCtl : BasinRun → Bool) (hk₀ : Keeps w₀ s₀ u₀) :
    Keeps w₀ s₀ (endWait ex code onAcre onCtl u₀) := by
  unfold endWait
  repeat' (first
    | with_reducible assumption
    | with_reducible apply keeps_faultBasin
    | with_reducible apply keeps_faultRun
    | with_reducible apply Keeps.ite
    | (intro _ _ _)
    | (intro _ _)
    | intro _
    | simp only [keeps_mk_iff]
    | dsimp only
    | dsimp only [id_eq]
    | split)

theorem keeps_readBeforeFill {w₀ : Bool} {s₀ u₀ : State} (ex : Executor) (hk₀ : Keeps w₀ s₀ u₀) :
    Keeps w₀ s₀ (readBeforeFill ex u₀) := by
  unfold readBeforeFill
  repeat' (first
    | with_reducible assumption
    | with_reducible apply keeps_endWait
    | (intro _ _ _)
    | (intro _ _)
    | intro _
    | dsimp only
    | dsimp only [id_eq]
    | split)

theorem keeps_overwriteBeforeDrain {w₀ : Bool} {s₀ u₀ : State} (ex : Executor) (hk₀ : Keeps w₀ s₀ u₀) :
    Keeps w₀ s₀ (overwriteBeforeDrain ex u₀) := by
  unfold overwriteBeforeDrain
  repeat' (first
    | with_reducible assumption
    | with_reducible apply keeps_endWait
    | (intro _ _ _)
    | (intro _ _)
    | intro _
    | dsimp only
    | dsimp only [id_eq]
    | split)

theorem keeps_chainBroken {w₀ : Bool} {s₀ u₀ : State} (ex : Executor) (hk₀ : Keeps w₀ s₀ u₀) :
    Keeps w₀ s₀ (chainBroken ex u₀) := by
  unfold chainBroken
  repeat' (first
    | with_reducible assumption
    | with_reducible apply keeps_endWait
    | (intro _ _ _)
    | (intro _ _)
    | intro _
    | dsimp only
    | dsimp only [id_eq]
    | split)

end Sys2Proof.Laws
end

