-- ==== Sys2Proof/Laws/KeepsTally.lean ====
section
/-!
SUPPORT. What the operations of Machine/Tally.lean keep (see Keeps).
-/

namespace Sys2Proof.Laws

open Sys2Proof.Machine

theorem keeps_putStream {w₀ : Bool} {s₀ u₀ : State} (x : Stream) (hk₀ : Keeps w₀ s₀ u₀) :
    Keeps w₀ s₀ (putStream x u₀) := by
  unfold putStream
  repeat' (first
    | with_reducible assumption
    | (intro _ _ _)
    | (intro _ _)
    | intro _
    | simp only [keeps_mk_iff]
    | dsimp only
    | dsimp only [id_eq]
    | split)

theorem keeps_modStream {w₀ : Bool} {s₀ u₀ : State} (id : Nat) (f : Stream → Stream) (hk₀ : Keeps w₀ s₀ u₀) :
    Keeps w₀ s₀ (modStream id f u₀) := by
  unfold modStream
  repeat' (first
    | with_reducible assumption
    | with_reducible apply keeps_putStream
    | with_reducible apply keeps_withSome
    | (intro _ _ _)
    | (intro _ _)
    | intro _
    | simp only [keeps_mk_iff]
    | dsimp only
    | dsimp only [id_eq]
    | split)

theorem keeps_setTally {w₀ : Bool} {s₀ u₀ : State} (f : Tally → Tally) (hk₀ : Keeps w₀ s₀ u₀) :
    Keeps w₀ s₀ (setTally f u₀) := by
  unfold setTally
  repeat' (first
    | with_reducible assumption
    | (intro _ _ _)
    | (intro _ _)
    | intro _
    | simp only [keeps_mk_iff]
    | dsimp only
    | dsimp only [id_eq]
    | split)

theorem keeps_settle {w₀ : Bool} {s₀ u₀ : State} (id : Nat) (upto : Nat) (hk₀ : Keeps w₀ s₀ u₀) :
    Keeps w₀ s₀ (settle id upto u₀) := by
  unfold settle
  repeat' (first
    | with_reducible assumption
    | with_reducible apply keeps_putStream
    | with_reducible apply keeps_setTally
    | with_reducible apply Keeps.ite
    | (intro _ _ _)
    | (intro _ _)
    | intro _
    | simp only [keeps_mk_iff]
    | dsimp only
    | dsimp only [id_eq]
    | split)

theorem keeps_settleNow {w₀ : Bool} {s₀ u₀ : State} (id : Nat) (hk₀ : Keeps w₀ s₀ u₀) :
    Keeps w₀ s₀ (settleNow id u₀) := by
  unfold settleNow
  repeat' (first
    | with_reducible assumption
    | with_reducible apply keeps_settle
    | (intro _ _ _)
    | (intro _ _)
    | intro _
    | dsimp only
    | dsimp only [id_eq]
    | split)

theorem keeps_chargeAct {w₀ : Bool} {s₀ u₀ : State} (ws : List (Nat × Nat)) (act : Activity) (hk₀ : Keeps w₀ s₀ u₀) :
    Keeps w₀ s₀ (chargeAct ws act u₀) := by
  unfold chargeAct
  repeat' (first
    | with_reducible assumption
    | with_reducible apply keeps_setTally
    | with_reducible apply Keeps.foldl
    | with_reducible apply Keeps.foldl1
    | with_reducible apply Keeps.foldl2
    | with_reducible apply Keeps.foldl22
    | with_reducible apply Keeps.of_pair (by assumption)
    | with_reducible apply Keeps.of_triple (by assumption)
    | with_reducible apply Keeps.of_pair' (by assumption)
    | with_reducible apply Keeps.ite
    | (intro _ _ _)
    | (intro _ _)
    | intro _
    | simp only [keeps_mk_iff]
    | dsimp only
    | dsimp only [id_eq]
    | split)

theorem keeps_chargeTo {w₀ : Bool} {s₀ u₀ : State} (c : Nat) (act : Activity) (hk₀ : Keeps w₀ s₀ u₀) :
    Keeps w₀ s₀ (chargeTo c act u₀) := by
  unfold chargeTo
  repeat' (first
    | with_reducible assumption
    | with_reducible apply keeps_chargeAct
    | (intro _ _ _)
    | (intro _ _)
    | intro _
    | dsimp only
    | dsimp only [id_eq]
    | split)

theorem keeps_chargeBytes {w₀ : Bool} {s₀ u₀ : State} (c : Nat) (n : Nat) (hk₀ : Keeps w₀ s₀ u₀) :
    Keeps w₀ s₀ (chargeBytes c n u₀) := by
  unfold chargeBytes
  repeat' (first
    | with_reducible assumption
    | with_reducible apply keeps_chargeTo
    | (intro _ _ _)
    | (intro _ _)
    | intro _
    | dsimp only
    | dsimp only [id_eq]
    | split)

theorem keeps_attributeEpoch {w₀ : Bool} {s₀ u₀ : State} (einPj : Nat) (ed : List Nat) (volts : List Nat) (hk₀ : Keeps w₀ s₀ u₀) :
    Keeps w₀ s₀ (attributeEpoch einPj ed volts u₀) := by
  unfold attributeEpoch
  repeat' (first
    | with_reducible assumption
    | with_reducible apply keeps_bumpF
    | with_reducible apply keeps_bumpPair
    | with_reducible apply Keeps.foldl
    | with_reducible apply Keeps.foldl1
    | with_reducible apply Keeps.foldl2
    | with_reducible apply Keeps.foldl22
    | with_reducible apply Keeps.of_pair (by assumption)
    | with_reducible apply Keeps.of_triple (by assumption)
    | with_reducible apply Keeps.of_pair' (by assumption)
    | with_reducible apply Keeps.ite
    | (intro _ _ _)
    | (intro _ _)
    | intro _
    | simp only [keeps_mk_iff]
    | dsimp only
    | dsimp only [id_eq]
    | split)

theorem keeps_enterRecord {w₀ : Bool} {s₀ u₀ : State} (e : Terminal) (hk₀ : Keeps w₀ s₀ u₀) :
    Keeps w₀ s₀ (enterRecord e u₀) := by
  unfold enterRecord
  repeat' (first
    | with_reducible assumption
    | with_reducible apply Keeps.ite
    | (intro _ _ _)
    | (intro _ _)
    | intro _
    | simp only [keeps_mk_iff]
    | dsimp only
    | dsimp only [id_eq]
    | split)

theorem keeps_overheadRecord {w₀ : Bool} {s₀ u₀ : State} (c : Nat) (kind : Nat) (handle : Nat) (holding : Nat) (hk₀ : Keeps w₀ s₀ u₀) :
    Keeps w₀ s₀ (overheadRecord c kind handle holding u₀) := by
  unfold overheadRecord
  repeat' (first
    | with_reducible assumption
    | with_reducible apply Keeps.ite
    | (intro _ _ _)
    | (intro _ _)
    | intro _
    | simp only [keeps_mk_iff]
    | dsimp only
    | dsimp only [id_eq]
    | split)

theorem keeps_closePage {w₀ : Bool} {s₀ u₀ : State} (cause : Nat) (hk₀ : Keeps w₀ s₀ u₀) :
    Keeps w₀ s₀ (closePage cause u₀) := by
  unfold closePage
  repeat' (first
    | with_reducible assumption
    | with_reducible apply keeps_irqRaise
    | with_reducible apply keeps_overheadRecord
    | with_reducible apply keeps_setF
    | with_reducible apply keeps_whenB
    | with_reducible apply Keeps.foldl
    | with_reducible apply Keeps.foldl1
    | with_reducible apply Keeps.foldl2
    | with_reducible apply Keeps.foldl22
    | with_reducible apply Keeps.of_pair (by assumption)
    | with_reducible apply Keeps.of_triple (by assumption)
    | with_reducible apply Keeps.of_pair' (by assumption)
    | (intro _ _ _)
    | (intro _ _)
    | intro _
    | simp only [keeps_mk_iff]
    | dsimp only
    | dsimp only [id_eq]
    | split)

theorem keeps_completeTerms {w₀ : Bool} {s₀ u₀ : State} (hk₀ : Keeps w₀ s₀ u₀) :
    Keeps w₀ s₀ (completeTerms u₀) := by
  unfold completeTerms
  repeat' (first
    | with_reducible assumption
    | with_reducible apply keeps_closePage
    | with_reducible apply keeps_enterRecord
    | with_reducible apply Keeps.foldl
    | with_reducible apply Keeps.foldl1
    | with_reducible apply Keeps.foldl2
    | with_reducible apply Keeps.foldl22
    | with_reducible apply Keeps.of_pair (by assumption)
    | with_reducible apply Keeps.of_triple (by assumption)
    | with_reducible apply Keeps.of_pair' (by assumption)
    | with_reducible apply Keeps.ite
    | (intro _ _ _)
    | (intro _ _)
    | intro _
    | simp only [keeps_mk_iff]
    | dsimp only
    | dsimp only [id_eq]
    | split)

theorem keeps_attributionEpoch {w₀ : Bool} {s₀ u₀ : State} (einPj : Nat) (ed : List Nat) (volts : List Nat) (hk₀ : Keeps w₀ s₀ u₀) :
    Keeps w₀ s₀ (attributionEpoch einPj ed volts u₀) := by
  unfold attributionEpoch
  repeat' (first
    | with_reducible assumption
    | with_reducible apply keeps_attributeEpoch
    | with_reducible apply keeps_completeTerms
    | with_reducible apply keeps_setTally
    | with_reducible apply keeps_settle
    | with_reducible apply Keeps.foldl
    | with_reducible apply Keeps.foldl1
    | with_reducible apply Keeps.foldl2
    | with_reducible apply Keeps.foldl22
    | with_reducible apply Keeps.of_pair (by assumption)
    | with_reducible apply Keeps.of_triple (by assumption)
    | with_reducible apply Keeps.of_pair' (by assumption)
    | with_reducible apply Keeps.ite
    | (intro _ _ _)
    | (intro _ _)
    | intro _
    | simp only [keeps_mk_iff]
    | dsimp only
    | dsimp only [id_eq]
    | split)

theorem keeps_pageCloseTime {w₀ : Bool} {s₀ u₀ : State} (hk₀ : Keeps w₀ s₀ u₀) :
    Keeps w₀ s₀ (pageCloseTime u₀) := by
  unfold pageCloseTime
  repeat' (first
    | with_reducible assumption
    | with_reducible apply keeps_closePage
    | with_reducible apply Keeps.ite
    | (intro _ _ _)
    | (intro _ _)
    | intro _
    | dsimp only
    | dsimp only [id_eq]
    | split)

theorem keeps_shutdownRequest {w₀ : Bool} {s₀ u₀ : State} (hk₀ : Keeps w₀ s₀ u₀) :
    Keeps w₀ s₀ (shutdownRequest u₀) := by
  unfold shutdownRequest
  repeat' (first
    | with_reducible assumption
    | with_reducible apply keeps_closePage
    | with_reducible apply Keeps.ite
    | (intro _ _ _)
    | (intro _ _)
    | intro _
    | dsimp only
    | dsimp only [id_eq]
    | split)

theorem keeps_tallyEvent {w₀ : Bool} {s₀ u₀ : State} (holding : Nat) (code : Nat) (detail : List Nat) (hk₀ : Keeps w₀ s₀ u₀) :
    Keeps w₀ s₀ (tallyEvent holding code detail u₀) := by
  unfold tallyEvent
  repeat' (first
    | with_reducible assumption
    | with_reducible apply keeps_lastEvt
    | with_reducible apply keeps_logStatus
    | (intro _ _ _)
    | (intro _ _)
    | intro _
    | dsimp only
    | dsimp only [id_eq]
    | split)

theorem keeps_setRes {w₀ : Bool} {s₀ u₀ : State} (q : Nat) (hk₀ : Keeps w₀ s₀ u₀) :
    Keeps w₀ s₀ (setRes q u₀) := by
  unfold setRes
  repeat' (first
    | with_reducible assumption
    | with_reducible apply keeps_setF
    | with_reducible apply keeps_setTally
    | (intro _ _ _)
    | (intro _ _)
    | intro _
    | simp only [keeps_mk_iff]
    | dsimp only
    | dsimp only [id_eq]
    | split)

theorem keeps_journalTry {w₀ : Bool} {s₀ u₀ : State} (w : Bool × Bool) (hk₀ : Keeps w₀ s₀ u₀) :
    Keeps w₀ s₀ (journalTry w u₀).2 := by
  unfold journalTry
  repeat' (first
    | with_reducible assumption
    | with_reducible apply keeps_setB
    | (intro _ _ _)
    | (intro _ _)
    | intro _
    | dsimp only
    | dsimp only [id_eq]
    | split)

theorem keeps_reserveIndex {w₀ : Bool} {s₀ u₀ : State} (ws : List (Bool × Bool)) (hk₀ : Keeps w₀ s₀ u₀) :
    Keeps w₀ s₀ (reserveIndex ws u₀).2 := by
  unfold reserveIndex
  repeat' (first
    | with_reducible assumption
    | with_reducible apply keeps_irqRaise
    | with_reducible apply keeps_journalTry
    | with_reducible apply keeps_setB
    | with_reducible apply keeps_setF
    | with_reducible apply keeps_setRes
    | with_reducible apply keeps_tallyEvent
    | with_reducible apply Keeps.of_pair (by assumption)
    | with_reducible apply Keeps.ite
    | (intro _ _ _)
    | (intro _ _)
    | intro _
    | dsimp only
    | dsimp only [id_eq]
    | split)

theorem keeps_signPage {w₀ : Bool} {s₀ u₀ : State} (p : Page) (hk₀ : Keeps w₀ s₀ u₀) :
    Keeps w₀ s₀ (signPage p u₀).2 := by
  unfold signPage
  repeat' (first
    | with_reducible assumption
    | (intro _ _ _)
    | (intro _ _)
    | intro _
    | simp only [keeps_mk_iff]
    | dsimp only
    | dsimp only [id_eq]
    | split)

theorem keeps_retireSigner {w₀ : Bool} {s₀ u₀ : State} (k : Nat) (hk₀ : Keeps w₀ s₀ u₀) :
    Keeps w₀ s₀ (retireSigner k u₀) := by
  unfold retireSigner
  repeat' (first
    | with_reducible assumption
    | with_reducible apply keeps_irqRaise
    | with_reducible apply keeps_logEv
    | with_reducible apply keeps_setF
    | with_reducible apply keeps_whenB
    | (intro _ _ _)
    | (intro _ _)
    | intro _
    | simp only [keeps_mk_iff]
    | dsimp only
    | dsimp only [id_eq]
    | split)

theorem keeps_signerTransient {w₀ : Bool} {s₀ u₀ : State} (k : Nat) (cycle : Nat) (hk₀ : Keeps w₀ s₀ u₀) :
    Keeps w₀ s₀ (signerTransient k cycle u₀) := by
  unfold signerTransient
  repeat' (first
    | with_reducible assumption
    | with_reducible apply keeps_retireSigner
    | with_reducible apply keeps_setTally
    | with_reducible apply keeps_whenB
    | (intro _ _ _)
    | (intro _ _)
    | intro _
    | simp only [keeps_mk_iff]
    | dsimp only
    | dsimp only [id_eq]
    | split)

theorem keeps_pageSign {w₀ : Bool} {s₀ u₀ : State} (k : Nat) (bad : Nat) (cycle : Nat) (ws : List (Bool × Bool)) (hk₀ : Keeps w₀ s₀ u₀) :
    Keeps w₀ s₀ (pageSign k bad cycle ws u₀) := by
  unfold pageSign
  repeat' (first
    | with_reducible assumption
    | with_reducible apply keeps_reserveIndex
    | with_reducible apply keeps_retireSigner
    | with_reducible apply keeps_setF
    | with_reducible apply keeps_signPage
    | with_reducible apply keeps_signerTransient
    | with_reducible apply keeps_tallyEvent
    | with_reducible apply keeps_whenB
    | with_reducible apply Keeps.of_pair (by assumption)
    | with_reducible apply Keeps.ite
    | (intro _ _ _)
    | (intro _ _)
    | intro _
    | simp only [keeps_mk_iff]
    | dsimp only
    | dsimp only [id_eq]
    | split)

theorem keeps_lmsTreeBuilt {w₀ : Bool} {s₀ u₀ : State} (hk₀ : Keeps w₀ s₀ u₀) :
    Keeps w₀ s₀ (lmsTreeBuilt u₀) := by
  unfold lmsTreeBuilt
  repeat' (first
    | with_reducible assumption
    | with_reducible apply keeps_setF
    | with_reducible apply Keeps.ite
    | (intro _ _ _)
    | (intro _ _)
    | intro _
    | dsimp only
    | dsimp only [id_eq]
    | split)

theorem keeps_ledWrite {w₀ : Bool} {s₀ u₀ : State} (h : Nat) (bs : List Byte) (hk₀ : Keeps w₀ s₀ u₀) :
    Keeps w₀ s₀ (ledWrite h bs u₀) := by
  unfold ledWrite
  repeat' (first
    | with_reducible assumption
    | with_reducible apply keeps_emit
    | (intro _ _ _)
    | (intro _ _)
    | intro _
    | simp only [keeps_mk_iff]
    | dsimp only
    | dsimp only [id_eq]
    | split)

theorem keeps_deliver {w₀ : Bool} {s₀ u₀ : State} (h n : Nat) (hk₀ : Keeps w₀ s₀ u₀) :
    Keeps w₀ s₀ (deliver h n u₀) := by
  induction n generalizing u₀ with
  | zero =>
    rw [deliver]
    repeat' (first
    | with_reducible assumption
    | with_reducible apply keeps_ledWrite
    | with_reducible apply Keeps.ite
    | (intro _ _ _)
    | (intro _ _)
    | intro _
    | simp only [keeps_mk_iff]
    | dsimp only
    | dsimp only [id_eq]
    | split)
  | succ n₀ ih =>
    rw [deliver]
    repeat' (first
    | with_reducible assumption
    | with_reducible apply ih
    | with_reducible apply keeps_ledWrite
    | with_reducible apply Keeps.ite
    | (intro _ _ _)
    | (intro _ _)
    | intro _
    | simp only [keeps_mk_iff]
    | dsimp only
    | dsimp only [id_eq]
    | split)

theorem keeps_deliverAll {w₀ : Bool} {s₀ u₀ : State} (h : Nat) (hk₀ : Keeps w₀ s₀ u₀) :
    Keeps w₀ s₀ (deliverAll h u₀) := by
  unfold deliverAll
  repeat' (first
    | with_reducible assumption
    | with_reducible apply keeps_chargeBytes
    | with_reducible apply keeps_deliver
    | with_reducible apply keeps_setTally
    | with_reducible apply keeps_signalVec
    | with_reducible apply Keeps.ite
    | (intro _ _ _)
    | (intro _ _)
    | intro _
    | simp only [keeps_mk_iff]
    | dsimp only
    | dsimp only [id_eq]
    | split)

theorem keeps_pageSigned {w₀ : Bool} {s₀ u₀ : State} (hk₀ : Keeps w₀ s₀ u₀) :
    Keeps w₀ s₀ (pageSigned u₀) := by
  unfold pageSigned
  repeat' (first
    | with_reducible assumption
    | with_reducible apply keeps_deliverAll
    | with_reducible apply keeps_emit
    | with_reducible apply keeps_setF
    | with_reducible apply keeps_setTally
    | with_reducible apply keeps_tallyEvent
    | with_reducible apply Keeps.foldl
    | with_reducible apply Keeps.foldl1
    | with_reducible apply Keeps.foldl2
    | with_reducible apply Keeps.foldl22
    | with_reducible apply Keeps.of_pair (by assumption)
    | with_reducible apply Keeps.of_triple (by assumption)
    | with_reducible apply Keeps.of_pair' (by assumption)
    | with_reducible apply Keeps.ite
    | (intro _ _ _)
    | (intro _ _)
    | intro _
    | simp only [keeps_mk_iff]
    | dsimp only
    | dsimp only [id_eq]
    | split)

theorem keeps_signatureBlockRead {w₀ : Bool} {s₀ u₀ : State} (seq : Nat) (hk₀ : Keeps w₀ s₀ u₀) :
    Keeps w₀ s₀ (signatureBlockRead seq u₀) := by
  unfold signatureBlockRead
  repeat' (first
    | with_reducible assumption
    | with_reducible apply keeps_emit
    | with_reducible apply Keeps.ite
    | (intro _ _ _)
    | (intro _ _)
    | intro _
    | simp only [keeps_mk_iff]
    | dsimp only
    | dsimp only [id_eq]
    | split)

theorem keeps_meterCheck {w₀ : Bool} {s₀ u₀ : State} (hk₀ : Keeps w₀ s₀ u₀) :
    Keeps w₀ s₀ (meterCheck u₀) := by
  unfold meterCheck
  repeat' (first
    | with_reducible assumption
    | with_reducible apply keeps_logEv
    | with_reducible apply keeps_setTally
    | with_reducible apply Keeps.ite
    | (intro _ _ _)
    | (intro _ _)
    | intro _
    | simp only [keeps_mk_iff]
    | dsimp only
    | dsimp only [id_eq]
    | split)

end Sys2Proof.Laws
end

