-- ==== Sys2Proof/Laws/KeepsFirmware.lean ====
section
/-!
SUPPORT. What the operations of Machine/Firmware.lean keep (see Keeps).
-/

namespace Sys2Proof.Laws

open Sys2Proof.Machine

theorem keeps_setTrust {w₀ : Bool} {s₀ u₀ : State} (f : Trust → Trust) (hk₀ : Keeps w₀ s₀ u₀) :
    Keeps w₀ s₀ (setTrust f u₀) := by
  unfold setTrust
  repeat' (first
    | with_reducible assumption
    | (intro _ _ _)
    | (intro _ _)
    | intro _
    | simp only [keeps_mk_iff]
    | dsimp only
    | dsimp only [id_eq]
    | split)

theorem keeps_trustEvent {w₀ : Bool} {s₀ u₀ : State} (holding : Nat) (code : Nat) (detail : List Nat) (hk₀ : Keeps w₀ s₀ u₀) :
    Keeps w₀ s₀ (trustEvent holding code detail u₀) := by
  unfold trustEvent
  repeat' (first
    | with_reducible assumption
    | with_reducible apply keeps_lastEvt
    | with_reducible apply keeps_logStatus
    | (intro _ _ _)
    | (intro _ _)
    | intro _
    | dsimp only
    | dsimp only [id_eq]
    | split)

theorem keeps_setPhase {w₀ : Bool} {s₀ u₀ : State} (n : Nat) (hk₀ : Keeps w₀ s₀ u₀) :
    Keeps w₀ s₀ (setPhase n u₀) := by
  unfold setPhase
  repeat' (first
    | with_reducible assumption
    | with_reducible apply keeps_irqRaise
    | with_reducible apply keeps_setF
    | with_reducible apply Keeps.ite
    | (intro _ _ _)
    | (intro _ _)
    | intro _
    | dsimp only
    | dsimp only [id_eq]
    | split)

theorem keeps_keysLowCheck {w₀ : Bool} {s₀ u₀ : State} (hk₀ : Keeps w₀ s₀ u₀) :
    Keeps w₀ s₀ (keysLowCheck u₀) := by
  unfold keysLowCheck
  repeat' (first
    | with_reducible assumption
    | with_reducible apply keeps_setTrust
    | with_reducible apply keeps_trustEvent
    | with_reducible apply Keeps.ite
    | (intro _ _ _)
    | (intro _ _)
    | intro _
    | simp only [keeps_mk_iff]
    | dsimp only
    | dsimp only [id_eq]
    | split)

theorem keeps_aliasUpdate {w₀ : Bool} {s₀ u₀ : State} (hk₀ : Keeps w₀ s₀ u₀) :
    Keeps w₀ s₀ (aliasUpdate u₀) := by
  unfold aliasUpdate
  repeat' (first
    | with_reducible assumption
    | with_reducible apply keeps_keysLowCheck
    | with_reducible apply keeps_setTrust
    | with_reducible apply Keeps.ite
    | (intro _ _ _)
    | (intro _ _)
    | intro _
    | simp only [keeps_mk_iff]
    | dsimp only
    | dsimp only [id_eq]
    | split)

theorem keeps_recordMeas {w₀ : Bool} {s₀ u₀ : State} (kinds : List Nat) (bs : List Byte) (hk₀ : Keeps w₀ s₀ u₀) :
    Keeps w₀ s₀ (recordMeas kinds bs u₀) := by
  unfold recordMeas
  repeat' (first
    | with_reducible assumption
    | with_reducible apply keeps_setTrust
    | with_reducible apply Keeps.foldl
    | with_reducible apply Keeps.foldl1
    | with_reducible apply Keeps.foldl2
    | with_reducible apply Keeps.foldl22
    | with_reducible apply Keeps.of_pair (by assumption)
    | with_reducible apply Keeps.of_triple (by assumption)
    | with_reducible apply Keeps.of_pair' (by assumption)
    | (intro _ _ _)
    | (intro _ _)
    | intro _
    | simp only [keeps_mk_iff]
    | dsimp only
    | dsimp only [id_eq]
    | split)

theorem keeps_recordCoef {w₀ : Bool} {s₀ u₀ : State} (bs : List Byte) (hk₀ : Keeps w₀ s₀ u₀) :
    Keeps w₀ s₀ (recordCoef bs u₀) := by
  unfold recordCoef
  repeat' (first
    | with_reducible assumption
    | with_reducible apply keeps_setTrust
    | (intro _ _ _)
    | (intro _ _)
    | intro _
    | simp only [keeps_mk_iff]
    | dsimp only
    | dsimp only [id_eq]
    | split)

theorem keeps_rejectSlot {w₀ : Bool} {s₀ u₀ : State} (k : Nat) (cause : Nat) (hk₀ : Keeps w₀ s₀ u₀) :
    Keeps w₀ s₀ (rejectSlot k cause u₀) := by
  unfold rejectSlot
  repeat' (first
    | with_reducible assumption
    | with_reducible apply keeps_setF
    | with_reducible apply keeps_trustEvent
    | (intro _ _ _)
    | (intro _ _)
    | intro _
    | dsimp only
    | dsimp only [id_eq]
    | split)

theorem keeps_charterRead {w₀ : Bool} {s₀ u₀ : State} (hk₀ : Keeps w₀ s₀ u₀) :
    Keeps w₀ s₀ (charterRead u₀) := by
  unfold charterRead
  repeat' (first
    | with_reducible assumption
    | with_reducible apply keeps_trustEvent
    | with_reducible apply Keeps.foldl
    | with_reducible apply Keeps.foldl1
    | with_reducible apply Keeps.foldl2
    | with_reducible apply Keeps.foldl22
    | with_reducible apply Keeps.of_pair (by assumption)
    | with_reducible apply Keeps.of_triple (by assumption)
    | with_reducible apply Keeps.of_pair' (by assumption)
    | with_reducible apply Keeps.ite
    | (intro _ _ _)
    | (intro _ _)
    | intro _
    | dsimp only
    | dsimp only [id_eq]
    | split)

theorem keeps_startFirmware {w₀ : Bool} {s₀ u₀ : State} (k : Nat) (hk₀ : Keeps w₀ s₀ u₀) :
    Keeps w₀ s₀ (startFirmware k u₀) := by
  unfold startFirmware
  repeat' (first
    | with_reducible assumption
    | with_reducible apply keeps_aliasUpdate
    | with_reducible apply keeps_recordMeas
    | with_reducible apply keeps_setF
    | with_reducible apply keeps_setTrust
    | with_reducible apply Keeps.ite
    | (intro _ _ _)
    | (intro _ _)
    | intro _
    | simp only [keeps_mk_iff]
    | dsimp only
    | dsimp only [id_eq]
    | split)

theorem keeps_orReject {w₀ : Bool} {s₀ u₀ : State} (k : Nat) (bad : Option Nat) (next : State → State) (h_next : ∀ (x0 : State), Keeps w₀ s₀ x0 → Keeps w₀ s₀ (next x0)) (hk₀ : Keeps w₀ s₀ u₀) :
    Keeps w₀ s₀ (orReject k bad next u₀) := by
  unfold orReject
  repeat' (first
    | with_reducible assumption
    | with_reducible apply h_next
    | with_reducible apply keeps_rejectSlot
    | with_reducible apply keeps_startFirmware
    | (intro _ _ _)
    | (intro _ _)
    | intro _
    | simp only [keeps_mk_iff]
    | dsimp only
    | dsimp only [id_eq]
    | split)

theorem keeps_enterRecovery {w₀ : Bool} {s₀ u₀ : State} (hk₀ : Keeps w₀ s₀ u₀) :
    Keeps w₀ s₀ (enterRecovery u₀) := by
  unfold enterRecovery
  repeat' (first
    | with_reducible assumption
    | with_reducible apply keeps_trustEvent
    | (intro _ _ _)
    | (intro _ _)
    | intro _
    | simp only [keeps_mk_iff]
    | dsimp only
    | dsimp only [id_eq]
    | split)

theorem keeps_bootChain {w₀ : Bool} {s₀ u₀ : State} (hk₀ : Keeps w₀ s₀ u₀) :
    Keeps w₀ s₀ (bootChain u₀) := by
  unfold bootChain
  repeat' (first
    | with_reducible assumption
    | with_reducible apply keeps_charterRead
    | with_reducible apply keeps_enterRecovery
    | with_reducible apply keeps_orReject
    | (intro _ _ _)
    | (intro _ _)
    | intro _
    | dsimp only
    | dsimp only [id_eq]
    | split)

theorem keeps_attestPowerOn {w₀ : Bool} {s₀ u₀ : State} (hk₀ : Keeps w₀ s₀ u₀) :
    Keeps w₀ s₀ (attestPowerOn u₀) := by
  unfold attestPowerOn
  repeat' (first
    | with_reducible assumption
    | with_reducible apply keeps_keysLowCheck
    | with_reducible apply keeps_setTrust
    | (intro _ _ _)
    | (intro _ _)
    | intro _
    | simp only [keeps_mk_iff]
    | dsimp only
    | dsimp only [id_eq]
    | split)

theorem keeps_setStandby {w₀ : Bool} {s₀ u₀ : State} (n : Nat) (hk₀ : Keeps w₀ s₀ u₀) :
    Keeps w₀ s₀ (setStandby n u₀) := by
  unfold setStandby
  repeat' (first
    | with_reducible assumption
    | with_reducible apply keeps_setF
    | (intro _ _ _)
    | (intro _ _)
    | intro _
    | dsimp only
    | dsimp only [id_eq]
    | split)

theorem keeps_flipPair {w₀ : Bool} {s₀ u₀ : State} (hk₀ : Keeps w₀ s₀ u₀) :
    Keeps w₀ s₀ (flipPair u₀) := by
  unfold flipPair
  repeat' (first
    | with_reducible assumption
    | with_reducible apply keeps_setF
    | (intro _ _ _)
    | (intro _ _)
    | intro _
    | dsimp only
    | dsimp only [id_eq]
    | split)

theorem keeps_revertUpdate {w₀ : Bool} {s₀ u₀ : State} (hk₀ : Keeps w₀ s₀ u₀) :
    Keeps w₀ s₀ (revertUpdate u₀) := by
  unfold revertUpdate
  repeat' (first
    | with_reducible assumption
    | with_reducible apply keeps_setF
    | with_reducible apply keeps_setPhase
    | with_reducible apply keeps_setTrust
    | with_reducible apply keeps_trustEvent
    | with_reducible apply Keeps.ite
    | (intro _ _ _)
    | (intro _ _)
    | intro _
    | simp only [keeps_mk_iff]
    | dsimp only
    | dsimp only [id_eq]
    | split)

theorem keeps_fwFence {w₀ : Bool} {s₀ u₀ : State} (hk₀ : Keeps w₀ s₀ u₀) :
    Keeps w₀ s₀ (fwFence u₀) := by
  unfold fwFence
  repeat' (first
    | with_reducible assumption
    | with_reducible apply keeps_aliasUpdate
    | with_reducible apply keeps_flipPair
    | with_reducible apply keeps_recordMeas
    | with_reducible apply keeps_setF
    | with_reducible apply keeps_setPhase
    | with_reducible apply keeps_setTrust
    | with_reducible apply Keeps.ite
    | (intro _ _ _)
    | (intro _ _)
    | intro _
    | simp only [keeps_mk_iff]
    | dsimp only
    | dsimp only [id_eq]
    | split)

theorem keeps_commitUpdate {w₀ : Bool} {s₀ u₀ : State} (u : Update) (hk₀ : Keeps w₀ s₀ u₀) :
    Keeps w₀ s₀ (commitUpdate u u₀) := by
  unfold commitUpdate
  repeat' (first
    | with_reducible assumption
    | with_reducible apply keeps_recordCoef
    | with_reducible apply keeps_rejectSlot
    | with_reducible apply keeps_revertUpdate
    | with_reducible apply keeps_setF
    | with_reducible apply keeps_setPhase
    | with_reducible apply keeps_setStandby
    | with_reducible apply keeps_setTrust
    | with_reducible apply Keeps.ite
    | (intro _ _ _)
    | (intro _ _)
    | intro _
    | simp only [keeps_mk_iff]
    | dsimp only
    | dsimp only [id_eq]
    | split)

theorem keeps_healthExpire {w₀ : Bool} {s₀ u₀ : State} (hk₀ : Keeps w₀ s₀ u₀) :
    Keeps w₀ s₀ (healthExpire u₀) := by
  unfold healthExpire
  repeat' (first
    | with_reducible assumption
    | with_reducible apply keeps_commitUpdate
    | with_reducible apply Keeps.ite
    | (intro _ _ _)
    | (intro _ _)
    | intro _
    | simp only [keeps_mk_iff]
    | dsimp only
    | dsimp only [id_eq]
    | split)

theorem keeps_stageFirmware {w₀ : Bool} {s₀ u₀ : State} (bs : List Byte) (hk₀ : Keeps w₀ s₀ u₀) :
    Keeps w₀ s₀ (stageFirmware bs u₀) := by
  unfold stageFirmware
  repeat' (first
    | with_reducible assumption
    | with_reducible apply keeps_emit
    | with_reducible apply keeps_setF
    | with_reducible apply keeps_setTrust
    | with_reducible apply keeps_trustEvent
    | with_reducible apply Keeps.ite
    | (intro _ _ _)
    | (intro _ _)
    | intro _
    | simp only [keeps_mk_iff]
    | dsimp only
    | dsimp only [id_eq]
    | split)

theorem keeps_activateFirmware {w₀ : Bool} {s₀ u₀ : State} (hk₀ : Keeps w₀ s₀ u₀) :
    Keeps w₀ s₀ (activateFirmware u₀) := by
  unfold activateFirmware
  repeat' (first
    | with_reducible assumption
    | with_reducible apply keeps_emit
    | with_reducible apply keeps_rejectSlot
    | with_reducible apply keeps_setF
    | with_reducible apply keeps_setPhase
    | with_reducible apply keeps_setStandby
    | with_reducible apply keeps_setTrust
    | with_reducible apply Keeps.ite
    | (intro _ _ _)
    | (intro _ _)
    | intro _
    | simp only [keeps_mk_iff]
    | dsimp only
    | dsimp only [id_eq]
    | split)

theorem keeps_standbyBooted {w₀ : Bool} {s₀ u₀ : State} (hk₀ : Keeps w₀ s₀ u₀) :
    Keeps w₀ s₀ (standbyBooted u₀) := by
  unfold standbyBooted
  repeat' (first
    | with_reducible assumption
    | with_reducible apply keeps_setF
    | with_reducible apply keeps_setPhase
    | with_reducible apply keeps_setStandby
    | with_reducible apply Keeps.ite
    | (intro _ _ _)
    | (intro _ _)
    | intro _
    | dsimp only
    | dsimp only [id_eq]
    | split)

theorem keeps_abandonUpdate {w₀ : Bool} {s₀ u₀ : State} (hk₀ : Keeps w₀ s₀ u₀) :
    Keeps w₀ s₀ (abandonUpdate u₀) := by
  unfold abandonUpdate
  repeat' (first
    | with_reducible assumption
    | with_reducible apply keeps_setF
    | with_reducible apply keeps_setPhase
    | with_reducible apply keeps_setTrust
    | (intro _ _ _)
    | (intro _ _)
    | intro _
    | simp only [keeps_mk_iff]
    | dsimp only
    | dsimp only [id_eq]
    | split)

end Sys2Proof.Laws
end

