-- ==== Sys2Proof/Laws/KeepsKvPages.lean ====
section
/-!
SUPPORT. What the operations of Machine/KvPages.lean keep (see Keeps).
-/

namespace Sys2Proof.Laws

open Sys2Proof.Machine

theorem keeps_wrEnt {w₀ : Bool} {s₀ u₀ : State} (a : Nat) (e : MapEnt) (hk₀ : Keeps w₀ s₀ u₀) :
    Keeps w₀ s₀ (wrEnt a e u₀) := by
  unfold wrEnt
  repeat' (first
    | with_reducible assumption
    | with_reducible apply keeps_wrMem
    | (intro _ _ _)
    | (intro _ _)
    | intro _
    | dsimp only
    | dsimp only [id_eq]
    | split)

theorem keeps_modEnt {w₀ : Bool} {s₀ u₀ : State} (a : Nat) (f : MapEnt → MapEnt) (hk₀ : Keeps w₀ s₀ u₀) :
    Keeps w₀ s₀ (modEnt a f u₀) := by
  unfold modEnt
  repeat' (first
    | with_reducible assumption
    | with_reducible apply keeps_wrEnt
    | (intro _ _ _)
    | (intro _ _)
    | intro _
    | dsimp only
    | dsimp only [id_eq]
    | split)

theorem keeps_setEng {w₀ : Bool} {s₀ u₀ : State} (f : Engine → Engine) (hk₀ : Keeps w₀ s₀ u₀) :
    Keeps w₀ s₀ (setEng f u₀) := by
  unfold setEng
  repeat' (first
    | with_reducible assumption
    | (intro _ _ _)
    | (intro _ _)
    | intro _
    | simp only [keeps_mk_iff]
    | dsimp only
    | dsimp only [id_eq]
    | split)

theorem keeps_giveFrame {w₀ : Bool} {s₀ u₀ : State} (k : Nat) (i : Nat) (d : Nat) (id : Nat) (ent : Nat) (hk₀ : Keeps w₀ s₀ u₀) :
    Keeps w₀ s₀ (giveFrame k i d id ent u₀).2 := by
  unfold giveFrame
  repeat' (first
    | with_reducible assumption
    | with_reducible apply keeps_setEng
    | with_reducible apply keeps_zeroFill
    | (intro _ _ _)
    | (intro _ _)
    | intro _
    | simp only [keeps_mk_iff]
    | dsimp only
    | dsimp only [id_eq]
    | split)

theorem keeps_allocFrame {w₀ : Bool} {s₀ u₀ : State} (die : Nat) (owner : Nat) (d : Nat) (id : Nat) (ent : Nat) (hk₀ : Keeps w₀ s₀ u₀) :
    KeepsOpt2 w₀ s₀ (allocFrame die owner d id ent u₀) := by
  unfold allocFrame
  repeat' (first
    | with_reducible assumption
    | with_reducible apply keepsOpt2_none
    | with_reducible apply keepsOpt2_some
    | with_reducible apply keepsOpt2_map
    | with_reducible apply keepsOpt2_findSome
    | with_reducible apply keeps_giveFrame
    | with_reducible apply keeps_setEng
    | with_reducible apply keeps_takeOne
    | with_reducible apply Keeps.of_pair (by assumption)
    | with_reducible apply KeepsOpt2.get (by assumption)
    | with_reducible apply Keeps.ite
    | (intro _ _ _)
    | (intro _ _)
    | intro _
    | simp only [keeps_mk_iff]
    | dsimp only
    | dsimp only [id_eq]
    | split)

theorem keeps_freeFrame {w₀ : Bool} {s₀ u₀ : State} (a : Nat) (hk₀ : Keeps w₀ s₀ u₀) :
    Keeps w₀ s₀ (freeFrame a u₀) := by
  unfold freeFrame
  repeat' (first
    | with_reducible assumption
    | with_reducible apply keeps_freePages
    | with_reducible apply keeps_setEng
    | with_reducible apply Keeps.ite
    | (intro _ _ _)
    | (intro _ _)
    | intro _
    | simp only [keeps_mk_iff]
    | dsimp only
    | dsimp only [id_eq]
    | split)

theorem keeps_reserveEntry {w₀ : Bool} {s₀ u₀ : State} (die : Nat) (owner : Nat) (d : Nat) (id : Nat) (a : Nat) (hk₀ : Keeps w₀ s₀ u₀) :
    KeepsOpt w₀ s₀ (reserveEntry die owner d id a u₀) := by
  unfold reserveEntry
  repeat' (first
    | with_reducible assumption
    | with_reducible apply keepsOpt_none
    | with_reducible apply keepsOpt_some
    | with_reducible apply KeepsOpt.bind
    | with_reducible apply KeepsOpt.foldl
    | with_reducible apply keepsOpt_map2
    | with_reducible apply keepsOpt_map
    | with_reducible apply keeps_allocFrame
    | with_reducible apply keeps_modEnt
    | with_reducible apply KeepsOpt2.get (by assumption)
    | (intro _ _ _)
    | (intro _ _)
    | intro _
    | simp only [keeps_mk_iff]
    | dsimp only
    | dsimp only [id_eq]
    | split)

theorem keeps_reservePositions {w₀ : Bool} {s₀ u₀ : State} (id : Nat) (lo : Nat) (hi : Nat) (hk₀ : Keeps w₀ s₀ u₀) :
    KeepsOpt w₀ s₀ (reservePositions id lo hi u₀) := by
  unfold reservePositions
  repeat' (first
    | with_reducible assumption
    | with_reducible apply keepsOpt_none
    | with_reducible apply keepsOpt_some
    | with_reducible apply KeepsOpt.bind
    | with_reducible apply KeepsOpt.foldl
    | with_reducible apply keepsOpt_map2
    | with_reducible apply keepsOpt_map
    | with_reducible apply keeps_reserveEntry
    | with_reducible apply keeps_settleNow
    | with_reducible apply KeepsOpt.get (by assumption)
    | with_reducible apply Keeps.foldl
    | with_reducible apply Keeps.foldl1
    | with_reducible apply Keeps.foldl2
    | with_reducible apply Keeps.foldl22
    | with_reducible apply Keeps.of_pair (by assumption)
    | with_reducible apply Keeps.of_triple (by assumption)
    | with_reducible apply Keeps.of_pair' (by assumption)
    | (intro _ _ _)
    | (intro _ _)
    | intro _
    | simp only [keeps_mk_iff]
    | dsimp only
    | dsimp only [id_eq]
    | split)

theorem keeps_takeRun {w₀ : Bool} {s₀ u₀ : State} (die owner n : Nat) (hk₀ : Keeps w₀ s₀ u₀) :
    KeepsSum w₀ s₀ (·.2) (takeRun die owner n u₀) := by
  unfold takeRun
  repeat' (first
    | with_reducible assumption
    | with_reducible apply keepsSum_inl
    | with_reducible apply keepsSum_inr
    | with_reducible apply keeps_takePages
    | with_reducible apply keeps_zeroFill
    | with_reducible apply Keeps.ite
    | (intro _ _ _)
    | (intro _ _)
    | intro _
    | simp only [keeps_mk_iff]
    | dsimp only
    | dsimp only [id_eq]
    | split)

theorem keeps_takeMaps {w₀ : Bool} {s₀ u₀ : State} (owner : Nat) (k : KvDims) (hk₀ : Keeps w₀ s₀ u₀) : KeepsSum w₀ s₀ (·.2.2) (takeMaps owner k u₀) := by
  refine KeepsSum.foldl _ (fun y a h => ?_) hk₀
  split
  · trivial
  · split
    · trivial
    · next e => exact KeepsSum.get2 e (keeps_takeRun _ _ _ h)

theorem keeps_takeBuf {w₀ : Bool} {s₀ u₀ : State} (owner bytes : Nat) (hk₀ : Keeps w₀ s₀ u₀) : KeepsSum w₀ s₀ (·.2.2) (takeBuf owner bytes u₀) := by
  refine KeepsSum.foldl _ (fun y a h => ?_) trivial
  split
  · exact h
  · split
    · trivial
    · next e => exact KeepsSum.get2 e (keeps_takeRun _ _ _ hk₀)

theorem keeps_freeBuf {w₀ : Bool} {s₀ u₀ : State} (id : Nat) (hk₀ : Keeps w₀ s₀ u₀) :
    Keeps w₀ s₀ (freeBuf id u₀) := by
  unfold freeBuf
  repeat' (first
    | with_reducible assumption
    | with_reducible apply keeps_freePages
    | with_reducible apply keeps_putStream
    | with_reducible apply keeps_withSome
    | with_reducible apply Keeps.foldl
    | with_reducible apply Keeps.foldl1
    | with_reducible apply Keeps.foldl2
    | with_reducible apply Keeps.foldl22
    | with_reducible apply Keeps.of_pair (by assumption)
    | with_reducible apply Keeps.of_triple (by assumption)
    | with_reducible apply Keeps.of_pair' (by assumption)
    | (intro _ _ _)
    | (intro _ _)
    | intro _
    | simp only [keeps_mk_iff]
    | dsimp only
    | dsimp only [id_eq]
    | split)

theorem keeps_freeStream {w₀ : Bool} {s₀ u₀ : State} (id : Nat) (hk₀ : Keeps w₀ s₀ u₀) :
    Keeps w₀ s₀ (freeStream id u₀) := by
  unfold freeStream
  repeat' (first
    | with_reducible assumption
    | with_reducible apply keeps_freeBuf
    | with_reducible apply keeps_freeFrame
    | with_reducible apply keeps_freePages
    | with_reducible apply keeps_putStream
    | with_reducible apply keeps_settleNow
    | with_reducible apply keeps_withSome
    | with_reducible apply Keeps.foldl
    | with_reducible apply Keeps.foldl1
    | with_reducible apply Keeps.foldl2
    | with_reducible apply Keeps.foldl22
    | with_reducible apply Keeps.of_pair (by assumption)
    | with_reducible apply Keeps.of_triple (by assumption)
    | with_reducible apply Keeps.of_pair' (by assumption)
    | (intro _ _ _)
    | (intro _ _)
    | intro _
    | simp only [keeps_mk_iff]
    | dsimp only
    | dsimp only [id_eq]
    | split)

theorem keeps_kvcEvent {w₀ : Bool} {s₀ u₀ : State} (die : Nat) (f : Fld) (st : Word) (hk₀ : Keeps w₀ s₀ u₀) :
    Keeps w₀ s₀ (kvcEvent die f st u₀) := by
  unfold kvcEvent
  repeat' (first
    | with_reducible assumption
    | with_reducible apply keeps_bumpF
    | with_reducible apply keeps_lastEvt
    | (intro _ _ _)
    | (intro _ _)
    | intro _
    | dsimp only
    | dsimp only [id_eq]
    | split)

theorem keeps_setStreamSt {w₀ : Bool} {s₀ u₀ : State} (id : Nat) (st : StreamState) (hk₀ : Keeps w₀ s₀ u₀) :
    Keeps w₀ s₀ (setStreamSt id st u₀) := by
  unfold setStreamSt
  repeat' (first
    | with_reducible assumption
    | with_reducible apply keeps_modStream
    | with_reducible apply keeps_settleNow
    | (intro _ _ _)
    | (intro _ _)
    | intro _
    | simp only [keeps_mk_iff]
    | dsimp only
    | dsimp only [id_eq]
    | split)

theorem keeps_startExport {w₀ : Bool} {s₀ u₀ : State} (id : Nat) (k : Nat) (xchan : Nat) (hk₀ : Keeps w₀ s₀ u₀) :
    Keeps w₀ s₀ (startExport id k xchan u₀) := by
  unfold startExport
  repeat' (first
    | with_reducible assumption
    | with_reducible apply keeps_modChan
    | with_reducible apply keeps_modEnt
    | with_reducible apply keeps_modStream
    | with_reducible apply keeps_queueBytes
    | with_reducible apply keeps_setStreamSt
    | with_reducible apply Keeps.foldl
    | with_reducible apply Keeps.foldl1
    | with_reducible apply Keeps.foldl2
    | with_reducible apply Keeps.foldl22
    | with_reducible apply Keeps.of_pair (by assumption)
    | with_reducible apply Keeps.of_triple (by assumption)
    | with_reducible apply Keeps.of_pair' (by assumption)
    | (intro _ _ _)
    | (intro _ _)
    | intro _
    | simp only [keeps_mk_iff]
    | dsimp only
    | dsimp only [id_eq]
    | split)

theorem keeps_exportAcked {w₀ : Bool} {s₀ u₀ : State} (id : Nat) (hk₀ : Keeps w₀ s₀ u₀) :
    Keeps w₀ s₀ (exportAcked id u₀) := by
  unfold exportAcked
  repeat' (first
    | with_reducible assumption
    | with_reducible apply keeps_bumpF
    | with_reducible apply keeps_chargeBytes
    | with_reducible apply keeps_freeFrame
    | with_reducible apply keeps_modStream
    | with_reducible apply keeps_settleNow
    | with_reducible apply keeps_wrEnt
    | with_reducible apply Keeps.foldl
    | with_reducible apply Keeps.foldl1
    | with_reducible apply Keeps.foldl2
    | with_reducible apply Keeps.foldl22
    | with_reducible apply Keeps.of_pair (by assumption)
    | with_reducible apply Keeps.of_triple (by assumption)
    | with_reducible apply Keeps.of_pair' (by assumption)
    | (intro _ _ _)
    | (intro _ _)
    | intro _
    | simp only [keeps_mk_iff]
    | dsimp only
    | dsimp only [id_eq]
    | split)

theorem keeps_pagesBack {w₀ : Bool} {s₀ u₀ : State} (id : Nat) (hk₀ : Keeps w₀ s₀ u₀) :
    Keeps w₀ s₀ (pagesBack id u₀) := by
  unfold pagesBack
  repeat' (first
    | with_reducible assumption
    | with_reducible apply keeps_modChan
    | with_reducible apply keeps_modEnt
    | with_reducible apply keeps_modStream
    | with_reducible apply Keeps.foldl
    | with_reducible apply Keeps.foldl1
    | with_reducible apply Keeps.foldl2
    | with_reducible apply Keeps.foldl22
    | with_reducible apply Keeps.of_pair (by assumption)
    | with_reducible apply Keeps.of_triple (by assumption)
    | with_reducible apply Keeps.of_pair' (by assumption)
    | with_reducible apply Keeps.ite
    | (intro _ _ _)
    | (intro _ _)
    | intro _
    | simp only [keeps_mk_iff]
    | dsimp only
    | dsimp only [id_eq]
    | split)

end Sys2Proof.Laws
end

