-- ==== Sys2Proof/Laws/KeepsEngine.lean ====
section
/-!
SUPPORT. What the operations of Machine/Engine.lean keep (see Keeps).
-/

namespace Sys2Proof.Laws

open Sys2Proof.Machine

theorem keeps_refreshClosed {w₀ : Bool} {s₀ u₀ : State} (hk₀ : Keeps w₀ s₀ u₀) :
    Keeps w₀ s₀ (refreshClosed u₀) := by
  unfold refreshClosed
  repeat' (first
    | with_reducible assumption
    | with_reducible apply keeps_irqRaise
    | with_reducible apply keeps_setB
    | with_reducible apply Keeps.ite
    | (intro _ _ _)
    | (intro _ _)
    | intro _
    | dsimp only
    | dsimp only [id_eq]
    | split)

theorem keeps_touch {w₀ : Bool} {s₀ u₀ : State} (id : Nat) (hk₀ : Keeps w₀ s₀ u₀) :
    Keeps w₀ s₀ (touch id u₀) := by
  unfold touch
  repeat' (first
    | with_reducible assumption
    | with_reducible apply keeps_bumpPair
    | with_reducible apply keeps_setEng
    | with_reducible apply Keeps.ite
    | (intro _ _ _)
    | (intro _ _)
    | intro _
    | simp only [keeps_mk_iff]
    | dsimp only
    | dsimp only [id_eq]
    | split)

theorem keeps_streamNotice {w₀ : Bool} {s₀ u₀ : State} (id : Nat) (code : Nat) (v0 : Nat) (detail : List Nat) (hk₀ : Keeps w₀ s₀ u₀) :
    Keeps w₀ s₀ (streamNotice id code v0 detail u₀) := by
  unfold streamNotice
  repeat' (first
    | with_reducible assumption
    | with_reducible apply keeps_logStatus
    | with_reducible apply keeps_postCpl
    | with_reducible apply keeps_putStream
    | with_reducible apply keeps_withSome
    | (intro _ _ _)
    | (intro _ _)
    | intro _
    | simp only [keeps_mk_iff]
    | dsimp only
    | dsimp only [id_eq]
    | split)

theorem keeps_parkStream {w₀ : Bool} {s₀ u₀ : State} (id : Nat) (c : ParkCause) (code : Nat) (detail : List Nat) (hk₀ : Keeps w₀ s₀ u₀) :
    Keeps w₀ s₀ (parkStream id c code detail u₀) := by
  unfold parkStream
  repeat' (first
    | with_reducible assumption
    | with_reducible apply keeps_bumpF
    | with_reducible apply keeps_modStream
    | with_reducible apply keeps_putStream
    | with_reducible apply keeps_setStreamSt
    | with_reducible apply keeps_streamNotice
    | with_reducible apply keeps_whenB
    | with_reducible apply Keeps.ite
    | (intro _ _ _)
    | (intro _ _)
    | intro _
    | simp only [keeps_mk_iff]
    | dsimp only
    | dsimp only [id_eq]
    | split)

theorem keeps_unpark {w₀ : Bool} {s₀ u₀ : State} (id : Nat) (hk₀ : Keeps w₀ s₀ u₀) :
    Keeps w₀ s₀ (unpark id u₀) := by
  unfold unpark
  repeat' (first
    | with_reducible assumption
    | with_reducible apply keeps_setStreamSt
    | with_reducible apply keeps_streamNotice
    | with_reducible apply Keeps.ite
    | (intro _ _ _)
    | (intro _ _)
    | intro _
    | simp only [keeps_mk_iff]
    | dsimp only
    | dsimp only [id_eq]
    | split)

theorem keeps_endCause {w₀ : Bool} {s₀ u₀ : State} (id : Nat) (c : ParkCause) (hk₀ : Keeps w₀ s₀ u₀) :
    Keeps w₀ s₀ (endCause id c u₀) := by
  unfold endCause
  repeat' (first
    | with_reducible assumption
    | with_reducible apply keeps_putStream
    | with_reducible apply keeps_unpark
    | with_reducible apply keeps_withSome
    | with_reducible apply Keeps.ite
    | (intro _ _ _)
    | (intro _ _)
    | intro _
    | simp only [keeps_mk_iff]
    | dsimp only
    | dsimp only [id_eq]
    | split)

theorem keeps_deliverLoop {w₀ : Bool} {s₀ u₀ : State} (id n : Nat) (hk₀ : Keeps w₀ s₀ u₀) :
    Keeps w₀ s₀ (deliverLoop id n u₀) := by
  induction n generalizing u₀ with
  | zero =>
    rw [deliverLoop]
    repeat' (first
    | with_reducible assumption
    | with_reducible apply keeps_chargeBytes
    | with_reducible apply keeps_putStream
    | with_reducible apply keeps_writeCpl
    | with_reducible apply Keeps.ite
    | (intro _ _ _)
    | (intro _ _)
    | intro _
    | simp only [keeps_mk_iff]
    | dsimp only
    | dsimp only [id_eq]
    | split)
  | succ n₀ ih =>
    rw [deliverLoop]
    repeat' (first
    | with_reducible assumption
    | with_reducible apply ih
    | with_reducible apply keeps_chargeBytes
    | with_reducible apply keeps_putStream
    | with_reducible apply keeps_writeCpl
    | with_reducible apply Keeps.ite
    | (intro _ _ _)
    | (intro _ _)
    | intro _
    | simp only [keeps_mk_iff]
    | dsimp only
    | dsimp only [id_eq]
    | split)

theorem keeps_deliverToks {w₀ : Bool} {s₀ u₀ : State} (id : Nat) (hk₀ : Keeps w₀ s₀ u₀) :
    Keeps w₀ s₀ (deliverToks id u₀) := by
  unfold deliverToks
  repeat' (first
    | with_reducible assumption
    | with_reducible apply keeps_deliverLoop
    | with_reducible apply keeps_endCause
    | with_reducible apply Keeps.ite
    | (intro _ _ _)
    | (intro _ _)
    | intro _
    | dsimp only
    | dsimp only [id_eq]
    | split)

theorem keeps_unbindX {w₀ : Bool} {s₀ u₀ : State} (x : Stream) (hk₀ : Keeps w₀ s₀ u₀) :
    Keeps w₀ s₀ (unbindX x u₀) := by
  unfold unbindX
  repeat' (first
    | with_reducible assumption
    | with_reducible apply keepsOpt_some
    | with_reducible apply KeepsOpt.bind
    | with_reducible apply KeepsOpt.foldl
    | with_reducible apply keeps_modChan
    | with_reducible apply Keeps.ite
    | (intro _ _ _)
    | (intro _ _)
    | intro _
    | simp only [keeps_mk_iff]
    | dsimp only
    | dsimp only [id_eq]
    | split)

theorem keeps_commitEnd {w₀ : Bool} {s₀ u₀ : State} (id : Nat) (st : Word) (hk₀ : Keeps w₀ s₀ u₀) :
    Keeps w₀ s₀ (commitEnd id st u₀) := by
  unfold commitEnd
  repeat' (first
    | with_reducible assumption
    | with_reducible apply keeps_ack
    | with_reducible apply keeps_chargeBytes
    | with_reducible apply keeps_freeStream
    | with_reducible apply keeps_modStream
    | with_reducible apply keeps_postCpl
    | with_reducible apply keeps_refuseAt
    | with_reducible apply keeps_respond
    | with_reducible apply keeps_setStreamSt
    | with_reducible apply keeps_setTally
    | with_reducible apply keeps_unbindX
    | with_reducible apply Keeps.foldl
    | with_reducible apply Keeps.foldl1
    | with_reducible apply Keeps.foldl2
    | with_reducible apply Keeps.foldl22
    | with_reducible apply Keeps.of_pair (by assumption)
    | with_reducible apply Keeps.of_triple (by assumption)
    | with_reducible apply Keeps.of_pair' (by assumption)
    | with_reducible apply Keeps.ite
    | (intro _ _ _)
    | (intro _ _)
    | intro _
    | simp only [keeps_mk_iff]
    | dsimp only
    | dsimp only [id_eq]
    | split)

theorem keeps_tryEnd {w₀ : Bool} {s₀ u₀ : State} (id : Nat) (hk₀ : Keeps w₀ s₀ u₀) :
    Keeps w₀ s₀ (tryEnd id u₀) := by
  unfold tryEnd
  repeat' (first
    | with_reducible assumption
    | with_reducible apply keeps_commitEnd
    | with_reducible apply keeps_deliverToks
    | with_reducible apply Keeps.ite
    | (intro _ _ _)
    | (intro _ _)
    | intro _
    | simp only [keeps_mk_iff]
    | dsimp only
    | dsimp only [id_eq]
    | split)

theorem keeps_endStreamWith {w₀ : Bool} {s₀ u₀ : State} (id : Nat) (st : Word) (hk₀ : Keeps w₀ s₀ u₀) :
    Keeps w₀ s₀ (endStreamWith id st u₀) := by
  unfold endStreamWith
  repeat' (first
    | with_reducible assumption
    | with_reducible apply keeps_modStream
    | with_reducible apply keeps_tryEnd
    | with_reducible apply Keeps.ite
    | (intro _ _ _)
    | (intro _ _)
    | intro _
    | simp only [keeps_mk_iff]
    | dsimp only
    | dsimp only [id_eq]
    | split)

theorem keeps_endStream {w₀ : Bool} {s₀ u₀ : State} (id : Nat) (code : Nat) (hk₀ : Keeps w₀ s₀ u₀) :
    Keeps w₀ s₀ (endStream id code u₀) := by
  unfold endStream
  repeat' (first
    | with_reducible assumption
    | with_reducible apply keeps_endStreamWith
    | with_reducible apply keeps_withSome
    | (intro _ _ _)
    | (intro _ _)
    | intro _
    | simp only [keeps_mk_iff]
    | dsimp only
    | dsimp only [id_eq]
    | split)

theorem keeps_retryEnds {w₀ : Bool} {s₀ u₀ : State} (hk₀ : Keeps w₀ s₀ u₀) :
    Keeps w₀ s₀ (retryEnds u₀) := by
  unfold retryEnds
  repeat' (first
    | with_reducible assumption
    | with_reducible apply keeps_tryEnd
    | with_reducible apply Keeps.foldl
    | with_reducible apply Keeps.foldl1
    | with_reducible apply Keeps.foldl2
    | with_reducible apply Keeps.foldl22
    | with_reducible apply Keeps.of_pair (by assumption)
    | with_reducible apply Keeps.of_triple (by assumption)
    | with_reducible apply Keeps.of_pair' (by assumption)
    | (intro _ _ _)
    | (intro _ _)
    | intro _
    | dsimp only
    | dsimp only [id_eq]
    | split)

theorem keeps_serveQP {w₀ : Bool} {s₀ u₀ : State} (h : Nat) (q : Nat) (hk₀ : Keeps w₀ s₀ u₀) :
    Keeps w₀ s₀ (serveQP h q u₀) := by
  unfold serveQP
  repeat' (first
    | with_reducible assumption
    | with_reducible apply keeps_deliverToks
    | with_reducible apply keeps_retryEnds
    | with_reducible apply Keeps.foldl
    | with_reducible apply Keeps.foldl1
    | with_reducible apply Keeps.foldl2
    | with_reducible apply Keeps.foldl22
    | with_reducible apply Keeps.of_pair (by assumption)
    | with_reducible apply Keeps.of_triple (by assumption)
    | with_reducible apply Keeps.of_pair' (by assumption)
    | (intro _ _ _)
    | (intro _ _)
    | intro _
    | dsimp only
    | dsimp only [id_eq]
    | split)

theorem keeps_abandonExport {w₀ : Bool} {s₀ u₀ : State} (id : Nat) (hk₀ : Keeps w₀ s₀ u₀) :
    Keeps w₀ s₀ (abandonExport id u₀) := by
  unfold abandonExport
  repeat' (first
    | with_reducible assumption
    | with_reducible apply keeps_modStream
    | with_reducible apply keeps_pagesBack
    | with_reducible apply keeps_setStreamSt
    | with_reducible apply keeps_streamNotice
    | with_reducible apply Keeps.ite
    | (intro _ _ _)
    | (intro _ _)
    | intro _
    | simp only [keeps_mk_iff]
    | dsimp only
    | dsimp only [id_eq]
    | split)

theorem keeps_exportDone {w₀ : Bool} {s₀ u₀ : State} (id : Nat) (hk₀ : Keeps w₀ s₀ u₀) :
    Keeps w₀ s₀ (exportDone id u₀) := by
  unfold exportDone
  repeat' (first
    | with_reducible assumption
    | with_reducible apply keeps_endStream
    | with_reducible apply Keeps.ite
    | (intro _ _ _)
    | (intro _ _)
    | intro _
    | simp only [keeps_mk_iff]
    | dsimp only
    | dsimp only [id_eq]
    | split)

end Sys2Proof.Laws
end

