-- ==== Sys2Proof/Laws/KeepsStreams.lean ====
section
/-!
SUPPORT. What the operations of Machine/Streams.lean keep (see Keeps).
-/

namespace Sys2Proof.Laws

open Sys2Proof.Machine

theorem keeps_onStream {w₀ : Bool} {s₀ u₀ : State} (src : CmdSrc) (op : Nat) (f : HostCmd → Stream → State → State) (h_f : ∀ (x0 : HostCmd) (x1 : Stream) (x2 : State), Keeps w₀ s₀ x2 → Keeps w₀ s₀ (f x0 x1 x2)) (hk₀ : Keeps w₀ s₀ u₀) :
    Keeps w₀ s₀ (onStream src op f u₀) := by
  unfold onStream
  repeat' (first
    | with_reducible assumption
    | with_reducible apply h_f
    | with_reducible apply keeps_refuseAt
    | with_reducible apply keeps_takeCmd
    | with_reducible apply keeps_touch
    | (intro _ _ _)
    | (intro _ _)
    | intro _
    | simp only [keeps_mk_iff]
    | dsimp only
    | dsimp only [id_eq]
    | split)

theorem keeps_refuseStream {w₀ : Bool} {s₀ u₀ : State} (c : HostCmd) (x : Stream) (code : Nat) (hk₀ : Keeps w₀ s₀ u₀) :
    Keeps w₀ s₀ (refuseStream c x code u₀) := by
  unfold refuseStream
  repeat' (first
    | with_reducible assumption
    | with_reducible apply keeps_refuseAt
    | (intro _ _ _)
    | (intro _ _)
    | intro _
    | dsimp only
    | dsimp only [id_eq]
    | split)

theorem keeps_abort {w₀ : Bool} {s₀ u₀ : State} (src : CmdSrc) (hk₀ : Keeps w₀ s₀ u₀) :
    Keeps w₀ s₀ (abort src u₀) := by
  unfold abort
  repeat' (first
    | with_reducible assumption
    | with_reducible apply keeps_abandonExport
    | with_reducible apply keeps_endStream
    | with_reducible apply keeps_modStream
    | with_reducible apply keeps_onStream
    | with_reducible apply keeps_refuseStream
    | (intro _ _ _)
    | (intro _ _)
    | intro _
    | simp only [keeps_mk_iff]
    | dsimp only
    | dsimp only [id_eq]
    | split)

theorem keeps_parkCmd {w₀ : Bool} {s₀ u₀ : State} (src : CmdSrc) (hk₀ : Keeps w₀ s₀ u₀) :
    Keeps w₀ s₀ (parkCmd src u₀) := by
  unfold parkCmd
  repeat' (first
    | with_reducible assumption
    | with_reducible apply keeps_ack
    | with_reducible apply keeps_modStream
    | with_reducible apply keeps_onStream
    | with_reducible apply keeps_refuseStream
    | with_reducible apply Keeps.ite
    | (intro _ _ _)
    | (intro _ _)
    | intro _
    | simp only [keeps_mk_iff]
    | dsimp only
    | dsimp only [id_eq]
    | split)

theorem keeps_resumeCmd {w₀ : Bool} {s₀ u₀ : State} (src : CmdSrc) (hk₀ : Keeps w₀ s₀ u₀) :
    Keeps w₀ s₀ (resumeCmd src u₀) := by
  unfold resumeCmd
  repeat' (first
    | with_reducible assumption
    | with_reducible apply keeps_ack
    | with_reducible apply keeps_modStream
    | with_reducible apply keeps_onStream
    | with_reducible apply keeps_refuseStream
    | with_reducible apply keeps_unpark
    | with_reducible apply Keeps.ite
    | (intro _ _ _)
    | (intro _ _)
    | intro _
    | simp only [keeps_mk_iff]
    | dsimp only
    | dsimp only [id_eq]
    | split)

theorem keeps_exportCmd {w₀ : Bool} {s₀ u₀ : State} (src : CmdSrc) (hk₀ : Keeps w₀ s₀ u₀) :
    Keeps w₀ s₀ (exportCmd src u₀) := by
  unfold exportCmd
  repeat' (first
    | with_reducible assumption
    | with_reducible apply keeps_ack
    | with_reducible apply keeps_onStream
    | with_reducible apply keeps_refuseCmd
    | with_reducible apply keeps_refuseStream
    | with_reducible apply keeps_startExport
    | with_reducible apply Keeps.ite
    | (intro _ _ _)
    | (intro _ _)
    | intro _
    | simp only [keeps_mk_iff]
    | dsimp only
    | dsimp only [id_eq]
    | split)

theorem keeps_query {w₀ : Bool} {s₀ u₀ : State} (src : CmdSrc) (hk₀ : Keeps w₀ s₀ u₀) :
    Keeps w₀ s₀ (query src u₀) := by
  unfold query
  repeat' (first
    | with_reducible assumption
    | with_reducible apply keeps_ack
    | with_reducible apply keeps_chargeBytes
    | with_reducible apply keeps_emit
    | with_reducible apply keeps_onStream
    | with_reducible apply keeps_settleNow
    | (intro _ _ _)
    | (intro _ _)
    | intro _
    | dsimp only
    | dsimp only [id_eq]
    | split)

theorem keeps_listCmd {w₀ : Bool} {s₀ u₀ : State} (src : CmdSrc) (hk₀ : Keeps w₀ s₀ u₀) :
    Keeps w₀ s₀ (listCmd src u₀) := by
  unfold listCmd
  repeat' (first
    | with_reducible assumption
    | with_reducible apply keeps_emit
    | with_reducible apply keeps_respond
    | with_reducible apply keeps_takeCmd
    | with_reducible apply keeps_whenB
    | (intro _ _ _)
    | (intro _ _)
    | intro _
    | dsimp only
    | dsimp only [id_eq]
    | split)

theorem keeps_admitPages {w₀ : Bool} {s₀ u₀ : State} (h : Nat) (k : KvDims) (d : AdmitDesc) (hk₀ : Keeps w₀ s₀ u₀) :
    KeepsSum w₀ s₀ (·.2.2.2) (admitPages h k d u₀) := by
  unfold admitPages
  repeat' (first
    | with_reducible assumption
    | with_reducible apply keepsSum_inl
    | with_reducible apply keepsSum_inr
    | with_reducible apply keeps_takeBuf
    | with_reducible apply keeps_takeMaps
    | with_reducible apply KeepsSum.get3 (by assumption)
    | with_reducible apply Keeps.ite
    | (intro _ _ _)
    | (intro _ _)
    | intro _
    | simp only [keeps_mk_iff]
    | dsimp only
    | dsimp only [id_eq]
    | split)

theorem keeps_refuseAdmit {w₀ : Bool} {s₀ u₀ : State} (c : HostCmd) (d : AdmitDesc) (cls : Nat) (code : Nat) (hk₀ : Keeps w₀ s₀ u₀) :
    Keeps w₀ s₀ (refuseAdmit c d cls code u₀) := by
  unfold refuseAdmit
  repeat' (first
    | with_reducible assumption
    | with_reducible apply keeps_bumpF
    | with_reducible apply keeps_refuseAt
    | with_reducible apply Keeps.ite
    | (intro _ _ _)
    | (intro _ _)
    | intro _
    | dsimp only
    | dsimp only [id_eq]
    | split)

theorem keeps_admitStream {w₀ : Bool} {s₀ u₀ : State} (import_ : Bool) (k : Nat) (bytes : List Byte) (hk₀ : Keeps w₀ s₀ u₀) :
    Keeps w₀ s₀ (admitStream import_ k bytes u₀) := by
  unfold admitStream
  repeat' (first
    | with_reducible assumption
    | with_reducible apply keeps_admitPages
    | with_reducible apply keeps_modChan
    | with_reducible apply keeps_putStream
    | with_reducible apply keeps_refuseAdmit
    | with_reducible apply keeps_refuseCmd
    | with_reducible apply keeps_respond
    | with_reducible apply keeps_setEng
    | with_reducible apply keeps_takeCmd
    | with_reducible apply KeepsSum.get4 (by assumption)
    | with_reducible apply Keeps.ite
    | (intro _ _ _)
    | (intro _ _)
    | intro _
    | simp only [keeps_mk_iff]
    | dsimp only
    | dsimp only [id_eq]
    | split)

theorem keeps_promptStaged {w₀ : Bool} {s₀ u₀ : State} (id : Nat) (toks : List Word) (hk₀ : Keeps w₀ s₀ u₀) :
    Keeps w₀ s₀ (promptStaged id toks u₀) := by
  unfold promptStaged
  repeat' (first
    | with_reducible assumption
    | with_reducible apply keeps_chargeBytes
    | with_reducible apply keeps_modStream
    | with_reducible apply keeps_respond
    | with_reducible apply keeps_setStreamSt
    | with_reducible apply keeps_wrMem
    | with_reducible apply Keeps.ite
    | (intro _ _ _)
    | (intro _ _)
    | intro _
    | simp only [keeps_mk_iff]
    | dsimp only
    | dsimp only [id_eq]
    | split)

theorem keeps_promptFailed {w₀ : Bool} {s₀ u₀ : State} (id : Nat) (hk₀ : Keeps w₀ s₀ u₀) :
    Keeps w₀ s₀ (promptFailed id u₀) := by
  unfold promptFailed
  repeat' (first
    | with_reducible assumption
    | with_reducible apply keeps_freeStream
    | with_reducible apply keeps_refuseCmd
    | with_reducible apply keeps_setEng
    | (intro _ _ _)
    | (intro _ _)
    | intro _
    | simp only [keeps_mk_iff]
    | dsimp only
    | dsimp only [id_eq]
    | split)

theorem keeps_doneHoldExpire {w₀ : Bool} {s₀ u₀ : State} (id : Nat) (hk₀ : Keeps w₀ s₀ u₀) :
    Keeps w₀ s₀ (doneHoldExpire id u₀) := by
  unfold doneHoldExpire
  repeat' (first
    | with_reducible assumption
    | with_reducible apply keeps_setEng
    | with_reducible apply Keeps.ite
    | (intro _ _ _)
    | (intro _ _)
    | intro _
    | simp only [keeps_mk_iff]
    | dsimp only
    | dsimp only [id_eq]
    | split)

theorem keeps_shareResult {w₀ : Bool} {s₀ u₀ : State} (h : Nat) (code : Nat) (hk₀ : Keeps w₀ s₀ u₀) :
    Keeps w₀ s₀ (shareResult h code u₀) := by
  unfold shareResult
  repeat' (first
    | with_reducible assumption
    | with_reducible apply keeps_lastEvt
    | (intro _ _ _)
    | (intro _ _)
    | intro _
    | dsimp only
    | dsimp only [id_eq]
    | split)

theorem keeps_writeShare {w₀ : Bool} {s₀ u₀ : State} (h : Nat) (n : Nat) (w : Word) (hk₀ : Keeps w₀ s₀ u₀) :
    Keeps w₀ s₀ (writeShare h n w u₀) := by
  unfold writeShare
  repeat' (first
    | with_reducible assumption
    | with_reducible apply keeps_setHold
    | with_reducible apply keeps_shareResult
    | (intro _ _ _)
    | (intro _ _)
    | intro _
    | simp only [keeps_mk_iff]
    | dsimp only
    | dsimp only [id_eq]
    | split)

theorem keeps_ledgerDoorbell {w₀ : Bool} {s₀ u₀ : State} (h : Nat) (data : Word) (hk₀ : Keeps w₀ s₀ u₀) :
    Keeps w₀ s₀ (ledgerDoorbell h data u₀) := by
  unfold ledgerDoorbell
  repeat' (first
    | with_reducible assumption
    | with_reducible apply keeps_badDoorbell
    | with_reducible apply keeps_deliverAll
    | with_reducible apply keeps_ideRefuse
    | with_reducible apply keeps_retryEnds
    | with_reducible apply Keeps.ite
    | (intro _ _ _)
    | (intro _ _)
    | intro _
    | simp only [keeps_mk_iff]
    | dsimp only
    | dsimp only [id_eq]
    | split)

end Sys2Proof.Laws
end

