-- ==== Sys2Proof/Laws/KeepsBoundary.lean ====
section
/-!
SUPPORT. What the operations of Machine/Boundary.lean keep (see Keeps).
-/

namespace Sys2Proof.Laws

open Sys2Proof.Machine

theorem keeps_setStepRun {w₀ : Bool} {s₀ u₀ : State} (k : Nat) (r : StepRun) (hk₀ : Keeps w₀ s₀ u₀) :
    Keeps w₀ s₀ (setStepRun k r u₀) := by
  unfold setStepRun
  repeat' (first
    | with_reducible assumption
    | with_reducible apply keeps_setEng
    | (intro _ _ _)
    | (intro _ _)
    | intro _
    | simp only [keeps_mk_iff]
    | dsimp only
    | dsimp only [id_eq]
    | split)

theorem keeps_mendChains {w₀ : Bool} {s₀ u₀ : State} (w : Work) (hk₀ : Keeps w₀ s₀ u₀) :
    Keeps w₀ s₀ (mendChains w u₀) := by
  unfold mendChains
  repeat' (first
    | with_reducible assumption
    | with_reducible apply keeps_setGate
    | with_reducible apply keeps_withSome
    | with_reducible apply Keeps.foldl
    | with_reducible apply Keeps.foldl1
    | with_reducible apply Keeps.foldl2
    | with_reducible apply Keeps.foldl22
    | with_reducible apply Keeps.of_pair (by assumption)
    | with_reducible apply Keeps.of_triple (by assumption)
    | with_reducible apply Keeps.of_pair' (by assumption)
    | (intro _ _ _)
    | (intro _ _)
    | intro _
    | simp only [keeps_mk_iff]
    | dsimp only
    | dsimp only [id_eq]
    | split)

theorem keeps_reissue {w₀ : Bool} {s₀ u₀ : State} (k : Nat) (hk₀ : Keeps w₀ s₀ u₀) :
    Keeps w₀ s₀ (reissue k u₀) := by
  unfold reissue
  repeat' (first
    | with_reducible assumption
    | with_reducible apply keeps_mendChains
    | with_reducible apply keeps_setStepRun
    | (intro _ _ _)
    | (intro _ _)
    | intro _
    | simp only [keeps_mk_iff]
    | dsimp only
    | dsimp only [id_eq]
    | split)

theorem keeps_subtractBudgets {w₀ : Bool} {s₀ u₀ : State} (hk₀ : Keeps w₀ s₀ u₀) :
    Keeps w₀ s₀ (subtractBudgets u₀) := by
  unfold subtractBudgets
  repeat' (first
    | with_reducible assumption
    | with_reducible apply keeps_setHold
    | with_reducible apply keeps_setTally
    | with_reducible apply Keeps.foldl
    | with_reducible apply Keeps.foldl1
    | with_reducible apply Keeps.foldl2
    | with_reducible apply Keeps.foldl22
    | with_reducible apply Keeps.of_pair (by assumption)
    | with_reducible apply Keeps.of_triple (by assumption)
    | with_reducible apply Keeps.of_pair' (by assumption)
    | (intro _ _ _)
    | (intro _ _)
    | intro _
    | simp only [keeps_mk_iff]
    | dsimp only
    | dsimp only [id_eq]
    | split)

theorem keeps_markLost {w₀ : Bool} {s₀ u₀ : State} (id : Nat) (hk₀ : Keeps w₀ s₀ u₀) :
    Keeps w₀ s₀ (markLost id u₀) := by
  unfold markLost
  repeat' (first
    | with_reducible assumption
    | with_reducible apply keeps_logEvent
    | with_reducible apply keeps_putStream
    | with_reducible apply keeps_withSome
    | with_reducible apply Keeps.ite
    | (intro _ _ _)
    | (intro _ _)
    | intro _
    | simp only [keeps_mk_iff]
    | dsimp only
    | dsimp only [id_eq]
    | split)

theorem keeps_parkDueStream {w₀ : Bool} {s₀ u₀ : State} (k : Nat) (x : Stream) (hk₀ : Keeps w₀ s₀ u₀) :
    Keeps w₀ s₀ (parkDueStream k x u₀) := by
  unfold parkDueStream
  repeat' (first
    | with_reducible assumption
    | with_reducible apply keeps_markLost
    | with_reducible apply keeps_parkStream
    | with_reducible apply Keeps.foldl
    | with_reducible apply Keeps.foldl1
    | with_reducible apply Keeps.foldl2
    | with_reducible apply Keeps.foldl22
    | with_reducible apply Keeps.of_pair (by assumption)
    | with_reducible apply Keeps.of_triple (by assumption)
    | with_reducible apply Keeps.of_pair' (by assumption)
    | with_reducible apply Keeps.ite
    | (intro _ _ _)
    | (intro _ _)
    | intro _
    | dsimp only
    | dsimp only [id_eq]
    | split)

theorem keeps_applyParks {w₀ : Bool} {s₀ u₀ : State} (k : Nat) (mine : Stream → Bool) (hk₀ : Keeps w₀ s₀ u₀) :
    Keeps w₀ s₀ (applyParks k mine u₀) := by
  unfold applyParks
  repeat' (first
    | with_reducible assumption
    | with_reducible apply keeps_parkDueStream
    | with_reducible apply Keeps.foldl
    | with_reducible apply Keeps.foldl1
    | with_reducible apply Keeps.foldl2
    | with_reducible apply Keeps.foldl22
    | with_reducible apply Keeps.of_pair (by assumption)
    | with_reducible apply Keeps.of_triple (by assumption)
    | with_reducible apply Keeps.of_pair' (by assumption)
    | (intro _ _ _)
    | (intro _ _)
    | intro _
    | dsimp only
    | dsimp only [id_eq]
    | split)

theorem keeps_autoResumes {w₀ : Bool} {s₀ u₀ : State} (hk₀ : Keeps w₀ s₀ u₀) :
    Keeps w₀ s₀ (autoResumes u₀) := by
  unfold autoResumes
  repeat' (first
    | with_reducible assumption
    | with_reducible apply keeps_endCause
    | with_reducible apply Keeps.foldl
    | with_reducible apply Keeps.foldl1
    | with_reducible apply Keeps.foldl2
    | with_reducible apply Keeps.foldl22
    | with_reducible apply Keeps.of_pair (by assumption)
    | with_reducible apply Keeps.of_triple (by assumption)
    | with_reducible apply Keeps.of_pair' (by assumption)
    | with_reducible apply Keeps.ite
    | (intro _ _ _)
    | (intro _ _)
    | intro _
    | dsimp only
    | dsimp only [id_eq]
    | split)

theorem keeps_boundaryActions {w₀ : Bool} {s₀ u₀ : State} (w : Work) (hk₀ : Keeps w₀ s₀ u₀) :
    Keeps w₀ s₀ (boundaryActions w u₀) := by
  unfold boundaryActions
  repeat' (first
    | with_reducible assumption
    | with_reducible apply keeps_mendChains
    | with_reducible apply keeps_readyCheck
    | with_reducible apply keeps_retireBoundary
    | with_reducible apply keeps_siphonBoundary
    | with_reducible apply Keeps.foldl
    | with_reducible apply Keeps.foldl1
    | with_reducible apply Keeps.foldl2
    | with_reducible apply Keeps.foldl22
    | with_reducible apply Keeps.of_pair (by assumption)
    | with_reducible apply Keeps.of_triple (by assumption)
    | with_reducible apply Keeps.of_pair' (by assumption)
    | (intro _ _ _)
    | (intro _ _)
    | intro _
    | dsimp only
    | dsimp only [id_eq]
    | split)

theorem keeps_roleStep {w₀ : Bool} {s₀ u₀ : State} (hk₀ : Keeps w₀ s₀ u₀) :
    Keeps w₀ s₀ (roleStep u₀) := by
  unfold roleStep
  repeat' (first
    | with_reducible assumption
    | with_reducible apply keeps_setF
    | with_reducible apply Keeps.ite
    | (intro _ _ _)
    | (intro _ _)
    | intro _
    | dsimp only
    | dsimp only [id_eq]
    | split)

theorem keeps_preWake {w₀ : Bool} {s₀ u₀ : State} (ids : List Nat) (hk₀ : Keeps w₀ s₀ u₀) :
    Keeps w₀ s₀ (preWake ids u₀) := by
  unfold preWake
  repeat' (first
    | with_reducible assumption
    | with_reducible apply keeps_startWake
    | with_reducible apply Keeps.foldl
    | with_reducible apply Keeps.foldl1
    | with_reducible apply Keeps.foldl2
    | with_reducible apply Keeps.foldl22
    | with_reducible apply Keeps.of_pair (by assumption)
    | with_reducible apply Keeps.of_triple (by assumption)
    | with_reducible apply Keeps.of_pair' (by assumption)
    | with_reducible apply Keeps.ite
    | (intro _ _ _)
    | (intro _ _)
    | intro _
    | dsimp only
    | dsimp only [id_eq]
    | split)

theorem keeps_issueStep {w₀ : Bool} {s₀ u₀ : State} (k : Nat) (ids : List Nat) (hk₀ : Keeps w₀ s₀ u₀) :
    Keeps w₀ s₀ (issueStep k ids u₀) := by
  unfold issueStep
  repeat' (first
    | with_reducible assumption
    | with_reducible apply keeps_preWake
    | with_reducible apply keeps_setEng
    | with_reducible apply keeps_setStepRun
    | with_reducible apply Keeps.ite
    | (intro _ _ _)
    | (intro _ _)
    | intro _
    | simp only [keeps_mk_iff]
    | dsimp only
    | dsimp only [id_eq]
    | split)

theorem keeps_takeToken {w₀ : Bool} {s₀ u₀ : State} (id : Nat) (tok : Nat) (hk₀ : Keeps w₀ s₀ u₀) :
    Keeps w₀ s₀ (takeToken id tok u₀) := by
  unfold takeToken
  repeat' (first
    | with_reducible assumption
    | with_reducible apply keeps_deliverToks
    | with_reducible apply keeps_endStream
    | with_reducible apply keeps_putStream
    | with_reducible apply Keeps.ite
    | (intro _ _ _)
    | (intro _ _)
    | intro _
    | simp only [keeps_mk_iff]
    | dsimp only
    | dsimp only [id_eq]
    | split)

theorem keeps_fillSlots {w₀ : Bool} {s₀ u₀ : State} (m : Nat) (hk₀ : Keeps w₀ s₀ u₀) :
    Keeps w₀ s₀ (fillSlots m u₀) := by
  unfold fillSlots
  repeat' (first
    | with_reducible assumption
    | with_reducible apply keeps_modStream
    | with_reducible apply keeps_parkStream
    | with_reducible apply keeps_reservePositions
    | with_reducible apply keeps_setStreamSt
    | with_reducible apply KeepsOpt.get (by assumption)
    | with_reducible apply Keeps.foldl
    | with_reducible apply Keeps.foldl1
    | with_reducible apply Keeps.foldl2
    | with_reducible apply Keeps.foldl22
    | with_reducible apply Keeps.of_pair (by assumption)
    | with_reducible apply Keeps.of_triple (by assumption)
    | with_reducible apply Keeps.of_pair' (by assumption)
    | with_reducible apply Keeps.ite
    | (intro _ _ _)
    | (intro _ _)
    | intro _
    | simp only [keeps_mk_iff]
    | dsimp only
    | dsimp only [id_eq]
    | split)

theorem keeps_reserveStep {w₀ : Bool} {s₀ u₀ : State} (m : Nat) (hk₀ : Keeps w₀ s₀ u₀) :
    Keeps w₀ s₀ (reserveStep m u₀) := by
  unfold reserveStep
  repeat' (first
    | with_reducible assumption
    | with_reducible apply keeps_parkStream
    | with_reducible apply keeps_reservePositions
    | with_reducible apply KeepsOpt.get (by assumption)
    | with_reducible apply Keeps.foldl
    | with_reducible apply Keeps.foldl1
    | with_reducible apply Keeps.foldl2
    | with_reducible apply Keeps.foldl22
    | with_reducible apply Keeps.of_pair (by assumption)
    | with_reducible apply Keeps.of_triple (by assumption)
    | with_reducible apply Keeps.of_pair' (by assumption)
    | (intro _ _ _)
    | (intro _ _)
    | intro _
    | simp only [keeps_mk_iff]
    | dsimp only
    | dsimp only [id_eq]
    | split)

theorem keeps_stepBoundary {w₀ : Bool} {s₀ u₀ : State} (m : Nat) (hk₀ : Keeps w₀ s₀ u₀) :
    Keeps w₀ s₀ (stepBoundary m u₀) := by
  unfold stepBoundary
  repeat' (first
    | with_reducible assumption
    | with_reducible apply keeps_applyParks
    | with_reducible apply keeps_autoResumes
    | with_reducible apply keeps_boundaryActions
    | with_reducible apply keeps_endStream
    | with_reducible apply keeps_fillSlots
    | with_reducible apply keeps_issueStep
    | with_reducible apply keeps_reissue
    | with_reducible apply keeps_reserveStep
    | with_reducible apply keeps_retryEnds
    | with_reducible apply keeps_roleStep
    | with_reducible apply keeps_subtractBudgets
    | with_reducible apply keeps_takeToken
    | with_reducible apply Keeps.foldl
    | with_reducible apply Keeps.foldl1
    | with_reducible apply Keeps.foldl2
    | with_reducible apply Keeps.foldl22
    | with_reducible apply Keeps.of_pair (by assumption)
    | with_reducible apply Keeps.of_triple (by assumption)
    | with_reducible apply Keeps.of_pair' (by assumption)
    | with_reducible apply Keeps.ite
    | (intro _ _ _)
    | (intro _ _)
    | intro _
    | simp only [keeps_mk_iff]
    | dsimp only
    | dsimp only [id_eq]
    | split)

theorem keeps_finishPrompt {w₀ : Bool} {s₀ u₀ : State} (id : Nat) (r : StepRun) (hk₀ : Keeps w₀ s₀ u₀) :
    Keeps w₀ s₀ (finishPrompt id r u₀) := by
  unfold finishPrompt
  repeat' (first
    | with_reducible assumption
    | with_reducible apply keeps_deliverToks
    | with_reducible apply keeps_endStream
    | with_reducible apply keeps_modStream
    | with_reducible apply keeps_putStream
    | with_reducible apply keeps_setStreamSt
    | with_reducible apply keeps_startExport
    | with_reducible apply Keeps.ite
    | (intro _ _ _)
    | (intro _ _)
    | intro _
    | simp only [keeps_mk_iff]
    | dsimp only
    | dsimp only [id_eq]
    | split)

theorem keeps_takeChunk {w₀ : Bool} {s₀ u₀ : State} (id : Nat) (r : StepRun) (hk₀ : Keeps w₀ s₀ u₀) :
    Keeps w₀ s₀ (takeChunk id r u₀) := by
  unfold takeChunk
  repeat' (first
    | with_reducible assumption
    | with_reducible apply keeps_finishPrompt
    | with_reducible apply keeps_modStream
    | with_reducible apply keeps_settleNow
    | with_reducible apply Keeps.ite
    | (intro _ _ _)
    | (intro _ _)
    | intro _
    | simp only [keeps_mk_iff]
    | dsimp only
    | dsimp only [id_eq]
    | split)

theorem keeps_joinSweep {w₀ : Bool} {s₀ : State} (a : List Nat × Nat × State) (x : Machine.Stream) (hk₀ : Keeps w₀ s₀ a.2.2) :
    Keeps w₀ s₀ (joinSweep a x).2.2 := by
  obtain ⟨ids, room, s⟩ := a
  unfold joinSweep
  dsimp only
  generalize (decide (room = 0) || decide (chunkOf x room = 0) || _) = b
  cases b
  · rw [if_neg (by decide)]
    repeat' (first
      | assumption
      | with_reducible apply keeps_parkStream
      | with_reducible apply keeps_modStream
      | with_reducible apply keeps_setStreamSt
      | with_reducible apply keeps_settleNow
      | with_reducible apply KeepsOpt.get (by assumption)
      | with_reducible apply keeps_reservePositions
      | with_reducible apply Keeps.ite
      | intro _
      | dsimp only
      | split)
  · exact hk₀

theorem keeps_fixSweep {w₀ : Bool} {s₀ u₀ : State} (hk₀ : Keeps w₀ s₀ u₀) :
    Keeps w₀ s₀ (fixSweep u₀).2 := by
  unfold fixSweep
  repeat' (first
    | with_reducible assumption
    | with_reducible apply keeps_joinSweep
    | with_reducible apply Keeps.of_triple (by assumption)
    | with_reducible apply Keeps.foldl
    | with_reducible apply Keeps.foldl1
    | with_reducible apply Keeps.foldl2
    | with_reducible apply Keeps.foldl22
    | with_reducible apply Keeps.of_pair (by assumption)
    | with_reducible apply Keeps.of_pair' (by assumption)
    | with_reducible apply Keeps.ite
    | (intro _ _ _)
    | (intro _ _)
    | intro _
    | dsimp only
    | dsimp only [id_eq]
    | split)

theorem keeps_sweepBoundary {w₀ : Bool} {s₀ u₀ : State} (hk₀ : Keeps w₀ s₀ u₀) :
    Keeps w₀ s₀ (sweepBoundary u₀) := by
  unfold sweepBoundary
  repeat' (first
    | with_reducible assumption
    | with_reducible apply keeps_applyParks
    | with_reducible apply keeps_autoResumes
    | with_reducible apply keeps_boundaryActions
    | with_reducible apply keeps_endStream
    | with_reducible apply keeps_fixSweep
    | with_reducible apply keeps_issueStep
    | with_reducible apply keeps_reissue
    | with_reducible apply keeps_retryEnds
    | with_reducible apply keeps_roleStep
    | with_reducible apply keeps_subtractBudgets
    | with_reducible apply keeps_takeChunk
    | with_reducible apply Keeps.of_pair (by assumption)
    | with_reducible apply Keeps.foldl
    | with_reducible apply Keeps.foldl1
    | with_reducible apply Keeps.foldl2
    | with_reducible apply Keeps.foldl22
    | with_reducible apply Keeps.of_triple (by assumption)
    | with_reducible apply Keeps.of_pair' (by assumption)
    | with_reducible apply Keeps.ite
    | (intro _ _ _)
    | (intro _ _)
    | intro _
    | dsimp only
    | dsimp only [id_eq]
    | split)

theorem keeps_roleRequest {w₀ : Bool} {s₀ u₀ : State} (data : Word) (hk₀ : Keeps w₀ s₀ u₀) :
    Keeps w₀ s₀ (roleRequest data u₀) := by
  unfold roleRequest
  repeat' (first
    | with_reducible assumption
    | with_reducible apply keeps_refreshClosed
    | with_reducible apply keeps_roleStep
    | with_reducible apply keeps_setEng
    | with_reducible apply keeps_setF
    | with_reducible apply Keeps.ite
    | (intro _ _ _)
    | (intro _ _)
    | intro _
    | simp only [keeps_mk_iff]
    | dsimp only
    | dsimp only [id_eq]
    | split)

theorem keeps_roleSwitch {w₀ : Bool} {s₀ u₀ : State} (hk₀ : Keeps w₀ s₀ u₀) :
    Keeps w₀ s₀ (roleSwitch u₀) := by
  unfold roleSwitch
  repeat' (first
    | with_reducible assumption
    | with_reducible apply keeps_irqRaise
    | with_reducible apply keeps_refreshClosed
    | with_reducible apply keeps_setEng
    | with_reducible apply keeps_setF
    | with_reducible apply Keeps.ite
    | (intro _ _ _)
    | (intro _ _)
    | intro _
    | simp only [keeps_mk_iff]
    | dsimp only
    | dsimp only [id_eq]
    | split)

end Sys2Proof.Laws
end

