-- ==== Sys2Proof/Laws/KeepsAttend.lean ====
section
/-!
SUPPORT. What the operations of Machine/Attend.lean keep (see Keeps).
-/

namespace Sys2Proof.Laws

open Sys2Proof.Machine

theorem keeps_rescale {w₀ : Bool} {s₀ u₀ : State} (frame : Nat) (d : Nat) (n : Nat) (v : Bool) (sc : Word) (sc' : Word) (hk₀ : Keeps w₀ s₀ u₀) :
    Keeps w₀ s₀ (rescale frame d n v sc sc' u₀) := by
  unfold rescale
  repeat' (first
    | with_reducible assumption
    | with_reducible apply keeps_wrByte
    | with_reducible apply Keeps.foldl
    | with_reducible apply Keeps.foldl1
    | with_reducible apply Keeps.foldl2
    | with_reducible apply Keeps.foldl22
    | with_reducible apply Keeps.of_pair (by assumption)
    | with_reducible apply Keeps.of_triple (by assumption)
    | with_reducible apply Keeps.of_pair' (by assumption)
    | (intro _ _ _)
    | (intro _ _)
    | intro _
    | dsimp only
    | dsimp only [id_eq]
    | split)

theorem keeps_putVecs {w₀ : Bool} {s₀ u₀ : State} (frame : Nat) (d : Nat) (t : Nat) (v : Bool) (sc : Word) (vs : List (List Word)) (hk₀ : Keeps w₀ s₀ u₀) :
    Keeps w₀ s₀ (putVecs frame d t v sc vs u₀) := by
  unfold putVecs
  repeat' (first
    | with_reducible assumption
    | with_reducible apply keeps_wrByte
    | with_reducible apply Keeps.foldl
    | with_reducible apply Keeps.foldl1
    | with_reducible apply Keeps.foldl2
    | with_reducible apply Keeps.foldl22
    | with_reducible apply Keeps.of_pair (by assumption)
    | with_reducible apply Keeps.of_triple (by assumption)
    | with_reducible apply Keeps.of_pair' (by assumption)
    | (intro _ _ _)
    | (intro _ _)
    | intro _
    | dsimp only
    | dsimp only [id_eq]
    | split)

theorem keeps_appendBlock {w₀ : Bool} {s₀ u₀ : State} (frame : Nat) (d : Nat) (t : Nat) (v : Bool) (sc : Word) (h : Word) (vs : List (List Word)) (hk₀ : Keeps w₀ s₀ u₀) :
    Keeps w₀ s₀ (appendBlock frame d t v sc h vs u₀).2.2 := by
  unfold appendBlock
  repeat' (first
    | with_reducible assumption
    | with_reducible apply keeps_putVecs
    | with_reducible apply keeps_rescale
    | with_reducible apply Keeps.ite
    | (intro _ _ _)
    | (intro _ _)
    | intro _
    | dsimp only
    | dsimp only [id_eq]
    | split)

theorem keeps_appendPage {w₀ : Bool} {s₀ u₀ : State} (die : Nat) (owner : Nat) (id : Nat) (d : Nat) (ent : Nat) (t : Nat) (h : Word) (ks : List (List Word)) (vs : List (List Word)) (hk₀ : Keeps w₀ s₀ u₀) :
    KeepsOpt w₀ s₀ (appendPage die owner id d ent t h ks vs u₀) := by
  unfold appendPage
  repeat' (first
    | with_reducible assumption
    | with_reducible apply keepsOpt_none
    | with_reducible apply keepsOpt_some
    | with_reducible apply KeepsOpt.bind
    | with_reducible apply KeepsOpt.foldl
    | with_reducible apply keepsOpt_map2
    | with_reducible apply keepsOpt_map
    | with_reducible apply keeps_appendBlock
    | with_reducible apply keeps_bumpF
    | with_reducible apply keeps_bumpPair
    | with_reducible apply keeps_reserveEntry
    | with_reducible apply keeps_wrEnt
    | with_reducible apply Keeps.of_triple (by assumption)
    | with_reducible apply KeepsOpt.get (by assumption)
    | with_reducible apply Keeps.ite
    | (intro _ _ _)
    | (intro _ _)
    | intro _
    | simp only [keeps_mk_iff]
    | dsimp only
    | dsimp only [id_eq]
    | split)

theorem keeps_appendSeg {w₀ : Bool} {s₀ u₀ : State} (die : Nat) (owner : Nat) (d : Nat) (pmax : Nat) (src : Nat) (h : Word) (g : Seg) (hk₀ : Keeps w₀ s₀ u₀) :
    KeepsOpt w₀ s₀ (appendSeg die owner d pmax src h g u₀) := by
  unfold appendSeg
  repeat' (first
    | with_reducible assumption
    | with_reducible apply keepsOpt_none
    | with_reducible apply keepsOpt_some
    | with_reducible apply KeepsOpt.bind
    | with_reducible apply KeepsOpt.foldl
    | with_reducible apply keepsOpt_map2
    | with_reducible apply keepsOpt_map
    | with_reducible apply keeps_appendPage
    | with_reducible apply KeepsOpt.get (by assumption)
    | with_reducible apply Keeps.foldl
    | with_reducible apply Keeps.foldl1
    | with_reducible apply Keeps.foldl2
    | with_reducible apply Keeps.foldl22
    | with_reducible apply Keeps.of_pair (by assumption)
    | with_reducible apply Keeps.of_triple (by assumption)
    | with_reducible apply Keeps.of_pair' (by assumption)
    | with_reducible apply Keeps.ite
    | (intro _ _ _)
    | (intro _ _)
    | intro _
    | dsimp only
    | dsimp only [id_eq]
    | split)

theorem keeps_writeOut {w₀ : Bool} {s₀ u₀ : State} (desc : List Byte) (d : Nat) (n : Nat) (y : Nat) (r : Nat) (vs : List Word) (hk₀ : Keeps w₀ s₀ u₀) :
    Keeps w₀ s₀ (writeOut desc d n y r vs u₀) := by
  unfold writeOut
  repeat' (first
    | with_reducible assumption
    | with_reducible apply keeps_clearPoison
    | with_reducible apply keeps_wrLE
    | with_reducible apply keeps_wrMem
    | with_reducible apply keeps_wrVec
    | with_reducible apply Keeps.ite
    | (intro _ _ _)
    | (intro _ _)
    | intro _
    | dsimp only
    | dsimp only [id_eq]
    | split)

theorem keeps_writePartial {w₀ : Bool} {s₀ u₀ : State} (d : Nat) (y : Nat) (r : Nat) (st : RowState) (hk₀ : Keeps w₀ s₀ u₀) :
    Keeps w₀ s₀ (writePartial d y r st u₀) := by
  unfold writePartial
  repeat' (first
    | with_reducible assumption
    | with_reducible apply keeps_wrMem
    | (intro _ _ _)
    | (intro _ _)
    | intro _
    | dsimp only
    | dsimp only [id_eq]
    | split)

theorem keeps_frameTraffic {w₀ : Bool} {s₀ u₀ : State} (die : Nat) (d : Nat) (g : Nat) (frames : List Nat) (hk₀ : Keeps w₀ s₀ u₀) :
    Keeps w₀ s₀ (frameTraffic die d g frames u₀) := by
  unfold frameTraffic
  repeat' (first
    | with_reducible assumption
    | with_reducible apply keeps_modRun
    | with_reducible apply keeps_traffic
    | with_reducible apply Keeps.of_pair (by assumption)
    | with_reducible apply Keeps.foldl
    | with_reducible apply Keeps.foldl1
    | with_reducible apply Keeps.foldl2
    | with_reducible apply Keeps.foldl22
    | with_reducible apply Keeps.of_triple (by assumption)
    | with_reducible apply Keeps.of_pair' (by assumption)
    | (intro _ _ _)
    | (intro _ _)
    | intro _
    | simp only [keeps_mk_iff]
    | dsimp only
    | dsimp only [id_eq]
    | split)

theorem keeps_attendTile {w₀ : Bool} {s₀ u₀ : State} (g : Nat) (c : CourseRun) (a2 : Nat) (hk₀ : Keeps w₀ s₀ u₀) :
    KeepsTile w₀ s₀ (attendTile g c a2 u₀) := by
  unfold attendTile
  repeat' (first
    | with_reducible assumption
    | with_reducible apply keepsTile_wait
    | with_reducible apply keepsTile_done
    | with_reducible apply keepsTile_fault
    | with_reducible apply keepsTile_ite
    | with_reducible apply keepsOpt_some
    | with_reducible apply KeepsOpt.bind
    | with_reducible apply KeepsOpt.foldl
    | with_reducible apply keeps_appendSeg
    | with_reducible apply keeps_chargeTile
    | with_reducible apply keeps_frameTraffic
    | with_reducible apply keeps_kvcEvent
    | with_reducible apply keeps_modRun
    | with_reducible apply keeps_tileDrained
    | with_reducible apply keeps_tileFilled
    | with_reducible apply keeps_writeOut
    | with_reducible apply keeps_writePartial
    | with_reducible apply keepsOpt2_findSome
    | with_reducible apply KeepsOpt.get (by assumption)
    | with_reducible apply KeepsTile.done (by assumption)
    | with_reducible apply KeepsTile.fault (by assumption)
    | with_reducible apply Keeps.foldl
    | with_reducible apply Keeps.foldl1
    | with_reducible apply Keeps.foldl2
    | with_reducible apply Keeps.foldl22
    | with_reducible apply Keeps.of_pair (by assumption)
    | with_reducible apply Keeps.of_triple (by assumption)
    | with_reducible apply Keeps.of_pair' (by assumption)
    | with_reducible apply Keeps.ite
    | (intro _ _ _)
    | (intro _ _)
    | intro _
    | simp only [keeps_mk_iff]
    | dsimp only
    | dsimp only [id_eq]
    | split)

theorem keeps_mergeTile {w₀ : Bool} {s₀ u₀ : State} (g : Nat) (c : CourseRun) (a2 : Nat) (hk₀ : Keeps w₀ s₀ u₀) :
    KeepsTile w₀ s₀ (mergeTile g c a2 u₀) := by
  unfold mergeTile
  repeat' (first
    | with_reducible assumption
    | with_reducible apply keepsTile_wait
    | with_reducible apply keepsTile_done
    | with_reducible apply keepsTile_fault
    | with_reducible apply keepsTile_ite
    | with_reducible apply keeps_chargeTile
    | with_reducible apply keeps_gateDrain
    | with_reducible apply keeps_tileFilled
    | with_reducible apply keeps_writeOut
    | with_reducible apply keepsOpt2_findSome
    | with_reducible apply KeepsTile.done (by assumption)
    | with_reducible apply KeepsTile.fault (by assumption)
    | with_reducible apply Keeps.foldl
    | with_reducible apply Keeps.foldl1
    | with_reducible apply Keeps.foldl2
    | with_reducible apply Keeps.foldl22
    | with_reducible apply Keeps.of_pair (by assumption)
    | with_reducible apply Keeps.of_triple (by assumption)
    | with_reducible apply Keeps.of_pair' (by assumption)
    | with_reducible apply Keeps.ite
    | (intro _ _ _)
    | (intro _ _)
    | intro _
    | simp only [keeps_mk_iff]
    | dsimp only
    | dsimp only [id_eq]
    | split)

theorem keeps_fillTable {w₀ : Bool} {s₀ u₀ : State} (iss : Issue) (table : List Byte) (hk₀ : Keeps w₀ s₀ u₀) :
    Keeps w₀ s₀ (fillTable iss table u₀) := by
  unfold fillTable
  repeat' (first
    | with_reducible assumption
    | with_reducible apply keeps_wrMem
    | with_reducible apply Keeps.ite
    | (intro _ _ _)
    | (intro _ _)
    | intro _
    | simp only [keeps_mk_iff]
    | dsimp only
    | dsimp only [id_eq]
    | split)

theorem keeps_attendCourse {w₀ : Bool} {s₀ u₀ : State} (iss : Issue) (table : List Byte) (hk₀ : Keeps w₀ s₀ u₀) :
    Keeps w₀ s₀ (attendCourse iss table u₀) := by
  unfold attendCourse
  repeat' (first
    | with_reducible assumption
    | with_reducible apply keeps_noLast
    | with_reducible apply keeps_attendTile
    | with_reducible apply keeps_countIssue
    | with_reducible apply keeps_fillTable
    | with_reducible apply keeps_laneCourse
    | with_reducible apply keeps_refuseUnknown
    | with_reducible apply KeepsTile.done (by assumption)
    | with_reducible apply KeepsTile.fault (by assumption)
    | with_reducible apply Keeps.ite
    | (intro _ _ _)
    | (intro _ _)
    | intro _
    | simp only [keeps_mk_iff]
    | dsimp only
    | dsimp only [id_eq]
    | dsimp only [oneTile]
    | split)

theorem keeps_attendMerge {w₀ : Bool} {s₀ u₀ : State} (iss : Issue) (hk₀ : Keeps w₀ s₀ u₀) :
    Keeps w₀ s₀ (attendMerge iss u₀) := by
  unfold attendMerge
  repeat' (first
    | with_reducible assumption
    | with_reducible apply keeps_noLast
    | with_reducible apply keeps_countIssue
    | with_reducible apply keeps_laneCourse
    | with_reducible apply keeps_mergeTile
    | with_reducible apply keeps_refuseUnknown
    | with_reducible apply KeepsTile.done (by assumption)
    | with_reducible apply KeepsTile.fault (by assumption)
    | (intro _ _ _)
    | (intro _ _)
    | intro _
    | simp only [keeps_mk_iff]
    | dsimp only
    | dsimp only [id_eq]
    | dsimp only [oneTile]
    | split)

end Sys2Proof.Laws
end

