-- ==== Sys2Proof/Laws/KeepsSample.lean ====
section
/-!
SUPPORT. What the operations of Machine/Sample.lean keep (see Keeps).
-/

namespace Sys2Proof.Laws

open Sys2Proof.Machine

theorem keeps_fillRowRecs {w₀ : Bool} {s₀ u₀ : State} (iss : Issue) (rows : List Nat) (hk₀ : Keeps w₀ s₀ u₀) :
    Keeps w₀ s₀ (fillRowRecs iss rows u₀) := by
  unfold fillRowRecs
  repeat' (first
    | with_reducible assumption
    | with_reducible apply keeps_wrMem
    | with_reducible apply Keeps.foldl
    | with_reducible apply Keeps.foldl1
    | with_reducible apply Keeps.foldl2
    | with_reducible apply Keeps.foldl22
    | with_reducible apply Keeps.of_pair (by assumption)
    | with_reducible apply Keeps.of_triple (by assumption)
    | with_reducible apply Keeps.of_pair' (by assumption)
    | with_reducible apply Keeps.ite
    | (intro _ _ _)
    | (intro _ _)
    | intro _
    | simp only [keeps_mk_iff]
    | dsimp only
    | dsimp only [id_eq]
    | split)

theorem keeps_noteToken {w₀ : Bool} {s₀ u₀ : State} (w : Work) (id : Nat) (tok : Nat) (hk₀ : Keeps w₀ s₀ u₀) :
    Keeps w₀ s₀ (noteToken w id tok u₀) := by
  unfold noteToken
  repeat' (first
    | with_reducible assumption
    | with_reducible apply keeps_setStepRun
    | with_reducible apply Keeps.ite
    | (intro _ _ _)
    | (intro _ _)
    | intro _
    | simp only [keeps_mk_iff]
    | dsimp only
    | dsimp only [id_eq]
    | split)

theorem keeps_stepSampleTile {w₀ : Bool} {s₀ u₀ : State} (rows : List Nat) (g : Nat) (c : CourseRun) (n : Nat) (hk₀ : Keeps w₀ s₀ u₀) :
    KeepsTile w₀ s₀ (stepSampleTile rows g c n u₀) := by
  unfold stepSampleTile
  repeat' (first
    | with_reducible assumption
    | with_reducible apply keepsTile_wait
    | with_reducible apply keepsTile_done
    | with_reducible apply keepsTile_fault
    | with_reducible apply keepsTile_ite
    | with_reducible apply keeps_noteToken
    | with_reducible apply keeps_sampleTile
    | with_reducible apply KeepsTile.done (by assumption)
    | with_reducible apply KeepsTile.fault (by assumption)
    | (intro _ _ _)
    | (intro _ _)
    | intro _
    | simp only [keeps_mk_iff]
    | dsimp only
    | dsimp only [id_eq]
    | split)

theorem keeps_sampling {w₀ : Bool} {s₀ u₀ : State} (iss : Issue) (rows : List Nat) (hk₀ : Keeps w₀ s₀ u₀) :
    Keeps w₀ s₀ (sampling iss rows u₀) := by
  unfold sampling
  repeat' (first
    | with_reducible assumption
    | with_reducible apply keeps_noLast
    | with_reducible apply keeps_fillRowRecs
    | with_reducible apply keeps_stepSampleTile
    | with_reducible apply keeps_vecCourse
    | with_reducible apply KeepsTile.done (by assumption)
    | with_reducible apply KeepsTile.fault (by assumption)
    | (intro _ _ _)
    | (intro _ _)
    | intro _
    | dsimp only
    | dsimp only [id_eq]
    | dsimp only [walkOf]
    | split)

end Sys2Proof.Laws
end

