-- ==== Sys2Proof/Laws/KeepsKvMove.lean ====
section
/-!
SUPPORT. What the operations of Machine/KvMove.lean keep (see Keeps).
-/

namespace Sys2Proof.Laws

open Sys2Proof.Machine

theorem keeps_dropBytes {w₀ : Bool} {s₀ u₀ : State} (k : Nat) (n : Nat) (hk₀ : Keeps w₀ s₀ u₀) :
    Keeps w₀ s₀ (dropBytes k n u₀) := by
  unfold dropBytes
  repeat' (first
    | with_reducible assumption
    | with_reducible apply keeps_modChan
    | (intro _ _ _)
    | (intro _ _)
    | intro _
    | simp only [keeps_mk_iff]
    | dsimp only
    | dsimp only [id_eq]
    | split)

theorem keeps_endTransfer {w₀ : Bool} {s₀ u₀ : State} (k : Nat) (hk₀ : Keeps w₀ s₀ u₀) :
    Keeps w₀ s₀ (endTransfer k u₀) := by
  unfold endTransfer
  repeat' (first
    | with_reducible assumption
    | with_reducible apply keeps_modChan
    | with_reducible apply keeps_sendAck
    | (intro _ _ _)
    | (intro _ _)
    | intro _
    | simp only [keeps_mk_iff]
    | dsimp only
    | dsimp only [id_eq]
    | split)

theorem keeps_refuseImport {w₀ : Bool} {s₀ u₀ : State} (id : Nat) (die : Nat) (cause : Nat) (hk₀ : Keeps w₀ s₀ u₀) :
    Keeps w₀ s₀ (refuseImport id die cause u₀) := by
  unfold refuseImport
  repeat' (first
    | with_reducible assumption
    | with_reducible apply keeps_endStreamWith
    | with_reducible apply keeps_endTransfer
    | with_reducible apply keeps_kvcEvent
    | with_reducible apply keeps_logStatus
    | (intro _ _ _)
    | (intro _ _)
    | intro _
    | simp only [keeps_mk_iff]
    | dsimp only
    | dsimp only [id_eq]
    | split)

theorem keeps_importDone {w₀ : Bool} {s₀ u₀ : State} (id : Nat) (k : Nat) (hk₀ : Keeps w₀ s₀ u₀) :
    Keeps w₀ s₀ (importDone id k u₀) := by
  unfold importDone
  repeat' (first
    | with_reducible assumption
    | with_reducible apply keeps_endTransfer
    | with_reducible apply keeps_modStream
    | with_reducible apply keeps_setStreamSt
    | with_reducible apply Keeps.ite
    | (intro _ _ _)
    | (intro _ _)
    | intro _
    | simp only [keeps_mk_iff]
    | dsimp only
    | dsimp only [id_eq]
    | split)

theorem keeps_kvImportHeader {w₀ : Bool} {s₀ u₀ : State} (id : Nat) (hk₀ : Keeps w₀ s₀ u₀) :
    Keeps w₀ s₀ (kvImportHeader id u₀) := by
  unfold kvImportHeader
  repeat' (first
    | with_reducible assumption
    | with_reducible apply keeps_chargeBytes
    | with_reducible apply keeps_dropBytes
    | with_reducible apply keeps_importDone
    | with_reducible apply keeps_modStream
    | with_reducible apply keeps_passTo
    | with_reducible apply keeps_refuseImport
    | with_reducible apply Keeps.ite
    | (intro _ _ _)
    | (intro _ _)
    | intro _
    | simp only [keeps_mk_iff]
    | dsimp only
    | dsimp only [id_eq]
    | split)

theorem keeps_takePage {w₀ : Bool} {s₀ u₀ : State} (id : Nat) (k : Nat) (x : Stream) (r : List Byte) (hk₀ : Keeps w₀ s₀ u₀) :
    Keeps w₀ s₀ (takePage id k x r u₀) := by
  unfold takePage
  repeat' (first
    | with_reducible assumption
    | with_reducible apply keeps_allocFrame
    | with_reducible apply keeps_bumpF
    | with_reducible apply keeps_chargeBytes
    | with_reducible apply keeps_endStream
    | with_reducible apply keeps_endTransfer
    | with_reducible apply keeps_importDone
    | with_reducible apply keeps_modStream
    | with_reducible apply keeps_refuseImport
    | with_reducible apply keeps_settleNow
    | with_reducible apply keeps_wrEnt
    | with_reducible apply keeps_wrMem
    | with_reducible apply KeepsOpt2.get (by assumption)
    | with_reducible apply Keeps.ite
    | (intro _ _ _)
    | (intro _ _)
    | intro _
    | simp only [keeps_mk_iff]
    | dsimp only
    | dsimp only [id_eq]
    | split)

theorem keeps_kvImportRecord {w₀ : Bool} {s₀ u₀ : State} (id : Nat) (hk₀ : Keeps w₀ s₀ u₀) :
    Keeps w₀ s₀ (kvImportRecord id u₀) := by
  unfold kvImportRecord
  repeat' (first
    | with_reducible assumption
    | with_reducible apply keeps_dropBytes
    | with_reducible apply keeps_failRecord
    | with_reducible apply keeps_passTo
    | with_reducible apply keeps_refuseImport
    | with_reducible apply keeps_takePage
    | with_reducible apply Keeps.of_pair (by assumption)
    | with_reducible apply Keeps.ite
    | (intro _ _ _)
    | (intro _ _)
    | intro _
    | simp only [keeps_mk_iff]
    | dsimp only
    | dsimp only [id_eq]
    | split)

theorem keeps_abandonImport {w₀ : Bool} {s₀ u₀ : State} (id : Nat) (hk₀ : Keeps w₀ s₀ u₀) :
    Keeps w₀ s₀ (abandonImport id u₀) := by
  unfold abandonImport
  repeat' (first
    | with_reducible assumption
    | with_reducible apply keeps_refuseImport
    | with_reducible apply Keeps.ite
    | (intro _ _ _)
    | (intro _ _)
    | intro _
    | simp only [keeps_mk_iff]
    | dsimp only
    | dsimp only [id_eq]
    | split)

end Sys2Proof.Laws
end

