-- ==== Sys2Proof/Laws/KeepsDitch.lean ====
section
/-!
SUPPORT. What the operations of Machine/Ditch.lean keep (see Keeps).
-/

namespace Sys2Proof.Laws

open Sys2Proof.Machine

theorem keeps_setDitch {w₀ : Bool} {s₀ u₀ : State} (f : Ditch → Ditch) (hk₀ : Keeps w₀ s₀ u₀) :
    Keeps w₀ s₀ (setDitch f u₀) := by
  unfold setDitch
  repeat' (first
    | with_reducible assumption
    | (intro _ _ _)
    | (intro _ _)
    | intro _
    | simp only [keeps_mk_iff]
    | dsimp only
    | dsimp only [id_eq]
    | split)

theorem keeps_modClk {w₀ : Bool} {s₀ u₀ : State} (d : Nat) (f : DieClk → DieClk) (hk₀ : Keeps w₀ s₀ u₀) :
    Keeps w₀ s₀ (modClk d f u₀) := by
  unfold modClk
  repeat' (first
    | with_reducible assumption
    | with_reducible apply keeps_setDitch
    | (intro _ _ _)
    | (intro _ _)
    | intro _
    | simp only [keeps_mk_iff]
    | dsimp only
    | dsimp only [id_eq]
    | split)

theorem keeps_onDies {w₀ : Bool} {s₀ u₀ : State} (f : Nat → State → State) (h_f : ∀ (x0 : Nat) (x1 : State), Keeps w₀ s₀ x1 → Keeps w₀ s₀ (f x0 x1)) (hk₀ : Keeps w₀ s₀ u₀) :
    Keeps w₀ s₀ (onDies f u₀) := by
  unfold onDies
  repeat' (first
    | with_reducible assumption
    | with_reducible apply h_f
    | with_reducible apply Keeps.foldl
    | with_reducible apply Keeps.foldl1
    | with_reducible apply Keeps.foldl2
    | with_reducible apply Keeps.foldl22
    | with_reducible apply Keeps.of_pair (by assumption)
    | with_reducible apply Keeps.of_triple (by assumption)
    | with_reducible apply Keeps.of_pair' (by assumption)
    | (intro _ _ _)
    | (intro _ _)
    | intro _
    | dsimp only
    | dsimp only [id_eq]
    | split)

theorem keeps_drdEvent {w₀ : Bool} {s₀ u₀ : State} (ev : Nat) (cls : Nat) (ix : Nat) (detail : List Nat) (hk₀ : Keeps w₀ s₀ u₀) :
    Keeps w₀ s₀ (drdEvent ev cls ix detail u₀) := by
  unfold drdEvent
  repeat' (first
    | with_reducible assumption
    | with_reducible apply keeps_irqRaise
    | with_reducible apply keeps_logEv
    | with_reducible apply keeps_setF
    | (intro _ _ _)
    | (intro _ _)
    | intro _
    | dsimp only
    | dsimp only [id_eq]
    | split)

theorem keeps_retarget {w₀ : Bool} {s₀ u₀ : State} (d : Nat) (hk₀ : Keeps w₀ s₀ u₀) :
    Keeps w₀ s₀ (retarget d u₀) := by
  unfold retarget
  repeat' (first
    | with_reducible assumption
    | with_reducible apply keeps_irqRaise
    | with_reducible apply keeps_modClk
    | with_reducible apply keeps_setF
    | with_reducible apply Keeps.ite
    | (intro _ _ _)
    | (intro _ _)
    | intro _
    | simp only [keeps_mk_iff]
    | dsimp only
    | dsimp only [id_eq]
    | split)

theorem keeps_retargetAll {w₀ : Bool} {s₀ u₀ : State} (hk₀ : Keeps w₀ s₀ u₀) :
    Keeps w₀ s₀ (retargetAll u₀) := by
  unfold retargetAll
  repeat' (first
    | with_reducible assumption
    | with_reducible apply keeps_onDies
    | with_reducible apply keeps_retarget
    | (intro _ _ _)
    | (intro _ _)
    | intro _
    | dsimp only
    | dsimp only [id_eq]
    | split)

theorem keeps_showCap {w₀ : Bool} {s₀ u₀ : State} (hk₀ : Keeps w₀ s₀ u₀) :
    Keeps w₀ s₀ (showCap u₀) := by
  unfold showCap
  repeat' (first
    | with_reducible assumption
    | with_reducible apply keeps_setF
    | (intro _ _ _)
    | (intro _ _)
    | intro _
    | dsimp only
    | dsimp only [id_eq]
    | split)

theorem keeps_capDown {w₀ : Bool} {s₀ u₀ : State} (hk₀ : Keeps w₀ s₀ u₀) :
    Keeps w₀ s₀ (capDown u₀) := by
  unfold capDown
  repeat' (first
    | with_reducible assumption
    | with_reducible apply keeps_nextFree
    | with_reducible apply keeps_setDitch
    | with_reducible apply Keeps.of_pair (by assumption)
    | with_reducible apply Keeps.foldl
    | with_reducible apply Keeps.foldl1
    | with_reducible apply Keeps.foldl2
    | with_reducible apply Keeps.foldl22
    | with_reducible apply Keeps.of_triple (by assumption)
    | with_reducible apply Keeps.of_pair' (by assumption)
    | with_reducible apply Keeps.ite
    | (intro _ _ _)
    | (intro _ _)
    | intro _
    | simp only [keeps_mk_iff]
    | dsimp only
    | dsimp only [id_eq]
    | split)

theorem keeps_capUp {w₀ : Bool} {s₀ u₀ : State} (hk₀ : Keeps w₀ s₀ u₀) :
    Keeps w₀ s₀ (capUp u₀) := by
  unfold capUp
  repeat' (first
    | with_reducible assumption
    | with_reducible apply keeps_modClk
    | with_reducible apply keeps_nextFree
    | with_reducible apply keeps_onDies
    | with_reducible apply keeps_setDitch
    | with_reducible apply Keeps.of_pair (by assumption)
    | with_reducible apply Keeps.ite
    | (intro _ _ _)
    | (intro _ _)
    | intro _
    | simp only [keeps_mk_iff]
    | dsimp only
    | dsimp only [id_eq]
    | split)

theorem keeps_capFence {w₀ : Bool} {s₀ u₀ : State} (hk₀ : Keeps w₀ s₀ u₀) :
    Keeps w₀ s₀ (capFence u₀) := by
  unfold capFence
  repeat' (first
    | with_reducible assumption
    | with_reducible apply keeps_capDown
    | with_reducible apply keeps_capUp
    | with_reducible apply keeps_nextFree
    | with_reducible apply keeps_setDitch
    | with_reducible apply keeps_setF
    | with_reducible apply keeps_showCap
    | with_reducible apply Keeps.of_pair (by assumption)
    | with_reducible apply Keeps.ite
    | (intro _ _ _)
    | (intro _ _)
    | intro _
    | simp only [keeps_mk_iff]
    | dsimp only
    | dsimp only [id_eq]
    | split)

theorem keeps_cistFence {w₀ : Bool} {s₀ u₀ : State} (hk₀ : Keeps w₀ s₀ u₀) :
    Keeps w₀ s₀ (cistFence u₀) := by
  unfold cistFence
  repeat' (first
    | with_reducible assumption
    | with_reducible apply keeps_modClk
    | with_reducible apply keeps_onDies
    | with_reducible apply keeps_setF
    | with_reducible apply Keeps.ite
    | (intro _ _ _)
    | (intro _ _)
    | intro _
    | simp only [keeps_mk_iff]
    | dsimp only
    | dsimp only [id_eq]
    | split)

theorem keeps_reportPower {w₀ : Bool} {s₀ u₀ : State} (hk₀ : Keeps w₀ s₀ u₀) :
    Keeps w₀ s₀ (reportPower u₀) := by
  unfold reportPower
  repeat' (first
    | with_reducible assumption
    | with_reducible apply keeps_setHold
    | with_reducible apply Keeps.foldl
    | with_reducible apply Keeps.foldl1
    | with_reducible apply Keeps.foldl2
    | with_reducible apply Keeps.foldl22
    | with_reducible apply Keeps.of_pair (by assumption)
    | with_reducible apply Keeps.of_triple (by assumption)
    | with_reducible apply Keeps.of_pair' (by assumption)
    | (intro _ _ _)
    | (intro _ _)
    | intro _
    | simp only [keeps_mk_iff]
    | dsimp only
    | dsimp only [id_eq]
    | split)

theorem keeps_showMatch {w₀ : Bool} {s₀ u₀ : State} (on : Bool) (slow : Nat) (f : Nat) (hk₀ : Keeps w₀ s₀ u₀) :
    Keeps w₀ s₀ (showMatch on slow f u₀) := by
  unfold showMatch
  repeat' (first
    | with_reducible assumption
    | with_reducible apply keeps_irqRaise
    | with_reducible apply keeps_onDies
    | with_reducible apply keeps_setB
    | with_reducible apply keeps_setF
    | with_reducible apply Keeps.ite
    | (intro _ _ _)
    | (intro _ _)
    | intro _
    | dsimp only
    | dsimp only [id_eq]
    | split)

theorem keeps_matchFence {w₀ : Bool} {s₀ u₀ : State} (hk₀ : Keeps w₀ s₀ u₀) :
    Keeps w₀ s₀ (matchFence u₀) := by
  unfold matchFence
  repeat' (first
    | with_reducible assumption
    | with_reducible apply keeps_modClk
    | with_reducible apply keeps_onDies
    | with_reducible apply keeps_showMatch
    | with_reducible apply Keeps.ite
    | (intro _ _ _)
    | (intro _ _)
    | intro _
    | simp only [keeps_mk_iff]
    | dsimp only
    | dsimp only [id_eq]
    | split)

theorem keeps_trickleExit {w₀ : Bool} {s₀ u₀ : State} (hk₀ : Keeps w₀ s₀ u₀) :
    Keeps w₀ s₀ (trickleExit u₀) := by
  unfold trickleExit
  repeat' (first
    | with_reducible assumption
    | with_reducible apply keeps_setDitch
    | with_reducible apply keeps_setF
    | with_reducible apply keeps_setLevel
    | (intro _ _ _)
    | (intro _ _)
    | intro _
    | simp only [keeps_mk_iff]
    | dsimp only
    | dsimp only [id_eq]
    | split)

theorem keeps_ditchFence {w₀ : Bool} {s₀ u₀ : State} (hk₀ : Keeps w₀ s₀ u₀) :
    Keeps w₀ s₀ (ditchFence u₀) := by
  unfold ditchFence
  repeat' (first
    | with_reducible assumption
    | with_reducible apply keeps_capFence
    | with_reducible apply keeps_cistFence
    | with_reducible apply keeps_matchFence
    | with_reducible apply keeps_modClk
    | with_reducible apply keeps_onDies
    | with_reducible apply keeps_reportPower
    | with_reducible apply keeps_retargetAll
    | with_reducible apply keeps_trickleExit
    | with_reducible apply Keeps.ite
    | (intro _ _ _)
    | (intro _ _)
    | intro _
    | simp only [keeps_mk_iff]
    | dsimp only
    | dsimp only [id_eq]
    | split)

theorem keeps_powerEmergency {w₀ : Bool} {s₀ u₀ : State} (hk₀ : Keeps w₀ s₀ u₀) :
    Keeps w₀ s₀ (powerEmergency u₀) := by
  unfold powerEmergency
  repeat' (first
    | with_reducible assumption
    | with_reducible apply keeps_bumpF
    | with_reducible apply keeps_drdEvent
    | with_reducible apply keeps_modClk
    | with_reducible apply keeps_onDies
    | with_reducible apply keeps_retargetAll
    | with_reducible apply keeps_setF
    | with_reducible apply Keeps.ite
    | (intro _ _ _)
    | (intro _ _)
    | intro _
    | simp only [keeps_mk_iff]
    | dsimp only
    | dsimp only [id_eq]
    | split)

theorem keeps_powerMean {w₀ : Bool} {s₀ u₀ : State} (p : Nat) (hk₀ : Keeps w₀ s₀ u₀) :
    Keeps w₀ s₀ (powerMean p u₀) := by
  unfold powerMean
  repeat' (first
    | with_reducible assumption
    | with_reducible apply keeps_powerEmergency
    | with_reducible apply keeps_setDitch
    | with_reducible apply keeps_setF
    | with_reducible apply keeps_whenB
    | with_reducible apply Keeps.foldl
    | with_reducible apply Keeps.foldl1
    | with_reducible apply Keeps.foldl2
    | with_reducible apply Keeps.foldl22
    | with_reducible apply Keeps.of_pair (by assumption)
    | with_reducible apply Keeps.of_triple (by assumption)
    | with_reducible apply Keeps.of_pair' (by assumption)
    | with_reducible apply Keeps.ite
    | (intro _ _ _)
    | (intro _ _)
    | intro _
    | simp only [keeps_mk_iff]
    | dsimp only
    | dsimp only [id_eq]
    | split)

theorem keeps_capUnreachable {w₀ : Bool} {s₀ u₀ : State} (hk₀ : Keeps w₀ s₀ u₀) :
    Keeps w₀ s₀ (capUnreachable u₀) := by
  unfold capUnreachable
  repeat' (first
    | with_reducible assumption
    | with_reducible apply keeps_drdEvent
    | with_reducible apply keeps_irqRaise
    | with_reducible apply keeps_setF
    | with_reducible apply Keeps.ite
    | (intro _ _ _)
    | (intro _ _)
    | intro _
    | simp only [keeps_mk_iff]
    | dsimp only
    | dsimp only [id_eq]
    | split)

theorem keeps_acreReading {w₀ : Bool} {s₀ u₀ : State} (d : Nat) (hot : Nat) (hk₀ : Keeps w₀ s₀ u₀) :
    Keeps w₀ s₀ (acreReading d hot u₀) := by
  unfold acreReading
  repeat' (first
    | with_reducible assumption
    | with_reducible apply keeps_drdEvent
    | with_reducible apply keeps_modAcre
    | with_reducible apply keeps_modClk
    | with_reducible apply keeps_retarget
    | with_reducible apply keeps_setF
    | with_reducible apply Keeps.foldl
    | with_reducible apply Keeps.foldl1
    | with_reducible apply Keeps.foldl2
    | with_reducible apply Keeps.foldl22
    | with_reducible apply Keeps.of_pair (by assumption)
    | with_reducible apply Keeps.of_triple (by assumption)
    | with_reducible apply Keeps.of_pair' (by assumption)
    | with_reducible apply Keeps.ite
    | (intro _ _ _)
    | (intro _ _)
    | intro _
    | simp only [keeps_mk_iff]
    | dsimp only
    | dsimp only [id_eq]
    | split)

theorem keeps_stackReading {w₀ : Bool} {s₀ u₀ : State} (d : Nat) (k : Nat) (t : Nat) (hk₀ : Keeps w₀ s₀ u₀) :
    Keeps w₀ s₀ (stackReading d k t u₀) := by
  unfold stackReading
  repeat' (first
    | with_reducible assumption
    | with_reducible apply keeps_drdEvent
    | with_reducible apply keeps_setDitch
    | with_reducible apply Keeps.ite
    | (intro _ _ _)
    | (intro _ _)
    | intro _
    | simp only [keeps_mk_iff]
    | dsimp only
    | dsimp only [id_eq]
    | split)

theorem keeps_junctionRead {w₀ : Bool} {s₀ u₀ : State} (d : Nat) (hot : Nat) (h0 : Nat) (h1 : Nat) (h2 : Nat) (head : Nat) (hk₀ : Keeps w₀ s₀ u₀) :
    Keeps w₀ s₀ (junctionRead d hot h0 h1 h2 head u₀) := by
  unfold junctionRead
  repeat' (first
    | with_reducible assumption
    | with_reducible apply keeps_acreReading
    | with_reducible apply keeps_setDitch
    | with_reducible apply keeps_setF
    | with_reducible apply keeps_stackReading
    | with_reducible apply Keeps.foldl
    | with_reducible apply Keeps.foldl1
    | with_reducible apply Keeps.foldl2
    | with_reducible apply Keeps.foldl22
    | with_reducible apply Keeps.of_pair (by assumption)
    | with_reducible apply Keeps.of_triple (by assumption)
    | with_reducible apply Keeps.of_pair' (by assumption)
    | with_reducible apply Keeps.ite
    | (intro _ _ _)
    | (intro _ _)
    | intro _
    | simp only [keeps_mk_iff]
    | dsimp only
    | dsimp only [id_eq]
    | split)

theorem keeps_thermalStep {w₀ : Bool} {s₀ u₀ : State} (d : Nat) (hk₀ : Keeps w₀ s₀ u₀) :
    Keeps w₀ s₀ (thermalStep d u₀) := by
  unfold thermalStep
  repeat' (first
    | with_reducible assumption
    | with_reducible apply keeps_modClk
    | with_reducible apply keeps_retarget
    | with_reducible apply Keeps.ite
    | (intro _ _ _)
    | (intro _ _)
    | intro _
    | simp only [keeps_mk_iff]
    | dsimp only
    | dsimp only [id_eq]
    | split)

theorem keeps_thermalStillTimeout {w₀ : Bool} {s₀ u₀ : State} (d : Nat) (hk₀ : Keeps w₀ s₀ u₀) :
    Keeps w₀ s₀ (thermalStillTimeout d u₀) := by
  unfold thermalStillTimeout
  repeat' (first
    | with_reducible assumption
    | with_reducible apply keeps_drdEvent
    | with_reducible apply keeps_modClk
    | with_reducible apply Keeps.ite
    | (intro _ _ _)
    | (intro _ _)
    | intro _
    | simp only [keeps_mk_iff]
    | dsimp only
    | dsimp only [id_eq]
    | split)

theorem keeps_coolantSensors {w₀ : Bool} {s₀ u₀ : State} (inlet : Nat) (flow : Nat) (hk₀ : Keeps w₀ s₀ u₀) :
    Keeps w₀ s₀ (coolantSensors inlet flow u₀) := by
  unfold coolantSensors
  repeat' (first
    | with_reducible assumption
    | with_reducible apply keeps_setDitch
    | with_reducible apply keeps_showCap
    | with_reducible apply Keeps.ite
    | (intro _ _ _)
    | (intro _ _)
    | intro _
    | simp only [keeps_mk_iff]
    | dsimp only
    | dsimp only [id_eq]
    | split)

theorem keeps_coolantOut {w₀ : Bool} {s₀ u₀ : State} (hk₀ : Keeps w₀ s₀ u₀) :
    Keeps w₀ s₀ (coolantOut u₀) := by
  unfold coolantOut
  repeat' (first
    | with_reducible assumption
    | with_reducible apply keeps_drdEvent
    | with_reducible apply keeps_setDitch
    | with_reducible apply Keeps.ite
    | (intro _ _ _)
    | (intro _ _)
    | intro _
    | simp only [keeps_mk_iff]
    | dsimp only
    | dsimp only [id_eq]
    | split)

theorem keeps_droopDetect {w₀ : Bool} {s₀ u₀ : State} (d : Nat) (mv : Nat) (ns : Nat) (hk₀ : Keeps w₀ s₀ u₀) :
    Keeps w₀ s₀ (droopDetect d mv ns u₀) := by
  unfold droopDetect
  repeat' (first
    | with_reducible assumption
    | with_reducible apply keeps_bumpF
    | with_reducible apply keeps_drdEvent
    | with_reducible apply keeps_modClk
    | with_reducible apply keeps_retarget
    | with_reducible apply Keeps.ite
    | (intro _ _ _)
    | (intro _ _)
    | intro _
    | simp only [keeps_mk_iff]
    | dsimp only
    | dsimp only [id_eq]
    | split)

theorem keeps_droopHoldEnd {w₀ : Bool} {s₀ u₀ : State} (d : Nat) (hk₀ : Keeps w₀ s₀ u₀) :
    Keeps w₀ s₀ (droopHoldEnd d u₀) := by
  unfold droopHoldEnd
  repeat' (first
    | with_reducible assumption
    | with_reducible apply keeps_modClk
    | with_reducible apply Keeps.ite
    | (intro _ _ _)
    | (intro _ _)
    | intro _
    | simp only [keeps_mk_iff]
    | dsimp only
    | dsimp only [id_eq]
    | split)

theorem keeps_trickleEnter {w₀ : Bool} {s₀ u₀ : State} (hk₀ : Keeps w₀ s₀ u₀) :
    Keeps w₀ s₀ (trickleEnter u₀) := by
  unfold trickleEnter
  repeat' (first
    | with_reducible assumption
    | with_reducible apply keeps_bumpF
    | with_reducible apply keeps_drdEvent
    | with_reducible apply keeps_retargetAll
    | with_reducible apply keeps_setDitch
    | with_reducible apply keeps_setLevel
    | with_reducible apply Keeps.ite
    | (intro _ _ _)
    | (intro _ _)
    | intro _
    | simp only [keeps_mk_iff]
    | dsimp only
    | dsimp only [id_eq]
    | split)

theorem keeps_regulatorAlert {w₀ : Bool} {s₀ u₀ : State} (r : Rail) (hk₀ : Keeps w₀ s₀ u₀) :
    Keeps w₀ s₀ (regulatorAlert r u₀) := by
  unfold regulatorAlert
  repeat' (first
    | with_reducible assumption
    | with_reducible apply keeps_setDitch
    | with_reducible apply keeps_trickleEnter
    | with_reducible apply Keeps.ite
    | (intro _ _ _)
    | (intro _ _)
    | intro _
    | simp only [keeps_mk_iff]
    | dsimp only
    | dsimp only [id_eq]
    | split)

theorem keeps_regulatorClear {w₀ : Bool} {s₀ u₀ : State} (r : Rail) (hk₀ : Keeps w₀ s₀ u₀) :
    Keeps w₀ s₀ (regulatorClear r u₀) := by
  unfold regulatorClear
  repeat' (first
    | with_reducible assumption
    | with_reducible apply keeps_setDitch
    | with_reducible apply Keeps.ite
    | (intro _ _ _)
    | (intro _ _)
    | intro _
    | simp only [keeps_mk_iff]
    | dsimp only
    | dsimp only [id_eq]
    | split)

theorem keeps_trickleHoldEnd {w₀ : Bool} {s₀ u₀ : State} (hk₀ : Keeps w₀ s₀ u₀) :
    Keeps w₀ s₀ (trickleHoldEnd u₀) := by
  unfold trickleHoldEnd
  repeat' (first
    | with_reducible assumption
    | with_reducible apply keeps_setDitch
    | with_reducible apply Keeps.ite
    | (intro _ _ _)
    | (intro _ _)
    | intro _
    | simp only [keeps_mk_iff]
    | dsimp only
    | dsimp only [id_eq]
    | split)

theorem keeps_phaseDisable {w₀ : Bool} {s₀ u₀ : State} (r : Rail) (ph : Nat) (hk₀ : Keeps w₀ s₀ u₀) :
    Keeps w₀ s₀ (phaseDisable r ph u₀) := by
  unfold phaseDisable
  repeat' (first
    | with_reducible assumption
    | with_reducible apply keeps_drdEvent
    | with_reducible apply keeps_retargetAll
    | with_reducible apply keeps_setDitch
    | with_reducible apply keeps_showCap
    | with_reducible apply Keeps.ite
    | (intro _ _ _)
    | (intro _ _)
    | intro _
    | simp only [keeps_mk_iff]
    | dsimp only
    | dsimp only [id_eq]
    | split)

theorem keeps_failStreams {w₀ : Bool} {s₀ u₀ : State} (d : Nat) (hk₀ : Keeps w₀ s₀ u₀) :
    Keeps w₀ s₀ (failStreams d u₀) := by
  unfold failStreams
  repeat' (first
    | with_reducible assumption
    | with_reducible apply keeps_endStream
    | with_reducible apply Keeps.foldl
    | with_reducible apply Keeps.foldl1
    | with_reducible apply Keeps.foldl2
    | with_reducible apply Keeps.foldl22
    | with_reducible apply Keeps.of_pair (by assumption)
    | with_reducible apply Keeps.of_triple (by assumption)
    | with_reducible apply Keeps.of_pair' (by assumption)
    | (intro _ _ _)
    | (intro _ _)
    | intro _
    | dsimp only
    | dsimp only [id_eq]
    | split)

theorem keeps_railUnits {w₀ : Bool} {s₀ u₀ : State} (r : Rail) (hk₀ : Keeps w₀ s₀ u₀) :
    Keeps w₀ s₀ (railUnits r u₀) := by
  unfold railUnits
  repeat' (first
    | with_reducible assumption
    | with_reducible apply keeps_beyondSpares
    | with_reducible apply keeps_failStreams
    | with_reducible apply keeps_modAcre
    | with_reducible apply Keeps.foldl
    | with_reducible apply Keeps.foldl1
    | with_reducible apply Keeps.foldl2
    | with_reducible apply Keeps.foldl22
    | with_reducible apply Keeps.of_pair (by assumption)
    | with_reducible apply Keeps.of_triple (by assumption)
    | with_reducible apply Keeps.of_pair' (by assumption)
    | (intro _ _ _)
    | (intro _ _)
    | intro _
    | simp only [keeps_mk_iff]
    | dsimp only
    | dsimp only [id_eq]
    | split)

theorem keeps_railOff {w₀ : Bool} {s₀ u₀ : State} (r : Rail) (hk₀ : Keeps w₀ s₀ u₀) :
    Keeps w₀ s₀ (railOff r u₀) := by
  unfold railOff
  repeat' (first
    | with_reducible assumption
    | with_reducible apply keeps_drdEvent
    | with_reducible apply keeps_railUnits
    | with_reducible apply keeps_setDitch
    | with_reducible apply Keeps.ite
    | (intro _ _ _)
    | (intro _ _)
    | intro _
    | simp only [keeps_mk_iff]
    | dsimp only
    | dsimp only [id_eq]
    | split)

theorem keeps_planSwap {w₀ : Bool} {s₀ u₀ : State} (g : Nat) (sp : Nat) (why : SwapWhy) (hk₀ : Keeps w₀ s₀ u₀) :
    Keeps w₀ s₀ (planSwap g sp why u₀) := by
  unfold planSwap
  repeat' (first
    | with_reducible assumption
    | with_reducible apply keeps_countSpares
    | with_reducible apply keeps_startWake
    | (intro _ _ _)
    | (intro _ _)
    | intro _
    | simp only [keeps_mk_iff]
    | dsimp only
    | dsimp only [id_eq]
    | split)

theorem keeps_slowAcre {w₀ : Bool} {s₀ u₀ : State} (g : Nat) (hk₀ : Keeps w₀ s₀ u₀) :
    Keeps w₀ s₀ (slowAcre g u₀) := by
  unfold slowAcre
  repeat' (first
    | with_reducible assumption
    | with_reducible apply keeps_drdEvent
    | with_reducible apply keeps_planSwap
    | with_reducible apply Keeps.ite
    | (intro _ _ _)
    | (intro _ _)
    | intro _
    | simp only [keeps_mk_iff]
    | dsimp only
    | dsimp only [id_eq]
    | split)

theorem keeps_ageing {w₀ : Bool} {s₀ u₀ : State} (g : Nat) (hk₀ : Keeps w₀ s₀ u₀) :
    Keeps w₀ s₀ (ageing g u₀) := by
  unfold ageing
  repeat' (first
    | with_reducible assumption
    | with_reducible apply keeps_drdEvent
    | with_reducible apply keeps_modAcre
    | with_reducible apply keeps_retarget
    | with_reducible apply keeps_slowAcre
    | with_reducible apply Keeps.ite
    | (intro _ _ _)
    | (intro _ _)
    | intro _
    | simp only [keeps_mk_iff]
    | dsimp only
    | dsimp only [id_eq]
    | split)

theorem keeps_loseBanks {w₀ : Bool} {s₀ u₀ : State} (g mask : Nat) (hk₀ : Keeps w₀ s₀ u₀) : Keeps w₀ s₀ (loseBanks g mask u₀) := by
  unfold loseBanks
  exact keeps_modAcre _ _ (keeps_mk_spad (fun h => canonK_filter _ _ _ h) hk₀)

theorem keeps_enterDry {w₀ : Bool} {s₀ u₀ : State} (g : Nat) (hk₀ : Keeps w₀ s₀ u₀) :
    Keeps w₀ s₀ (enterDry g u₀) := by
  unfold enterDry
  repeat' (first
    | with_reducible assumption
    | with_reducible apply keeps_loseBanks
    | with_reducible apply keeps_modAcre
    | (intro _ _ _)
    | (intro _ _)
    | intro _
    | simp only [keeps_mk_iff]
    | dsimp only
    | dsimp only [id_eq]
    | split)

theorem keeps_enterFallow {w₀ : Bool} {s₀ u₀ : State} (g : Nat) (hk₀ : Keeps w₀ s₀ u₀) :
    Keeps w₀ s₀ (enterFallow g u₀) := by
  unfold enterFallow
  repeat' (first
    | with_reducible assumption
    | with_reducible apply keeps_loseBanks
    | with_reducible apply keeps_modAcre
    | (intro _ _ _)
    | (intro _ _)
    | intro _
    | simp only [keeps_mk_iff]
    | dsimp only
    | dsimp only [id_eq]
    | split)

theorem keeps_acreStill {w₀ : Bool} {s₀ u₀ : State} (g : Nat) (hk₀ : Keeps w₀ s₀ u₀) :
    Keeps w₀ s₀ (acreStill g u₀) := by
  unfold acreStill
  repeat' (first
    | with_reducible assumption
    | with_reducible apply keeps_modAcre
    | with_reducible apply Keeps.ite
    | (intro _ _ _)
    | (intro _ _)
    | intro _
    | simp only [keeps_mk_iff]
    | dsimp only
    | dsimp only [id_eq]
    | split)

theorem keeps_acreDry {w₀ : Bool} {s₀ u₀ : State} (g : Nat) (hk₀ : Keeps w₀ s₀ u₀) :
    Keeps w₀ s₀ (acreDry g u₀) := by
  unfold acreDry
  repeat' (first
    | with_reducible assumption
    | with_reducible apply keeps_enterDry
    | with_reducible apply Keeps.ite
    | (intro _ _ _)
    | (intro _ _)
    | intro _
    | dsimp only
    | dsimp only [id_eq]
    | split)

theorem keeps_acreWake {w₀ : Bool} {s₀ u₀ : State} (g : Nat) (hk₀ : Keeps w₀ s₀ u₀) :
    Keeps w₀ s₀ (acreWake g u₀) := by
  unfold acreWake
  repeat' (first
    | with_reducible assumption
    | with_reducible apply keeps_wakeFor
    | with_reducible apply Keeps.ite
    | (intro _ _ _)
    | (intro _ _)
    | intro _
    | dsimp only
    | dsimp only [id_eq]
    | split)

theorem keeps_drainWakes {w₀ : Bool} {s₀ u₀ : State} (n : Nat) (hk₀ : Keeps w₀ s₀ u₀) :
    Keeps w₀ s₀ (drainWakes n u₀) := by
  induction n generalizing u₀ with
  | zero =>
    rw [drainWakes]
    repeat' (first
    | with_reducible assumption
    | with_reducible apply keeps_modAcre
    | (intro _ _ _)
    | (intro _ _)
    | intro _
    | simp only [keeps_mk_iff]
    | dsimp only
    | dsimp only [id_eq]
    | split)
  | succ n₀ ih =>
    rw [drainWakes]
    repeat' (first
    | with_reducible assumption
    | with_reducible apply ih
    | with_reducible apply keeps_modAcre
    | (intro _ _ _)
    | (intro _ _)
    | intro _
    | simp only [keeps_mk_iff]
    | dsimp only
    | dsimp only [id_eq]
    | split)

theorem keeps_acreWakeDone {w₀ : Bool} {s₀ u₀ : State} (g : Nat) (hk₀ : Keeps w₀ s₀ u₀) :
    Keeps w₀ s₀ (acreWakeDone g u₀) := by
  unfold acreWakeDone
  repeat' (first
    | with_reducible assumption
    | with_reducible apply keeps_drainWakes
    | with_reducible apply keeps_modAcre
    | with_reducible apply Keeps.ite
    | (intro _ _ _)
    | (intro _ _)
    | intro _
    | simp only [keeps_mk_iff]
    | dsimp only
    | dsimp only [id_eq]
    | split)

theorem keeps_idleEntry {w₀ : Bool} {s₀ u₀ : State} (hk₀ : Keeps w₀ s₀ u₀) :
    Keeps w₀ s₀ (idleEntry u₀) := by
  unfold idleEntry
  repeat' (first
    | with_reducible assumption
    | with_reducible apply keeps_enterDry
    | with_reducible apply keeps_setLevel
    | with_reducible apply Keeps.foldl
    | with_reducible apply Keeps.foldl1
    | with_reducible apply Keeps.foldl2
    | with_reducible apply Keeps.foldl22
    | with_reducible apply Keeps.of_pair (by assumption)
    | with_reducible apply Keeps.of_triple (by assumption)
    | with_reducible apply Keeps.of_pair' (by assumption)
    | with_reducible apply Keeps.ite
    | (intro _ _ _)
    | (intro _ _)
    | intro _
    | dsimp only
    | dsimp only [id_eq]
    | split)

theorem keeps_levelWrite {w₀ : Bool} {s₀ u₀ : State} (data : Word) (hk₀ : Keeps w₀ s₀ u₀) :
    Keeps w₀ s₀ (levelWrite data u₀) := by
  unfold levelWrite
  repeat' (first
    | with_reducible assumption
    | with_reducible apply keeps_refreshClosed
    | with_reducible apply keeps_setB
    | with_reducible apply keeps_setDitch
    | with_reducible apply keeps_setF
    | with_reducible apply Keeps.ite
    | (intro _ _ _)
    | (intro _ _)
    | intro _
    | simp only [keeps_mk_iff]
    | dsimp only
    | dsimp only [id_eq]
    | split)

theorem keeps_deepRequest {w₀ : Bool} {s₀ u₀ : State} (p : Path) (set : Bool) (data : Word) (hk₀ : Keeps w₀ s₀ u₀) :
    Keeps w₀ s₀ (deepRequest p set data u₀) := by
  unfold deepRequest
  repeat' (first
    | with_reducible assumption
    | with_reducible apply keeps_levelWrite
    | with_reducible apply keeps_ownedWrite
    | with_reducible apply Keeps.ite
    | (intro _ _ _)
    | (intro _ _)
    | intro _
    | dsimp only
    | dsimp only [id_eq]
    | split)

theorem keeps_deepEntry {w₀ : Bool} {s₀ u₀ : State} (hk₀ : Keeps w₀ s₀ u₀) :
    Keeps w₀ s₀ (deepEntry u₀) := by
  unfold deepEntry
  repeat' (first
    | with_reducible assumption
    | with_reducible apply keeps_enterFallow
    | with_reducible apply keeps_refreshClosed
    | with_reducible apply keeps_setDitch
    | with_reducible apply keeps_setF
    | with_reducible apply keeps_setLevel
    | with_reducible apply Keeps.foldl
    | with_reducible apply Keeps.foldl1
    | with_reducible apply Keeps.foldl2
    | with_reducible apply Keeps.foldl22
    | with_reducible apply Keeps.of_pair (by assumption)
    | with_reducible apply Keeps.of_triple (by assumption)
    | with_reducible apply Keeps.of_pair' (by assumption)
    | with_reducible apply Keeps.ite
    | (intro _ _ _)
    | (intro _ _)
    | intro _
    | simp only [keeps_mk_iff]
    | dsimp only
    | dsimp only [id_eq]
    | split)

theorem keeps_deepWakeDone {w₀ : Bool} {s₀ u₀ : State} (hk₀ : Keeps w₀ s₀ u₀) :
    Keeps w₀ s₀ (deepWakeDone u₀) := by
  unfold deepWakeDone
  repeat' (first
    | with_reducible assumption
    | with_reducible apply keeps_refreshClosed
    | with_reducible apply keeps_setDitch
    | with_reducible apply keeps_setF
    | with_reducible apply keeps_setLevel
    | with_reducible apply keeps_startWake
    | with_reducible apply Keeps.foldl
    | with_reducible apply Keeps.foldl1
    | with_reducible apply Keeps.foldl2
    | with_reducible apply Keeps.foldl22
    | with_reducible apply Keeps.of_pair (by assumption)
    | with_reducible apply Keeps.of_triple (by assumption)
    | with_reducible apply Keeps.of_pair' (by assumption)
    | with_reducible apply Keeps.ite
    | (intro _ _ _)
    | (intro _ _)
    | intro _
    | simp only [keeps_mk_iff]
    | dsimp only
    | dsimp only [id_eq]
    | split)

theorem keeps_capWrite {w₀ : Bool} {s₀ u₀ : State} (p : Path) (data : Word) (hk₀ : Keeps w₀ s₀ u₀) :
    Keeps w₀ s₀ (capWrite p data u₀) := by
  unfold capWrite
  repeat' (first
    | with_reducible assumption
    | with_reducible apply keeps_ownedWrite
    | with_reducible apply keeps_setDitch
    | with_reducible apply keeps_setF
    | (intro _ _ _)
    | (intro _ _)
    | intro _
    | simp only [keeps_mk_iff]
    | dsimp only
    | dsimp only [id_eq]
    | split)

theorem keeps_powerShare {w₀ : Bool} {s₀ u₀ : State} (src : CmdSrc) (hk₀ : Keeps w₀ s₀ u₀) :
    Keeps w₀ s₀ (powerShare src u₀) := by
  unfold powerShare
  repeat' (first
    | with_reducible assumption
    | with_reducible apply keeps_respond
    | with_reducible apply keeps_setHold
    | with_reducible apply keeps_takeCmd
    | (intro _ _ _)
    | (intro _ _)
    | intro _
    | simp only [keeps_mk_iff]
    | dsimp only
    | dsimp only [id_eq]
    | split)

end Sys2Proof.Laws
end

