-- ==== Sys2Proof/Laws/KeepsRing.lean ====
section
/-!
SUPPORT. What the operations of Machine/Ring.lean keep (see Keeps).
-/

namespace Sys2Proof.Laws

open Sys2Proof.Machine

theorem keeps_breakColl {w₀ : Bool} {s₀ u₀ : State} (iss : Issue) (r : List Byte) (hk₀ : Keeps w₀ s₀ u₀) :
    Keeps w₀ s₀ (breakColl iss r u₀) := by
  unfold breakColl
  repeat' (first
    | with_reducible assumption
    | (intro _ _ _)
    | (intro _ _)
    | intro _
    | simp only [keeps_mk_iff]
    | dsimp only
    | dsimp only [id_eq]
    | split)

theorem keeps_refuseColl {w₀ : Bool} {s₀ u₀ : State} (iss : Issue) (holding : Nat) (code : Nat) (r : List Byte) (hk₀ : Keeps w₀ s₀ u₀) :
    Keeps w₀ s₀ (refuseColl iss holding code r u₀) := by
  unfold refuseColl
  repeat' (first
    | with_reducible assumption
    | with_reducible apply keeps_breakColl
    | with_reducible apply keeps_lastEvt
    | with_reducible apply keeps_logStatus
    | with_reducible apply keeps_sendRecord
    | (intro _ _ _)
    | (intro _ _)
    | intro _
    | dsimp only
    | dsimp only [id_eq]
    | split)

theorem keeps_modRing {w₀ : Bool} {s₀ u₀ : State} (f : Ring → Ring) (hk₀ : Keeps w₀ s₀ u₀) :
    Keeps w₀ s₀ (modRing f u₀) := by
  unfold modRing
  repeat' (first
    | with_reducible assumption
    | (intro _ _ _)
    | (intro _ _)
    | intro _
    | simp only [keeps_mk_iff]
    | dsimp only
    | dsimp only [id_eq]
    | split)

theorem keeps_showVcs {w₀ : Bool} {s₀ u₀ : State} (hk₀ : Keeps w₀ s₀ u₀) :
    Keeps w₀ s₀ (showVcs u₀) := by
  unfold showVcs
  repeat' (first
    | with_reducible assumption
    | with_reducible apply keeps_onDies
    | with_reducible apply keeps_setF
    | with_reducible apply Keeps.foldl
    | with_reducible apply Keeps.foldl1
    | with_reducible apply Keeps.foldl2
    | with_reducible apply Keeps.foldl22
    | with_reducible apply Keeps.of_pair (by assumption)
    | with_reducible apply Keeps.of_triple (by assumption)
    | with_reducible apply Keeps.of_pair' (by assumption)
    | with_reducible apply Keeps.ite
    | (intro _ _ _)
    | (intro _ _)
    | intro _
    | dsimp only
    | dsimp only [id_eq]
    | split)

theorem keeps_modColl {w₀ : Bool} {s₀ u₀ : State} (sn : Nat) (f : CollRun → CollRun) (hk₀ : Keeps w₀ s₀ u₀) :
    Keeps w₀ s₀ (modColl sn f u₀) := by
  unfold modColl
  repeat' (first
    | with_reducible assumption
    | with_reducible apply keeps_modRing
    | with_reducible apply Keeps.ite
    | (intro _ _ _)
    | (intro _ _)
    | intro _
    | simp only [keeps_mk_iff]
    | dsimp only
    | dsimp only [id_eq]
    | split)

theorem keeps_endColl {w₀ : Bool} {s₀ u₀ : State} (c : CollRun) (st : Word) (hk₀ : Keeps w₀ s₀ u₀) :
    Keeps w₀ s₀ (endColl c st u₀) := by
  unfold endColl
  repeat' (first
    | with_reducible assumption
    | with_reducible apply keeps_modRing
    | with_reducible apply keeps_sendRecord
    | with_reducible apply keeps_showVcs
    | (intro _ _ _)
    | (intro _ _)
    | intro _
    | simp only [keeps_mk_iff]
    | dsimp only
    | dsimp only [id_eq]
    | split)

theorem keeps_breakFence {w₀ : Bool} {s₀ u₀ : State} (c : CollRun) (die : Nat) (hk₀ : Keeps w₀ s₀ u₀) :
    Keeps w₀ s₀ (breakFence c die u₀) := by
  unfold breakFence
  repeat' (first
    | with_reducible assumption
    | with_reducible apply keeps_breakColl
    | with_reducible apply keeps_bumpF
    | with_reducible apply keeps_endColl
    | with_reducible apply keeps_onDies
    | (intro _ _ _)
    | (intro _ _)
    | intro _
    | dsimp only
    | dsimp only [id_eq]
    | split)

theorem keeps_issueColl {w₀ : Bool} {s₀ u₀ : State} (t : Nat) (iss : Issue) (hk₀ : Keeps w₀ s₀ u₀) :
    Keeps w₀ s₀ (issueColl t iss u₀) := by
  unfold issueColl
  repeat' (first
    | with_reducible assumption
    | with_reducible apply keeps_breakFence
    | with_reducible apply keeps_bumpSerial
    | with_reducible apply keeps_countIssue
    | with_reducible apply keeps_modRing
    | with_reducible apply keeps_refuseColl
    | with_reducible apply keeps_refuseUnknown
    | with_reducible apply keeps_sendRecord
    | with_reducible apply keeps_showVcs
    | with_reducible apply Keeps.ite
    | (intro _ _ _)
    | (intro _ _)
    | intro _
    | simp only [keeps_mk_iff]
    | dsimp only
    | dsimp only [id_eq]
    | split)

theorem keeps_restartColl {w₀ : Bool} {s₀ u₀ : State} (c : CollRun) (hk₀ : Keeps w₀ s₀ u₀) :
    Keeps w₀ s₀ (restartColl c u₀) := by
  unfold restartColl
  repeat' (first
    | with_reducible assumption
    | with_reducible apply keeps_breakFence
    | with_reducible apply keeps_modColl
    | with_reducible apply Keeps.ite
    | (intro _ _ _)
    | (intro _ _)
    | intro _
    | simp only [keeps_mk_iff]
    | dsimp only
    | dsimp only [id_eq]
    | split)

theorem keeps_modeFence {w₀ : Bool} {s₀ u₀ : State} (hk₀ : Keeps w₀ s₀ u₀) :
    Keeps w₀ s₀ (modeFence u₀) := by
  unfold modeFence
  repeat' (first
    | with_reducible assumption
    | with_reducible apply keeps_irqRaise
    | with_reducible apply keeps_lastEvt
    | with_reducible apply keeps_logEv
    | with_reducible apply keeps_modRing
    | with_reducible apply keeps_onDies
    | with_reducible apply keeps_refreshClosed
    | with_reducible apply keeps_restartColl
    | with_reducible apply keeps_setF
    | with_reducible apply Keeps.foldl
    | with_reducible apply Keeps.foldl1
    | with_reducible apply Keeps.foldl2
    | with_reducible apply Keeps.foldl22
    | with_reducible apply Keeps.of_pair (by assumption)
    | with_reducible apply Keeps.of_triple (by assumption)
    | with_reducible apply Keeps.of_pair' (by assumption)
    | with_reducible apply Keeps.ite
    | (intro _ _ _)
    | (intro _ _)
    | intro _
    | simp only [keeps_mk_iff]
    | dsimp only
    | dsimp only [id_eq]
    | split)

theorem keeps_fenceActions {w₀ : Bool} {s₀ u₀ : State} (hk₀ : Keeps w₀ s₀ u₀) :
    Keeps w₀ s₀ (fenceActions u₀) := by
  unfold fenceActions
  repeat' (first
    | with_reducible assumption
    | with_reducible apply keeps_bumpPair
    | with_reducible apply keeps_ditchFence
    | with_reducible apply keeps_fwFence
    | with_reducible apply keeps_modRing
    | with_reducible apply keeps_modeFence
    | with_reducible apply keeps_onDies
    | with_reducible apply keeps_tensFence
    | (intro _ _ _)
    | (intro _ _)
    | intro _
    | simp only [keeps_mk_iff]
    | dsimp only
    | dsimp only [id_eq]
    | split)

theorem keeps_fenceArrival {w₀ : Bool} {s₀ u₀ : State} (k : Nat) (d : Nat) (hk₀ : Keeps w₀ s₀ u₀) :
    Keeps w₀ s₀ (fenceArrival k d u₀) := by
  unfold fenceArrival
  repeat' (first
    | with_reducible assumption
    | with_reducible apply keeps_modColl
    | with_reducible apply Keeps.ite
    | (intro _ _ _)
    | (intro _ _)
    | intro _
    | simp only [keeps_mk_iff]
    | dsimp only
    | dsimp only [id_eq]
    | split)

theorem keeps_fenceComplete {w₀ : Bool} {s₀ u₀ : State} (c : CollRun) (hk₀ : Keeps w₀ s₀ u₀) :
    Keeps w₀ s₀ (fenceComplete c u₀) := by
  unfold fenceComplete
  repeat' (first
    | with_reducible assumption
    | with_reducible apply keeps_breakFence
    | with_reducible apply keeps_endColl
    | with_reducible apply keeps_fenceActions
    | with_reducible apply keeps_modColl
    | with_reducible apply keeps_modRing
    | with_reducible apply keeps_nextFree
    | with_reducible apply Keeps.of_pair (by assumption)
    | with_reducible apply Keeps.foldl
    | with_reducible apply Keeps.foldl1
    | with_reducible apply Keeps.foldl2
    | with_reducible apply Keeps.foldl22
    | with_reducible apply Keeps.of_triple (by assumption)
    | with_reducible apply Keeps.of_pair' (by assumption)
    | with_reducible apply Keeps.ite
    | (intro _ _ _)
    | (intro _ _)
    | intro _
    | simp only [keeps_mk_iff]
    | dsimp only
    | dsimp only [id_eq]
    | split)

theorem keeps_fenceMessage {w₀ : Bool} {s₀ u₀ : State} (k : Nat) (d : Nat) (hk₀ : Keeps w₀ s₀ u₀) :
    Keeps w₀ s₀ (fenceMessage k d u₀) := by
  unfold fenceMessage
  repeat' (first
    | with_reducible assumption
    | with_reducible apply keeps_fenceComplete
    | with_reducible apply keeps_modColl
    | with_reducible apply Keeps.ite
    | (intro _ _ _)
    | (intro _ _)
    | intro _
    | simp only [keeps_mk_iff]
    | dsimp only
    | dsimp only [id_eq]
    | split)

theorem keeps_collFinish {w₀ : Bool} {s₀ u₀ : State} (c : CollRun) (hk₀ : Keeps w₀ s₀ u₀) :
    Keeps w₀ s₀ (collFinish c u₀) := by
  unfold collFinish
  repeat' (first
    | with_reducible assumption
    | with_reducible apply keeps_bumpF
    | with_reducible apply keeps_bumpPair
    | with_reducible apply keeps_endColl
    | with_reducible apply keeps_gateDrain
    | with_reducible apply keeps_onDies
    | with_reducible apply Keeps.foldl
    | with_reducible apply Keeps.foldl1
    | with_reducible apply Keeps.foldl2
    | with_reducible apply Keeps.foldl22
    | with_reducible apply Keeps.of_pair (by assumption)
    | with_reducible apply Keeps.of_triple (by assumption)
    | with_reducible apply Keeps.of_pair' (by assumption)
    | with_reducible apply Keeps.ite
    | (intro _ _ _)
    | (intro _ _)
    | intro _
    | simp only [keeps_mk_iff]
    | dsimp only
    | dsimp only [id_eq]
    | split)

theorem keeps_collectiveDone {w₀ : Bool} {s₀ u₀ : State} (k : Nat) (d : Nat) (hk₀ : Keeps w₀ s₀ u₀) :
    Keeps w₀ s₀ (collectiveDone k d u₀) := by
  unfold collectiveDone
  repeat' (first
    | with_reducible assumption
    | with_reducible apply keeps_collFinish
    | with_reducible apply keeps_gateFill
    | with_reducible apply keeps_modColl
    | with_reducible apply keeps_wrMem
    | with_reducible apply Keeps.ite
    | (intro _ _ _)
    | (intro _ _)
    | intro _
    | simp only [keeps_mk_iff]
    | dsimp only
    | dsimp only [id_eq]
    | split)

theorem keeps_skewWindow {w₀ : Bool} {s₀ u₀ : State} (hk₀ : Keeps w₀ s₀ u₀) :
    Keeps w₀ s₀ (skewWindow u₀) := by
  unfold skewWindow
  repeat' (first
    | with_reducible assumption
    | with_reducible apply keeps_modRing
    | with_reducible apply keeps_onDies
    | with_reducible apply keeps_setF
    | with_reducible apply Keeps.foldl
    | with_reducible apply Keeps.foldl1
    | with_reducible apply Keeps.foldl2
    | with_reducible apply Keeps.foldl22
    | with_reducible apply Keeps.of_pair (by assumption)
    | with_reducible apply Keeps.of_triple (by assumption)
    | with_reducible apply Keeps.of_pair' (by assumption)
    | with_reducible apply Keeps.ite
    | (intro _ _ _)
    | (intro _ _)
    | intro _
    | simp only [keeps_mk_iff]
    | dsimp only
    | dsimp only [id_eq]
    | split)

theorem keeps_ringLane {w₀ : Bool} {s₀ u₀ : State} (d : Nat) (west : Bool) (lane : Nat) (hk₀ : Keeps w₀ s₀ u₀) :
    Keeps w₀ s₀ (ringLane d west lane u₀) := by
  unfold ringLane
  repeat' (first
    | with_reducible assumption
    | with_reducible apply keeps_lastEvt
    | with_reducible apply keeps_logEv
    | with_reducible apply keeps_modRing
    | with_reducible apply keeps_setF
    | with_reducible apply Keeps.ite
    | (intro _ _ _)
    | (intro _ _)
    | intro _
    | simp only [keeps_mk_iff]
    | dsimp only
    | dsimp only [id_eq]
    | split)

theorem keeps_ringFlit {w₀ : Bool} {s₀ u₀ : State} (d : Nat) (west : Bool) (lane : Nat) (ok : Bool) (again : Bool) (acked : Bool) (cycle : Nat) (hk₀ : Keeps w₀ s₀ u₀) :
    Keeps w₀ s₀ (ringFlit d west lane ok again acked cycle u₀) := by
  unfold ringFlit
  repeat' (first
    | with_reducible assumption
    | with_reducible apply keeps_bumpF
    | with_reducible apply keeps_modRing
    | with_reducible apply keeps_ringLane
    | with_reducible apply Keeps.ite
    | (intro _ _ _)
    | (intro _ _)
    | intro _
    | simp only [keeps_mk_iff]
    | dsimp only
    | dsimp only [id_eq]
    | split)

theorem keeps_linkLane {w₀ : Bool} {s₀ u₀ : State} (l : LinkDir) (lane : Nat) (hk₀ : Keeps w₀ s₀ u₀) :
    Keeps w₀ s₀ (linkLane l lane u₀) := by
  unfold linkLane
  repeat' (first
    | with_reducible assumption
    | with_reducible apply keeps_logEv
    | with_reducible apply keeps_setDitch
    | with_reducible apply Keeps.ite
    | (intro _ _ _)
    | (intro _ _)
    | intro _
    | simp only [keeps_mk_iff]
    | dsimp only
    | dsimp only [id_eq]
    | split)

theorem keeps_linkFlit {w₀ : Bool} {s₀ u₀ : State} (l : LinkDir) (lane : Nat) (ok : Bool) (again : Bool) (acked : Bool) (cycle : Nat) (hk₀ : Keeps w₀ s₀ u₀) :
    Keeps w₀ s₀ (linkFlit l lane ok again acked cycle u₀) := by
  unfold linkFlit
  repeat' (first
    | with_reducible assumption
    | with_reducible apply keeps_linkLane
    | with_reducible apply keeps_setDitch
    | with_reducible apply Keeps.ite
    | (intro _ _ _)
    | (intro _ _)
    | intro _
    | simp only [keeps_mk_iff]
    | dsimp only
    | dsimp only [id_eq]
    | split)

theorem keeps_flitReceive {w₀ : Bool} {s₀ u₀ : State} (l : LinkDir) (lane : Nat) (ok : Bool) (again : Bool) (acked : Bool) (cycle : Nat) (hk₀ : Keeps w₀ s₀ u₀) :
    Keeps w₀ s₀ (flitReceive l lane ok again acked cycle u₀) := by
  unfold flitReceive
  repeat' (first
    | with_reducible assumption
    | with_reducible apply keeps_linkFlit
    | with_reducible apply keeps_ringFlit
    | with_reducible apply Keeps.ite
    | (intro _ _ _)
    | (intro _ _)
    | intro _
    | simp only [keeps_mk_iff]
    | dsimp only
    | dsimp only [id_eq]
    | split)

theorem keeps_retrainDone {w₀ : Bool} {s₀ u₀ : State} (l : LinkDir) (hk₀ : Keeps w₀ s₀ u₀) :
    Keeps w₀ s₀ (retrainDone l u₀) := by
  unfold retrainDone
  repeat' (first
    | with_reducible assumption
    | with_reducible apply keeps_modRing
    | with_reducible apply keeps_setDitch
    | with_reducible apply Keeps.ite
    | (intro _ _ _)
    | (intro _ _)
    | intro _
    | simp only [keeps_mk_iff]
    | dsimp only
    | dsimp only [id_eq]
    | split)

theorem keeps_stepFault {w₀ : Bool} {s₀ u₀ : State} (k : Nat) (rec : CourseRec) (hk₀ : Keeps w₀ s₀ u₀) :
    Keeps w₀ s₀ (stepFault k rec u₀) := by
  unfold stepFault
  repeat' (first
    | with_reducible assumption
    | with_reducible apply keeps_setStepRun
    | with_reducible apply Keeps.ite
    | (intro _ _ _)
    | (intro _ _)
    | intro _
    | simp only [keeps_mk_iff]
    | dsimp only
    | dsimp only [id_eq]
    | split)

theorem keeps_noteSpill {w₀ : Bool} {s₀ u₀ : State} (rec : CourseRec) (hk₀ : Keeps w₀ s₀ u₀) :
    Keeps w₀ s₀ (noteSpill rec u₀) := by
  unfold noteSpill
  repeat' (first
    | with_reducible assumption
    | with_reducible apply keeps_setEng
    | (intro _ _ _)
    | (intro _ _)
    | intro _
    | simp only [keeps_mk_iff]
    | dsimp only
    | dsimp only [id_eq]
    | split)

theorem keeps_courseRecord {w₀ : Bool} {s₀ u₀ : State} (hk₀ : Keeps w₀ s₀ u₀) :
    Keeps w₀ s₀ (courseRecord u₀) := by
  unfold courseRecord
  repeat' (first
    | with_reducible assumption
    | with_reducible apply keeps_chargeAct
    | with_reducible apply keeps_modStream
    | with_reducible apply keeps_noteSpill
    | with_reducible apply keeps_setEng
    | with_reducible apply keeps_stepFault
    | with_reducible apply Keeps.foldl
    | with_reducible apply Keeps.foldl1
    | with_reducible apply Keeps.foldl2
    | with_reducible apply Keeps.foldl22
    | with_reducible apply Keeps.of_pair (by assumption)
    | with_reducible apply Keeps.of_triple (by assumption)
    | with_reducible apply Keeps.of_pair' (by assumption)
    | with_reducible apply Keeps.ite
    | (intro _ _ _)
    | (intro _ _)
    | intro _
    | simp only [keeps_mk_iff]
    | dsimp only
    | dsimp only [id_eq]
    | split)

theorem keeps_boundUnreadable {w₀ : Bool} {s₀ u₀ : State} (iss : Issue) (coll : Bool) (hk₀ : Keeps w₀ s₀ u₀) :
    Keeps w₀ s₀ (boundUnreadable iss coll u₀) := by
  unfold boundUnreadable
  repeat' (first
    | with_reducible assumption
    | with_reducible apply keeps_countIssue
    | with_reducible apply keeps_refuseColl
    | with_reducible apply keeps_refuseCourse
    | with_reducible apply Keeps.ite
    | (intro _ _ _)
    | (intro _ _)
    | intro _
    | simp only [keeps_mk_iff]
    | dsimp only
    | dsimp only [id_eq]
    | split)

theorem keeps_trainEnd {w₀ : Bool} {s₀ u₀ : State} (t : Training) (hk₀ : Keeps w₀ s₀ u₀) :
    Keeps w₀ s₀ (trainEnd t u₀) := by
  unfold trainEnd
  repeat' (first
    | with_reducible assumption
    | with_reducible apply keeps_mendChains
    | with_reducible apply keeps_respond
    | with_reducible apply keeps_setEng
    | (intro _ _ _)
    | (intro _ _)
    | intro _
    | simp only [keeps_mk_iff]
    | dsimp only
    | dsimp only [id_eq]
    | split)

theorem keeps_trainStep {w₀ : Bool} {s₀ u₀ : State} (src : CmdSrc) (ended : Bool) (hk₀ : Keeps w₀ s₀ u₀) :
    Keeps w₀ s₀ (trainStep src ended u₀) := by
  unfold trainStep
  repeat' (first
    | with_reducible assumption
    | with_reducible apply keeps_mendChains
    | with_reducible apply keeps_refuseCmd
    | with_reducible apply keeps_respond
    | with_reducible apply keeps_setEng
    | with_reducible apply keeps_takeCmd
    | with_reducible apply keeps_trainEnd
    | with_reducible apply Keeps.ite
    | (intro _ _ _)
    | (intro _ _)
    | intro _
    | simp only [keeps_mk_iff]
    | dsimp only
    | dsimp only [id_eq]
    | split)

end Sys2Proof.Laws
end

