-- ==== Sys2Proof/Laws/KeepsFlumeCmds.lean ====
section
/-!
SUPPORT. What the operations of Machine/FlumeCmds.lean keep (see Keeps).
-/

namespace Sys2Proof.Laws

open Sys2Proof.Machine

theorem keeps_giveUp {w₀ : Bool} {s₀ u₀ : State} (k : Nat) (hk₀ : Keeps w₀ s₀ u₀) :
    Keeps w₀ s₀ (giveUp k u₀) := by
  unfold giveUp
  repeat' (first
    | with_reducible assumption
    | with_reducible apply keepsOpt_some
    | with_reducible apply KeepsOpt.bind
    | with_reducible apply KeepsOpt.foldl
    | with_reducible apply keeps_abandonExport
    | with_reducible apply keeps_abandonImport
    | with_reducible apply keeps_modImage
    | with_reducible apply keeps_withSome
    | with_reducible apply Keeps.ite
    | (intro _ _ _)
    | (intro _ _)
    | intro _
    | simp only [keeps_mk_iff]
    | dsimp only
    | dsimp only [id_eq]
    | split)

theorem keeps_removeChan {w₀ : Bool} {s₀ u₀ : State} (k : Nat) (f : HostCmd → State → State) (h_f : ∀ (x0 : HostCmd) (x1 : State), Keeps w₀ s₀ x1 → Keeps w₀ s₀ (f x0 x1)) (hk₀ : Keeps w₀ s₀ u₀) :
    Keeps w₀ s₀ (removeChan k f u₀) := by
  unfold removeChan
  repeat' (first
    | with_reducible assumption
    | with_reducible apply h_f
    | with_reducible apply keeps_countChans
    | with_reducible apply keeps_dropChan
    | with_reducible apply keeps_giveUp
    | with_reducible apply keeps_withSome
    | (intro _ _ _)
    | (intro _ _)
    | intro _
    | simp only [keeps_mk_iff]
    | dsimp only
    | dsimp only [id_eq]
    | split)

theorem keeps_abandonChan {w₀ : Bool} {s₀ u₀ : State} (k : Nat) (hk₀ : Keeps w₀ s₀ u₀) :
    Keeps w₀ s₀ (abandonChan k u₀) := by
  unfold abandonChan
  repeat' (first
    | with_reducible assumption
    | with_reducible apply keeps_abandonLocal
    | with_reducible apply keeps_ack
    | with_reducible apply keeps_giveUp
    | with_reducible apply keeps_refuseAt
    | with_reducible apply keeps_removeChan
    | with_reducible apply keeps_sendCtl
    | with_reducible apply Keeps.ite
    | (intro _ _ _)
    | (intro _ _)
    | intro _
    | simp only [keeps_mk_iff]
    | dsimp only
    | dsimp only [id_eq]
    | split)

theorem keeps_closeCheck {w₀ : Bool} {s₀ u₀ : State} (k : Nat) (hk₀ : Keeps w₀ s₀ u₀) :
    Keeps w₀ s₀ (closeCheck k u₀) := by
  unfold closeCheck
  repeat' (first
    | with_reducible assumption
    | with_reducible apply keeps_ack
    | with_reducible apply keeps_removeChan
    | with_reducible apply keeps_sendCtl
    | with_reducible apply Keeps.ite
    | (intro _ _ _)
    | (intro _ _)
    | intro _
    | simp only [keeps_mk_iff]
    | dsimp only
    | dsimp only [id_eq]
    | split)

theorem keeps_takeStage {w₀ : Bool} {s₀ u₀ : State} (k : Nat) (h : Nat) (hk₀ : Keeps w₀ s₀ u₀) :
    Keeps w₀ s₀ (takeStage k h u₀) := by
  unfold takeStage
  repeat' (first
    | with_reducible assumption
    | with_reducible apply keeps_closeChan
    | with_reducible apply keeps_modChan
    | with_reducible apply keeps_putImage
    | with_reducible apply Keeps.ite
    | (intro _ _ _)
    | (intro _ _)
    | intro _
    | simp only [keeps_mk_iff]
    | dsimp only
    | dsimp only [id_eq]
    | split)

theorem keeps_openChannel {w₀ : Bool} {s₀ u₀ : State} (c : HostCmd) (req : List Byte) (hk₀ : Keeps w₀ s₀ u₀) :
    Keeps w₀ s₀ (openChannel c req u₀) := by
  unfold openChannel
  repeat' (first
    | with_reducible assumption
    | with_reducible apply keeps_countChans
    | with_reducible apply keeps_putChan
    | with_reducible apply keeps_refuseAt
    | with_reducible apply keeps_refuseCmd
    | with_reducible apply keeps_sendCtl
    | with_reducible apply keeps_takeStage
    | with_reducible apply Keeps.ite
    | (intro _ _ _)
    | (intro _ _)
    | intro _
    | simp only [keeps_mk_iff]
    | dsimp only
    | dsimp only [id_eq]
    | split)

theorem keeps_channelOpen {w₀ : Bool} {s₀ u₀ : State} (k : Nat) (req : List Byte) (hk₀ : Keeps w₀ s₀ u₀) :
    Keeps w₀ s₀ (channelOpen k req u₀) := by
  unfold channelOpen
  repeat' (first
    | with_reducible assumption
    | with_reducible apply keeps_openChannel
    | with_reducible apply keeps_takeCmd
    | (intro _ _ _)
    | (intro _ _)
    | intro _
    | dsimp only
    | dsimp only [id_eq]
    | split)

theorem keeps_moduleChannelOpen {w₀ : Bool} {s₀ u₀ : State} (req : List Byte) (hk₀ : Keeps w₀ s₀ u₀) :
    Keeps w₀ s₀ (moduleChannelOpen req u₀) := by
  unfold moduleChannelOpen
  repeat' (first
    | with_reducible assumption
    | with_reducible apply keeps_openChannel
    | with_reducible apply Keeps.ite
    | (intro _ _ _)
    | (intro _ _)
    | intro _
    | dsimp only
    | dsimp only [id_eq]
    | split)

theorem keeps_channelClose {w₀ : Bool} {s₀ u₀ : State} (src : CmdSrc) (hk₀ : Keeps w₀ s₀ u₀) :
    Keeps w₀ s₀ (channelClose src u₀) := by
  unfold channelClose
  repeat' (first
    | with_reducible assumption
    | with_reducible apply keeps_closeCheck
    | with_reducible apply keeps_putChan
    | with_reducible apply keeps_refuseCmd
    | with_reducible apply keeps_takeCmd
    | with_reducible apply Keeps.ite
    | (intro _ _ _)
    | (intro _ _)
    | intro _
    | simp only [keeps_mk_iff]
    | dsimp only
    | dsimp only [id_eq]
    | split)

theorem keeps_opened {w₀ : Bool} {s₀ u₀ : State} (k : Nat) (hk₀ : Keeps w₀ s₀ u₀) :
    Keeps w₀ s₀ (opened k u₀) := by
  unfold opened
  repeat' (first
    | with_reducible assumption
    | with_reducible apply keeps_pumpAll
    | with_reducible apply keeps_putChan
    | with_reducible apply keeps_respond
    | with_reducible apply keeps_withSome
    | (intro _ _ _)
    | (intro _ _)
    | intro _
    | simp only [keeps_mk_iff]
    | dsimp only
    | dsimp only [id_eq]
    | split)

theorem keeps_onOpen {w₀ : Bool} {s₀ u₀ : State} (ip : Nat) (d : Dgram) (hk₀ : Keeps w₀ s₀ u₀) :
    Keeps w₀ s₀ (onOpen ip d u₀) := by
  unfold onOpen
  repeat' (first
    | with_reducible assumption
    | with_reducible apply keeps_opened
    | with_reducible apply keeps_putChan
    | with_reducible apply keeps_sendCtl
    | with_reducible apply Keeps.ite
    | (intro _ _ _)
    | (intro _ _)
    | intro _
    | simp only [keeps_mk_iff]
    | dsimp only
    | dsimp only [id_eq]
    | split)

theorem keeps_onChan {w₀ : Bool} {s₀ u₀ : State} (d : Dgram) (f : Nat → Chan → State → State) (h_f : ∀ (x0 : Nat) (x1 : Chan) (x2 : State), Keeps w₀ s₀ x2 → Keeps w₀ s₀ (f x0 x1 x2)) (hk₀ : Keeps w₀ s₀ u₀) :
    Keeps w₀ s₀ (onChan d f u₀) := by
  unfold onChan
  repeat' (first
    | with_reducible assumption
    | with_reducible apply h_f
    | with_reducible apply Keeps.ite
    | (intro _ _ _)
    | (intro _ _)
    | intro _
    | simp only [keeps_mk_iff]
    | dsimp only
    | dsimp only [id_eq]
    | split)

theorem keeps_onOpenAck {w₀ : Bool} {s₀ u₀ : State} (d : Dgram) (hk₀ : Keeps w₀ s₀ u₀) :
    Keeps w₀ s₀ (onOpenAck d u₀) := by
  unfold onOpenAck
  repeat' (first
    | with_reducible assumption
    | with_reducible apply keeps_opened
    | with_reducible apply keeps_putChan
    | with_reducible apply Keeps.ite
    | (intro _ _ _)
    | (intro _ _)
    | intro _
    | simp only [keeps_mk_iff]
    | dsimp only
    | dsimp only [id_eq]
    | split)

theorem keeps_onClose {w₀ : Bool} {s₀ u₀ : State} (d : Dgram) (hk₀ : Keeps w₀ s₀ u₀) :
    Keeps w₀ s₀ (onClose d u₀) := by
  unfold onClose
  repeat' (first
    | with_reducible assumption
    | with_reducible apply keeps_abandonLocal
    | with_reducible apply keeps_ack
    | with_reducible apply keeps_refuseCmd
    | with_reducible apply keeps_removeChan
    | with_reducible apply Keeps.ite
    | (intro _ _ _)
    | (intro _ _)
    | intro _
    | simp only [keeps_mk_iff]
    | dsimp only
    | dsimp only [id_eq]
    | split)

theorem keeps_handOn {w₀ : Bool} {s₀ u₀ : State} (k : Nat) (hk₀ : Keeps w₀ s₀ u₀) :
    Keeps w₀ s₀ (handOn k u₀) := by
  unfold handOn
  repeat' (first
    | with_reducible assumption
    | with_reducible apply keepsOpt_some
    | with_reducible apply KeepsOpt.bind
    | with_reducible apply KeepsOpt.foldl
    | with_reducible apply keeps_chargeBytes
    | with_reducible apply keeps_dropBytes
    | with_reducible apply keeps_stageBytes
    | with_reducible apply keeps_wrMem
    | with_reducible apply Keeps.ite
    | (intro _ _ _)
    | (intro _ _)
    | intro _
    | simp only [keeps_mk_iff]
    | dsimp only
    | dsimp only [id_eq]
    | split)

theorem keeps_onBurst {w₀ : Bool} {s₀ u₀ : State} (d : Dgram) (hk₀ : Keeps w₀ s₀ u₀) :
    Keeps w₀ s₀ (onBurst d u₀) := by
  unfold onBurst
  repeat' (first
    | with_reducible assumption
    | with_reducible apply keeps_handOn
    | with_reducible apply keeps_onChan
    | with_reducible apply keeps_putChan
    | with_reducible apply keeps_sendAck
    | with_reducible apply Keeps.ite
    | (intro _ _ _)
    | (intro _ _)
    | intro _
    | dsimp only
    | dsimp only [id_eq]
    | split)

theorem keeps_onReadReq {w₀ : Bool} {s₀ u₀ : State} (d : Dgram) (hk₀ : Keeps w₀ s₀ u₀) :
    Keeps w₀ s₀ (onReadReq d u₀) := by
  unfold onReadReq
  repeat' (first
    | with_reducible assumption
    | with_reducible apply keeps_chargeBytes
    | with_reducible apply keeps_onChan
    | with_reducible apply keeps_queueBytes
    | with_reducible apply Keeps.ite
    | (intro _ _ _)
    | (intro _ _)
    | intro _
    | simp only [keeps_mk_iff]
    | dsimp only
    | dsimp only [id_eq]
    | split)

theorem keeps_onAck {w₀ : Bool} {s₀ u₀ : State} (d : Dgram) (hk₀ : Keeps w₀ s₀ u₀) :
    Keeps w₀ s₀ (onAck d u₀) := by
  unfold onAck
  repeat' (first
    | with_reducible assumption
    | with_reducible apply keeps_closeCheck
    | with_reducible apply keeps_exportAcked
    | with_reducible apply keeps_exportDone
    | with_reducible apply keeps_onChan
    | with_reducible apply keeps_takeAck
    | with_reducible apply keeps_withSome
    | with_reducible apply Keeps.of_pair (by assumption)
    | with_reducible apply Keeps.ite
    | (intro _ _ _)
    | (intro _ _)
    | intro _
    | simp only [keeps_mk_iff]
    | dsimp only
    | dsimp only [id_eq]
    | split)

theorem keeps_onNak {w₀ : Bool} {s₀ u₀ : State} (d : Dgram) (hk₀ : Keeps w₀ s₀ u₀) :
    Keeps w₀ s₀ (onNak d u₀) := by
  unfold onNak
  repeat' (first
    | with_reducible assumption
    | with_reducible apply keeps_onChan
    | with_reducible apply keeps_resend
    | with_reducible apply Keeps.foldl
    | with_reducible apply Keeps.foldl1
    | with_reducible apply Keeps.foldl2
    | with_reducible apply Keeps.foldl22
    | with_reducible apply Keeps.of_pair (by assumption)
    | with_reducible apply Keeps.of_triple (by assumption)
    | with_reducible apply Keeps.of_pair' (by assumption)
    | (intro _ _ _)
    | (intro _ _)
    | intro _
    | dsimp only
    | dsimp only [id_eq]
    | split)

theorem keeps_ackTimer {w₀ : Bool} {s₀ u₀ : State} (k : Nat) (hk₀ : Keeps w₀ s₀ u₀) :
    Keeps w₀ s₀ (ackTimer k u₀) := by
  unfold ackTimer
  repeat' (first
    | with_reducible assumption
    | with_reducible apply keeps_sendAck
    | with_reducible apply Keeps.ite
    | (intro _ _ _)
    | (intro _ _)
    | intro _
    | simp only [keeps_mk_iff]
    | dsimp only
    | dsimp only [id_eq]
    | split)

theorem keeps_retransmit {w₀ : Bool} {s₀ u₀ : State} (k : Nat) (seq : Nat) (hk₀ : Keeps w₀ s₀ u₀) :
    Keeps w₀ s₀ (retransmit k seq u₀) := by
  unfold retransmit
  repeat' (first
    | with_reducible assumption
    | with_reducible apply keeps_abandonChan
    | with_reducible apply keeps_resend
    | with_reducible apply Keeps.ite
    | (intro _ _ _)
    | (intro _ _)
    | intro _
    | simp only [keeps_mk_iff]
    | dsimp only
    | dsimp only [id_eq]
    | split)

theorem keeps_ackTimeout {w₀ : Bool} {s₀ u₀ : State} (k : Nat) (hk₀ : Keeps w₀ s₀ u₀) :
    Keeps w₀ s₀ (ackTimeout k u₀) := by
  unfold ackTimeout
  repeat' (first
    | with_reducible assumption
    | with_reducible apply keeps_abandonChan
    | with_reducible apply Keeps.ite
    | (intro _ _ _)
    | (intro _ _)
    | intro _
    | simp only [keeps_mk_iff]
    | dsimp only
    | dsimp only [id_eq]
    | split)

theorem keeps_setLink {w₀ : Bool} {s₀ u₀ : State} (p : Nat) (v : Nat) (hk₀ : Keeps w₀ s₀ u₀) :
    Keeps w₀ s₀ (setLink p v u₀) := by
  unfold setLink
  repeat' (first
    | with_reducible assumption
    | with_reducible apply keeps_irqRaise
    | with_reducible apply keeps_setF
    | (intro _ _ _)
    | (intro _ _)
    | intro _
    | dsimp only
    | dsimp only [id_eq]
    | split)

theorem keeps_linkDown {w₀ : Bool} {s₀ u₀ : State} (p : Nat) (hk₀ : Keeps w₀ s₀ u₀) :
    Keeps w₀ s₀ (linkDown p u₀) := by
  unfold linkDown
  repeat' (first
    | with_reducible assumption
    | with_reducible apply keeps_abandonChan
    | with_reducible apply keeps_setLink
    | with_reducible apply Keeps.foldl
    | with_reducible apply Keeps.foldl1
    | with_reducible apply Keeps.foldl2
    | with_reducible apply Keeps.foldl22
    | with_reducible apply Keeps.of_pair (by assumption)
    | with_reducible apply Keeps.of_triple (by assumption)
    | with_reducible apply Keeps.of_pair' (by assumption)
    | with_reducible apply Keeps.ite
    | (intro _ _ _)
    | (intro _ _)
    | intro _
    | dsimp only
    | dsimp only [id_eq]
    | split)

theorem keeps_linkUp {w₀ : Bool} {s₀ u₀ : State} (p : Nat) (hk₀ : Keeps w₀ s₀ u₀) :
    Keeps w₀ s₀ (linkUp p u₀) := by
  unfold linkUp
  repeat' (first
    | with_reducible assumption
    | with_reducible apply keeps_pumpAll
    | with_reducible apply keeps_setLink
    | with_reducible apply Keeps.foldl
    | with_reducible apply Keeps.foldl1
    | with_reducible apply Keeps.foldl2
    | with_reducible apply Keeps.foldl22
    | with_reducible apply Keeps.of_pair (by assumption)
    | with_reducible apply Keeps.of_triple (by assumption)
    | with_reducible apply Keeps.of_pair' (by assumption)
    | with_reducible apply Keeps.ite
    | (intro _ _ _)
    | (intro _ _)
    | intro _
    | dsimp only
    | dsimp only [id_eq]
    | split)

theorem keeps_adapterLoad {w₀ : Bool} {s₀ u₀ : State} (src : CmdSrc) (hk₀ : Keeps w₀ s₀ u₀) :
    Keeps w₀ s₀ (adapterLoad src u₀) := by
  unfold adapterLoad
  repeat' (first
    | with_reducible assumption
    | with_reducible apply keepsOpt_some
    | with_reducible apply KeepsOpt.bind
    | with_reducible apply KeepsOpt.foldl
    | with_reducible apply keeps_refuseCmd
    | with_reducible apply keeps_respond
    | with_reducible apply keeps_setEng
    | with_reducible apply keeps_takeCmd
    | with_reducible apply Keeps.ite
    | (intro _ _ _)
    | (intro _ _)
    | intro _
    | simp only [keeps_mk_iff]
    | dsimp only
    | dsimp only [id_eq]
    | split)

theorem keeps_adapterRelease {w₀ : Bool} {s₀ u₀ : State} (src : CmdSrc) (hk₀ : Keeps w₀ s₀ u₀) :
    Keeps w₀ s₀ (adapterRelease src u₀) := by
  unfold adapterRelease
  repeat' (first
    | with_reducible assumption
    | with_reducible apply keeps_ack
    | with_reducible apply keeps_refuseCmd
    | with_reducible apply keeps_setEng
    | with_reducible apply keeps_takeCmd
    | with_reducible apply Keeps.ite
    | (intro _ _ _)
    | (intro _ _)
    | intro _
    | simp only [keeps_mk_iff]
    | dsimp only
    | dsimp only [id_eq]
    | split)

theorem keeps_hostReadTimeout {w₀ : Bool} {s₀ u₀ : State} (r : HostRead) (hk₀ : Keeps w₀ s₀ u₀) :
    Keeps w₀ s₀ (hostReadTimeout r u₀) := by
  unfold hostReadTimeout
  repeat' (first
    | with_reducible assumption
    | with_reducible apply keeps_emit
    | with_reducible apply keeps_promptFailed
    | with_reducible apply keeps_refuseCmd
    | with_reducible apply keeps_takeCmd
    | with_reducible apply Keeps.ite
    | (intro _ _ _)
    | (intro _ _)
    | intro _
    | simp only [keeps_mk_iff]
    | dsimp only
    | dsimp only [id_eq]
    | split)

end Sys2Proof.Laws
end

