-- ==== Sys2Proof/Laws/KeepsReport.lean ====
section
/-!
SUPPORT. What the operations of Machine/Report.lean keep (see Keeps).
-/

namespace Sys2Proof.Laws

open Sys2Proof.Machine

theorem keeps_telemetry {w₀ : Bool} {s₀ u₀ : State} (src : CmdSrc) (hk₀ : Keeps w₀ s₀ u₀) :
    Keeps w₀ s₀ (telemetry src u₀) := by
  unfold telemetry
  repeat' (first
    | with_reducible assumption
    | with_reducible apply keeps_chargeBytes
    | with_reducible apply keeps_emit
    | with_reducible apply keeps_respond
    | with_reducible apply keeps_takeCmd
    | with_reducible apply Keeps.ite
    | (intro _ _ _)
    | (intro _ _)
    | intro _
    | simp only [keeps_mk_iff]
    | dsimp only
    | dsimp only [id_eq]
    | split)

theorem keeps_mctpControl {w₀ : Bool} {s₀ u₀ : State} (m : MctpMsg) (hk₀ : Keeps w₀ s₀ u₀) :
    Keeps w₀ s₀ (mctpControl m u₀) := by
  unfold mctpControl
  repeat' (first
    | with_reducible assumption
    | with_reducible apply keeps_emit
    | with_reducible apply Keeps.ite
    | (intro _ _ _)
    | (intro _ _)
    | intro _
    | simp only [keeps_mk_iff]
    | dsimp only
    | dsimp only [id_eq]
    | split)

theorem keeps_sensorRead {w₀ : Bool} {s₀ u₀ : State} (x : Sensor) (hk₀ : Keeps w₀ s₀ u₀) :
    Keeps w₀ s₀ (sensorRead x u₀) := by
  unfold sensorRead
  repeat' (first
    | with_reducible assumption
    | with_reducible apply keeps_emit
    | with_reducible apply keeps_idleExit
    | with_reducible apply Keeps.ite
    | (intro _ _ _)
    | (intro _ _)
    | intro _
    | dsimp only
    | dsimp only [id_eq]
    | split)

theorem keeps_logRead {w₀ : Bool} {s₀ u₀ : State} (seq : Nat) (n : Nat) (hk₀ : Keeps w₀ s₀ u₀) :
    Keeps w₀ s₀ (logRead seq n u₀) := by
  unfold logRead
  repeat' (first
    | with_reducible assumption
    | with_reducible apply keeps_emit
    | with_reducible apply Keeps.ite
    | (intro _ _ _)
    | (intro _ _)
    | intro _
    | dsimp only
    | dsimp only [id_eq]
    | split)

end Sys2Proof.Laws
end

