-- ==== Sys2Proof/Laws/KeepsSecurity.lean ====
section
/-!
SUPPORT. What the operations of Machine/Security.lean keep (see Keeps).
-/

namespace Sys2Proof.Laws

open Sys2Proof.Machine

theorem keeps_setConn {w₀ : Bool} {s₀ u₀ : State} (c : Nat) (v : SpdmConn) (hk₀ : Keeps w₀ s₀ u₀) :
    Keeps w₀ s₀ (setConn c v u₀) := by
  unfold setConn
  repeat' (first
    | with_reducible assumption
    | with_reducible apply keeps_setTrust
    | (intro _ _ _)
    | (intro _ _)
    | intro _
    | simp only [keeps_mk_iff]
    | dsimp only
    | dsimp only [id_eq]
    | split)

theorem keeps_spdmError {w₀ : Bool} {s₀ u₀ : State} (c : Nat) (req : Nat) (r : SpdmRes) (hk₀ : Keeps w₀ s₀ u₀) :
    Keeps w₀ s₀ (spdmError c req r u₀) := by
  unfold spdmError
  repeat' (first
    | with_reducible assumption
    | with_reducible apply keeps_emit
    | with_reducible apply keeps_setConn
    | (intro _ _ _)
    | (intro _ _)
    | intro _
    | simp only [keeps_mk_iff]
    | dsimp only
    | dsimp only [id_eq]
    | split)

theorem keeps_spdmReply {w₀ : Bool} {s₀ u₀ : State} (c : Nat) (req : Nat) (msg : List Byte) (body : List Byte) (f : SpdmConn → SpdmConn) (hk₀ : Keeps w₀ s₀ u₀) :
    Keeps w₀ s₀ (spdmReply c req msg body f u₀) := by
  unfold spdmReply
  repeat' (first
    | with_reducible assumption
    | with_reducible apply keeps_emit
    | with_reducible apply keeps_setConn
    | (intro _ _ _)
    | (intro _ _)
    | intro _
    | simp only [keeps_mk_iff]
    | dsimp only
    | dsimp only [id_eq]
    | split)

theorem keeps_spdmFresh {w₀ : Bool} {s₀ u₀ : State} (req : Nat) (msg : List Byte) (hk₀ : Keeps w₀ s₀ u₀) :
    Keeps w₀ s₀ (spdmFresh req msg u₀).2 := by
  unfold spdmFresh
  repeat' (first
    | with_reducible assumption
    | with_reducible apply keeps_nextFree
    | with_reducible apply Keeps.of_pair (by assumption)
    | (intro _ _ _)
    | (intro _ _)
    | intro _
    | dsimp only
    | dsimp only [id_eq]
    | split)

theorem keeps_spdmReq {w₀ : Bool} {s₀ u₀ : State} (p : SpdmPort) (req : Nat) (stage : Nat) (ok : SpdmConn → Bool) (f : Nat → State → State) (h_f : ∀ (x0 : Nat) (x1 : State), Keeps w₀ s₀ x1 → Keeps w₀ s₀ (f x0 x1)) (hk₀ : Keeps w₀ s₀ u₀) :
    Keeps w₀ s₀ (spdmReq p req stage ok f u₀) := by
  unfold spdmReq
  repeat' (first
    | with_reducible assumption
    | with_reducible apply h_f
    | with_reducible apply keeps_spdmError
    | with_reducible apply Keeps.ite
    | (intro _ _ _)
    | (intro _ _)
    | intro _
    | dsimp only
    | dsimp only [id_eq]
    | split)

theorem keeps_spdmPlain {w₀ : Bool} {s₀ u₀ : State} (p : SpdmPort) (req : Nat) (stage : Nat) (msg : List Byte) (ok : SpdmConn → Bool) (f : SpdmConn → SpdmConn) (hk₀ : Keeps w₀ s₀ u₀) :
    Keeps w₀ s₀ (spdmPlain p req stage msg ok f u₀) := by
  unfold spdmPlain
  repeat' (first
    | with_reducible assumption
    | with_reducible apply keeps_spdmFresh
    | with_reducible apply keeps_spdmReply
    | with_reducible apply keeps_spdmReq
    | with_reducible apply Keeps.of_pair (by assumption)
    | (intro _ _ _)
    | (intro _ _)
    | intro _
    | dsimp only
    | dsimp only [id_eq]
    | split)

theorem keeps_getVersion {w₀ : Bool} {s₀ u₀ : State} (p : SpdmPort) (msg : List Byte) (hk₀ : Keeps w₀ s₀ u₀) :
    Keeps w₀ s₀ (getVersion p msg u₀) := by
  unfold getVersion
  repeat' (first
    | with_reducible assumption
    | with_reducible apply keeps_setConn
    | with_reducible apply keeps_spdmFresh
    | with_reducible apply keeps_spdmReply
    | with_reducible apply keeps_spdmReq
    | with_reducible apply Keeps.of_pair (by assumption)
    | (intro _ _ _)
    | (intro _ _)
    | intro _
    | simp only [keeps_mk_iff]
    | dsimp only
    | dsimp only [id_eq]
    | split)

theorem keeps_getDigests {w₀ : Bool} {s₀ u₀ : State} (p : SpdmPort) (msg : List Byte) (hk₀ : Keeps w₀ s₀ u₀) :
    Keeps w₀ s₀ (getDigests p msg u₀) := by
  unfold getDigests
  repeat' (first
    | with_reducible assumption
    | with_reducible apply keeps_spdmReply
    | with_reducible apply keeps_spdmReq
    | (intro _ _ _)
    | (intro _ _)
    | intro _
    | dsimp only
    | dsimp only [id_eq]
    | split)

theorem keeps_getCertificate {w₀ : Bool} {s₀ u₀ : State} (p : SpdmPort) (msg : List Byte) (slot : Nat) (hk₀ : Keeps w₀ s₀ u₀) :
    Keeps w₀ s₀ (getCertificate p msg slot u₀) := by
  unfold getCertificate
  repeat' (first
    | with_reducible assumption
    | with_reducible apply keeps_spdmError
    | with_reducible apply keeps_spdmReply
    | with_reducible apply keeps_spdmReq
    | with_reducible apply Keeps.ite
    | (intro _ _ _)
    | (intro _ _)
    | intro _
    | dsimp only
    | dsimp only [id_eq]
    | split)

theorem keeps_spdmSigned {w₀ : Bool} {s₀ u₀ : State} (c : Nat) (req : Nat) (msg : List Byte) (body : List Byte) (f : SpdmConn → SpdmConn) (hk₀ : Keeps w₀ s₀ u₀) :
    Keeps w₀ s₀ (spdmSigned c req msg body f u₀) := by
  unfold spdmSigned
  repeat' (first
    | with_reducible assumption
    | with_reducible apply keeps_nextFree
    | with_reducible apply keeps_spdmReply
    | with_reducible apply Keeps.of_pair (by assumption)
    | (intro _ _ _)
    | (intro _ _)
    | intro _
    | simp only [keeps_mk_iff]
    | dsimp only
    | dsimp only [id_eq]
    | split)

theorem keeps_needAlias {w₀ : Bool} {s₀ u₀ : State} (p : SpdmPort) (req : Nat) (f : Nat → State → State) (h_f : ∀ (x0 : Nat) (x1 : State), Keeps w₀ s₀ x1 → Keeps w₀ s₀ (f x0 x1)) (hk₀ : Keeps w₀ s₀ u₀) :
    Keeps w₀ s₀ (needAlias p req f u₀) := by
  unfold needAlias
  repeat' (first
    | with_reducible assumption
    | with_reducible apply h_f
    | with_reducible apply keeps_spdmError
    | with_reducible apply keeps_spdmReq
    | with_reducible apply Keeps.ite
    | (intro _ _ _)
    | (intro _ _)
    | intro _
    | dsimp only
    | dsimp only [id_eq]
    | split)

theorem keeps_challenge {w₀ : Bool} {s₀ u₀ : State} (p : SpdmPort) (msg : List Byte) (hk₀ : Keeps w₀ s₀ u₀) :
    Keeps w₀ s₀ (challenge p msg u₀) := by
  unfold challenge
  repeat' (first
    | with_reducible assumption
    | with_reducible apply keeps_needAlias
    | with_reducible apply keeps_spdmFresh
    | with_reducible apply keeps_spdmSigned
    | with_reducible apply Keeps.of_pair (by assumption)
    | (intro _ _ _)
    | (intro _ _)
    | intro _
    | dsimp only
    | dsimp only [id_eq]
    | split)

theorem keeps_getMeasurements {w₀ : Bool} {s₀ u₀ : State} (p : SpdmPort) (msg : List Byte) (index : Option Nat) (signed : Bool) (hk₀ : Keeps w₀ s₀ u₀) :
    Keeps w₀ s₀ (getMeasurements p msg index signed u₀) := by
  unfold getMeasurements
  repeat' (first
    | with_reducible assumption
    | with_reducible apply keeps_needAlias
    | with_reducible apply keeps_spdmError
    | with_reducible apply keeps_spdmReply
    | with_reducible apply keeps_spdmReq
    | with_reducible apply keeps_spdmSigned
    | with_reducible apply Keeps.ite
    | (intro _ _ _)
    | (intro _ _)
    | intro _
    | dsimp only
    | dsimp only [id_eq]
    | split)

theorem keeps_keyExchange {w₀ : Bool} {s₀ u₀ : State} (p : SpdmPort) (msg : List Byte) (hk₀ : Keeps w₀ s₀ u₀) :
    Keeps w₀ s₀ (keyExchange p msg u₀) := by
  unfold keyExchange
  repeat' (first
    | with_reducible assumption
    | with_reducible apply keeps_needAlias
    | with_reducible apply keeps_nextFree
    | with_reducible apply keeps_spdmFresh
    | with_reducible apply keeps_spdmReply
    | with_reducible apply Keeps.of_pair (by assumption)
    | (intro _ _ _)
    | (intro _ _)
    | intro _
    | simp only [keeps_mk_iff]
    | dsimp only
    | dsimp only [id_eq]
    | split)

theorem keeps_hssChain {w₀ : Bool} {s₀ u₀ : State} (p : SpdmPort) (msg : List Byte) (hk₀ : Keeps w₀ s₀ u₀) :
    Keeps w₀ s₀ (hssChain p msg u₀) := by
  unfold hssChain
  repeat' (first
    | with_reducible assumption
    | with_reducible apply keeps_needAlias
    | with_reducible apply keeps_spdmReply
    | (intro _ _ _)
    | (intro _ _)
    | intro _
    | dsimp only
    | dsimp only [id_eq]
    | split)

theorem keeps_reserveAlias {w₀ : Bool} {s₀ u₀ : State} (ws : List (Bool × Bool)) (hk₀ : Keeps w₀ s₀ u₀) :
    Keeps w₀ s₀ (reserveAlias ws u₀).2 := by
  unfold reserveAlias
  repeat' (first
    | with_reducible assumption
    | with_reducible apply keeps_journalTry
    | with_reducible apply keeps_setTrust
    | with_reducible apply Keeps.of_pair (by assumption)
    | with_reducible apply Keeps.ite
    | (intro _ _ _)
    | (intro _ _)
    | intro _
    | simp only [keeps_mk_iff]
    | dsimp only
    | dsimp only [id_eq]
    | split)

theorem keeps_hssSign {w₀ : Bool} {s₀ u₀ : State} (p : SpdmPort) (msg : List Byte) (ws : List (Bool × Bool)) (hk₀ : Keeps w₀ s₀ u₀) :
    Keeps w₀ s₀ (hssSign p msg ws u₀) := by
  unfold hssSign
  repeat' (first
    | with_reducible assumption
    | with_reducible apply keeps_keysLowCheck
    | with_reducible apply keeps_nextFree
    | with_reducible apply keeps_reserveAlias
    | with_reducible apply keeps_setTrust
    | with_reducible apply keeps_spdmError
    | with_reducible apply keeps_spdmReply
    | with_reducible apply keeps_spdmReq
    | with_reducible apply Keeps.of_pair (by assumption)
    | with_reducible apply Keeps.ite
    | (intro _ _ _)
    | (intro _ _)
    | intro _
    | simp only [keeps_mk_iff]
    | dsimp only
    | dsimp only [id_eq]
    | split)

theorem keeps_aliasBuilt {w₀ : Bool} {s₀ u₀ : State} (hk₀ : Keeps w₀ s₀ u₀) :
    Keeps w₀ s₀ (aliasBuilt u₀) := by
  unfold aliasBuilt
  repeat' (first
    | with_reducible assumption
    | with_reducible apply keeps_setTrust
    | with_reducible apply Keeps.ite
    | (intro _ _ _)
    | (intro _ _)
    | intro _
    | simp only [keeps_mk_iff]
    | dsimp only
    | dsimp only [id_eq]
    | split)

theorem keeps_modIde {w₀ : Bool} {s₀ u₀ : State} (h : Nat) (k : Nat) (f : IdeStream → IdeStream) (hk₀ : Keeps w₀ s₀ u₀) :
    Keeps w₀ s₀ (modIde h k f u₀) := by
  unfold modIde
  repeat' (first
    | with_reducible assumption
    | (intro _ _ _)
    | (intro _ _)
    | intro _
    | simp only [keeps_mk_iff]
    | dsimp only
    | dsimp only [id_eq]
    | split)

theorem keeps_servePort {w₀ : Bool} {s₀ u₀ : State} (h : Nat) (hk₀ : Keeps w₀ s₀ u₀) :
    Keeps w₀ s₀ (servePort h u₀) := by
  unfold servePort
  repeat' (first
    | with_reducible assumption
    | with_reducible apply keeps_flushBuf
    | with_reducible apply keeps_serveQP
    | with_reducible apply Keeps.foldl
    | with_reducible apply Keeps.foldl1
    | with_reducible apply Keeps.foldl2
    | with_reducible apply Keeps.foldl22
    | with_reducible apply Keeps.of_pair (by assumption)
    | with_reducible apply Keeps.of_triple (by assumption)
    | with_reducible apply Keeps.of_pair' (by assumption)
    | (intro _ _ _)
    | (intro _ _)
    | intro _
    | dsimp only
    | dsimp only [id_eq]
    | split)

theorem keeps_ideKeys {w₀ : Bool} {s₀ u₀ : State} (h : Nat) (k : Nat) (msg : IdeMsg) (hk₀ : Keeps w₀ s₀ u₀) :
    Keeps w₀ s₀ (ideKeys h k msg u₀) := by
  unfold ideKeys
  repeat' (first
    | with_reducible assumption
    | with_reducible apply keeps_modIde
    | with_reducible apply keeps_servePort
    | with_reducible apply Keeps.ite
    | (intro _ _ _)
    | (intro _ _)
    | intro _
    | simp only [keeps_mk_iff]
    | dsimp only
    | dsimp only [id_eq]
    | split)

theorem keeps_freezeNow {w₀ : Bool} {s₀ u₀ : State} (hk₀ : Keeps w₀ s₀ u₀) :
    Keeps w₀ s₀ (freezeNow u₀) := by
  unfold freezeNow
  repeat' (first
    | with_reducible assumption
    | with_reducible apply keeps_regSet
    | with_reducible apply keeps_setF
    | with_reducible apply Keeps.ite
    | (intro _ _ _)
    | (intro _ _)
    | intro _
    | simp only [keeps_mk_iff]
    | dsimp only
    | dsimp only [id_eq]
    | split)

theorem keeps_freezeCapture {w₀ : Bool} {s₀ u₀ : State} (pin : Bool) (hk₀ : Keeps w₀ s₀ u₀) :
    Keeps w₀ s₀ (freezeCapture pin u₀) := by
  unfold freezeCapture
  repeat' (first
    | with_reducible assumption
    | with_reducible apply keeps_freezeNow
    | with_reducible apply keeps_setF
    | with_reducible apply Keeps.ite
    | (intro _ _ _)
    | (intro _ _)
    | intro _
    | simp only [keeps_mk_iff]
    | dsimp only
    | dsimp only [id_eq]
    | split)

theorem keeps_hbmFreezeStop {w₀ : Bool} {s₀ u₀ : State} (hk₀ : Keeps w₀ s₀ u₀) :
    Keeps w₀ s₀ (hbmFreezeStop u₀) := by
  unfold hbmFreezeStop
  repeat' (first
    | with_reducible assumption
    | with_reducible apply Keeps.ite
    | (intro _ _ _)
    | (intro _ _)
    | intro _
    | simp only [keeps_mk_iff]
    | dsimp only
    | dsimp only [id_eq]
    | split)

theorem keeps_startThaw {w₀ : Bool} {s₀ u₀ : State} (hk₀ : Keeps w₀ s₀ u₀) :
    Keeps w₀ s₀ (startThaw u₀) := by
  unfold startThaw
  repeat' (first
    | with_reducible assumption
    | with_reducible apply Keeps.ite
    | (intro _ _ _)
    | (intro _ _)
    | intro _
    | simp only [keeps_mk_iff]
    | dsimp only
    | dsimp only [id_eq]
    | split)

theorem keeps_thaw {w₀ : Bool} {s₀ u₀ : State} (hk₀ : Keeps w₀ s₀ u₀) :
    Keeps w₀ s₀ (thaw u₀) := by
  unfold thaw
  repeat' (first
    | with_reducible assumption
    | with_reducible apply keeps_setF
    | with_reducible apply keeps_startThaw
    | (intro _ _ _)
    | (intro _ _)
    | intro _
    | simp only [keeps_mk_iff]
    | dsimp only
    | dsimp only [id_eq]
    | split)

theorem keeps_freezeRelease {w₀ : Bool} {s₀ u₀ : State} (hk₀ : Keeps w₀ s₀ u₀) :
    Keeps w₀ s₀ (freezeRelease u₀) := by
  unfold freezeRelease
  repeat' (first
    | with_reducible assumption
    | with_reducible apply keeps_setF
    | with_reducible apply keeps_startThaw
    | with_reducible apply Keeps.ite
    | (intro _ _ _)
    | (intro _ _)
    | intro _
    | dsimp only
    | dsimp only [id_eq]
    | split)

theorem keeps_clocksRun {w₀ : Bool} {s₀ u₀ : State} (hk₀ : Keeps w₀ s₀ u₀) :
    Keeps w₀ s₀ (clocksRun u₀) := by
  unfold clocksRun
  repeat' (first
    | with_reducible assumption
    | with_reducible apply keeps_setF
    | with_reducible apply keeps_trickleEnter
    | with_reducible apply keeps_trustEvent
    | with_reducible apply Keeps.foldl
    | with_reducible apply Keeps.foldl1
    | with_reducible apply Keeps.foldl2
    | with_reducible apply Keeps.foldl22
    | with_reducible apply Keeps.of_pair (by assumption)
    | with_reducible apply Keeps.of_triple (by assumption)
    | with_reducible apply Keeps.of_pair' (by assumption)
    | with_reducible apply Keeps.ite
    | (intro _ _ _)
    | (intro _ _)
    | intro _
    | simp only [keeps_mk_iff]
    | dsimp only
    | dsimp only [id_eq]
    | split)

theorem keeps_retrainRing {w₀ : Bool} {s₀ u₀ : State} (hk₀ : Keeps w₀ s₀ u₀) :
    Keeps w₀ s₀ (retrainRing u₀) := by
  unfold retrainRing
  repeat' (first
    | with_reducible assumption
    | with_reducible apply keeps_setF
    | with_reducible apply keeps_trickleEnter
    | with_reducible apply keeps_trustEvent
    | with_reducible apply Keeps.foldl
    | with_reducible apply Keeps.foldl1
    | with_reducible apply Keeps.foldl2
    | with_reducible apply Keeps.foldl22
    | with_reducible apply Keeps.of_pair (by assumption)
    | with_reducible apply Keeps.of_triple (by assumption)
    | with_reducible apply Keeps.of_pair' (by assumption)
    | with_reducible apply Keeps.ite
    | (intro _ _ _)
    | (intro _ _)
    | intro _
    | simp only [keeps_mk_iff]
    | dsimp only
    | dsimp only [id_eq]
    | split)

theorem keeps_latchedAlerts {w₀ : Bool} {s₀ u₀ : State} (hk₀ : Keeps w₀ s₀ u₀) :
    Keeps w₀ s₀ (latchedAlerts u₀) := by
  unfold latchedAlerts
  repeat' (first
    | with_reducible assumption
    | with_reducible apply keeps_setF
    | with_reducible apply keeps_trickleEnter
    | with_reducible apply keeps_trustEvent
    | with_reducible apply Keeps.foldl
    | with_reducible apply Keeps.foldl1
    | with_reducible apply Keeps.foldl2
    | with_reducible apply Keeps.foldl22
    | with_reducible apply Keeps.of_pair (by assumption)
    | with_reducible apply Keeps.of_triple (by assumption)
    | with_reducible apply Keeps.of_pair' (by assumption)
    | with_reducible apply Keeps.ite
    | (intro _ _ _)
    | (intro _ _)
    | intro _
    | simp only [keeps_mk_iff]
    | dsimp only
    | dsimp only [id_eq]
    | split)

theorem keeps_thawClock {w₀ : Bool} {s₀ u₀ : State} (hk₀ : Keeps w₀ s₀ u₀) :
    Keeps w₀ s₀ (thawClock u₀) := by
  unfold thawClock
  repeat' (first
    | with_reducible assumption
    | with_reducible apply keeps_whenB
    | with_reducible apply keeps_showCap
    | with_reducible apply keeps_latchedAlerts
    | with_reducible apply keeps_retrainRing
    | with_reducible apply keeps_clocksRun
    | with_reducible apply Keeps.ite
    | intro _)

theorem keeps_getNonce {w₀ : Bool} {s₀ u₀ : State} (hk₀ : Keeps w₀ s₀ u₀) :
    Keeps w₀ s₀ (getNonce u₀) := by
  unfold getNonce
  repeat' (first
    | with_reducible assumption
    | with_reducible apply keeps_emit
    | with_reducible apply keeps_nextFree
    | with_reducible apply keeps_setTrust
    | with_reducible apply Keeps.of_pair (by assumption)
    | with_reducible apply Keeps.ite
    | (intro _ _ _)
    | (intro _ _)
    | intro _
    | simp only [keeps_mk_iff]
    | dsimp only
    | dsimp only [id_eq]
    | split)

theorem keeps_nonceExpire {w₀ : Bool} {s₀ u₀ : State} (hk₀ : Keeps w₀ s₀ u₀) :
    Keeps w₀ s₀ (nonceExpire u₀) := by
  unfold nonceExpire
  repeat' (first
    | with_reducible assumption
    | with_reducible apply keeps_setTrust
    | with_reducible apply Keeps.ite
    | (intro _ _ _)
    | (intro _ _)
    | intro _
    | simp only [keeps_mk_iff]
    | dsimp only
    | dsimp only [id_eq]
    | split)

theorem keeps_useNonce {w₀ : Bool} {s₀ u₀ : State} (b : List Byte) (hk₀ : Keeps w₀ s₀ u₀) :
    Keeps w₀ s₀ (useNonce b u₀) := by
  unfold useNonce
  repeat' (first
    | with_reducible assumption
    | with_reducible apply keeps_setTrust
    | with_reducible apply Keeps.ite
    | (intro _ _ _)
    | (intro _ _)
    | intro _
    | simp only [keeps_mk_iff]
    | dsimp only
    | dsimp only [id_eq]
    | split)

theorem keeps_token {w₀ : Bool} {s₀ u₀ : State} (kind : Nat) (permit : State → Bool) (act : State → State) (b : List Byte) (h_act : ∀ (x0 : State), Keeps w₀ s₀ x0 → Keeps w₀ s₀ (act x0)) (hk₀ : Keeps w₀ s₀ u₀) :
    Keeps w₀ s₀ (token kind permit act b u₀) := by
  unfold token
  repeat' (first
    | with_reducible assumption
    | with_reducible apply h_act
    | with_reducible apply keeps_emit
    | with_reducible apply keeps_trustEvent
    | with_reducible apply keeps_useNonce
    | with_reducible apply Keeps.ite
    | (intro _ _ _)
    | (intro _ _)
    | intro _
    | dsimp only
    | dsimp only [id_eq]
    | split)

theorem keeps_freezeToken {w₀ : Bool} {s₀ u₀ : State} (b : List Byte) (hk₀ : Keeps w₀ s₀ u₀) :
    Keeps w₀ s₀ (freezeToken b u₀) := by
  unfold freezeToken
  repeat' (first
    | with_reducible assumption
    | with_reducible apply keeps_freezeNow
    | with_reducible apply keeps_setF
    | with_reducible apply keeps_token
    | (intro _ _ _)
    | (intro _ _)
    | intro _
    | dsimp only
    | dsimp only [id_eq]
    | split)

theorem keeps_readoutToken {w₀ : Bool} {s₀ u₀ : State} (b : List Byte) (hk₀ : Keeps w₀ s₀ u₀) :
    Keeps w₀ s₀ (readoutToken b u₀) := by
  unfold readoutToken
  repeat' (first
    | with_reducible assumption
    | with_reducible apply keeps_token
    | with_reducible apply Keeps.ite
    | (intro _ _ _)
    | (intro _ _)
    | intro _
    | simp only [keeps_mk_iff]
    | dsimp only
    | dsimp only [id_eq]
    | split)

theorem keeps_fullDebugToken {w₀ : Bool} {s₀ u₀ : State} (b : List Byte) (hk₀ : Keeps w₀ s₀ u₀) :
    Keeps w₀ s₀ (fullDebugToken b u₀) := by
  unfold fullDebugToken
  repeat' (first
    | with_reducible assumption
    | with_reducible apply keeps_token
    | (intro _ _ _)
    | (intro _ _)
    | intro _
    | simp only [keeps_mk_iff]
    | dsimp only
    | dsimp only [id_eq]
    | split)

theorem keeps_ownerToken {w₀ : Bool} {s₀ u₀ : State} (b : List Byte) (hk₀ : Keeps w₀ s₀ u₀) :
    Keeps w₀ s₀ (ownerToken b u₀) := by
  unfold ownerToken
  repeat' (first
    | with_reducible assumption
    | with_reducible apply keeps_setF
    | with_reducible apply keeps_setTrust
    | with_reducible apply keeps_token
    | with_reducible apply keeps_trustEvent
    | (intro _ _ _)
    | (intro _ _)
    | intro _
    | simp only [keeps_mk_iff]
    | dsimp only
    | dsimp only [id_eq]
    | split)

theorem keeps_blow {w₀ : Bool} {s₀ u₀ : State} (f : Fld) (v : Nat) (hk₀ : Keeps w₀ s₀ u₀) :
    Keeps w₀ s₀ (blow f v u₀) := by
  unfold blow
  repeat' (first
    | with_reducible assumption
    | with_reducible apply keeps_setF
    | (intro _ _ _)
    | (intro _ _)
    | intro _
    | dsimp only
    | dsimp only [id_eq]
    | split)

theorem keeps_restricted {w₀ : Bool} {s₀ u₀ : State} (hk₀ : Keeps w₀ s₀ u₀) :
    Keeps w₀ s₀ (restricted u₀) := by
  unfold restricted
  repeat' (first
    | with_reducible assumption
    | with_reducible apply keeps_portReset
    | with_reducible apply keeps_setF
    | with_reducible apply keeps_startThaw
    | with_reducible apply Keeps.foldl
    | with_reducible apply Keeps.foldl1
    | with_reducible apply Keeps.foldl2
    | with_reducible apply Keeps.foldl22
    | with_reducible apply Keeps.of_pair (by assumption)
    | with_reducible apply Keeps.of_triple (by assumption)
    | with_reducible apply Keeps.of_pair' (by assumption)
    | with_reducible apply Keeps.ite
    | (intro _ _ _)
    | (intro _ _)
    | intro _
    | dsimp only
    | dsimp only [id_eq]
    | split)

theorem keeps_restrictionToken {w₀ : Bool} {s₀ u₀ : State} (b : List Byte) (hk₀ : Keeps w₀ s₀ u₀) :
    Keeps w₀ s₀ (restrictionToken b u₀) := by
  unfold restrictionToken
  repeat' (first
    | with_reducible assumption
    | with_reducible apply keeps_blow
    | with_reducible apply keeps_restricted
    | with_reducible apply keeps_token
    | (intro _ _ _)
    | (intro _ _)
    | intro _
    | dsimp only
    | dsimp only [id_eq]
    | split)

theorem keeps_returnToken {w₀ : Bool} {s₀ u₀ : State} (b : List Byte) (hk₀ : Keeps w₀ s₀ u₀) :
    Keeps w₀ s₀ (returnToken b u₀) := by
  unfold returnToken
  repeat' (first
    | with_reducible assumption
    | with_reducible apply keeps_refreshClosed
    | with_reducible apply keeps_releaseImage
    | with_reducible apply keeps_retCheck
    | with_reducible apply keeps_setTrust
    | with_reducible apply keeps_token
    | with_reducible apply Keeps.foldl
    | with_reducible apply Keeps.foldl1
    | with_reducible apply Keeps.foldl2
    | with_reducible apply Keeps.foldl22
    | with_reducible apply Keeps.of_pair (by assumption)
    | with_reducible apply Keeps.of_triple (by assumption)
    | with_reducible apply Keeps.of_pair' (by assumption)
    | (intro _ _ _)
    | (intro _ _)
    | intro _
    | simp only [keeps_mk_iff]
    | dsimp only
    | dsimp only [id_eq]
    | split)

end Sys2Proof.Laws
end

