-- ==== Sys2Proof/Laws/KeepsReliability.lean ====
section
/-!
SUPPORT. What the operations of Machine/Reliability.lean keep (see Keeps).
-/

namespace Sys2Proof.Laws

open Sys2Proof.Machine

theorem keeps_setRely {w₀ : Bool} {s₀ u₀ : State} (f : Rely → Rely) (hk₀ : Keeps w₀ s₀ u₀) :
    Keeps w₀ s₀ (setRely f u₀) := by
  unfold setRely
  repeat' (first
    | with_reducible assumption
    | (intro _ _ _)
    | (intro _ _)
    | intro _
    | simp only [keeps_mk_iff]
    | dsimp only
    | dsimp only [id_eq]
    | split)

theorem keeps_parityError {w₀ : Bool} {s₀ u₀ : State} (g : Nat) (stamps : Acre → List Nat) (put : List Nat → Acre → Acre) (again : Bool) (cycle : Nat) (repeat_ : State → State) (h_repeat_ : ∀ (x0 : State), Keeps w₀ s₀ x0 → Keeps w₀ s₀ (repeat_ x0)) (hk₀ : Keeps w₀ s₀ u₀) :
    Keeps w₀ s₀ (parityError g stamps put again cycle repeat_ u₀) := by
  unfold parityError
  repeat' (first
    | with_reducible assumption
    | with_reducible apply h_repeat_
    | with_reducible apply keeps_modAcre
    | with_reducible apply keeps_replaceAcre
    | with_reducible apply Keeps.ite
    | (intro _ _ _)
    | (intro _ _)
    | intro _
    | dsimp only
    | dsimp only [id_eq]
    | split)

theorem keeps_lateralParity {w₀ : Bool} {s₀ u₀ : State} (g : Nat) (again : Bool) (cycle : Nat) (hk₀ : Keeps w₀ s₀ u₀) :
    Keeps w₀ s₀ (lateralParity g again cycle u₀) := by
  unfold lateralParity
  repeat' (first
    | with_reducible assumption
    | with_reducible apply keeps_parityError
    | (intro _ _ _)
    | (intro _ _)
    | intro _
    | simp only [keeps_mk_iff]
    | dsimp only
    | dsimp only [id_eq]
    | split)

theorem keeps_refill {w₀ : Bool} {s₀ u₀ : State} (g : Nat) (f : Nat) (e : Nat) (hk₀ : Keeps w₀ s₀ u₀) :
    Keeps w₀ s₀ (refill g f e u₀) := by
  unfold refill
  repeat' (first
    | with_reducible assumption
    | with_reducible apply keeps_modRun
    | with_reducible apply keeps_setAcre
    | with_reducible apply keeps_startPreload
    | (intro _ _ _)
    | (intro _ _)
    | intro _
    | simp only [keeps_mk_iff]
    | dsimp only
    | dsimp only [id_eq]
    | split)

theorem keeps_accParity {w₀ : Bool} {s₀ u₀ : State} (g : Nat) (b : Bool) (again : Bool) (cycle : Nat) (hk₀ : Keeps w₀ s₀ u₀) :
    Keeps w₀ s₀ (accParity g b again cycle u₀) := by
  unfold accParity
  repeat' (first
    | with_reducible assumption
    | with_reducible apply keeps_parityError
    | with_reducible apply keeps_refill
    | with_reducible apply Keeps.ite
    | (intro _ _ _)
    | (intro _ _)
    | intro _
    | simp only [keeps_mk_iff]
    | dsimp only
    | dsimp only [id_eq]
    | split)

theorem keeps_sequencerError {w₀ : Bool} {s₀ u₀ : State} (g : Nat) (cycle : Nat) (hk₀ : Keeps w₀ s₀ u₀) :
    Keeps w₀ s₀ (sequencerError g cycle u₀) := by
  unfold sequencerError
  repeat' (first
    | with_reducible assumption
    | with_reducible apply keeps_modAcre
    | with_reducible apply keeps_replaceAcre
    | with_reducible apply keeps_revertUpdate
    | with_reducible apply Keeps.ite
    | (intro _ _ _)
    | (intro _ _)
    | intro _
    | simp only [keeps_mk_iff]
    | dsimp only
    | dsimp only [id_eq]
    | split)

theorem keeps_acreSwap {w₀ : Bool} {s₀ u₀ : State} (g : Nat) (hk₀ : Keeps w₀ s₀ u₀) :
    Keeps w₀ s₀ (acreSwap g u₀) := by
  unfold acreSwap
  repeat' (first
    | with_reducible assumption
    | with_reducible apply Keeps.ite
    | (intro _ _ _)
    | (intro _ _)
    | intro _
    | simp only [keeps_mk_iff]
    | dsimp only
    | dsimp only [id_eq]
    | split)

theorem keeps_showTests {w₀ : Bool} {s₀ u₀ : State} (hk₀ : Keeps w₀ s₀ u₀) :
    Keeps w₀ s₀ (showTests u₀) := by
  unfold showTests
  repeat' (first
    | with_reducible assumption
    | with_reducible apply keeps_setB
    | with_reducible apply keeps_setF
    | (intro _ _ _)
    | (intro _ _)
    | intro _
    | simp only [keeps_mk_iff]
    | dsimp only
    | dsimp only [id_eq]
    | split)

theorem keeps_serveTests {w₀ : Bool} {s₀ u₀ : State} (hk₀ : Keeps w₀ s₀ u₀) :
    Keeps w₀ s₀ (serveTests u₀) := by
  unfold serveTests
  repeat' (first
    | with_reducible assumption
    | with_reducible apply keeps_planSwap
    | with_reducible apply keeps_showTests
    | with_reducible apply Keeps.ite
    | (intro _ _ _)
    | (intro _ _)
    | intro _
    | simp only [keeps_mk_iff]
    | dsimp only
    | dsimp only [id_eq]
    | split)

theorem keeps_copyDone {w₀ : Bool} {s₀ u₀ : State} (g : Nat) (hk₀ : Keeps w₀ s₀ u₀) :
    Keeps w₀ s₀ (copyDone g u₀) := by
  unfold copyDone
  repeat' (first
    | with_reducible assumption
    | with_reducible apply keeps_countSpares
    | with_reducible apply keeps_enterFallow
    | with_reducible apply keeps_logEv
    | with_reducible apply keeps_modAcre
    | with_reducible apply keeps_remapAcre
    | with_reducible apply keeps_serveTests
    | with_reducible apply Keeps.ite
    | (intro _ _ _)
    | (intro _ _)
    | intro _
    | simp only [keeps_mk_iff]
    | dsimp only
    | dsimp only [id_eq]
    | split)

theorem keeps_bistRotation {w₀ : Bool} {s₀ u₀ : State} (g : Nat) (hk₀ : Keeps w₀ s₀ u₀) :
    Keeps w₀ s₀ (bistRotation g u₀) := by
  unfold bistRotation
  repeat' (first
    | with_reducible assumption
    | with_reducible apply keeps_planSwap
    | with_reducible apply keeps_showTests
    | with_reducible apply Keeps.ite
    | (intro _ _ _)
    | (intro _ _)
    | intro _
    | simp only [keeps_mk_iff]
    | dsimp only
    | dsimp only [id_eq]
    | split)

theorem keeps_repairColumn {w₀ : Bool} {s₀ u₀ : State} (g : Nat) (c : Nat × Nat) (hk₀ : Keeps w₀ s₀ u₀) :
    Keeps w₀ s₀ (repairColumn g c u₀) := by
  unfold repairColumn
  repeat' (first
    | with_reducible assumption
    | with_reducible apply keeps_lastEvt
    | with_reducible apply keeps_logStatus
    | with_reducible apply keeps_setF
    | (intro _ _ _)
    | (intro _ _)
    | intro _
    | dsimp only
    | dsimp only [id_eq]
    | split)

theorem keeps_testResult {w₀ : Bool} {s₀ u₀ : State} (g : Nat) (res : TestRes) (hk₀ : Keeps w₀ s₀ u₀) :
    Keeps w₀ s₀ (testResult g res u₀).2 := by
  unfold testResult
  repeat' (first
    | with_reducible assumption
    | with_reducible apply keeps_repairColumn
    | with_reducible apply keeps_retireSpare
    | with_reducible apply Keeps.foldl
    | with_reducible apply Keeps.foldl1
    | with_reducible apply Keeps.foldl2
    | with_reducible apply Keeps.foldl22
    | with_reducible apply Keeps.of_pair (by assumption)
    | with_reducible apply Keeps.of_triple (by assumption)
    | with_reducible apply Keeps.of_pair' (by assumption)
    | with_reducible apply Keeps.ite
    | (intro _ _ _)
    | (intro _ _)
    | intro _
    | simp only [keeps_mk_iff]
    | dsimp only
    | dsimp only [id_eq]
    | split)

theorem keeps_selfTestDone {w₀ : Bool} {s₀ u₀ : State} (g : Nat) (res : TestRes) (hk₀ : Keeps w₀ s₀ u₀) :
    Keeps w₀ s₀ (selfTestDone g res u₀) := by
  unfold selfTestDone
  repeat' (first
    | with_reducible assumption
    | with_reducible apply keeps_countSpares
    | with_reducible apply keeps_irqRaise
    | with_reducible apply keeps_logEv
    | with_reducible apply keeps_modAcre
    | with_reducible apply keeps_serveTests
    | with_reducible apply keeps_setF
    | with_reducible apply keeps_testResult
    | with_reducible apply Keeps.of_pair (by assumption)
    | with_reducible apply Keeps.ite
    | (intro _ _ _)
    | (intro _ _)
    | intro _
    | simp only [keeps_mk_iff]
    | dsimp only
    | dsimp only [id_eq]
    | split)

theorem keeps_testRequest {w₀ : Bool} {s₀ u₀ : State} (data : Word) (hk₀ : Keeps w₀ s₀ u₀) :
    Keeps w₀ s₀ (testRequest data u₀) := by
  unfold testRequest
  repeat' (first
    | with_reducible assumption
    | with_reducible apply keeps_regSet
    | with_reducible apply keeps_serveTests
    | with_reducible apply Keeps.ite
    | (intro _ _ _)
    | (intro _ _)
    | intro _
    | simp only [keeps_mk_iff]
    | dsimp only
    | dsimp only [id_eq]
    | split)

theorem keeps_spareTestRun {w₀ : Bool} {s₀ u₀ : State} (g : Nat) (data : Word) (hk₀ : Keeps w₀ s₀ u₀) :
    Keeps w₀ s₀ (spareTestRun g data u₀) := by
  unfold spareTestRun
  repeat' (first
    | with_reducible assumption
    | with_reducible apply keeps_modAcre
    | with_reducible apply keeps_setF
    | with_reducible apply keeps_spareTestStart
    | with_reducible apply Keeps.ite
    | (intro _ _ _)
    | (intro _ _)
    | intro _
    | simp only [keeps_mk_iff]
    | dsimp only
    | dsimp only [id_eq]
    | split)

theorem keeps_takeoverUpdate {w₀ : Bool} {s₀ u₀ : State} (hk₀ : Keeps w₀ s₀ u₀) :
    Keeps w₀ s₀ (takeoverUpdate u₀) := by
  unfold takeoverUpdate
  repeat' (first
    | with_reducible assumption
    | with_reducible apply keeps_revertUpdate
    | with_reducible apply keeps_setTrust
    | with_reducible apply Keeps.ite
    | (intro _ _ _)
    | (intro _ _)
    | intro _
    | simp only [keeps_mk_iff]
    | dsimp only
    | dsimp only [id_eq]
    | split)

theorem keeps_takeover {w₀ : Bool} {s₀ u₀ : State} (hk₀ : Keeps w₀ s₀ u₀) :
    Keeps w₀ s₀ (takeover u₀) := by
  unfold takeover
  repeat' (first
    | with_reducible assumption
    | with_reducible apply keeps_flipPair
    | with_reducible apply keeps_logEv
    | with_reducible apply keeps_setStandby
    | with_reducible apply keeps_takeoverUpdate
    | (intro _ _ _)
    | (intro _ _)
    | intro _
    | dsimp only
    | dsimp only [id_eq]
    | split)

theorem keeps_lockstep {w₀ : Bool} {s₀ u₀ : State} (pair : Nat) (hk₀ : Keeps w₀ s₀ u₀) :
    Keeps w₀ s₀ (lockstep pair u₀) := by
  unfold lockstep
  repeat' (first
    | with_reducible assumption
    | with_reducible apply keeps_abandonUpdate
    | with_reducible apply keeps_logEv
    | with_reducible apply keeps_setRely
    | with_reducible apply keeps_setStandby
    | with_reducible apply keeps_takeover
    | with_reducible apply Keeps.ite
    | (intro _ _ _)
    | (intro _ _)
    | intro _
    | simp only [keeps_mk_iff]
    | dsimp only
    | dsimp only [id_eq]
    | split)

theorem keeps_checkpoint {w₀ : Bool} {s₀ u₀ : State} (hk₀ : Keeps w₀ s₀ u₀) :
    Keeps w₀ s₀ (checkpoint u₀) := by
  unfold checkpoint
  repeat' (first
    | with_reducible assumption
    | with_reducible apply keeps_setRely
    | with_reducible apply Keeps.ite
    | (intro _ _ _)
    | (intro _ _)
    | intro _
    | simp only [keeps_mk_iff]
    | dsimp only
    | dsimp only [id_eq]
    | split)

theorem keeps_coreTestDone {w₀ : Bool} {s₀ u₀ : State} (ok : Bool) (hk₀ : Keeps w₀ s₀ u₀) :
    Keeps w₀ s₀ (coreTestDone ok u₀) := by
  unfold coreTestDone
  repeat' (first
    | with_reducible assumption
    | with_reducible apply keeps_logEv
    | with_reducible apply keeps_setStandby
    | with_reducible apply Keeps.ite
    | (intro _ _ _)
    | (intro _ _)
    | intro _
    | dsimp only
    | dsimp only [id_eq]
    | split)

theorem keeps_retirePage {w₀ : Bool} {s₀ u₀ : State} (stack : Nat) (page : Nat) (hk₀ : Keeps w₀ s₀ u₀) :
    Keeps w₀ s₀ (retirePage stack page u₀) := by
  unfold retirePage
  repeat' (first
    | with_reducible assumption
    | with_reducible apply keeps_setRely
    | with_reducible apply keeps_takeOne
    | with_reducible apply KeepsOpt2.get (by assumption)
    | with_reducible apply Keeps.ite
    | (intro _ _ _)
    | (intro _ _)
    | intro _
    | simp only [keeps_mk_iff]
    | dsimp only
    | dsimp only [id_eq]
    | split)

theorem keeps_countCorrected {w₀ : Bool} {s₀ u₀ : State} (stack : Nat) (page : Nat) (hk₀ : Keeps w₀ s₀ u₀) :
    Keeps w₀ s₀ (countCorrected stack page u₀) := by
  unfold countCorrected
  repeat' (first
    | with_reducible assumption
    | with_reducible apply keeps_retirePage
    | with_reducible apply keeps_setRely
    | with_reducible apply keeps_whenB
    | (intro _ _ _)
    | (intro _ _)
    | intro _
    | simp only [keeps_mk_iff]
    | dsimp only
    | dsimp only [id_eq]
    | split)

theorem keeps_poisonBlock {w₀ : Bool} {s₀ u₀ : State} (stack : Nat) (addr : Nat) (hk₀ : Keeps w₀ s₀ u₀) :
    Keeps w₀ s₀ (poisonBlock stack addr u₀) := by
  unfold poisonBlock
  repeat' (first
    | with_reducible assumption
    | with_reducible apply keeps_logEv
    | (intro _ _ _)
    | (intro _ _)
    | intro _
    | simp only [keeps_mk_iff]
    | dsimp only
    | dsimp only [id_eq]
    | split)

theorem keeps_faultExec {w₀ : Bool} {s₀ u₀ : State} (ex : Executor) (code : Nat) (cls : Nat) (ix : Nat) (hk₀ : Keeps w₀ s₀ u₀) :
    Keeps w₀ s₀ (faultExec ex code cls ix u₀) := by
  unfold faultExec
  repeat' (first
    | with_reducible assumption
    | with_reducible apply keeps_faultBasin
    | with_reducible apply keeps_faultRun
    | with_reducible apply keeps_withSome
    | with_reducible apply Keeps.ite
    | (intro _ _ _)
    | (intro _ _)
    | intro _
    | simp only [keeps_mk_iff]
    | dsimp only
    | dsimp only [id_eq]
    | split)

theorem keeps_codewordRead {w₀ : Bool} {s₀ u₀ : State} (stack : Nat) (addr : Nat) (err : ReadErr) (hk₀ : Keeps w₀ s₀ u₀) :
    Keeps w₀ s₀ (codewordRead stack addr err u₀) := by
  unfold codewordRead
  repeat' (first
    | with_reducible assumption
    | with_reducible apply keeps_countCorrected
    | with_reducible apply keeps_poisonBlock
    | with_reducible apply keeps_retirePage
    | (intro _ _ _)
    | (intro _ _)
    | intro _
    | simp only [keeps_mk_iff]
    | dsimp only
    | dsimp only [id_eq]
    | split)

theorem keeps_hbmRead {w₀ : Bool} {s₀ u₀ : State} (addr : Nat) (err : ReadErr) (reader : Option Executor) (hk₀ : Keeps w₀ s₀ u₀) :
    Keeps w₀ s₀ (hbmRead addr err reader u₀) := by
  unfold hbmRead
  repeat' (first
    | with_reducible assumption
    | with_reducible apply keeps_codewordRead
    | with_reducible apply keeps_faultExec
    | with_reducible apply keeps_withSome
    | with_reducible apply Keeps.ite
    | (intro _ _ _)
    | (intro _ _)
    | intro _
    | simp only [keeps_mk_iff]
    | dsimp only
    | dsimp only [id_eq]
    | split)

theorem keeps_migrateDone {w₀ : Bool} {s₀ u₀ : State} (page : Nat) (poisoned : List Nat) (hk₀ : Keeps w₀ s₀ u₀) :
    Keeps w₀ s₀ (migrateDone page poisoned u₀) := by
  unfold migrateDone
  repeat' (first
    | with_reducible assumption
    | with_reducible apply keeps_logEv
    | with_reducible apply keeps_setRely
    | with_reducible apply Keeps.foldl
    | with_reducible apply Keeps.foldl1
    | with_reducible apply Keeps.foldl2
    | with_reducible apply Keeps.foldl22
    | with_reducible apply Keeps.of_pair (by assumption)
    | with_reducible apply Keeps.of_triple (by assumption)
    | with_reducible apply Keeps.of_pair' (by assumption)
    | with_reducible apply Keeps.ite
    | (intro _ _ _)
    | (intro _ _)
    | intro _
    | simp only [keeps_mk_iff]
    | dsimp only
    | dsimp only [id_eq]
    | split)

theorem keeps_patrolScrub {w₀ : Bool} {s₀ u₀ : State} (stack : Nat) (addr : Nat) (err : ReadErr) (hk₀ : Keeps w₀ s₀ u₀) :
    Keeps w₀ s₀ (patrolScrub stack addr err u₀) := by
  unfold patrolScrub
  repeat' (first
    | with_reducible assumption
    | with_reducible apply keeps_codewordRead
    | with_reducible apply keeps_setRely
    | with_reducible apply Keeps.ite
    | (intro _ _ _)
    | (intro _ _)
    | intro _
    | simp only [keeps_mk_iff]
    | dsimp only
    | dsimp only [id_eq]
    | split)

theorem keeps_sramScrub {w₀ : Bool} {s₀ u₀ : State} (cache : Bool) (loc : Nat) (err : ReadErr) (stuck : Bool) (hk₀ : Keeps w₀ s₀ u₀) :
    Keeps w₀ s₀ (sramScrub cache loc err stuck u₀) := by
  unfold sramScrub
  repeat' (first
    | with_reducible assumption
    | with_reducible apply keeps_logEv
    | with_reducible apply keeps_setEng
    | with_reducible apply keeps_setRely
    | with_reducible apply Keeps.ite
    | (intro _ _ _)
    | (intro _ _)
    | intro _
    | simp only [keeps_mk_iff]
    | dsimp only
    | dsimp only [id_eq]
    | split)

theorem keeps_imbalance {w₀ : Bool} {s₀ u₀ : State} (die : Nat) (chan : Nat) (busiest : Nat) (total : Nat) (region : Nat) (hk₀ : Keeps w₀ s₀ u₀) :
    Keeps w₀ s₀ (imbalance die chan busiest total region u₀) := by
  unfold imbalance
  repeat' (first
    | with_reducible assumption
    | with_reducible apply keeps_logEv
    | with_reducible apply keeps_setF
    | with_reducible apply keeps_setRely
    | with_reducible apply Keeps.ite
    | (intro _ _ _)
    | (intro _ _)
    | intro _
    | simp only [keeps_mk_iff]
    | dsimp only
    | dsimp only [id_eq]
    | split)

end Sys2Proof.Laws
end

