-- ==== Sys2Proof/Laws/KeepsRegCmd.lean ====
section
/-!
SUPPORT. What the operations of Machine/RegCmd.lean keep (see Keeps).
-/

namespace Sys2Proof.Laws

open Sys2Proof.Machine

theorem keeps_setLatch {w₀ : Bool} {s₀ u₀ : State} (p : Path) (lo : Nat) (v : PairLatch) (hk₀ : Keeps w₀ s₀ u₀) :
    Keeps w₀ s₀ (setLatch p lo v u₀) := by
  unfold setLatch
  repeat' (first
    | with_reducible assumption
    | (intro _ _ _)
    | (intro _ _)
    | intro _
    | simp only [keeps_mk_iff]
    | dsimp only
    | dsimp only [id_eq]
    | split)

theorem keeps_logUnmapped {w₀ : Bool} {s₀ u₀ : State} (p : Path) (addr : Nat) (hk₀ : Keeps w₀ s₀ u₀) :
    Keeps w₀ s₀ (logUnmapped p addr u₀) := by
  unfold logUnmapped
  repeat' (first
    | with_reducible assumption
    | with_reducible apply keeps_logEv
    | with_reducible apply Keeps.ite
    | (intro _ _ _)
    | (intro _ _)
    | intro _
    | simp only [keeps_mk_iff]
    | dsimp only
    | dsimp only [id_eq]
    | split)

theorem keeps_refusedRead {w₀ : Bool} {s₀ u₀ : State} (p : Path) (base : Nat) (addr : Nat) (kind : Nat) (hk₀ : Keeps w₀ s₀ u₀) :
    Keeps w₀ s₀ (refusedRead p base addr kind u₀) := by
  unfold refusedRead
  repeat' (first
    | with_reducible assumption
    | with_reducible apply keeps_countErr
    | with_reducible apply keeps_emit
    | with_reducible apply Keeps.ite
    | (intro _ _ _)
    | (intro _ _)
    | intro _
    | dsimp only
    | dsimp only [id_eq]
    | split)

theorem keeps_readLatch {w₀ : Bool} {s₀ u₀ : State} (p : Path) (base : Nat) (b : Blk) (off : Nat) (hk₀ : Keeps w₀ s₀ u₀) :
    Keeps w₀ s₀ (readLatch p base b off u₀) := by
  unfold readLatch
  repeat' (first
    | with_reducible assumption
    | with_reducible apply keeps_setLatch
    | with_reducible apply Keeps.ite
    | (intro _ _ _)
    | (intro _ _)
    | intro _
    | simp only [keeps_mk_iff]
    | dsimp only
    | dsimp only [id_eq]
    | split)

theorem keeps_regRead {w₀ : Bool} {s₀ u₀ : State} (p : Path) (addr : Nat) (hk₀ : Keeps w₀ s₀ u₀) :
    Keeps w₀ s₀ (regRead p addr u₀) := by
  unfold regRead
  repeat' (first
    | with_reducible assumption
    | with_reducible apply keeps_emit
    | with_reducible apply keeps_logUnmapped
    | with_reducible apply keeps_readLatch
    | with_reducible apply keeps_refusedRead
    | with_reducible apply Keeps.ite
    | (intro _ _ _)
    | (intro _ _)
    | intro _
    | simp only [keeps_mk_iff]
    | dsimp only
    | dsimp only [id_eq]
    | split)

theorem keeps_irqGate {w₀ : Bool} {s₀ u₀ : State} (base : Nat) (f : State → State) (h_f : ∀ (x0 : State), Keeps w₀ s₀ x0 → Keeps w₀ s₀ (f x0)) (hk₀ : Keeps w₀ s₀ u₀) :
    Keeps w₀ s₀ (irqGate base f u₀) := by
  unfold irqGate
  repeat' (first
    | with_reducible assumption
    | with_reducible apply h_f
    | with_reducible apply keeps_hqIrqEdge
    | (intro _ _ _)
    | (intro _ _)
    | intro _
    | dsimp only
    | dsimp only [id_eq]
    | split)

theorem keeps_setQBase {w₀ : Bool} {s₀ u₀ : State} (h : Nat) (q : Nat) (cq : Bool) (f : Nat → Nat) (hk₀ : Keeps w₀ s₀ u₀) :
    Keeps w₀ s₀ (setQBase h q cq f u₀) := by
  unfold setQBase
  repeat' (first
    | with_reducible assumption
    | with_reducible apply keeps_setQP
    | with_reducible apply Keeps.ite
    | (intro _ _ _)
    | (intro _ _)
    | intro _
    | simp only [keeps_mk_iff]
    | dsimp only
    | dsimp only [id_eq]
    | split)

theorem keeps_writeLcfg {w₀ : Bool} {s₀ u₀ : State} (h : Nat) (w : Word) (hk₀ : Keeps w₀ s₀ u₀) :
    Keeps w₀ s₀ (writeLcfg h w u₀) := by
  unfold writeLcfg
  repeat' (first
    | with_reducible assumption
    | with_reducible apply keeps_deliverAll
    | with_reducible apply keeps_regSet
    | with_reducible apply keeps_retryEnds
    | with_reducible apply Keeps.ite
    | (intro _ _ _)
    | (intro _ _)
    | intro _
    | simp only [keeps_mk_iff]
    | dsimp only
    | dsimp only [id_eq]
    | split)

theorem keeps_writeCoal {w₀ : Bool} {s₀ u₀ : State} (h : Nat) (w : Word) (hk₀ : Keeps w₀ s₀ u₀) :
    Keeps w₀ s₀ (writeCoal h w u₀) := by
  unfold writeCoal
  repeat' (first
    | with_reducible assumption
    | with_reducible apply keeps_regSet
    | with_reducible apply keeps_signalQP
    | with_reducible apply Keeps.foldl
    | with_reducible apply Keeps.foldl1
    | with_reducible apply Keeps.foldl2
    | with_reducible apply Keeps.foldl22
    | with_reducible apply Keeps.of_pair (by assumption)
    | with_reducible apply Keeps.of_triple (by assumption)
    | with_reducible apply Keeps.of_pair' (by assumption)
    | with_reducible apply Keeps.ite
    | (intro _ _ _)
    | (intro _ _)
    | intro _
    | dsimp only
    | dsimp only [id_eq]
    | split)

theorem keeps_writePair {w₀ : Bool} {s₀ u₀ : State} (p : Path) (g : Nat) (bound : Bool) (w : Word) (hk₀ : Keeps w₀ s₀ u₀) :
    Keeps w₀ s₀ (writePair p g bound w u₀) := by
  unfold writePair
  repeat' (first
    | with_reducible assumption
    | with_reducible apply keeps_modAcre
    | with_reducible apply Keeps.ite
    | (intro _ _ _)
    | (intro _ _)
    | intro _
    | simp only [keeps_mk_iff]
    | dsimp only
    | dsimp only [id_eq]
    | split)

theorem keeps_storeRw {w₀ : Bool} {s₀ u₀ : State} (base : Nat) (t : BlkTag) (off : Nat) (w : Word) (hk₀ : Keeps w₀ s₀ u₀) :
    Keeps w₀ s₀ (storeRw base t off w u₀) := by
  unfold storeRw
  repeat' (first
    | with_reducible assumption
    | with_reducible apply keeps_regSet
    | (intro _ _ _)
    | (intro _ _)
    | intro _
    | dsimp only
    | dsimp only [id_eq]
    | split)

theorem keeps_applyRw {w₀ : Bool} {s₀ u₀ : State} (p : Path) (base : Nat) (b : Blk) (off : Nat) (w : Word) (hk₀ : Keeps w₀ s₀ u₀) :
    Keeps w₀ s₀ (applyRw p base b off w u₀) := by
  unfold applyRw
  repeat' (first
    | with_reducible assumption
    | with_reducible apply keeps_enableQP
    | with_reducible apply keeps_irqGate
    | with_reducible apply keeps_levelWrite
    | with_reducible apply keeps_requestDisableQP
    | with_reducible apply keeps_roleRequest
    | with_reducible apply keeps_selSet
    | with_reducible apply keeps_serveQP
    | with_reducible apply keeps_setDitch
    | with_reducible apply keeps_setQBase
    | with_reducible apply keeps_storeRw
    | with_reducible apply keeps_writeCoal
    | with_reducible apply keeps_writeLcfg
    | with_reducible apply keeps_writePair
    | with_reducible apply keeps_writeShare
    | with_reducible apply Keeps.ite
    | (intro _ _ _)
    | (intro _ _)
    | intro _
    | simp only [keeps_mk_iff]
    | dsimp only
    | dsimp only [id_eq]
    | split)

theorem keeps_statClear {w₀ : Bool} {s₀ u₀ : State} (base : Nat) (data : Word) (hk₀ : Keeps w₀ s₀ u₀) :
    Keeps w₀ s₀ (statClear base data u₀) := by
  unfold statClear
  repeat' (first
    | with_reducible assumption
    | with_reducible apply keeps_setF
    | with_reducible apply keeps_signalVec
    | with_reducible apply keeps_whenB
    | (intro _ _ _)
    | (intro _ _)
    | intro _
    | simp only [keeps_mk_iff]
    | dsimp only
    | dsimp only [id_eq]
    | split)

theorem keeps_ctrlWrite {w₀ : Bool} {s₀ u₀ : State} (base : Nat) (t : BlkTag) (data : Word) (hk₀ : Keeps w₀ s₀ u₀) :
    Keeps w₀ s₀ (ctrlWrite base t data u₀) := by
  unfold ctrlWrite
  repeat' (first
    | with_reducible assumption
    | with_reducible apply keeps_irqGate
    | with_reducible apply keeps_regSet
    | with_reducible apply keeps_storeRw
    | with_reducible apply Keeps.ite
    | (intro _ _ _)
    | (intro _ _)
    | intro _
    | dsimp only
    | dsimp only [id_eq]
    | split)

theorem keeps_alertWrite {w₀ : Bool} {s₀ u₀ : State} (data : Word) (hk₀ : Keeps w₀ s₀ u₀) :
    Keeps w₀ s₀ (alertWrite data u₀) := by
  unfold alertWrite
  repeat' (first
    | with_reducible assumption
    | with_reducible apply keeps_setF
    | with_reducible apply Keeps.ite
    | (intro _ _ _)
    | (intro _ _)
    | intro _
    | dsimp only
    | dsimp only [id_eq]
    | split)

theorem keeps_unstage {w₀ : Bool} {s₀ u₀ : State} (p : Path) (lo : Nat) (hk₀ : Keeps w₀ s₀ u₀) :
    Keeps w₀ s₀ (unstage p lo u₀) := by
  unfold unstage
  repeat' (first
    | with_reducible assumption
    | with_reducible apply keeps_setLatch
    | (intro _ _ _)
    | (intro _ _)
    | intro _
    | simp only [keeps_mk_iff]
    | dsimp only
    | dsimp only [id_eq]
    | split)

theorem keeps_credit {w₀ : Bool} {s₀ u₀ : State} (p : Path) (hi : Word) (hk₀ : Keeps w₀ s₀ u₀) :
    Keeps w₀ s₀ (credit p hi u₀) := by
  unfold credit
  repeat' (first
    | with_reducible assumption
    | with_reducible apply keeps_setHold
    | with_reducible apply keeps_unstage
    | (intro _ _ _)
    | (intro _ _)
    | intro _
    | simp only [keeps_mk_iff]
    | dsimp only
    | dsimp only [id_eq]
    | split)

theorem keeps_pairWrite {w₀ : Bool} {s₀ u₀ : State} (p : Path) (base : Nat) (b : Blk) (lo : Nat) (hi : Word) (hk₀ : Keeps w₀ s₀ u₀) :
    Keeps w₀ s₀ (pairWrite p base b lo hi u₀) := by
  unfold pairWrite
  repeat' (first
    | with_reducible assumption
    | with_reducible apply keeps_applyRw
    | with_reducible apply keeps_unstage
    | (intro _ _ _)
    | (intro _ _)
    | intro _
    | dsimp only
    | dsimp only [id_eq]
    | split)

theorem keeps_plainWrite {w₀ : Bool} {s₀ u₀ : State} (p : Path) (base : Nat) (b : Blk) (off : Nat) (data : Word) (hk₀ : Keeps w₀ s₀ u₀) :
    Keeps w₀ s₀ (plainWrite p base b off data u₀) := by
  unfold plainWrite
  repeat' (first
    | with_reducible assumption
    | with_reducible apply keeps_alertWrite
    | with_reducible apply keeps_applyRw
    | with_reducible apply keeps_bistRun
    | with_reducible apply keeps_credit
    | with_reducible apply keeps_ctrlWrite
    | with_reducible apply keeps_irqRaise
    | with_reducible apply keeps_pairWrite
    | with_reducible apply keeps_setLatch
    | with_reducible apply keeps_sluiceGo
    | with_reducible apply keeps_spareTestRun
    | with_reducible apply keeps_statClear
    | with_reducible apply keeps_testRequest
    | with_reducible apply Keeps.ite
    | (intro _ _ _)
    | (intro _ _)
    | intro _
    | simp only [keeps_mk_iff]
    | dsimp only
    | dsimp only [id_eq]
    | split)

theorem keeps_aliasOf {w₀ : Bool} {s₀ u₀ : State} (set : Bool) (p : Path) (base : Nat) (b : Blk) (off : Nat) (data : Word) (hk₀ : Keeps w₀ s₀ u₀) :
    Keeps w₀ s₀ (aliasOf set p base b off data u₀) := by
  unfold aliasOf
  repeat' (first
    | with_reducible assumption
    | with_reducible apply keeps_applyRw
    | with_reducible apply keeps_unstage
    | with_reducible apply Keeps.ite
    | (intro _ _ _)
    | (intro _ _)
    | intro _
    | dsimp only
    | dsimp only [id_eq]
    | split)

theorem keeps_regWrite {w₀ : Bool} {s₀ u₀ : State} (p : Path) (addr : Nat) (data : Word) (be : Nat) (hk₀ : Keeps w₀ s₀ u₀) :
    Keeps w₀ s₀ (regWrite p addr data be u₀) := by
  unfold regWrite
  repeat' (first
    | with_reducible assumption
    | with_reducible apply keeps_aliasOf
    | with_reducible apply keeps_countErr
    | with_reducible apply keeps_logUnmapped
    | with_reducible apply keeps_plainWrite
    | with_reducible apply Keeps.ite
    | (intro _ _ _)
    | (intro _ _)
    | intro _
    | simp only [keeps_mk_iff]
    | dsimp only
    | dsimp only [id_eq]
    | split)

theorem keeps_tapReadout {w₀ : Bool} {s₀ u₀ : State} (what : Readout) (hk₀ : Keeps w₀ s₀ u₀) :
    Keeps w₀ s₀ (tapReadout what u₀) := by
  unfold tapReadout
  repeat' (first
    | with_reducible assumption
    | with_reducible apply keeps_emit
    | with_reducible apply keeps_nextFree
    | with_reducible apply keeps_setB
    | with_reducible apply Keeps.of_pair (by assumption)
    | with_reducible apply Keeps.ite
    | (intro _ _ _)
    | (intro _ _)
    | intro _
    | simp only [keeps_mk_iff]
    | dsimp only
    | dsimp only [id_eq]
    | split)

theorem keeps_atOffset {w₀ : Bool} {s₀ u₀ : State} (ok : Blk → Nat → Bool) (addr : Nat) (f : State → State) (h_f : ∀ (x0 : State), Keeps w₀ s₀ x0 → Keeps w₀ s₀ (f x0)) (hk₀ : Keeps w₀ s₀ u₀) :
    Keeps w₀ s₀ (atOffset ok addr f u₀) := by
  unfold atOffset
  repeat' (first
    | with_reducible assumption
    | with_reducible apply h_f
    | with_reducible apply Keeps.ite
    | (intro _ _ _)
    | (intro _ _)
    | intro _
    | simp only [keeps_mk_iff]
    | dsimp only
    | dsimp only [id_eq]
    | split)

end Sys2Proof.Laws
end

