-- ==== Sys2Proof/Laws/KeepsStartup.lean ====
section
/-!
SUPPORT. What the operations of Machine/Startup.lean keep (see Keeps).
-/

namespace Sys2Proof.Laws

open Sys2Proof.Machine

theorem keeps_setPower {w₀ : Bool} {s₀ u₀ : State} (f : Power → Power) (hk₀ : Keeps w₀ s₀ u₀) :
    Keeps w₀ s₀ (setPower f u₀) := by
  unfold setPower
  repeat' (first
    | with_reducible assumption
    | (intro _ _ _)
    | (intro _ _)
    | intro _
    | simp only [keeps_mk_iff]
    | dsimp only
    | dsimp only [id_eq]
    | split)

theorem canonD_filterMap {α : Type} [DecidableEq α] (m : NatMap α) (d : Nat → α) (f : Nat → α → α) (h : canonD m d) :
    canonD (m.filterMap (fun e => if f e.1 e.2 = d e.1 then none else some (e.1, f e.1 e.2))) d := by
  have key : ∀ l : NatMap α, keysRise l = true →
      keysRise (l.filterMap (fun e => if f e.1 e.2 = d e.1 then none else some (e.1, f e.1 e.2))) = true := by
    intro l
    induction l with
    | nil => exact id
    | cons x l ih =>
      obtain ⟨j, w⟩ := x
      intro hl
      have hc := (keysRise_cons j w l).1 hl
      rw [List.filterMap_cons]
      split
      · exact ih hc.2
      · next b hb =>
        obtain ⟨-, rfl⟩ : ¬ f j w = d j ∧ (j, f j w) = b := by simpa using hb
        rw [keysRise_cons]
        refine ⟨fun e he => ?_, ih hc.2⟩
        obtain ⟨a, ha, hx⟩ := List.mem_filterMap.1 he
        have : ¬ f a.1 a.2 = d a.1 ∧ (a.1, f a.1 a.2) = e := by simpa using hx
        rw [← this.2]
        exact hc.1 a ha
  refine ⟨key m h.1, fun e he => ?_⟩
  obtain ⟨a, -, hx⟩ := List.mem_filterMap.1 he
  have : ¬ f a.1 a.2 = d a.1 ∧ (a.1, f a.1 a.2) = e := by simpa using hx
  rw [← this.2]
  exact this.1

theorem keeps_resetRegs {w₀ : Bool} {s₀ u₀ : State} (keep : BlkTag → Fld → Bool) (latch : Nat → Bool) (hk₀ : Keeps w₀ s₀ u₀) :
    Keeps w₀ s₀ (resetRegs keep latch u₀) :=
  hk₀.trans ⟨rfl, fun _ => ⟨rfl, rfl⟩, id, id, fun g => canonD_filterMap _ _ (keptWord keep) g⟩

theorem keeps_dropUpdate {w₀ : Bool} {s₀ u₀ : State} (hk₀ : Keeps w₀ s₀ u₀) :
    Keeps w₀ s₀ (dropUpdate u₀) := by
  unfold dropUpdate
  repeat' (first
    | with_reducible assumption
    | with_reducible apply keeps_setF
    | with_reducible apply keeps_setTrust
    | (intro _ _ _)
    | (intro _ _)
    | intro _
    | simp only [keeps_mk_iff]
    | dsimp only
    | dsimp only [id_eq]
    | split)

theorem keeps_seqGate {w₀ : Bool} {s₀ u₀ : State} (hk₀ : Keeps w₀ s₀ u₀) :
    Keeps w₀ s₀ (seqGate u₀) := by
  unfold seqGate
  repeat' (first
    | with_reducible assumption
    | with_reducible apply keeps_drdEvent
    | with_reducible apply keeps_setPower
    | with_reducible apply Keeps.ite
    | (intro _ _ _)
    | (intro _ _)
    | intro _
    | simp only [keeps_mk_iff]
    | dsimp only
    | dsimp only [id_eq]
    | split)

theorem keeps_seqResume {w₀ : Bool} {s₀ u₀ : State} (hk₀ : Keeps w₀ s₀ u₀) :
    Keeps w₀ s₀ (seqResume u₀) := by
  unfold seqResume
  repeat' (first
    | with_reducible assumption
    | with_reducible apply keeps_setPower
    | with_reducible apply Keeps.ite
    | (intro _ _ _)
    | (intro _ _)
    | intro _
    | simp only [keeps_mk_iff]
    | dsimp only
    | dsimp only [id_eq]
    | split)

theorem keeps_enterService {w₀ : Bool} {s₀ u₀ : State} (hk₀ : Keeps w₀ s₀ u₀) :
    Keeps w₀ s₀ (enterService u₀) := by
  unfold enterService
  repeat' (first
    | with_reducible assumption
    | with_reducible apply keeps_basinRecovery
    | with_reducible apply keeps_queueDue
    | with_reducible apply keeps_refreshClosed
    | with_reducible apply keeps_trickleEnter
    | with_reducible apply Keeps.foldl
    | with_reducible apply Keeps.foldl1
    | with_reducible apply Keeps.foldl2
    | with_reducible apply Keeps.foldl22
    | with_reducible apply Keeps.of_pair (by assumption)
    | with_reducible apply Keeps.of_triple (by assumption)
    | with_reducible apply Keeps.of_pair' (by assumption)
    | with_reducible apply Keeps.ite
    | (intro _ _ _)
    | (intro _ _)
    | intro _
    | simp only [keeps_mk_iff]
    | dsimp only
    | dsimp only [id_eq]
    | split)

theorem keeps_headgateStart {w₀ : Bool} {s₀ u₀ : State} (hk₀ : Keeps w₀ s₀ u₀) :
    Keeps w₀ s₀ (headgateStart u₀) := by
  unfold headgateStart
  repeat' (first
    | with_reducible assumption
    | with_reducible apply keeps_bootChain
    | with_reducible apply keeps_freezeNow
    | with_reducible apply keeps_setF
    | with_reducible apply Keeps.ite
    | (intro _ _ _)
    | (intro _ _)
    | intro _
    | dsimp only
    | dsimp only [id_eq]
    | split)

theorem keeps_railGood {w₀ : Bool} {s₀ u₀ : State} (step : Nat) (hk₀ : Keeps w₀ s₀ u₀) :
    Keeps w₀ s₀ (railGood step u₀) := by
  unfold railGood
  repeat' (first
    | with_reducible assumption
    | with_reducible apply keeps_enterService
    | with_reducible apply keeps_headgateStart
    | with_reducible apply keeps_seqGate
    | with_reducible apply keeps_setPower
    | with_reducible apply Keeps.ite
    | (intro _ _ _)
    | (intro _ _)
    | intro _
    | simp only [keeps_mk_iff]
    | dsimp only
    | dsimp only [id_eq]
    | split)

theorem keeps_railTimeout {w₀ : Bool} {s₀ u₀ : State} (r : Rail) (hk₀ : Keeps w₀ s₀ u₀) :
    Keeps w₀ s₀ (railTimeout r u₀) := by
  unfold railTimeout
  repeat' (first
    | with_reducible assumption
    | with_reducible apply keeps_drdEvent
    | with_reducible apply keeps_logEv
    | with_reducible apply keeps_setDitch
    | with_reducible apply keeps_setPower
    | with_reducible apply Keeps.ite
    | (intro _ _ _)
    | (intro _ _)
    | intro _
    | simp only [keeps_mk_iff]
    | dsimp only
    | dsimp only [id_eq]
    | split)

theorem keeps_coolantResume {w₀ : Bool} {s₀ u₀ : State} (hk₀ : Keeps w₀ s₀ u₀) :
    Keeps w₀ s₀ (coolantResume u₀) := by
  unfold coolantResume
  repeat' (first
    | with_reducible assumption
    | with_reducible apply keeps_seqResume
    | with_reducible apply Keeps.ite
    | (intro _ _ _)
    | (intro _ _)
    | intro _
    | dsimp only
    | dsimp only [id_eq]
    | split)

theorem keeps_coldReset {s₀ u₀ : State} (hk₀ : Keeps false s₀ u₀) : Keeps false s₀ (coldReset u₀) :=
  hk₀.trans ⟨rfl, fun e => (Bool.false_ne_true e).elim, fun _ => rfl, fun _ => rfl,
    (keeps_resetRegs (w₀ := false) keptCold (fun _ => false) (.refl u₀)).regs⟩

theorem keeps_journalShown {w₀ : Bool} {s₀ u₀ : State} (old : State) (hk₀ : Keeps w₀ s₀ u₀) :
    Keeps w₀ s₀ (journalShown old u₀) := by
  unfold journalShown
  repeat' (first
    | with_reducible assumption
    | with_reducible apply keeps_setF
    | with_reducible apply keeps_setRes
    | with_reducible apply keeps_setStandby
    | with_reducible apply Keeps.ite
    | (intro _ _ _)
    | (intro _ _)
    | intro _
    | dsimp only
    | dsimp only [id_eq]
    | split)

theorem keeps_uncleanStart {w₀ : Bool} {s₀ u₀ : State} (hk₀ : Keeps w₀ s₀ u₀) :
    Keeps w₀ s₀ (uncleanStart u₀) := by
  unfold uncleanStart
  repeat' (first
    | with_reducible assumption
    | with_reducible apply keeps_setF
    | with_reducible apply keeps_tallyEvent
    | with_reducible apply Keeps.foldl
    | with_reducible apply Keeps.foldl1
    | with_reducible apply Keeps.foldl2
    | with_reducible apply Keeps.foldl22
    | with_reducible apply Keeps.of_pair (by assumption)
    | with_reducible apply Keeps.of_triple (by assumption)
    | with_reducible apply Keeps.of_pair' (by assumption)
    | with_reducible apply Keeps.ite
    | (intro _ _ _)
    | (intro _ _)
    | intro _
    | dsimp only
    | dsimp only [id_eq]
    | split)

theorem keeps_coldStart {s₀ u₀ : State} (pins : Nat) (ref : Bool) (inlet : Nat) (flow : Nat) (hk₀ : Keeps false s₀ u₀) :
    Keeps false s₀ (coldStart pins ref inlet flow u₀) := by
  unfold coldStart
  repeat' (first
    | with_reducible assumption
    | with_reducible apply keeps_attestPowerOn
    | with_reducible apply keeps_coldReset
    | with_reducible apply keeps_drdEvent
    | with_reducible apply keeps_dropUpdate
    | with_reducible apply keeps_journalShown
    | with_reducible apply keeps_refreshClosed
    | with_reducible apply keeps_setDitch
    | with_reducible apply keeps_setF
    | with_reducible apply keeps_setPower
    | with_reducible apply keeps_showCap
    | with_reducible apply keeps_uncleanStart
    | with_reducible apply Keeps.ite
    | (intro _ _ _)
    | (intro _ _)
    | intro _
    | simp only [keeps_mk_iff]
    | dsimp only
    | dsimp only [id_eq]
    | split)

theorem keeps_coldPowerOn {s₀ u₀ : State} (pins : Nat) (ref : Bool) (inlet : Nat) (flow : Nat) (hk₀ : Keeps false s₀ u₀) :
    Keeps false s₀ (coldPowerOn pins ref inlet flow u₀) := by
  unfold coldPowerOn
  repeat' (first
    | with_reducible assumption
    | with_reducible apply keeps_coldStart
    | with_reducible apply keeps_opened
    | with_reducible apply Keeps.ite
    | (intro _ _ _)
    | (intro _ _)
    | intro _
    | dsimp only
    | dsimp only [id_eq]
    | split)

theorem keeps_overvoltageRestart {s₀ u₀ : State} (pins : Nat) (ref : Bool) (inlet : Nat) (flow : Nat) (hk₀ : Keeps false s₀ u₀) :
    Keeps false s₀ (overvoltageRestart pins ref inlet flow u₀) := by
  unfold overvoltageRestart
  repeat' (first
    | with_reducible assumption
    | with_reducible apply keeps_coldStart
    | with_reducible apply keeps_opened
    | with_reducible apply Keeps.ite
    | (intro _ _ _)
    | (intro _ _)
    | intro _
    | dsimp only
    | dsimp only [id_eq]
    | split)

theorem keeps_endUpdate {w₀ : Bool} {s₀ u₀ : State} (hk₀ : Keeps w₀ s₀ u₀) :
    Keeps w₀ s₀ (endUpdate u₀) := by
  unfold endUpdate
  repeat' (first
    | with_reducible assumption
    | with_reducible apply keeps_abandonUpdate
    | with_reducible apply keeps_fwFence
    | with_reducible apply keeps_revertUpdate
    | with_reducible apply Keeps.ite
    | (intro _ _ _)
    | (intro _ _)
    | intro _
    | dsimp only
    | dsimp only [id_eq]
    | split)

theorem keeps_endRole {w₀ : Bool} {s₀ u₀ : State} (hk₀ : Keeps w₀ s₀ u₀) :
    Keeps w₀ s₀ (endRole u₀) := by
  unfold endRole
  repeat' (first
    | with_reducible assumption
    | with_reducible apply keeps_setEng
    | with_reducible apply keeps_setF
    | (intro _ _ _)
    | (intro _ _)
    | intro _
    | simp only [keeps_mk_iff]
    | dsimp only
    | dsimp only [id_eq]
    | split)

theorem keeps_endNow {w₀ : Bool} {s₀ u₀ : State} (x : Stream) (hk₀ : Keeps w₀ s₀ u₀) :
    Keeps w₀ s₀ (endNow u₀ x) := by
  unfold endNow
  repeat' (first
    | with_reducible assumption
    | with_reducible apply keeps_commitEnd
    | with_reducible apply keeps_modStream
    | with_reducible apply Keeps.ite
    | (intro _ _ _)
    | (intro _ _)
    | intro _
    | simp only [keeps_mk_iff]
    | dsimp only
    | dsimp only [id_eq]
    | split)

theorem keeps_endTraining {w₀ : Bool} {s₀ u₀ : State} (hk₀ : Keeps w₀ s₀ u₀) :
    Keeps w₀ s₀ (endTraining u₀) := by
  unfold endTraining
  repeat' (first
    | with_reducible assumption
    | with_reducible apply keeps_respond
    | with_reducible apply keeps_setEng
    | (intro _ _ _)
    | (intro _ _)
    | intro _
    | simp only [keeps_mk_iff]
    | dsimp only
    | dsimp only [id_eq]
    | split)

theorem keeps_endChannels {w₀ : Bool} {s₀ u₀ : State} (hk₀ : Keeps w₀ s₀ u₀) :
    Keeps w₀ s₀ (endChannels u₀) := by
  unfold endChannels
  repeat' (first
    | with_reducible assumption
    | with_reducible apply keeps_closeChan
    | with_reducible apply Keeps.foldl
    | with_reducible apply Keeps.foldl1
    | with_reducible apply Keeps.foldl2
    | with_reducible apply Keeps.foldl22
    | with_reducible apply Keeps.of_pair (by assumption)
    | with_reducible apply Keeps.of_triple (by assumption)
    | with_reducible apply Keeps.of_pair' (by assumption)
    | (intro _ _ _)
    | (intro _ _)
    | intro _
    | dsimp only
    | dsimp only [id_eq]
    | split)

theorem keeps_resetPrepare {w₀ : Bool} {s₀ u₀ : State} (hk₀ : Keeps w₀ s₀ u₀) :
    Keeps w₀ s₀ (resetPrepare u₀) := by
  unfold resetPrepare
  repeat' (first
    | with_reducible assumption
    | with_reducible apply keeps_closePage
    | with_reducible apply keeps_completeTerms
    | with_reducible apply keeps_endChannels
    | with_reducible apply keeps_endNow
    | with_reducible apply keeps_endRole
    | with_reducible apply keeps_endTraining
    | with_reducible apply keeps_endUpdate
    | with_reducible apply Keeps.foldl
    | with_reducible apply Keeps.foldl1
    | with_reducible apply Keeps.foldl2
    | with_reducible apply Keeps.foldl22
    | with_reducible apply Keeps.of_pair (by assumption)
    | with_reducible apply Keeps.of_triple (by assumption)
    | with_reducible apply Keeps.of_pair' (by assumption)
    | (intro _ _ _)
    | (intro _ _)
    | intro _
    | dsimp only
    | dsimp only [id_eq]
    | split)

theorem keeps_moduleResetState {w₀ : Bool} {s₀ u₀ : State} (hk₀ : Keeps w₀ s₀ u₀) : Keeps w₀ s₀ (moduleResetState u₀) :=
  hk₀.trans ⟨rfl, fun _ => ⟨rfl, rfl⟩, id, fun _ => rfl,
    (keeps_resetRegs (w₀ := false) keptModule (fun a => decide (a < 0xF100000000) && decide (a / 0x4000 ≠ strB / 0x4000)) (.refl u₀)).regs⟩

theorem keeps_warmBoot {w₀ : Bool} {s₀ u₀ : State} (hk₀ : Keeps w₀ s₀ u₀) :
    Keeps w₀ s₀ (warmBoot u₀) := by
  unfold warmBoot
  repeat' (first
    | with_reducible assumption
    | with_reducible apply keeps_bootChain
    | with_reducible apply keeps_setTrust
    | (intro _ _ _)
    | (intro _ _)
    | intro _
    | simp only [keeps_mk_iff]
    | dsimp only
    | dsimp only [id_eq]
    | split)

theorem keeps_moduleReset {w₀ : Bool} {s₀ u₀ : State} (hk₀ : Keeps w₀ s₀ u₀) :
    Keeps w₀ s₀ (moduleReset u₀) := by
  unfold moduleReset
  repeat' (first
    | with_reducible assumption
    | with_reducible apply keeps_emit
    | with_reducible apply keeps_moduleResetState
    | with_reducible apply keeps_refreshClosed
    | with_reducible apply keeps_resetPrepare
    | with_reducible apply keeps_seqGate
    | with_reducible apply keeps_setF
    | with_reducible apply keeps_warmBoot
    | with_reducible apply Keeps.ite
    | (intro _ _ _)
    | (intro _ _)
    | intro _
    | simp only [keeps_mk_iff]
    | dsimp only
    | dsimp only [id_eq]
    | split)

theorem keeps_powerOff {w₀ : Bool} {s₀ u₀ : State} (hk₀ : Keeps w₀ s₀ u₀) :
    Keeps w₀ s₀ (powerOff u₀) := by
  unfold powerOff
  repeat' (first
    | with_reducible assumption
    | with_reducible apply keeps_setPower
    | (intro _ _ _)
    | (intro _ _)
    | intro _
    | simp only [keeps_mk_iff]
    | dsimp only
    | dsimp only [id_eq]
    | split)

theorem keeps_inputPowerLoss {w₀ : Bool} {s₀ u₀ : State} (hk₀ : Keeps w₀ s₀ u₀) :
    Keeps w₀ s₀ (inputPowerLoss u₀) := by
  unfold inputPowerLoss
  repeat' (first
    | with_reducible assumption
    | with_reducible apply keeps_powerOff
    | with_reducible apply Keeps.ite
    | (intro _ _ _)
    | (intro _ _)
    | intro _
    | dsimp only
    | dsimp only [id_eq]
    | split)

theorem keeps_inputOvervoltage {w₀ : Bool} {s₀ u₀ : State} (hk₀ : Keeps w₀ s₀ u₀) :
    Keeps w₀ s₀ (inputOvervoltage u₀) := by
  unfold inputOvervoltage
  repeat' (first
    | with_reducible assumption
    | with_reducible apply keeps_opened
    | with_reducible apply keeps_powerOff
    | with_reducible apply keeps_setPower
    | (intro _ _ _)
    | (intro _ _)
    | intro _
    | simp only [keeps_mk_iff]
    | dsimp only
    | dsimp only [id_eq]
    | split)

theorem keeps_inputUndervoltage {w₀ : Bool} {s₀ u₀ : State} (hk₀ : Keeps w₀ s₀ u₀) :
    Keeps w₀ s₀ (inputUndervoltage u₀) := by
  unfold inputUndervoltage
  repeat' (first
    | with_reducible assumption
    | with_reducible apply keeps_drdEvent
    | with_reducible apply keeps_regulatorAlert
    | with_reducible apply Keeps.ite
    | (intro _ _ _)
    | (intro _ _)
    | intro _
    | dsimp only
    | dsimp only [id_eq]
    | split)

theorem keeps_inputUndervoltageClear {w₀ : Bool} {s₀ u₀ : State} (hk₀ : Keeps w₀ s₀ u₀) :
    Keeps w₀ s₀ (inputUndervoltageClear u₀) := by
  unfold inputUndervoltageClear
  repeat' (first
    | with_reducible assumption
    | with_reducible apply keeps_regulatorClear
    | with_reducible apply keeps_seqResume
    | (intro _ _ _)
    | (intro _ _)
    | intro _
    | dsimp only
    | dsimp only [id_eq]
    | split)

theorem keeps_inputHighSeen {w₀ : Bool} {s₀ u₀ : State} (hk₀ : Keeps w₀ s₀ u₀) :
    Keeps w₀ s₀ (inputHighSeen u₀) := by
  unfold inputHighSeen
  repeat' (first
    | with_reducible assumption
    | with_reducible apply keeps_drdEvent
    | with_reducible apply keeps_setDitch
    | with_reducible apply Keeps.ite
    | (intro _ _ _)
    | (intro _ _)
    | intro _
    | simp only [keeps_mk_iff]
    | dsimp only
    | dsimp only [id_eq]
    | split)

theorem keeps_bladeFuse {w₀ : Bool} {s₀ u₀ : State} (pair : Nat) (hk₀ : Keeps w₀ s₀ u₀) :
    Keeps w₀ s₀ (bladeFuse pair u₀) := by
  unfold bladeFuse
  repeat' (first
    | with_reducible assumption
    | with_reducible apply keeps_whenB
    | with_reducible apply keeps_drdEvent
    | with_reducible apply keeps_powerOff
    | with_reducible apply keeps_setDitch
    | with_reducible apply keeps_showCap
    | with_reducible apply Keeps.ite
    | (intro _ _ _)
    | (intro _ _)
    | intro _
    | simp only [keeps_mk_iff]
    | dsimp only
    | dsimp only [id_eq]
    | split)

theorem keeps_refclkLost {w₀ : Bool} {s₀ u₀ : State} (hk₀ : Keeps w₀ s₀ u₀) :
    Keeps w₀ s₀ (refclkLost u₀) := by
  unfold refclkLost
  repeat' (first
    | with_reducible assumption
    | with_reducible apply keeps_drdEvent
    | with_reducible apply keeps_setF
    | with_reducible apply keeps_setPower
    | with_reducible apply Keeps.ite
    | (intro _ _ _)
    | (intro _ _)
    | intro _
    | simp only [keeps_mk_iff]
    | dsimp only
    | dsimp only [id_eq]
    | split)

theorem keeps_refclkReturn {w₀ : Bool} {s₀ u₀ : State} (hk₀ : Keeps w₀ s₀ u₀) :
    Keeps w₀ s₀ (refclkReturn u₀) := by
  unfold refclkReturn
  repeat' (first
    | with_reducible assumption
    | with_reducible apply keeps_setPower
    | with_reducible apply Keeps.ite
    | (intro _ _ _)
    | (intro _ _)
    | intro _
    | simp only [keeps_mk_iff]
    | dsimp only
    | dsimp only [id_eq]
    | split)

theorem keeps_coolantReading {w₀ : Bool} {s₀ u₀ : State} (inlet : Nat) (flow : Nat) (hk₀ : Keeps w₀ s₀ u₀) :
    Keeps w₀ s₀ (coolantReading inlet flow u₀) := by
  unfold coolantReading
  repeat' (first
    | with_reducible assumption
    | with_reducible apply keeps_coolantSensors
    | with_reducible apply keeps_setDitch
    | with_reducible apply keeps_showCap
    | with_reducible apply Keeps.ite
    | (intro _ _ _)
    | (intro _ _)
    | intro _
    | simp only [keeps_mk_iff]
    | dsimp only
    | dsimp only [id_eq]
    | split)

theorem keeps_configRequest {w₀ : Bool} {s₀ u₀ : State} (h : Nat) (hk₀ : Keeps w₀ s₀ u₀) :
    Keeps w₀ s₀ (configRequest h u₀) := by
  unfold configRequest
  repeat' (first
    | with_reducible assumption
    | with_reducible apply keeps_emit
    | with_reducible apply Keeps.ite
    | (intro _ _ _)
    | (intro _ _)
    | intro _
    | dsimp only
    | dsimp only [id_eq]
    | split)

end Sys2Proof.Laws
end

