-- ==== Sys2Proof/Laws/KeepsTick.lean ====
section
/-!
SUPPORT. What the operations of Machine/Tick.lean keep (see Keeps).
-/

namespace Sys2Proof.Laws

open Sys2Proof.Machine

theorem keeps_endSecond {w₀ : Bool} {s₀ u₀ : State} (hk₀ : Keeps w₀ s₀ u₀) :
    Keeps w₀ s₀ (endSecond u₀) := by
  unfold endSecond
  repeat' (first
    | with_reducible assumption
    | with_reducible apply Keeps.ite
    | (intro _ _ _)
    | (intro _ _)
    | intro _
    | simp only [keeps_mk_iff]
    | dsimp only
    | dsimp only [id_eq]
    | split)

theorem keeps_tick {s₀ u₀ : State} (hk₀ : Keeps false s₀ u₀) : Keeps false s₀ (tick u₀) := by
  unfold tick
  refine Keeps.ite (fun _ => hk₀) (fun _ => Keeps.ite (fun _ => keeps_bumpPair _ _ _ hk₀) (fun _ => keeps_endSecond ?_))
  exact ⟨hk₀.queue, fun e => (Bool.false_ne_true e).elim, hk₀.hbm, hk₀.spad, hk₀.regs⟩

end Sys2Proof.Laws
end

