-- ==== Sys2Proof/Laws/KeepsExec.lean ====
section
/-!
SUPPORT. Every meaning answers a next state, and what that state keeps (see Keeps); only the two cold starts move the epoch and set the
module counter back.
-/

namespace Sys2Proof.Laws

open Sys2Proof.Machine

theorem keeps_execRegisterWrite (p : Path) (addr : PAddr) (data : Word) (be : BitVec 4) (s : State) :
    ∃ t, execRegisterWrite p addr data be s = .next t ∧ Keeps true s t := by
  refine ⟨_, rfl, ?_⟩
  with_reducible repeat' (first
    | exact Keeps.refl _
    | assumption
    | apply keeps_regWrite
    | intro _)

theorem keeps_execRegisterAliasWrite (p : Path) (addr : PAddr) (data : Word) (be : BitVec 4) (s : State) :
    ∃ t, execRegisterAliasWrite p addr data be s = .next t ∧ Keeps true s t := by
  refine ⟨_, rfl, ?_⟩
  with_reducible repeat' (first
    | exact Keeps.refl _
    | assumption
    | apply keeps_atOffset
    | apply keeps_regWrite
    | intro _)

theorem keeps_execLoRead (p : Path) (addr : PAddr) (s : State) :
    ∃ t, execLoRead p addr s = .next t ∧ Keeps true s t := by
  refine ⟨_, rfl, ?_⟩
  with_reducible repeat' (first
    | exact Keeps.refl _
    | assumption
    | apply keeps_atOffset
    | apply keeps_regRead
    | intro _)

theorem keeps_execHiRead (p : Path) (addr : PAddr) (s : State) :
    ∃ t, execHiRead p addr s = .next t ∧ Keeps true s t := by
  refine ⟨_, rfl, ?_⟩
  with_reducible repeat' (first
    | exact Keeps.refl _
    | assumption
    | apply keeps_atOffset
    | apply keeps_regRead
    | intro _)

theorem keeps_execLoWrite (p : Path) (addr : PAddr) (data : Word) (s : State) :
    ∃ t, execLoWrite p addr data s = .next t ∧ Keeps true s t := by
  refine ⟨_, rfl, ?_⟩
  with_reducible repeat' (first
    | exact Keeps.refl _
    | assumption
    | apply keeps_atOffset
    | apply keeps_regWrite
    | intro _)

theorem keeps_execHiWrite (p : Path) (addr : PAddr) (data : Word) (s : State) :
    ∃ t, execHiWrite p addr data s = .next t ∧ Keeps true s t := by
  refine ⟨_, rfl, ?_⟩
  with_reducible repeat' (first
    | exact Keeps.refl _
    | assumption
    | apply keeps_atOffset
    | apply keeps_regWrite
    | intro _)

theorem keeps_execStrCredit (p : Path) (data : Word) (s : State) :
    ∃ t, execStrCredit p data s = .next t ∧ Keeps true s t := by
  refine ⟨_, rfl, ?_⟩
  with_reducible repeat' (first
    | exact Keeps.refl _
    | assumption
    | apply keeps_ownedWrite
    | apply keeps_credit
    | intro _)

theorem keeps_execIrqStatClear (p : Path) (addr : PAddr) (data : Word) (s : State) :
    ∃ t, execIrqStatClear p addr data s = .next t ∧ Keeps true s t := by
  refine ⟨_, rfl, ?_⟩
  with_reducible repeat' (first
    | exact Keeps.refl _
    | assumption
    | apply keeps_atOffset
    | apply keeps_regWrite
    | intro _)

theorem keeps_execIrqForce (p : Path) (addr : PAddr) (data : Word) (s : State) :
    ∃ t, execIrqForce p addr data s = .next t ∧ Keeps true s t := by
  refine ⟨_, rfl, ?_⟩
  with_reducible repeat' (first
    | exact Keeps.refl _
    | assumption
    | apply keeps_atOffset
    | apply keeps_regWrite
    | intro _)

theorem keeps_execErrClr (p : Path) (addr : PAddr) (data : Word) (s : State) :
    ∃ t, execErrClr p addr data s = .next t ∧ Keeps true s t := by
  refine ⟨_, rfl, ?_⟩
  with_reducible repeat' (first
    | exact Keeps.refl _
    | assumption
    | apply keeps_atOffset
    | apply keeps_regWrite
    | intro _)

theorem keeps_execRoleRequest (p : Path) (data : Word) (s : State) :
    ∃ t, execRoleRequest p data s = .next t ∧ Keeps true s t := by
  refine ⟨_, rfl, ?_⟩
  with_reducible repeat' (first
    | exact Keeps.refl _
    | assumption
    | apply keeps_ownedWrite
    | apply keeps_roleRequest
    | intro _)

theorem keeps_execRoleSwitch (s : State) :
    ∃ t, execRoleSwitch s = .next t ∧ Keeps true s t := by
  refine ⟨_, rfl, ?_⟩
  with_reducible repeat' (first
    | exact Keeps.refl _
    | assumption
    | apply keeps_roleSwitch
    | intro _)

theorem keeps_execModAlertClear (p : Path) (data : Word) (s : State) :
    ∃ t, execModAlertClear p data s = .next t ∧ Keeps true s t := by
  refine ⟨_, rfl, ?_⟩
  with_reducible repeat' (first
    | exact Keeps.refl _
    | assumption
    | apply keeps_ownedWrite
    | apply keeps_alertWrite
    | intro _)

theorem keeps_execShareWrite (p : Path) (reg : Fin 4) (data : Word) (s : State) :
    ∃ t, execShareWrite p reg data s = .next t ∧ Keeps true s t := by
  refine ⟨_, rfl, ?_⟩
  with_reducible repeat' (first
    | exact Keeps.refl _
    | assumption
    | apply keeps_ownedWrite
    | apply keeps_writeShare
    | intro _)

theorem keeps_execCapWrite (p : Path) (data : Word) (s : State) :
    ∃ t, execCapWrite p data s = .next t ∧ Keeps true s t := by
  refine ⟨_, rfl, ?_⟩
  with_reducible repeat' (first
    | exact Keeps.refl _
    | assumption
    | apply keeps_capWrite
    | intro _)

theorem keeps_execDeepRequest (p : Path) (data : Word) (s : State) :
    ∃ t, execDeepRequest p data s = .next t ∧ Keeps true s t := by
  refine ⟨_, rfl, ?_⟩
  with_reducible repeat' (first
    | exact Keeps.refl _
    | assumption
    | apply keeps_deepRequest
    | intro _)

theorem keeps_execDeepRequestEnd (p : Path) (data : Word) (s : State) :
    ∃ t, execDeepRequestEnd p data s = .next t ∧ Keeps true s t := by
  refine ⟨_, rfl, ?_⟩
  with_reducible repeat' (first
    | exact Keeps.refl _
    | assumption
    | apply keeps_deepRequest
    | intro _)

theorem keeps_execSluiceGo (p : Path) (die : Die) (acre : PAcre) (data : Word) (s : State) :
    ∃ t, execSluiceGo p die acre data s = .next t ∧ Keeps true s t := by
  refine ⟨_, rfl, ?_⟩
  with_reducible repeat' (first
    | exact Keeps.refl _
    | assumption
    | apply keeps_ownedWrite
    | apply keeps_sluiceGo
    | intro _)

theorem keeps_execSluiceComplete (die : Die) (acre : PAcre) (s : State) :
    ∃ t, execSluiceComplete die acre s = .next t ∧ Keeps true s t := by
  refine ⟨_, rfl, ?_⟩
  with_reducible repeat' (first
    | exact Keeps.refl _
    | assumption
    | apply keeps_sluiceComplete
    | intro _)

theorem keeps_execBistRun (p : Path) (die : Die) (acre : PAcre) (data : Word) (s : State) :
    ∃ t, execBistRun p die acre data s = .next t ∧ Keeps true s t := by
  refine ⟨_, rfl, ?_⟩
  with_reducible repeat' (first
    | exact Keeps.refl _
    | assumption
    | apply keeps_ownedWrite
    | apply keeps_bistRun
    | intro _)

theorem keeps_execBistDone (die : Die) (acre : PAcre) (fail : Option (Fin 580)) (s : State) :
    ∃ t, execBistDone die acre fail s = .next t ∧ Keeps true s t := by
  refine ⟨_, rfl, ?_⟩
  with_reducible repeat' (first
    | exact Keeps.refl _
    | assumption
    | apply keeps_bistDone
    | intro _)

theorem keeps_execSpareTestRun (p : Path) (die : Die) (acre : PAcre) (data : Word) (s : State) :
    ∃ t, execSpareTestRun p die acre data s = .next t ∧ Keeps true s t := by
  refine ⟨_, rfl, ?_⟩
  with_reducible repeat' (first
    | exact Keeps.refl _
    | assumption
    | apply keeps_ownedWrite
    | apply keeps_spareTestRun
    | intro _)

theorem keeps_execSpareSelfTest (die : Die) (acre : PAcre) (s : State) :
    ∃ t, execSpareSelfTest die acre s = .next t ∧ Keeps true s t := by
  refine ⟨_, rfl, ?_⟩
  with_reducible repeat' (first
    | exact Keeps.refl _
    | assumption
    | apply keeps_spareSelfTest
    | intro _)

theorem keeps_execSpareTestDone (die : Die) (acre : PAcre) (sp : Fin 2) (fail : Bool) (s : State) :
    ∃ t, execSpareTestDone die acre sp fail s = .next t ∧ Keeps true s t := by
  refine ⟨_, rfl, ?_⟩
  with_reducible repeat' (first
    | exact Keeps.refl _
    | assumption
    | apply keeps_spareTestDone
    | intro _)

theorem keeps_execAcreTestRequest (p : Path) (data : Word) (s : State) :
    ∃ t, execAcreTestRequest p data s = .next t ∧ Keeps true s t := by
  refine ⟨_, rfl, ?_⟩
  with_reducible repeat' (first
    | exact Keeps.refl _
    | assumption
    | apply keeps_ownedWrite
    | apply keeps_testRequest
    | intro _)

theorem keeps_execScratchpadAccess (a : SpadAcc) (s : State) :
    ∃ t, execScratchpadAccess a s = .next t ∧ Keeps true s t := by
  refine ⟨_, rfl, ?_⟩
  with_reducible repeat' (first
    | exact Keeps.refl _
    | assumption
    | apply keeps_spadAccess
    | intro _)

theorem keeps_execScratchpadAliasWrite (a : SpadAcc) (set : Bool) (s : State) :
    ∃ t, execScratchpadAliasWrite a set s = .next t ∧ Keeps true s t := by
  refine ⟨_, rfl, ?_⟩
  with_reducible repeat' (first
    | exact Keeps.refl _
    | assumption
    | apply keeps_aliasWrite
    | intro _)

theorem keeps_execCircWrite (die : Die) (acre : PAcre) (bank : Bank) (data : List Byte) (s : State) :
    ∃ t, execCircWrite die acre bank data s = .next t ∧ Keeps true s t := by
  refine ⟨_, rfl, ?_⟩
  with_reducible repeat' (first
    | exact Keeps.refl _
    | assumption
    | apply keeps_circWrite
    | intro _)

theorem keeps_execCircRead (die : Die) (acre : PAcre) (bank : Bank) (line : Bool) (s : State) :
    ∃ t, execCircRead die acre bank line s = .next t ∧ Keeps true s t := by
  refine ⟨_, rfl, ?_⟩
  with_reducible repeat' (first
    | exact Keeps.refl _
    | assumption
    | apply keeps_circRead
    | intro _)

theorem keeps_execEccWriteback (die : Die) (acre : PAcre) (word : Nat) (s : State) :
    ∃ t, execEccWriteback die acre word s = .next t ∧ Keeps true s t := by
  refine ⟨_, rfl, ?_⟩
  with_reducible repeat' (first
    | exact Keeps.refl _
    | assumption
    | apply keeps_eccWriteback
    | intro _)

theorem keeps_execColumnRepairDone (die : Die) (acre : PAcre) (bank : Bank) (s : State) :
    ∃ t, execColumnRepairDone die acre bank s = .next t ∧ Keeps true s t := by
  refine ⟨_, rfl, ?_⟩
  with_reducible repeat' (first
    | exact Keeps.refl _
    | assumption
    | apply keeps_columnDone
    | intro _)

theorem keeps_execScrubLine (die : Die) (acre : PAcre) (errs : List (Bank × WordErr)) (cycle : Nat) (s : State) :
    ∃ t, execScrubLine die acre errs cycle s = .next t ∧ Keeps true s t := by
  refine ⟨_, rfl, ?_⟩
  with_reducible repeat' (first
    | exact Keeps.refl _
    | assumption
    | apply keeps_scrubLine
    | intro _)

theorem keeps_execMgmtWordTimeout (die : Die) (acre : LAcre) (off : Nat) (write : Bool) (s : State) :
    ∃ t, execMgmtWordTimeout die acre off write s = .next t ∧ Keeps true s t := by
  refine ⟨_, rfl, ?_⟩
  with_reducible repeat' (first
    | exact Keeps.refl _
    | assumption
    | apply keeps_mgmtTimeout
    | intro _)

theorem keeps_execReservoirScrub (die : Die) (line : Nat) (err : ReadErr) (dirty : Bool) (loc : Option (Nat × Nat × Nat)) (s : State) :
    ∃ t, execReservoirScrub die line err dirty loc s = .next t ∧ Keeps true s t := by
  refine ⟨_, rfl, ?_⟩
  with_reducible repeat' (first
    | exact Keeps.refl _
    | assumption
    | apply keeps_reservoirScrub
    | intro _)

theorem keeps_execAtomicAdd (die : Die) (acre : PAcre) (s : State) :
    ∃ t, execAtomicAdd die acre s = .next t ∧ Keeps true s t := by
  refine ⟨_, rfl, ?_⟩
  with_reducible repeat' (first
    | exact Keeps.refl _
    | assumption
    | apply keeps_atomicAdd
    | intro _)

theorem keeps_execFurrowPass (die : Die) (acre : PAcre) (stall : Nat) (s : State) :
    ∃ t, execFurrowPass die acre stall s = .next t ∧ Keeps true s t := by
  refine ⟨_, rfl, ?_⟩
  with_reducible repeat' (first
    | exact Keeps.refl _
    | assumption
    | apply keeps_furrowPass
    | intro _)

theorem keeps_execPassResidueCompare (die : Die) (acre : PAcre) (errs : List PassErr) (s : State) :
    ∃ t, execPassResidueCompare die acre errs s = .next t ∧ Keeps true s t := by
  refine ⟨_, rfl, ?_⟩
  with_reducible repeat' (first
    | exact Keeps.refl _
    | assumption
    | apply keeps_passCompare
    | intro _)

theorem keeps_execResidueRepeatDone (die : Die) (acre : PAcre) (m : LMacro) (errs : List PassErr) (cycle : Nat) (s : State) :
    ∃ t, execResidueRepeatDone die acre m errs cycle s = .next t ∧ Keeps true s t := by
  refine ⟨_, rfl, ?_⟩
  with_reducible repeat' (first
    | exact Keeps.refl _
    | assumption
    | apply keeps_repeatDone
    | intro _)

theorem keeps_execWeightLoadStart (die : Die) (acre : PAcre) (m : LMacro) (s : State) :
    ∃ t, execWeightLoadStart die acre m s = .next t ∧ Keeps true s t := by
  refine ⟨_, rfl, ?_⟩
  with_reducible repeat' (first
    | exact Keeps.refl _
    | assumption
    | apply keeps_weightLoadStart
    | intro _)

theorem keeps_execWeightLoadDone (die : Die) (acre : PAcre) (m : LMacro) (s : State) :
    ∃ t, execWeightLoadDone die acre m s = .next t ∧ Keeps true s t := by
  refine ⟨_, rfl, ?_⟩
  with_reducible repeat' (first
    | exact Keeps.refl _
    | assumption
    | apply keeps_weightLoadDone
    | intro _)

theorem keeps_execSetNotReady (die : Die) (acre : PAcre) (s : State) :
    ∃ t, execSetNotReady die acre s = .next t ∧ Keeps true s t := by
  refine ⟨_, rfl, ?_⟩
  with_reducible repeat' (first
    | exact Keeps.refl _
    | assumption
    | apply keeps_setNotReady
    | intro _)

theorem keeps_execAccPreloadStart (die : Die) (acre : PAcre) (s : State) :
    ∃ t, execAccPreloadStart die acre s = .next t ∧ Keeps true s t := by
  refine ⟨_, rfl, ?_⟩
  with_reducible repeat' (first
    | exact Keeps.refl _
    | assumption
    | apply keeps_accPreloadStart
    | intro _)

theorem keeps_execAccPreloadDone (die : Die) (acre : PAcre) (acc1 : Bool) (s : State) :
    ∃ t, execAccPreloadDone die acre acc1 s = .next t ∧ Keeps true s t := by
  refine ⟨_, rfl, ?_⟩
  with_reducible repeat' (first
    | exact Keeps.refl _
    | assumption
    | apply keeps_accPreloadDone
    | intro _)

theorem keeps_execAccDrain (die : Die) (acre : PAcre) (acc1 : Bool) (s : State) :
    ∃ t, execAccDrain die acre acc1 s = .next t ∧ Keeps true s t := by
  refine ⟨_, rfl, ?_⟩
  with_reducible repeat' (first
    | exact Keeps.refl _
    | assumption
    | apply keeps_accDrain
    | intro _)

theorem keeps_execAccDrainDone (die : Die) (acre : PAcre) (acc1 : Bool) (s : State) :
    ∃ t, execAccDrainDone die acre acc1 s = .next t ∧ Keeps true s t := by
  refine ⟨_, rfl, ?_⟩
  with_reducible repeat' (first
    | exact Keeps.refl _
    | assumption
    | apply keeps_accDrainDone
    | intro _)

theorem keeps_execCourseYield (die : Die) (acre : PAcre) (s : State) :
    ∃ t, execCourseYield die acre s = .next t ∧ Keeps true s t := by
  refine ⟨_, rfl, ?_⟩
  with_reducible repeat' (first
    | exact Keeps.refl _
    | assumption
    | apply keeps_courseYield
    | intro _)

theorem keeps_execCourseResume (die : Die) (acre : PAcre) (s : State) :
    ∃ t, execCourseResume die acre s = .next t ∧ Keeps true s t := by
  refine ⟨_, rfl, ?_⟩
  with_reducible repeat' (first
    | exact Keeps.refl _
    | assumption
    | apply keeps_courseResume
    | intro _)

theorem keeps_execCourseStart (die : Die) (acre : PAcre) (s : State) :
    ∃ t, execCourseStart die acre s = .next t ∧ Keeps true s t := by
  refine ⟨_, rfl, ?_⟩
  with_reducible repeat' (first
    | exact Keeps.refl _
    | assumption
    | apply keeps_courseStart
    | intro _)

theorem keeps_execMatmulCourse (iss : Issue) (s : State) :
    ∃ t, execMatmulCourse iss s = .next t ∧ Keeps true s t := by
  refine ⟨_, rfl, ?_⟩
  with_reducible repeat' (first
    | exact Keeps.refl _
    | assumption
    | apply keeps_matmulCourse
    | intro _)

theorem keeps_execBasinCourse (iss : Issue) (s : State) :
    ∃ t, execBasinCourse iss s = .next t ∧ Keeps true s t := by
  refine ⟨_, rfl, ?_⟩
  with_reducible repeat' (first
    | exact Keeps.refl _
    | assumption
    | apply keeps_basinCourse
    | intro _)

theorem keeps_execAttendCourse (iss : Issue) (table : List Byte) (s : State) :
    ∃ t, execAttendCourse iss table s = .next t ∧ Keeps true s t := by
  refine ⟨_, rfl, ?_⟩
  with_reducible repeat' (first
    | exact Keeps.refl _
    | assumption
    | apply keeps_attendCourse
    | intro _)

theorem keeps_execAttendMerge (iss : Issue) (s : State) :
    ∃ t, execAttendMerge iss s = .next t ∧ Keeps true s t := by
  refine ⟨_, rfl, ?_⟩
  with_reducible repeat' (first
    | exact Keeps.refl _
    | assumption
    | apply keeps_attendMerge
    | intro _)

theorem keeps_execRmsNormalisation (iss : Issue) (s : State) :
    ∃ t, execRmsNormalisation iss s = .next t ∧ Keeps true s t := by
  refine ⟨_, rfl, ?_⟩
  with_reducible repeat' (first
    | exact Keeps.refl _
    | assumption
    | apply keeps_vecCourse
    | apply keeps_rmsTile
    | apply keeps_noLast
    | dsimp only [walkOf]
    | intro _)

theorem keeps_execLayerNormalisation (iss : Issue) (s : State) :
    ∃ t, execLayerNormalisation iss s = .next t ∧ Keeps true s t := by
  refine ⟨_, rfl, ?_⟩
  with_reducible repeat' (first
    | exact Keeps.refl _
    | assumption
    | apply keeps_vecCourse
    | apply keeps_layerTile
    | apply keeps_noLast
    | dsimp only [walkOf]
    | intro _)

theorem keeps_execInt8Quantisation (iss : Issue) (s : State) :
    ∃ t, execInt8Quantisation iss s = .next t ∧ Keeps true s t := by
  refine ⟨_, rfl, ?_⟩
  with_reducible repeat' (first
    | exact Keeps.refl _
    | assumption
    | apply keeps_vecCourse
    | apply keeps_quantTile
    | apply keeps_noLast
    | dsimp only [walkOf]
    | intro _)

theorem keeps_execSoftmaxBlock (iss : Issue) (s : State) :
    ∃ t, execSoftmaxBlock iss s = .next t ∧ Keeps true s t := by
  refine ⟨_, rfl, ?_⟩
  with_reducible repeat' (first
    | exact Keeps.refl _
    | assumption
    | apply keeps_vecCourse
    | apply keeps_softTile
    | apply keeps_noLast
    | dsimp only [walkOf]
    | intro _)

theorem keeps_execRouting (iss : Issue) (s : State) :
    ∃ t, execRouting iss s = .next t ∧ Keeps true s t := by
  refine ⟨_, rfl, ?_⟩
  with_reducible repeat' (first
    | exact Keeps.refl _
    | assumption
    | apply keeps_vecCourse
    | apply keeps_routeTile
    | apply keeps_routeLast
    | apply keeps_noLast
    | dsimp only [walkOf]
    | intro _)

theorem keeps_execVectorAdd (iss : Issue) (s : State) :
    ∃ t, execVectorAdd iss s = .next t ∧ Keeps true s t := by
  refine ⟨_, rfl, ?_⟩
  with_reducible repeat' (first
    | exact Keeps.refl _
    | assumption
    | apply keeps_vecCourse
    | apply keeps_zipTile
    | apply keeps_noLast
    | dsimp only [walkOf]
    | intro _)

theorem keeps_execVectorMultiply (iss : Issue) (s : State) :
    ∃ t, execVectorMultiply iss s = .next t ∧ Keeps true s t := by
  refine ⟨_, rfl, ?_⟩
  with_reducible repeat' (first
    | exact Keeps.refl _
    | assumption
    | apply keeps_vecCourse
    | apply keeps_zipTile
    | apply keeps_noLast
    | dsimp only [walkOf]
    | intro _)

theorem keeps_execSampling (iss : Issue) (rows : List StreamId) (s : State) :
    ∃ t, execSampling iss rows s = .next t ∧ Keeps true s t := by
  refine ⟨_, rfl, ?_⟩
  with_reducible repeat' (first
    | exact Keeps.refl _
    | assumption
    | apply keeps_sampling
    | intro _)

theorem keeps_execOrderedSum (iss : Issue) (s : State) :
    ∃ t, execOrderedSum iss s = .next t ∧ Keeps true s t := by
  refine ⟨_, rfl, ?_⟩
  with_reducible repeat' (first
    | exact Keeps.refl _
    | assumption
    | apply keeps_orderedSum
    | intro _)

theorem keeps_execFill (iss : Issue) (s : State) :
    ∃ t, execFill iss s = .next t ∧ Keeps true s t := by
  refine ⟨_, rfl, ?_⟩
  with_reducible repeat' (first
    | exact Keeps.refl _
    | assumption
    | apply keeps_moveCourse
    | apply keeps_fillTile
    | apply keeps_noLast
    | dsimp only [walkOf]
    | intro _)

theorem keeps_execCopy (iss : Issue) (s : State) :
    ∃ t, execCopy iss s = .next t ∧ Keeps true s t := by
  refine ⟨_, rfl, ?_⟩
  with_reducible repeat' (first
    | exact Keeps.refl _
    | assumption
    | apply keeps_moveCourse
    | apply keeps_copyTile
    | apply keeps_noLast
    | dsimp only [walkOf]
    | intro _)

theorem keeps_execTranspose (iss : Issue) (s : State) :
    ∃ t, execTranspose iss s = .next t ∧ Keeps true s t := by
  refine ⟨_, rfl, ?_⟩
  with_reducible repeat' (first
    | exact Keeps.refl _
    | assumption
    | apply keeps_moveCourse
    | apply keeps_transTile
    | apply keeps_noLast
    | dsimp only [walkOf]
    | intro _)

theorem keeps_execStride (iss : Issue) (s : State) :
    ∃ t, execStride iss s = .next t ∧ Keeps true s t := by
  refine ⟨_, rfl, ?_⟩
  with_reducible repeat' (first
    | exact Keeps.refl _
    | assumption
    | apply keeps_moveCourse
    | apply keeps_strideTile
    | apply keeps_noLast
    | dsimp only [walkOf]
    | intro _)

theorem keeps_execExpand (iss : Issue) (s : State) :
    ∃ t, execExpand iss s = .next t ∧ Keeps true s t := by
  refine ⟨_, rfl, ?_⟩
  with_reducible repeat' (first
    | exact Keeps.refl _
    | assumption
    | apply keeps_moveCourse
    | apply keeps_expandTile
    | apply keeps_noLast
    | dsimp only [walkOf]
    | intro _)

theorem keeps_execReadBeforeFill (ex : Executor) (s : State) :
    ∃ t, execReadBeforeFill ex s = .next t ∧ Keeps true s t := by
  refine ⟨_, rfl, ?_⟩
  with_reducible repeat' (first
    | exact Keeps.refl _
    | assumption
    | apply keeps_readBeforeFill
    | intro _)

theorem keeps_execOverwriteBeforeDrain (ex : Executor) (s : State) :
    ∃ t, execOverwriteBeforeDrain ex s = .next t ∧ Keeps true s t := by
  refine ⟨_, rfl, ?_⟩
  with_reducible repeat' (first
    | exact Keeps.refl _
    | assumption
    | apply keeps_overwriteBeforeDrain
    | intro _)

theorem keeps_execBoundUnreadable (iss : Issue) (coll : Bool) (s : State) :
    ∃ t, execBoundUnreadable iss coll s = .next t ∧ Keeps true s t := by
  refine ⟨_, rfl, ?_⟩
  with_reducible repeat' (first
    | exact Keeps.refl _
    | assumption
    | apply keeps_boundUnreadable
    | intro _)

theorem keeps_execChainBroken (ex : Executor) (s : State) :
    ∃ t, execChainBroken ex s = .next t ∧ Keeps true s t := by
  refine ⟨_, rfl, ?_⟩
  with_reducible repeat' (first
    | exact Keeps.refl _
    | assumption
    | apply keeps_chainBroken
    | intro _)

theorem keeps_execCourseRecordReceived (s : State) :
    ∃ t, execCourseRecordReceived s = .next t ∧ Keeps true s t := by
  refine ⟨_, rfl, ?_⟩
  with_reducible repeat' (first
    | exact Keeps.refl _
    | assumption
    | apply keeps_courseRecord
    | intro _)

theorem keeps_execBasinPass (die : Die) (run : Nat) (mask : Option (List NeuronPair)) (theta : Int) (hold : Bool) (s : State) :
    ∃ t, execBasinPass die run mask theta hold s = .next t ∧ Keeps true s t := by
  refine ⟨_, rfl, ?_⟩
  with_reducible repeat' (first
    | exact Keeps.refl _
    | assumption
    | apply keeps_basinPass
    | intro _)

theorem keeps_execWeirGroupResume (die : Die) (run : Nat) (s : State) :
    ∃ t, execWeirGroupResume die run s = .next t ∧ Keeps true s t := by
  refine ⟨_, rfl, ?_⟩
  with_reducible repeat' (first
    | exact Keeps.refl _
    | assumption
    | apply keeps_weirGroupResume
    | intro _)

theorem keeps_execClipWindowClose (basin : BasinIx) (s : State) :
    ∃ t, execClipWindowClose basin s = .next t ∧ Keeps true s t := by
  refine ⟨_, rfl, ?_⟩
  with_reducible repeat' (first
    | exact Keeps.refl _
    | assumption
    | apply keeps_clipWindowClose
    | intro _)

theorem keeps_execReferenceSlot (basin : BasinIx) (s : State) :
    ∃ t, execReferenceSlot basin s = .next t ∧ Keeps true s t := by
  refine ⟨_, rfl, ?_⟩
  with_reducible repeat' (first
    | exact Keeps.refl _
    | assumption
    | apply keeps_referenceSlot
    | intro _)

theorem keeps_execPlotTempRead (die : Die) (readings : List (PlotIx × Nat)) (s : State) :
    ∃ t, execPlotTempRead die readings s = .next t ∧ Keeps true s t := by
  refine ⟨_, rfl, ?_⟩
  with_reducible repeat' (first
    | exact Keeps.refl _
    | assumption
    | apply keeps_plotTempRead
    | intro _)

theorem keeps_execPlotThrottledReport (plot : PlotIx) (s : State) :
    ∃ t, execPlotThrottledReport plot s = .next t ∧ Keeps true s t := by
  refine ⟨_, rfl, ?_⟩
  with_reducible repeat' (first
    | exact Keeps.refl _
    | assumption
    | apply keeps_plotThrottledReport
    | intro _)

theorem keeps_execImageOpen (src : CmdSrc) (s : State) :
    ∃ t, execImageOpen src s = .next t ∧ Keeps true s t := by
  refine ⟨_, rfl, ?_⟩
  with_reducible repeat' (first
    | exact Keeps.refl _
    | assumption
    | apply keeps_imageOpen
    | intro _)

theorem keeps_execImageControlCheck (image : Nat) (s : State) :
    ∃ t, execImageControlCheck image s = .next t ∧ Keeps true s t := by
  refine ⟨_, rfl, ?_⟩
  with_reducible repeat' (first
    | exact Keeps.refl _
    | assumption
    | apply keeps_imageControlCheck
    | intro _)

theorem keeps_execBasinRecord (image : Nat) (s : State) :
    ∃ t, execBasinRecord image s = .next t ∧ Keeps true s t := by
  refine ⟨_, rfl, ?_⟩
  with_reducible repeat' (first
    | exact Keeps.refl _
    | assumption
    | apply keeps_basinRecord
    | intro _)

theorem keeps_execProgramRow (basin : BasinIx) (stuck : List CellStop) (pulsed : List (Fin 518)) (range : Fin 3) (s : State) :
    ∃ t, execProgramRow basin stuck pulsed range s = .next t ∧ Keeps true s t := by
  refine ⟨_, rfl, ?_⟩
  with_reducible repeat' (first
    | exact Keeps.refl _
    | assumption
    | apply keeps_programRow
    | intro _)

theorem keeps_execBasinSwap (basin : BasinIx) (s : State) :
    ∃ t, execBasinSwap basin s = .next t ∧ Keeps true s t := by
  refine ⟨_, rfl, ?_⟩
  with_reducible repeat' (first
    | exact Keeps.refl _
    | assumption
    | apply keeps_basinSwap
    | intro _)

theorem keeps_execSpareBasinTest (basin : BasinIx) (unusable : Nat) (offgrid : Bool) (s : State) :
    ∃ t, execSpareBasinTest basin unusable offgrid s = .next t ∧ Keeps true s t := by
  refine ⟨_, rfl, ?_⟩
  with_reducible repeat' (first
    | exact Keeps.refl _
    | assumption
    | apply keeps_spareBasinTest
    | intro _)

theorem keeps_execRecalDue (basin : BasinIx) (s : State) :
    ∃ t, execRecalDue basin s = .next t ∧ Keeps true s t := by
  refine ⟨_, rfl, ?_⟩
  with_reducible repeat' (first
    | exact Keeps.refl _
    | assumption
    | apply keeps_recalDue
    | intro _)

theorem keeps_execRecalibration (basin : BasinIx) (reads : List CellRead) (s : State) :
    ∃ t, execRecalibration basin reads s = .next t ∧ Keeps true s t := by
  refine ⟨_, rfl, ?_⟩
  with_reducible repeat' (first
    | exact Keeps.refl _
    | assumption
    | apply keeps_recalibration
    | intro _)

theorem keeps_execCalOverdue (basin : BasinIx) (s : State) :
    ∃ t, execCalOverdue basin s = .next t ∧ Keeps true s t := by
  refine ⟨_, rfl, ?_⟩
  with_reducible repeat' (first
    | exact Keeps.refl _
    | assumption
    | apply keeps_calOverdue
    | intro _)

theorem keeps_execCalRequest (src : CmdSrc) (s : State) :
    ∃ t, execCalRequest src s = .next t ∧ Keeps true s t := by
  refine ⟨_, rfl, ?_⟩
  with_reducible repeat' (first
    | exact Keeps.refl _
    | assumption
    | apply keeps_calRequest
    | intro _)

theorem keeps_execImageActivate (src : CmdSrc) (s : State) :
    ∃ t, execImageActivate src s = .next t ∧ Keeps true s t := by
  refine ⟨_, rfl, ?_⟩
  with_reducible repeat' (first
    | exact Keeps.refl _
    | assumption
    | apply keeps_imageActivate
    | intro _)

theorem keeps_execImageRelease (src : CmdSrc) (s : State) :
    ∃ t, execImageRelease src s = .next t ∧ Keeps true s t := by
  refine ⟨_, rfl, ?_⟩
  with_reducible repeat' (first
    | exact Keeps.refl _
    | assumption
    | apply keeps_imageRelease
    | intro _)

theorem keeps_execImageStatus (src : CmdSrc) (s : State) :
    ∃ t, execImageStatus src s = .next t ∧ Keeps true s t := by
  refine ⟨_, rfl, ?_⟩
  with_reducible repeat' (first
    | exact Keeps.refl _
    | assumption
    | apply keeps_imageStatus
    | intro _)

theorem keeps_execCorrectionStep (die : Die) (tgt : CorrTarget) (lanes : Bool) (repairBad : Bool) (time : Nat) (s : State) :
    ∃ t, execCorrectionStep die tgt lanes repairBad time s = .next t ∧ Keeps true s t := by
  refine ⟨_, rfl, ?_⟩
  with_reducible repeat' (first
    | exact Keeps.refl _
    | assumption
    | apply keeps_correctionStep
    | intro _)

theorem keeps_execLaneBorrow (die : Die) (lane : Fin 16384) (walked : List (Fin 16384 × Nat)) (s : State) :
    ∃ t, execLaneBorrow die lane walked s = .next t ∧ Keeps true s t := by
  refine ⟨_, rfl, ?_⟩
  with_reducible repeat' (first
    | exact Keeps.refl _
    | assumption
    | apply keeps_laneBorrow
    | intro _)

theorem keeps_execLaneChannelSend (die : Die) (lane : Fin 16384) (bad : Fin 3) (cycle : Nat) (time : Nat) (s : State) :
    ∃ t, execLaneChannelSend die lane bad cycle time s = .next t ∧ Keeps true s t := by
  refine ⟨_, rfl, ?_⟩
  with_reducible repeat' (first
    | exact Keeps.refl _
    | assumption
    | apply keeps_laneChannelSend
    | intro _)

theorem keeps_execPredictorOff (src : CmdSrc) (s : State) :
    ∃ t, execPredictorOff src s = .next t ∧ Keeps true s t := by
  refine ⟨_, rfl, ?_⟩
  with_reducible repeat' (first
    | exact Keeps.refl _
    | assumption
    | apply keeps_predictorSwitch
    | intro _)

theorem keeps_execPredictorOn (src : CmdSrc) (s : State) :
    ∃ t, execPredictorOn src s = .next t ∧ Keeps true s t := by
  refine ⟨_, rfl, ?_⟩
  with_reducible repeat' (first
    | exact Keeps.refl _
    | assumption
    | apply keeps_predictorSwitch
    | intro _)

theorem keeps_execRearm (src : CmdSrc) (s : State) :
    ∃ t, execRearm src s = .next t ∧ Keeps true s t := by
  refine ⟨_, rfl, ?_⟩
  with_reducible repeat' (first
    | exact Keeps.refl _
    | assumption
    | apply keeps_rearm
    | intro _)

theorem keeps_execKvImportHeader (stream : StreamId) (s : State) :
    ∃ t, execKvImportHeader stream s = .next t ∧ Keeps true s t := by
  refine ⟨_, rfl, ?_⟩
  with_reducible repeat' (first
    | exact Keeps.refl _
    | assumption
    | apply keeps_kvImportHeader
    | intro _)

theorem keeps_execKvImportRecord (stream : StreamId) (s : State) :
    ∃ t, execKvImportRecord stream s = .next t ∧ Keeps true s t := by
  refine ⟨_, rfl, ?_⟩
  with_reducible repeat' (first
    | exact Keeps.refl _
    | assumption
    | apply keeps_kvImportRecord
    | intro _)

theorem keeps_execRingFlitReceive (link : LinkDir) (lane : Fin 528) (ok : Bool) (again : Bool) (acked : Bool) (cycle : Nat) (s : State) :
    ∃ t, execRingFlitReceive link lane ok again acked cycle s = .next t ∧ Keeps true s t := by
  refine ⟨_, rfl, ?_⟩
  with_reducible repeat' (first
    | exact Keeps.refl _
    | assumption
    | apply keeps_flitReceive
    | intro _)

theorem keeps_execLinkRetrainDone (link : LinkDir) (s : State) :
    ∃ t, execLinkRetrainDone link s = .next t ∧ Keeps true s t := by
  refine ⟨_, rfl, ?_⟩
  with_reducible repeat' (first
    | exact Keeps.refl _
    | assumption
    | apply keeps_retrainDone
    | intro _)

theorem keeps_execAllReduce (iss : Issue) (s : State) :
    ∃ t, execAllReduce iss s = .next t ∧ Keeps true s t := by
  refine ⟨_, rfl, ?_⟩
  with_reducible repeat' (first
    | exact Keeps.refl _
    | assumption
    | apply keeps_issueColl
    | intro _)

theorem keeps_execReduceScatter (iss : Issue) (s : State) :
    ∃ t, execReduceScatter iss s = .next t ∧ Keeps true s t := by
  refine ⟨_, rfl, ?_⟩
  with_reducible repeat' (first
    | exact Keeps.refl _
    | assumption
    | apply keeps_issueColl
    | intro _)

theorem keeps_execAllGather (iss : Issue) (s : State) :
    ∃ t, execAllGather iss s = .next t ∧ Keeps true s t := by
  refine ⟨_, rfl, ?_⟩
  with_reducible repeat' (first
    | exact Keeps.refl _
    | assumption
    | apply keeps_issueColl
    | intro _)

theorem keeps_execBroadcast (iss : Issue) (s : State) :
    ∃ t, execBroadcast iss s = .next t ∧ Keeps true s t := by
  refine ⟨_, rfl, ?_⟩
  with_reducible repeat' (first
    | exact Keeps.refl _
    | assumption
    | apply keeps_issueColl
    | intro _)

theorem keeps_execFenceRecord (iss : Issue) (s : State) :
    ∃ t, execFenceRecord iss s = .next t ∧ Keeps true s t := by
  refine ⟨_, rfl, ?_⟩
  with_reducible repeat' (first
    | exact Keeps.refl _
    | assumption
    | apply keeps_issueColl
    | intro _)

theorem keeps_execFenceArrival (coll : Nat) (die : Die) (s : State) :
    ∃ t, execFenceArrival coll die s = .next t ∧ Keeps true s t := by
  refine ⟨_, rfl, ?_⟩
  with_reducible repeat' (first
    | exact Keeps.refl _
    | assumption
    | apply keeps_fenceArrival
    | intro _)

theorem keeps_execFenceMessage (coll : Nat) (die : Die) (s : State) :
    ∃ t, execFenceMessage coll die s = .next t ∧ Keeps true s t := by
  refine ⟨_, rfl, ?_⟩
  with_reducible repeat' (first
    | exact Keeps.refl _
    | assumption
    | apply keeps_fenceMessage
    | intro _)

theorem keeps_execCollectiveDone (coll : Nat) (die : Die) (s : State) :
    ∃ t, execCollectiveDone coll die s = .next t ∧ Keeps true s t := by
  refine ⟨_, rfl, ?_⟩
  with_reducible repeat' (first
    | exact Keeps.refl _
    | assumption
    | apply keeps_collectiveDone
    | intro _)

theorem keeps_execManagementFence (s : State) :
    ∃ t, execManagementFence s = .next t ∧ Keeps true s t := by
  refine ⟨_, rfl, ?_⟩
  with_reducible repeat' (first
    | exact Keeps.refl _
    | assumption
    | apply keeps_fenceActions
    | apply Keeps.ite
    | intro _)

theorem keeps_execSkewWindowClose (s : State) :
    ∃ t, execSkewWindowClose s = .next t ∧ Keeps true s t := by
  refine ⟨_, rfl, ?_⟩
  with_reducible repeat' (first
    | exact Keeps.refl _
    | assumption
    | apply keeps_skewWindow
    | intro _)

theorem keeps_execTrainStep (src : CmdSrc) (ended : Bool) (s : State) :
    ∃ t, execTrainStep src ended s = .next t ∧ Keeps true s t := by
  refine ⟨_, rfl, ?_⟩
  with_reducible repeat' (first
    | exact Keeps.refl _
    | assumption
    | apply keeps_trainStep
    | intro _)

theorem keeps_execAdmitPrompt (k : Nat) (desc : List Byte) (s : State) :
    ∃ t, execAdmitPrompt k desc s = .next t ∧ Keeps true s t := by
  refine ⟨_, rfl, ?_⟩
  with_reducible repeat' (first
    | exact Keeps.refl _
    | assumption
    | apply keeps_admitStream
    | intro _)

theorem keeps_execAdmitImport (k : Nat) (desc : List Byte) (s : State) :
    ∃ t, execAdmitImport k desc s = .next t ∧ Keeps true s t := by
  refine ⟨_, rfl, ?_⟩
  with_reducible repeat' (first
    | exact Keeps.refl _
    | assumption
    | apply keeps_admitStream
    | intro _)

theorem keeps_execPromptStaged (stream : StreamId) (tokens : List Word) (s : State) :
    ∃ t, execPromptStaged stream tokens s = .next t ∧ Keeps true s t := by
  refine ⟨_, rfl, ?_⟩
  with_reducible repeat' (first
    | exact Keeps.refl _
    | assumption
    | apply keeps_promptStaged
    | intro _)

theorem keeps_execAbort (src : CmdSrc) (s : State) :
    ∃ t, execAbort src s = .next t ∧ Keeps true s t := by
  refine ⟨_, rfl, ?_⟩
  with_reducible repeat' (first
    | exact Keeps.refl _
    | assumption
    | apply keeps_abort
    | intro _)

theorem keeps_execPark (src : CmdSrc) (s : State) :
    ∃ t, execPark src s = .next t ∧ Keeps true s t := by
  refine ⟨_, rfl, ?_⟩
  with_reducible repeat' (first
    | exact Keeps.refl _
    | assumption
    | apply keeps_parkCmd
    | intro _)

theorem keeps_execResume (src : CmdSrc) (s : State) :
    ∃ t, execResume src s = .next t ∧ Keeps true s t := by
  refine ⟨_, rfl, ?_⟩
  with_reducible repeat' (first
    | exact Keeps.refl _
    | assumption
    | apply keeps_resumeCmd
    | intro _)

theorem keeps_execExport (src : CmdSrc) (s : State) :
    ∃ t, execExport src s = .next t ∧ Keeps true s t := by
  refine ⟨_, rfl, ?_⟩
  with_reducible repeat' (first
    | exact Keeps.refl _
    | assumption
    | apply keeps_exportCmd
    | intro _)

theorem keeps_execQuery (src : CmdSrc) (s : State) :
    ∃ t, execQuery src s = .next t ∧ Keeps true s t := by
  refine ⟨_, rfl, ?_⟩
  with_reducible repeat' (first
    | exact Keeps.refl _
    | assumption
    | apply keeps_query
    | intro _)

theorem keeps_execList (src : CmdSrc) (s : State) :
    ∃ t, execList src s = .next t ∧ Keeps true s t := by
  refine ⟨_, rfl, ?_⟩
  with_reducible repeat' (first
    | exact Keeps.refl _
    | assumption
    | apply keeps_listCmd
    | intro _)

theorem keeps_execStepBoundary (m : MBatch) (s : State) :
    ∃ t, execStepBoundary m s = .next t ∧ Keeps true s t := by
  refine ⟨_, rfl, ?_⟩
  with_reducible repeat' (first
    | exact Keeps.refl _
    | assumption
    | apply keeps_stepBoundary
    | intro _)

theorem keeps_execSweepBoundary (s : State) :
    ∃ t, execSweepBoundary s = .next t ∧ Keeps true s t := by
  refine ⟨_, rfl, ?_⟩
  with_reducible repeat' (first
    | exact Keeps.refl _
    | assumption
    | apply keeps_sweepBoundary
    | intro _)

theorem keeps_execDoneHoldExpire (stream : StreamId) (s : State) :
    ∃ t, execDoneHoldExpire stream s = .next t ∧ Keeps true s t := by
  refine ⟨_, rfl, ?_⟩
  with_reducible repeat' (first
    | exact Keeps.refl _
    | assumption
    | apply keeps_doneHoldExpire
    | intro _)

theorem keeps_execAttributionEpoch (ein : Nat) (ed : List Nat) (volts : List Nat) (s : State) :
    ∃ t, execAttributionEpoch ein ed volts s = .next t ∧ Keeps true s t := by
  refine ⟨_, rfl, ?_⟩
  with_reducible repeat' (first
    | exact Keeps.refl _
    | assumption
    | apply keeps_attributionEpoch
    | intro _)

theorem keeps_execPageCloseTime (s : State) :
    ∃ t, execPageCloseTime s = .next t ∧ Keeps true s t := by
  refine ⟨_, rfl, ?_⟩
  with_reducible repeat' (first
    | exact Keeps.refl _
    | assumption
    | apply keeps_pageCloseTime
    | intro _)

theorem keeps_execPageSign (unit : Fin 2) (bad : Fin 3) (cycle : Nat) (writes : List (Bool × Bool)) (s : State) :
    ∃ t, execPageSign unit bad cycle writes s = .next t ∧ Keeps true s t := by
  refine ⟨_, rfl, ?_⟩
  with_reducible repeat' (first
    | exact Keeps.refl _
    | assumption
    | apply keeps_retryEnds
    | apply keeps_pageSign
    | intro _)

theorem keeps_execPageSigned (s : State) :
    ∃ t, execPageSigned s = .next t ∧ Keeps true s t := by
  refine ⟨_, rfl, ?_⟩
  with_reducible repeat' (first
    | exact Keeps.refl _
    | assumption
    | apply keeps_retryEnds
    | apply keeps_pageSigned
    | intro _)

theorem keeps_execLmsTreeBuilt (s : State) :
    ∃ t, execLmsTreeBuilt s = .next t ∧ Keeps true s t := by
  refine ⟨_, rfl, ?_⟩
  with_reducible repeat' (first
    | exact Keeps.refl _
    | assumption
    | apply keeps_lmsTreeBuilt
    | intro _)

theorem keeps_execJunctionRead (die : Die) (hot : Nat) (h0 : Nat) (h1 : Nat) (h2 : Nat) (head : Nat) (s : State) :
    ∃ t, execJunctionRead die hot h0 h1 h2 head s = .next t ∧ Keeps true s t := by
  refine ⟨_, rfl, ?_⟩
  with_reducible repeat' (first
    | exact Keeps.refl _
    | assumption
    | apply keeps_junctionRead
    | intro _)

theorem keeps_execThermalRecoveryStep (die : Die) (s : State) :
    ∃ t, execThermalRecoveryStep die s = .next t ∧ Keeps true s t := by
  refine ⟨_, rfl, ?_⟩
  with_reducible repeat' (first
    | exact Keeps.refl _
    | assumption
    | apply keeps_thermalStep
    | intro _)

theorem keeps_execThermalStillTimeout (die : Die) (s : State) :
    ∃ t, execThermalStillTimeout die s = .next t ∧ Keeps true s t := by
  refine ⟨_, rfl, ?_⟩
  with_reducible repeat' (first
    | exact Keeps.refl _
    | assumption
    | apply keeps_thermalStillTimeout
    | intro _)

theorem keeps_execPower10usMean (watts : Nat) (s : State) :
    ∃ t, execPower10usMean watts s = .next t ∧ Keeps true s t := by
  refine ⟨_, rfl, ?_⟩
  with_reducible repeat' (first
    | exact Keeps.refl _
    | assumption
    | apply keeps_powerMean
    | intro _)

theorem keeps_execCapUnreachable (s : State) :
    ∃ t, execCapUnreachable s = .next t ∧ Keeps true s t := by
  refine ⟨_, rfl, ?_⟩
  with_reducible repeat' (first
    | exact Keeps.refl _
    | assumption
    | apply keeps_capUnreachable
    | intro _)

theorem keeps_execDroopDetect (die : Die) (mv : Nat) (ns : Nat) (s : State) :
    ∃ t, execDroopDetect die mv ns s = .next t ∧ Keeps true s t := by
  refine ⟨_, rfl, ?_⟩
  with_reducible repeat' (first
    | exact Keeps.refl _
    | assumption
    | apply keeps_droopDetect
    | intro _)

theorem keeps_execDroopHoldEnd (die : Die) (s : State) :
    ∃ t, execDroopHoldEnd die s = .next t ∧ Keeps true s t := by
  refine ⟨_, rfl, ?_⟩
  with_reducible repeat' (first
    | exact Keeps.refl _
    | assumption
    | apply keeps_droopHoldEnd
    | intro _)

theorem keeps_execRegulatorAlert (rail : Rail) (s : State) :
    ∃ t, execRegulatorAlert rail s = .next t ∧ Keeps true s t := by
  refine ⟨_, rfl, ?_⟩
  with_reducible repeat' (first
    | exact Keeps.refl _
    | assumption
    | apply keeps_regulatorAlert
    | intro _)

theorem keeps_execRegulatorAlertClear (rail : Rail) (s : State) :
    ∃ t, execRegulatorAlertClear rail s = .next t ∧ Keeps true s t := by
  refine ⟨_, rfl, ?_⟩
  with_reducible repeat' (first
    | exact Keeps.refl _
    | assumption
    | apply keeps_regulatorClear
    | intro _)

theorem keeps_execTrickleHoldEnd (s : State) :
    ∃ t, execTrickleHoldEnd s = .next t ∧ Keeps true s t := by
  refine ⟨_, rfl, ?_⟩
  with_reducible repeat' (first
    | exact Keeps.refl _
    | assumption
    | apply keeps_trickleHoldEnd
    | intro _)

theorem keeps_execPhaseDisable (rail : Rail) (phase : Nat) (s : State) :
    ∃ t, execPhaseDisable rail phase s = .next t ∧ Keeps true s t := by
  refine ⟨_, rfl, ?_⟩
  with_reducible repeat' (first
    | exact Keeps.refl _
    | assumption
    | apply keeps_phaseDisable
    | intro _)

theorem keeps_execRailOff (rail : Rail) (s : State) :
    ∃ t, execRailOff rail s = .next t ∧ Keeps true s t := by
  refine ⟨_, rfl, ?_⟩
  with_reducible repeat' (first
    | exact Keeps.refl _
    | assumption
    | apply keeps_railOff
    | intro _)

theorem keeps_execAgeingMonitor (die : Die) (acre : PAcre) (s : State) :
    ∃ t, execAgeingMonitor die acre s = .next t ∧ Keeps true s t := by
  refine ⟨_, rfl, ?_⟩
  with_reducible repeat' (first
    | exact Keeps.refl _
    | assumption
    | apply keeps_ageing
    | intro _)

theorem keeps_execAcreStill (die : Die) (acre : PAcre) (s : State) :
    ∃ t, execAcreStill die acre s = .next t ∧ Keeps true s t := by
  refine ⟨_, rfl, ?_⟩
  with_reducible repeat' (first
    | exact Keeps.refl _
    | assumption
    | apply keeps_acreStill
    | intro _)

theorem keeps_execAcreDry (die : Die) (acre : PAcre) (s : State) :
    ∃ t, execAcreDry die acre s = .next t ∧ Keeps true s t := by
  refine ⟨_, rfl, ?_⟩
  with_reducible repeat' (first
    | exact Keeps.refl _
    | assumption
    | apply keeps_acreDry
    | intro _)

theorem keeps_execAcreWake (die : Die) (acre : PAcre) (s : State) :
    ∃ t, execAcreWake die acre s = .next t ∧ Keeps true s t := by
  refine ⟨_, rfl, ?_⟩
  with_reducible repeat' (first
    | exact Keeps.refl _
    | assumption
    | apply keeps_acreWake
    | intro _)

theorem keeps_execAcreWakeDone (die : Die) (acre : PAcre) (s : State) :
    ∃ t, execAcreWakeDone die acre s = .next t ∧ Keeps true s t := by
  refine ⟨_, rfl, ?_⟩
  with_reducible repeat' (first
    | exact Keeps.refl _
    | assumption
    | apply keeps_acreWakeDone
    | intro _)

theorem keeps_execIdleEntry (s : State) :
    ∃ t, execIdleEntry s = .next t ∧ Keeps true s t := by
  refine ⟨_, rfl, ?_⟩
  with_reducible repeat' (first
    | exact Keeps.refl _
    | assumption
    | apply keeps_idleEntry
    | intro _)

theorem keeps_execDeepEntry (s : State) :
    ∃ t, execDeepEntry s = .next t ∧ Keeps true s t := by
  refine ⟨_, rfl, ?_⟩
  with_reducible repeat' (first
    | exact Keeps.refl _
    | assumption
    | apply keeps_deepEntry
    | intro _)

theorem keeps_execDeepWakeDone (s : State) :
    ∃ t, execDeepWakeDone s = .next t ∧ Keeps true s t := by
  refine ⟨_, rfl, ?_⟩
  with_reducible repeat' (first
    | exact Keeps.refl _
    | assumption
    | apply keeps_deepWakeDone
    | intro _)

theorem keeps_execCoolantOutOfSpec (s : State) :
    ∃ t, execCoolantOutOfSpec s = .next t ∧ Keeps true s t := by
  refine ⟨_, rfl, ?_⟩
  with_reducible repeat' (first
    | exact Keeps.refl _
    | assumption
    | apply keeps_coolantOut
    | intro _)

theorem keeps_execPowerShare (src : CmdSrc) (s : State) :
    ∃ t, execPowerShare src s = .next t ∧ Keeps true s t := by
  refine ⟨_, rfl, ?_⟩
  with_reducible repeat' (first
    | exact Keeps.refl _
    | assumption
    | apply keeps_powerShare
    | intro _)

theorem keeps_execPortReset (h : Holding) (s : State) :
    ∃ t, execPortReset h s = .next t ∧ Keeps true s t := by
  refine ⟨_, rfl, ?_⟩
  with_reducible repeat' (first
    | exact Keeps.refl _
    | assumption
    | apply keeps_portReset
    | intro _)

theorem keeps_execSqDoorbell (h : Holding) (qp : QPair) (data : Word) (s : State) :
    ∃ t, execSqDoorbell h qp data s = .next t ∧ Keeps true s t := by
  refine ⟨_, rfl, ?_⟩
  with_reducible repeat' (first
    | exact Keeps.refl _
    | assumption
    | apply keeps_sqDoorbell
    | intro _)

theorem keeps_execSubmissionEntry (h : Holding) (qp : QPair) (entry : List Byte) (s : State) :
    ∃ t, execSubmissionEntry h qp entry s = .next t ∧ Keeps true s t := by
  refine ⟨_, rfl, ?_⟩
  with_reducible repeat' (first
    | exact Keeps.refl _
    | assumption
    | apply keeps_submissionEntry
    | intro _)

theorem keeps_execCqDoorbell (h : Holding) (qp : QPair) (data : Word) (s : State) :
    ∃ t, execCqDoorbell h qp data s = .next t ∧ Keeps true s t := by
  refine ⟨_, rfl, ?_⟩
  with_reducible repeat' (first
    | exact Keeps.refl _
    | assumption
    | apply keeps_serveQP
    | apply keeps_cqDoorbell
    | intro _)

theorem keeps_execLedgerDoorbell (h : Holding) (data : Word) (s : State) :
    ∃ t, execLedgerDoorbell h data s = .next t ∧ Keeps true s t := by
  refine ⟨_, rfl, ?_⟩
  with_reducible repeat' (first
    | exact Keeps.refl _
    | assumption
    | apply keeps_ledgerDoorbell
    | intro _)

theorem keeps_execCoalesceTimeout (h : Holding) (qp : QPair) (s : State) :
    ∃ t, execCoalesceTimeout h qp s = .next t ∧ Keeps true s t := by
  refine ⟨_, rfl, ?_⟩
  with_reducible repeat' (first
    | exact Keeps.refl _
    | assumption
    | apply keeps_coalesceTimeout
    | intro _)

theorem keeps_execQueueEnable (p : Path) (h : Holding) (data : Word) (s : State) :
    ∃ t, execQueueEnable p h data s = .next t ∧ Keeps true s t := by
  refine ⟨_, rfl, ?_⟩
  with_reducible repeat' (first
    | exact Keeps.refl _
    | assumption
    | apply keeps_ownedWrite
    | apply keeps_serveQP
    | apply keeps_enableQP
    | intro _)

theorem keeps_execQueueDisable (p : Path) (h : Holding) (data : Word) (s : State) :
    ∃ t, execQueueDisable p h data s = .next t ∧ Keeps true s t := by
  refine ⟨_, rfl, ?_⟩
  with_reducible repeat' (first
    | exact Keeps.refl _
    | assumption
    | apply keeps_ownedWrite
    | apply keeps_requestDisableQP
    | intro _)

theorem keeps_execQueueDisableDone (h : Holding) (qp : QPair) (s : State) :
    ∃ t, execQueueDisableDone h qp s = .next t ∧ Keeps true s t := by
  refine ⟨_, rfl, ?_⟩
  with_reducible repeat' (first
    | exact Keeps.refl _
    | assumption
    | apply keeps_queueDisableDone
    | intro _)

theorem keeps_execHostReadTimeout (r : HostRead) (s : State) :
    ∃ t, execHostReadTimeout r s = .next t ∧ Keeps true s t := by
  refine ⟨_, rfl, ?_⟩
  with_reducible repeat' (first
    | exact Keeps.refl _
    | assumption
    | apply keeps_hostReadTimeout
    | intro _)

theorem keeps_execAdapterLoad (src : CmdSrc) (s : State) :
    ∃ t, execAdapterLoad src s = .next t ∧ Keeps true s t := by
  refine ⟨_, rfl, ?_⟩
  with_reducible repeat' (first
    | exact Keeps.refl _
    | assumption
    | apply keeps_adapterLoad
    | intro _)

theorem keeps_execAdapterRelease (src : CmdSrc) (s : State) :
    ∃ t, execAdapterRelease src s = .next t ∧ Keeps true s t := by
  refine ⟨_, rfl, ?_⟩
  with_reducible repeat' (first
    | exact Keeps.refl _
    | assumption
    | apply keeps_adapterRelease
    | intro _)

theorem keeps_execTelemetry (src : CmdSrc) (s : State) :
    ∃ t, execTelemetry src s = .next t ∧ Keeps true s t := by
  refine ⟨_, rfl, ?_⟩
  with_reducible repeat' (first
    | exact Keeps.refl _
    | assumption
    | apply keeps_telemetry
    | intro _)

theorem keeps_execChannelOpen (k : Nat) (req : List Byte) (s : State) :
    ∃ t, execChannelOpen k req s = .next t ∧ Keeps true s t := by
  refine ⟨_, rfl, ?_⟩
  with_reducible repeat' (first
    | exact Keeps.refl _
    | assumption
    | apply keeps_channelOpen
    | intro _)

theorem keeps_execChannelClose (src : CmdSrc) (s : State) :
    ∃ t, execChannelClose src s = .next t ∧ Keeps true s t := by
  refine ⟨_, rfl, ?_⟩
  with_reducible repeat' (first
    | exact Keeps.refl _
    | assumption
    | apply keeps_channelClose
    | intro _)

theorem keeps_execFlumeWrite (port : FPort) (_ip : Nat) (dgram : List Byte) (s : State) :
    ∃ t, execFlumeWrite port _ip dgram s = .next t ∧ Keeps true s t := by
  refine ⟨_, rfl, ?_⟩
  with_reducible repeat' (first
    | exact Keeps.refl _
    | assumption
    | apply keeps_receive
    | apply keeps_onBurst
    | intro _)

theorem keeps_execFlumeReadReq (port : FPort) (_ip : Nat) (dgram : List Byte) (s : State) :
    ∃ t, execFlumeReadReq port _ip dgram s = .next t ∧ Keeps true s t := by
  refine ⟨_, rfl, ?_⟩
  with_reducible repeat' (first
    | exact Keeps.refl _
    | assumption
    | apply keeps_receive
    | apply keeps_onReadReq
    | intro _)

theorem keeps_execFlumeReadData (port : FPort) (_ip : Nat) (dgram : List Byte) (s : State) :
    ∃ t, execFlumeReadData port _ip dgram s = .next t ∧ Keeps true s t := by
  refine ⟨_, rfl, ?_⟩
  with_reducible repeat' (first
    | exact Keeps.refl _
    | assumption
    | apply keeps_receive
    | apply keeps_onBurst
    | intro _)

theorem keeps_execFlumeAck (port : FPort) (_ip : Nat) (dgram : List Byte) (s : State) :
    ∃ t, execFlumeAck port _ip dgram s = .next t ∧ Keeps true s t := by
  refine ⟨_, rfl, ?_⟩
  with_reducible repeat' (first
    | exact Keeps.refl _
    | assumption
    | apply keeps_receive
    | apply keeps_onAck
    | intro _)

theorem keeps_execFlumeNak (port : FPort) (_ip : Nat) (dgram : List Byte) (s : State) :
    ∃ t, execFlumeNak port _ip dgram s = .next t ∧ Keeps true s t := by
  refine ⟨_, rfl, ?_⟩
  with_reducible repeat' (first
    | exact Keeps.refl _
    | assumption
    | apply keeps_receive
    | apply keeps_onNak
    | intro _)

theorem keeps_execFlumeOpen (port : FPort) (ip : Nat) (dgram : List Byte) (s : State) :
    ∃ t, execFlumeOpen port ip dgram s = .next t ∧ Keeps true s t := by
  refine ⟨_, rfl, ?_⟩
  with_reducible repeat' (first
    | exact Keeps.refl _
    | assumption
    | apply keeps_receive
    | apply keeps_onOpen
    | intro _)

theorem keeps_execFlumeOpenAck (port : FPort) (_ip : Nat) (dgram : List Byte) (s : State) :
    ∃ t, execFlumeOpenAck port _ip dgram s = .next t ∧ Keeps true s t := by
  refine ⟨_, rfl, ?_⟩
  with_reducible repeat' (first
    | exact Keeps.refl _
    | assumption
    | apply keeps_receive
    | apply keeps_onOpenAck
    | intro _)

theorem keeps_execFlumeClose (port : FPort) (_ip : Nat) (dgram : List Byte) (s : State) :
    ∃ t, execFlumeClose port _ip dgram s = .next t ∧ Keeps true s t := by
  refine ⟨_, rfl, ?_⟩
  with_reducible repeat' (first
    | exact Keeps.refl _
    | assumption
    | apply keeps_receive
    | apply keeps_onClose
    | intro _)

theorem keeps_execAckTimer (chan : Nat) (s : State) :
    ∃ t, execAckTimer chan s = .next t ∧ Keeps true s t := by
  refine ⟨_, rfl, ?_⟩
  with_reducible repeat' (first
    | exact Keeps.refl _
    | assumption
    | apply keeps_ackTimer
    | intro _)

theorem keeps_execRetransmitTimeout (chan : Nat) (seq : Nat) (s : State) :
    ∃ t, execRetransmitTimeout chan seq s = .next t ∧ Keeps true s t := by
  refine ⟨_, rfl, ?_⟩
  with_reducible repeat' (first
    | exact Keeps.refl _
    | assumption
    | apply keeps_retransmit
    | intro _)

theorem keeps_execChannelAckTimeout (chan : Nat) (s : State) :
    ∃ t, execChannelAckTimeout chan s = .next t ∧ Keeps true s t := by
  refine ⟨_, rfl, ?_⟩
  with_reducible repeat' (first
    | exact Keeps.refl _
    | assumption
    | apply keeps_ackTimeout
    | intro _)

theorem keeps_execFlumeLinkDown (port : FPort) (s : State) :
    ∃ t, execFlumeLinkDown port s = .next t ∧ Keeps true s t := by
  refine ⟨_, rfl, ?_⟩
  with_reducible repeat' (first
    | exact Keeps.refl _
    | assumption
    | apply keeps_linkDown
    | intro _)

theorem keeps_execMctpControl (msg : MctpMsg) (s : State) :
    ∃ t, execMctpControl msg s = .next t ∧ Keeps true s t := by
  refine ⟨_, rfl, ?_⟩
  with_reducible repeat' (first
    | exact Keeps.refl _
    | assumption
    | apply keeps_mctpControl
    | intro _)

theorem keeps_execPldmSensorRead (sensor : Sensor) (s : State) :
    ∃ t, execPldmSensorRead sensor s = .next t ∧ Keeps true s t := by
  refine ⟨_, rfl, ?_⟩
  with_reducible repeat' (first
    | exact Keeps.refl _
    | assumption
    | apply keeps_sensorRead
    | intro _)

theorem keeps_execPldmFirmwareStage (slot : List Byte) (s : State) :
    ∃ t, execPldmFirmwareStage slot s = .next t ∧ Keeps true s t := by
  refine ⟨_, rfl, ?_⟩
  with_reducible repeat' (first
    | exact Keeps.refl _
    | assumption
    | apply keeps_stageFirmware
    | intro _)

theorem keeps_execActivateFirmware (s : State) :
    ∃ t, execActivateFirmware s = .next t ∧ Keeps true s t := by
  refine ⟨_, rfl, ?_⟩
  with_reducible repeat' (first
    | exact Keeps.refl _
    | assumption
    | apply keeps_activateFirmware
    | intro _)

theorem keeps_execStandbyBootDone (s : State) :
    ∃ t, execStandbyBootDone s = .next t ∧ Keeps true s t := by
  refine ⟨_, rfl, ?_⟩
  with_reducible repeat' (first
    | exact Keeps.refl _
    | assumption
    | apply keeps_standbyBooted
    | intro _)

theorem keeps_execHealthWindowExpire (s : State) :
    ∃ t, execHealthWindowExpire s = .next t ∧ Keeps true s t := by
  refine ⟨_, rfl, ?_⟩
  with_reducible repeat' (first
    | exact Keeps.refl _
    | assumption
    | apply keeps_healthExpire
    | intro _)

theorem keeps_execGetVersion (conn : SpdmPort) (msg : List Byte) (s : State) :
    ∃ t, execGetVersion conn msg s = .next t ∧ Keeps true s t := by
  refine ⟨_, rfl, ?_⟩
  with_reducible repeat' (first
    | exact Keeps.refl _
    | assumption
    | apply keeps_getVersion
    | intro _)

theorem keeps_execGetCapabilities (conn : SpdmPort) (msg : List Byte) (s : State) :
    ∃ t, execGetCapabilities conn msg s = .next t ∧ Keeps true s t := by
  refine ⟨_, rfl, ?_⟩
  with_reducible repeat' (first
    | exact Keeps.refl _
    | assumption
    | apply keeps_spdmPlain
    | intro _)

theorem keeps_execNegotiateAlgorithms (conn : SpdmPort) (msg : List Byte) (s : State) :
    ∃ t, execNegotiateAlgorithms conn msg s = .next t ∧ Keeps true s t := by
  refine ⟨_, rfl, ?_⟩
  with_reducible repeat' (first
    | exact Keeps.refl _
    | assumption
    | apply keeps_spdmPlain
    | intro _)

theorem keeps_execGetDigests (conn : SpdmPort) (msg : List Byte) (s : State) :
    ∃ t, execGetDigests conn msg s = .next t ∧ Keeps true s t := by
  refine ⟨_, rfl, ?_⟩
  with_reducible repeat' (first
    | exact Keeps.refl _
    | assumption
    | apply keeps_getDigests
    | intro _)

theorem keeps_execGetCertificate (conn : SpdmPort) (msg : List Byte) (slot : Fin 8) (s : State) :
    ∃ t, execGetCertificate conn msg slot s = .next t ∧ Keeps true s t := by
  refine ⟨_, rfl, ?_⟩
  with_reducible repeat' (first
    | exact Keeps.refl _
    | assumption
    | apply keeps_getCertificate
    | intro _)

theorem keeps_execChallenge (conn : SpdmPort) (msg : List Byte) (s : State) :
    ∃ t, execChallenge conn msg s = .next t ∧ Keeps true s t := by
  refine ⟨_, rfl, ?_⟩
  with_reducible repeat' (first
    | exact Keeps.refl _
    | assumption
    | apply keeps_challenge
    | intro _)

theorem keeps_execGetMeasurements (conn : SpdmPort) (msg : List Byte) (index : Option (BitVec 8)) (signed : Bool) (s : State) :
    ∃ t, execGetMeasurements conn msg index signed s = .next t ∧ Keeps true s t := by
  refine ⟨_, rfl, ?_⟩
  with_reducible repeat' (first
    | exact Keeps.refl _
    | assumption
    | apply keeps_getMeasurements
    | intro _)

theorem keeps_execKeyExchange (conn : SpdmPort) (msg : List Byte) (s : State) :
    ∃ t, execKeyExchange conn msg s = .next t ∧ Keeps true s t := by
  refine ⟨_, rfl, ?_⟩
  with_reducible repeat' (first
    | exact Keeps.refl _
    | assumption
    | apply keeps_keyExchange
    | intro _)

theorem keeps_execFinish (conn : SpdmPort) (msg : List Byte) (s : State) :
    ∃ t, execFinish conn msg s = .next t ∧ Keeps true s t := by
  refine ⟨_, rfl, ?_⟩
  with_reducible repeat' (first
    | exact Keeps.refl _
    | assumption
    | apply keeps_spdmPlain
    | intro _)

theorem keeps_execKeyUpdate (conn : SpdmPort) (msg : List Byte) (s : State) :
    ∃ t, execKeyUpdate conn msg s = .next t ∧ Keeps true s t := by
  refine ⟨_, rfl, ?_⟩
  with_reducible repeat' (first
    | exact Keeps.refl _
    | assumption
    | apply keeps_spdmPlain
    | intro _)

theorem keeps_execHeartbeat (conn : SpdmPort) (msg : List Byte) (s : State) :
    ∃ t, execHeartbeat conn msg s = .next t ∧ Keeps true s t := by
  refine ⟨_, rfl, ?_⟩
  with_reducible repeat' (first
    | exact Keeps.refl _
    | assumption
    | apply keeps_spdmPlain
    | intro _)

theorem keeps_execEndSession (conn : SpdmPort) (msg : List Byte) (s : State) :
    ∃ t, execEndSession conn msg s = .next t ∧ Keeps true s t := by
  refine ⟨_, rfl, ?_⟩
  with_reducible repeat' (first
    | exact Keeps.refl _
    | assumption
    | apply keeps_spdmPlain
    | intro _)

theorem keeps_execHssChain (conn : SpdmPort) (msg : List Byte) (s : State) :
    ∃ t, execHssChain conn msg s = .next t ∧ Keeps true s t := by
  refine ⟨_, rfl, ?_⟩
  with_reducible repeat' (first
    | exact Keeps.refl _
    | assumption
    | apply keeps_hssChain
    | intro _)

theorem keeps_execHssSign (conn : SpdmPort) (msg : List Byte) (writes : List (Bool × Bool)) (s : State) :
    ∃ t, execHssSign conn msg writes s = .next t ∧ Keeps true s t := by
  refine ⟨_, rfl, ?_⟩
  with_reducible repeat' (first
    | exact Keeps.refl _
    | assumption
    | apply keeps_hssSign
    | intro _)

theorem keeps_execAliasTreeBuilt (s : State) :
    ∃ t, execAliasTreeBuilt s = .next t ∧ Keeps true s t := by
  refine ⟨_, rfl, ?_⟩
  with_reducible repeat' (first
    | exact Keeps.refl _
    | assumption
    | apply keeps_aliasBuilt
    | intro _)

theorem keeps_execGetNonce (s : State) :
    ∃ t, execGetNonce s = .next t ∧ Keeps true s t := by
  refine ⟨_, rfl, ?_⟩
  with_reducible repeat' (first
    | exact Keeps.refl _
    | assumption
    | apply keeps_getNonce
    | intro _)

theorem keeps_execNonceExpire (s : State) :
    ∃ t, execNonceExpire s = .next t ∧ Keeps true s t := by
  refine ⟨_, rfl, ?_⟩
  with_reducible repeat' (first
    | exact Keeps.refl _
    | assumption
    | apply keeps_nonceExpire
    | intro _)

theorem keeps_execFreezeToken (tok : List Byte) (s : State) :
    ∃ t, execFreezeToken tok s = .next t ∧ Keeps true s t := by
  refine ⟨_, rfl, ?_⟩
  with_reducible repeat' (first
    | exact Keeps.refl _
    | assumption
    | apply keeps_freezeToken
    | intro _)

theorem keeps_execDebugReadoutToken (tok : List Byte) (s : State) :
    ∃ t, execDebugReadoutToken tok s = .next t ∧ Keeps true s t := by
  refine ⟨_, rfl, ?_⟩
  with_reducible repeat' (first
    | exact Keeps.refl _
    | assumption
    | apply keeps_readoutToken
    | intro _)

theorem keeps_execFullDebugToken (tok : List Byte) (s : State) :
    ∃ t, execFullDebugToken tok s = .next t ∧ Keeps true s t := by
  refine ⟨_, rfl, ?_⟩
  with_reducible repeat' (first
    | exact Keeps.refl _
    | assumption
    | apply keeps_fullDebugToken
    | intro _)

theorem keeps_execOwnerChangeToken (tok : List Byte) (s : State) :
    ∃ t, execOwnerChangeToken tok s = .next t ∧ Keeps true s t := by
  refine ⟨_, rfl, ?_⟩
  with_reducible repeat' (first
    | exact Keeps.refl _
    | assumption
    | apply keeps_ownerToken
    | intro _)

theorem keeps_execCharterRestrictionToken (tok : List Byte) (s : State) :
    ∃ t, execCharterRestrictionToken tok s = .next t ∧ Keeps true s t := by
  refine ⟨_, rfl, ?_⟩
  with_reducible repeat' (first
    | exact Keeps.refl _
    | assumption
    | apply keeps_restrictionToken
    | intro _)

theorem keeps_execEnterReturnToken (tok : List Byte) (s : State) :
    ∃ t, execEnterReturnToken tok s = .next t ∧ Keeps true s t := by
  refine ⟨_, rfl, ?_⟩
  with_reducible repeat' (first
    | exact Keeps.refl _
    | assumption
    | apply keeps_returnToken
    | intro _)

theorem keeps_execFreezeReleaseCommand (s : State) :
    ∃ t, execFreezeReleaseCommand s = .next t ∧ Keeps true s t := by
  refine ⟨_, rfl, ?_⟩
  with_reducible repeat' (first
    | exact Keeps.refl _
    | assumption
    | apply keeps_freezeRelease
    | intro _)

theorem keeps_execModuleReset (s : State) :
    ∃ t, execModuleReset s = .next t ∧ Keeps true s t := by
  refine ⟨_, rfl, ?_⟩
  with_reducible repeat' (first
    | exact Keeps.refl _
    | assumption
    | apply keeps_moduleReset
    | intro _)

theorem keeps_execModuleImageOpen (mib : Nat) (size : Nat) (s : State) :
    ∃ t, execModuleImageOpen mib size s = .next t ∧ Keeps true s t := by
  refine ⟨_, rfl, ?_⟩
  with_reducible repeat' (first
    | exact Keeps.refl _
    | assumption
    | apply keeps_moduleImageOpen
    | intro _)

theorem keeps_execModuleImageActivate (image : Nat) (s : State) :
    ∃ t, execModuleImageActivate image s = .next t ∧ Keeps true s t := by
  refine ⟨_, rfl, ?_⟩
  with_reducible repeat' (first
    | exact Keeps.refl _
    | assumption
    | apply keeps_moduleImageActivate
    | intro _)

theorem keeps_execHoldingMaskWrite (image : Nat) (mask : BitVec 4) (s : State) :
    ∃ t, execHoldingMaskWrite image mask s = .next t ∧ Keeps true s t := by
  refine ⟨_, rfl, ?_⟩
  with_reducible repeat' (first
    | exact Keeps.refl _
    | assumption
    | apply keeps_holdingMaskWrite
    | intro _)

theorem keeps_execModuleChannelOpen (req : List Byte) (s : State) :
    ∃ t, execModuleChannelOpen req s = .next t ∧ Keeps true s t := by
  refine ⟨_, rfl, ?_⟩
  with_reducible repeat' (first
    | exact Keeps.refl _
    | assumption
    | apply keeps_moduleChannelOpen
    | intro _)

theorem keeps_execSignatureBlockRead (seq : Nat) (s : State) :
    ∃ t, execSignatureBlockRead seq s = .next t ∧ Keeps true s t := by
  refine ⟨_, rfl, ?_⟩
  with_reducible repeat' (first
    | exact Keeps.refl _
    | assumption
    | apply keeps_signatureBlockRead
    | intro _)

theorem keeps_execEventLogRead (seq : Nat) (n : Nat) (s : State) :
    ∃ t, execEventLogRead seq n s = .next t ∧ Keeps true s t := by
  refine ⟨_, rfl, ?_⟩
  with_reducible repeat' (first
    | exact Keeps.refl _
    | assumption
    | apply keeps_logRead
    | intro _)

theorem keeps_execLateralParityError (die : Die) (acre : PAcre) (again : Bool) (cycle : Nat) (s : State) :
    ∃ t, execLateralParityError die acre again cycle s = .next t ∧ Keeps true s t := by
  refine ⟨_, rfl, ?_⟩
  with_reducible repeat' (first
    | exact Keeps.refl _
    | assumption
    | apply keeps_lateralParity
    | intro _)

theorem keeps_execAccParityError (die : Die) (acre : PAcre) (acc : Fin 2) (again : Bool) (cycle : Nat) (s : State) :
    ∃ t, execAccParityError die acre acc again cycle s = .next t ∧ Keeps true s t := by
  refine ⟨_, rfl, ?_⟩
  with_reducible repeat' (first
    | exact Keeps.refl _
    | assumption
    | apply keeps_accParity
    | intro _)

theorem keeps_execSequencerParityError (die : Die) (acre : PAcre) (cycle : Nat) (s : State) :
    ∃ t, execSequencerParityError die acre cycle s = .next t ∧ Keeps true s t := by
  refine ⟨_, rfl, ?_⟩
  with_reducible repeat' (first
    | exact Keeps.refl _
    | assumption
    | apply keeps_sequencerError
    | intro _)

theorem keeps_execSequencerWatchdog (die : Die) (acre : PAcre) (cycle : Nat) (s : State) :
    ∃ t, execSequencerWatchdog die acre cycle s = .next t ∧ Keeps true s t := by
  refine ⟨_, rfl, ?_⟩
  with_reducible repeat' (first
    | exact Keeps.refl _
    | assumption
    | apply keeps_sequencerError
    | intro _)

theorem keeps_execAcreCopyDone (die : Die) (acre : PAcre) (s : State) :
    ∃ t, execAcreCopyDone die acre s = .next t ∧ Keeps true s t := by
  refine ⟨_, rfl, ?_⟩
  with_reducible repeat' (first
    | exact Keeps.refl _
    | assumption
    | apply keeps_copyDone
    | intro _)

theorem keeps_execAcreSwap (die : Die) (acre : PAcre) (s : State) :
    ∃ t, execAcreSwap die acre s = .next t ∧ Keeps true s t := by
  refine ⟨_, rfl, ?_⟩
  with_reducible repeat' (first
    | exact Keeps.refl _
    | assumption
    | apply keeps_acreSwap
    | intro _)

theorem keeps_execAcreBistRotation (die : Die) (acre : PAcre) (s : State) :
    ∃ t, execAcreBistRotation die acre s = .next t ∧ Keeps true s t := by
  refine ⟨_, rfl, ?_⟩
  with_reducible repeat' (first
    | exact Keeps.refl _
    | assumption
    | apply keeps_bistRotation
    | intro _)

theorem keeps_execAcreSelfTestDone (die : Die) (acre : PAcre) (res : TestRes) (s : State) :
    ∃ t, execAcreSelfTestDone die acre res s = .next t ∧ Keeps true s t := by
  refine ⟨_, rfl, ?_⟩
  with_reducible repeat' (first
    | exact Keeps.refl _
    | assumption
    | apply keeps_selfTestDone
    | intro _)

theorem keeps_execLockstepMismatch (pair : Fin 2) (s : State) :
    ∃ t, execLockstepMismatch pair s = .next t ∧ Keeps true s t := by
  refine ⟨_, rfl, ?_⟩
  with_reducible repeat' (first
    | exact Keeps.refl _
    | assumption
    | apply keeps_lockstep
    | intro _)

theorem keeps_execMgmtCheckpoint (s : State) :
    ∃ t, execMgmtCheckpoint s = .next t ∧ Keeps true s t := by
  refine ⟨_, rfl, ?_⟩
  with_reducible repeat' (first
    | exact Keeps.refl _
    | assumption
    | apply keeps_checkpoint
    | intro _)

theorem keeps_execCorePairSelfTestDone (ok : Bool) (s : State) :
    ∃ t, execCorePairSelfTestDone ok s = .next t ∧ Keeps true s t := by
  refine ⟨_, rfl, ?_⟩
  with_reducible repeat' (first
    | exact Keeps.refl _
    | assumption
    | apply keeps_coreTestDone
    | intro _)

theorem keeps_execHbmRead (addr : PAddr) (err : ReadErr) (reader : Option Executor) (s : State) :
    ∃ t, execHbmRead addr err reader s = .next t ∧ Keeps true s t := by
  refine ⟨_, rfl, ?_⟩
  with_reducible repeat' (first
    | exact Keeps.refl _
    | assumption
    | apply keeps_hbmRead
    | intro _)

theorem keeps_execHbmPageMigrateDone (page : Nat) (poisoned : List PAddr) (s : State) :
    ∃ t, execHbmPageMigrateDone page poisoned s = .next t ∧ Keeps true s t := by
  refine ⟨_, rfl, ?_⟩
  with_reducible repeat' (first
    | exact Keeps.refl _
    | assumption
    | apply keeps_migrateDone
    | intro _)

theorem keeps_execHbmPatrolScrub (stack : Stack) (addr : PAddr) (err : ReadErr) (s : State) :
    ∃ t, execHbmPatrolScrub stack addr err s = .next t ∧ Keeps true s t := by
  refine ⟨_, rfl, ?_⟩
  with_reducible repeat' (first
    | exact Keeps.refl _
    | assumption
    | apply keeps_patrolScrub
    | intro _)

theorem keeps_execSramScrub (cache : Bool) (loc : Nat) (err : ReadErr) (stuck : Bool) (s : State) :
    ∃ t, execSramScrub cache loc err stuck s = .next t ∧ Keeps true s t := by
  refine ⟨_, rfl, ?_⟩
  with_reducible repeat' (first
    | exact Keeps.refl _
    | assumption
    | apply keeps_sramScrub
    | intro _)

theorem keeps_execMeterCheck (s : State) :
    ∃ t, execMeterCheck s = .next t ∧ Keeps true s t := by
  refine ⟨_, rfl, ?_⟩
  with_reducible repeat' (first
    | exact Keeps.refl _
    | assumption
    | apply keeps_meterCheck
    | intro _)

theorem keeps_execImbalanceWindow (die : Die) (chan : Fin 96) (busiest : Nat) (total : Nat) (region : Nat) (s : State) :
    ∃ t, execImbalanceWindow die chan busiest total region s = .next t ∧ Keeps true s t := by
  refine ⟨_, rfl, ?_⟩
  with_reducible repeat' (first
    | exact Keeps.refl _
    | assumption
    | apply keeps_imbalance
    | intro _)

theorem keeps_execFreezeCapture (pin : Bool) (s : State) :
    ∃ t, execFreezeCapture pin s = .next t ∧ Keeps true s t := by
  refine ⟨_, rfl, ?_⟩
  with_reducible repeat' (first
    | exact Keeps.refl _
    | assumption
    | apply keeps_freezeCapture
    | intro _)

theorem keeps_execHbmFreezeStop (s : State) :
    ∃ t, execHbmFreezeStop s = .next t ∧ Keeps true s t := by
  refine ⟨_, rfl, ?_⟩
  with_reducible repeat' (first
    | exact Keeps.refl _
    | assumption
    | apply keeps_hbmFreezeStop
    | intro _)

theorem keeps_execTapReadout (what : Readout) (s : State) :
    ∃ t, execTapReadout what s = .next t ∧ Keeps true s t := by
  refine ⟨_, rfl, ?_⟩
  with_reducible repeat' (first
    | exact Keeps.refl _
    | assumption
    | apply keeps_tapReadout
    | intro _)

theorem keeps_execThaw (s : State) :
    ∃ t, execThaw s = .next t ∧ Keeps true s t := by
  refine ⟨_, rfl, ?_⟩
  with_reducible repeat' (first
    | exact Keeps.refl _
    | assumption
    | apply keeps_thaw
    | intro _)

theorem keeps_execThawClockStart (s : State) :
    ∃ t, execThawClockStart s = .next t ∧ Keeps true s t := by
  refine ⟨_, rfl, ?_⟩
  with_reducible repeat' (first
    | exact Keeps.refl _
    | assumption
    | apply keeps_thawClock
    | intro _)

theorem keeps_execColdPowerOn (pins : Fin 8) (ref : Bool) (inlet : Nat) (flow : Nat) (s : State) :
    ∃ t, execColdPowerOn pins ref inlet flow s = .next t ∧ Keeps false s t := by
  refine ⟨_, rfl, ?_⟩
  with_reducible repeat' (first
    | exact Keeps.refl _
    | assumption
    | apply keeps_coldPowerOn
    | intro _)

theorem keeps_execRailGood (step : Fin 7) (s : State) :
    ∃ t, execRailGood step s = .next t ∧ Keeps true s t := by
  refine ⟨_, rfl, ?_⟩
  with_reducible repeat' (first
    | exact Keeps.refl _
    | assumption
    | apply keeps_railGood
    | intro _)

theorem keeps_execRailTimeout (rail : Rail) (s : State) :
    ∃ t, execRailTimeout rail s = .next t ∧ Keeps true s t := by
  refine ⟨_, rfl, ?_⟩
  with_reducible repeat' (first
    | exact Keeps.refl _
    | assumption
    | apply keeps_railTimeout
    | intro _)

theorem keeps_execCoolantResume (s : State) :
    ∃ t, execCoolantResume s = .next t ∧ Keeps true s t := by
  refine ⟨_, rfl, ?_⟩
  with_reducible repeat' (first
    | exact Keeps.refl _
    | assumption
    | apply keeps_coolantResume
    | intro _)

theorem keeps_execInputPowerLoss (s : State) :
    ∃ t, execInputPowerLoss s = .next t ∧ Keeps true s t := by
  refine ⟨_, rfl, ?_⟩
  with_reducible repeat' (first
    | exact Keeps.refl _
    | assumption
    | apply keeps_inputPowerLoss
    | intro _)

theorem keeps_execInputUndervoltage (s : State) :
    ∃ t, execInputUndervoltage s = .next t ∧ Keeps true s t := by
  refine ⟨_, rfl, ?_⟩
  with_reducible repeat' (first
    | exact Keeps.refl _
    | assumption
    | apply keeps_inputUndervoltage
    | intro _)

theorem keeps_execInputUndervoltageClear (s : State) :
    ∃ t, execInputUndervoltageClear s = .next t ∧ Keeps true s t := by
  refine ⟨_, rfl, ?_⟩
  with_reducible repeat' (first
    | exact Keeps.refl _
    | assumption
    | apply keeps_inputUndervoltageClear
    | intro _)

theorem keeps_execInputHigh (s : State) :
    ∃ t, execInputHigh s = .next t ∧ Keeps true s t := by
  refine ⟨_, rfl, ?_⟩
  with_reducible repeat' (first
    | exact Keeps.refl _
    | assumption
    | apply keeps_inputHighSeen
    | intro _)

theorem keeps_execInputOvervoltage (s : State) :
    ∃ t, execInputOvervoltage s = .next t ∧ Keeps true s t := by
  refine ⟨_, rfl, ?_⟩
  with_reducible repeat' (first
    | exact Keeps.refl _
    | assumption
    | apply keeps_inputOvervoltage
    | intro _)

theorem keeps_execOvervoltageRestart (pins : Fin 8) (ref : Bool) (inlet : Nat) (flow : Nat) (s : State) :
    ∃ t, execOvervoltageRestart pins ref inlet flow s = .next t ∧ Keeps false s t := by
  refine ⟨_, rfl, ?_⟩
  with_reducible repeat' (first
    | exact Keeps.refl _
    | assumption
    | apply keeps_overvoltageRestart
    | intro _)

theorem keeps_execBladeFuseOpen (pair : Fin 2) (s : State) :
    ∃ t, execBladeFuseOpen pair s = .next t ∧ Keeps true s t := by
  refine ⟨_, rfl, ?_⟩
  with_reducible repeat' (first
    | exact Keeps.refl _
    | assumption
    | apply keeps_bladeFuse
    | intro _)

theorem keeps_execRefclkLost (s : State) :
    ∃ t, execRefclkLost s = .next t ∧ Keeps true s t := by
  refine ⟨_, rfl, ?_⟩
  with_reducible repeat' (first
    | exact Keeps.refl _
    | assumption
    | apply keeps_refclkLost
    | intro _)

theorem keeps_execRefclkReturn (s : State) :
    ∃ t, execRefclkReturn s = .next t ∧ Keeps true s t := by
  refine ⟨_, rfl, ?_⟩
  with_reducible repeat' (first
    | exact Keeps.refl _
    | assumption
    | apply keeps_refclkReturn
    | intro _)

theorem keeps_execFlumeLinkUp (port : FPort) (s : State) :
    ∃ t, execFlumeLinkUp port s = .next t ∧ Keeps true s t := by
  refine ⟨_, rfl, ?_⟩
  with_reducible repeat' (first
    | exact Keeps.refl _
    | assumption
    | apply keeps_linkUp
    | intro _)

theorem keeps_execHostPortLinkUp (h : Holding) (s : State) :
    ∃ t, execHostPortLinkUp h s = .next t ∧ Keeps true s t := by
  refine ⟨_, rfl, ?_⟩
  with_reducible repeat' (first
    | exact Keeps.refl _
    | assumption
    | apply keeps_hostPortLinkUp
    | intro _)

theorem keeps_execCoolantReading (inlet : Nat) (flow : Nat) (s : State) :
    ∃ t, execCoolantReading inlet flow s = .next t ∧ Keeps true s t := by
  refine ⟨_, rfl, ?_⟩
  with_reducible repeat' (first
    | exact Keeps.refl _
    | assumption
    | apply keeps_coolantReading
    | intro _)

theorem keeps_execFirmwareWatchdogExpiry (s : State) :
    ∃ t, execFirmwareWatchdogExpiry s = .next t ∧ Keeps true s t := by
  refine ⟨_, rfl, ?_⟩
  with_reducible repeat' (first
    | exact Keeps.refl _
    | assumption
    | apply keeps_revertUpdate
    | apply Keeps.ite
    | intro _)

theorem keeps_execIdeKeyManagement (h : Holding) (stream : Fin 2) (msg : IdeMsg) (s : State) :
    ∃ t, execIdeKeyManagement h stream msg s = .next t ∧ Keeps true s t := by
  refine ⟨_, rfl, ?_⟩
  with_reducible repeat' (first
    | exact Keeps.refl _
    | assumption
    | apply keeps_ideKeys
    | intro _)

theorem keeps_execConfigRequest (h : Holding) (s : State) :
    ∃ t, execConfigRequest h s = .next t ∧ Keeps true s t := by
  refine ⟨_, rfl, ?_⟩
  with_reducible repeat' (first
    | exact Keeps.refl _
    | assumption
    | apply keeps_configRequest
    | intro _)

theorem keeps_execRegisterRead (p : Path) (addr : PAddr) (s : State) :
    ∃ t, execRegisterRead p addr s = .next t ∧ Keeps true s t := by
  refine ⟨_, rfl, ?_⟩
  with_reducible repeat' (first
    | exact Keeps.refl _
    | assumption
    | apply keeps_regRead
    | intro _)

theorem keeps_execShutdownRequest (s : State) :
    ∃ t, execShutdownRequest s = .next t ∧ Keeps true s t := by
  refine ⟨_, rfl, ?_⟩
  with_reducible repeat' (first
    | exact Keeps.refl _
    | assumption
    | apply keeps_shutdownRequest
    | intro _)

end Sys2Proof.Laws
end

