-- ==== Sys2Proof/Laws/Memory.lean ====
section
/-!
SUPPORT. Memory after writes of byte strings, and the operations that write scratchpads and poison.
-/

namespace Sys2Proof.Laws

open Sys2Proof.Machine

/-- A write of bytes changes the two memories alone. -/
theorem wrByte_only (a : Nat) (b : Byte) (s : State) : ∃ m n, wrByte a b s = { s with hbm := m, spad := n } := by
  unfold wrByte
  split
  · exact ⟨_, s.spad, rfl⟩
  · exact ⟨s.hbm, _, rfl⟩
  · exact ⟨s.hbm, s.spad, rfl⟩

theorem wrBytes_only (a : Nat) (bs : List Byte) (s : State) : ∃ m n, wrBytes a bs s = { s with hbm := m, spad := n } := by
  induction bs generalizing a s with
  | nil => exact ⟨s.hbm, s.spad, rfl⟩
  | cons b bs ih =>
    obtain ⟨m, n, h⟩ := wrByte_only a b s
    obtain ⟨m', n', h'⟩ := ih (a + 1) (wrByte a b s)
    rw [wrBytes, h', h]
    exact ⟨m', n', rfl⟩

theorem locate_wrBytes (a : Nat) (bs : List Byte) (s : State) (x : Nat) : locate (wrBytes a bs s) x = locate s x := by
  obtain ⟨m, n, h⟩ := wrBytes_only a bs s
  exact locate_congr (by rw [h]) (by rw [h]) x

/-- Bytes that lie elsewhere keep their values. -/
theorem rdByte_wrBytes_other (a : Nat) (bs : List Byte) (s : State) (x : Nat) (h : ∀ i < bs.length, locate s x ≠ locate s (a + i)) :
    rdByte (wrBytes a bs s) x = rdByte s x := by
  induction bs generalizing a s with
  | nil => rfl
  | cons b bs ih =>
    have e := fun y => locate_wrBytes a [b] s y
    rw [wrBytes, ih]
    · exact rdByte_wrByte_other _ _ _ _ (h 0 (by simp))
    · intro i hi
      have := h (i + 1) (by simp; omega)
      rw [show locate (wrByte a b s) x = locate s x from e x, show locate (wrByte a b s) (a + 1 + i) = locate s (a + 1 + i) from e _]
      rwa [show a + 1 + i = a + (i + 1) by omega]

/-- The bytes written read back, where each address of the string lies at a place of its own. -/
theorem rdByte_wrBytes_at (a : Nat) (bs : List Byte) (s : State) (i : Nat) (hi : i < bs.length) (hn : locate s (a + i) ≠ .nowhere)
    (hd : ∀ j < bs.length, j ≠ i → locate s (a + j) ≠ locate s (a + i)) : rdByte (wrBytes a bs s) (a + i) = bs[i] := by
  induction bs generalizing a s i with
  | nil => simp at hi
  | cons b bs ih =>
    have e : ∀ y, locate (wrByte a b s) y = locate s y := fun y => locate_wrBytes a [b] s y
    rw [wrBytes]
    cases i with
    | zero =>
      rw [rdByte_wrBytes_other]
      · exact rdByte_wrByte_same _ _ _ hn
      · intro j hj
        rw [e, e, show a + 1 + j = a + (j + 1) by omega]
        exact (hd (j + 1) (by simp; omega) (by omega)).symm
    | succ i =>
      have := ih (a + 1) (wrByte a b s) i (by simpa using hi) (by rw [e]; rwa [show a + 1 + i = a + (i + 1) by omega]) (by
        intro j hj hji
        rw [e, e, show a + 1 + j = a + (j + 1) by omega, show a + 1 + i = a + (i + 1) by omega]
        exact hd (j + 1) (by simp; omega) (by omega))
      rw [show a + (i + 1) = a + 1 + i by omega, this]
      rfl

theorem locate_hbm {s : State} {a : Nat} (h : a < 0x9000000000) : locate s a = .hbm a := by
  unfold locate
  rw [if_pos h]

/-- Ending poison changes no byte of memory. -/
theorem clearPoison_sameMemory (a n : Nat) (s : State) : SameMemory s (clearPoison a n s) := by
  unfold clearPoison
  split
  · exact sameMemory_of rfl rfl rfl rfl
  · exact sameMemory_of rfl rfl rfl rfl
  · exact sameMemory_of rfl rfl rfl rfl

/-- A write of a bank through its circular port changes the scratchpads alone. -/
theorem wrBankBytes_only (g k w : Nat) (bs : List Byte) (s : State) : ∃ n, wrBankBytes g k w bs s = { s with spad := n } := by
  induction bs generalizing w s with
  | nil => exact ⟨s.spad, rfl⟩
  | cons b bs ih =>
    rw [wrBankBytes]
    obtain ⟨n, h⟩ := ih (w + 1) { s with spad := setK s.spad (spadKey g (bankWord k (w / 8 % 32768) + w % 8)) b memDefault }
    rw [h]
    exact ⟨n, rfl⟩

@[simp] theorem getBank_setBank_same (g k : Nat) (b : BankSt) (s : State) : getBank (setBank g k b s) g k = b := by
  unfold getBank setBank
  rw [getAcre_modAcre_same]
  exact getK_setK_same ..

theorem getBank_congr {s t : State} (h : t.acres = s.acres) (g k : Nat) : getBank t g k = getBank s g k := by
  unfold getBank; rw [getAcre_congr h]

end Sys2Proof.Laws
end

