-- ==== Sys2Proof/Laws/RegCmd.lean ====
section
/-!
SUPPORT. What a permitted access to register space does: one lemma for each region of a slot, and one for a discarded write.
-/

namespace Sys2Proof.Laws

open Sys2Proof.Machine

variable {s : State} {p : Path} {addr base : Nat} {b : Blk}

/-- A permitted plain write is the register's own. -/
theorem regWrite_plain (data : Word) (h : MayWrite s p addr base b 0) :
    regWrite p addr data 15 s = plainWrite p base b (addr % 0x1000) data s := by
  obtain ⟨hp, hg, ha, hr, hi⟩ := h
  unfold regWrite
  rw [hp]
  dsimp only
  rw [hg]
  dsimp only
  rw [if_neg (by simp [ha]), hr, if_neg (by decide), hi, if_neg (by decide), if_pos rfl]

/-- A permitted write through an alias. -/
theorem regWrite_alias (data : Word) (set : Bool) (h : MayWrite s p addr base b (if set then 1 else 2)) :
    regWrite p addr data 15 s = aliasOf set p base b (addr % 0x1000) data s := by
  obtain ⟨hp, hg, ha, hr, hi⟩ := h
  have hreg : addr % 0x4000 / 0x1000 = 1 ∨ addr % 0x4000 / 0x1000 = 2 := by cases set <;> simp_all
  have hset : decide (addr % 0x4000 / 0x1000 = 1) = set := by rw [hr]; cases set <;> rfl
  unfold regWrite
  rw [hp]
  dsimp only
  rw [hg]
  dsimp only
  rw [if_neg (by simp [ha]), if_neg (by omega), hi, if_neg (by decide), if_neg (by omega), hset]

/-- A permitted read answers the word, and works the latches of LO and HI. -/
theorem regRead_ok (h : MayRead s p addr base b) :
    regRead p addr s = emit (.read p addr (readWord s p base b (addr % 0x1000))) (readLatch p base b (addr % 0x1000) s) := by
  obtain ⟨hp, hg, ha, hr, hi, hf⟩ := h
  unfold regRead
  rw [hp]
  dsimp only
  rw [hg]
  dsimp only
  rw [if_neg (by simp [ha]), hr, if_neg (by decide), hi, if_neg (by decide), hf, if_pos (by decide)]

/-- A write that the path may not make is counted as denied. -/
theorem regWrite_denied (data : Word) (be : Nat) (hp : placeOf addr = .block base b) (hg : writeGrant s p base = .denied) :
    regWrite p addr data be s = countErr base (reqAt p base) (addr % 0x4000) true 0 s := by
  unfold regWrite
  rw [hp]
  dsimp only
  rw [hg]

/-- The command of a register at certain offsets, where the address is one of them. -/
theorem atOffset_ok (ok : Blk → Nat → Bool) (f : State → State) (hp : placeOf addr = .block base b) (h : ok b (addr % 0x4000) = true) :
    atOffset ok addr f s = f s := by
  unfold atOffset
  rw [hp]
  dsimp only
  rw [if_pos h]

theorem ownedWrite_ok (off : Nat) (f : State → State) (h : writeGrant s p base = .ok) : ownedWrite p base off f s = f s := by
  unfold ownedWrite
  rw [h]

theorem ownedWrite_denied (off : Nat) (f : State → State) (h : writeGrant s p base = .denied) :
    ownedWrite p base off f s = countErr base (reqAt p base) off true 0 s := by
  unfold ownedWrite
  rw [h]

/-- Both registers of a writable pair act on a plain write (R608). -/
theorem actsOnWrite_pair {tag : BlkTag} {o : Nat} (h : writablePair tag o = true) : actsOnWrite tag o = true ∧ actsOnWrite tag (o + 4) = true := by
  unfold writablePair at h
  simp only [Bool.or_eq_true, Bool.and_eq_true, decide_eq_true_eq] at h
  rcases h with ⟨rfl, h⟩ | ⟨rfl, rfl⟩
  · simp only [isLo, loRegs, List.any_cons, List.any_nil, Bool.or_eq_true, decide_eq_true_eq, Bool.or_false] at h
    rcases h with rfl | rfl | rfl <;> exact ⟨rfl, rfl⟩
  · exact ⟨rfl, rfl⟩

/-- A plain write of a register that does nothing more on a plain write takes on its rw fields. -/
theorem plainWrite_apply (off : Nat) (data : Word) (ho : off ≠ 0x0C) (ho1 : off ≠ 0x14) (ho2 : off ≠ 0x1C)
    (ha : actsOnWrite b.tag off = false) : plainWrite p base b off data s = applyRw p base b off data s := by
  obtain ⟨tag, inst, die, owner⟩ := b
  have w : ∀ o, writablePair tag o = true → actsOnWrite tag o = true ∧ actsOnWrite tag (o + 4) = true := fun _ => actsOnWrite_pair
  have w1 : writablePair tag off = false := by
    by_contra h
    exact absurd (w off (by simpa using h)).1 (by simp [ha])
  have w2 : (decide (off ≥ 4) && writablePair tag (off - 4)) = false := by
    by_contra h
    simp only [Bool.not_eq_false, Bool.and_eq_true, decide_eq_true_eq] at h
    have e : off - 4 + 4 = off := by omega
    exact absurd (w (off - 4) h.2).2 (by rw [e]; simp [ha])
  unfold plainWrite
  dsimp only
  rw [w1, w2, if_neg (by decide), if_neg (by decide)]
  split <;> first | rfl | simp_all [actsOnWrite]

/-- The rw fields of a register that means no more to its block than its value. -/
theorem applyRw_store (off : Nat) (w : Word) (ho : 0x100 ≤ off) (hs : isSel b.tag off = false) (ha : actsOnStore b.tag off = false) :
    applyRw p base b off w s = storeRw base b.tag off w s := by
  unfold applyRw
  dsimp only
  rw [if_neg (by omega), hs, if_neg (by decide)]
  obtain ⟨tag, inst, die, owner⟩ := b
  dsimp only at ha ⊢
  split <;> first | exact Bool.noConfusion ha | rfl

/-- An interrupt source of another block than an HQ block. -/
theorem irqRaise_of {bits : Nat} (h : blkOf base = some b) (ht : b.tag ≠ .hq) (s : State) :
    irqRaise base bits s = setF base F.irqStatPend (Nat.lor (getF s base F.irqStatPend) (Nat.land bits (irqImpl b.tag))) s := by
  unfold irqRaise
  rw [h]
  dsimp only
  unfold hqIrqEdge
  rw [h]
  obtain ⟨tag, inst, die, owner⟩ := b
  dsimp only at ht ⊢
  split
  · next e => cases e; exact absurd rfl ht
  · rfl

theorem blkOf_of_placeOf (hp : placeOf addr = .block base b) : base = addr / 0x4000 * 0x4000 ∧ blkOf base = some b := by
  unfold placeOf at hp
  dsimp only at hp
  split at hp
  · next e => cases hp; exact ⟨rfl, e⟩
  · repeat' (split at hp)
    all_goals cases hp

/-- A whole plain write of an implemented register is what a row of its own does there, whatever the path may do (R604, R605, R620). -/
theorem regWrite_row (hp : placeOf addr = .block base b) (data : Word) (off : Nat) (ho : addr % 0x4000 = off) (h0 : off < 0x1000)
    (h4 : off % 4 = 0) (hi : implemented b.tag off = true) (f : State → State) (hf : plainWrite p base b off data s = f s) :
    regWrite p addr data 15 s = ownedWrite p base off f s := by
  have h1 : addr % 0x1000 = off := by omega
  have h2 : addr % 4 = 0 := by omega
  have h3 : off / 0x1000 = 0 := by omega
  unfold regWrite ownedWrite
  rw [hp]
  dsimp only
  rw [h1, ho, h2, h3, hi]
  cases writeGrant s p base with
  | ok =>
    dsimp only
    rw [if_neg (by simp), if_neg (by decide), if_neg (by decide), if_pos rfl, hf]
  | denied => rfl
  | closed => rfl

/-- A register whose only rw field is its lowest one. -/
theorem mergeRw_low (old new : Word) (f : Fld) (n : Nat) (h0 : f.lo = 0) (hw : f.w = n) (hn : n ≤ 32) :
    mergeRw (2 ^ n - 1) old new = fldPut f (fldOf f new) old := by
  apply BitVec.eq_of_getLsbD_eq
  intro i hi
  have e := fldPut_toNat f (fldOf f new) old (by omega)
  rw [h0, hw, Nat.zero_add, Nat.pow_zero, Nat.mul_one, Nat.mod_one, Nat.add_zero] at e
  have hv : fldOf f new % 2 ^ n = new.toNat % 2 ^ n := by
    unfold fldOf
    rw [h0, hw, Nat.shiftRight_zero, Nat.mod_mod]
  rw [hv, Nat.mul_comm] at e
  have r : (fldPut f (fldOf f new) old).getLsbD i = if i < n then new.getLsbD i else old.getLsbD i := by
    unfold BitVec.getLsbD
    rw [e, Nat.testBit_two_pow_mul_add _ (Nat.mod_lt _ (Nat.two_pow_pos _)), Nat.testBit_mod_two_pow]
    split
    · next h => rw [decide_eq_true h, Bool.true_and]
    · next h => rw [Nat.testBit_div_two_pow]; congr 1; omega
  rw [r]
  unfold mergeRw
  dsimp only
  simp only [BitVec.getLsbD_or, BitVec.getLsbD_and, BitVec.getLsbD_not, BitVec.getLsbD_ofNat, Nat.testBit_two_pow_sub_one, hi, decide_true, Bool.true_and]
  by_cases h : i < n <;> simp [h]

/-- What an HQ block does at the end of a write of its interrupt registers: nothing but a message of the holding. -/
theorem regGet_signalIf (c : Prop) [Decidable c] (h v : Nat) (u : State) (a : Nat) : regGet (if c then signalVec h v u else u) a = regGet u a := by
  split
  · exact regGet_signalVec _ _ _ _
  · rfl

theorem sameMemory_signalIf (c : Prop) [Decidable c] (h v : Nat) (u : State) : SameMemory u (if c then signalVec h v u else u) := by
  split
  · obtain ⟨r, m, e, h⟩ := signalVec_regsOnly h v u
    rw [h]
    exact sameMemory_of rfl rfl rfl rfl
  · exact sameMemory_of rfl rfl rfl rfl

/-- The message of an HQ block on the change from zero, for a block of any kind (R614). -/
theorem hqIrqEdge_of (h : blkOf base = some b) (n : Nat) (u : State) :
    hqIrqEdge base n u = if b.tag = .hq ∧ n = 0 ∧ irqActive u base ≠ 0 then signalVec b.inst (getF u base F.hqIrqcfgVector) u else u := by
  unfold hqIrqEdge whenB
  rw [h]
  obtain ⟨tag, inst, die, owner⟩ := b
  cases tag <;> simp

/-- Clearing pending bits, for a block of any kind (R612, R614). -/
theorem statClear_of (h : blkOf base = some b) (data : Word) (u : State)
    (hu : u = setF base F.irqStatPend (getF s base F.irqStatPend - Nat.land (getF s base F.irqStatPend) (data.toNat % 65536)) s) :
    statClear base data s = if b.tag = .hq ∧ irqActive u base ≠ 0 then signalVec b.inst (getF u base F.hqIrqcfgVector) u else u := by
  unfold statClear whenB
  dsimp only
  rw [h, ← hu]
  obtain ⟨tag, inst, die, owner⟩ := b
  cases tag <;> simp

/-- The header registers that act on a plain write, in a block of any kind. -/
theorem plainWrite_stat (data : Word) : plainWrite p base b 0x14 data s = statClear base data s := by
  obtain ⟨tag, inst, die, owner⟩ := b
  cases tag <;> rfl

theorem plainWrite_force (data : Word) : plainWrite p base b 0x1C data s = irqRaise base (data.toNat % 65536) s := by
  obtain ⟨tag, inst, die, owner⟩ := b
  cases tag <;> rfl

theorem plainWrite_ctrl (data : Word) : plainWrite p base b 0x0C data s = ctrlWrite base b.tag data s := by
  obtain ⟨tag, inst, die, owner⟩ := b
  cases tag <;> rfl

theorem plainWrite_enable (data : Word) : plainWrite p base b 0x18 data s = irqGate base (storeRw base b.tag 0x18 data) s := by
  obtain ⟨tag, inst, die, owner⟩ := b
  cases tag <;> rfl

/-- A 64-bit counter rises modulo 2 ^ 64; no other register changes, and nothing but registers. -/
theorem pairVal_bumpPair (b o n : Nat) (s : State) : pairVal (bumpPair b o n s) b o = (pairVal s b o + n) % 2 ^ 64 := by
  unfold pairVal bumpPair
  dsimp only
  rw [regGet_regSet_same, regGet_regSet_other _ _ _ _ (by omega), regGet_regSet_same, BitVec.toNat_ofNat, BitVec.toNat_ofNat]
  omega

theorem sameRegsBut_bumpPair (b o n : Nat) (s : State) : SameRegsBut [b + o, b + o + 4] s (bumpPair b o n s) := by
  intro a ha
  simp only [List.mem_cons, List.mem_nil_iff, or_false, not_or] at ha
  unfold bumpPair
  dsimp only
  rw [regGet_regSet_other _ _ _ _ ha.1, regGet_regSet_other _ _ _ _ ha.2]

theorem bumpPair_regs (b o n : Nat) (s : State) : ∃ r, bumpPair b o n s = { s with regs := r } := by
  unfold bumpPair
  dsimp only
  unfold regSet
  exact ⟨_, rfl⟩

/-! ### The error record of a discarded access -/

/-- The word of a discarded access. -/
def errWord (req off : Nat) (wr : Bool) (kind : Nat) : Word :=
  BitVec.ofNat 32 (off % 2 ^ 14 + (if wr then 2 ^ 14 else 0) + req % 16 * 2 ^ 16 + kind % 4 * 2 ^ 20 + 2 ^ 31)

theorem countErr_eq (base req off : Nat) (wr : Bool) (kind : Nat) (s : State) : countErr base req off wr kind s =
    irqRaise base 1 (regSet (base + 0x28) (errWord req off wr kind)
      (if getF s base F.errFirstValid = 1 then bumpF base F.errCntCount 1 s
       else regSet (base + 0x24) (errWord req off wr kind) (bumpF base F.errCntCount 1 s))) := rfl

theorem countErr_last (base req off : Nat) (wr : Bool) (kind : Nat) (s : State) :
    regGet (countErr base req off wr kind s) (base + 0x28) = errWord req off wr kind := by
  rw [countErr_eq, regGet_irqRaise _ _ _ _ (by omega), regGet_regSet_same]

theorem regGet_bumpErr (base a : Nat) (s : State) (h : a ≠ base + 0x20) : regGet (bumpF base F.errCntCount 1 s) a = regGet s a :=
  regGet_setF_other _ _ _ _ _ h

theorem countErr_first (base req off : Nat) (wr : Bool) (kind : Nat) (s : State) :
    regGet (countErr base req off wr kind s) (base + 0x24) =
      if getF s base F.errFirstValid = 1 then regGet s (base + 0x24) else errWord req off wr kind := by
  rw [countErr_eq, regGet_irqRaise _ _ _ _ (by omega), regGet_regSet_other _ _ _ _ (by omega)]
  split
  · exact regGet_bumpErr _ _ _ (by omega)
  · exact regGet_regSet_same ..

theorem countErr_cnt (base req off : Nat) (wr : Bool) (kind : Nat) (s : State) :
    getF (countErr base req off wr kind s) base F.errCntCount = min (getF s base F.errCntCount + 1) 65535 := by
  have other : ∀ (a : Nat) (w : Word) (u : State), a ≠ base + 0x20 → getF (regSet a w u) base F.errCntCount = getF u base F.errCntCount := by
    intro a w u h
    unfold getF
    exact congrArg _ (regGet_regSet_other _ _ _ _ (Ne.symm h))
  have hb : getF (bumpF base F.errCntCount 1 s) base F.errCntCount = min (getF s base F.errCntCount + 1) 65535 := by
    unfold bumpF
    rw [getF_setF_same _ _ _ _ (by decide)]
    exact Nat.mod_eq_of_lt (Nat.lt_of_le_of_lt (Nat.min_le_right _ _) (by decide))
  rw [countErr_eq, getF_irqRaise _ _ _ _ _ (by show base + 0x20 ≠ base + 0x14; omega), other _ _ _ (by omega)]
  split
  · exact hb
  · rw [other _ _ _ (by omega), hb]

end Sys2Proof.Laws
end

