-- ==== Sys2Proof/Laws/Runs.lean ====
section
/-!
SUPPORT. A course that an acre walks: what its command does when it takes the next tile.
-/

namespace Sys2Proof.Laws

open Sys2Proof.Machine

variable {s t : State} {iss : Issue} {im : Image} {d : List Byte} {g : Nat} {c : CourseRun}

/-- The command of a running course takes the next tile, and goes on with the tiles that follow. -/
theorem laneCourse_tile (is : List Byte → Bool) (w : Walk) (h : RunsOn s iss im d g c) (hi : is d = true)
    (hn : c.tile < w.total c) (ht : w.tile c c.tile s = .done t) :
    laneCourse iss is w s = runTiles g w (w.total c) (modRun g (fun r => { r with tile := c.tile + 1 }) t) := by
  obtain ⟨h1, rfl, h2, h3, h4⟩ := h
  unfold laneCourse
  rw [h1]
  dsimp only
  rw [hi, if_neg (by decide), if_pos (by unfold runsIssue; rw [h2]; simp [h3])]
  unfold runOn
  rw [h2]
  dsimp only
  rw [if_pos h4, runTiles, h2]
  dsimp only
  rw [if_pos hn, ht]

theorem vecCourse_tile (op : Nat) (w : Nat → Walk) (h : RunsOn s iss im d g c) (hi : isVec op d = true) (hg : isGatherIn s iss d = false)
    (hn : c.tile < (w g).total c) (ht : (w g).tile c c.tile s = .done t) :
    vecCourse op w iss s = runTiles g (w g) ((w g).total c) (modRun g (fun r => { r with tile := c.tile + 1 }) t) := by
  unfold vecCourse
  rw [h.1]
  dsimp only
  rw [← h.2.1]
  exact laneCourse_tile _ _ h (by simp [hi, hg]) hn ht

theorem moveCourse_tile (op : Nat) (tile : Nat → CourseRun → Nat → State → TileRes) (h : RunsOn s iss im d g c) (hk : dKind d = 5)
    (ho : dOp d = op) (hn : c.tile < walkTiles c.desc c.bounds) (ht : tile g c c.tile s = .done t) :
    moveCourse op tile iss s = runTiles g (walkOf (tile g)) (walkTiles c.desc c.bounds) (modRun g (fun r => { r with tile := c.tile + 1 }) t) := by
  unfold moveCourse
  rw [h.1]
  dsimp only
  rw [← h.2.1]
  exact laneCourse_tile _ (walkOf (tile g)) h (by simp [hk, ho]) hn ht

end Sys2Proof.Laws
end

