-- ==== Sys2Proof/Laws/Still.lean ====
section
/-!
SUPPORT. Operations that leave the state as it is while the units stand: a course, a host command, a delivery, an access.
-/

namespace Sys2Proof.Laws

open Sys2Proof.Machine

variable {s : State}

/-- The clocks stand: the module is frozen, or it has no power. -/
theorem frozen_of_isFrozen (h : isFrozen s = true) : frozen s = true := by
  unfold frozen
  rw [h]
  rfl

theorem frozen_of_off (h : s.power.phase = .off) : frozen s = true := by
  unfold frozen
  rw [h]
  simp

theorem foldl_stay {α β : Type} (f : β → α → β) (b : β) (l : List α) (h : ∀ x, f b x = b) : l.foldl f b = b := by
  induction l with
  | nil => rfl
  | cons x xs ih => rw [List.foldl_cons, h x, ih]

theorem acreLive_still (h : frozen s = true) (g : Nat) : acreLive s g = false := by
  unfold acreLive
  rw [h]
  rfl

theorem mayTake_still (h : frozen s = true) (k : Nat) (c : HostCmd) : mayTake s k c = false := by
  unfold mayTake
  rw [h]
  rfl

/-- No command is taken. -/
theorem takeCmd_still (h : frozen s = true) (src : CmdSrc) (op : Nat) (f : HostCmd → State → State) : takeCmd src op f s = s := by
  cases src with
  | host k =>
    unfold takeCmd
    dsimp only
    split
    · rfl
    · rw [mayTake_still h, Bool.and_false]
      rfl
  | board a b =>
    unfold takeCmd
    dsimp only
    rw [h]
    rfl

theorem refuseUnknown_still (h : frozen s = true) (iss : Issue) : refuseUnknown iss s = s := by
  unfold refuseUnknown
  rw [h]
  rfl

theorem slotFree_still (h : frozen s = true) (d : List Byte) : slotFree s d = false := by
  unfold slotFree
  rw [h]
  rfl

/-- No course is issued. -/
theorem issueCourse_still (h : frozen s = true) (iss : Issue) (want : Image → List Byte → Bool)
    (k : Image → List Byte → List Nat → State → State) (hw : ∀ im d, want im d = false) : issueCourse iss want k s = s := by
  unfold issueCourse
  split
  · exact refuseUnknown_still h _
  · rw [hw]
    rfl

theorem courseStart_still (h : frozen s = true) (g : Nat) : courseStart g s = s := by
  unfold courseStart
  dsimp only
  split
  · rfl
  · rw [acreLive_still h]
    rfl

theorem fillTable_still (h : frozen s = true) (iss : Issue) (t : List Byte) : fillTable iss t s = s := by
  unfold fillTable
  split
  · rfl
  · rw [h]
    rfl

theorem fillRowRecs_still (h : frozen s = true) (iss : Issue) (rs : List Nat) : fillRowRecs iss rs s = s := by
  unfold fillRowRecs
  split
  · rfl
  · rw [h]
    rfl

theorem runOn_still (h : frozen s = true) (g : Nat) (w : Walk) : runOn g w s = s := by
  unfold runOn
  split
  · rfl
  · rw [acreLive_still h]
    rfl

/-- No course is taken on. -/
theorem laneCourse_still (h : frozen s = true) (iss : Issue) (is : List Byte → Bool) (w : Walk) : laneCourse iss is w s = s := by
  unfold laneCourse
  split
  · exact refuseUnknown_still h _
  · dsimp only
    split
    · rfl
    · split
      · exact runOn_still h _ _
      · split
        · next d _ _ _ _ =>
          have e : startHere (execAcre s d) s = s := by
            unfold startHere
            rw [acreLive_still h]
            rfl
          rw [e]
          split
          · exact runOn_still h _ _
          · rfl
        · exact issueCourse_still h _ _ _ (fun _ d => slotFree_still h d)

theorem vecCourse_still (h : frozen s = true) (op : Nat) (w : Nat → Walk) (iss : Issue) : vecCourse op w iss s = s := by
  unfold vecCourse
  split
  · exact refuseUnknown_still h _
  · exact laneCourse_still h _ _ _

/-- No token is delivered and no end is committed. -/
theorem deliverToks_still (h : frozen s = true) (id : Nat) : deliverToks id s = s := by
  unfold deliverToks
  rw [h]
  rfl

theorem tryEnd_still (h : frozen s = true) (id : Nat) : tryEnd id s = s := by
  unfold tryEnd
  split
  · rfl
  · split
    · rfl
    · dsimp only
      rw [deliverToks_still h, h, Bool.or_true]
      rfl

theorem retryEnds_still (h : frozen s = true) : retryEnds s = s := foldl_stay _ _ _ (fun id => tryEnd_still h id)

theorem serveQP_still (h : frozen s = true) (k q : Nat) : serveQP k q s = s := by
  unfold serveQP
  dsimp only
  rw [foldl_stay _ _ _ (fun id => deliverToks_still h id)]
  exact retryEnds_still h

/-- The clocks stand and the debug port may write nothing. -/
def Shut (s : State) : Prop := (isFrozen s = true ∨ s.power.phase = .off) ∧ s.fullDebug = false

theorem Shut.frozen (h : Shut s) : frozen s = true := h.1.elim frozen_of_isFrozen frozen_of_off

/-- Every path is closed to writes. -/
theorem writeGrant_shut (h : Shut s) (p : Path) (base : Nat) : writeGrant s p base = .closed := by
  obtain ⟨h1, h2⟩ := h
  unfold writeGrant headgateUp
  rcases h1 with h1 | h1 <;> cases p <;> simp [h1, h2]

theorem ownedWrite_shut (h : Shut s) (p : Path) (base off : Nat) (f : State → State) : ownedWrite p base off f s = s := by
  unfold ownedWrite
  rw [writeGrant_shut h]

theorem regWrite_shut (h : Shut s) (p : Path) (addr : Nat) (data : Word) (be : Nat) : regWrite p addr data be s = s := by
  unfold regWrite
  split <;> simp [writeGrant_shut h]

theorem atOffset_stay (ok : Blk → Nat → Bool) (addr : Nat) (f : State → State) (h : f s = s) : atOffset ok addr f s = s := by
  unfold atOffset
  split
  · split
    · exact h
    · rfl
  · rfl

theorem spdmUp_shut (h : Shut s) (c : Nat) : spdmUp s c = false := by
  obtain ⟨h1, -⟩ := h
  unfold spdmUp
  rcases h1 with h1 | h1 <;> simp [h1]

theorem spdmReq_shut (h : Shut s) (p : SpdmPort) (req stage : Nat) (ok : SpdmConn → Bool) (f : Nat → State → State) :
    spdmReq p req stage ok f s = s := by
  unfold spdmReq
  simp [spdmUp_shut h]

theorem pldmUp_shut (h : Shut s) : pldmUp s = false := by
  obtain ⟨h1, -⟩ := h
  unfold pldmUp
  rcases h1 with h1 | h1 <;> simp [h1]

end Sys2Proof.Laws
end

