-- ==== Sys2Proof/WellFormed.lean ====
section
/-!
DEFINITION. Well-formed commands: the ranges of the operands that their types do not express.
A sender, a unit, a link or a host of the DLG-9600 sends only well-formed commands.
-/

namespace Sys2Proof

/-- An issue carries up to 16 bound values (R251). -/
def Issue.wf (i : Issue) : Bool := decide (i.cb.length ≤ 16)

/-- A channel of a pass: 64 for INT8 weights, 128 for INT4 (R57). -/
def PassErr.wf (e : PassErr) : Bool := decide (e.chan < 128)

/-- An access is a 64-byte line or lies within one 64-bit word (R291), inside its 64 MiB window; a write brings its
bytes; an error names a word of the access and one of the 580 columns. -/
def SpadAcc.wf (a : SpadAcc) : Bool :=
  decide (a.off < 0x4000000)
    && ((decide (a.len = 64) && decide (a.off % 64 = 0))
      || (decide (1 ≤ a.len) && decide (a.off % 8 + a.len ≤ 8)))
    && (!a.write || decide (a.data.length = a.len))
    && a.errs.all (fun e => decide (8 * e.word < a.len + 7) && decide (e.col < 580))

/-- Is a command well formed: do its operands lie in the ranges that its row gives them? -/
def Instr.wf (i : Instr) : Bool :=
  match i with
  | .registerWrite _ _ _ _ => true
  | .registerAliasWrite _ _ _ _ => true
  | .loRead _ _ => true
  | .hiRead _ _ => true
  | .loWrite _ _ _ => true
  | .hiWrite _ _ _ => true
  | .strCredit _ _ => true
  | .irqStatClear _ _ _ => true
  | .irqForce _ _ _ => true
  | .errClr _ _ _ => true
  | .roleRequest _ _ => true
  | .roleSwitch => true
  | .modAlertClear _ _ => true
  | .shareWrite _ _ _ => true
  | .capWrite _ _ => true
  | .deepRequest _ _ => true
  | .deepRequestEnd _ _ => true
  | .sluiceGo _ _ _ _ => true
  | .sluiceComplete _ _ => true
  | .bistRun _ _ _ _ => true
  | .bistDone _ _ _ => true
  | .spareTestRun _ _ _ _ => true
  | .spareSelfTest _ _ => true
  | .spareTestDone _ _ _ _ => true
  | .acreTestRequest _ _ => true
  | .scratchpadAccess a => a.wf
  | .scratchpadAliasWrite a _ => a.wf
  | .circWrite _ _ _ _ => true
  | .circRead _ _ _ _ => true
  | .eccWriteback _ _ _ => true
  | .columnRepairDone _ _ _ => true
  | .scrubLine _ _ _ _ => true
  | .mgmtWordTimeout _ _ _ _ => true
  | .reservoirScrub _ _ _ _ _ => true
  | .atomicAdd _ _ => true
  | .furrowPass _ _ _ => true
  | .passResidueCompare _ _ errs => errs.all PassErr.wf
  | .residueRepeatDone _ _ _ errs _ => errs.all PassErr.wf
  | .weightLoadStart _ _ _ => true
  | .weightLoadDone _ _ _ => true
  | .setNotReady _ _ => true
  | .accPreloadStart _ _ => true
  | .accPreloadDone _ _ _ => true
  | .accDrain _ _ _ => true
  | .accDrainDone _ _ _ => true
  | .courseYield _ _ => true
  | .courseResume _ _ => true
  | .courseStart _ _ => true
  | .matmulCourse iss => Issue.wf iss
  | .basinCourse iss => Issue.wf iss
  | .attendCourse iss _ => Issue.wf iss
  | .attendMerge iss => Issue.wf iss
  | .rmsNormalisation iss => Issue.wf iss
  | .layerNormalisation iss => Issue.wf iss
  | .int8Quantisation iss => Issue.wf iss
  | .softmaxBlock iss => Issue.wf iss
  | .routing iss => Issue.wf iss
  | .vectorAdd iss => Issue.wf iss
  | .vectorMultiply iss => Issue.wf iss
  | .sampling iss _ => Issue.wf iss
  | .orderedSum iss => Issue.wf iss
  | .fill iss => Issue.wf iss
  | .copy iss => Issue.wf iss
  | .transpose iss => Issue.wf iss
  | .stride iss => Issue.wf iss
  | .expand iss => Issue.wf iss
  | .readBeforeFill _ => true
  | .overwriteBeforeDrain _ => true
  | .boundUnreadable iss _ => Issue.wf iss
  | .chainBroken _ => true
  | .courseRecordReceived => true
  | .basinPass _ run _ theta _ => decide (run < 1024) && decide (-2147483648 ≤ theta) && decide (theta < 2147483648)
  | .weirGroupResume _ run => decide (run < 1024)
  | .clipWindowClose _ => true
  | .referenceSlot _ => true
  | .plotTempRead _ readings => readings.all (fun r => decide (r.2 < 1024))
  | .plotThrottledReport _ => true
  | .imageOpen _ => true
  | .imageControlCheck _ => true
  | .basinRecord _ => true
  | .programRow _ _ _ _ => true
  | .basinSwap _ => true
  | .spareBasinTest _ _ _ => true
  | .recalDue _ => true
  | .recalibration _ _ => true
  | .calOverdue _ => true
  | .calRequest _ => true
  | .imageActivate _ => true
  | .imageRelease _ => true
  | .imageStatus _ => true
  | .correctionStep _ _ _ _ _ => true
  | .laneBorrow _ _ _ => true
  | .laneChannelSend _ _ _ _ _ => true
  | .predictorOff _ => true
  | .predictorOn _ => true
  | .rearm _ => true
  | .kvImportHeader _ => true
  | .kvImportRecord _ => true
  | .ringFlitReceive _ _ _ _ _ _ => true
  | .linkRetrainDone _ => true
  | .allReduce iss => Issue.wf iss
  | .reduceScatter iss => Issue.wf iss
  | .allGather iss => Issue.wf iss
  | .broadcast iss => Issue.wf iss
  | .fenceRecord iss => Issue.wf iss
  | .fenceArrival _ _ => true
  | .fenceMessage _ _ => true
  | .collectiveDone _ _ => true
  | .managementFence => true
  | .skewWindowClose => true
  | .trainStep _ _ => true
  | .admitPrompt _ _ => true
  | .admitImport _ _ => true
  | .promptStaged _ _ => true
  | .abort _ => true
  | .park _ => true
  | .resume _ => true
  | .exportStream _ => true
  | .query _ => true
  | .list _ => true
  | .stepBoundary _ => true
  | .sweepBoundary => true
  | .doneHoldExpire _ => true
  | .attributionEpoch _ _ _ => true
  | .pageCloseTime => true
  | .pageSign _ _ _ _ => true
  | .pageSigned => true
  | .lmsTreeBuilt => true
  | .junctionRead _ _ _ _ _ _ => true
  | .thermalRecoveryStep _ => true
  | .thermalStillTimeout _ => true
  | .power10usMean _ => true
  | .capUnreachable => true
  | .droopDetect _ _ _ => true
  | .droopHoldEnd _ => true
  | .regulatorAlert _ => true
  | .regulatorAlertClear _ => true
  | .trickleHoldEnd => true
  | .phaseDisable _ _ => true
  | .railOff _ => true
  | .ageingMonitor _ _ => true
  | .acreStill _ _ => true
  | .acreDry _ _ => true
  | .acreWake _ _ => true
  | .acreWakeDone _ _ => true
  | .idleEntry => true
  | .deepEntry => true
  | .deepWakeDone => true
  | .coolantOutOfSpec => true
  | .powerShare _ => true
  | .portReset _ => true
  | .sqDoorbell _ _ _ => true
  | .submissionEntry _ _ entry => decide (entry.length = 64)
  | .cqDoorbell _ _ _ => true
  | .ledgerDoorbell _ _ => true
  | .coalesceTimeout _ _ => true
  | .queueEnable _ _ _ => true
  | .queueDisable _ _ _ => true
  | .queueDisableDone _ _ => true
  | .hostReadTimeout _ => true
  | .adapterLoad _ => true
  | .adapterRelease _ => true
  | .telemetry _ => true
  | .channelOpen _ req => decide (req.length = 64)
  | .channelClose _ => true
  | .flumeWrite _ ip dgram => decide (dgram.length ≤ 9216) && decide (ip < 2 ^ 128)
  | .flumeReadReq _ ip dgram => decide (dgram.length ≤ 9216) && decide (ip < 2 ^ 128)
  | .flumeReadData _ ip dgram => decide (dgram.length ≤ 9216) && decide (ip < 2 ^ 128)
  | .flumeAck _ ip dgram => decide (dgram.length ≤ 9216) && decide (ip < 2 ^ 128)
  | .flumeNak _ ip dgram => decide (dgram.length ≤ 9216) && decide (ip < 2 ^ 128)
  | .flumeOpen _ ip dgram => decide (dgram.length ≤ 9216) && decide (ip < 2 ^ 128)
  | .flumeOpenAck _ ip dgram => decide (dgram.length ≤ 9216) && decide (ip < 2 ^ 128)
  | .flumeClose _ ip dgram => decide (dgram.length ≤ 9216) && decide (ip < 2 ^ 128)
  | .ackTimer _ => true
  | .retransmitTimeout _ _ => true
  | .channelAckTimeout _ => true
  | .flumeLinkDown _ => true
  | .mctpControl _ => true
  | .pldmSensorRead _ => true
  | .pldmFirmwareStage slot => decide (slot.length ≤ 50331648)
  | .activateFirmware => true
  | .standbyBootDone => true
  | .healthWindowExpire => true
  | .getVersion _ _ => true
  | .getCapabilities _ _ => true
  | .negotiateAlgorithms _ _ => true
  | .getDigests _ _ => true
  | .getCertificate _ _ _ => true
  | .challenge _ _ => true
  | .getMeasurements _ _ _ _ => true
  | .keyExchange _ _ => true
  | .finish _ _ => true
  | .keyUpdate _ _ => true
  | .heartbeat _ _ => true
  | .endSession _ _ => true
  | .hssChain _ _ => true
  | .hssSign _ _ _ => true
  | .aliasTreeBuilt => true
  | .getNonce => true
  | .nonceExpire => true
  | .freezeToken token => decide (token.length = 5532)
  | .debugReadoutToken token => decide (token.length = 5532)
  | .fullDebugToken token => decide (token.length = 5532)
  | .ownerChangeToken token => decide (token.length = 5532)
  | .charterRestrictionToken token => decide (token.length = 5532)
  | .enterReturnToken token => decide (token.length = 5532)
  | .freezeReleaseCommand => true
  | .moduleReset => true
  | .moduleImageOpen _ _ => true
  | .moduleImageActivate _ => true
  | .holdingMaskWrite _ _ => true
  | .moduleChannelOpen req => decide (req.length = 64)
  | .signatureBlockRead _ => true
  | .eventLogRead _ _ => true
  | .lateralParityError _ _ _ _ => true
  | .accParityError _ _ _ _ _ => true
  | .sequencerParityError _ _ _ => true
  | .sequencerWatchdog _ _ _ => true
  | .acreCopyDone _ _ => true
  | .acreSwap _ _ => true
  | .acreBistRotation _ _ => true
  | .acreSelfTestDone _ _ _ => true
  | .lockstepMismatch _ => true
  | .mgmtCheckpoint => true
  | .corePairSelfTestDone _ => true
  | .hbmRead _ _ _ => true
  | .hbmPageMigrateDone _ _ => true
  | .hbmPatrolScrub _ _ _ => true
  | .sramScrub _ _ _ _ => true
  | .meterCheck => true
  | .imbalanceWindow _ _ _ _ _ => true
  | .freezeCapture _ => true
  | .hbmFreezeStop => true
  | .tapReadout _ => true
  | .thaw => true
  | .thawClockStart => true
  | .coldPowerOn _ _ _ _ => true
  | .railGood step => decide (1 ≤ step.val)
  | .railTimeout _ => true
  | .coolantResume => true
  | .inputPowerLoss => true
  | .inputUndervoltage => true
  | .inputUndervoltageClear => true
  | .inputHigh => true
  | .inputOvervoltage => true
  | .overvoltageRestart _ _ _ _ => true
  | .bladeFuseOpen _ => true
  | .refclkLost => true
  | .refclkReturn => true
  | .flumeLinkUp _ => true
  | .hostPortLinkUp _ => true
  | .coolantReading _ _ => true
  | .firmwareWatchdogExpiry => true
  | .ideKeyManagement _ _ _ => true
  | .configRequest _ => true
  | .registerRead _ _ => true
  | .shutdownRequest => true

end Sys2Proof
end

