-- ==== Sys2Proof/Tests/Slice0.lean ====
section
/-! SUPPORT. The tests of the model: the checks of WellFormed, a few steps on small states, and for every clause of the statements
that has hypotheses a state and operands that meet all of them. -/

-- one theorem at a time: the many small kernel checks would otherwise each hold a thread
set_option Elab.async false

open Sys2Proof Sys2Proof.Machine Sys2Proof.Laws

namespace Sys2Proof.Tests
/-- The module in Service, everything else at reset. -/
def up : State := { State.reset with power := { State.reset.power with phase := .service } }
/-- The same at a later count of the counter. -/
def at_ (n : Nat) : State := { up with counter := n }
/-- Acre 0 of die 0 in Flow, its other parts as given. -/
def live (a : Acre) : State := { up with acres := [(0, { a with pw := .flow })] }
/-- A course descriptor from its fields that are not 0: offset, bytes, value. -/
def desc (fs : List (Nat × Nat × Nat)) : List Byte := fs.foldl (fun d f => putLE f.1 f.2.1 f.2.2 d) (List.replicate 256 0)
/-- A course of acre 0 with one level, TOKEN, of n tokens a tile. -/
def course (kind op n : Nat) (fs : List (Nat × Nat × Nat)) : List Byte :=
  desc ([(2, 1, kind), (0x13, 1, op), (0x19, 1, 1), (0x0A, 1, 7), (0x20, 1, 1), (0x24, 4, n), (0x28, 4, n)] ++ fs)
/-- An active image whose course 0 has a descriptor. -/
def img (d : List Byte) : Image := { handle := 0, owner := 0, st := .active, courses := [d] }
/-- Acre 0 runs course 0 of image 0. -/
def runs (d : List Byte) (n : Nat) (a : Acre) : State :=
  { live { a with run := some { desc := d, bounds := [n] } } with images := [(0, img d)] }
/-- A MATMUL course of two tokens. -/
def mm : List Byte := course 1 0 2 []
/-- The same run as it stands in the acre. -/
def mmRun : CourseRun := { desc := mm, bounds := [2] }
/-- A gather chain of two slots of 1 KiB. -/
def chain2 : Chain := { loc := 0x8000, bytes := 1024, slots := 2, gather := true, fmt := 1, producer := 0, ncons := 1, consumers := [] }
/-- Acre 0 runs a course that gathers chain 0, whose slots are full. -/
def gathers (d : List Byte) (n : Nat) : State :=
  { runs d n {} with images := [(0, { img d with chains := [chain2] })], gates := [(0, ⟨true, 1⟩), (1, ⟨true, 1⟩)] }
/-- An ATTEND course of two rows. -/
def att : List Byte := course 3 0 2 [(0xC0, 8, 0x1000), (0xC8, 8, 0x4000)]
/-- Its image, whose vectors have 128 dimensions. -/
def attImg : Image := { img att with kvd := 128 }
/-- One segment of both rows walks one sealed page of stream 7. -/
def attState : State :=
  wrLE 0x4000 2 1 (wrLE 0x4040 8 0x5000 (wrLE 0x404A 2 2 (wrLE 0x404C 4 10 (wrLE 0x4052 2 1 (wrLE 0x4054 4 0xFFFFFFFF
    (wrLE 0x4058 4 7 (wrLE 0x5000 4 0x02000100
      { runs att 2 {} with
        images := [(0, attImg)]
        eng := { streams := [(7, { id := 7, gen := 0, holding := 0, image := 0 })], frames := [(0x400000, (7, 0x5000))] } })))))))
/-- The state once the first waiting command is taken. -/
def after (op : Nat) (s : State) : State := match taken (.host 0) op s with | some x => x.2 | none => s
/-- A BASIN course of one token on logical basin 0. -/
def bas : List Byte := course 2 0 1 []
/-- Its image: logical plot 0 is plot 0. -/
def basImg : Image := { img bas with plots := [(0, 0)] }
/-- Its run. -/
def basRun : BasinRun := { c := { desc := bas, bounds := [1] } }
/-- The image's basin 0 is programmed; the controller of die 0 has runs. -/
def basins (rs : List BasinRun) (x : Basin) : State :=
  { up with
    images := [(0, basImg)]
    cist := { basins := [(0, { x with st := .service, owner := 0, image := some 0, group := 0 })], plots := [(0, { st := .bound, owner := 0, image := some 0 })],
              runs := [(0, rs)] } }
/-- A stream of holding 0 on image 0. -/
def strm (id : Nat) (st : StreamState) : Machine.Stream := { id := id, gen := 0, holding := 0, image := 0, st := st }
/-- The one stream of the module. -/
def holding (x : Machine.Stream) : State := { up with eng := { streams := [(x.id, x)] } }
/-- A descriptor of ADMIT: a prompt of 4 tokens on image 0, one new token, no adapter. -/
def admitDesc : List Byte := putLE 2 2 0xFFFF (putLE 8 4 4 (putLE 0x0C 4 1 (List.replicate 128 0)))
/-- The module in the Mixed role, with an active image and queue pair 0. -/
def admitting : State :=
  setF modB F.modRoleCurrent 2 { up with
    images := [(0, { handle := 0, owner := 0, st := .active, roles := 7, layers := 1, ctxP := 1, kvhd := 1, kvd := 64 })]
    qps := [(0, { en := true })] }
/-- What the admission of that prompt takes. -/
def pagesOf (op : Nat) (s : State) : List Nat × List (Nat × Nat) × Option (Nat × Nat) × State :=
  (admitPages 0 ⟨1, 1, 64, 1⟩ (parseAdmit admitDesc) (after op { s with hostCmds := [{ by_ := 0, op := op, len := 144 }] })).elim
    (fun _ => ([], [], none, s)) id
/-- A descriptor of ADMIT with IMPORT, on channel 3. -/
def importDesc : List Byte := putLE 2 2 0xFFFF (putLE 4 2 1 (putLE 0x0C 4 1 (putLE 0x2C 4 3 (List.replicate 128 0))))
/-- The module in the Generation role with that channel and the command. -/
def importing : State :=
  { admitting with regs := up.regs, chans := [(3, { kind := .kvIn })], hostCmds := [{ by_ := 0, op := 0x01, len := 128 }] }
/-- What that admission takes. -/
def importPagesOf (s : State) : List Nat × List (Nat × Nat) × Option (Nat × Nat) × State :=
  (admitPages 0 ⟨1, 1, 64, 1⟩ (parseAdmit importDesc) (after 0x01 s)).elim (fun _ => ([], [], none, s)) id
/-- An image of one layer and one KV head of dimension 64. -/
def kvImg : Image := { handle := 0, owner := 0, layers := 1, ctxP := 1, kvhd := 1, kvd := 64 }
/-- The first 124 bytes of the header of an import: 10 positions, one record. -/
def kvHead (tag : List Byte) : List Byte :=
  leBytes 4 0x3158564B ++ leBytes 4 1 ++ tag ++ leBytes 16 0 ++ leBytes 4 10 ++ leBytes 4 0x6010001 ++ leBytes 4 1 ++ leBytes 4 1 ++ leBytes 68 0
/-- The header. -/
def kvHdr : List Byte := kvHead (kvTag kvImg) ++ leBytes 4 (crc32c (kvHead (kvTag kvImg)))
/-- Its record: page 0 with 10 positions. -/
def kvRecHead : List Byte := leBytes 6 0 ++ leBytes 2 10 ++ leBytes 52 0
def kvFrame : List Byte := List.replicate 8192 0
def kvRec : List Byte := kvRecHead ++ leBytes 4 (crc32c (kvRecHead ++ kvFrame)) ++ kvFrame

theorem kvTag_length : (kvTag kvImg).length = 16 := by simp [kvTag]
theorem kvHdr_length : kvHdr.length = 128 := by simp [kvHdr, kvHead, kvTag_length]
theorem kvFrame_length : kvFrame.length = 8192 := List.length_replicate
theorem kvRec_length : kvRec.length = 64 + kvBytes 64 := by
  rw [kvRec, List.length_append, kvFrame_length]
  simp [kvRecHead, kvBytes]

theorem kvHdr_ok (s : State) (x : Machine.Stream) (hx : 10 < ctxMax s x) : importHeaderBad s x kvImg kvHdr = none := by
  have ht := kvTag_length
  have e : (kvHead (kvTag kvImg)).length = 124 := by simp [kvHead, ht]
  have hc : fieldLE kvHdr 0x7C 4 = crc32c (kvHdr.take 0x7C) := by
    have a := crcField (kvHead (kvTag kvImg)) [] _ (crc32c_lt (kvHead (kvTag kvImg)))
    rw [e, List.append_nil] at a
    rw [show kvHdr.take 0x7C = kvHead (kvTag kvImg) from List.take_left' e]
    exact a
  have hw : ∀ o n, o + n ≤ 124 → fieldLE kvHdr o n = fieldLE (kvHead (kvTag kvImg)) o n :=
    fun o n h => fieldLE_within _ _ o n (by omega)
  have hg : (kvHdr.drop 8).take 16 = kvTag kvImg := by
    simp [kvHdr, kvHead, List.append_assoc, List.drop_append, List.take_append, ht]
  unfold importHeaderBad
  rw [hc, hg, hw 0 4 (by decide), hw 4 2 (by decide), hw 6 2 (by decide), hw 0x18 4 (by decide), hw 0x44 56 (by decide), hw 0x2C 2 (by decide),
    hw 0x2E 1 (by decide), hw 0x2F 1 (by decide), hw 0x28 4 (by decide), hw 0x34 4 (by decide), hw 0x38 4 (by decide), hw 0x3C 4 (by decide),
    hw 0x40 4 (by decide), hw 0x30 4 (by decide)]
  clear hw hg hc e
  generalize kvTag kvImg = tag at *
  match tag, ht with
  | [_, _, _, _, _, _, _, _, _, _, _, _, _, _, _, _], _ =>
    simp only [kvHead, leBytes, List.cons_append, List.nil_append, fieldLE, leVal, List.drop_succ_cons, List.drop_zero, List.take_succ_cons, List.take_zero,
      List.append_assoc]
    rw [if_neg (by decide), if_neg (by simp), if_neg (by simp), if_neg (by decide), if_neg (by decide), if_neg (by decide +kernel),
      if_neg (by simpa using hx), if_neg (by decide)]

theorem kvRec_crc : recordCrcOk kvRec = true := by
  have e : kvRecHead.length = 60 := by simp [kvRecHead]
  have a := crcField kvRecHead kvFrame _ (crc32c_lt (kvRecHead ++ kvFrame))
  rw [e] at a
  have b : kvRec.take 60 = kvRecHead := by
    rw [kvRec, List.append_assoc]
    exact List.take_left' e
  have c : kvRec.drop 64 = kvFrame := List.drop_left' (by simp [e])
  unfold recordCrcOk
  rw [b, c]
  exact decide_eq_true a

theorem kvRec_head (k : KvDims) (hl : 0 < k.layers) (hh : 0 < k.heads) (hp : 0 < k.pmax) : recordHeadOk k kvRec = true := by
  have hw : ∀ o n, o + n ≤ 60 → fieldLE kvRec o n = fieldLE kvRecHead o n := fun o n h => by
    rw [kvRec, List.append_assoc]
    exact fieldLE_within _ _ o n (by simp [kvRecHead]; omega)
  unfold recordHeadOk
  rw [hw 0 2 (by decide), hw 2 1 (by decide), hw 3 1 (by decide), hw 4 2 (by decide), hw 6 2 (by decide), hw 0x10 44 (by decide)]
  simpa [show fieldLE kvRecHead 0 2 = 0 by decide, show fieldLE kvRecHead 2 1 = 0 by decide, show fieldLE kvRecHead 3 1 = 0 by decide,
    show fieldLE kvRecHead 4 2 = 0 by decide, show fieldLE kvRecHead 6 2 = 10 by decide, show fieldLE kvRecHead 0x10 44 = 0 by decide] using ⟨⟨hl, hh⟩, hp⟩

/-- A BASIN course with a list, whose lane 0 corrects row 3 of channel 0 by 5. -/
def basList : List Byte := course 2 0 1 [(3, 1, 8), (0xD0, 8, 0x100000)]
def corrState : State :=
  { basins [{ c := { desc := basList, bounds := [1] }, corr := true }] {} with
    images := [(0, { img basList with plots := [(0, 0)] })]
    hbm := [(0x10001C, 0x40), (0x100021, 1), (0x100022, 2), (0x100044, 2), (0x120102, 1), (0x120103, 0x80), (0x120104, 5), (0x120106, 3)] }

theorem corrState_far (x : Nat) (h0 : 0x100044 < x) (h1 : x < 0x120102) : rdByte corrState x = 0 := by
  have l : locate corrState x = .hbm x := by
    unfold locate
    rw [if_pos (by omega)]
  unfold rdByte
  rw [l]
  dsimp only [corrState, basins, up]
  simp only [getK, lookupK]
  rw [if_neg (by omega), if_neg (by omega), if_neg (by omega), if_neg (by omega), if_neg (by omega), if_neg (by omega), if_neg (by omega),
    if_neg (by omega)]
  rfl

theorem corrState_list : readList corrState 0x100000 = some [(0, [⟨0, [(3, 5)]⟩])] := by
  refine readList_lane0 _ _ _ (by decide +kernel) (by decide) ?_
  intro l h0 h1
  have r : rdLE corrState (0x100000 + 0x1C) 4 = 0x40 := by decide +kernel
  have z : rdLE corrState (0x100000 + 0x40 + 8 * l + 4) 3 = 0 := by
    unfold rdLE rdBytes
    simp only [List.range_succ, List.range_zero, List.nil_append, List.map_append, List.map_cons, List.map_nil, List.cons_append, leVal]
    rw [corrState_far _ (by omega) (by omega), corrState_far _ (by omega) (by omega), corrState_far _ (by omega) (by omega)]
    rfl
  unfold segWords
  dsimp only
  rw [r, z]
  rfl

/-- A row of a basin whose weights are 8: its check cells hold 2, 9, 10 and 1. -/
def rowLevel (c : Nat) : Nat := if c = 514 then 2 else if c = 515 then 9 else if c = 516 then 10 else if c = 517 then 1 else 8
def rowVals : List Nat := (List.range 518).map (fun c => 64 * rowLevel c)

theorem crcChunks : ∀ p ∈ ([(65535, 51832), (51832, 43797), (43797, 27675), (27675, 29171), (29171, 44992), (44992, 59670), (59670, 17279), (17279, 25170), (25170, 893), (893, 41891), (41891, 11385), (11385, 1823), (1823, 55733), (55733, 3138), (3138, 22261), (22261, 22304)] : List (Nat × Nat)),
    (List.replicate 16 (0x88 : Byte)).foldl crc16Step (BitVec.ofNat 16 p.1) = BitVec.ofNat 16 p.2 := by
  decide +kernel

theorem crcMore (n : Nat) (c d : BitVec 16) (h : (List.replicate n (0x88 : Byte)).foldl crc16Step 0xFFFF = c)
    (e : (List.replicate 16 (0x88 : Byte)).foldl crc16Step c = d) : (List.replicate (n + 16) (0x88 : Byte)).foldl crc16Step 0xFFFF = d := by
  rw [← List.replicate_append_replicate, List.foldl_append, h, e]

theorem crcRow : crc16 (List.replicate 257 0x88) = 6802 := by
  have h : (List.replicate (0 + 16 * 16) (0x88 : Byte)).foldl crc16Step 0xFFFF = BitVec.ofNat 16 22304 :=
    (crcMore _ _ _ (crcMore _ _ _ (crcMore _ _ _ (crcMore _ _ _ (crcMore _ _ _ (crcMore _ _ _ (crcMore _ _ _ (crcMore _ _ _ (crcMore _ _ _ (crcMore _ _ _ (crcMore _ _ _ (crcMore _ _ _ (crcMore _ _ _ (crcMore _ _ _ (crcMore _ _ _ (crcMore _ _ _ rfl (crcChunks (65535, 51832) (by decide))) (crcChunks (51832, 43797) (by decide))) (crcChunks (43797, 27675) (by decide))) (crcChunks (27675, 29171) (by decide))) (crcChunks (29171, 44992) (by decide))) (crcChunks (44992, 59670) (by decide))) (crcChunks (59670, 17279) (by decide))) (crcChunks (17279, 25170) (by decide))) (crcChunks (25170, 893) (by decide))) (crcChunks (893, 41891) (by decide))) (crcChunks (41891, 11385) (by decide))) (crcChunks (11385, 1823) (by decide))) (crcChunks (1823, 55733) (by decide))) (crcChunks (55733, 3138) (by decide))) (crcChunks (3138, 22261) (by decide))) (crcChunks (22261, 22304) (by decide)))
  have e : (List.replicate 257 (0x88 : Byte)) = List.replicate 256 0x88 ++ [0x88] := by decide +kernel
  unfold crc16
  rw [e, List.foldl_append, h]
  decide +kernel

theorem rowVals_match : resolveRow rowVals = some (rowVals.map nearLevel) := by
  have e : (List.range 257).map (fun i => BitVec.ofNat 8 (((rowVals.map nearLevel).take 514).getD (2 * i) 0 % 16 +
      16 * (((rowVals.map nearLevel).take 514).getD (2 * i + 1) 0 % 16))) = List.replicate 257 0x88 := by
    decide +kernel
  have c : checkWord ((rowVals.map nearLevel).take 514) = 6802 := by
    unfold checkWord
    rw [e, crcRow]
  have m : rowMatches (rowVals.map nearLevel) = true := by
    unfold rowMatches
    dsimp only
    rw [c]
    decide +kernel
  unfold resolveRow
  dsimp only
  rw [if_pos m]

/-- The levels of n such rows from row a on. -/
def rowLevels : Nat → Nat → NatMap Nat
  | _, 0 => []
  | a, n + 1 => (518 * a + 514, 2) :: (518 * a + 515, 9) :: (518 * a + 516, 10) :: (518 * a + 517, 1) :: rowLevels (a + 1) n

theorem rowLevels_before (a n k : Nat) (h : k < 518 * a + 514) : lookupK (rowLevels a n) k = none := by
  induction n generalizing a with
  | zero => rfl
  | succ n ih =>
    simp only [rowLevels, lookupK]
    rw [if_neg (by omega), if_neg (by omega), if_neg (by omega), if_neg (by omega), ih (a + 1) (by omega)]

theorem rowLevels_at (a n r c : Nat) (ha : a ≤ r) (hr : r < a + n) (hc : c < 518) : getK (rowLevels a n) (518 * r + c) 8 = rowLevel c := by
  induction n generalizing a with
  | zero => omega
  | succ n ih =>
    by_cases e : a = r
    · subst e
      simp only [getK, rowLevels, lookupK, rowLevel]
      rw [rowLevels_before (a + 1) n _ (by omega)]
      repeat' split
      all_goals first | omega | rfl
    · have := ih (a + 1) (by omega) (by omega)
      simp only [getK, rowLevels, lookupK] at this ⊢
      rw [if_neg (by omega), if_neg (by omega), if_neg (by omega), if_neg (by omega), this]

theorem rowsResolve : resolveAll { st := .service, levels := rowLevels 0 512 } [] = some (List.replicate 512 (rowVals.map nearLevel)) := by
  have e : ∀ r ∈ List.range 512, resolveRow (rowReads { st := .service, levels := rowLevels 0 512 } r []) = some (rowVals.map nearLevel) := by
    intro r hr
    have hr : r < 512 := by simpa using hr
    have v : rowReads { st := .service, levels := rowLevels 0 512 } r [] = rowVals := by
      unfold rowReads rowVals
      refine List.map_congr_left (fun c hc => ?_)
      have hc : c < 518 := by simpa using hc
      have g := rowLevels_at 0 512 r c (by omega) (by omega) hc
      simp only [levelOf, cellKey, getK, lookupK, Option.getD_none, ite_self] at g ⊢
      rw [show r * 518 + c = 518 * r + c by omega, g]
    rw [v, rowVals_match]
  unfold resolveAll
  rw [allSome_map _ _ (fun _ => rowVals.map nearLevel) e, List.map_const', List.length_range]

/-! ### Collectives -/

/-- A collective's record of a type: FP32 elements, one token, no chain. -/
def coll (t : Nat) : List Byte := putLE 2 1 t (putLE 0x0B 1 1 (putLE 0x10 4 1 (putLE 0x14 4 4 (putLE 0x18 8 0xFFFFFFFFFFFFFFFF (putLE 0x20 8 0xFFFFFFFFFFFFFFFF
  (List.replicate 64 0))))))
/-- An image with that collective. -/
def collImg (r : List Byte) : Image := { handle := 0, owner := 0, st := .active, roles := 7, colls := [r], chains := [chain2] }
def collState (r : List Byte) : State := { up with images := [(0, collImg r)] }
/-- The run of a record as it is issued. -/
def collRun (r : List Byte) : CollRun := { sn := 0, issue := {}, holding := 0, desc := r, vc := 0, tokens := 1, startCtr := 0 }
/-- The ring carries one collective. -/
def ringWith (c : CollRun) : State := { collState c.desc with ring := { colls := [c] } }

/-! ### Datagrams -/

/-- A Flume datagram of a type with an empty payload. -/
def dgHead (t : Nat) : List Byte := [1, BitVec.ofNat 8 t] ++ leBytes 30 0
def dgram (t : Nat) : List Byte := dgHead t ++ leBytes 4 (crc32c (dgHead t))
/-- Port 0 has a link. -/
def linked : State := setF (flmB 0) F.flmStatLink 1 up

theorem dgram_ok (t : Nat) : dgramOk (dgram t) = true := by
  have e : (dgHead t).length = 32 := by simp [dgHead]
  have l : (dgram t).length = 36 := by simp [dgram, e]
  have c := crcField (dgHead t) [] _ (crc32c_lt (dgHead t))
  rw [e, List.append_nil] at c
  have k : (dgram t).take 32 = dgHead t := List.take_left' e
  unfold dgramOk
  rw [l, k]
  simp only [Bool.and_eq_true, decide_eq_true_eq]
  exact ⟨by decide, c⟩

/-- A connection of the management port as it is negotiated. -/
def spdmAt (n sess : Nat) : State := { up with trust := { spdm := [(4, { stage := n, session := sess, signed := some [7] })], treeUp := true, aliasQ := 3 } }
/-- A token of a type. -/
def token (t : Nat) : List Byte := putLE 6 1 t (List.replicate 128 0)
/-- The module frozen. -/
def ice : State := setF rlyB F.rlyFreezeFrozen 1 up

end Sys2Proof.Tests
open Sys2Proof.Tests

open Sys2Proof.Tests

/-! ### The checks of WellFormed, each on a term that it refuses -/

theorem test_wf_boundValues : (Instr.fill { cb := List.replicate 17 0 }).wf = false := by decide
theorem test_wf_passChannel : (Instr.passResidueCompare 0 0 [⟨0, 128, 1⟩]).wf = false := by decide
theorem test_wf_accessCrossesAWord :
    (Instr.scratchpadAccess { die := 0, acre := 0, task := 0, write := false, off := 4, len := 8 }).wf = false := by decide
theorem test_wf_accessOutsideTheWindow :
    (Instr.scratchpadAccess { die := 0, acre := 0, task := 0, write := false, off := 0x4000000, len := 8 }).wf = false := by decide
theorem test_wf_accessLineUnaligned :
    (Instr.scratchpadAccess { die := 0, acre := 0, task := 0, write := false, off := 32, len := 64 }).wf = false := by decide
theorem test_wf_writeWithoutData :
    (Instr.scratchpadAccess { die := 0, acre := 0, task := 0, write := true, off := 0, len := 8 }).wf = false := by decide
theorem test_wf_runNumber : (Instr.weirGroupResume 0 1024).wf = false := by decide
theorem test_wf_threshold : (Instr.basinPass 0 0 none 2147483648 false).wf = false := by decide
theorem test_wf_reading : (Instr.plotTempRead 0 [(0, 1024)]).wf = false := by decide
theorem test_wf_entry : (Instr.submissionEntry 0 0 (List.replicate 63 0)).wf = false := by decide
theorem test_wf_request : (Instr.channelOpen 0 (List.replicate 63 0)).wf = false := by decide
theorem test_wf_moduleRequest : (Instr.moduleChannelOpen []).wf = false := by decide
theorem test_wf_datagram : (Instr.flumeWrite 0 (2 ^ 128) []).wf = false := by decide
theorem test_wf_token : (Instr.freezeToken []).wf = false := by decide
theorem test_wf_powerStep : (Instr.railGood 0).wf = false := by decide

/-! ### A few values and steps, each from an example of the manual or worked out by hand from a rule -/

/-- Something of the next state of a command. -/
def got {α : Type} (o : Host.Outcome State Fault Refusal) (f : State → α) : Option α :=
  match o with
  | .next t => some (f t)
  | _ => none

theorem test_noWordSpellsACommand : decodeTableWord 32 0x12345678 = none := rfl

-- The pass of the example under R57: weights -3 and 5, inputs -2 and 3.
theorem test_pass_example : passChan false true [0xFD, 0x05] 4 [-2, 3] 0 = 21 := by decide +kernel

-- The same two rows read as INT4 (R57): channels 0 and 1 of row 0 hold -3 and -1, of row 1 hold 5 and 0.
theorem test_pass_int4 : ((List.range 2).map (passChan true true [0xFD, 0x05] 4 [-2, 3])) = [21, 2] := by decide +kernel

-- The refused course of the example under R25: holding 2, unit 85, class 3, code 0x1C.
theorem test_statusWord_example : statusWord 2 (68 + 17) 3 0x1C = 0x0255031C := by decide

-- The example of the register chapter: HLD1 sets COAL_T through the bit-set region, then reads HQ_STAT of HQ2.
theorem test_coalesce_example :
    got (exec (.registerAliasWrite (.host 1) 0xF000035118 0x00320000 15) up)
      (fun t => (getF t (hqB 1) F.hqCoalCoalT, getF t (hqB 1) F.hqCoalCoalN)) = some (0x32, 1) := by decide +kernel
theorem test_probe_example :
    got (exec (.registerRead (.host 1) 0xF000038128) up)
      (fun t => (regGet t (hqB 2 + 0x24), getF t (hqB 2) F.errCntCount)) = some (0x80070128, 1) := by decide +kernel

-- The idle block counts a cycle of the reference clock (log entry 1).
theorem test_idle : got (step (at_ 7)) (fun t => t.counter) = some 8 := by decide +kernel

-- The queue: the front command runs and leaves, the second one stays (log entry 1).
theorem test_queue : got (step { up with pending := [.railGood 1, .getNonce] }) (fun t => t.pending) = some [.getNonce] := by decide +kernel

theorem witness_registerWrite : ∃ (s : State) (p : Path) (addr : PAddr) (data : Word) (base : Nat) (b : Blk),
    (MayWrite s p addr.toNat base b 0) ∧ (0x100 ≤ addr.toNat % 0x1000) ∧ (isSel b.tag (addr.toNat % 0x1000) = false) ∧ (actsOnWrite b.tag (addr.toNat % 0x1000) = false) ∧ (actsOnStore b.tag (addr.toNat % 0x1000) = false) :=
  ⟨up, .mgmt, 0xF10001C100, 0, 0xF10001C000, ⟨.rng, 0, 0, 15⟩, ⟨by decide +kernel, by decide +kernel, by decide +kernel, by decide +kernel, by decide +kernel⟩, by decide +kernel, by decide +kernel, by decide +kernel, by decide +kernel⟩

theorem witness_registerAliasWrite : ∃ (s : State) (p : Path) (addr plain : PAddr) (data : Word) (base : Nat) (b : Blk) (set : Bool),
    (MayWrite s p addr.toNat base b (if set then 1 else 2)) ∧ (addr.toNat = plain.toNat + (if set then 0x1000 else 0x2000)) ∧ (0x100 ≤ addr.toNat % 0x1000) ∧ (actsOnWrite b.tag (addr.toNat % 0x1000) = false) ∧ (rwMask b.tag (addr.toNat % 0x1000) ≠ 0) :=
  ⟨up, .mgmt, 0xF10001D100, 0xF10001C100, 0, 0xF10001C000, ⟨.rng, 0, 0, 15⟩, true, ⟨by decide +kernel, by decide +kernel, by decide +kernel, by decide +kernel, by decide +kernel⟩, by decide +kernel, by decide +kernel, by decide +kernel, by decide +kernel⟩

theorem witness_registerAliasWrite_a : ∃ (s : State) (p : Path) (addr : PAddr) (data : Word) (base : Nat) (b : Blk) (set : Bool),
    (MayWrite s p addr.toNat base b (if set then 1 else 2)) ∧ (0x100 ≤ addr.toNat % 0x1000) ∧ (isSel b.tag (addr.toNat % 0x1000) = false) ∧ (rwMask b.tag (addr.toNat % 0x1000) ≠ 0) ∧ (actsOnStore b.tag (addr.toNat % 0x1000) = false) ∧ (writablePair b.tag (if isHi b.tag (addr.toNat % 0x1000) then addr.toNat % 0x1000 - 4 else addr.toNat % 0x1000) = false) :=
  ⟨up, .mgmt, 0xF10001E100, 0, 0xF10001C000, ⟨.rng, 0, 0, 15⟩, false, ⟨by decide +kernel, by decide +kernel, by decide +kernel, by decide +kernel, by decide +kernel⟩, by decide +kernel, by decide +kernel, by decide +kernel, by decide +kernel, by decide +kernel⟩

theorem witness_registerAliasWrite_b : ∃ (s : State) (p : Path) (addr : PAddr) (data : Word) (base : Nat) (b : Blk) (set : Bool) (lo : Nat),
    (MayWrite s p addr.toNat base b (if set then 1 else 2)) ∧ (rwMask b.tag (addr.toNat % 0x1000) = 0) ∧ (lo = (if isHi b.tag (addr.toNat % 0x1000) then addr.toNat % 0x1000 - 4 else addr.toNat % 0x1000)) :=
  ⟨up, .mgmt, 0xF000019124, 0, 0xF000018000, ⟨.str, 0, 15, 15⟩, true, 0x120, ⟨by decide +kernel, by decide +kernel, by decide +kernel, by decide +kernel, by decide +kernel⟩, by decide +kernel, by decide +kernel⟩

theorem witness_registerRead : ∃ (s : State) (p : Path) (addr : PAddr) (base : Nat) (b : Blk),
    (MayRead s p addr.toNat base b) ∧ (isLo b.tag (addr.toNat % 0x1000) = false) ∧ (isHi b.tag (addr.toNat % 0x1000) = false) :=
  ⟨up, .mgmt, 0xF10001C100, 0xF10001C000, ⟨.rng, 0, 0, 15⟩, ⟨by decide +kernel, by decide +kernel, by decide +kernel, by decide +kernel, by decide +kernel, by decide +kernel⟩, by decide +kernel, by decide +kernel⟩

theorem witness_loRead : ∃ (s : State) (p : Path) (addr : PAddr) (base : Nat) (b : Blk),
    (MayRead s p addr.toNat base b) ∧ (isLo b.tag (addr.toNat % 0x4000) = true) ∧ (isHi b.tag (addr.toNat % 0x1000) = false) :=
  ⟨up, .mgmt, 0xF000014104, 0xF000014000, ⟨.tly, 0, 15, 15⟩, ⟨by decide +kernel, by decide +kernel, by decide +kernel, by decide +kernel, by decide +kernel, by decide +kernel⟩, by decide +kernel, by decide +kernel⟩

theorem witness_hiRead : ∃ (s : State) (p : Path) (addr : PAddr) (base : Nat) (b : Blk),
    (MayRead s p addr.toNat base b) ∧ (isHi b.tag (addr.toNat % 0x4000) = true) ∧ (isLo b.tag (addr.toNat % 0x1000) = false) :=
  ⟨up, .mgmt, 0xF000014108, 0xF000014000, ⟨.tly, 0, 15, 15⟩, ⟨by decide +kernel, by decide +kernel, by decide +kernel, by decide +kernel, by decide +kernel, by decide +kernel⟩, by decide +kernel, by decide +kernel⟩

theorem witness_loWrite : ∃ (s : State) (p : Path) (addr : PAddr) (data : Word) (base : Nat) (b : Blk),
    (MayWrite s p addr.toNat base b 0) ∧ (isLo b.tag (addr.toNat % 0x4000) = true) ∧ (writablePair b.tag (addr.toNat % 0x1000) = true) :=
  ⟨up, .mgmt, 0xF000030104, 0, 0xF000030000, ⟨.hq, 0, 15, 0⟩, ⟨by decide +kernel, by decide +kernel, by decide +kernel, by decide +kernel, by decide +kernel⟩, by decide +kernel, by decide +kernel⟩

theorem witness_hiWrite : ∃ (s : State) (p : Path) (addr : PAddr) (data : Word) (h : Nat) (b : Blk),
    (MayWrite s p addr.toNat (hqB h) b 0) ∧ (b.tag = .hq) ∧ (b.inst = h) ∧ (addr.toNat % 0x4000 = 0x108) ∧ ((getQP s h (selQP s p h)).en = false) :=
  ⟨up, .mgmt, 0xF000030108, 0, 0, ⟨.hq, 0, 15, 0⟩, ⟨by decide +kernel, by decide +kernel, by decide +kernel, by decide +kernel, by decide +kernel⟩, by decide +kernel, by decide +kernel, by decide +kernel, by decide +kernel⟩

theorem witness_irqStatClear : ∃ (s u : State) (p : Path) (addr : PAddr) (data : Word) (base : Nat) (b : Blk),
    (MayWrite s p addr.toNat base b 0) ∧ (addr.toNat % 0x4000 = 0x14) ∧ (u = setF base F.irqStatPend (getF s base F.irqStatPend - Nat.land (getF s base F.irqStatPend) (data.toNat % 65536)) s) :=
  ⟨up, _, .mgmt, 0xF000030014, 0, 0xF000030000, ⟨.hq, 0, 15, 0⟩, ⟨by decide +kernel, by decide +kernel, by decide +kernel, by decide +kernel, by decide +kernel⟩, by decide +kernel, rfl⟩

theorem witness_irqForce : ∃ (s u : State) (p : Path) (addr : PAddr) (data : Word) (base : Nat) (b : Blk),
    (MayWrite s p addr.toNat base b 0) ∧ (addr.toNat % 0x4000 = 0x1C) ∧ (u = setF base F.irqStatPend (Nat.lor (getF s base F.irqStatPend) (Nat.land (data.toNat % 65536) (irqImpl b.tag))) s) :=
  ⟨up, _, .mgmt, 0xF00003001C, 0, 0xF000030000, ⟨.hq, 0, 15, 0⟩, ⟨by decide +kernel, by decide +kernel, by decide +kernel, by decide +kernel, by decide +kernel⟩, by decide +kernel, rfl⟩

theorem witness_errClr : ∃ (s u v : State) (p : Path) (addr : PAddr) (data : Word) (base : Nat) (b : Blk),
    (MayWrite s p addr.toNat base b 0) ∧ (addr.toNat % 0x4000 = 0x0C) ∧ (data.getLsbD 8 = true) ∧ (u = regSet (base + 0x0C) (mergeRw (rwMask b.tag 0x0C) (regGet s (base + 0x0C)) data) s) ∧ (v = (if b.tag = .hq ∧ irqActive s base = 0 ∧ irqActive u base ≠ 0 then signalVec b.inst (getF u base F.hqIrqcfgVector) u else u)) :=
  ⟨up, _, _, .mgmt, 0xF00001400C, 0x100, 0xF000014000, ⟨.tly, 0, 15, 15⟩, ⟨by decide +kernel, by decide +kernel, by decide +kernel, by decide +kernel, by decide +kernel⟩, by decide +kernel, by decide +kernel, rfl, rfl⟩

theorem witness_strCredit : ∃ (s : State) (p : Path) (data : Word),
    (writeGrant s p strB = .ok) :=
  ⟨up, .mgmt, 0, by decide +kernel⟩

theorem witness_modAlertClear : ∃ (s : State) (p : Path) (data : Word),
    (writeGrant s p modB = .ok) ∧ (data.getLsbD 1 = true) :=
  ⟨up, .mgmt, 2, by decide +kernel, by decide +kernel⟩

theorem witness_sluiceGo : ∃ (s : State) (p : Path) (die : Die) (acre : PAcre) (data : Word) (g k : Nat) (dst : BankOwner),
    (g = acreIx die acre) ∧ (k = fldOf F.spdSluiceBank data) ∧ (dst = ownerOf (fldOf F.spdSluiceTo data)) ∧ (writeGrant s p (spdB g) = .ok) ∧ (fldOf F.spdSluiceGo data = 1) ∧ ((getAcre s g).sluice = none) ∧ (¬ ((getBank s g k).owner = .seq ∧ dst ≠ .seq ∧ inService s g = true)) ∧ (bankHasFull s g k = false) ∧ (¬ (fldOf F.spdSluiceCirc data = 1 ∧ (dst = .seq ∨ dst = .none_))) :=
  ⟨live { banks := [(3, { owner := .mgmt })] }, .mgmt, 0, 0, fldPut F.spdSluiceGo 1 (fldPut F.spdSluiceBank 3 (fldPut F.spdSluiceTo 1 0)), _, _, _, rfl, rfl, rfl, by decide +kernel, by decide +kernel, by decide +kernel, by decide +kernel, by decide +kernel, by decide +kernel⟩

theorem witness_sluiceComplete : ∃ (s : State) (die : Die) (acre : PAcre) (g k : Nat) (dst : BankOwner) (circ : Bool),
    (g = acreIx die acre) ∧ (frozen s = false) ∧ ((getAcre s g).sluice = some (k, dst, circ)) :=
  ⟨live { sluice := some (1, .mgmt, true) }, 0, 0, _, _, _, _, rfl, by decide +kernel, rfl⟩

theorem witness_bistRun : ∃ (s : State) (p : Path) (die : Die) (acre : PAcre) (data : Word) (g k : Nat),
    (g = acreIx die acre) ∧ (k = fldOf F.spdBistBank data) ∧ (writeGrant s p (spdB g) = .ok) ∧ (fldOf F.spdBistRun data = 1) ∧ ((getAcre s g).bist = none) ∧ ((getBank s g k).owner = .test) ∧ ((getBank s g k).circ = true) :=
  ⟨live { banks := [(2, { owner := .test, circ := true })] }, .mgmt, 0, 0, fldPut F.spdBistRun 1 (fldPut F.spdBistBank 2 0), _, _, rfl, rfl, by decide +kernel, by decide +kernel, by decide +kernel, by decide +kernel, by decide +kernel⟩

theorem witness_bistDone : ∃ (s : State) (die : Die) (acre : PAcre) (g k : Nat),
    (g = acreIx die acre) ∧ (frozen s = false) ∧ ((getAcre s g).bist = some k) :=
  ⟨live { bist := some 3 }, 0, 0, _, _, rfl, by decide +kernel, rfl⟩

theorem witness_circWrite : ∃ (s : State) (die : Die) (acre : PAcre) (bank : Bank) (data : List Byte) (g n : Nat) (b : BankSt),
    (g = acreIx die acre) ∧ (b = getBank s g bank.val) ∧ (n = (if data.length = 64 then 8 else 1)) ∧ (frozen s = false) ∧ (bankClosing s g bank.val = false) ∧ (b.circ = true) ∧ (b.owner = .mgmt) ∧ (b.cnt + n ≤ 32768) :=
  ⟨live { banks := [(2, { owner := .mgmt, circ := true, cnt := 32760 })] }, 0, 0, 2, List.replicate 64 7, _, _, _, rfl, rfl, rfl, by decide +kernel, by decide +kernel, by decide +kernel, by decide +kernel, by decide +kernel⟩

theorem witness_circRead : ∃ (s : State) (die : Die) (acre : PAcre) (bank : Bank) (line : Bool) (g n : Nat) (b : BankSt),
    (g = acreIx die acre) ∧ (b = getBank s g bank.val) ∧ (n = (if line then 8 else 1)) ∧ (frozen s = false) ∧ (bankClosing s g bank.val = false) ∧ (b.circ = true) ∧ (b.owner = .mgmt) ∧ (n ≤ b.cnt) :=
  ⟨live { banks := [(2, { owner := .mgmt, circ := true, cnt := 8 })] }, 0, 0, 2, true, _, _, _, rfl, rfl, rfl, by decide +kernel, by decide +kernel, by decide +kernel, by decide +kernel, by decide +kernel⟩

theorem witness_scratchpadAccess : ∃ (s : State) (x : SpadAcc) (g : Nat),
    (g = spadOf s x.die.val x.acre.val) ∧ (frozen s = false) ∧ (spadAwake s g = true) ∧ (x.off < 0x200000) ∧ (bankClosing s g (bankOf x.off) = false) ∧ (x.task.val < 2) ∧ (x.write = false) ∧ (x.errs = []) ∧ (ownerAdmits s g (bankOf x.off) x.task.val = true) ∧ (pairCovers s g x.task.val x.off x.len false = true) ∧ (readFault s (0xC000000000 + x.die.val * 0x100000000 + x.acre.val * 0x4000000 + x.off) x.len = none) :=
  ⟨live { pairs := [(0, { base := 0, bound := 0x200000, r := true, valid := true })] }, { die := 0, acre := 0, task := 0, write := false, off := 0x1FFFF8, len := 8 }, _, rfl, by decide +kernel, by decide +kernel, by decide +kernel, by decide +kernel, by decide +kernel, by decide +kernel, by decide +kernel, by decide +kernel, by decide +kernel, by decide +kernel⟩

theorem witness_scratchpadAccess_a : ∃ (s : State) (x : SpadAcc) (g : Nat),
    (g = spadOf s x.die.val x.acre.val) ∧ (frozen s = false) ∧ (spadAwake s g = true) ∧ (x.off < 0x200000) ∧ (bankClosing s g (bankOf x.off) = false) ∧ (x.task.val < 2) ∧ (x.write = true) ∧ (x.errs = []) ∧ (ownerAdmits s g (bankOf x.off) x.task.val = true) ∧ (pairCovers s g x.task.val x.off x.len true = true) :=
  ⟨live { pairs := [(4, { base := 64, bound := 72, w := true, valid := true })] }, { die := 0, acre := 0, task := 1, write := true, off := 64, len := 8, data := [1, 2, 3, 4, 5, 6, 7, 8] }, _, rfl, by decide +kernel, by decide +kernel, by decide +kernel, by decide +kernel, by decide +kernel, by decide +kernel, by decide +kernel, by decide +kernel, by decide +kernel⟩

theorem witness_scratchpadAliasWrite : ∃ (s : State) (x : SpadAcc) (set : Bool) (g off addr : Nat) (old d : BitVec 64),
    (g = spadOf s x.die.val x.acre.val) ∧ (off = x.off % 0x200000 / 8 * 8) ∧ (addr = 0xC000000000 + x.die.val * 0x100000000 + x.acre.val * 0x4000000 + off) ∧ (old = BitVec.ofNat 64 (rdLE s addr 8)) ∧ (d = BitVec.ofNat 64 (leVal x.data)) ∧ (frozen s = false) ∧ (spadAwake s g = true) ∧ (bankClosing s g (bankOf off) = false) ∧ (x.errs = []) ∧ (ownerAdmits s g (bankOf off) x.task.val = true) ∧ (pairCovers s g x.task.val off 8 true = true) :=
  ⟨live { pairs := [(4, { base := 64, bound := 72, w := true, valid := true })] }, { die := 0, acre := 0, task := 1, write := true, off := 64, len := 8, data := [1, 2, 3, 4, 5, 6, 7, 8] }, true, _, _, _, _, _, rfl, rfl, rfl, rfl, rfl, by decide +kernel, by decide +kernel, by decide +kernel, by decide +kernel, by decide +kernel, by decide +kernel⟩

theorem witness_eccWriteback : ∃ (s : State) (die : Die) (acre : PAcre) (w : Nat),
    (frozen s = false) :=
  ⟨up, 0, 0, 0, by decide +kernel⟩

theorem witness_columnRepairDone : ∃ (s : State) (die : Die) (acre : PAcre) (bank : Bank) (g : Nat) (c : Nat × Nat) (st : Word),
    (g = acreIx die acre) ∧ (st = statusWord 15 (bankIx g bank.val) 6 0x46) ∧ (frozen s = false) ∧ ((getAcre s g).colRepair.find? (fun c => c.1 = bank.val) = some c) :=
  ⟨live { colRepair := [(2, 77)] }, 0, 0, 2, _, _, _, rfl, rfl, by decide +kernel, rfl⟩

theorem witness_scrubLine : ∃ (s : State) (die : Die) (acre : PAcre) (cycle : Nat) (g : Nat),
    (g = acreIx die acre) ∧ (acreLive s g = true) ∧ ((getAcre s g).scrubLine < 4095) :=
  ⟨live { scrubLine := 4094 }, 0, 0, 0, _, rfl, by decide +kernel, by decide +kernel⟩

theorem witness_mgmtWordTimeout : ∃ (s : State) (die : Die) (acre : LAcre) (off : Nat),
    (frozen s = false) :=
  ⟨up, 0, default, 0, by decide +kernel⟩

theorem witness_reservoirScrub : ∃ (s : State) (die : Die) (line : Nat) (dirty : Bool) (loc : Option (Nat × Nat × Nat)),
    (frozen s = false) :=
  ⟨up, 0, 0, false, none, by decide +kernel⟩

theorem witness_spareTestRun : ∃ (s : State) (p : Path) (die : Die) (acre : PAcre) (data : Word) (g : Nat) (u : State),
    (g = acreIx die acre) ∧ (u = modAcre g (fun a => { a with spTest := s.counter }) (setF (frwB g) F.frwSptestIntervalLog2 (fldOf F.frwSptestIntervalLog2 data) s)) ∧ (writeGrant s p (frwB g) = .ok) ∧ (fldOf F.frwSptestRun data = 1) ∧ (frozen u = false) :=
  ⟨up, .mgmt, 0, 0, fldPut F.frwSptestRun 1 0, _, _, rfl, rfl, by decide +kernel, by decide +kernel, by decide +kernel⟩

theorem witness_spareSelfTest : ∃ (s : State) (die : Die) (acre : PAcre) (g : Nat),
    (g = acreIx die acre) ∧ ((s.counter - (getAcre s g).spTest) * 48 ≥ spareInterval s g) ∧ (frozen s = false) :=
  ⟨at_ (2 ^ 40), 0, 0, _, rfl, by decide +kernel, by decide +kernel⟩

theorem witness_spareTestDone : ∃ (s : State) (die : Die) (acre : PAcre) (sp : Fin 2) (g busy was : Nat),
    (g = acreIx die acre) ∧ (busy = getF s (frwB g) F.frwSptestBusy) ∧ (was = getF s (frwB g) F.frwSptestFail) ∧ (frozen s = false) ∧ (busy.testBit sp.val = true) :=
  ⟨setF (frwB 0) F.frwSptestBusy 2 up, 0, 0, 1, _, _, _, rfl, rfl, rfl, by decide +kernel, by decide +kernel⟩

theorem witness_acreTestRequest : ∃ (s : State) (p : Path) (data : Word) (g : Nat) (u : State),
    (writeGrant s p rlyB = .ok) ∧ (fldOf F.rlyTestreqGo data = 1) ∧ (fldOf F.rlyTestreqAll data = 0) ∧ (frozen s = false) ∧ (fldOf F.rlyTestreqAcre data < 68) ∧ (g = fldOf F.rlyTestreqDie data * 68 + fldOf F.rlyTestreqAcre data) ∧ (s.testQ.contains g = false) ∧ (s.testing.contains g = false) ∧ (s.swaps.any (fun j => j.old = g && j.why = .rotation) = false) ∧ (u = regSet (rlyB + 0x10C) (fldPut F.rlyTestreqAcre (fldOf F.rlyTestreqAcre data) (fldPut F.rlyTestreqDie (fldOf F.rlyTestreqDie data) (fldPut F.rlyTestreqAll 0 0))) s) :=
  ⟨up, .mgmt, fldPut F.rlyTestreqGo 1 (fldPut F.rlyTestreqAcre 67 0), _, _, by decide +kernel, by decide +kernel, by decide +kernel, by decide +kernel, by decide +kernel, rfl, by decide +kernel, by decide +kernel, by decide +kernel, rfl⟩

theorem witness_atomicAdd : ∃ (s : State) (die : Die) (acre : PAcre) (g : Nat) (q : AtomicAdd) (rest : List AtomicAdd),
    (g = acreIx die acre) ∧ ((getAcre s g).atomics = q :: rest) ∧ (frozen s = false) ∧ (q.fp = true) :=
  ⟨live { atomics := [{ fp := true, addr := 64, val := 0x3F800000 }] }, 0, 0, _, _, _, rfl, rfl, by decide +kernel, by decide +kernel⟩

theorem witness_furrowPass : ∃ (s : State) (die : Die) (acre : PAcre) (stall g n tok xa f q : Nat) (a : Acre) (c : CourseRun) (x : Acc) (sel : Bool),
    (g = acreIx die acre) ∧ (a = getAcre s g) ∧ (a.run = some c) ∧ (acreLive s g = true) ∧ (dKind c.desc = 1) ∧ (a.held = false) ∧ (passPos a c (walkTiles c.desc c.bounds + 1) c.tile = some (n, tok)) ∧ (f = fillOf c.desc c.bounds n) ∧ (x = getAcc a (accOf f)) ∧ (q = weightTile c.desc c.bounds n) ∧ (sel = decide (q % 2 = 1)) ∧ (c.yielding = false) ∧ (setsReady a c.sn q = true) ∧ (xTile s c n = some xa) :=
  ⟨runs mm 2 { acc0 := { st := .ready }, macros := (List.range 64).map (fun m => (m, { a := { st := .ready, tile := some (0, 0) } })) }, 0, 0, 0, _, 0, 0, 0, _, _, _, mmRun, _, _, rfl, rfl, by decide +kernel, by decide +kernel, by decide +kernel, by decide +kernel, by decide +kernel, rfl, rfl, rfl, rfl, by decide +kernel, by decide +kernel, by decide +kernel⟩

theorem witness_passResidueCompare : ∃ (s : State) (die : Die) (acre : PAcre) (errs : List PassErr) (g : Nat) (a : Acre) (c : CourseRun) (r r1 : Round) (rest : List Round) (res : List (Nat × List Int × Bool)),
    (g = acreIx die acre) ∧ (a = getAcre s g) ∧ (a.run = some c) ∧ (a.rounds = r :: rest) ∧ (acreLive s g = true) ∧ (a.held = false) ∧ (r.compared = false) ∧ (res = (List.range 64).map (fun m => (m, withErrs m errs (passOut (decide (dWfmt c.desc = 1)) (xfmtOf (dXfmt c.desc)) (setRows (roundRows a r m)) (r.xs.getD m [])), residueOk (decide (dWfmt c.desc = 1)) (setRows (roundRows a r m)) (r.xs.getD m []) (withErrs m errs (passOut (decide (dWfmt c.desc = 1)) (xfmtOf (dXfmt c.desc)) (setRows (roundRows a r m)) (r.xs.getD m [])))))) ∧ (r1 = { r with outs := (res.filter (fun t => t.2.2)).map (fun t => (t.1, t.2.1)), bad := (res.filter (fun t => !t.2.2)).map (fun t => t.1), compared := true }) :=
  ⟨runs mm 2 { rounds := [{}] }, 0, 0, [], _, _, mmRun, {}, _, [], _, rfl, rfl, by decide +kernel, by decide +kernel, by decide +kernel, by decide +kernel, by decide +kernel, rfl, rfl⟩

theorem witness_residueRepeatDone : ∃ (s : State) (die : Die) (acre : PAcre) (m : LMacro) (errs : List PassErr) (cycle g : Nat) (a : Acre) (c : CourseRun) (r : Round) (rest : List Round) (out : List Int) (bad : List Nat),
    (g = acreIx die acre) ∧ (a = getAcre s g) ∧ (a.run = some c) ∧ (a.rounds = r :: rest) ∧ (acreLive s g = true) ∧ (r.bad.contains m.val = true) ∧ (out = withErrs m.val errs (passOut (decide (dWfmt c.desc = 1)) (xfmtOf (dXfmt c.desc)) (setRows (roundRows a r m.val)) (r.xs.getD m.val []))) ∧ (residueOk (decide (dWfmt c.desc = 1)) (setRows (roundRows a r m.val)) (r.xs.getD m.val []) out = true) ∧ (thirdTransient (getMacro a m.val).transients cycle = false) ∧ (bad = r.bad.filter (· ≠ m.val)) ∧ (bad ≠ []) :=
  ⟨runs mm 2 { rounds := [{ bad := [3, 5], compared := true }] }, 0, 0, 3, [], 0, _, _, mmRun, { bad := [3, 5], compared := true }, [], _, _, rfl, rfl, by decide +kernel, by decide +kernel, by decide +kernel, rfl, rfl, by decide +kernel, by decide +kernel, rfl, by decide +kernel⟩

theorem witness_weightLoadStart : ∃ (s : State) (die : Die) (acre : PAcre) (m : LMacro) (g q : Nat) (a : Acre) (c : CourseRun) (sel : Bool),
    (g = acreIx die acre) ∧ (a = getAcre s g) ∧ (loadChoice a m.val = some (c, q)) ∧ (sel = decide (q % 2 = 1)) ∧ (acreLive s g = true) ∧ ((Machine.setOf (getMacro a m.val) sel).st ≠ .active) ∧ ((Machine.setOf (getMacro a m.val) sel).st ≠ .loading) ∧ (loadFault s (tilePos c.desc c.bounds (weightFirst c.desc c.bounds q)) m.val = none) :=
  ⟨runs mm 2 {}, 0, 0, 0, _, 0, _, mmRun, _, rfl, rfl, by decide +kernel, rfl, by decide +kernel, by decide +kernel, by decide +kernel, by decide +kernel⟩

theorem witness_weightLoadDone : ∃ (s : State) (die : Die) (acre : PAcre) (m : LMacro) (g q : Nat) (a : Acre) (c : CourseRun),
    (g = acreIx die acre) ∧ (a = getAcre s g) ∧ (a.run = some c) ∧ (acreLive s g = true) ∧ ((Machine.setOf (getMacro a m.val) false).st = .loading) ∧ ((Machine.setOf (getMacro a m.val) false).tile = some (c.sn, q)) :=
  ⟨runs mm 2 { macros := [(4, { a := { st := .loading, tile := some (0, 0) } })] }, 0, 0, 4, _, 0, _, mmRun, rfl, rfl, by decide +kernel, by decide +kernel, by decide +kernel, by decide +kernel⟩

theorem witness_setNotReady : ∃ (s : State) (die : Die) (acre : PAcre) (g n tok : Nat) (a : Acre) (c : CourseRun),
    (g = acreIx die acre) ∧ (a = getAcre s g) ∧ (a.run = some c) ∧ (acreLive s g = true) ∧ (dKind c.desc = 1) ∧ (passPos a c (walkTiles c.desc c.bounds + 1) c.tile = some (n, tok)) ∧ (setsReady a c.sn (weightTile c.desc c.bounds n) = false) :=
  ⟨runs mm 2 { acc0 := { st := .ready } }, 0, 0, _, 0, 0, _, mmRun, rfl, rfl, by decide +kernel, by decide +kernel, by decide +kernel, by decide +kernel, by decide +kernel⟩

theorem witness_accPreloadStart : ∃ (s : State) (die : Die) (acre : PAcre) (g : Nat) (c : CourseRun),
    (g = acreIx die acre) ∧ ((getAcre s g).run = some c) ∧ (acreLive s g = true) ∧ (dKind c.desc = 1) ∧ (c.yielding = false) ∧ (c.nextFill < fillCount c.desc c.bounds) ∧ ((getAcc (getAcre s g) (accOf c.nextFill)).st = .idle) ∧ (fillKind c.desc c.bounds c.nextFill = 0) :=
  ⟨runs mm 2 {}, 0, 0, _, mmRun, rfl, by decide +kernel, by decide +kernel, by decide +kernel, by decide +kernel, by decide +kernel, by decide +kernel, by decide +kernel⟩

theorem witness_accPreloadDone : ∃ (s : State) (die : Die) (acre : PAcre) (acc1 : Bool) (g : Nat) (x : Acc),
    (g = acreIx die acre) ∧ (x = getAcc (getAcre s g) acc1) ∧ (acreLive s g = true) ∧ (x.st = .preload) :=
  ⟨runs mm 2 { acc1 := { st := .preload, fill := 1 } }, 0, 0, true, _, _, rfl, rfl, by decide +kernel, by decide +kernel⟩

theorem witness_accDrain : ∃ (s : State) (die : Die) (acre : PAcre) (acc1 : Bool) (g : Nat) (x : Acc) (c : CourseRun),
    (g = acreIx die acre) ∧ (x = getAcc (getAcre s g) acc1) ∧ ((getAcre s g).run = some c) ∧ (acreLive s g = true) ∧ (x.st = .fill) ∧ (x.commits = fillRounds c x.fill) ∧ (toPark c.desc c.bounds x.fill = true) :=
  ⟨live { acc0 := { st := .fill, commits := 2 }, run := some { desc := course 1 0 2 [(0x15, 1, 4), (0x19, 1, 2), (0x38, 1, 3), (0x3C, 4, 128), (0x40, 4, 64)], bounds := [2, 128] } }, 0, 0, false, _, _, { desc := course 1 0 2 [(0x15, 1, 4), (0x19, 1, 2), (0x38, 1, 3), (0x3C, 4, 128), (0x40, 4, 64)], bounds := [2, 128] }, rfl, rfl, by decide +kernel, by decide +kernel, by decide +kernel, by decide +kernel, by decide +kernel⟩

theorem witness_accDrain_a : ∃ (s : State) (die : Die) (acre : PAcre) (acc1 : Bool) (g : Nat) (x : Acc) (c : CourseRun),
    (g = acreIx die acre) ∧ (x = getAcc (getAcre s g) acc1) ∧ ((getAcre s g).run = some c) ∧ (acreLive s g = true) ∧ (x.st = .fill) ∧ (x.commits = fillRounds c x.fill) ∧ (toPark c.desc c.bounds x.fill = false) ∧ (coutSlot s c x.fill = none) ∧ (dRedmode c.desc ≠ 1) :=
  ⟨runs mm 2 { acc0 := { st := .fill, commits := 2 } }, 0, 0, false, _, _, mmRun, rfl, rfl, by decide +kernel, by decide +kernel, by decide +kernel, by decide +kernel, by decide +kernel, by decide +kernel, by decide +kernel⟩

theorem witness_accDrainDone : ∃ (s : State) (die : Die) (acre : PAcre) (acc1 : Bool) (g : Nat) (x : Acc) (c : CourseRun),
    (g = acreIx die acre) ∧ (x = getAcc (getAcre s g) acc1) ∧ ((getAcre s g).run = some c) ∧ (acreLive s g = true) ∧ (x.st = .drain) :=
  ⟨runs mm 2 { acc0 := { st := .drain, commits := 2 } }, 0, 0, false, _, _, mmRun, rfl, rfl, by decide +kernel, by decide +kernel, by decide +kernel⟩

theorem witness_courseYield : ∃ (s : State) (die : Die) (acre : PAcre) (g : Nat) (a : Acre) (c p : CourseRun),
    (g = acreIx die acre) ∧ (a = getAcre s g) ∧ (a.run = some c) ∧ (a.pend = some p) ∧ (acreLive s g = true) ∧ (courseYields c = true) ∧ (courseYields p = false) ∧ (c.yielding = false) ∧ (a.acc0.st = .fill) ∧ (a.acc1.st = .idle) :=
  ⟨{ live { run := some { desc := course 1 0 2 [(3, 1, 4)], bounds := [2] }, pend := some mmRun, acc0 := { st := .fill } } with counter := 9 }, 0, 0, _, _, { desc := course 1 0 2 [(3, 1, 4)], bounds := [2] }, mmRun, rfl, rfl, by decide +kernel, by decide +kernel, by decide +kernel, by decide +kernel, by decide +kernel, by decide +kernel, by decide +kernel, by decide +kernel⟩

theorem witness_courseResume : ∃ (s : State) (die : Die) (acre : PAcre) (g : Nat) (a : Acre) (c : CourseRun),
    (g = acreIx die acre) ∧ (a = getAcre s g) ∧ (a.run = none) ∧ (a.pend = none) ∧ (a.aside = some c) ∧ (acreLive s g = true) :=
  ⟨live { aside := some mmRun }, 0, 0, _, _, mmRun, rfl, rfl, by decide +kernel, by decide +kernel, by decide +kernel, by decide +kernel⟩

theorem witness_courseStart : ∃ (s : State) (die : Die) (acre : PAcre) (g : Nat) (a : Acre) (c : CourseRun),
    (g = acreIx die acre) ∧ (a = getAcre s g) ∧ (a.run = none) ∧ (a.pend = some c) ∧ (acreLive s g = true) ∧ (issueHeld s g = false) :=
  ⟨live { pend := some mmRun }, 0, 0, _, _, mmRun, rfl, rfl, by decide +kernel, by decide +kernel, by decide +kernel, by decide +kernel⟩

theorem witness_matmulCourse : ∃ (s : State) (iss : Issue) (im : Image) (d : List Byte) (bs : List Nat) (u : State) (g : Nat),
    (courseDesc s iss = some (im, d)) ∧ (dKind d = 1) ∧ (slotFree s d = true) ∧ (issueCheck s iss im d = .ok bs) ∧ (u = countIssue s) ∧ (g = execAcre u d) :=
  ⟨{ live {} with images := [(0, img mm)] }, {}, img mm, mm, [2], _, _, by decide +kernel, by decide +kernel, by decide +kernel, by decide +kernel, rfl, rfl⟩

theorem witness_rmsNormalisation : ∃ (s : State) (iss : Issue) (im : Image) (d : List Byte) (g k x y : Nat) (c : CourseRun) (p : TilePos) (xs : List Word),
    (RunsOn s iss im d g c) ∧ (isVec 0x10 d = true) ∧ (isGatherIn s iss d = false) ∧ (c.tile < walkTiles c.desc c.bounds) ∧ (p = tilePos c.desc c.bounds c.tile) ∧ (k = p.ext.getD 0 0) ∧ (tileIn s c c.tile p.x = some x) ∧ (tileOut s c c.tile p.y = some y) ∧ (readFault s x (elemBytes (latFmtX (dXfmt c.desc)) k) = none) ∧ (readFault s (paramAddr c.desc p.idx) (4 * k) = none) ∧ (xs = rdVec s (latFmtX (dXfmt c.desc)) x k) :=
  ⟨runs (course 4 0x10 4 [(0xC0, 8, 0x1000), (0x11, 1, 0x10)]) 4 {}, {}, img (course 4 0x10 4 [(0xC0, 8, 0x1000), (0x11, 1, 0x10)]), course 4 0x10 4 [(0xC0, 8, 0x1000), (0x11, 1, 0x10)], 0, _, 0, 0x1000, { desc := course 4 0x10 4 [(0xC0, 8, 0x1000), (0x11, 1, 0x10)], bounds := [4] }, _, _, ⟨by decide +kernel, by decide +kernel, by decide +kernel, by decide +kernel, by decide +kernel⟩, by decide +kernel, by decide +kernel, by decide +kernel, rfl, rfl, by decide +kernel, by decide +kernel, by decide +kernel, by decide +kernel, rfl⟩

theorem witness_layerNormalisation : ∃ (s : State) (iss : Issue) (im : Image) (d : List Byte) (g k x y : Nat) (c : CourseRun) (p : TilePos) (xs : List Word),
    (RunsOn s iss im d g c) ∧ (isVec 0x11 d = true) ∧ (isGatherIn s iss d = false) ∧ (c.tile < walkTiles c.desc c.bounds) ∧ (p = tilePos c.desc c.bounds c.tile) ∧ (k = p.ext.getD 0 0) ∧ (tileIn s c c.tile p.x = some x) ∧ (tileOut s c c.tile p.y = some y) ∧ (readFault s x (elemBytes (latFmtX (dXfmt c.desc)) k) = none) ∧ (readFault s (paramAddr c.desc p.idx) (8 * k) = none) ∧ (xs = rdVec s (latFmtX (dXfmt c.desc)) x k) :=
  ⟨runs (course 4 0x11 4 [(0xC0, 8, 0x1000), (0x11, 1, 0x10)]) 4 {}, {}, img (course 4 0x11 4 [(0xC0, 8, 0x1000), (0x11, 1, 0x10)]), course 4 0x11 4 [(0xC0, 8, 0x1000), (0x11, 1, 0x10)], 0, _, 0, 0x1000, { desc := course 4 0x11 4 [(0xC0, 8, 0x1000), (0x11, 1, 0x10)], bounds := [4] }, _, _, ⟨by decide +kernel, by decide +kernel, by decide +kernel, by decide +kernel, by decide +kernel⟩, by decide +kernel, by decide +kernel, by decide +kernel, rfl, rfl, by decide +kernel, by decide +kernel, by decide +kernel, by decide +kernel, rfl⟩

theorem witness_int8Quantisation : ∃ (s : State) (iss : Issue) (im : Image) (d : List Byte) (g k x y : Nat) (c : CourseRun) (p : TilePos) (xs : List Word),
    (RunsOn s iss im d g c) ∧ (isVec 0x12 d = true) ∧ (isGatherIn s iss d = false) ∧ (c.tile < walkTiles c.desc c.bounds) ∧ (p = tilePos c.desc c.bounds c.tile) ∧ (k = p.ext.getD 0 0) ∧ (tileIn s c c.tile p.x = some x) ∧ (tileOut s c c.tile p.y = some y) ∧ (readFault s x (elemBytes (latFmtX (dXfmt c.desc)) k) = none) ∧ (readFault s 0 0 = none) ∧ (xs = rdVec s (latFmtX (dXfmt c.desc)) x k) :=
  ⟨runs (course 4 0x12 4 [(0xC0, 8, 0x1000), (0x11, 1, 0x10)]) 4 {}, {}, img (course 4 0x12 4 [(0xC0, 8, 0x1000), (0x11, 1, 0x10)]), course 4 0x12 4 [(0xC0, 8, 0x1000), (0x11, 1, 0x10)], 0, _, 0, 0x1000, { desc := course 4 0x12 4 [(0xC0, 8, 0x1000), (0x11, 1, 0x10)], bounds := [4] }, _, _, ⟨by decide +kernel, by decide +kernel, by decide +kernel, by decide +kernel, by decide +kernel⟩, by decide +kernel, by decide +kernel, by decide +kernel, rfl, rfl, by decide +kernel, by decide +kernel, by decide +kernel, by decide +kernel, rfl⟩

theorem witness_vectorAdd : ∃ (s : State) (iss : Issue) (im : Image) (d : List Byte) (g k x y : Nat) (c : CourseRun) (p : TilePos) (xs : List Word),
    (RunsOn s iss im d g c) ∧ (isVec 0x15 d = true) ∧ (isGatherIn s iss d = false) ∧ (c.tile < walkTiles c.desc c.bounds) ∧ (p = tilePos c.desc c.bounds c.tile) ∧ (k = p.ext.getD 0 0) ∧ (tileIn s c c.tile p.x = some x) ∧ (tileOut s c c.tile p.y = some y) ∧ (readFault s x (elemBytes (latFmtX (dXfmt c.desc)) k) = none) ∧ (readFault s (secondAddr c.desc p.idx) (elemBytes (latFmtX (dXfmt c.desc)) k) = none) ∧ (xs = rdVec s (latFmtX (dXfmt c.desc)) x k) :=
  ⟨runs (course 4 0x15 4 [(0xC0, 8, 0x1000), (0x11, 1, 0x10)]) 4 {}, {}, img (course 4 0x15 4 [(0xC0, 8, 0x1000), (0x11, 1, 0x10)]), course 4 0x15 4 [(0xC0, 8, 0x1000), (0x11, 1, 0x10)], 0, _, 0, 0x1000, { desc := course 4 0x15 4 [(0xC0, 8, 0x1000), (0x11, 1, 0x10)], bounds := [4] }, _, _, ⟨by decide +kernel, by decide +kernel, by decide +kernel, by decide +kernel, by decide +kernel⟩, by decide +kernel, by decide +kernel, by decide +kernel, rfl, rfl, by decide +kernel, by decide +kernel, by decide +kernel, by decide +kernel, rfl⟩

theorem witness_vectorMultiply : ∃ (s : State) (iss : Issue) (im : Image) (d : List Byte) (g k x y : Nat) (c : CourseRun) (p : TilePos) (xs : List Word),
    (RunsOn s iss im d g c) ∧ (isVec 0x16 d = true) ∧ (isGatherIn s iss d = false) ∧ (c.tile < walkTiles c.desc c.bounds) ∧ (p = tilePos c.desc c.bounds c.tile) ∧ (k = p.ext.getD 0 0) ∧ (tileIn s c c.tile p.x = some x) ∧ (tileOut s c c.tile p.y = some y) ∧ (readFault s x (elemBytes (latFmtX (dXfmt c.desc)) k) = none) ∧ (readFault s (secondAddr c.desc p.idx) (elemBytes (latFmtX (dXfmt c.desc)) k) = none) ∧ (xs = rdVec s (latFmtX (dXfmt c.desc)) x k) :=
  ⟨runs (course 4 0x16 4 [(0xC0, 8, 0x1000), (0x11, 1, 0x10)]) 4 {}, {}, img (course 4 0x16 4 [(0xC0, 8, 0x1000), (0x11, 1, 0x10)]), course 4 0x16 4 [(0xC0, 8, 0x1000), (0x11, 1, 0x10)], 0, _, 0, 0x1000, { desc := course 4 0x16 4 [(0xC0, 8, 0x1000), (0x11, 1, 0x10)], bounds := [4] }, _, _, ⟨by decide +kernel, by decide +kernel, by decide +kernel, by decide +kernel, by decide +kernel⟩, by decide +kernel, by decide +kernel, by decide +kernel, rfl, rfl, by decide +kernel, by decide +kernel, by decide +kernel, by decide +kernel, rfl⟩

theorem witness_softmaxBlock : ∃ (s : State) (iss : Issue) (im : Image) (d : List Byte) (g k x y : Nat) (c : CourseRun) (p : TilePos) (m l al : Word) (o : SoftOut),
    (RunsOn s iss im d g c) ∧ (isVec 0x13 d = true) ∧ (isGatherIn s iss d = false) ∧ (c.tile < walkTiles c.desc c.bounds) ∧ (p = tilePos c.desc c.bounds c.tile) ∧ (k = p.ext.getD 0 0) ∧ (tileIn s c c.tile p.x = some x) ∧ (tileOut s c c.tile p.y = some y) ∧ (readFault s x (elemBytes (latFmtX (dXfmt c.desc)) k) = none) ∧ ((m, l, al) = getK (getAcre s g).soft c.tile (f32NegInf, 0, 0)) ∧ (o = softBlock m l (rdVec s (latFmtX (dXfmt c.desc)) x k)) :=
  ⟨runs (course 4 0x13 4 [(0xC0, 8, 0x1000), (0x11, 1, 0x10)]) 4 {}, {}, img (course 4 0x13 4 [(0xC0, 8, 0x1000), (0x11, 1, 0x10)]), course 4 0x13 4 [(0xC0, 8, 0x1000), (0x11, 1, 0x10)], 0, _, 0, 0x1000, { desc := course 4 0x13 4 [(0xC0, 8, 0x1000), (0x11, 1, 0x10)], bounds := [4] }, _, f32NegInf, 0, 0, _, ⟨by decide +kernel, by decide +kernel, by decide +kernel, by decide +kernel, by decide +kernel⟩, by decide +kernel, by decide +kernel, by decide +kernel, rfl, rfl, by decide +kernel, by decide +kernel, by decide +kernel, by decide +kernel, rfl⟩

theorem witness_routing : ∃ (s : State) (iss : Issue) (im : Image) (d : List Byte) (g k x : Nat) (c : CourseRun) (p : TilePos) (zs : List Word),
    (RunsOn s iss im d g c) ∧ (isVec 0x14 d = true) ∧ (isGatherIn s iss d = false) ∧ (c.tile < walkTiles c.desc c.bounds) ∧ (p = tilePos c.desc c.bounds c.tile) ∧ (k = p.ext.getD 0 0) ∧ (tileIn s c c.tile p.x = some x) ∧ (readFault s x (elemBytes (latFmtX (dXfmt c.desc)) k) = none) ∧ (zs = rdVec s (latFmtX (dXfmt c.desc)) x k) :=
  ⟨runs (course 4 0x14 4 [(0xC0, 8, 0x1000), (0x11, 1, 0x10)]) 4 {}, {}, img (course 4 0x14 4 [(0xC0, 8, 0x1000), (0x11, 1, 0x10)]), course 4 0x14 4 [(0xC0, 8, 0x1000), (0x11, 1, 0x10)], 0, _, 0, { desc := course 4 0x14 4 [(0xC0, 8, 0x1000), (0x11, 1, 0x10)], bounds := [4] }, _, _, ⟨by decide +kernel, by decide +kernel, by decide +kernel, by decide +kernel, by decide +kernel⟩, by decide +kernel, by decide +kernel, by decide +kernel, rfl, rfl, by decide +kernel, by decide +kernel, rfl⟩

theorem witness_sampling : ∃ (s : State) (iss : Issue) (im : Image) (d : List Byte) (g v x y : Nat) (c : CourseRun) (r : RowRec) (zs : List Word),
    (RunsOn s iss im d g c) ∧ (isVec 0x17 d = true) ∧ (isGatherIn s iss d = false) ∧ (c.tile < walkTiles c.desc c.bounds) ∧ (v = c.bounds.getD 0 0) ∧ (tileIn s c c.tile (physAddr (dX c.desc) + 4 * v * c.tile) = some x) ∧ (tileOut s c c.tile (physAddr (dY c.desc) + 4 * c.tile) = some y) ∧ (readFault s x (4 * v) = none) ∧ (readFault s (physAddr (dP c.desc) + 32 * c.tile) 32 = none) ∧ (zs = rdVec s .fp32 x v) ∧ (r = rdRowRec s (physAddr (dP c.desc) + 32 * c.tile)) :=
  ⟨runs (course 4 0x17 1 [(0xC0, 8, 0x1000), (0x11, 1, 0x10), (0xC8, 8, 0x2000)]) 1 {}, {}, img (course 4 0x17 1 [(0xC0, 8, 0x1000), (0x11, 1, 0x10), (0xC8, 8, 0x2000)]), course 4 0x17 1 [(0xC0, 8, 0x1000), (0x11, 1, 0x10), (0xC8, 8, 0x2000)], 0, _, 0, 0x1000, { desc := course 4 0x17 1 [(0xC0, 8, 0x1000), (0x11, 1, 0x10), (0xC8, 8, 0x2000)], bounds := [1] }, _, _, ⟨by decide +kernel, by decide +kernel, by decide +kernel, by decide +kernel, by decide +kernel⟩, by decide +kernel, by decide +kernel, by decide +kernel, rfl, by decide +kernel, by decide +kernel, by decide +kernel, by decide +kernel, rfl, rfl⟩

theorem witness_orderedSum : ∃ (s : State) (iss : Issue) (im : Image) (d : List Byte) (g y n : Nat) (c : CourseRun) (ch : Chain) (slots : List Nat),
    (RunsOn s iss im d g c) ∧ (dKind d = 4) ∧ (isGatherIn s iss d = true) ∧ (c.tile = 0) ∧ (getChain s c.issue.image (dCinIx c.desc) = some ch) ∧ (tileOut s c 0 (physAddr (dY c.desc)) = some y) ∧ (n = prodL c.bounds) ∧ (slots = (List.range ch.slots).map (slotAddr ch)) ∧ ((List.range ch.slots).all (fun k => (getGate s c.issue.image (dCinIx c.desc) k).full) = true) ∧ ((List.range ch.slots).findSome? (fun k => readFault s (slotAddr ch k) (4 * n + 1)) = none) ∧ (ch.fmt ≠ 0) :=
  ⟨gathers (course 4 0 4 [(3, 1, 1), (0xC0, 8, 0x1000)]) 4, {}, { img (course 4 0 4 [(3, 1, 1), (0xC0, 8, 0x1000)]) with chains := [chain2] }, course 4 0 4 [(3, 1, 1), (0xC0, 8, 0x1000)], 0, 0x1000, _, { desc := course 4 0 4 [(3, 1, 1), (0xC0, 8, 0x1000)], bounds := [4] }, chain2, _, ⟨by decide +kernel, by decide +kernel, by decide +kernel, by decide +kernel, by decide +kernel⟩, by decide +kernel, by decide +kernel, by decide +kernel, by decide +kernel, by decide +kernel, rfl, rfl, by decide +kernel, by decide +kernel, by decide +kernel⟩

theorem witness_fill : ∃ (s : State) (iss : Issue) (im : Image) (d : List Byte) (g k y : Nat) (c : CourseRun) (p : TilePos),
    (RunsOn s iss im d g c) ∧ (dKind d = 5) ∧ (dOp d = 0x20) ∧ (c.tile < walkTiles c.desc c.bounds) ∧ (p = tilePos c.desc c.bounds c.tile) ∧ (k = p.ext.getD 0 0) ∧ (tileOut s c c.tile p.y = some y) :=
  ⟨runs (course 5 0x20 4 [(0xC0, 8, 0x1000)]) 4 {}, {}, img (course 5 0x20 4 [(0xC0, 8, 0x1000)]), course 5 0x20 4 [(0xC0, 8, 0x1000)], 0, _, 0x1000, { desc := course 5 0x20 4 [(0xC0, 8, 0x1000)], bounds := [4] }, _, ⟨by decide +kernel, by decide +kernel, by decide +kernel, by decide +kernel, by decide +kernel⟩, by decide +kernel, by decide +kernel, by decide +kernel, rfl, rfl, by decide +kernel⟩

theorem witness_copy : ∃ (s : State) (iss : Issue) (im : Image) (d : List Byte) (g k x y : Nat) (c : CourseRun) (p : TilePos) (es : List (Nat × Nat)),
    (RunsOn s iss im d g c) ∧ (dKind d = 5) ∧ (dOp d = 0x21) ∧ (c.tile < walkTiles c.desc c.bounds) ∧ (p = tilePos c.desc c.bounds c.tile) ∧ (k = p.ext.getD 0 0) ∧ (tileIn s c c.tile p.x = some x) ∧ (tileOut s c c.tile p.y = some y) ∧ (readFault s x (spanPacked c.desc k) = none) ∧ (es = copyElems s c.desc x k) :=
  ⟨runs (course 5 0x21 4 [(0xC0, 8, 0x1000)]) 4 {}, {}, img (course 5 0x21 4 [(0xC0, 8, 0x1000)]), course 5 0x21 4 [(0xC0, 8, 0x1000)], 0, _, 0, 0x1000, { desc := course 5 0x21 4 [(0xC0, 8, 0x1000)], bounds := [4] }, _, _, ⟨by decide +kernel, by decide +kernel, by decide +kernel, by decide +kernel, by decide +kernel⟩, by decide +kernel, by decide +kernel, by decide +kernel, rfl, rfl, by decide +kernel, by decide +kernel, by decide +kernel, rfl⟩

theorem witness_stride : ∃ (s : State) (iss : Issue) (im : Image) (d : List Byte) (g k x y : Nat) (c : CourseRun) (p : TilePos) (es : List (Nat × Nat)),
    (RunsOn s iss im d g c) ∧ (dKind d = 5) ∧ (dOp d = 0x23) ∧ (c.tile < walkTiles c.desc c.bounds) ∧ (p = tilePos c.desc c.bounds c.tile) ∧ (k = p.ext.getD 0 0) ∧ (tileIn s c c.tile p.x = some x) ∧ (tileOut s c c.tile p.y = some y) ∧ (readFault s x (spanStride c.desc k) = none) ∧ (es = strideElems s c.desc x k) :=
  ⟨runs (course 5 0x23 4 [(0xC0, 8, 0x1000), (0x1C, 4, 16)]) 4 {}, {}, img (course 5 0x23 4 [(0xC0, 8, 0x1000), (0x1C, 4, 16)]), course 5 0x23 4 [(0xC0, 8, 0x1000), (0x1C, 4, 16)], 0, _, 0, 0x1000, { desc := course 5 0x23 4 [(0xC0, 8, 0x1000), (0x1C, 4, 16)], bounds := [4] }, _, _, ⟨by decide +kernel, by decide +kernel, by decide +kernel, by decide +kernel, by decide +kernel⟩, by decide +kernel, by decide +kernel, by decide +kernel, rfl, rfl, by decide +kernel, by decide +kernel, by decide +kernel, rfl⟩

theorem witness_transpose : ∃ (s : State) (iss : Issue) (im : Image) (d : List Byte) (g k x y : Nat) (c : CourseRun) (p : TilePos) (es : List (Nat × Nat)),
    (RunsOn s iss im d g c) ∧ (dKind d = 5) ∧ (dOp d = 0x22) ∧ (c.tile < walkTiles c.desc c.bounds) ∧ (p = tilePos c.desc c.bounds c.tile) ∧ (k = p.ext.getD 0 0) ∧ (tileIn s c c.tile p.x = some x) ∧ (tileOut s c c.tile p.y = some y) ∧ (readFault s x (spanPacked c.desc k) = none) ∧ (es = transElems s c.desc x k) ∧ (transShape (latFmtX (dXfmt c.desc)) ≠ none) :=
  ⟨runs (course 5 0x22 4 [(0xC0, 8, 0x1000)]) 4 {}, {}, img (course 5 0x22 4 [(0xC0, 8, 0x1000)]), course 5 0x22 4 [(0xC0, 8, 0x1000)], 0, _, 0, 0x1000, { desc := course 5 0x22 4 [(0xC0, 8, 0x1000)], bounds := [4] }, _, _, ⟨by decide +kernel, by decide +kernel, by decide +kernel, by decide +kernel, by decide +kernel⟩, by decide +kernel, by decide +kernel, by decide +kernel, rfl, rfl, by decide +kernel, by decide +kernel, by decide +kernel, rfl, by decide +kernel⟩

theorem witness_expand : ∃ (s : State) (iss : Issue) (im : Image) (d : List Byte) (g k x y : Nat) (c : CourseRun) (p : TilePos) (fr : Frame),
    (RunsOn s iss im d g c) ∧ (dKind d = 5) ∧ (dOp d = 0x24) ∧ (c.tile < walkTiles c.desc c.bounds) ∧ (p = tilePos c.desc c.bounds c.tile) ∧ (k = p.ext.getD 0 0) ∧ (tileIn s c c.tile p.x = some x) ∧ (tileOut s c c.tile p.y = some y) ∧ (readFault s x (16 + k) = none) ∧ (readFrame s x k = some fr) ∧ (fr.scale = none) :=
  ⟨wrLE 0 8 0x101000004 (wrLE 16 1 5 (runs (course 5 0x24 4 [(0xC0, 8, 0x1000)]) 4 {})), {}, img (course 5 0x24 4 [(0xC0, 8, 0x1000)]), course 5 0x24 4 [(0xC0, 8, 0x1000)], 0, _, 0, 0x1000, { desc := course 5 0x24 4 [(0xC0, 8, 0x1000)], bounds := [4] }, _, ⟨.int8, [5, 0, 0, 0], none, true⟩, ⟨by decide +kernel, by decide +kernel, by decide +kernel, by decide +kernel, by decide +kernel⟩, by decide +kernel, by decide +kernel, by decide +kernel, rfl, rfl, by decide +kernel, by decide +kernel, by decide +kernel, by decide +kernel, by decide +kernel⟩

theorem witness_attendCourse : ∃ (s s1 : State) (iss : Issue) (im : Image) (d : List Byte) (g n rows pages x y : Nat) (c : CourseRun) (qt : QTable) (own : State → Seg → Nat) (frames : List Nat),
    (RunsOn s iss im d g c) ∧ (dKind d = 3) ∧ ((decide (dNlev d = 1) && isGatherIn s iss d) = false) ∧ (c.tile = 0) ∧ (getImage s c.issue.image = some im) ∧ (rows = c.bounds.getD 0 0) ∧ (pages = (if dNlev c.desc ≥ 2 then c.bounds.getD 1 0 else 1)) ∧ (n = im.kvd) ∧ (qt = rdQTable s (physAddr (dP c.desc)) (unitsOf n) rows) ∧ (own = (fun t sg => (getStream t sg.stream).elim c.holding (fun z => z.holding))) ∧ (tileIn s c 0 (physAddr (dX c.desc)) = some x) ∧ (tileOut s c 0 (physAddr (dY c.desc)) = some y) ∧ (readFault s (physAddr (dP c.desc)) (0x40 + 32 * min (unitsOf n) (rdLE s (physAddr (dP c.desc)) 2) + 4 * rows) = none) ∧ (readFault s x (rows * n) = none) ∧ (segsOk qt (unitsOf n) rows pages = true) ∧ (qt.segs.foldl (fun o sg => o.bind (fun t => appendSeg (dDie c.desc) (own t sg) n im.ctxP (winAddr c.desc sg.append) qt.h sg t)) (some s) = some s1) ∧ (qt.segs.any (fun sg => (segPages sg).any (fun e => !entryOk s1 (dDie c.desc) n (own s1 sg) e.2)) = false) ∧ (frames = qt.segs.flatMap (fun sg => (segPages sg).map (fun e => frameAddr (dDie c.desc) n (rdEnt s1 e.2).frame))) ∧ (frames.findSome? (fun f => readFault s1 f (kvBytes n)) = none) :=
  ⟨attState, attState, {}, attImg, att, 0, _, _, _, 0, 0x1000, { desc := att, bounds := [2] }, _, _, _, ⟨by decide +kernel, by decide +kernel, by decide +kernel, by decide +kernel, by decide +kernel⟩, by decide +kernel, by decide +kernel, by decide +kernel, by decide +kernel, rfl, rfl, rfl, rfl, rfl, by decide +kernel, by decide +kernel, by decide +kernel, by decide +kernel, by decide +kernel, by decide +kernel, by decide +kernel, rfl, by decide +kernel⟩

theorem witness_attendMerge : ∃ (s : State) (iss : Issue) (im : Image) (d : List Byte) (g rows y : Nat) (c : CourseRun) (ch : Chain) (slots : List Nat),
    (RunsOn s iss im d g c) ∧ (dKind d = 3) ∧ (dNlev d = 1) ∧ (isGatherIn s iss d = true) ∧ (c.tile = 0) ∧ (getImage s c.issue.image = some im) ∧ (rows = c.bounds.getD 0 0) ∧ (getChain s c.issue.image (dCinIx c.desc) = some ch) ∧ (slots = (List.range ch.slots).map (slotAddr ch)) ∧ (tileOut s c 0 (physAddr (dY c.desc)) = some y) ∧ ((List.range ch.slots).all (fun k => (getGate s c.issue.image (dCinIx c.desc) k).full) = true) ∧ (slots.findSome? (fun a => readFault s a (rows * partialBytes im.kvd)) = none) :=
  ⟨gathers (course 3 0 2 [(3, 1, 1), (0xC0, 8, 0x1000)]) 2, {}, { img (course 3 0 2 [(3, 1, 1), (0xC0, 8, 0x1000)]) with chains := [chain2] }, course 3 0 2 [(3, 1, 1), (0xC0, 8, 0x1000)], 0, _, 0x1000, { desc := course 3 0 2 [(3, 1, 1), (0xC0, 8, 0x1000)], bounds := [2] }, chain2, _, ⟨by decide +kernel, by decide +kernel, by decide +kernel, by decide +kernel, by decide +kernel⟩, by decide +kernel, by decide +kernel, by decide +kernel, by decide +kernel, by decide +kernel, rfl, by decide +kernel, rfl, by decide +kernel, by decide +kernel, by decide +kernel⟩

theorem witness_basinCourse : ∃ (s : State) (iss : Issue) (im : Image) (d : List Byte) (bs : List Nat) (u : State),
    (courseDesc s iss = some (im, d)) ∧ (dKind d = 2) ∧ (frozen s = false) ∧ ((getRuns s (dDie d)).length < 1024) ∧ (issueCheck s iss im d = .ok bs) ∧ (u = countIssue s) :=
  ⟨basins [] {}, {}, basImg, bas, [1], _, by decide +kernel, by decide +kernel, by decide +kernel, by decide +kernel, by decide +kernel, rfl⟩

theorem witness_basinPass : ∃ (s : State) (die : Die) (run x : Nat) (mask : Option (List NeuronPair)) (theta : Int) (r : BasinRun) (ns : Option (List Neuron)) (bs : List Nat),
    ((getRuns s die.val)[run]? = some r) ∧ (frozen s = false) ∧ (r.paused = false) ∧ (r.corr = false) ∧ (groupFree s die.val r.c.sn r.c = true) ∧ (r.tok < inToks (basinTile r.c)) ∧ (basinInput s r = some x) ∧ (bs = groupBasins s (tileBasin s r.c (basinTile r.c))) ∧ (readFault s (x + r.tok * basinRowBytes r.c.desc bs.length) (basinRowBytes r.c.desc bs.length) = none) ∧ (bs.any (fun b => weirHeld s (physBasin s b)) = false) ∧ (ns = mask.map (fun l => l.map (fun n => ⟨n.gate.val, n.up.val⟩))) :=
  ⟨basins [basRun] {}, 0, 0, 0, none, 0, basRun, _, _, by decide +kernel, by decide +kernel, by decide +kernel, by decide +kernel, by decide +kernel, by decide +kernel, by decide +kernel, rfl, by decide +kernel, by decide +kernel, rfl⟩

theorem witness_weirGroupResume : ∃ (s : State) (die : Die) (run x : Nat) (r q : BasinRun) (bs : List Nat),
    ((getRuns s die.val)[run]? = some r) ∧ (frozen s = false) ∧ (r.paused = true) ∧ (q = { r with paused := false }) ∧ (basinInput s q = some x) ∧ (bs = groupBasins s (tileBasin s r.c (basinTile r.c))) ∧ (readFault s (x + r.tok * basinRowBytes r.c.desc bs.length) (basinRowBytes r.c.desc bs.length) = none) ∧ (bs.any (fun b => weirHeld s (physBasin s b)) = false) :=
  ⟨basins [{ basRun with paused := true }] {}, 0, 0, 0, { basRun with paused := true }, _, _, by decide +kernel, by decide +kernel, by decide +kernel, rfl, by decide +kernel, rfl, by decide +kernel, by decide +kernel⟩

theorem witness_clipWindowClose : ∃ (s : State) (basin : BasinIx) (b : Nat) (x : Basin),
    (b = basin.toNat) ∧ (x = getBasin s b) ∧ (frozen s = false) ∧ (2 ^ 20 ≤ x.winGroups) ∧ (x.winSplits = 0) :=
  ⟨basins [] { winGroups := 1048576 }, 0, _, _, rfl, rfl, by decide +kernel, by decide +kernel, by decide +kernel⟩

theorem witness_referenceSlot : ∃ (s : State) (basin : BasinIx) (b n : Nat) (x : Basin) (due : List Nat) (slot : RefSlot) (base : NatMap Trim) (refs : List RefSlot),
    (b = basin.toNat) ∧ (x = getBasin s b) ∧ (x.refDue = n :: due) ∧ (frozen s = false) ∧ (slot = ⟨x.refB, n, (List.range 16).map (fun k => Config.conversion (s.freeCtr + k) (if x.refB then 5 * (n : Int) else -6 * (n : Int)) x.s), (getPlot s (plotOf b)).temp⟩) ∧ (refs = (slot :: x.refs).take 256) ∧ (refs.length ≠ 256) ∧ (base = (x.newTrims).getD x.trims) :=
  ⟨basins [] { refDue := [5, 9] }, 0, _, 5, _, [9], _, _, _, rfl, rfl, by decide +kernel, by decide +kernel, rfl, rfl, by decide +kernel, rfl⟩

theorem witness_plotTempRead : ∃ (s : State) (die : Die) (rs : List (PlotIx × Nat)),
    (frozen s = false) :=
  ⟨up, 0, [], by decide +kernel⟩

theorem witness_plotThrottledReport : ∃ (s : State) (plot : PlotIx) (p : Nat) (x : Plot) (st : Word),
    (p = plot.toNat) ∧ (x = getPlot s p) ∧ (frozen s = false) ∧ (0 < x.limit) ∧ (x.reported ≤ s.counter) ∧ (st = statusWord x.owner p 0x0B 0x52) :=
  ⟨{ up with cist := { plots := [(0, { limit := 8 })] } }, 0, _, _, _, rfl, rfl, by decide +kernel, by decide +kernel, by decide +kernel, rfl⟩

theorem witness_readBeforeFill : ∃ (s : State) (die : Die) (a : PAcre) (g : Nat) (c : CourseRun),
    (g = acreIx die a) ∧ ((getAcre s g).run = some c) ∧ (acreLive s g = true) ∧ (frozen s = false) ∧ (waitsToRead s g c = true) ∧ (fenceHolds s c.issue.image (dCinIx c.desc) = false) :=
  ⟨{ runs (course 4 0x10 4 [(3, 1, 1)]) 4 {} with images := [(0, { img (course 4 0x10 4 [(3, 1, 1)]) with chains := [chain2] })] }, 0, 0, _, { desc := course 4 0x10 4 [(3, 1, 1)], bounds := [4] }, rfl, by decide +kernel, by decide +kernel, by decide +kernel, by decide +kernel, by decide +kernel⟩

theorem witness_overwriteBeforeDrain : ∃ (s : State) (die : Die) (a : PAcre) (g : Nat) (c : CourseRun),
    (g = acreIx die a) ∧ ((getAcre s g).run = some c) ∧ (acreLive s g = true) ∧ (frozen s = false) ∧ (waitsToWrite s g c = true) ∧ (fenceHolds s c.issue.image (dCoutIx c.desc) = false) :=
  ⟨{ runs (course 4 0x10 4 [(3, 1, 2)]) 4 {} with images := [(0, { img (course 4 0x10 4 [(3, 1, 2)]) with chains := [chain2] })], gates := [(0, ⟨true, 1⟩)] }, 0, 0, _, { desc := course 4 0x10 4 [(3, 1, 2)], bounds := [4] }, rfl, by decide +kernel, by decide +kernel, by decide +kernel, by decide +kernel, by decide +kernel⟩

theorem witness_chainBroken : ∃ (s : State) (die : Die) (a : PAcre) (g : Nat) (c : CourseRun),
    (g = acreIx die a) ∧ ((getAcre s g).run = some c) ∧ (acreLive s g = true) ∧ (frozen s = false) ∧ (onBroken s c.issue c.desc = true) ∧ (waitsToRead s g c = true) :=
  ⟨{ runs (course 4 0x10 4 [(3, 1, 1)]) 4 {} with images := [(0, { img (course 4 0x10 4 [(3, 1, 1)]) with chains := [chain2] })], broken := [(0, 0, .module)] }, 0, 0, _, { desc := course 4 0x10 4 [(3, 1, 1)], bounds := [4] }, rfl, by decide +kernel, by decide +kernel, by decide +kernel, by decide +kernel, by decide +kernel⟩

theorem witness_imageOpen : ∃ (s t u : State) (src : CmdSrc) (c : HostCmd) (h ch : Nat),
    (taken src 0x10 s = some (c, t)) ∧ (c.by_ ≠ 15) ∧ (openImage c.by_ c.arg0 c.arg1 t = .inr (h, ch, u)) :=
  ⟨{ up with hostCmds := [{ by_ := 0, op := 0x10, arg0 := 4, arg1 := 4096 }] }, after 0x10 ({ up with hostCmds := [{ by_ := 0, op := 0x10, arg0 := 4, arg1 := 4096 }] }), (openImage 0 4 4096 (after 0x10 { up with hostCmds := [{ by_ := 0, op := 0x10, arg0 := 4, arg1 := 4096 }] })).elim (fun _ => up) (·.2.2), .host 0, { by_ := 0, op := 0x10, arg0 := 4, arg1 := 4096 }, (openImage 0 4 4096 (after 0x10 { up with hostCmds := [{ by_ := 0, op := 0x10, arg0 := 4, arg1 := 4096 }] })).elim (fun _ => 0) (·.1), (openImage 0 4 4096 (after 0x10 { up with hostCmds := [{ by_ := 0, op := 0x10, arg0 := 4, arg1 := 4096 }] })).elim (fun _ => 0) (·.2.1), by decide +kernel, by decide +kernel, by decide +kernel⟩

theorem witness_moduleImageOpen : ∃ (s u : State) (mib size h ch : Nat),
    (frozen s = false) ∧ (openImage 15 mib size s = .inr (h, ch, u)) :=
  ⟨up, (openImage 15 4 4096 up).elim (fun _ => up) (·.2.2), 4, 4096, (openImage 15 4 4096 up).elim (fun _ => 0) (·.1), (openImage 15 4 4096 up).elim (fun _ => 0) (·.2.1), by decide +kernel, by decide +kernel⟩

theorem witness_imageControlCheck : ∃ (s : State) (h : Nat) (im : Image),
    (getImage s h = some im) ∧ (frozen s = false) ∧ (s.rely.coresLost = false) ∧ (im.st = .staging) ∧ (controlHere im = true) :=
  ⟨{ up with images := [(0, { handle := 0, owner := 0, arrived := 128 })] }, 0, { handle := 0, owner := 0, arrived := 128 }, by decide +kernel, by decide +kernel, by decide +kernel, by decide +kernel, by decide +kernel⟩

theorem witness_imageActivate : ∃ (s t : State) (src : CmdSrc) (c : HostCmd) (im : Image),
    (taken src 0x11 s = some (c, t)) ∧ (ownImage t c.by_ c.handle = some im) ∧ ((im.st = .ready ∨ im.st = .active)) :=
  ⟨{ { up with images := [(0, { handle := 0, owner := 0, st := .ready })] } with hostCmds := [{ by_ := 0, op := 0x11 }] }, after 0x11 ({ { up with images := [(0, { handle := 0, owner := 0, st := .ready })] } with hostCmds := [{ by_ := 0, op := 0x11 }] }), .host 0, { by_ := 0, op := 0x11 }, { handle := 0, owner := 0, st := .ready }, by decide +kernel, by decide +kernel, by decide +kernel⟩

theorem witness_moduleImageActivate : ∃ (s : State) (h : Nat) (im : Image),
    (frozen s = false) ∧ (ownImage s 15 h = some im) ∧ ((im.st = .ready ∨ im.st = .active)) :=
  ⟨{ up with images := [(0, { handle := 0, owner := 15, st := .ready })] }, 0, { handle := 0, owner := 15, st := .ready }, by decide +kernel, by decide +kernel, by decide +kernel⟩

theorem witness_holdingMaskWrite : ∃ (s : State) (h : Nat) (im : Image) (mask : BitVec 4),
    (frozen s = false) ∧ (ownImage s 15 h = some im) :=
  ⟨{ up with images := [(0, { handle := 0, owner := 15 })] }, 0, { handle := 0, owner := 15 }, default, by decide +kernel, by decide +kernel⟩

theorem witness_imageRelease : ∃ (s t : State) (src : CmdSrc) (c : HostCmd) (im : Image),
    (taken src 0x12 s = some (c, t)) ∧ (ownImage t c.by_ c.handle = some im) :=
  ⟨{ { up with images := [(0, { handle := 0, owner := 0, st := .ready })] } with hostCmds := [{ by_ := 0, op := 0x12 }] }, after 0x12 ({ { up with images := [(0, { handle := 0, owner := 0, st := .ready })] } with hostCmds := [{ by_ := 0, op := 0x12 }] }), .host 0, { by_ := 0, op := 0x12 }, { handle := 0, owner := 0, st := .ready }, by decide +kernel, by decide +kernel⟩

theorem witness_imageStatus : ∃ (s t : State) (src : CmdSrc) (c : HostCmd) (im : Image),
    (taken src 0x13 s = some (c, t)) ∧ (ownImage t c.by_ c.handle = some im) :=
  ⟨{ { up with images := [(0, { handle := 0, owner := 0, st := .ready })] } with hostCmds := [{ by_ := 0, op := 0x13 }] }, after 0x13 ({ { up with images := [(0, { handle := 0, owner := 0, st := .ready })] } with hostCmds := [{ by_ := 0, op := 0x13 }] }), .host 0, { by_ := 0, op := 0x13 }, { handle := 0, owner := 0, st := .ready }, by decide +kernel, by decide +kernel⟩

theorem witness_basinRecord : ∃ (s : State) (h : Nat) (im : Image) (k e : Nat) (bs : List Byte),
    (getImage s h = some im) ∧ (frozen s = false) ∧ (im.st = .programming) ∧ (im.accepted = true) ∧ (bulkAt im.sects im.freed = some (8, k, e)) ∧ (im.freed + 131136 ≤ e) ∧ (im.freed + 131136 ≤ im.arrived) ∧ (bs = ctlBytes im im.freed 131136) :=
  ⟨{ up with images := [(0, { handle := 0, owner := 0, st := .programming, accepted := true, sects := [(8, 0, 131136)], arrived := 131136 })] }, 0, { handle := 0, owner := 0, st := .programming, accepted := true, sects := [(8, 0, 131136)], arrived := 131136 }, 0, 131136, _, by decide +kernel, by decide +kernel, by decide +kernel, by decide +kernel, by decide +kernel, by decide +kernel, by decide +kernel, rfl⟩

theorem witness_programRow : ∃ (s : State) (basin : BasinIx) (range : Fin 3) (b : Nat) (x : Basin),
    (b = basin.toNat) ∧ (x = getBasin s b) ∧ (rowMayStart s b = true) ∧ (x.row < 511) ∧ (x.image = none) ∧ (x.recal = false) ∧ (x.worn = []) ∧ (x.pins.length ≤ min 64 (getF s (cstB (basinDie b)) F.cstMoncfgCellWarn)) ∧ (rowStops x [] [] = []) :=
  ⟨{ up with cist := { basins := [(0, { programming := true })] } }, 0, 0, _, _, rfl, rfl, by decide +kernel, by decide +kernel, by decide +kernel, by decide +kernel, by decide +kernel, by decide +kernel, by decide +kernel⟩

theorem witness_basinSwap : ∃ (s : State) (basin : BasinIx) (b sp : Nat) (x : Basin),
    (b = basin.toNat) ∧ (x = getBasin s b) ∧ (frozen s = false) ∧ (x.armed = some .bringIn) ∧ (spareFor s b = some sp) :=
  ⟨{ up with cist := { basins := [(0, { st := .service, armed := some .bringIn }), (30720, { home := some 0 })] } }, 0, _, 30720, _, rfl, rfl, by decide +kernel, by decide +kernel, by decide +kernel⟩

theorem witness_basinSwap_a : ∃ (s : State) (basin : BasinIx) (b sp : Nat) (x : Basin),
    (b = basin.toNat) ∧ (x = getBasin s b) ∧ (frozen s = false) ∧ (x.armed = some .bringBack) ∧ (spareFor s b = some sp) :=
  ⟨{ up with cist := { basins := [(0, { st := .mirrored, armed := some .bringBack }), (30720, { home := some 0 })] } }, 0, _, 30720, _, rfl, rfl, by decide +kernel, by decide +kernel, by decide +kernel⟩

theorem witness_spareBasinTest : ∃ (s : State) (basin : BasinIx) (unusable : Nat) (offgrid : Bool) (b cd : Nat) (u : State),
    (b = basin.toNat) ∧ (cd = cdieOf b) ∧ (frozen s = false) ∧ ((cistSpares s cd).contains b = true) ∧ (getK s.cist.spareTests cd 0 + 24 * 90000000000 ≤ s.counter) ∧ (u = { s with cist := { s.cist with spareTests := setK s.cist.spareTests cd s.counter 0 } }) :=
  ⟨at_ 9000000000000, 30720, 0, false, _, _, _, rfl, rfl, by decide +kernel, by decide +kernel, by decide +kernel, rfl⟩

theorem witness_recalDue : ∃ (s : State) (basin : BasinIx) (b : Nat) (x : Basin),
    (b = basin.toNat) ∧ (x = getBasin s b) ∧ (frozen s = false) ∧ (serving s x = true) ∧ (x.recal = false) ∧ (calInterval s b ≤ basinAge s x) :=
  ⟨{ up with counter := 9000000000000, cist := { basins := [(0, { st := .service })] } }, 0, _, _, rfl, rfl, by decide +kernel, by decide +kernel, by decide +kernel, by decide +kernel⟩

theorem witness_recalibration : ∃ (s : State) (basin : BasinIx) (b cd sp : Nat) (reads : List CellRead) (x : Basin) (sps : List Nat) (rows : List (List Nat)) (m target : NatMap Nat),
    (b = basin.toNat) ∧ (cd = cdieOf b) ∧ (x = getBasin s b) ∧ (frozen s = false) ∧ (s.rely.coresLost = false) ∧ (inTrickle s = false) ∧ (s.cist.queue.find? (fun q => cdieOf q = cd) = some b) ∧ (serving s x = true) ∧ (x.recal = false) ∧ (x.armed = none) ∧ (mirrors s cd < max 1 (getF s (cstB (basinDie b)) F.cstCalcfgMirrorMax)) ∧ (cistSpares s cd = sp :: sps) ∧ (m = reads.foldl (fun n e => insertK n (cellKey e.row.val e.col.val) e.at_.val) []) ∧ (resolveAll x m = some rows) ∧ (target = rows.zipIdx.flatMap (fun e => ((e.1.take 512).zipIdx.map (fun z => (cellKey e.2 z.2, z.1))).filter (fun z => z.2 ≠ 8))) :=
  ⟨{ up with cist := { basins := [(0, { st := .service, levels := rowLevels 0 512 })], queue := [0] } }, 0, _, _, 30720, [], _, (cistSpares { up with cist := { basins := [(0, { st := .service, levels := rowLevels 0 512 })], queue := [0] } } 0).tail, List.replicate 512 (rowVals.map nearLevel), [], _, rfl, rfl, rfl, by decide +kernel, by decide +kernel, by decide +kernel, by decide +kernel, by decide +kernel, by decide +kernel, by decide +kernel, by decide +kernel, by decide +kernel, by decide +kernel, rowsResolve, rfl⟩

theorem witness_calOverdue : ∃ (s : State) (basin : BasinIx) (b i : Nat) (x : Basin),
    (b = basin.toNat) ∧ (x = getBasin s b) ∧ (i = calInterval s b) ∧ (frozen s = false) ∧ (serving s x = true) ∧ ((3 + 2 * x.overdueN) * i ≤ 2 * basinAge s x) :=
  ⟨{ up with counter := 90000000000000, cist := { basins := [(0, { st := .service })] } }, 0, _, _, _, rfl, rfl, rfl, by decide +kernel, by decide +kernel, by decide +kernel⟩

theorem witness_calRequest : ∃ (s t : State) (src : CmdSrc) (c : HostCmd) (p : Nat) (bs : List Nat),
    (taken src 0x20 s = some (c, t)) ∧ ((c.by_ < 4 → (getPlot t c.arg0).owner = c.by_ ∧ (getPlot t c.arg0).st ≠ .free ∧ c.arg0 < 2 ^ 13)) ∧ (p = c.arg0 % 2 ^ 13) ∧ (bs = ((List.range 256).map (fun i => p * 256 + i)).filter (fun b => serving t (getBasin t (physBasin t b)) || (getBasin t b).recal)) :=
  ⟨{ { up with cist := { basins := [(0, { st := .service })], plots := [(0, { st := .bound, owner := 0 })] } } with hostCmds := [{ by_ := 0, op := 0x20 }] }, after 0x20 ({ { up with cist := { basins := [(0, { st := .service })], plots := [(0, { st := .bound, owner := 0 })] } } with hostCmds := [{ by_ := 0, op := 0x20 }] }), .host 0, { by_ := 0, op := 0x20 }, _, _, by decide +kernel, fun _ => by decide +kernel, rfl, rfl⟩

theorem witness_correctionStep : ∃ (s : State) (die : Die) (tgt : CorrTarget) (k : CorrFor) (x : CorrCtx) (m cs : NatMap (List ListChan)) (time : Nat),
    (frozen s = false) ∧ (lookupK s.cist.steps die.val = none) ∧ (corrFor s die tgt = some k) ∧ (corrCtx s die.val k = some x) ∧ (dList x.c.desc = true) ∧ (readList s (physAddr (dL x.c.desc)) = some m) ∧ (cs = byLane s die.val (coverChans x m)) ∧ (x.reps = []) ∧ (cs.isEmpty = false) :=
  ⟨corrState, 0, .basin 0, .basin 0, _, [(0, [⟨0, [(3, 5)]⟩])], _, 0, by decide +kernel, by decide +kernel, by decide +kernel, rfl, by decide +kernel, corrState_list, rfl, by decide +kernel, by decide +kernel⟩

theorem witness_correctionStep_a : ∃ (s : State) (die : Die) (tgt : CorrTarget) (k : CorrFor) (x : CorrCtx) (time : Nat),
    (frozen s = false) ∧ (lookupK s.cist.steps die.val = none) ∧ (corrFor s die tgt = some k) ∧ (corrCtx s die.val k = some x) ∧ (dList x.c.desc = false) ∧ (x.reps = []) :=
  ⟨basins [{ basRun with corr := true }] {}, 0, .basin 0, .basin 0, _, 0, by decide +kernel, by decide +kernel, by decide +kernel, rfl, by decide +kernel, by decide +kernel⟩

theorem witness_laneBorrow : ∃ (s : State) (die : Die) (lane : Fin 16384) (walked : List (Fin 16384 × Nat)) (l ch : Nat) (st : CorrStep),
    (getStep s die.val = some st) ∧ (frozen s = false) ∧ (laneIn s die.val lane.val = true) ∧ ((getK st.left lane.val []).isEmpty = true) ∧ (((List.range 8).flatMap (fun i => (if lane.val ≥ i + 1 then [lane.val - (i + 1)] else []) ++ [lane.val + (i + 1)])).findSome? (fun n => (offerOf st n ((((walked.map (fun e => (e.1.val, e.2))).find? (fun e => e.1 = n)).map (·.2)).getD 1)).map (fun h => (n, h))) = some (l, ch)) :=
  ⟨{ up with cist := { steps := [(0, { for_ := .basin 0, left := [(5, [⟨0, List.replicate 200 (0, 1)⟩])] })] } }, 0, 4, [], 5, 3, { for_ := .basin 0, left := [(5, [⟨0, List.replicate 200 (0, 1)⟩])] }, by decide +kernel, by decide +kernel, by decide +kernel, by decide +kernel, by decide +kernel⟩

theorem witness_laneChannelSend : ∃ (s : State) (die : Die) (lane : Fin 16384) (cycle time : Nat) (st : CorrStep) (c : ListChan) (rest : List ListChan) (x : CorrCtx) (sent : NatMap (List Int)),
    (getStep s die.val = some st) ∧ (getK st.left lane.val [] = c :: rest) ∧ (frozen s = false) ∧ (corrCtx s die.val st.for_ = some x) ∧ (rest ≠ []) ∧ (sent = insertK st.sent c.ch (match lookupK st.sent c.ch with | some o => o.zipWith (· + ·) (corrChan x.rows c.ents) | none => corrChan x.rows c.ents)) :=
  ⟨{ basins [{ basRun with corr := true }] {} with cist := { (basins [{ basRun with corr := true }] {}).cist with steps := [(0, { for_ := .basin 0, left := [(3, [⟨0, [(1, 2)]⟩, ⟨1, [(4, -5)]⟩])] })] } }, 0, 3, 0, 0, { for_ := .basin 0, left := [(3, [⟨0, [(1, 2)]⟩, ⟨1, [(4, -5)]⟩])] }, ⟨0, [(1, 2)]⟩, [⟨1, [(4, -5)]⟩], _, _, by decide +kernel, by decide +kernel, by decide +kernel, rfl, by decide +kernel, rfl⟩

theorem witness_predictorOff : ∃ (s t : State) (src : CmdSrc) (c : HostCmd) (im : Image),
    (taken src 0x21 s = some (c, t)) ∧ (c.arg0 = 0) ∧ (ownImage t c.by_ c.handle = some im) :=
  ⟨{ { up with images := [(0, { handle := 0, owner := 0 })] } with hostCmds := [{ by_ := 0, op := 0x21 }] }, after 0x21 ({ { up with images := [(0, { handle := 0, owner := 0 })] } with hostCmds := [{ by_ := 0, op := 0x21 }] }), .host 0, { by_ := 0, op := 0x21 }, { handle := 0, owner := 0 }, by decide +kernel, by decide +kernel, by decide +kernel⟩

theorem witness_predictorOn : ∃ (s t : State) (src : CmdSrc) (c : HostCmd) (im : Image),
    (taken src 0x21 s = some (c, t)) ∧ (c.arg0 = 1) ∧ (ownImage t c.by_ c.handle = some im) :=
  ⟨{ { up with images := [(0, { handle := 0, owner := 0 })] } with hostCmds := [{ by_ := 0, op := 0x21, arg0 := 1 }] }, after 0x21 ({ { up with images := [(0, { handle := 0, owner := 0 })] } with hostCmds := [{ by_ := 0, op := 0x21, arg0 := 1 }] }), .host 0, { by_ := 0, op := 0x21, arg0 := 1 }, { handle := 0, owner := 0 }, by decide +kernel, by decide +kernel, by decide +kernel⟩

theorem witness_rearm : ∃ (s t : State) (src : CmdSrc) (c : HostCmd) (im : Image),
    (taken src 0x22 s = some (c, t)) ∧ (ownImage t c.by_ c.handle = some im) :=
  ⟨{ { up with images := [(0, { handle := 0, owner := 0 })] } with hostCmds := [{ by_ := 0, op := 0x22 }] }, after 0x22 ({ { up with images := [(0, { handle := 0, owner := 0 })] } with hostCmds := [{ by_ := 0, op := 0x22 }] }), .host 0, { by_ := 0, op := 0x22 }, { handle := 0, owner := 0 }, by decide +kernel, by decide +kernel⟩

theorem witness_admitPrompt : ∃ (s t u v : State) (k : Nat) (desc : List Byte) (c : HostCmd) (d : AdmitDesc) (id gen : Nat) (ms : List Nat) (rs : List (Nat × Nat)) (buf : Option (Nat × Nat)),
    (d = parseAdmit desc) ∧ (desc.length = 128) ∧ (d.import_ = false) ∧ (taken (.host k) 0x01 s = some (c, t)) ∧ (admitGate t c d = none) ∧ (admitFirst t c d = none) ∧ (admitSteps t c d = .inr id) ∧ (admitPages c.by_ ((getImage t d.image).elim ⟨0, 0, 64, 0⟩ imageDims) d t = .inr (ms, rs, buf, u)) ∧ (ringHigh u c.by_ = false) ∧ (gen = (getK u.eng.gens id 0 + 1) % 4096) ∧ (v = putStream (newStream u c d id gen ms rs buf) (setEng (fun e => { e with gens := setK e.gens id gen 0, lastId := id, admits := e.admits + 1, cache := evict u (id :: e.cache.erase id) }) u)) :=
  ⟨{ admitting with hostCmds := [{ by_ := 0, op := 0x01, len := 144 }] }, after 0x01 ({ admitting with hostCmds := [{ by_ := 0, op := 0x01, len := 144 }] }), (pagesOf 0x01 admitting).2.2.2, _, 0, admitDesc, { by_ := 0, op := 0x01, len := 144 }, _, 0, _, (pagesOf 0x01 admitting).1, (pagesOf 0x01 admitting).2.1, (pagesOf 0x01 admitting).2.2.1, rfl, by decide +kernel, by decide +kernel, by decide +kernel, by decide +kernel, by decide +kernel, by decide +kernel, by decide +kernel, by decide +kernel, rfl, rfl⟩

theorem witness_admitImport : ∃ (s t u v : State) (k ch : Nat) (desc : List Byte) (c : HostCmd) (d : AdmitDesc) (x : Machine.Stream) (id gen : Nat) (ms : List Nat) (rs : List (Nat × Nat)) (buf : Option (Nat × Nat)),
    (d = parseAdmit desc) ∧ (desc.length = 128) ∧ (d.import_ = true) ∧ (taken (.host k) 0x01 s = some (c, t)) ∧ (admitGate t c d = none) ∧ (admitFirst t c d = none) ∧ (admitSteps t c d = .inr id) ∧ (admitPages c.by_ ((getImage t d.image).elim ⟨0, 0, 64, 0⟩ imageDims) d t = .inr (ms, rs, buf, u)) ∧ (ringHigh u c.by_ = false) ∧ (gen = (getK u.eng.gens id 0 + 1) % 4096) ∧ (x = newStream u c d id gen ms rs buf) ∧ (v = putStream x (setEng (fun e => { e with gens := setK e.gens id gen 0, lastId := id, admits := e.admits + 1, cache := evict u (id :: e.cache.erase id) }) u)) ∧ (xchanOf v c.by_ .kvIn 0 d.xchan = some ch) :=
  ⟨{ { admitting with regs := up.regs, chans := [(3, { kind := .kvIn })] } with hostCmds := [{ by_ := 0, op := 0x01, len := 128 }] }, after 0x01 ({ { admitting with regs := up.regs, chans := [(3, { kind := .kvIn })] } with hostCmds := [{ by_ := 0, op := 0x01, len := 128 }] }), (importPagesOf importing).2.2.2, _, 0, 3, importDesc, { by_ := 0, op := 0x01, len := 128 }, _, _, 0, _, (importPagesOf importing).1, (importPagesOf importing).2.1, (importPagesOf importing).2.2.1, rfl, by decide +kernel, by decide +kernel, by decide +kernel, by decide +kernel, by decide +kernel, by decide +kernel, by decide +kernel, by decide +kernel, rfl, rfl, rfl, by decide +kernel⟩

theorem witness_promptStaged : ∃ (s : State) (stream : StreamId) (id : Nat) (toks : List Word) (x : Machine.Stream) (c : HostCmd),
    (id = stream.toNat) ∧ (getStream s id = some x) ∧ (x.admitCmd = some c) ∧ (frozen s = false) ∧ (x.st = .staging) ∧ (toks.length = x.promptLen) :=
  ⟨{ up with eng := { streams := [(7, { strm 7 .staging with promptLen := 2, admitCmd := some { by_ := 0, op := 1 } })] } }, 7, _, [5, 6], { strm 7 .staging with promptLen := 2, admitCmd := some { by_ := 0, op := 1 } }, { by_ := 0, op := 1 }, rfl, by decide +kernel, by decide +kernel, by decide +kernel, by decide +kernel, by decide +kernel⟩

theorem witness_abort : ∃ (s t : State) (src : CmdSrc) (c : HostCmd) (x : Machine.Stream),
    (taken src 0x02 s = some (c, t)) ∧ (namedStream t c = some x) ∧ (x.st ≠ .done) :=
  ⟨{ holding (strm 7 .active) with hostCmds := [{ by_ := 0, op := 0x02, handle := 7 }] }, after 0x02 ({ holding (strm 7 .active) with hostCmds := [{ by_ := 0, op := 0x02, handle := 7 }] }), .host 0, { by_ := 0, op := 0x02, handle := 7 }, strm 7 .active, by decide +kernel, by decide +kernel, by decide +kernel⟩

theorem witness_park : ∃ (s t : State) (src : CmdSrc) (c : HostCmd) (x : Machine.Stream),
    (taken src 0x03 s = some (c, t)) ∧ (namedStream t c = some x) ∧ ((x.st = .waiting ∨ x.st = .prompt ∨ x.st = .active)) ∧ (x.ending = none) :=
  ⟨{ holding (strm 7 .active) with hostCmds := [{ by_ := 0, op := 0x03, handle := 7 }] }, after 0x03 ({ holding (strm 7 .active) with hostCmds := [{ by_ := 0, op := 0x03, handle := 7 }] }), .host 0, { by_ := 0, op := 0x03, handle := 7 }, strm 7 .active, by decide +kernel, by decide +kernel, by decide +kernel, by decide +kernel⟩

theorem witness_resume : ∃ (s t : State) (src : CmdSrc) (c : HostCmd) (x : Machine.Stream),
    (taken src 0x04 s = some (c, t)) ∧ (namedStream t c = some x) ∧ (x.st = .parked) ∧ (x.lost = false) ∧ (x.ending = none) ∧ (roleServes (moduleRole (touch x.id t)) x = true) :=
  ⟨{ holding { strm 7 .parked with promptComplete := true } with hostCmds := [{ by_ := 0, op := 0x04, handle := 7 }] }, after 0x04 ({ holding { strm 7 .parked with promptComplete := true } with hostCmds := [{ by_ := 0, op := 0x04, handle := 7 }] }), .host 0, { by_ := 0, op := 0x04, handle := 7 }, { strm 7 .parked with promptComplete := true }, by decide +kernel, by decide +kernel, by decide +kernel, by decide +kernel, by decide +kernel, by decide +kernel⟩

theorem witness_exportStream : ∃ (s t : State) (src : CmdSrc) (c : HostCmd) (x : Machine.Stream) (k : Nat),
    (taken src 0x05 s = some (c, t)) ∧ (namedStream t c = some x) ∧ (xchanOf (touch x.id t) c.by_ .kvOut (bindOf x) c.arg0 = some k) ∧ ((x.st = .parked ∨ x.st = .cached)) ∧ (x.lost = false) ∧ (x.ending = none) :=
  ⟨{ { holding (strm 7 .parked) with chans := [(3, { kind := .kvOut })] } with hostCmds := [{ by_ := 0, op := 0x05, handle := 7, arg0 := 3 }] }, after 0x05 ({ { holding (strm 7 .parked) with chans := [(3, { kind := .kvOut })] } with hostCmds := [{ by_ := 0, op := 0x05, handle := 7, arg0 := 3 }] }), .host 0, { by_ := 0, op := 0x05, handle := 7, arg0 := 3 }, strm 7 .parked, 3, by decide +kernel, by decide +kernel, by decide +kernel, by decide +kernel, by decide +kernel, by decide +kernel⟩

theorem witness_query : ∃ (s t u : State) (src : CmdSrc) (c : HostCmd) (x : Machine.Stream),
    (taken src 0x06 s = some (c, t)) ∧ (namedStream t c = some x) ∧ (u = settleNow x.id (touch x.id t)) :=
  ⟨{ holding (strm 7 .parked) with hostCmds := [{ by_ := 0, op := 0x06, handle := 7 }] }, after 0x06 ({ holding (strm 7 .parked) with hostCmds := [{ by_ := 0, op := 0x06, handle := 7 }] }), _, .host 0, { by_ := 0, op := 0x06, handle := 7 }, strm 7 .parked, by decide +kernel, by decide +kernel, rfl⟩

theorem witness_list : ∃ (s t : State) (src : CmdSrc) (c : HostCmd) (all out : List Machine.Stream),
    (taken src 0x07 s = some (c, t)) ∧ (all = (streamsOf t c.by_).filter (fun x => decide (x.id ≥ c.arg0) && (c.arg1 % 256).testBit (stateCode x.st - 1))) ∧ (out = all.take (c.len / 4)) ∧ (out ≠ []) :=
  ⟨{ holding (strm 7 .parked) with hostCmds := [{ by_ := 0, op := 0x07, arg1 := 255, len := 4096 }] }, after 0x07 ({ holding (strm 7 .parked) with hostCmds := [{ by_ := 0, op := 0x07, arg1 := 255, len := 4096 }] }), .host 0, { by_ := 0, op := 0x07, arg1 := 255, len := 4096 }, _, _, by decide +kernel, rfl, rfl, by decide +kernel⟩

theorem witness_doneHoldExpire : ∃ (s : State) (stream : StreamId) (id : Nat) (x : Machine.Stream),
    (id = stream.toNat) ∧ (getStream s id = some x) ∧ (frozen s = false) ∧ (x.st = .done) ∧ (x.stateCtr + 25000 * 2 ^ (min 16 (getF s strB F.strCfgDoneHoldLog2)) ≤ s.counter) ∧ (s.tally.terms.any (fun e => e.strm.id = id) = false) :=
  ⟨{ holding (strm 7 .done) with counter := 2 ^ 40 }, 7, _, strm 7 .done, rfl, by decide +kernel, by decide +kernel, by decide +kernel, by decide +kernel, by decide +kernel⟩

theorem witness_stepBoundary : ∃ (s : State) (m : MBatch) (r : StepRun),
    (r = stepRun s m.val) ∧ (stepReached s m.val = true) ∧ (r.running = true) ∧ (r.faulted = true) ∧ (r.repeat_ = false) ∧ (r.split = false) :=
  ⟨{ up with eng := { steps := [(0, { running := true, faulted := true })] } }, 0, _, rfl, by decide +kernel, by decide +kernel, by decide +kernel, by decide +kernel, by decide +kernel⟩

theorem witness_stepBoundary_a : ∃ (s s1 s2 s3 s4 s6 : State) (m : MBatch) (r : StepRun),
    (r = stepRun s m.val) ∧ (stepReached s m.val = true) ∧ (r.faulted = false) ∧ (s1 = retryEnds (subtractBudgets s)) ∧ (s2 = ((slotOrder s1 m.val).filter (fun id => (getStream s1 id).any (fun x => x.abortDue))).foldl (fun t id => endStream id 0x02 t) s1) ∧ (s3 = (slotOrder s2 m.val).foldl (fun t id => match lookupK r.toks id with | some tok => if r.streams.contains id then takeToken id tok t else t | none => t) s2) ∧ (s4 = applyParks m.val (fun x => x.mb = m.val && (x.st = .waiting || x.st = .active)) s3) ∧ (s6 = roleStep (fillSlots m.val (reserveStep m.val (boundaryActions (workOf m.val) (autoResumes s4))))) :=
  ⟨up, _, _, _, _, _, 1, _, rfl, by decide +kernel, by decide +kernel, rfl, rfl, rfl, rfl, rfl⟩

theorem witness_sweepBoundary : ∃ (s s1 s2 s3 s4 s5 : State) (r : StepRun),
    (r = stepRun s 4) ∧ (stepReached s 4 = true) ∧ (r.faulted = false) ∧ (s1 = retryEnds (subtractBudgets s)) ∧ (s2 = ((allStreams s1).filter (fun x => x.st = .prompt && x.abortDue)).foldl (fun t x => endStream x.id 0x02 t) s1) ∧ (s3 = r.streams.foldl (fun t id => takeChunk id r t) s2) ∧ (s4 = applyParks 4 (fun x => x.st = .prompt || (x.st = .waiting && (r.streams.contains x.id || moduleRole s = 1))) s3) ∧ (s5 = boundaryActions .sweep (autoResumes s4)) :=
  ⟨up, _, _, _, _, _, _, rfl, by decide +kernel, by decide +kernel, rfl, rfl, rfl, rfl, rfl⟩

theorem witness_shareWrite : ∃ (s : State) (p : Path) (reg : Fin 4) (data : Word),
    (writeGrant s p strB = .ok) :=
  ⟨up, .mgmt, default, 0, by decide +kernel⟩

theorem witness_roleRequest : ∃ (s : State) (p : Path) (data : Word),
    (writeGrant s p modB = .ok) ∧ (s.eng.roleTo = none) ∧ (fldOf F.modRoleReq data ≠ moduleRole s) :=
  ⟨up, .mgmt, fldPut F.modRoleReq 2 0, by decide +kernel, by decide +kernel, by decide +kernel⟩

theorem witness_roleSwitch : ∃ (s : State) (r : Nat),
    (s.eng.roleTo = some r) ∧ (frozen s = false) ∧ (anyWork s = false) ∧ ((allStreams s).any (fun x => x.st = .active || x.st = .prompt) = false) :=
  ⟨{ up with eng := { roleTo := some 2 } }, 2, by decide +kernel, by decide +kernel, by decide +kernel, by decide +kernel⟩

theorem witness_kvImportHeader : ∃ (s : State) (stream : StreamId) (id k : Nat) (x : Machine.Stream) (im : Image) (h : List Byte),
    (id = stream.toNat) ∧ (getStream s id = some x) ∧ (frozen s = false) ∧ (x.st = .staging) ∧ (x.imported = true) ∧ (x.impHdr = none) ∧ (x.ending = none) ∧ (importChan s x = some k) ∧ (getImage s x.image = some im) ∧ (peekBytes k 128 s = some h) ∧ (importHeaderBad s x im h = none) :=
  ⟨{ up with eng := { streams := [(7, { strm 7 .staging with imported := true, xchan := 3 })] }, images := [(0, kvImg)], chans := [(3, { kind := .kvIn, bind := 8, placed := [(0, (0, 128))], rxData := numbered 0 kvHdr })] }, 7, _, 3, { strm 7 .staging with imported := true, xchan := 3 }, kvImg, kvHdr, rfl, by decide +kernel, by decide +kernel, by decide +kernel, by decide +kernel, by decide +kernel, by decide +kernel, by decide +kernel, by decide +kernel, peek_numbered _ _ _ _ _ rfl rfl kvHdr_length, kvHdr_ok _ _ (by decide +kernel)⟩

theorem witness_kvImportRecord : ∃ (s : State) (stream : StreamId) (id k : Nat) (x : Machine.Stream) (r : List Byte) (c : Chan),
    (id = stream.toNat) ∧ (getStream s id = some x) ∧ (frozen s = false) ∧ (x.st = .staging) ∧ (x.impHdr.isSome = true) ∧ (x.ending = none) ∧ (importChan s x = some k) ∧ (peekBytes k (64 + kvBytes (kvDims s x).d) s = some r) ∧ (getChan s k = some c) ∧ (recordCrcOk r = true) ∧ (recordHeadOk (kvDims s x) r = true) :=
  ⟨{ up with eng := { streams := [(7, { strm 7 .staging with imported := true, xchan := 3, impHdr := some (0, 1) })] }, images := [(0, kvImg)], chans := [(3, { kind := .kvIn, bind := 8, placed := [(0, (0, 8256))], rxData := numbered 0 kvRec })] }, 7, _, 3, { strm 7 .staging with imported := true, xchan := 3, impHdr := some (0, 1) }, kvRec, { kind := .kvIn, bind := 8, placed := [(0, (0, 8256))], rxData := numbered 0 kvRec }, rfl, by decide +kernel, by decide +kernel, by decide +kernel, by decide +kernel, by decide +kernel, by decide +kernel, peek_numbered _ _ _ _ _ rfl rfl kvRec_length, rfl, kvRec_crc, kvRec_head _ (by decide +kernel) (by decide +kernel) (by decide +kernel)⟩

theorem witness_allReduce : ∃ (s s1 : State) (iss : Issue) (im : Image) (r : List Byte) (bs : List Nat) (c : CollRun),
    (collDesc s iss = some (im, r)) ∧ (frozen s = false) ∧ (cType r = 1) ∧ (collCheck s iss im r = .ok bs) ∧ (c = { sn := s.serial, issue := iss, holding := im.owner, desc := r, vc := vcOf s iss r, tokens := bs.getD 0 0, startCtr := s.counter }) ∧ (s1 = showVcs (modRing (fun x => { x with colls := x.colls ++ [c] }) (bumpSerial (countIssue s)))) ∧ (ringSplit s1 = false) :=
  ⟨collState (coll 1), _, {}, collImg (coll 1), coll 1, [1], _, by decide +kernel, by decide +kernel, by decide +kernel, by decide +kernel, rfl, rfl, by decide +kernel⟩

theorem witness_reduceScatter : ∃ (s s1 : State) (iss : Issue) (im : Image) (r : List Byte) (bs : List Nat) (c : CollRun),
    (collDesc s iss = some (im, r)) ∧ (frozen s = false) ∧ (cType r = 2) ∧ (collCheck s iss im r = .ok bs) ∧ (c = { sn := s.serial, issue := iss, holding := im.owner, desc := r, vc := vcOf s iss r, tokens := bs.getD 0 0, startCtr := s.counter }) ∧ (s1 = showVcs (modRing (fun x => { x with colls := x.colls ++ [c] }) (bumpSerial (countIssue s)))) ∧ (ringSplit s1 = false) :=
  ⟨collState (coll 2), _, {}, collImg (coll 2), coll 2, [1], _, by decide +kernel, by decide +kernel, by decide +kernel, by decide +kernel, rfl, rfl, by decide +kernel⟩

theorem witness_allGather : ∃ (s s1 : State) (iss : Issue) (im : Image) (r : List Byte) (bs : List Nat) (c : CollRun),
    (collDesc s iss = some (im, r)) ∧ (frozen s = false) ∧ (cType r = 3) ∧ (collCheck s iss im r = .ok bs) ∧ (c = { sn := s.serial, issue := iss, holding := im.owner, desc := r, vc := vcOf s iss r, tokens := bs.getD 0 0, startCtr := s.counter }) ∧ (s1 = showVcs (modRing (fun x => { x with colls := x.colls ++ [c] }) (bumpSerial (countIssue s)))) ∧ (ringSplit s1 = false) :=
  ⟨collState (coll 3), _, {}, collImg (coll 3), coll 3, [1], _, by decide +kernel, by decide +kernel, by decide +kernel, by decide +kernel, rfl, rfl, by decide +kernel⟩

theorem witness_broadcast : ∃ (s s1 : State) (iss : Issue) (im : Image) (r : List Byte) (bs : List Nat) (c : CollRun),
    (collDesc s iss = some (im, r)) ∧ (frozen s = false) ∧ (cType r = 4) ∧ (collCheck s iss im r = .ok bs) ∧ (c = { sn := s.serial, issue := iss, holding := im.owner, desc := r, vc := vcOf s iss r, tokens := bs.getD 0 0, startCtr := s.counter }) ∧ (s1 = showVcs (modRing (fun x => { x with colls := x.colls ++ [c] }) (bumpSerial (countIssue s)))) ∧ (ringSplit s1 = false) :=
  ⟨collState (coll 4), _, {}, collImg (coll 4), coll 4, [1], _, by decide +kernel, by decide +kernel, by decide +kernel, by decide +kernel, rfl, rfl, by decide +kernel⟩

theorem witness_fenceRecord : ∃ (s s1 : State) (iss : Issue) (im : Image) (r : List Byte) (bs : List Nat) (c : CollRun),
    (collDesc s iss = some (im, r)) ∧ (frozen s = false) ∧ (cType r = 0) ∧ (collCheck s iss im r = .ok bs) ∧ (c = { sn := s.serial, issue := iss, holding := im.owner, desc := r, vc := vcOf s iss r, tokens := bs.getD 0 0, startCtr := s.counter }) ∧ (s1 = showVcs (modRing (fun x => { x with colls := x.colls ++ [c] }) (bumpSerial (countIssue s)))) ∧ (ringSplit s1 = false) :=
  ⟨collState (coll 0), _, {}, collImg (coll 0), coll 0, [1], _, by decide +kernel, by decide +kernel, by decide +kernel, by decide +kernel, rfl, rfl, by decide +kernel⟩

theorem witness_fenceArrival : ∃ (s : State) (k : Nat) (die : Die) (c : CollRun),
    (s.ring.colls[k]? = some c) ∧ (frozen s = false) ∧ (inLevel 2 s = false) ∧ (c.moving = false) ∧ (c.sent.any (fun e => e.1 = die.val) = false) ∧ (onTurn s c = true) ∧ ((brokenOn s c die.val = true ∨ arrived s c die.val = true)) :=
  ⟨ringWith (collRun (coll 1)), 0, 0, collRun (coll 1), by decide +kernel, by decide +kernel, by decide +kernel, by decide +kernel, by decide +kernel, by decide +kernel, by decide +kernel⟩

theorem witness_fenceMessage : ∃ (s : State) (k : Nat) (die : Die) (c d : CollRun) (m : Nat × Nat × Bool),
    (s.ring.colls[k]? = some c) ∧ (c.sent.find? (fun e => e.1 = die.val) = some m) ∧ (frozen s = false) ∧ (c.moving = false) ∧ (c.known.any (fun e => e.1 = die.val) = false) ∧ (d = { c with known := c.known ++ [m] }) :=
  ⟨ringWith { collRun (coll 1) with sent := [(0, 5, false)] }, 0, 0, { collRun (coll 1) with sent := [(0, 5, false)] }, _, (0, 5, false), by decide +kernel, by decide +kernel, by decide +kernel, by decide +kernel, by decide +kernel, rfl⟩

theorem witness_collectiveDone : ∃ (s s1 : State) (k a : Nat) (die : Die) (c d : CollRun),
    (s.ring.colls[k]? = some c) ∧ (frozen s = false) ∧ (c.moving = true) ∧ (c.done.contains die.val = false) ∧ ((getGate s c.issue.image (cCout c.desc die.val) 0).full = false) ∧ (slot0 s c.issue.image (cCout c.desc die.val) = some a) ∧ (d = { c with done := c.done ++ [die.val] }) ∧ (s1 = modColl c.sn (fun _ => d) (gateFill c.issue.image (cCout c.desc die.val) 0 (wrMem a (getK c.outs die.val []) s))) :=
  ⟨ringWith { collRun (putLE 0x20 8 0 (coll 1)) with moving := true }, _, 0, 0x8000, 0, { collRun (putLE 0x20 8 0 (coll 1)) with moving := true }, _, by decide +kernel, by decide +kernel, by decide +kernel, by decide +kernel, by decide +kernel, by decide +kernel, rfl, rfl⟩

theorem witness_managementFence : ∃ (s : State),
    (mayFence s = true) :=
  ⟨at_ 1000000, by decide +kernel⟩

theorem witness_skewWindowClose : ∃ (s s1 : State) (late top : Nat),
    (frozen s = false) ∧ (s.ring.winFrom + 25000 ≤ s.counter) ∧ ((∀ d < 4, freqLimited s d = false)) ∧ (top = (List.range 4).foldl (fun m d => max m (getK s.ring.skew d 0)) 0) ∧ (late = ((List.range 4).find? (fun d => getK s.ring.skew d 0 = top)).getD 0) ∧ (s1 = onDies (fun d t => setF (rngB d) F.rngSkewFences (min 255 s.ring.winFences) (setF (rngB d) F.rngSkewLateDie late (setF (rngB d) F.rngSkewSum (min 65535 top) t))) s) :=
  ⟨at_ 25000, _, _, _, by decide +kernel, by decide +kernel, by decide +kernel, rfl, rfl, rfl⟩

theorem witness_ringFlitReceive : ∃ (s : State) (die : Die) (west acked : Bool) (lane : Fin 528) (cycle ix : Nat) (x : RingDir),
    (ix = 2 * die.val + (if west then 1 else 0)) ∧ (x = getK s.ring.dirs ix {}) ∧ (frozen s = false) ∧ (x.retrain = false) ∧ (getF s (rngB die.val) (if west then F.rngLanesWRetired else F.rngLanesERetired) ≠ 1) :=
  ⟨up, 0, false, false, default, 0, _, _, rfl, rfl, by decide +kernel, by decide +kernel, by decide +kernel⟩

theorem witness_ringFlitReceive_a : ∃ (s : State) (die : Die) (west acked : Bool) (lane : Fin 528) (cycle ix : Nat) (x : RingDir),
    (ix = 2 * die.val + (if west then 1 else 0)) ∧ (x = getK s.ring.dirs ix {}) ∧ (frozen s = false) ∧ (x.retrain = false) ∧ (getF s (rngB die.val) (if west then F.rngLanesWRetired else F.rngLanesERetired) ≠ 1) ∧ (thrice (getK x.trans lane.val []) cycle = false) :=
  ⟨up, 0, false, false, 7, 0, _, _, rfl, rfl, by decide +kernel, by decide +kernel, by decide +kernel, by decide +kernel⟩

theorem witness_ringFlitReceive_b : ∃ (s : State) (l : LinkDir) (acked : Bool) (lane : Fin 528) (cycle k : Nat) (x : LinkSt),
    ((∀ d w, l ≠ .ring d w)) ∧ (k = linkKey l) ∧ (x = getK s.ditch.links k {}) ∧ (frozen s = false) ∧ (x.retrain = false) :=
  ⟨up, .star 1 false, false, 7, 0, _, _, by intro d w; exact LinkDir.noConfusion, rfl, rfl, by decide +kernel, by decide +kernel⟩

theorem witness_linkRetrainDone : ∃ (s : State) (die : Die) (west : Bool) (ix : Nat) (x : RingDir),
    (ix = 2 * die.val + (if west then 1 else 0)) ∧ (x = getK s.ring.dirs ix {}) ∧ (frozen s = false) ∧ (x.retrain = true) :=
  ⟨{ up with ring := { dirs := [(1, { retrain := true })] } }, 0, true, _, _, rfl, rfl, by decide +kernel, by decide +kernel⟩

theorem witness_linkRetrainDone_a : ∃ (s : State) (l : LinkDir) (k : Nat) (x : LinkSt),
    ((∀ d w, l ≠ .ring d w)) ∧ (k = linkKey l) ∧ (x = getK s.ditch.links k {}) ∧ (frozen s = false) ∧ (x.retrain = true) :=
  ⟨{ up with ditch := { links := [(linkKey (.star 1 false), { retrain := true })] } }, .star 1 false, _, _, by intro d w; exact LinkDir.noConfusion, rfl, rfl, by decide +kernel, by decide +kernel⟩

theorem witness_courseRecordReceived : ∃ (s : State) (rec : CourseRec) (rest : List CourseRec) (ws : List (Nat × Nat)) (k : Nat) (u : State),
    (s.records = rec :: rest) ∧ (frozen s = false) ∧ (ws = (if rec.shares.isEmpty then workShares { s with records := rest } rec.issue.work rec.holding else rec.shares)) ∧ (stepOfWork rec.issue.work = some k) ∧ (rec.pred = false) ∧ (u = noteSpill rec (chargeAct ws rec.act { s with records := rest })) :=
  ⟨{ up with records := [{ issue := { work := .step 2 } }] }, { issue := { work := .step 2 } }, [], _, 2, _, by decide +kernel, by decide +kernel, rfl, by decide +kernel, by decide +kernel, rfl⟩

theorem witness_courseRecordReceived_a : ∃ (s : State) (rec : CourseRec) (rest : List CourseRec) (ws : List (Nat × Nat)),
    (s.records = rec :: rest) ∧ (frozen s = false) ∧ (ws = (if rec.shares.isEmpty then workShares { s with records := rest } rec.issue.work rec.holding else rec.shares)) ∧ (stepOfWork rec.issue.work = none) ∧ ((rec.issue.work ≠ .train ∨ isFault rec.status = false)) :=
  ⟨{ up with records := [{}] }, {}, [], _, by decide +kernel, by decide +kernel, rfl, by decide +kernel, by decide +kernel⟩

theorem witness_boundUnreadable : ∃ (s : State) (iss : Issue) (im : Image) (d : List Byte),
    (courseDesc s iss = some (im, d)) ∧ (frozen s = false) ∧ (issueCheck s iss im d = .held) :=
  ⟨{ up with images := [(0, { img (course 1 0 2 [(0x21, 1, 2)]) with chains := [{ chain2 with loc := 0 }] })] }, {}, { img (course 1 0 2 [(0x21, 1, 2)]) with chains := [{ chain2 with loc := 0 }] }, course 1 0 2 [(0x21, 1, 2)], by decide +kernel, by decide +kernel, by decide +kernel⟩

theorem witness_boundUnreadable_a : ∃ (s : State) (iss : Issue) (im : Image) (r : List Byte),
    (collDesc s iss = some (im, r)) ∧ (frozen s = false) ∧ (collCheck s iss im r = .held) :=
  ⟨{ up with images := [(0, { collImg (putLE 0x0D 1 2 (coll 1)) with chains := [{ chain2 with loc := 0 }] })] }, {}, { collImg (putLE 0x0D 1 2 (coll 1)) with chains := [{ chain2 with loc := 0 }] }, putLE 0x0D 1 2 (coll 1), by decide +kernel, by decide +kernel, by decide +kernel⟩

theorem witness_trainStep : ∃ (s t : State) (src : CmdSrc) (c : HostCmd) (a : Adapter),
    (s.eng.training = none) ∧ (taken src 0x1A s = some (c, t)) ∧ (lookupK t.eng.adapters c.handle = some a) ∧ (a.owner = c.by_) ∧ (a.released = false) ∧ (c.arg1 ≠ 0) :=
  ⟨{ { up with eng := { adapters := [(3, { image := 0, owner := 0, chan := 0 })] } } with hostCmds := [{ by_ := 0, op := 0x1A, handle := 3, arg1 := 8 }] }, after 0x1A ({ { up with eng := { adapters := [(3, { image := 0, owner := 0, chan := 0 })] } } with hostCmds := [{ by_ := 0, op := 0x1A, handle := 3, arg1 := 8 }] }), .host 0, { by_ := 0, op := 0x1A, handle := 3, arg1 := 8 }, { image := 0, owner := 0, chan := 0 }, by decide +kernel, by decide +kernel, by decide +kernel, by decide +kernel, by decide +kernel, by decide +kernel⟩

theorem witness_trainStep_a : ∃ (s : State) (src : CmdSrc) (t u : Training),
    (s.eng.training = some t) ∧ (frozen s = false) ∧ (trainBusy s = false) ∧ (t.fault = 0) ∧ (u = { t with left := t.left - 1, ran := t.ran + 1 }) :=
  ⟨{ up with eng := { training := some { cmd := { by_ := 0, op := 0x1A }, left := 3 } } }, .host 0, { cmd := { by_ := 0, op := 0x1A }, left := 3 }, _, by decide +kernel, by decide +kernel, by decide +kernel, by decide +kernel, rfl⟩

theorem witness_attributionEpoch : ∃ (s : State) (ein : Nat) (ed volts : List Nat),
    (frozen s = false) ∧ (s.tally.lastEpoch < s.counter / 25000) :=
  ⟨at_ 25000, 0, [], [], by decide +kernel, by decide +kernel⟩

theorem witness_pageCloseTime : ∃ (s : State),
    (frozen s = false) ∧ (s.tally.page.openCtr + 6250000 ≤ s.counter) :=
  ⟨at_ 6250000, by decide +kernel, by decide +kernel⟩

theorem witness_shutdownRequest : ∃ (s : State),
    (frozen s = false) :=
  ⟨up, by decide +kernel⟩

theorem witness_pageSign : ∃ (s : State) (unit : Fin 2) (cycle : Nat) (ws : List (Bool × Bool)) (p : Page) (rest : List Page) (u : State),
    (s.tally.closed = p :: rest) ∧ (frozen s = false) ∧ (signerOn s unit.val = true) ∧ (s.tally.signing = none) ∧ (s.tally.q < s.tally.qRes) ∧ (s.tally.q + 2 ^ 32 < 2 ^ 40) ∧ (s.tally.q % 2 ^ 20 ≠ 0) ∧ (u = setF tlyB F.tlyStatSigning 1 { (signPage p s).2 with tally := { (signPage p s).2.tally with closed := rest, signing := some (signPage p s).1 } }) :=
  ⟨{ up with tally := { closed := [{ seq := 4 }], q := 1025, qRes := 2000 } }, default, 0, [], { seq := 4 }, [], _, by decide +kernel, by decide +kernel, by decide +kernel, by decide +kernel, by decide +kernel, by decide +kernel, by decide +kernel, rfl⟩

theorem witness_pageSigned : ∃ (s : State) (p : Page) (u : State),
    (s.tally.signing = some p) ∧ (frozen s = false) ∧ (u = emit (.mgmtData (p.header ++ (p.recs.drop (p.recs.length - 5)).flatMap id)) (setF tlyB F.tlyStatSigning 0 (setTally (fun t => { t with signing := none, signed := t.signed ++ [p] }) s))) :=
  ⟨{ up with tally := { signing := some { seq := 4 } } }, { seq := 4 }, _, by decide +kernel, by decide +kernel, rfl⟩

theorem witness_lmsTreeBuilt : ∃ (s : State),
    (frozen s = false) :=
  ⟨up, by decide +kernel⟩

theorem witness_signatureBlockRead : ∃ (s : State) (seq : Nat),
    (frozen s = false) :=
  ⟨up, 0, by decide +kernel⟩

theorem witness_meterCheck : ∃ (s : State),
    (frozen s = false) ∧ (1000 ≤ s.tally.outRun) ∧ ((∀ c, s.tally.meterAt = some c → c + 90000000000 ≤ s.counter)) :=
  ⟨{ up with tally := { outRun := 1000 } }, by decide +kernel, by decide +kernel, by intro c h; cases h⟩

theorem witness_ledgerDoorbell : ∃ (s : State) (h : Holding) (data : Word),
    (frozen s = false) ∧ (ideBlocked s h.val = false) ∧ (ledOn s h.val = true) ∧ (data.toNat % 2 ^ 26 < ledUnits s h.val) :=
  ⟨setF (hqB 0) F.hqLcfgEn 1 (setF (hqB 0) F.hqLcfgSize4k 16 up), 0, 1023, by decide +kernel, by decide +kernel, by decide +kernel, by decide +kernel⟩

theorem witness_junctionRead : ∃ (s u : State) (die : Die) (hot h0 h1 h2 head : Nat),
    (frozen s = false) ∧ (u = stackReading die.val 2 h2 (stackReading die.val 1 h1 (stackReading die.val 0 h0 (acreReading die.val hot s)))) :=
  ⟨up, _, 0, 0, 0, 0, 0, 0, by decide +kernel, rfl⟩

theorem witness_thermalRecoveryStep : ∃ (s : State) (die : Die) (c : DieClk) (t0 n : Nat),
    (c = getClk s die.val) ∧ (c.cool = some t0) ∧ (frozen s = false) ∧ (c.trip = false) ∧ (c.therm < 1200) ∧ (t0 + 25000 ≤ s.counter) ∧ (n = c.therm + 25) :=
  ⟨{ up with counter := 25000, ditch := { dies := [(0, { therm := 1175, cool := some 0 })] } }, 0, { therm := 1175, cool := some 0 }, 0, _, by decide +kernel, by decide +kernel, by decide +kernel, by decide +kernel, by decide +kernel, by decide +kernel, rfl⟩

theorem witness_thermalStillTimeout : ∃ (s : State) (die : Die) (c : DieClk) (t0 : Nat),
    (c = getClk s die.val) ∧ (c.still = some t0) ∧ (frozen s = false) ∧ (c.stillLogged = false) ∧ (t0 + 250000 < s.counter) :=
  ⟨{ up with counter := 250001, ditch := { dies := [(0, { still := some 0 })] } }, 0, { still := some 0 }, 0, by decide +kernel, by decide +kernel, by decide +kernel, by decide +kernel, by decide +kernel⟩

theorem witness_power10usMean : ∃ (s u : State) (watts m eff : Nat) (ms : List Nat),
    (frozen s = false) ∧ (watts ≤ 3600) ∧ (ms = (watts :: s.ditch.means).take 100) ∧ (m = ms.foldl (· + ·) 0 / ms.length) ∧ (eff = (effectiveCap s).1) ∧ (u = setDitch (fun x => { x with means := ms, low := if 100 * m < 97 * eff then some (x.low.getD s.counter) else none, above := if m > eff ∧ lowestPoint s = true then some (x.above.getD s.counter) else none }) (setF drdB F.drdExcurTimer 0 (setF drdB F.drdPowerP1ms (min 8191 m) (setF drdB F.drdPowerP10us watts s)))) :=
  ⟨up, _, 3600, _, _, _, by decide +kernel, by decide +kernel, rfl, rfl, rfl, rfl⟩

theorem witness_capUnreachable : ∃ (s : State) (c : Nat),
    (s.ditch.above = some c) ∧ (frozen s = false) ∧ (c + 250000 ≤ s.counter) ∧ (getF s drdB F.drdCapUnreach = 0) :=
  ⟨{ up with counter := 250000, ditch := { above := some 0 } }, _, rfl, by decide +kernel, by decide +kernel, by decide +kernel⟩

theorem witness_droopDetect : ∃ (s : State) (die : Die) (mv ns : Nat),
    (frozen s = false) ∧ (40 < mv) ∧ (mv ≤ 80) ∧ (ns ≤ 10000) :=
  ⟨up, 0, 80, 10000, by decide +kernel, by decide +kernel, by decide +kernel, by decide +kernel⟩

theorem witness_droopDetect_a : ∃ (s : State) (die : Die) (mv ns : Nat),
    (frozen s = false) ∧ (40 < mv) ∧ ((80 < mv ∨ 10000 < ns)) :=
  ⟨up, 0, 41, 10001, by decide +kernel, by decide +kernel, by decide +kernel⟩

theorem witness_droopHoldEnd : ∃ (s : State) (die : Die),
    (frozen s = false) ∧ ((getClk s die.val).droop < 1200) ∧ ((getClk s die.val).droopTo ≤ s.counter) :=
  ⟨{ up with ditch := { dies := [(0, { droop := 600 })] } }, 0, by decide +kernel, by decide +kernel, by decide +kernel⟩

theorem witness_coolantOutOfSpec : ∃ (s : State),
    (frozen s = false) ∧ (coolBad s = true) ∧ (s.ditch.coolOut = false) :=
  ⟨{ up with ditch := { inlet := 361 } }, by decide +kernel, by decide +kernel, by decide +kernel⟩

theorem witness_ageingMonitor : ∃ (s : State) (die : Die) (acre : PAcre) (g : Nat),
    (g = acreIx die acre) ∧ (frozen s = false) ∧ ((getAcre s g).pw = .flow) ∧ ((getAcre s g).guard < 5) :=
  ⟨live { guard := 4 }, 0, 0, _, rfl, by decide +kernel, by decide +kernel, by decide +kernel⟩

theorem witness_ageingMonitor_a : ∃ (s : State) (die : Die) (acre : PAcre) (g : Nat),
    (g = acreIx die acre) ∧ (frozen s = false) ∧ ((getAcre s g).pw = .flow) ∧ (5 ≤ (getAcre s g).guard) :=
  ⟨live { guard := 5 }, 0, 0, _, rfl, by decide +kernel, by decide +kernel, by decide +kernel⟩

theorem witness_capWrite : ∃ (s : State) (p : Path) (data : Word),
    (writeGrant s p drdB = .ok) :=
  ⟨up, .mgmt, 0, by decide +kernel⟩

theorem witness_powerShare : ∃ (s t u : State) (k : Nat) (c : HostCmd),
    (taken (.host k) 0x23 s = some (c, t)) ∧ (u = setHold c.by_ { getHold t c.by_ with ownPower := some c.arg0 } t) :=
  ⟨{ up with hostCmds := [{ by_ := 0, op := 0x23, arg0 := 500 }] }, after 0x23 ({ up with hostCmds := [{ by_ := 0, op := 0x23, arg0 := 500 }] }), _, 0, { by_ := 0, op := 0x23, arg0 := 500 }, by decide +kernel, rfl⟩

theorem witness_regulatorAlert : ∃ (s : State) (rail : Rail) (u : State),
    (s.power.phase ≠ .off) ∧ (s.ditch.alerts.contains rail = false) ∧ (s.ditch.railsOff.contains rail = false) ∧ (u = setDitch (fun x => { x with alerts := x.alerts ++ [rail], exitDue := false }) s) :=
  ⟨up, .v12ib, _, by decide +kernel, by decide +kernel, by decide +kernel, rfl⟩

theorem witness_regulatorAlertClear : ∃ (s : State) (rail : Rail),
    (s.power.phase ≠ .off) ∧ (s.ditch.alerts.contains rail = true) :=
  ⟨{ up with ditch := { alerts := [.v12ib] } }, .v12ib, by decide +kernel, by decide +kernel⟩

theorem witness_trickleHoldEnd : ∃ (s : State),
    (frozen s = false) ∧ (inLevel 3 s = true) ∧ (s.ditch.alerts = []) ∧ (s.ditch.clearAt + 25000 ≤ s.counter) :=
  ⟨setF drdB F.drdLevelLevel 3 (at_ 25000), by decide +kernel, by decide +kernel, by decide +kernel, by decide +kernel⟩

theorem witness_phaseDisable : ∃ (s : State) (rail : Rail) (phase : Nat),
    (frozen s = false) ∧ (inLevel 3 s = true) ∧ (s.ditch.alerts.contains rail = true) ∧ (rail ≠ .input) ∧ (s.ditch.phaseDone.contains rail = false) ∧ (s.ditch.trickleAt + 50000 ≤ s.counter) :=
  ⟨setF drdB F.drdLevelLevel 3 { at_ 50000 with ditch := { alerts := [.v12ib] } }, .v12ib, 0, by decide +kernel, by decide +kernel, by decide +kernel, by decide +kernel, by decide +kernel, by decide +kernel⟩

theorem witness_railOff : ∃ (s : State) (rail : Rail),
    (frozen s = false) ∧ (inLevel 3 s = true) ∧ (s.ditch.alerts.contains rail = true) ∧ (rail ≠ .input) ∧ (s.ditch.trickleAt + 200000 ≤ s.counter) :=
  ⟨setF drdB F.drdLevelLevel 3 { at_ 200000 with ditch := { alerts := [.v12ib] } }, .v12ib, by decide +kernel, by decide +kernel, by decide +kernel, by decide +kernel, by decide +kernel⟩

theorem witness_acreStill : ∃ (s : State) (die : Die) (acre : PAcre) (g : Nat),
    (g = acreIx die acre) ∧ (acreLive s g = true) ∧ (quiet s g = true) :=
  ⟨live {}, 0, 0, _, rfl, by decide +kernel, by decide +kernel⟩

theorem witness_acreDry : ∃ (s : State) (die : Die) (acre : PAcre) (g : Nat),
    (g = acreIx die acre) ∧ (frozen s = false) ∧ ((getAcre s g).pw = .still) ∧ (quiet s g = true) ∧ (gatesFull s g = false) :=
  ⟨{ up with acres := [(0, { pw := .still })] }, 0, 0, _, rfl, by decide +kernel, by decide +kernel, by decide +kernel, by decide +kernel⟩

theorem witness_acreWake : ∃ (s : State) (die : Die) (acre : PAcre) (g : Nat),
    (g = acreIx die acre) ∧ (frozen s = false) ∧ (inLevel 2 s = false) ∧ (inService s g = true) ∧ ((getAcre s g).retired = false) ∧ ((getClk s (g / 68)).still = none) :=
  ⟨up, 0, 0, _, rfl, by decide +kernel, by decide +kernel, by decide +kernel, by decide +kernel, by decide +kernel⟩

theorem witness_acreWakeDone : ∃ (s u : State) (die : Die) (acre : PAcre) (g : Nat),
    (g = acreIx die acre) ∧ (frozen s = false) ∧ ((getAcre s g).wake.isSome = true) ∧ (u = modAcre g (fun a => { a with wake := none, pw := .flow }) s) :=
  ⟨{ up with acres := [(0, { pw := .still, wake := some 0 })] }, _, 0, 0, _, rfl, by decide +kernel, by decide +kernel, rfl⟩

theorem witness_idleEntry : ∃ (s : State),
    (frozen s = false) ∧ (inLevel 0 s = true) ∧ (busyModule s = false) :=
  ⟨up, by decide +kernel, by decide +kernel, by decide +kernel⟩

theorem witness_deepRequest : ∃ (s : State) (p : Path) (data : Word),
    (writeGrant s p drdB = .ok) ∧ (data.getLsbD 2 = true) :=
  ⟨up, .mgmt, 4, by decide +kernel, by decide +kernel⟩

theorem witness_deepRequestEnd : ∃ (s : State) (p : Path) (data : Word),
    (writeGrant s p drdB = .ok) ∧ (data.getLsbD 2 = false) :=
  ⟨up, .mgmt, 0, by decide +kernel, by decide +kernel⟩

theorem witness_deepEntry : ∃ (s u : State),
    (frozen s = false) ∧ (inLevel 1 s = true) ∧ (getF s drdB F.drdLevelPending ≠ 0) ∧ (busyModule s = false) ∧ (u = ((List.range 272).filter (fun g => decide ((getAcre s g).pw ≠ .fallow))).foldl (fun t g => enterFallow g t) s) :=
  ⟨setF drdB F.drdLevelLevel 1 (setF drdB F.drdLevelPending 1 up), _, by decide +kernel, by decide +kernel, by decide +kernel, by decide +kernel, rfl⟩

theorem witness_deepWakeDone : ∃ (s u : State),
    (frozen s = false) ∧ (inLevel 2 s = true) ∧ (s.ditch.deepWake = true) ∧ (u = setLevel 1 (setDitch (fun x => { x with deepWake := false }) s)) :=
  ⟨setF drdB F.drdLevelLevel 2 { up with ditch := { deepWake := true } }, _, by decide +kernel, by decide +kernel, by decide +kernel, rfl⟩

theorem witness_sqDoorbell : ∃ (s : State) (h : Holding) (qp : QPair) (data : Word) (x : QPSt),
    (x = getQP s h.val qp.val) ∧ (frozen s = false) ∧ (ideBlocked s h.val = false) ∧ (x.en = true) ∧ (x.busy = false) ∧ (data.toNat % 4096 < x.depth) :=
  ⟨{ up with qps := [(0, { en := true, depth := 8 })] }, 0, 0, 7, _, rfl, by decide +kernel, by decide +kernel, by decide +kernel, by decide +kernel, by decide +kernel⟩

theorem witness_submissionEntry : ∃ (s u : State) (h : Holding) (qp : QPair) (bs : List Byte) (x : QPSt),
    (x = getQP s h.val qp.val) ∧ (frozen s = false) ∧ (x.en = true) ∧ (x.sqRead ≠ x.sqTail) ∧ (bs.length = 64) ∧ (ideBlocked s h.val = false) ∧ (u = setQP h.val qp.val { x with sqRead := (x.sqRead + 1) % x.depth, consumed := (x.consumed + 1) % 65536 } s) ∧ (entryCheck u bs (subCmd h.val qp.val bs) = none) :=
  ⟨{ up with qps := [(0, { en := true, depth := 8, sqTail := 2 })] }, _, 0, 0, putLE 0 1 6 (putLE 4 4 7 (putLE 0x10 4 256 (List.replicate 64 0))), _, rfl, by decide +kernel, by decide +kernel, by decide +kernel, by decide +kernel, by decide +kernel, rfl, by decide +kernel⟩

theorem witness_cqDoorbell : ∃ (s u : State) (h : Holding) (qp : QPair) (data : Word) (x : QPSt),
    (x = getQP s h.val qp.val) ∧ (frozen s = false) ∧ (ideBlocked s h.val = false) ∧ (x.en = true) ∧ (data.toNat % 4096 < x.depth) ∧ (u = setQP h.val qp.val { x with cqHead := data.toNat % 4096 } s) :=
  ⟨{ up with qps := [(0, { en := true, depth := 8 })] }, _, 0, 0, 7, _, rfl, by decide +kernel, by decide +kernel, by decide +kernel, by decide +kernel, rfl⟩

theorem witness_coalesceTimeout : ∃ (s : State) (h : Holding) (qp : QPair) (x : QPSt),
    (x = getQP s h.val qp.val) ∧ (frozen s = false) ∧ (0 < x.unsig) ∧ (x.unsigAt + 25 * getF s (hqB h.val) F.hqCoalCoalT ≤ s.counter) :=
  ⟨{ at_ 100000 with qps := [(0, { en := true, depth := 8, unsig := 1 })] }, 0, 0, _, rfl, by decide +kernel, by decide +kernel, by decide +kernel⟩

theorem witness_queueEnable : ∃ (s : State) (p : Path) (h : Holding) (data : Word) (q : Nat) (x : QPSt),
    (writeGrant s p (hqB h.val) = .ok) ∧ (q = selQP s p h.val) ∧ (x = getQP s h.val q) ∧ (fldOf F.hqQcfgEn data = 1) ∧ (x.en = false) ∧ (2 ≤ fldOf F.hqQcfgDepth data) ∧ (fldOf F.hqQcfgDepth data ≤ 4096) :=
  ⟨up, .mgmt, 0, fldPut F.hqQcfgEn 1 (fldPut F.hqQcfgDepth 4096 0), _, _, by decide +kernel, rfl, rfl, by decide +kernel, by decide +kernel, by decide +kernel, by decide +kernel⟩

theorem witness_queueDisable : ∃ (s : State) (p : Path) (h : Holding) (data : Word) (q : Nat) (x y : QPSt),
    (writeGrant s p (hqB h.val) = .ok) ∧ (q = selQP s p h.val) ∧ (x = getQP s h.val q) ∧ (fldOf F.hqQcfgEn data = 0) ∧ (x.en = true) ∧ (y = { x with vector := fldOf F.hqQcfgVector data }) :=
  ⟨{ up with qps := [(0, { en := true, depth := 8 })] }, .mgmt, 0, 0, _, _, _, by decide +kernel, rfl, rfl, by decide +kernel, by decide +kernel, rfl⟩

theorem witness_queueDisableDone : ∃ (s : State) (h : Holding) (qp : QPair),
    (frozen s = false) ∧ ((getQP s h.val qp.val).busy = true) :=
  ⟨{ up with qps := [(0, { busy := true })] }, 0, 0, by decide +kernel, by decide +kernel⟩

theorem witness_hostPortLinkUp : ∃ (s : State) (h : Holding),
    (frozen s = false) ∧ (s.hostLink.contains h.val = false) ∧ (portOn s h.val = true) :=
  ⟨up, 0, by decide +kernel, by decide +kernel, by decide +kernel⟩

theorem witness_hostReadTimeout : ∃ (s t : State) (k : Nat) (c : HostCmd),
    (s.hostCmds[k]? = some c) ∧ ((c.op = 0x01 ∨ c.op = 0x28)) ∧ (taken (.host k) c.op s = some (c, t)) :=
  ⟨{ up with hostCmds := [{ by_ := 0, op := 0x28 }] }, after 0x28 ({ up with hostCmds := [{ by_ := 0, op := 0x28 }] }), 0, { by_ := 0, op := 0x28 }, by decide +kernel, by decide +kernel, by decide +kernel⟩

theorem witness_hostReadTimeout_a : ∃ (s : State) (id : StreamId) (x : Machine.Stream),
    (getStream s id.toNat = some x) ∧ (frozen s = false) ∧ (x.admitCmd.isSome = true) :=
  ⟨holding { strm 7 .staging with admitCmd := some { by_ := 0, op := 1 } }, 7, { strm 7 .staging with admitCmd := some { by_ := 0, op := 1 } }, by decide +kernel, by decide +kernel, by decide +kernel⟩

theorem witness_adapterLoad : ∃ (s t : State) (src : CmdSrc) (c : HostCmd) (im : Image) (k a : Nat),
    (taken src 0x18 s = some (c, t)) ∧ (ownImage t c.by_ c.handle = some im) ∧ (keyOfWire (c.arg0 % 65536) = some k) ∧ (freeAdapter t = some a) ∧ (c.arg0 < 65536) ∧ ((getChan t k).any (fun ch => ch.kind = .region && ch.st = .open_ && decide (ch.bind = im.handle)) = true) ∧ (k / 256 = c.by_) :=
  ⟨{ { up with images := [(0, { handle := 0, owner := 0 })], chans := [(3, { kind := .region })] } with hostCmds := [{ by_ := 0, op := 0x18, arg0 := 3 }] }, after 0x18 ({ { up with images := [(0, { handle := 0, owner := 0 })], chans := [(3, { kind := .region })] } with hostCmds := [{ by_ := 0, op := 0x18, arg0 := 3 }] }), .host 0, { by_ := 0, op := 0x18, arg0 := 3 }, { handle := 0, owner := 0 }, 3, 0, by decide +kernel, by decide +kernel, by decide +kernel, by decide +kernel, by decide +kernel, by decide +kernel, by decide +kernel⟩

theorem witness_adapterRelease : ∃ (s t : State) (src : CmdSrc) (c : HostCmd) (x : Adapter),
    (taken src 0x19 s = some (c, t)) ∧ (lookupK t.eng.adapters c.handle = some x) ∧ (x.owner = c.by_) ∧ (x.released = false) :=
  ⟨{ { up with eng := { adapters := [(3, { image := 0, owner := 0, chan := 0 })] } } with hostCmds := [{ by_ := 0, op := 0x19, handle := 3 }] }, after 0x19 ({ { up with eng := { adapters := [(3, { image := 0, owner := 0, chan := 0 })] } } with hostCmds := [{ by_ := 0, op := 0x19, handle := 3 }] }), .host 0, { by_ := 0, op := 0x19, handle := 3 }, { image := 0, owner := 0, chan := 0 }, by decide +kernel, by decide +kernel, by decide +kernel, by decide +kernel⟩

theorem witness_telemetry : ∃ (s t : State) (src : CmdSrc) (c : HostCmd) (out : List Byte),
    (taken src 0x24 s = some (c, t)) ∧ (c.by_ ≠ 15) ∧ (out = (reportBytes t c.by_).1.take c.len) :=
  ⟨{ up with hostCmds := [{ by_ := 0, op := 0x24, len := 64 }] }, after 0x24 ({ up with hostCmds := [{ by_ := 0, op := 0x24, len := 64 }] }), .host 0, { by_ := 0, op := 0x24, len := 64 }, _, by decide +kernel, by decide +kernel, rfl⟩

theorem witness_telemetry_a : ∃ (s t : State) (src : CmdSrc) (c : HostCmd),
    (taken src 0x24 s = some (c, t)) ∧ (c.by_ = 15) :=
  ⟨up, idleExit up, .board 0 0, { by_ := 15, op := 0x24 }, by decide +kernel, by decide +kernel⟩

theorem witness_flumeWrite : ∃ (s : State) (port : FPort) (ip : Nat) (bs : List Byte),
    (frozen s = false) ∧ (flmUp s port.val = true) ∧ (dgramOk bs = true) ∧ (fieldLE bs 0 1 = 1) ∧ ((parseDgram bs).type = 1) :=
  ⟨linked, 0, 0, dgram 1, by decide +kernel, by decide +kernel, dgram_ok 1, by decide +kernel, by decide +kernel⟩

theorem witness_flumeReadReq : ∃ (s : State) (port : FPort) (ip : Nat) (bs : List Byte),
    (frozen s = false) ∧ (flmUp s port.val = true) ∧ (dgramOk bs = true) ∧ (fieldLE bs 0 1 = 1) ∧ ((parseDgram bs).type = 2) :=
  ⟨linked, 0, 0, dgram 2, by decide +kernel, by decide +kernel, dgram_ok 2, by decide +kernel, by decide +kernel⟩

theorem witness_flumeReadData : ∃ (s : State) (port : FPort) (ip : Nat) (bs : List Byte),
    (frozen s = false) ∧ (flmUp s port.val = true) ∧ (dgramOk bs = true) ∧ (fieldLE bs 0 1 = 1) ∧ ((parseDgram bs).type = 3) :=
  ⟨linked, 0, 0, dgram 3, by decide +kernel, by decide +kernel, dgram_ok 3, by decide +kernel, by decide +kernel⟩

theorem witness_flumeAck : ∃ (s : State) (port : FPort) (ip : Nat) (bs : List Byte),
    (frozen s = false) ∧ (flmUp s port.val = true) ∧ (dgramOk bs = true) ∧ (fieldLE bs 0 1 = 1) ∧ ((parseDgram bs).type = 4) :=
  ⟨linked, 0, 0, dgram 4, by decide +kernel, by decide +kernel, dgram_ok 4, by decide +kernel, by decide +kernel⟩

theorem witness_flumeNak : ∃ (s : State) (port : FPort) (ip : Nat) (bs : List Byte),
    (frozen s = false) ∧ (flmUp s port.val = true) ∧ (dgramOk bs = true) ∧ (fieldLE bs 0 1 = 1) ∧ ((parseDgram bs).type = 5) :=
  ⟨linked, 0, 0, dgram 5, by decide +kernel, by decide +kernel, dgram_ok 5, by decide +kernel, by decide +kernel⟩

theorem witness_flumeOpen : ∃ (s : State) (port : FPort) (ip : Nat) (bs : List Byte),
    (frozen s = false) ∧ (flmUp s port.val = true) ∧ (dgramOk bs = true) ∧ (fieldLE bs 0 1 = 1) ∧ ((parseDgram bs).type = 6) :=
  ⟨linked, 0, 0, dgram 6, by decide +kernel, by decide +kernel, dgram_ok 6, by decide +kernel, by decide +kernel⟩

theorem witness_flumeOpenAck : ∃ (s : State) (port : FPort) (ip : Nat) (bs : List Byte),
    (frozen s = false) ∧ (flmUp s port.val = true) ∧ (dgramOk bs = true) ∧ (fieldLE bs 0 1 = 1) ∧ ((parseDgram bs).type = 7) :=
  ⟨linked, 0, 0, dgram 7, by decide +kernel, by decide +kernel, dgram_ok 7, by decide +kernel, by decide +kernel⟩

theorem witness_flumeClose : ∃ (s : State) (port : FPort) (ip : Nat) (bs : List Byte),
    (frozen s = false) ∧ (flmUp s port.val = true) ∧ (dgramOk bs = true) ∧ (fieldLE bs 0 1 = 1) ∧ ((parseDgram bs).type = 8) :=
  ⟨linked, 0, 0, dgram 8, by decide +kernel, by decide +kernel, dgram_ok 8, by decide +kernel, by decide +kernel⟩

theorem witness_channelOpen : ∃ (s t : State) (k : Nat) (req : List Byte) (c : HostCmd),
    (taken (.host k) 0x28 s = some (c, t)) :=
  ⟨{ up with hostCmds := [{ by_ := 0, op := 0x28 }] }, after 0x28 ({ up with hostCmds := [{ by_ := 0, op := 0x28 }] }), 0, [], { by_ := 0, op := 0x28 }, by decide +kernel⟩

theorem witness_moduleChannelOpen : ∃ (s : State) (req : List Byte),
    (frozen s = false) :=
  ⟨up, [], by decide +kernel⟩

theorem witness_channelClose : ∃ (s t : State) (src : CmdSrc) (c : HostCmd) (k : Nat) (ch : Chan),
    (taken src 0x29 s = some (c, t)) ∧ (keyOfWire (c.arg0 % 65536) = some k) ∧ (getChan t k = some ch) ∧ (k / 256 = c.by_) ∧ (ch.st = .open_) ∧ (c.arg0 < 65536) :=
  ⟨{ { up with chans := [(3, { kind := .kvOut })] } with hostCmds := [{ by_ := 0, op := 0x29, arg0 := 3 }] }, after 0x29 ({ { up with chans := [(3, { kind := .kvOut })] } with hostCmds := [{ by_ := 0, op := 0x29, arg0 := 3 }] }), .host 0, { by_ := 0, op := 0x29, arg0 := 3 }, 3, { kind := .kvOut }, by decide +kernel, by decide +kernel, by decide +kernel, by decide +kernel, by decide +kernel, by decide +kernel⟩

theorem witness_ackTimer : ∃ (s : State) (k : Nat) (c : Chan),
    (getChan s k = some c) ∧ (frozen s = false) ∧ (c.st ≠ .opening) ∧ (c.kind ≠ .kvOut) ∧ (c.ackAt + 250 ≤ s.counter) :=
  ⟨{ at_ 250 with chans := [(3, { kind := .kvIn })] }, 3, { kind := .kvIn }, by decide +kernel, by decide +kernel, by decide +kernel, by decide +kernel, by decide +kernel⟩

theorem witness_retransmitTimeout : ∃ (s : State) (k seq : Nat) (c : Chan) (b : Burst),
    (getChan s k = some c) ∧ (c.unacked.find? (fun b => b.seq = seq) = some b) ∧ (frozen s = false) ∧ (b.due ≤ s.counter) :=
  ⟨{ up with chans := [(3, { kind := .kvOut, unacked := [{ seq := 5, addr := 0, data := [] }] })] }, 3, 5, { kind := .kvOut, unacked := [{ seq := 5, addr := 0, data := [] }] }, { seq := 5, addr := 0, data := [] }, by decide +kernel, by decide +kernel, by decide +kernel, by decide +kernel⟩

theorem witness_channelAckTimeout : ∃ (s : State) (k : Nat) (c : Chan),
    (getChan s k = some c) ∧ (frozen s = false) ∧ ((c.st = .opening ∨ c.unacked ≠ [])) ∧ (c.lastAck + 25000000 ≤ s.counter) :=
  ⟨{ at_ 25000000 with chans := [(3, { kind := .kvOut, unacked := [{ seq := 5, addr := 0, data := [] }] })] }, 3, { kind := .kvOut, unacked := [{ seq := 5, addr := 0, data := [] }] }, by decide +kernel, by decide +kernel, by decide +kernel, by decide +kernel⟩

theorem witness_flumeLinkDown : ∃ (s u : State) (port : FPort),
    (frozen s = false) ∧ (flmUp s port.val = true) ∧ (u = setLink port.val 0 s) :=
  ⟨linked, _, 0, by decide +kernel, by decide +kernel, rfl⟩

theorem witness_flumeLinkUp : ∃ (s : State) (port : FPort),
    (frozen s = false) ∧ (flmUp s port.val = false) :=
  ⟨up, 0, by decide +kernel, by decide +kernel⟩

theorem witness_mctpControl : ∃ (s : State),
    (mgmtUp s = true) :=
  ⟨up, by decide +kernel⟩

theorem witness_mctpControl_a : ∃ (s : State) (e : Byte),
    (mgmtUp s = true) :=
  ⟨up, default, by decide +kernel⟩

theorem witness_pldmSensorRead : ∃ (s : State) (x : Sensor),
    (frozen s = false) :=
  ⟨up, .hotAcre, by decide +kernel⟩

theorem witness_eventLogRead : ∃ (s : State) (seq n : Nat),
    ((isFrozen s = true ∨ headgateUp s false = true)) :=
  ⟨up, 0, 0, by decide +kernel⟩

theorem witness_pldmFirmwareStage : ∃ (s u : State) (bs : List Byte) (k : Nat),
    (pldmUp s = true) ∧ (s.rely.coresLost = false) ∧ (s.trust.update = none) ∧ (k = 1 - committedSlot s) ∧ (u = setTrust (fun t => { t with slots := insertK t.slots k bs, trial := none }) s) :=
  ⟨up, _, [], _, by decide +kernel, by decide +kernel, by decide +kernel, rfl, rfl⟩

theorem witness_activateFirmware : ∃ (s : State) (k : Nat) (u : Update),
    (k = 1 - committedSlot s) ∧ (u = updateOf s k) ∧ (pldmUp s = true) ∧ (s.rely.coresLost = false) ∧ (s.trust.update = none) ∧ ((u.hg = true → standby s = 0)) ∧ ((getF s fwuB (slotFld k) = 2 ∨ getF s fwuB (slotFld k) = 5)) ∧ (s.power.phase = .service) :=
  ⟨setF fwuB (slotFld 1) 5 up, _, _, rfl, rfl, by decide +kernel, by decide +kernel, by decide +kernel, fun _ => by decide +kernel, by decide +kernel, by decide +kernel⟩

theorem witness_standbyBootDone : ∃ (s : State),
    (frozen s = false) ∧ (standby s = 1) :=
  ⟨setStandby 1 up, by decide +kernel, by decide +kernel⟩

theorem witness_healthWindowExpire : ∃ (s : State) (u : Update),
    (s.trust.update = some u) ∧ (frozen s = false) ∧ (fwPhase s = 4) ∧ (u.endAt ≤ s.counter) :=
  ⟨setF fwuB F.fwuStatPhase 4 { up with trust := { update := some { slot := 1, hg := true, fd := false } } }, { slot := 1, hg := true, fd := false }, by decide +kernel, by decide +kernel, by decide +kernel, by decide +kernel⟩

theorem witness_firmwareWatchdogExpiry : ∃ (s : State) (u : Update),
    (frozen s = false) ∧ (s.trust.update = some u) ∧ (fwPhase s = 4) :=
  ⟨setF fwuB F.fwuStatPhase 4 { up with trust := { update := some { slot := 1, hg := true, fd := false } } }, { slot := 1, hg := true, fd := false }, by decide +kernel, by decide +kernel, by decide +kernel⟩

theorem witness_getCapabilities : ∃ (s : State) (conn : SpdmPort) (msg : List Byte) (c : Nat),
    (c = connNum conn) ∧ (spdmUp s c = true) ∧ (1 ≤ (getConn s c).stage) :=
  ⟨spdmAt 1 0, .mgmt, [], _, rfl, by decide +kernel, by decide +kernel⟩

theorem witness_negotiateAlgorithms : ∃ (s : State) (conn : SpdmPort) (msg : List Byte) (c : Nat),
    (c = connNum conn) ∧ (spdmUp s c = true) ∧ (2 ≤ (getConn s c).stage) :=
  ⟨spdmAt 2 0, .mgmt, [], _, rfl, by decide +kernel, by decide +kernel⟩

theorem witness_finish : ∃ (s : State) (conn : SpdmPort) (msg : List Byte) (c : Nat),
    (c = connNum conn) ∧ (spdmUp s c = true) ∧ (3 ≤ (getConn s c).stage) ∧ ((getConn s c).session = 1) :=
  ⟨spdmAt 3 1, .mgmt, [], _, rfl, by decide +kernel, by decide +kernel, by decide +kernel⟩

theorem witness_keyUpdate : ∃ (s : State) (conn : SpdmPort) (msg : List Byte) (c : Nat),
    (c = connNum conn) ∧ (spdmUp s c = true) ∧ (3 ≤ (getConn s c).stage) ∧ ((getConn s c).session = 2) :=
  ⟨spdmAt 3 2, .mgmt, [], _, rfl, by decide +kernel, by decide +kernel, by decide +kernel⟩

theorem witness_heartbeat : ∃ (s : State) (conn : SpdmPort) (msg : List Byte) (c : Nat),
    (c = connNum conn) ∧ (spdmUp s c = true) ∧ (3 ≤ (getConn s c).stage) ∧ ((getConn s c).session = 2) :=
  ⟨spdmAt 3 2, .mgmt, [], _, rfl, by decide +kernel, by decide +kernel, by decide +kernel⟩

theorem witness_endSession : ∃ (s : State) (conn : SpdmPort) (msg : List Byte) (c : Nat),
    (c = connNum conn) ∧ (spdmUp s c = true) ∧ (3 ≤ (getConn s c).stage) ∧ ((getConn s c).session = 2) :=
  ⟨spdmAt 3 2, .mgmt, [], _, rfl, by decide +kernel, by decide +kernel, by decide +kernel⟩

theorem witness_getVersion : ∃ (s : State) (conn : SpdmPort) (msg : List Byte) (c : Nat),
    (c = connNum conn) ∧ (spdmUp s c = true) :=
  ⟨up, .mgmt, [], _, rfl, by decide +kernel⟩

theorem witness_getDigests : ∃ (s : State) (conn : SpdmPort) (msg : List Byte) (c : Nat),
    (c = connNum conn) ∧ (spdmUp s c = true) ∧ (3 ≤ (getConn s c).stage) :=
  ⟨spdmAt 3 0, .mgmt, [], _, rfl, by decide +kernel, by decide +kernel⟩

theorem witness_getCertificate : ∃ (s : State) (conn : SpdmPort) (msg : List Byte) (slot : Fin 8) (c : Nat),
    (c = connNum conn) ∧ (spdmUp s c = true) ∧ (3 ≤ (getConn s c).stage) ∧ (slot.val < 2) :=
  ⟨spdmAt 3 0, .mgmt, [], 1, _, rfl, by decide +kernel, by decide +kernel, by decide +kernel⟩

theorem witness_challenge : ∃ (s : State) (conn : SpdmPort) (msg : List Byte) (c : Nat),
    (c = connNum conn) ∧ (spdmUp s c = true) ∧ (3 ≤ (getConn s c).stage) ∧ (s.trust.treeUp = true) :=
  ⟨spdmAt 3 0, .mgmt, [], _, rfl, by decide +kernel, by decide +kernel, by decide +kernel⟩

theorem witness_getMeasurements : ∃ (s : State) (conn : SpdmPort) (msg : List Byte) (index : Option (BitVec 8)) (signed : Bool) (c : Nat) (es : List (Nat × List Byte)) (body : List Byte),
    (c = connNum conn) ∧ (spdmUp s c = true) ∧ (3 ≤ (getConn s c).stage) ∧ ((signed = true → s.trust.treeUp = true)) ∧ (es = (visible s c).filter (fun e => (index.map (·.toNat)).all (fun i => e.1 = i))) ∧ (es ≠ []) ∧ (body = leBytes 1 es.length ++ es.flatMap measBlock) :=
  ⟨spdmAt 3 0, .mgmt, [], none, true, _, _, _, rfl, by decide +kernel, by decide +kernel, fun _ => rfl, rfl, by decide +kernel, rfl⟩

theorem witness_keyExchange : ∃ (s u : State) (conn : SpdmPort) (msg b m : List Byte) (c : Nat),
    (c = connNum conn) ∧ (spdmUp s c = true) ∧ (3 ≤ (getConn s c).stage) ∧ (s.trust.treeUp = true) ∧ (b = (spdmFresh 0xE4 msg s).1) ∧ (u = (spdmFresh 0xE4 msg s).2) ∧ (m = signedMsg 0xE4 ((getConn u c).trans ++ msg ++ b)) :=
  ⟨spdmAt 3 0, _, .mgmt, [], _, _, _, rfl, by decide +kernel, by decide +kernel, by decide +kernel, rfl, rfl, rfl⟩

theorem witness_hssChain : ∃ (s : State) (conn : SpdmPort) (msg : List Byte) (c : Nat),
    (c = connNum conn) ∧ (spdmUp s c = true) ∧ (3 ≤ (getConn s c).stage) ∧ (s.trust.treeUp = true) :=
  ⟨spdmAt 3 0, .mgmt, [], _, rfl, by decide +kernel, by decide +kernel, by decide +kernel⟩

theorem witness_hssSign : ∃ (s u : State) (conn : SpdmPort) (msg m : List Byte) (ws : List (Bool × Bool)) (c n : Nat),
    (c = connNum conn) ∧ (spdmUp s c = true) ∧ (3 ≤ (getConn s c).stage) ∧ ((getConn s c).signed = some m) ∧ (s.trust.treeUp = true) ∧ (s.trust.aliasQ < s.trust.aliasRes) ∧ (n = s.freeCtr) ∧ (u = (nextFree s).2) :=
  ⟨{ spdmAt 3 0 with trust := { (spdmAt 3 0).trust with aliasRes := 64 } }, _, .mgmt, [], _, [], _, _, rfl, by decide +kernel, by decide +kernel, rfl, by decide +kernel, by decide +kernel, rfl, rfl⟩

theorem witness_aliasTreeBuilt : ∃ (s : State),
    (isFrozen s = false) ∧ (s.power.phase ≠ .off) :=
  ⟨up, by decide +kernel, by decide +kernel⟩

theorem witness_ideKeyManagement : ∃ (s : State) (h : Holding) (stream : Fin 2) (k : Fin 2),
    (spdmUp s h.val = true) ∧ ((getConn s h.val).session = 2) :=
  ⟨{ up with trust := { spdm := [(0, { stage := 3, session := 2 })] } }, 0, 0, 0, by decide +kernel, by decide +kernel⟩

theorem witness_ideKeyManagement_a : ∃ (s : State) (h : Holding) (stream : Fin 2) (k : Fin 2),
    (spdmUp s h.val = true) ∧ ((getConn s h.val).session = 2) ∧ ((getK s.ide (h.val * 2 + stream.val) {}).programmed.contains k.val = true) :=
  ⟨{ up with trust := { spdm := [(0, { stage := 3, session := 2 })] }, ide := [(0, { programmed := [1] })] }, 0, 0, 1, by decide +kernel, by decide +kernel, by decide +kernel⟩

theorem witness_ideKeyManagement_b : ∃ (s : State) (h : Holding) (stream : Fin 2),
    (spdmUp s h.val = true) ∧ ((getConn s h.val).session = 2) :=
  ⟨{ up with trust := { spdm := [(0, { stage := 3, session := 2 })] } }, 0, 0, by decide +kernel, by decide +kernel⟩

theorem witness_getNonce : ∃ (s : State) (v : List Byte),
    (tokenUp s = true) ∧ (v = fixLen 32 (Config.freshBytes (nextFree s).1 32)) :=
  ⟨up, _, by decide +kernel, rfl⟩

theorem witness_nonceExpire : ∃ (s : State) (v : List Byte) (c : Nat),
    (s.power.phase ≠ .off) ∧ (s.trust.nonce = some (v, c)) ∧ (c + 1500000000 ≤ s.counter) :=
  ⟨{ at_ 1500000000 with trust := { nonce := some ([1], 0) } }, [1], 0, by decide +kernel, by decide +kernel, by decide +kernel⟩

theorem witness_freezeToken : ∃ (s u : State) (b : List Byte),
    (tokenUp s = true) ∧ (fieldLE b 6 1 = 1) ∧ (u = useNonce b s) :=
  ⟨up, _, token 1, by decide +kernel, by decide +kernel, rfl⟩

theorem witness_debugReadoutToken : ∃ (s u : State) (b : List Byte),
    (tokenUp s = true) ∧ (fieldLE b 6 1 = 2) ∧ (u = useNonce b s) :=
  ⟨up, _, token 2, by decide +kernel, by decide +kernel, rfl⟩

theorem witness_fullDebugToken : ∃ (s u : State) (b : List Byte),
    (tokenUp s = true) ∧ (fieldLE b 6 1 = 3) ∧ (u = useNonce b s) :=
  ⟨up, _, token 3, by decide +kernel, by decide +kernel, rfl⟩

theorem witness_ownerChangeToken : ∃ (s u : State) (b : List Byte),
    (tokenUp s = true) ∧ (fieldLE b 6 1 = 4) ∧ (u = useNonce b s) :=
  ⟨up, _, token 4, by decide +kernel, by decide +kernel, rfl⟩

theorem witness_charterRestrictionToken : ∃ (s u : State) (b : List Byte),
    (tokenUp s = true) ∧ (fieldLE b 6 1 = 5) ∧ (u = useNonce b s) :=
  ⟨up, _, token 5, by decide +kernel, by decide +kernel, rfl⟩

theorem witness_enterReturnToken : ∃ (s u : State) (b : List Byte),
    (tokenUp s = true) ∧ (fieldLE b 6 1 = 6) ∧ (u = useNonce b s) :=
  ⟨up, _, token 6, by decide +kernel, by decide +kernel, rfl⟩

theorem witness_freezeCapture : ∃ (s u : State),
    (u = { s with rely := { s.rely with pinLow := true } }) ∧ (policy s F.chtLifeFreeze = 0) ∧ (3 ≤ s.power.step) :=
  ⟨up, _, rfl, by decide +kernel, by decide +kernel⟩

theorem witness_freezeCapture_a : ∃ (s : State),
    (getF s rlyB F.rlyFreezeByCmd = 1) ∧ (s.power.phase ≠ .off) :=
  ⟨setF rlyB F.rlyFreezeByCmd 1 up, by decide +kernel, by decide +kernel⟩

theorem witness_hbmFreezeStop : ∃ (s : State),
    (isFrozen s = true) :=
  ⟨ice, by decide +kernel⟩

theorem witness_freezeReleaseCommand : ∃ (s : State),
    (isFrozen s = true) :=
  ⟨ice, by decide +kernel⟩

theorem witness_thawClockStart : ∃ (s : State),
    (isFrozen s = true) ∧ (s.rely.thawing = true) :=
  ⟨{ ice with rely := { thawing := true } }, by decide +kernel, by decide +kernel⟩

theorem witness_tapReadout : ∃ (s : State) (seq : Nat),
    (isFrozen s = true) :=
  ⟨ice, 0, by decide +kernel⟩

theorem witness_tapReadout_a : ∃ (s : State) (addr : PAddr) (base : Nat) (b : Blk),
    (isFrozen s = true) ∧ (placeOf addr.toNat = .block base b) ∧ ((s.readout = true ∨ s.fullDebug = true)) ∧ (implemented b.tag (addr.toNat % 0x1000) = true) :=
  ⟨{ ice with readout := true }, 0xF10001C100, 0xF10001C000, ⟨.rng, 0, 0, 15⟩, by decide +kernel, by decide +kernel, by decide +kernel, by decide +kernel⟩

theorem witness_tapReadout_b : ∃ (s : State) (die : Die) (acre : PAcre) (off : Fin 2097152),
    (isFrozen s = true) ∧ ((s.readout = true ∨ s.fullDebug = true)) :=
  ⟨{ ice with readout := true }, 0, 0, 64, by decide +kernel, by decide +kernel⟩

theorem witness_lateralParityError : ∃ (s : State) (die : Die) (acre : PAcre) (again : Bool) (cycle g : Nat),
    (g = acreIx die acre) ∧ (acreLive s g = true) ∧ ((getAcre s g).run.isSome = true) :=
  ⟨live { run := some mmRun }, 0, 0, false, 0, _, rfl, by decide +kernel, by decide +kernel⟩

theorem witness_accParityError : ∃ (s : State) (die : Die) (acre : PAcre) (acc : Fin 2) (again : Bool) (cycle g : Nat) (x : Acc),
    (g = acreIx die acre) ∧ (x = getAcc (getAcre s g) (acc.val = 1)) ∧ (x.st ≠ .idle) ∧ (acreLive s g = true) ∧ ((getAcre s g).run.isSome = true) ∧ (again = false) ∧ (thirdTransient (getAcre s g).accTrans cycle = false) :=
  ⟨live { run := some mmRun, acc1 := { st := .fill } }, 0, 0, 1, _, 0, _, _, rfl, rfl, by decide +kernel, by decide +kernel, by decide +kernel, rfl, by decide +kernel⟩

theorem witness_sequencerParityError : ∃ (s : State) (die : Die) (acre : PAcre) (cycle g : Nat) (c : CourseRun),
    (g = acreIx die acre) ∧ ((getAcre s g).run = some c) ∧ (acreLive s g = true) ∧ ((getAcre s g).seqRep ≠ some c.sn) ∧ (thirdTransient (getAcre s g).seqTrans cycle = false) :=
  ⟨live { run := some mmRun }, 0, 0, 0, _, mmRun, rfl, by decide +kernel, by decide +kernel, by decide +kernel, by decide +kernel⟩

theorem witness_sequencerWatchdog : ∃ (s : State) (die : Die) (acre : PAcre) (cycle g : Nat) (c : CourseRun),
    (g = acreIx die acre) ∧ ((getAcre s g).run = some c) ∧ (acreLive s g = true) ∧ ((getAcre s g).seqRep ≠ some c.sn) ∧ (thirdTransient (getAcre s g).seqTrans cycle = false) :=
  ⟨live { run := some mmRun }, 0, 0, 0, _, mmRun, rfl, by decide +kernel, by decide +kernel, by decide +kernel, by decide +kernel⟩

theorem witness_acreSwap : ∃ (s : State) (die : Die) (acre : PAcre) (g : Nat),
    (g = acreIx die acre) ∧ (frozen s = false) ∧ ((getAcre s g).run = none) ∧ ((getAcre s g).aside = none) :=
  ⟨up, 0, 0, _, rfl, by decide +kernel, by decide +kernel, by decide +kernel⟩

theorem witness_acreCopyDone : ∃ (s u : State) (die : Die) (acre : PAcre) (g : Nat) (j : SwapJob),
    (g = acreIx die acre) ∧ (s.swaps.find? (fun j => j.old = g && j.phase = .copying) = some j) ∧ (frozen s = false) ∧ (u = enterFallow g (remapAcre g j.new { s with swaps := s.swaps.filter (fun k => k ≠ j) })) ∧ (j.why = .slow) :=
  ⟨{ live {} with swaps := [{ old := 0, new := 64, why := .slow, phase := .copying }] }, _, 0, 0, _, { old := 0, new := 64, why := .slow, phase := .copying }, rfl, by decide +kernel, by decide +kernel, rfl, by decide +kernel⟩

theorem witness_acreCopyDone_a : ∃ (s u : State) (die : Die) (acre : PAcre) (g : Nat) (j : SwapJob),
    (g = acreIx die acre) ∧ (s.swaps.find? (fun j => j.old = g && j.phase = .copying) = some j) ∧ (frozen s = false) ∧ (u = enterFallow g (remapAcre g j.new { s with swaps := s.swaps.filter (fun k => k ≠ j) })) ∧ (j.why = .fault) :=
  ⟨{ live {} with swaps := [{ old := 0, new := 64, why := .fault, phase := .copying }] }, _, 0, 0, _, { old := 0, new := 64, why := .fault, phase := .copying }, rfl, by decide +kernel, by decide +kernel, rfl, by decide +kernel⟩

theorem witness_acreBistRotation : ∃ (s : State) (die : Die) (acre : PAcre) (g sp n : Nat),
    (g = acreIx die acre) ∧ (frozen s = false) ∧ (s.rely.coresLost = false) ∧ (bistInterval s = some n) ∧ (n ≤ (getAcre s g).bistAge + (s.counter - (getAcre s g).testedAt)) ∧ (inService s g = true) ∧ (s.swaps.any (fun j => j.old = g) = false) ∧ (bestSpare s (g / 68) = some sp) ∧ ((getClk s (g / 68)).fmax < (getAcre s sp).life + slowGap s) :=
  ⟨at_ (2 ^ 60), 0, 0, _, 64, (bistInterval up).getD 0, rfl, by decide +kernel, by decide +kernel, by decide +kernel, by decide +kernel, by decide +kernel, by decide +kernel, by decide +kernel, by decide +kernel⟩

theorem witness_acreSelfTestDone : ∃ (s u v : State) (die : Die) (acre : PAcre) (res : TestRes) (g : Nat),
    (g = acreIx die acre) ∧ (frozen s = false) ∧ (s.testing.contains g = true) ∧ (u = { s with testing := s.testing.filter (· ≠ g) }) ∧ (v = setF rlyB F.rlyTeststatLastAcre (g % 68) (setF rlyB F.rlyTeststatLastDie (g / 68) (setF rlyB F.rlyTeststatResult (testResult g res u).1 (modAcre g (fun a => { a with bistAge := 0, testedAt := s.counter }) (testResult g res u).2)))) :=
  ⟨{ up with testing := [0] }, _, _, 0, 0, .pass, _, rfl, by decide +kernel, by decide +kernel, rfl, rfl⟩

theorem witness_lockstepMismatch : ∃ (s : State) (pair : Fin 2),
    (frozen s = false) ∧ (s.rely.coresLost = false) ∧ (pair.val = getF s rlyB F.rlyCoresActive) ∧ (standby s ≠ 2) ∧ (standby s ≠ 3) :=
  ⟨up, 0, by decide +kernel, by decide +kernel, by decide +kernel, by decide +kernel, by decide +kernel⟩

theorem witness_lockstepMismatch_a : ∃ (s : State) (pair : Fin 2),
    (frozen s = false) ∧ (s.rely.coresLost = false) ∧ (pair.val ≠ getF s rlyB F.rlyCoresActive) ∧ (standby s ≠ 2) ∧ (standby s ≠ 3) :=
  ⟨up, 1, by decide +kernel, by decide +kernel, by decide +kernel, by decide +kernel, by decide +kernel⟩

theorem witness_mgmtCheckpoint : ∃ (s : State),
    (frozen s = false) ∧ (s.rely.coresLost = false) ∧ (s.rely.ckpt + 25000 ≤ s.counter) :=
  ⟨at_ 25000, by decide +kernel, by decide +kernel, by decide +kernel⟩

theorem witness_corePairSelfTestDone : ∃ (s : State) (ok : Bool),
    (frozen s = false) ∧ (standby s = 2) :=
  ⟨setStandby 2 up, false, by decide +kernel, by decide +kernel⟩

theorem witness_hbmRead : ∃ (s : State) (addr : PAddr) (err : ReadErr) (stack : Nat),
    (frozen s = false) ∧ (addr.toNat < 0x9000000000) ∧ (stack = hbmStack s addr.toNat) ∧ (err ≠ .lasting) :=
  ⟨up, default, .corrected, _, by decide +kernel, by decide +kernel, rfl, by decide +kernel⟩

theorem witness_hbmRead_a : ∃ (s : State) (addr : PAddr) (ex : Executor) (stack : Nat),
    (frozen s = false) ∧ (addr.toNat < 0x9000000000) ∧ (stack = hbmStack s addr.toNat) :=
  ⟨up, default, .acre 0 0, _, by decide +kernel, by decide +kernel, rfl⟩

theorem witness_hbmPageMigrateDone : ∃ (s u : State) (page sp stack : Nat) (poisoned : List PAddr),
    (frozen s = false) ∧ (s.rely.migrating.contains page = true) ∧ (sp = getK s.rely.moved page 0) ∧ (stack = (if sp ≥ 2 ^ 20 then (sp - 2 ^ 20) / 64 else 3 * (page / 73728))) ∧ (u = { s with hbmPoison := ((poisoned.map (·.toNat)).filter (fun a => a / 0x200000 = page)).foldl (fun m a => setK m (a / 64) true false) s.hbmPoison }) :=
  ⟨{ up with rely := { migrating := [5], moved := [(5, 2 ^ 20)] } }, _, 5, 2 ^ 20, _, [], by decide +kernel, by decide +kernel, by decide +kernel, rfl, rfl⟩

theorem witness_hbmPatrolScrub : ∃ (s u : State) (stack : Stack) (addr : PAddr) (err : ReadErr) (n : Nat),
    (frozen s = false) ∧ (addr.toNat < 0x9000000000) ∧ (hbmStack s addr.toNat = stack.val) ∧ (u = codewordRead stack.val addr.toNat err s) ∧ (n = getK u.rely.patrol stack.val 0 + 1) ∧ (n ≠ 1610612736) :=
  ⟨up, _, 0, default, .corrected, _, by decide +kernel, by decide +kernel, by decide +kernel, rfl, rfl, by decide +kernel⟩

theorem witness_sramScrub : ∃ (s u : State) (loc : Nat),
    (frozen s = false) ∧ (s.rely.cacheOff.contains loc = false) ∧ (loc < 65536) ∧ (u = logEv 0x26 0x10 0 [loc] (setRely (fun r => { r with cacheOff := r.cacheOff ++ [loc] }) s)) :=
  ⟨up, _, 0, by decide +kernel, by decide +kernel, by decide +kernel, rfl⟩

theorem witness_imbalanceWindow : ∃ (s u : State) (die : Die) (chan : Fin 96) (busiest total region ratio : Nat),
    (frozen s = false) ∧ (0 < total) ∧ (ratio = min 4095 (busiest * 16 * 96 / total)) ∧ (getF s rlyB F.rlyImbalRatio ≤ ratio) ∧ (u = setF rlyB F.rlyImbalRatio ratio (setF rlyB F.rlyImbalChannel chan.val (setF rlyB F.rlyImbalDie die.val s))) ∧ (4 * total < busiest * 96) ∧ (getK s.rely.imbAt die.val 0 = 0) :=
  ⟨up, _, 0, default, 1000, 3000, 0, _, by decide +kernel, by decide +kernel, rfl, by decide +kernel, rfl, by decide +kernel, by decide +kernel⟩

theorem witness_coldPowerOn : ∃ (s : State) (pins : Fin 8) (ref : Bool) (inlet flow : Nat),
    (s.power.opened = false) :=
  ⟨up, default, false, 0, 0, by decide +kernel⟩

theorem witness_overvoltageRestart : ∃ (s : State) (pins : Fin 8) (ref : Bool) (inlet flow : Nat),
    (s.power.opened = true) :=
  ⟨{ up with power := { up.power with opened := true } }, default, false, 0, 0, by decide +kernel⟩

theorem witness_railGood : ∃ (s u : State) (step : Fin 7),
    (isFrozen s = false) ∧ (s.power.phase = .starting) ∧ (s.power.wait = false) ∧ (step.val = s.power.step + 1) ∧ (step.val ≠ 3) ∧ (u = setPower (fun p => { p with step := step.val }) s) :=
  ⟨{ up with power := { up.power with phase := .starting, step := 0 } }, _, 1, by decide +kernel, by decide +kernel, by decide +kernel, by decide +kernel, by decide +kernel, rfl⟩

theorem witness_railTimeout : ∃ (s : State) (rail : Rail),
    (isFrozen s = false) ∧ (s.power.phase = .starting) ∧ (s.power.wait = false) ∧ (railStep rail = s.power.step + 1) :=
  ⟨{ up with power := { up.power with phase := .starting, step := 0 } }, .vstby, by decide +kernel, by decide +kernel, by decide +kernel, by decide +kernel⟩

theorem witness_coolantResume : ∃ (s : State),
    (isFrozen s = false) ∧ (s.power.phase ≠ .off) ∧ (s.power.wait = true) ∧ (mustWait s = false) :=
  ⟨{ up with power := { up.power with phase := .starting, step := 0, wait := true } }, by decide +kernel, by decide +kernel, by decide +kernel, by decide +kernel⟩

theorem witness_inputPowerLoss : ∃ (s : State),
    (s.power.phase ≠ .off) :=
  ⟨up, by decide +kernel⟩

theorem witness_inputUndervoltage : ∃ (s : State),
    (s.power.phase ≠ .off) ∧ (s.ditch.alerts.contains .input = false) :=
  ⟨up, by decide +kernel, by decide +kernel⟩

theorem witness_inputHigh : ∃ (s : State),
    (isFrozen s = false) ∧ (s.power.phase ≠ .off) ∧ (s.ditch.inputHigh = false) :=
  ⟨up, by decide +kernel, by decide +kernel, by decide +kernel⟩

theorem witness_bladeFuseOpen : ∃ (s u : State) (pair : Fin 2),
    (isFrozen s = false) ∧ (s.power.phase ≠ .off) ∧ (s.ditch.blades.contains pair.val = false) ∧ (u = drdEvent 0x02 1 0 [railNum .input, pair.val] (showCap (setDitch (fun x => { x with blades := x.blades ++ [pair.val], capDue := true }) s))) :=
  ⟨up, _, default, by decide +kernel, by decide +kernel, by decide +kernel, rfl⟩

theorem witness_refclkLost : ∃ (s : State),
    (s.power.phase ≠ .off) ∧ (s.power.osc = false) ∧ (isFrozen s = false) :=
  ⟨up, by decide +kernel, by decide +kernel, by decide +kernel⟩

theorem witness_refclkReturn : ∃ (s : State),
    (s.power.phase ≠ .off) :=
  ⟨up, by decide +kernel⟩

theorem witness_coolantReading : ∃ (s : State) (inlet flow : Nat),
    (isFrozen s = false) ∧ (s.power.phase = .service) :=
  ⟨up, 0, 0, by decide +kernel, by decide +kernel⟩

theorem witness_coolantReading_a : ∃ (s : State) (inlet flow : Nat),
    (isFrozen s = false) ∧ (s.power.phase ≠ .off) ∧ (s.power.phase ≠ .service) :=
  ⟨{ up with power := { up.power with phase := .hold, step := 3, wait := true } }, 0, 0, by decide +kernel, by decide +kernel, by decide +kernel⟩

theorem witness_moduleReset : ∃ (s u : State),
    (isFrozen s = false) ∧ (s.rely.coresLost = false) ∧ (s.power.phase = .service) ∧ (u = warmBoot (setF drdB F.drdLevelPending 0 (setF drdB F.drdLevelLevel 0 (moduleResetState (resetPrepare s))))) :=
  ⟨up, _, by decide +kernel, by decide +kernel, by decide +kernel, rfl⟩

theorem witness_configRequest : ∃ (s : State) (h : Holding),
    (isFrozen s = false) ∧ (s.power.phase ≠ .off) ∧ (portOn s h.val = true) :=
  ⟨up, 0, by decide +kernel, by decide +kernel, by decide +kernel⟩

theorem witness_StepTakesTheFrontCommand : ∃ (c : Instr) (rest : List Instr) (s : State), s.pending = c :: rest :=
  ⟨.getNonce, [.nonceExpire], { up with pending := [.getNonce, .nonceExpire] }, rfl⟩

theorem witness_IdleStepCountsTheReferenceClock : ∃ s : State, s.pending = [] ∧ s.power.phase ≠ .off ∧ isFrozen s = false ∧ (s.counter + 1) % 25000000 = 0 :=
  ⟨at_ 24999999, rfl, by decide, by decide +kernel, by decide⟩

/-- A frozen module. -/
def iced : State := setF rlyB F.rlyFreezeFrozen 1 up

theorem witness_IdleStepCountsTheReferenceClock_b : ∃ s : State, s.pending = [] ∧ isFrozen s = true :=
  ⟨iced, rfl, by decide +kernel⟩

/-- A module without power. -/
def dark : State := { State.reset with power := { State.reset.power with phase := .off } }

theorem witness_IdleStepCountsTheReferenceClock_c : ∃ s : State, s.pending = [] ∧ s.power.phase = .off := ⟨dark, rfl, rfl⟩

theorem witness_OnlyTimeAndPowerOnMoveTheCounter : ∃ (c : Instr) (s t : State), exec c s = .next t :=
  ⟨.getNonce, up, _, rfl⟩

theorem witness_EveryStepKeepsMemoryCanonical : ∃ s t : State, MemInv s ∧ step s = .next t :=
  ⟨{ up with hbm := [(3, 7), (5, 1)], pending := [.getNonce] }, _, (by decide +kernel : memWf _ = true), rfl⟩

theorem witness_EveryStepKeepsRegistersCanonical : ∃ s t : State, RegsInv s ∧ step s = .next t :=
  ⟨{ up with regs := [(0xF000000020, 1)], pending := [.getNonce] }, _, ⟨by decide +kernel, by decide +kernel⟩, rfl⟩

theorem witness_FrozenModuleStandsStill : ∃ (c : Instr) (s : State), isFrozen s = true ∧ s.fullDebug = false ∧ freezeServes c = false :=
  ⟨.coolantResume, iced, by decide +kernel, rfl, rfl⟩

theorem witness_OffModuleIsInert : ∃ (c : Instr) (s : State), s.power.phase = .off ∧ s.fullDebug = false ∧ offServes c = false :=
  ⟨.coolantResume, dark, rfl, rfl, rfl⟩

theorem witness_ReadoutOfAFrozenModuleChangesNothing : ∃ (c : Instr) (s : State), isFrozen s = true ∧
    ((∃ p addr, c = .registerRead p addr ∨ c = .loRead p addr ∨ c = .hiRead p addr) ∨ (∃ seq n, c = .eventLogRead seq n) ∨
      (∃ what, c = .tapReadout what ∧ ∀ x, what ≠ .engine x)) :=
  ⟨.registerRead .mgmt 0xF100000000, iced, by decide +kernel, .inl ⟨_, _, .inl rfl⟩⟩

theorem witness_PassIsTheExactDotProduct : ∃ (int4 : Bool) (f : XFmt) (xs : List Int) (c : Nat),
    (∀ x ∈ xs, xLo f ≤ x ∧ x ≤ xHi f) ∧ c < passCh int4 :=
  ⟨true, .int8, [-128, 127], 127, by decide, by decide⟩

theorem witness_ResidueCheckDetectsWhatIsNoMultipleOfThree : ∃ (f : XFmt) (xs : List Int), ∀ x ∈ xs, xLo f ≤ x ∧ x ≤ xHi f :=
  ⟨.uint8, [0, 255], by decide⟩

theorem witness_WeirGroupsHoldTheNonZeroRowsInOrder : ∃ lim : Nat, 1 ≤ lim := ⟨1, Nat.le_refl 1⟩

/-- A fence whose pair has a command open, and behind it one more command of the pair. -/
def fenced : State :=
  { up with hostCmds := [{ by_ := 0, op := 0x10, fence := true }, { by_ := 0, op := 0x10 }], openCmds := [{ by_ := 0, op := 0x01 }] }

theorem witness_CommandsOfAQueueAreTakenInOrderAndBehindFences : ∃ (c : Instr) (s : State) (k : Nat) (x : HostCmd),
    hostTakes c = some k ∧ s.hostCmds[k]? = some x ∧
    ((∃ (j : Nat) (y : HostCmd), j < k ∧ s.hostCmds[j]? = some y ∧ y.by_ = x.by_ ∧ y.qp = x.qp) ∨
      (x.fence = true ∧ ∃ y ∈ s.openCmds, y.by_ = x.by_ ∧ y.qp = x.qp)) :=
  ⟨.query (.host 1), fenced, 1, _, rfl, rfl, .inl ⟨0, _, by decide, rfl, rfl, rfl⟩⟩

theorem witness_CommandsOfAQueueAreTakenInOrderAndBehindFences_b : ∃ (c : Instr) (s : State) (k : Nat) (x : HostCmd),
    hostTakes c = some k ∧ s.hostCmds[k]? = some x ∧ x.fence = true ∧ ∃ y ∈ s.openCmds, y.by_ = x.by_ ∧ y.qp = x.qp :=
  ⟨.query (.host 0), fenced, 0, _, rfl, rfl, rfl, _, List.mem_cons_self, rfl, rfl⟩

theorem witness_PlotShareAboveTheModuleIsRefused : ∃ (s : State) (p : Path) (data : Word), writeGrant s p strB = .ok ∧
    fldOf F.strShr3Plots data + (((List.range 4).filter (fun k => k ≠ selHold s p)).map (fun k => (getHold s k).shPlots)).foldl (· + ·) 0 > 7680 :=
  ⟨{ up with holds := [(1, { shPlots := 7680 })] }, .mgmt, 1, by decide +kernel, by decide +kernel⟩

theorem witness_PairReadsAnswerOneSample : ∃ (s : State) (p : Path) (lo hi : PAddr) (base : Nat) (b : Blk),
    MayRead s p lo.toNat base b ∧ MayRead s p hi.toNat base b ∧ hi.toNat % 0x1000 = lo.toNat % 0x1000 + 4 ∧
    isLo b.tag (lo.toNat % 0x1000) = true ∧ isHi b.tag (hi.toNat % 0x1000) = true ∧ isHi b.tag (lo.toNat % 0x1000) = false ∧
    isLo b.tag (hi.toNat % 0x1000) = false :=
  ⟨up, .mgmt, 0xF000014104, 0xF000014108, 0xF000014000, ⟨.tly, 0, 15, 15⟩,
    ⟨by decide +kernel, by decide +kernel, by decide +kernel, by decide +kernel, by decide +kernel, by decide +kernel⟩,
    ⟨by decide +kernel, by decide +kernel, by decide +kernel, by decide +kernel, by decide +kernel, by decide +kernel⟩,
    by decide +kernel, by decide +kernel, by decide +kernel, by decide +kernel, by decide +kernel⟩

theorem witness_NextStreamIdIsTheNextFreeOne : ∃ (s : State) (k : Nat), freeId s = some k :=
  ⟨{ up with eng := { up.eng with lastId := 2 ^ 20 - 1 } }, 0, by decide +kernel⟩

theorem witness_FrameBytesOfPagesDoNotOverlap : ∃ d r t : Nat, r < d ∧ t < 64 ∧ ∃ r' t' : Nat, r' < d ∧ t' < 64 ∧ kvOff d true r t = kvOff d true r' t' :=
  ⟨64, 63, 63, by decide, by decide, 63, 63, by decide, by decide, rfl⟩

theorem witness_WalkVisitsEveryIndexVectorOnceInnermostFirst : ∃ its : List Nat, ∀ i ∈ its, 1 ≤ i := ⟨[1, 3, 2], by decide⟩

theorem witness_DiscardedWritesLeaveOnlyTheirRecord : ∃ (s : State) (p : Path) (addr : PAddr) (base : Nat) (b : Blk),
    placeOf addr.toNat = .block base b ∧ writeGrant s p base = .denied :=
  ⟨up, .host 1, 0xF000014104, 0xF000014000, ⟨.tly, 0, 15, 15⟩, by decide +kernel, by decide +kernel⟩

theorem witness_DiscardedWritesLeaveOnlyTheirRecord_b : ∃ (s : State) (p : Path) (addr : PAddr) (base : Nat) (b : Blk),
    placeOf addr.toNat = .block base b ∧ readGrant s p base (addr.toNat % 0x1000) = .denied ∧ isFrozen s = false :=
  ⟨up, .host 0, 0xF000014108, 0xF000014000, ⟨.tly, 0, 15, 15⟩, by decide +kernel, by decide +kernel, by decide +kernel⟩

theorem witness_ScratchpadStoreReachesItsBytesOnly : ∃ (s : State) (x : SpadAcc) (g A : Nat),
    g = spadOf s x.die.val x.acre.val ∧ A = 0xC000000000 + x.die.val * 0x100000000 + x.acre.val * 0x4000000 + x.off ∧ frozen s = false ∧
    spadAwake s g = true ∧ x.off + x.data.length ≤ 0x200000 ∧ x.data ≠ [] ∧ bankClosing s g (bankOf x.off) = false ∧ x.task.val < 2 ∧
    x.write = true ∧ x.errs = [] ∧ ownerAdmits s g (bankOf x.off) x.task.val = true ∧ pairCovers s g x.task.val x.off x.len true = true :=
  ⟨live { pairs := [(4, { base := 0x1FFFF8, bound := 0x200000, w := true, valid := true })] },
    { die := 0, acre := 0, task := 1, write := true, off := 0x1FFFF8, len := 8, data := [1, 2, 3, 4, 5, 6, 7, 8] }, 0, 0xC0001FFFF8,
    by decide +kernel, by decide +kernel, by decide +kernel, by decide +kernel, by decide +kernel, by decide +kernel, by decide +kernel,
    by decide +kernel, rfl, rfl, by decide +kernel, by decide +kernel⟩

theorem witness_RegisterWritesAreTheirRows : ∃ (addr : PAddr) (reg : Fin 4), addr.toNat = strB + 0x108 + 4 * reg.val := ⟨0xF000018114, 3, by decide +kernel⟩
theorem witness_RegisterWritesAreTheirRows_b : ∃ addr : PAddr, addr.toNat = strB + 0x124 := ⟨0xF000018124, by decide +kernel⟩
theorem witness_RegisterWritesAreTheirRows_c : ∃ addr : PAddr, addr.toNat = modB + 0x10C := ⟨0xF00000010C, by decide +kernel⟩
theorem witness_RegisterWritesAreTheirRows_d : ∃ addr : PAddr, addr.toNat = modB + 0x11C := ⟨0xF00000011C, by decide +kernel⟩
theorem witness_RegisterWritesAreTheirRows_e : ∃ addr : PAddr, addr.toNat = drdB + 0x104 := ⟨0xF000010104, by decide +kernel⟩
theorem witness_RegisterWritesAreTheirRows_f : ∃ addr : PAddr, addr.toNat = drdB + 0x100 := ⟨0xF000010100, by decide +kernel⟩
theorem witness_RegisterWritesAreTheirRows_g : ∃ addr : PAddr, addr.toNat = rlyB + 0x10C := ⟨0xF00000C10C, by decide +kernel⟩
theorem witness_RegisterWritesAreTheirRows_h : ∃ (addr : PAddr) (die : Die) (acre : PAcre), addr.toNat = spdB (acreIx die acre) + 0x100 :=
  ⟨0xF10353C100, 3, 67, by decide +kernel⟩
theorem witness_RegisterWritesAreTheirRows_i : ∃ (addr : PAddr) (die : Die) (acre : PAcre), addr.toNat = spdB (acreIx die acre) + 0x130 :=
  ⟨0xF10010C130, 0, 0, by decide +kernel⟩
theorem witness_RegisterWritesAreTheirRows_j : ∃ (addr : PAddr) (die : Die) (acre : PAcre), addr.toNat = frwB (acreIx die acre) + 0x170 :=
  ⟨0xF103530170, 3, 67, by decide +kernel⟩
theorem witness_RegisterWritesAreTheirRows_k : ∃ (addr : PAddr) (h : Holding), addr.toNat = hqB h.val + 0x114 := ⟨0xF00003C114, 3, by decide +kernel⟩

theorem witness_RegisterWritesWithFurtherEffect : ∃ (s : State) (p : Path) (addr : PAddr) (base : Nat) (b : Blk),
    MayWrite s p addr.toNat base b 0 ∧ isSel b.tag (addr.toNat % 0x1000) = true :=
  ⟨up, .host 2, 0xF000038100, 0xF000038000, ⟨.hq, 2, 15, 2⟩, ⟨by decide +kernel, by decide +kernel, by decide +kernel, by decide +kernel, by decide +kernel⟩, by decide +kernel⟩
theorem witness_RegisterWritesWithFurtherEffect_b : ∃ (s : State) (p : Path) (addr : PAddr) (data : Word) (base : Nat) (b : Blk) (off : Nat),
    MayWrite s p addr.toNat base b 0 ∧ addr.toNat % 0x1000 = off ∧ (off = 0x18 ∨ (off = 0x0C ∧ data.getLsbD 8 = false)) :=
  ⟨up, .host 2, 0xF000038018, 0, 0xF000038000, ⟨.hq, 2, 15, 2⟩, 0x18, ⟨by decide +kernel, by decide +kernel, by decide +kernel, by decide +kernel, by decide +kernel⟩, by decide +kernel, .inl rfl⟩
theorem witness_RegisterWritesWithFurtherEffect_c : ∃ (s : State) (p : Path) (addr : PAddr) (b : Blk) (h : Holding),
    MayWrite s p addr.toNat (hqB h.val) b 0 ∧ addr.toNat % 0x1000 = 0x118 ∧ b.tag = .hq ∧ b.inst = h.val :=
  ⟨up, .host 2, 0xF000038118, ⟨.hq, 2, 15, 2⟩, 2, ⟨by decide +kernel, by decide +kernel, by decide +kernel, by decide +kernel, by decide +kernel⟩, by decide +kernel, rfl, rfl⟩
theorem witness_RegisterWritesWithFurtherEffect_d : ∃ (s : State) (p : Path) (addr : PAddr) (b : Blk) (h : Holding),
    MayWrite s p addr.toNat (hqB h.val) b 0 ∧ addr.toNat % 0x1000 = 0x124 ∧ b.tag = .hq ∧ b.inst = h.val :=
  ⟨up, .host 3, 0xF00003C124, ⟨.hq, 3, 15, 3⟩, 3, ⟨by decide +kernel, by decide +kernel, by decide +kernel, by decide +kernel, by decide +kernel⟩, by decide +kernel, rfl, rfl⟩
theorem witness_RegisterWritesWithFurtherEffect_e : ∃ (s : State) (p : Path) (addr : PAddr),
    MayWrite s p addr.toNat drdB ⟨.drd, 0, 15, 15⟩ 0 ∧ addr.toNat % 0x1000 = 0x110 :=
  ⟨up, .mgmt, 0xF000010110, ⟨by decide +kernel, by decide +kernel, by decide +kernel, by decide +kernel, by decide +kernel⟩, by decide +kernel⟩
theorem witness_RegisterWritesWithFurtherEffect_f : ∃ (s : State) (p : Path) (addr : PAddr) (die : Die) (acre : PAcre) (g : Nat) (b : Blk) (bound : Bool),
    g = acreIx die acre ∧ b = ⟨.spd, acre.val, die.val, 15⟩ ∧ MayWrite s p addr.toNat (spdB g) b 0 ∧ addr.toNat % 0x1000 = (if bound then 0x118 else 0x114) :=
  ⟨up, .mgmt, 0xF10353C118, 3, 67, 271, ⟨.spd, 67, 3, 15⟩, true, by decide +kernel, rfl, ⟨by decide +kernel, by decide +kernel, by decide +kernel, by decide +kernel, by decide +kernel⟩, by decide +kernel⟩
theorem witness_RegisterWritesWithFurtherEffect_g : ∃ (s : State) (p : Path) (addr : PAddr) (h : Nat) (b : Blk),
    MayWrite s p addr.toNat (hqB h) b 0 ∧ b.tag = .hq ∧ b.inst = h ∧ addr.toNat % 0x4000 = 0x110 ∧ (getQP s h (selQP s p h)).en = false :=
  ⟨up, .host 0, 0xF000030110, 0, ⟨.hq, 0, 15, 0⟩, ⟨by decide +kernel, by decide +kernel, by decide +kernel, by decide +kernel, by decide +kernel⟩, rfl, rfl, by decide +kernel, by decide +kernel⟩
theorem witness_RegisterWritesWithFurtherEffect_h : ∃ (s : State) (p : Path) (addr : PAddr) (b : Blk) (h : Holding),
    MayWrite s p addr.toNat (hqB h.val) b 0 ∧ b.tag = .hq ∧ addr.toNat % 0x4000 = 0x120 :=
  ⟨up, .host 0, 0xF000030120, ⟨.hq, 0, 15, 0⟩, 0, ⟨by decide +kernel, by decide +kernel, by decide +kernel, by decide +kernel, by decide +kernel⟩, rfl, by decide +kernel⟩

theorem witness_DiscardedWritesLeaveOnlyTheirRecord_c : ∃ (s : State) (p : Path) (addr : PAddr) (be : BitVec 4) (base : Nat) (b : Blk),
    placeOf addr.toNat = .block base b ∧ writeGrant s p base = .ok ∧
    (addr.toNat % 4 ≠ 0 ∨ be ≠ 15 ∨ addr.toNat % 0x4000 / 0x1000 = 3 ∨ implemented b.tag (addr.toNat % 0x1000) = false) :=
  ⟨up, .mgmt, 0xF000014FFC, 15, 0xF000014000, ⟨.tly, 0, 15, 15⟩, by decide +kernel, by decide +kernel, .inr (.inr (.inr (by decide +kernel)))⟩
end

section
/-! Every command's frame, the step on an empty queue, and the record of a discarded register access. -/

namespace Sys2Proof.Proofs

open Sys2Proof Sys2Proof.Machine Sys2Proof.Laws

/-! ### What every command keeps -/

/-- The two commands that start the module cold: they begin a new boot epoch and set the module counter back (R621, R636). -/
def startsCold : Instr → Bool
  | .coldPowerOn .. | .overvoltageRestart .. => true
  | _ => false

theorem startsCold_iff (c : Instr) :
    startsCold c = true ↔ ∃ pins ref inlet flow, c = .coldPowerOn pins ref inlet flow ∨ c = .overvoltageRestart pins ref inlet flow := by
  constructor
  · intro h
    unfold startsCold at h
    split at h
    · exact ⟨_, _, _, _, .inl rfl⟩
    · exact ⟨_, _, _, _, .inr rfl⟩
    · cases h
  · rintro ⟨_, _, _, _, rfl | rfl⟩ <;> rfl

/-- Every command answers a next state that keeps the queue and the canonical forms, and the time too unless the command starts the module cold: each
arm of `exec` is the meaning whose frame Laws/KeepsExec gives. -/
theorem keeps_exec (c : Instr) (s : State) : ∃ t, exec c s = .next t ∧ Keeps (!startsCold c) s t := by
  cases c with
  | registerWrite => exact keeps_execRegisterWrite ..
  | registerAliasWrite => exact keeps_execRegisterAliasWrite ..
  | loRead => exact keeps_execLoRead ..
  | hiRead => exact keeps_execHiRead ..
  | loWrite => exact keeps_execLoWrite ..
  | hiWrite => exact keeps_execHiWrite ..
  | strCredit => exact keeps_execStrCredit ..
  | irqStatClear => exact keeps_execIrqStatClear ..
  | irqForce => exact keeps_execIrqForce ..
  | errClr => exact keeps_execErrClr ..
  | roleRequest => exact keeps_execRoleRequest ..
  | roleSwitch => exact keeps_execRoleSwitch ..
  | modAlertClear => exact keeps_execModAlertClear ..
  | shareWrite => exact keeps_execShareWrite ..
  | capWrite => exact keeps_execCapWrite ..
  | deepRequest => exact keeps_execDeepRequest ..
  | deepRequestEnd => exact keeps_execDeepRequestEnd ..
  | sluiceGo => exact keeps_execSluiceGo ..
  | sluiceComplete => exact keeps_execSluiceComplete ..
  | bistRun => exact keeps_execBistRun ..
  | bistDone => exact keeps_execBistDone ..
  | spareTestRun => exact keeps_execSpareTestRun ..
  | spareSelfTest => exact keeps_execSpareSelfTest ..
  | spareTestDone => exact keeps_execSpareTestDone ..
  | acreTestRequest => exact keeps_execAcreTestRequest ..
  | scratchpadAccess => exact keeps_execScratchpadAccess ..
  | scratchpadAliasWrite => exact keeps_execScratchpadAliasWrite ..
  | circWrite => exact keeps_execCircWrite ..
  | circRead => exact keeps_execCircRead ..
  | eccWriteback => exact keeps_execEccWriteback ..
  | columnRepairDone => exact keeps_execColumnRepairDone ..
  | scrubLine => exact keeps_execScrubLine ..
  | mgmtWordTimeout => exact keeps_execMgmtWordTimeout ..
  | reservoirScrub => exact keeps_execReservoirScrub ..
  | atomicAdd => exact keeps_execAtomicAdd ..
  | furrowPass => exact keeps_execFurrowPass ..
  | passResidueCompare => exact keeps_execPassResidueCompare ..
  | residueRepeatDone => exact keeps_execResidueRepeatDone ..
  | weightLoadStart => exact keeps_execWeightLoadStart ..
  | weightLoadDone => exact keeps_execWeightLoadDone ..
  | setNotReady => exact keeps_execSetNotReady ..
  | accPreloadStart => exact keeps_execAccPreloadStart ..
  | accPreloadDone => exact keeps_execAccPreloadDone ..
  | accDrain => exact keeps_execAccDrain ..
  | accDrainDone => exact keeps_execAccDrainDone ..
  | courseYield => exact keeps_execCourseYield ..
  | courseResume => exact keeps_execCourseResume ..
  | courseStart => exact keeps_execCourseStart ..
  | matmulCourse => exact keeps_execMatmulCourse ..
  | basinCourse => exact keeps_execBasinCourse ..
  | attendCourse => exact keeps_execAttendCourse ..
  | attendMerge => exact keeps_execAttendMerge ..
  | rmsNormalisation => exact keeps_execRmsNormalisation ..
  | layerNormalisation => exact keeps_execLayerNormalisation ..
  | int8Quantisation => exact keeps_execInt8Quantisation ..
  | softmaxBlock => exact keeps_execSoftmaxBlock ..
  | routing => exact keeps_execRouting ..
  | vectorAdd => exact keeps_execVectorAdd ..
  | vectorMultiply => exact keeps_execVectorMultiply ..
  | sampling => exact keeps_execSampling ..
  | orderedSum => exact keeps_execOrderedSum ..
  | fill => exact keeps_execFill ..
  | copy => exact keeps_execCopy ..
  | transpose => exact keeps_execTranspose ..
  | stride => exact keeps_execStride ..
  | expand => exact keeps_execExpand ..
  | readBeforeFill => exact keeps_execReadBeforeFill ..
  | overwriteBeforeDrain => exact keeps_execOverwriteBeforeDrain ..
  | boundUnreadable => exact keeps_execBoundUnreadable ..
  | chainBroken => exact keeps_execChainBroken ..
  | courseRecordReceived => exact keeps_execCourseRecordReceived ..
  | basinPass => exact keeps_execBasinPass ..
  | weirGroupResume => exact keeps_execWeirGroupResume ..
  | clipWindowClose => exact keeps_execClipWindowClose ..
  | referenceSlot => exact keeps_execReferenceSlot ..
  | plotTempRead => exact keeps_execPlotTempRead ..
  | plotThrottledReport => exact keeps_execPlotThrottledReport ..
  | imageOpen => exact keeps_execImageOpen ..
  | imageControlCheck => exact keeps_execImageControlCheck ..
  | basinRecord => exact keeps_execBasinRecord ..
  | programRow => exact keeps_execProgramRow ..
  | basinSwap => exact keeps_execBasinSwap ..
  | spareBasinTest => exact keeps_execSpareBasinTest ..
  | recalDue => exact keeps_execRecalDue ..
  | recalibration => exact keeps_execRecalibration ..
  | calOverdue => exact keeps_execCalOverdue ..
  | calRequest => exact keeps_execCalRequest ..
  | imageActivate => exact keeps_execImageActivate ..
  | imageRelease => exact keeps_execImageRelease ..
  | imageStatus => exact keeps_execImageStatus ..
  | correctionStep => exact keeps_execCorrectionStep ..
  | laneBorrow => exact keeps_execLaneBorrow ..
  | laneChannelSend => exact keeps_execLaneChannelSend ..
  | predictorOff => exact keeps_execPredictorOff ..
  | predictorOn => exact keeps_execPredictorOn ..
  | rearm => exact keeps_execRearm ..
  | kvImportHeader => exact keeps_execKvImportHeader ..
  | kvImportRecord => exact keeps_execKvImportRecord ..
  | ringFlitReceive => exact keeps_execRingFlitReceive ..
  | linkRetrainDone => exact keeps_execLinkRetrainDone ..
  | allReduce => exact keeps_execAllReduce ..
  | reduceScatter => exact keeps_execReduceScatter ..
  | allGather => exact keeps_execAllGather ..
  | broadcast => exact keeps_execBroadcast ..
  | fenceRecord => exact keeps_execFenceRecord ..
  | fenceArrival => exact keeps_execFenceArrival ..
  | fenceMessage => exact keeps_execFenceMessage ..
  | collectiveDone => exact keeps_execCollectiveDone ..
  | managementFence => exact keeps_execManagementFence ..
  | skewWindowClose => exact keeps_execSkewWindowClose ..
  | trainStep => exact keeps_execTrainStep ..
  | admitPrompt => exact keeps_execAdmitPrompt ..
  | admitImport => exact keeps_execAdmitImport ..
  | promptStaged => exact keeps_execPromptStaged ..
  | abort => exact keeps_execAbort ..
  | park => exact keeps_execPark ..
  | resume => exact keeps_execResume ..
  | exportStream => exact keeps_execExport ..
  | query => exact keeps_execQuery ..
  | list => exact keeps_execList ..
  | stepBoundary => exact keeps_execStepBoundary ..
  | sweepBoundary => exact keeps_execSweepBoundary ..
  | doneHoldExpire => exact keeps_execDoneHoldExpire ..
  | attributionEpoch => exact keeps_execAttributionEpoch ..
  | pageCloseTime => exact keeps_execPageCloseTime ..
  | pageSign => exact keeps_execPageSign ..
  | pageSigned => exact keeps_execPageSigned ..
  | lmsTreeBuilt => exact keeps_execLmsTreeBuilt ..
  | junctionRead => exact keeps_execJunctionRead ..
  | thermalRecoveryStep => exact keeps_execThermalRecoveryStep ..
  | thermalStillTimeout => exact keeps_execThermalStillTimeout ..
  | power10usMean => exact keeps_execPower10usMean ..
  | capUnreachable => exact keeps_execCapUnreachable ..
  | droopDetect => exact keeps_execDroopDetect ..
  | droopHoldEnd => exact keeps_execDroopHoldEnd ..
  | regulatorAlert => exact keeps_execRegulatorAlert ..
  | regulatorAlertClear => exact keeps_execRegulatorAlertClear ..
  | trickleHoldEnd => exact keeps_execTrickleHoldEnd ..
  | phaseDisable => exact keeps_execPhaseDisable ..
  | railOff => exact keeps_execRailOff ..
  | ageingMonitor => exact keeps_execAgeingMonitor ..
  | acreStill => exact keeps_execAcreStill ..
  | acreDry => exact keeps_execAcreDry ..
  | acreWake => exact keeps_execAcreWake ..
  | acreWakeDone => exact keeps_execAcreWakeDone ..
  | idleEntry => exact keeps_execIdleEntry ..
  | deepEntry => exact keeps_execDeepEntry ..
  | deepWakeDone => exact keeps_execDeepWakeDone ..
  | coolantOutOfSpec => exact keeps_execCoolantOutOfSpec ..
  | powerShare => exact keeps_execPowerShare ..
  | portReset => exact keeps_execPortReset ..
  | sqDoorbell => exact keeps_execSqDoorbell ..
  | submissionEntry => exact keeps_execSubmissionEntry ..
  | cqDoorbell => exact keeps_execCqDoorbell ..
  | ledgerDoorbell => exact keeps_execLedgerDoorbell ..
  | coalesceTimeout => exact keeps_execCoalesceTimeout ..
  | queueEnable => exact keeps_execQueueEnable ..
  | queueDisable => exact keeps_execQueueDisable ..
  | queueDisableDone => exact keeps_execQueueDisableDone ..
  | hostReadTimeout => exact keeps_execHostReadTimeout ..
  | adapterLoad => exact keeps_execAdapterLoad ..
  | adapterRelease => exact keeps_execAdapterRelease ..
  | telemetry => exact keeps_execTelemetry ..
  | channelOpen => exact keeps_execChannelOpen ..
  | channelClose => exact keeps_execChannelClose ..
  | flumeWrite port ip dgram => exact keeps_execFlumeWrite port ip dgram s
  | flumeReadReq port ip dgram => exact keeps_execFlumeReadReq port ip dgram s
  | flumeReadData port ip dgram => exact keeps_execFlumeReadData port ip dgram s
  | flumeAck port ip dgram => exact keeps_execFlumeAck port ip dgram s
  | flumeNak port ip dgram => exact keeps_execFlumeNak port ip dgram s
  | flumeOpen => exact keeps_execFlumeOpen ..
  | flumeOpenAck port ip dgram => exact keeps_execFlumeOpenAck port ip dgram s
  | flumeClose port ip dgram => exact keeps_execFlumeClose port ip dgram s
  | ackTimer => exact keeps_execAckTimer ..
  | retransmitTimeout => exact keeps_execRetransmitTimeout ..
  | channelAckTimeout => exact keeps_execChannelAckTimeout ..
  | flumeLinkDown => exact keeps_execFlumeLinkDown ..
  | mctpControl => exact keeps_execMctpControl ..
  | pldmSensorRead => exact keeps_execPldmSensorRead ..
  | pldmFirmwareStage => exact keeps_execPldmFirmwareStage ..
  | activateFirmware => exact keeps_execActivateFirmware ..
  | standbyBootDone => exact keeps_execStandbyBootDone ..
  | healthWindowExpire => exact keeps_execHealthWindowExpire ..
  | getVersion => exact keeps_execGetVersion ..
  | getCapabilities => exact keeps_execGetCapabilities ..
  | negotiateAlgorithms => exact keeps_execNegotiateAlgorithms ..
  | getDigests => exact keeps_execGetDigests ..
  | getCertificate => exact keeps_execGetCertificate ..
  | challenge => exact keeps_execChallenge ..
  | getMeasurements => exact keeps_execGetMeasurements ..
  | keyExchange => exact keeps_execKeyExchange ..
  | finish => exact keeps_execFinish ..
  | keyUpdate => exact keeps_execKeyUpdate ..
  | heartbeat => exact keeps_execHeartbeat ..
  | endSession => exact keeps_execEndSession ..
  | hssChain => exact keeps_execHssChain ..
  | hssSign => exact keeps_execHssSign ..
  | aliasTreeBuilt => exact keeps_execAliasTreeBuilt ..
  | getNonce => exact keeps_execGetNonce ..
  | nonceExpire => exact keeps_execNonceExpire ..
  | freezeToken => exact keeps_execFreezeToken ..
  | debugReadoutToken => exact keeps_execDebugReadoutToken ..
  | fullDebugToken => exact keeps_execFullDebugToken ..
  | ownerChangeToken => exact keeps_execOwnerChangeToken ..
  | charterRestrictionToken => exact keeps_execCharterRestrictionToken ..
  | enterReturnToken => exact keeps_execEnterReturnToken ..
  | freezeReleaseCommand => exact keeps_execFreezeReleaseCommand ..
  | moduleReset => exact keeps_execModuleReset ..
  | moduleImageOpen => exact keeps_execModuleImageOpen ..
  | moduleImageActivate => exact keeps_execModuleImageActivate ..
  | holdingMaskWrite => exact keeps_execHoldingMaskWrite ..
  | moduleChannelOpen => exact keeps_execModuleChannelOpen ..
  | signatureBlockRead => exact keeps_execSignatureBlockRead ..
  | eventLogRead => exact keeps_execEventLogRead ..
  | lateralParityError => exact keeps_execLateralParityError ..
  | accParityError => exact keeps_execAccParityError ..
  | sequencerParityError => exact keeps_execSequencerParityError ..
  | sequencerWatchdog => exact keeps_execSequencerWatchdog ..
  | acreCopyDone => exact keeps_execAcreCopyDone ..
  | acreSwap => exact keeps_execAcreSwap ..
  | acreBistRotation => exact keeps_execAcreBistRotation ..
  | acreSelfTestDone => exact keeps_execAcreSelfTestDone ..
  | lockstepMismatch => exact keeps_execLockstepMismatch ..
  | mgmtCheckpoint => exact keeps_execMgmtCheckpoint ..
  | corePairSelfTestDone => exact keeps_execCorePairSelfTestDone ..
  | hbmRead => exact keeps_execHbmRead ..
  | hbmPageMigrateDone => exact keeps_execHbmPageMigrateDone ..
  | hbmPatrolScrub => exact keeps_execHbmPatrolScrub ..
  | sramScrub => exact keeps_execSramScrub ..
  | meterCheck => exact keeps_execMeterCheck ..
  | imbalanceWindow => exact keeps_execImbalanceWindow ..
  | freezeCapture => exact keeps_execFreezeCapture ..
  | hbmFreezeStop => exact keeps_execHbmFreezeStop ..
  | tapReadout => exact keeps_execTapReadout ..
  | thaw => exact keeps_execThaw ..
  | thawClockStart => exact keeps_execThawClockStart ..
  | coldPowerOn => exact keeps_execColdPowerOn ..
  | railGood => exact keeps_execRailGood ..
  | railTimeout => exact keeps_execRailTimeout ..
  | coolantResume => exact keeps_execCoolantResume ..
  | inputPowerLoss => exact keeps_execInputPowerLoss ..
  | inputUndervoltage => exact keeps_execInputUndervoltage ..
  | inputUndervoltageClear => exact keeps_execInputUndervoltageClear ..
  | inputHigh => exact keeps_execInputHigh ..
  | inputOvervoltage => exact keeps_execInputOvervoltage ..
  | overvoltageRestart => exact keeps_execOvervoltageRestart ..
  | bladeFuseOpen => exact keeps_execBladeFuseOpen ..
  | refclkLost => exact keeps_execRefclkLost ..
  | refclkReturn => exact keeps_execRefclkReturn ..
  | flumeLinkUp => exact keeps_execFlumeLinkUp ..
  | hostPortLinkUp => exact keeps_execHostPortLinkUp ..
  | coolantReading => exact keeps_execCoolantReading ..
  | firmwareWatchdogExpiry => exact keeps_execFirmwareWatchdogExpiry ..
  | ideKeyManagement => exact keeps_execIdeKeyManagement ..
  | configRequest => exact keeps_execConfigRequest ..
  | registerRead => exact keeps_execRegisterRead ..
  | shutdownRequest => exact keeps_execShutdownRequest ..

/-- The same of the state that a command is known to answer. -/
theorem keeps_of_exec {c : Instr} {s t : State} (h : exec c s = .next t) : Keeps (!startsCold c) s t := by
  obtain ⟨u, hu, hk⟩ := keeps_exec c s
  cases h.symm.trans hu
  exact hk

/-- Settles O35: the frame of each command has the time in it, unless the command is one of the two cold starts. -/
theorem onlyTimeAndPowerOnMoveTheCounter : Obligations.OnlyTimeAndPowerOnMoveTheCounter := by
  intro c s t h
  cases hc : startsCold c with
  | true => exact .inr ((startsCold_iff c).1 hc)
  | false => exact .inl ((keeps_of_exec h).time (by rw [hc]; rfl))

/-! ### The step on an empty queue (R9, R594, R595) -/

section

variable {s : State}

theorem step_idle (h : s.pending = []) : step s = .next (tick s) := by
  unfold step
  rw [h]

theorem tick_off (h : s.power.phase = .off) : tick s = s := by
  unfold tick
  rw [if_pos h]

theorem phase_of_isFrozen (h : isFrozen s = true) : s.power.phase ≠ .off := by
  unfold isFrozen at h
  exact of_decide_eq_true (Bool.and_eq_true_iff.1 h).2

theorem tick_frozen (h : isFrozen s = true) : tick s = bumpPair rlyB 0x134 1 s := by
  unfold tick
  rw [if_neg (phase_of_isFrozen h), if_pos h]

theorem tick_running (hp : s.power.phase ≠ .off) (hf : isFrozen s = false) : tick s = endSecond { s with counter := s.counter + 1 } := by
  unfold tick
  rw [if_neg hp, hf, if_neg Bool.false_ne_true]

theorem sameMemory_bumpPair (b o n : Nat) (s : State) : SameMemory s (bumpPair b o n s) :=
  sameMemory_of (bumpPair_amap ..) (bumpPair_doubled ..) (bumpPair_hbm ..) (bumpPair_spad ..)

end

/-- Settles O33, by the three cases of the clock's period: counting, frozen, without power. -/
theorem idleStepCountsTheReferenceClock : Obligations.IdleStepCountsTheReferenceClock := by
  refine ⟨fun s hq hp hf => ?running, fun s hq hf => ?frozen, fun s hq hp => ?off⟩
  case running =>
    rw [step_idle hq, tick_running hp hf]
    rfl
  case frozen =>
    rw [step_idle hq, tick_frozen hf]
    exact ⟨_, rfl, bumpPair_counter .., sameRegsBut_bumpPair rlyB 0x134 1 s, sameMemory_bumpPair _ _ _ _, pairVal_bumpPair ..⟩
  case off => rw [step_idle hq, tick_off hp]

/-! ### The record of a discarded access (R22, R611, R612, R620) -/

/-- From s to t the error record of a block, its IRQ_STAT and the outputs may have changed, and nothing else that software holds. -/
structure OnlyErrRecord (base : Nat) (s t : State) : Prop where
  regs    : SameRegsBut [base + 0x14, base + 0x20, base + 0x24, base + 0x28] s t
  memory  : SameMemory s t
  latches : t.latches = s.latches
  selects : t.selects = s.selects
  qps     : t.qps = s.qps
  holds   : t.holds = s.holds
  eng     : t.eng = s.eng
  images  : t.images = s.images

theorem countErr_onlyErrRecord (base req off : Nat) (wr : Bool) (kind : Nat) (s : State) :
    OnlyErrRecord base s (countErr base req off wr kind s) where
  regs := regGet_countErr _ _ _ _ _ _
  memory := sameMemory_of (countErr_amap ..) (countErr_doubled ..) (countErr_hbm ..) (countErr_spad ..)
  latches := countErr_latches ..
  selects := countErr_selects ..
  qps := countErr_qps ..
  holds := countErr_holds ..
  eng := countErr_eng ..
  images := countErr_images ..

/-- An output after it changes nothing that software holds. -/
theorem OnlyErrRecord.emit {base : Nat} {s t : State} (e : Emit) (h : OnlyErrRecord base s t) : OnlyErrRecord base s (emit e t) :=
  ⟨h.regs, h.memory, h.latches, h.selects, h.qps, h.holds, h.eng, h.images⟩

/-- The record's word of an access to an offset in the slot, with a KIND of the table. -/
theorem errWord_eq (req off : Nat) (wr : Bool) (kind : Nat) (ho : off < 2 ^ 14) (hk : kind < 4) :
    errWord req off wr kind = BitVec.ofNat 32 (off + (if wr then 2 ^ 14 else 0) + req % 16 * 2 ^ 16 + kind * 2 ^ 20 + 2 ^ 31) := by
  unfold errWord
  rw [Nat.mod_eq_of_lt ho, Nat.mod_eq_of_lt hk]

section

variable {s : State} {p : Path} {addr base : Nat} {b : Blk}

/-- A permitted write that is unaligned or partial, or that meets no register, is counted with its KIND (R605, R611). -/
theorem regWrite_malformed (data : Word) (be : Nat) (hp : placeOf addr = .block base b) (hg : writeGrant s p base = .ok)
    (hbad : addr % 4 ≠ 0 ∨ be ≠ 15 ∨ addr % 0x4000 / 0x1000 = 3 ∨ implemented b.tag (addr % 0x1000) = false) :
    regWrite p addr data be s = countErr base (reqAt p base) (addr % 0x4000) true
      (if addr % 4 ≠ 0 ∨ be ≠ 15 then 2 else if addr % 0x4000 / 0x1000 = 3 then 3 else 1) s := by
  unfold regWrite
  rw [hp]
  dsimp only
  rw [hg]
  dsimp only
  by_cases hw : addr % 4 ≠ 0 ∨ be ≠ 15
  · rw [if_pos hw, if_pos hw]
  by_cases hr : addr % 0x4000 / 0x1000 = 3
  · rw [if_neg hw, if_pos hr, if_neg hw, if_pos hr]
  · have hi : implemented b.tag (addr % 0x1000) = false := by tauto
    rw [if_neg hw, if_neg hr, if_neg hw, if_neg hr, hi, if_pos (by decide)]

/-- A read that the path may not make is counted and answered with zero. -/
theorem regRead_denied (hp : placeOf addr = .block base b) (hg : readGrant s p base (addr % 0x1000) = .denied) (hf : isFrozen s = false) :
    regRead p addr s = emit (.read p addr 0) (countErr base (reqAt p base) (addr % 0x4000) false 0 s) := by
  unfold regRead
  rw [hp]
  dsimp only
  rw [hg]
  dsimp only
  unfold refusedRead
  rw [hf, if_neg Bool.false_ne_true]

/-- What a counted write leaves: its word in ERR_LAST, in ERR_FIRST where that was empty, one more in ERR_CNT, and nothing else. -/
theorem discardedWrite_record {addr : PAddr} {data : Word} {be : BitVec 4} {req off kind : Nat} {w : Word}
    (hx : regWrite p addr.toNat data be.toNat s = countErr base req off true kind s) (hw : errWord req off true kind = w) :
    ∃ t, exec (.registerWrite p addr data be) s = .next t ∧
      SameRegsBut [base + 0x14, base + 0x20, base + 0x24, base + 0x28] s t ∧ SameMemory s t ∧
      regGet t (base + 0x28) = w ∧ regGet t (base + 0x24) = (if getF s base F.errFirstValid = 1 then regGet s (base + 0x24) else w) ∧
      getF t base F.errCntCount = min (getF s base F.errCntCount + 1) 65535 ∧
      t.latches = s.latches ∧ t.selects = s.selects ∧ t.qps = s.qps ∧ t.holds = s.holds ∧ t.eng = s.eng ∧ t.images = s.images := by
  subst hw
  obtain ⟨regs, memory, latches, selects, qps, holds, eng, images⟩ := countErr_onlyErrRecord base req off true kind s
  exact ⟨_, congrArg Host.Outcome.next hx, regs, memory, countErr_last .., countErr_first .., countErr_cnt .., latches, selects, qps, holds, eng, images⟩

end

/-- Settles O53: each discarded access is one call of `countErr`, with the KIND of the first check that it fails. -/
theorem discardedWritesLeaveOnlyTheirRecord : Obligations.DiscardedWritesLeaveOnlyTheirRecord := by
  have slot (a : Nat) : a % 0x4000 < 2 ^ 14 := Nat.mod_lt _ (by decide)
  refine ⟨?deniedWrite, ?malformedWrite, ?deniedRead⟩
  case deniedWrite =>
    intro s p addr data be base b hp hg w
    refine discardedWrite_record (regWrite_denied data be.toNat hp hg) ?_
    rw [errWord_eq _ _ _ _ (slot _) (by decide), if_pos rfl, Nat.zero_mul, Nat.add_zero]
  case malformedWrite =>
    intro s p addr data be base b kind hp hg hbad hkind w
    have hbe : be ≠ 15 ↔ be.toNat ≠ 15 := by rw [ne_eq, ne_eq, ← BitVec.toNat_inj]; rfl
    simp only [hbe] at hbad hkind
    have hk : kind < 4 := by
      rw [hkind]
      split_ifs <;> decide
    refine discardedWrite_record (hkind ▸ regWrite_malformed data be.toNat hp hg hbad) ?_
    rw [errWord_eq _ _ _ _ (slot _) hk, if_pos rfl]
  case deniedRead =>
    intro s p addr base b hp hg hf w
    have h := (countErr_onlyErrRecord base (reqAt p base) (addr.toNat % 0x4000) false 0 s).emit (.read p addr.toNat 0)
    refine ⟨_, congrArg Host.Outcome.next (regRead_denied hp hg hf), ⟨_, rfl⟩, h.regs, h.memory, ?_,
      h.latches, h.selects, h.qps, h.holds, h.eng, h.images⟩
    calc regGet (emit (.read p addr.toNat 0) (countErr base (reqAt p base) (addr.toNat % 0x4000) false 0 s)) (base + 0x28)
      _ = errWord (reqAt p base) (addr.toNat % 0x4000) false 0 := countErr_last ..
      _ = w := by rw [errWord_eq _ _ _ _ (slot _) (by decide), if_neg Bool.false_ne_true, Nat.zero_mul, Nat.add_zero, Nat.add_zero]

end Sys2Proof.Proofs
end

section
/-! The image commands: open, control check, activate, release, status and the mask (R43, R174, R177, R179, R249, R518). -/

namespace Sys2Proof.Proofs

open Sys2Proof Sys2Proof.Machine Sys2Proof.Laws

/-! ### A host's command, once taken -/

section

variable {s t : State} {src : CmdSrc} {c : HostCmd}

/-- IMAGE_OPEN of a holding: the refusal's code with the unit's class, or the handle and the staging channel (R174, R518, R519). -/
theorem imageOpen_taken (ht : taken src 0x10 s = some (c, t)) (hby : c.by_ ≠ 15) :
    imageOpen src s = (openImage c.by_ c.arg0 c.arg1 t).elim
      (fun r => refuseAt c r.2 c.by_ r.1 t) (fun r => respond c 0 r.1 r.1 r.2.1 0 r.2.2) := by
  unfold imageOpen
  rw [takeCmd_taken _ ht, if_neg hby]
  cases openImage c.by_ c.arg0 c.arg1 t <;> rfl

variable {im : Image}

/-- A READY image, or an ACTIVE one again, is activated (R177, R238). -/
theorem imageActivate_taken (ht : taken src 0x11 s = some (c, t)) (hi : ownImage t c.by_ c.handle = some im)
    (hst : im.st = .ready ∨ im.st = .active) : imageActivate src s = ack c (activate im t) := by
  unfold imageActivate
  rw [takeCmd_taken _ ht, hi]
  exact if_pos hst

/-- The sender's own image is released, whatever state it is in (R179). -/
theorem imageRelease_taken (ht : taken src 0x12 s = some (c, t)) (hi : ownImage t c.by_ c.handle = some im) :
    imageRelease src s = ack c (releaseImage im t) := by
  unfold imageRelease
  rw [takeCmd_taken _ ht, hi]

/-- The sender's own image answers its state, the records programmed and the latest refusal (R518). -/
theorem imageStatus_taken (ht : taken src 0x13 s = some (c, t)) (hi : ownImage t c.by_ c.handle = some im) :
    imageStatus src s = respond c 0 im.handle (imageCode im.st) im.programmed im.status.toNat t := by
  unfold imageStatus
  rw [takeCmd_taken _ ht, hi]

end

/-! ### The module's own images, and the control part of any image, while the units run -/

section

variable {s : State} {h : Nat} {im : Image} (hf : frozen s = false)
include hf

/-- MODULE_IMAGE_OPEN: the refusal, or the handle and the staging channel, to the management port (R174, R175). -/
theorem moduleImageOpen_running (mib size : Nat) :
    moduleImageOpen mib size s = (openImage 15 mib size s).elim
      (fun r => emit (.mgmt 0x10 (statusWord 15 0 r.2 r.1) 0 0 0 0) s) (fun r => emit (.mgmt 0x10 0 r.1 r.1 r.2.1 0) r.2.2) := by
  unfold moduleImageOpen
  rw [if_neg (Bool.eq_false_iff.1 hf)]
  cases openImage 15 mib size s <;> rfl

/-- A READY image of the module, or an ACTIVE one again, is activated (R177). -/
theorem moduleImageActivate_running (hi : ownImage s 15 h = some im) (hst : im.st = .ready ∨ im.st = .active) :
    moduleImageActivate h s = emit (.mgmt 0x11 0 h 0 0 0) (activate im s) := by
  unfold moduleImageActivate
  rw [if_neg (Bool.eq_false_iff.1 hf), hi]
  exact if_pos hst

/-- A module-owned image takes a mask of four bits as it is (R43). -/
theorem holdingMaskWrite_running {mask : Nat} (hi : ownImage s 15 h = some im) (hm : mask < 16) :
    holdingMaskWrite h mask s = putImage { im with mask := mask } s := by
  unfold holdingMaskWrite
  rw [if_neg (Bool.eq_false_iff.1 hf), hi]
  dsimp only
  rw [Nat.mod_eq_of_lt hm]

/-- A control part that has arrived whole: refused for its first bad item, refused by the unit that cannot place it, or accepted, and then the bulk that
has arrived is taken (R175, R249, R250). -/
theorem imageControlCheck_arrived (hi : getImage s h = some im) (hc : s.rely.coresLost = false) (hst : im.st = .staging)
    (ha : controlHere im = true) :
    imageControlCheck h s = (controlBad s im).elim
      ((acceptImage im s).elim (fun r => refuseImage h r.1 r.2 s) (fun t => readyCheck h (processAll h t)))
      (fun b => refuseImage h 1 b s) := by
  have due : ¬(frozen s || s.rely.coresLost || im.st ≠ .staging || !controlHere im) = true := by simp [hf, hc, hst, ha]
  unfold imageControlCheck
  rw [hi]
  dsimp only
  rw [if_neg due]
  cases controlBad s im with
  | some b => rfl
  | none => cases acceptImage im s <;> rfl

end

/-- Settles O11: each clause is the equation of its command's meaning at a state that meets the premises. -/
theorem imageCommands : Obligations.ImageCommands := by
  refine ⟨?imageOpen, ?moduleImageOpen, ?imageControlCheck, ?imageActivate, ?moduleImageActivate, ?holdingMaskWrite, ?imageRelease, ?imageStatus⟩
  case imageOpen =>
    intro s t u src c h ch ht hby ho
    have e := imageOpen_taken ht hby
    rw [ho] at e
    exact congrArg Host.Outcome.next e
  case moduleImageOpen =>
    intro s u mib size h ch hf ho
    have e := moduleImageOpen_running hf mib size
    rw [ho] at e
    exact congrArg Host.Outcome.next e
  case imageControlCheck =>
    intro s h im hi hf hc hst ha
    refine congrArg Host.Outcome.next ((imageControlCheck_arrived hf hi hc hst ha).trans ?_)
    cases controlBad s im with
    | some b => rfl
    | none => cases acceptImage im s <;> rfl
  case imageActivate =>
    intro s t src c im ht hi hst
    exact congrArg Host.Outcome.next (imageActivate_taken ht hi hst)
  case moduleImageActivate =>
    intro s h im hf hi hst
    exact congrArg Host.Outcome.next (moduleImageActivate_running hf hi hst)
  case holdingMaskWrite =>
    intro s h im mask hf hi
    exact congrArg Host.Outcome.next (holdingMaskWrite_running hf hi mask.isLt)
  case imageRelease =>
    intro s t src c im ht hi
    exact congrArg Host.Outcome.next (imageRelease_taken ht hi)
  case imageStatus =>
    intro s t src c im ht hi
    exact congrArg Host.Outcome.next (imageStatus_taken ht hi)

end Sys2Proof.Proofs
end

section
/-! The arithmetic of a Furrow pass: the exact dot product, its extremes and the residue compare (R46 to R58, R78 to R80). -/

namespace Sys2Proof.Proofs

open Sys2Proof Sys2Proof.Machine

/-! ### Sums over lists -/

theorem foldl_add_eq_sum {α : Type} [AddMonoid α] (l : List α) : l.foldl (· + ·) 0 = l.sum := List.sum_eq_foldl.symm

theorem foldl_range_eq_sum (n : Nat) (f : Nat → Int) : ((List.range n).map f).foldl (· + ·) 0 = ∑ i ∈ Finset.range n, f i :=
  foldl_add_eq_sum _

/-- A weighted sum of sums over a list is the list's sum of the weighted sums. -/
theorem sum_mul_listSum {α : Type} (n : Nat) (k : Nat → Int) (f : Nat → α → Int) (l : List α) :
    ∑ j ∈ Finset.range n, k j * (l.map (f j)).sum = (l.map fun t => ∑ j ∈ Finset.range n, k j * f j t).sum := by
  induction l with
  | nil => simp
  | cons t l ih => simp [mul_add, Finset.sum_add_distrib, ih]

theorem listSum_modEq {α : Type} {n : Int} {f g : α → Int} (h : ∀ t, f t ≡ g t [ZMOD n]) (l : List α) :
    (l.map f).sum ≡ (l.map g).sum [ZMOD n] := by
  induction l with
  | nil => rfl
  | cons t l ih => exact (h t).add ih

/-! ### Words as sums of their bits (R52 to R55) -/

/-- What bit j of a word of w bits counts: 2^j, and minus that for the sign bit of a two's complement word. -/
def placeValue (signed : Bool) (w j : Nat) : Int := if j = w - 1 ∧ signed then -2 ^ j else 2 ^ j

theorem sum_low_bits (w n : Nat) : ∑ j ∈ Finset.range w, 2 ^ j * ((n / 2 ^ j % 2 : Nat) : Int) = (n % 2 ^ w : Nat) := by
  induction w with
  | zero => simp [Nat.mod_one]
  | succ w ih => rw [Finset.sum_range_succ, ih, Nat.mod_pow_succ]; push_cast; rfl

theorem sum_bits_unsigned (w n : Nat) :
    ∑ j ∈ Finset.range w, placeValue false w j * ((n / 2 ^ j % 2 : Nat) : Int) = (n % 2 ^ w : Nat) := by
  rw [← sum_low_bits]
  simp [placeValue]

/-- Two's complement: the low bits' sum less the sign bit's 2^w is the sign extension. -/
theorem sum_bits_signed (w n : Nat) :
    ∑ j ∈ Finset.range (w + 1), placeValue true (w + 1) j * ((n / 2 ^ j % 2 : Nat) : Int) = sext (w + 1) n := by
  have low : ∑ j ∈ Finset.range w, placeValue true (w + 1) j * ((n / 2 ^ j % 2 : Nat) : Int) = (n % 2 ^ w : Nat) := by
    rw [← sum_low_bits]
    refine Finset.sum_congr rfl fun j hj => ?_
    rw [placeValue, if_neg (by have := Finset.mem_range.1 hj; omega)]
  have top : placeValue true (w + 1) w = -2 ^ w := if_pos ⟨rfl, rfl⟩
  have hlt : n % 2 ^ w < 2 ^ w := Nat.mod_lt _ (Nat.two_pow_pos w)
  rw [Finset.sum_range_succ, low, top, sext, Nat.add_sub_cancel, Nat.mod_pow_succ, Nat.pow_succ]
  rcases Nat.mod_two_eq_zero_or_one (n / 2 ^ w) with h | h
  · rw [h, if_pos (by omega)]
    push_cast
    ring
  · rw [h, if_neg (by omega)]
    push_cast
    ring

theorem sext_toBits (w : Nat) (v : Int) (hlo : -2 ^ w ≤ v) (hhi : v < 2 ^ w) : sext (w + 1) (toBits (w + 1) v) = v := by
  have h2 : (2 : Int) ^ (w + 1) = 2 * 2 ^ w := by ring
  have hpos : (0 : Int) < 2 ^ w := by positivity
  have hn : ((toBits (w + 1) v : Nat) : Int) = v % (2 * 2 ^ w) := by
    rw [toBits, Int.toNat_of_nonneg (Int.emod_nonneg _ (by positivity))]
    push_cast
    rw [h2]
  have hlt : toBits (w + 1) v < 2 ^ (w + 1) := by
    have := Int.emod_lt_of_pos v (by omega : 0 < 2 * (2 : Int) ^ w)
    zify
    omega
  rw [sext, Nat.mod_eq_of_lt hlt, Nat.add_sub_cancel]
  zify
  rw [hn, h2]
  rcases lt_or_ge v 0 with h | h
  · have e : v % (2 * 2 ^ w) = v + 2 * 2 ^ w := by
      rw [← Int.add_emod_right, Int.emod_eq_of_lt (by omega) (by omega)]
    rw [e, if_neg (by omega)]
    ring
  · rw [Int.emod_eq_of_lt h (by omega), if_pos hhi]

/-- The planes of an input element sum to it (R55). -/
theorem sum_xBit (f : XFmt) (x : Int) (hlo : xLo f ≤ x) (hhi : x ≤ xHi f) :
    ∑ p ∈ Finset.range (xBits f), placeValue (xSigned f) (xBits f) p * (xBit (xBits f) x p : Int) = x := by
  simp only [xBit, Nat.shiftRight_eq_div_pow]
  cases f with
  | int8 => exact (sum_bits_signed 7 _).trans (sext_toBits 7 x hlo (Int.lt_of_le_of_lt hhi (by decide)))
  | int4 => exact (sum_bits_signed 3 _).trans (sext_toBits 3 x hlo (Int.lt_of_le_of_lt hhi (by decide)))
  | uint8 =>
    simp only [xLo, xHi] at hlo hhi
    refine (sum_bits_unsigned 8 _).trans ?_
    simp only [toBits, xBits]
    omega
  | uint4 =>
    simp only [xLo, xHi] at hlo hhi
    refine (sum_bits_unsigned 4 _).trans ?_
    simp only [toBits, xBits]
    omega

theorem colBit_eq (row : BitVec 512) (col : Nat) : colBit row col = row.toNat / 2 ^ col % 2 := by
  rw [colBit, ← BitVec.testBit_toNat, Nat.testBit_eq_decide_div_mod_eq]
  rcases Nat.mod_two_eq_zero_or_one (row.toNat / 2 ^ col) with h | h <;> simp [h]

/-- The bit-columns of a channel sum to its weight (R50 to R54). -/
theorem sum_colBit (int4 : Bool) (row : BitVec 512) (c : Nat) :
    ∑ j ∈ Finset.range (wBits int4), placeValue true (wBits int4) j * (colBit row (c * wBits int4 + j) : Int) = weightOf int4 row c := by
  have bit (j : Nat) : colBit row (c * wBits int4 + j) = (row.toNat >>> (wBits int4 * c)) / 2 ^ j % 2 := by
    rw [colBit_eq, Nat.shiftRight_eq_div_pow, Nat.div_div_eq_div_mul, ← Nat.pow_add, Nat.mul_comm c]
  simp only [bit, weightOf]
  cases int4 with
  | false => exact sum_bits_signed 7 _
  | true => exact sum_bits_signed 3 _

/-! ### A pass is the dot product (R57) -/

theorem dotChan_eq (int4 : Bool) (rows : List (BitVec 512)) (xs : List Int) (c : Nat) :
    dotChan int4 rows xs c = ((rows.zip xs).map fun t => t.2 * weightOf int4 t.1 c).sum := foldl_add_eq_sum _

theorem colSum_eq (rows : List (BitVec 512)) (b : Nat) (xs : List Int) (p col : Nat) :
    (colSum rows b xs p col : Int) = ((rows.zip xs).map fun t => (xBit b t.2 p : Int) * colBit t.1 col).sum := by
  rw [colSum, foldl_add_eq_sum]
  push_cast [List.map_map]
  rfl

/-- A plane's channel value: the weights of the rows whose input bit is 1 (R46, R57). -/
theorem planeVal_eq (int4 : Bool) (rows : List (BitVec 512)) (b : Nat) (xs : List Int) (p c : Nat) :
    planeVal int4 rows b xs p c = ((rows.zip xs).map fun t => (xBit b t.2 p : Int) * weightOf int4 t.1 c).sum := by
  have column (j : Nat) : (if j = wBits int4 - 1 then -((colSum rows b xs p (c * wBits int4 + j) * 2 ^ j : Nat) : Int)
      else (colSum rows b xs p (c * wBits int4 + j) * 2 ^ j : Nat)) =
      placeValue true (wBits int4) j * ((rows.zip xs).map fun t => (xBit b t.2 p : Int) * colBit t.1 (c * wBits int4 + j)).sum := by
    rw [← colSum_eq, placeValue]
    split_ifs <;> simp_all [mul_comm]
  rw [planeVal, foldl_range_eq_sum]
  simp only [column, sum_mul_listSum, mul_left_comm, ← Finset.mul_sum, sum_colBit]

/-- A pass's channel value: each input as the sum of its planes, times its weight. -/
theorem passChan_eq (int4 signed : Bool) (rows : List (BitVec 512)) (b : Nat) (xs : List Int) (c : Nat) :
    passChan int4 signed rows b xs c = ((rows.zip xs).map fun t =>
      (∑ p ∈ Finset.range b, placeValue signed b p * (xBit b t.2 p : Int)) * weightOf int4 t.1 c).sum := by
  have plane (p : Nat) : (if p = b - 1 ∧ signed then -planeVal int4 rows b xs p c else planeVal int4 rows b xs p c) * ((2 ^ p : Nat) : Int) =
      placeValue signed b p * ((rows.zip xs).map fun t => (xBit b t.2 p : Int) * weightOf int4 t.1 c).sum := by
    rw [← planeVal_eq, placeValue]
    split_ifs <;> simp [mul_comm]
  rw [passChan, foldl_range_eq_sum]
  simp only [plane, sum_mul_listSum, ← mul_assoc, ← Finset.sum_mul]

/-- Inputs of the format make the pass exact, whatever the channel. -/
theorem passChan_eq_dotChan (int4 : Bool) {f : XFmt} (rows : List (BitVec 512)) {xs : List Int} (c : Nat)
    (hx : ∀ x ∈ xs, xLo f ≤ x ∧ x ≤ xHi f) : passChan int4 (xSigned f) rows (xBits f) xs c = dotChan int4 rows xs c := by
  rw [passChan_eq, dotChan_eq]
  refine congrArg List.sum (List.map_congr_left fun t ht => ?_)
  obtain ⟨hlo, hhi⟩ := hx t.2 (List.of_mem_zip ht).2
  rw [sum_xBit f t.2 hlo hhi]

/-- Settles O42: the sums over planes and columns are moved inside the sum over rows, where they are the input and the weight. -/
theorem passIsTheExactDotProduct : Obligations.PassIsTheExactDotProduct :=
  fun int4 _ rows _ c hx _ => passChan_eq_dotChan int4 rows c hx

/-! ### Extremes of a pass (R58) -/

/-- The least and the greatest weight of a format (R52 to R54). -/
def weightLo (int4 : Bool) : Int := if int4 then -8 else -128
def weightHi (int4 : Bool) : Int := if int4 then 7 else 127

/-- The least and the greatest product of an input and a weight: each lies at a corner of the two ranges. -/
def productLo (int4 : Bool) (f : XFmt) : Int :=
  min (min (xLo f * weightLo int4) (xLo f * weightHi int4)) (min (xHi f * weightLo int4) (xHi f * weightHi int4))
def productHi (int4 : Bool) (f : XFmt) : Int :=
  max (max (xLo f * weightLo int4) (xLo f * weightHi int4)) (max (xHi f * weightLo int4) (xHi f * weightHi int4))

theorem weightOf_bounds (int4 : Bool) (row : BitVec 512) (c : Nat) :
    weightLo int4 ≤ weightOf int4 row c ∧ weightOf int4 row c ≤ weightHi int4 := by
  unfold weightOf sext
  cases int4 <;> simp only [wBits, weightLo, weightHi, if_true, if_false, Bool.false_eq_true] <;> split <;> omega

/-- A product of two ranges' elements is at least the least corner's: it is monotone in each factor, whichever way. -/
theorem corner_le_mul {x a b w c d : Int} (ha : a ≤ x) (hb : x ≤ b) (hc : c ≤ w) (hd : w ≤ d) :
    min (min (a * c) (a * d)) (min (b * c) (b * d)) ≤ x * w := by
  simp only [min_le_iff]
  rcases le_total 0 w with hw | hw
  · have hx : a * w ≤ x * w := Int.mul_le_mul_of_nonneg_right ha hw
    rcases le_total 0 a with h | h
    · exact .inl (.inl ((Int.mul_le_mul_of_nonneg_left hc h).trans hx))
    · exact .inl (.inr ((Int.mul_le_mul_of_nonpos_left h hd).trans hx))
  · have hx : b * w ≤ x * w := Int.mul_le_mul_of_nonpos_right hb hw
    rcases le_total 0 b with h | h
    · exact .inr (.inl ((Int.mul_le_mul_of_nonneg_left hc h).trans hx))
    · exact .inr (.inr ((Int.mul_le_mul_of_nonpos_left h hd).trans hx))

theorem mul_le_corner {x a b w c d : Int} (ha : a ≤ x) (hb : x ≤ b) (hc : c ≤ w) (hd : w ≤ d) :
    x * w ≤ max (max (a * c) (a * d)) (max (b * c) (b * d)) := by
  have h := corner_le_mul (x := -x) (neg_le_neg hb) (neg_le_neg ha) hc hd
  simp only [neg_mul, min_neg_neg, neg_le_neg_iff] at h
  rwa [max_comm]

/-- 64 products in the range of products: the dot product of 64 rows. -/
theorem dotChan_bounds (int4 : Bool) {f : XFmt} {rows : List (BitVec 512)} {xs : List Int} (c : Nat) (hr : rows.length = 64)
    (hl : xs.length = 64) (hx : ∀ x ∈ xs, xLo f ≤ x ∧ x ≤ xHi f) :
    64 * productLo int4 f ≤ dotChan int4 rows xs c ∧ dotChan int4 rows xs c ≤ 64 * productHi int4 f := by
  have hlen : ((rows.zip xs).map fun t => t.2 * weightOf int4 t.1 c).length = 64 := by simp [hr, hl]
  have hmem : ∀ y ∈ (rows.zip xs).map fun t => t.2 * weightOf int4 t.1 c, productLo int4 f ≤ y ∧ y ≤ productHi int4 f := by
    intro y hy
    obtain ⟨t, ht, rfl⟩ := List.mem_map.1 hy
    obtain ⟨hlo, hhi⟩ := hx t.2 (List.of_mem_zip ht).2
    obtain ⟨wlo, whi⟩ := weightOf_bounds int4 t.1 c
    exact ⟨corner_le_mul hlo hhi wlo whi, mul_le_corner hlo hhi wlo whi⟩
  have lo := List.card_nsmul_le_sum _ (productLo int4 f) fun y hy => (hmem y hy).1
  have hi := List.sum_le_card_nsmul _ (productHi int4 f) fun y hy => (hmem y hy).2
  rw [hlen, nsmul_eq_mul] at lo hi
  rw [dotChan_eq]
  exact ⟨lo, hi⟩

/-- The row whose channel c holds a weight. -/
def rowWith (int4 : Bool) (c : Nat) (w : Int) : BitVec 512 := BitVec.ofNat 512 (toBits (wBits int4) w <<< (wBits int4 * c))

/-- A field of b bits at bit k of a word that it fits into. -/
theorem toNat_ofNat_shiftLeft {n b k v : Nat} (hv : v < 2 ^ b) (hk : b + k ≤ n) : (BitVec.ofNat n (v <<< k)).toNat = v <<< k := by
  rw [BitVec.toNat_ofNat, Nat.mod_eq_of_lt]
  calc v <<< k = v * 2 ^ k := Nat.shiftLeft_eq ..
    _ < 2 ^ b * 2 ^ k := Nat.mul_lt_mul_of_pos_right hv (Nat.two_pow_pos k)
    _ = 2 ^ (b + k) := (pow_add ..).symm
    _ ≤ 2 ^ n := Nat.pow_le_pow_right Nat.two_pos hk

theorem weightOf_rowWith {int4 : Bool} {c : Nat} {w : Int} (hc : c < passCh int4) (hlo : weightLo int4 ≤ w) (hhi : w ≤ weightHi int4) :
    weightOf int4 (rowWith int4 c w) c = w := by
  have hw : toBits (wBits int4) w < 2 ^ wBits int4 := by
    unfold toBits
    cases int4 <;> simp only [wBits, if_true, if_false, Bool.false_eq_true] <;> omega
  have hc' : wBits int4 + wBits int4 * c ≤ 512 := by
    cases int4 <;> simp only [passCh, wBits, if_true, if_false, Bool.false_eq_true] at hc ⊢ <;> omega
  rw [weightOf, rowWith, toNat_ofNat_shiftLeft hw hc', Nat.shiftLeft_shiftRight]
  cases int4 with
  | false => exact sext_toBits 7 w hlo (Int.lt_of_le_of_lt hhi (by decide))
  | true => exact sext_toBits 3 w hlo (Int.lt_of_le_of_lt hhi (by decide))

/-- 64 rows with one weight in a channel and 64 inputs of one value make 64 times their product. -/
theorem passChan_reaches {int4 : Bool} {f : XFmt} {c : Nat} {x w : Int} (hc : c < passCh int4) (hx : xLo f ≤ x ∧ x ≤ xHi f)
    (hw : weightLo int4 ≤ w ∧ w ≤ weightHi int4) :
    ∃ (rows : List (BitVec 512)) (xs : List Int), rows.length = 64 ∧ xs.length = 64 ∧ (∀ x ∈ xs, xLo f ≤ x ∧ x ≤ xHi f) ∧
      passChan int4 (xSigned f) rows (xBits f) xs c = 64 * (x * w) := by
  have hxs : ∀ y ∈ List.replicate 64 x, xLo f ≤ y ∧ y ≤ xHi f := fun y hy => List.eq_of_mem_replicate hy ▸ hx
  refine ⟨List.replicate 64 (rowWith int4 c w), List.replicate 64 x, List.length_replicate, List.length_replicate, hxs, ?_⟩
  rw [passChan_eq_dotChan int4 _ c hxs, dotChan_eq, List.zip_replicate, List.map_replicate, List.sum_replicate,
    weightOf_rowWith hc hw.1 hw.2, nsmul_eq_mul]
  rfl

theorem xLo_le_xHi (f : XFmt) : xLo f ≤ xHi f := by cases f <;> decide
theorem weightLo_le_weightHi (int4 : Bool) : weightLo int4 ≤ weightHi int4 := by cases int4 <;> decide

/-- A value that is one of the four corners is the product of an input and a weight. -/
theorem product_of_corner {int4 : Bool} {f : XFmt} {v : Int}
    (h : (v = xLo f * weightLo int4 ∨ v = xLo f * weightHi int4) ∨ v = xHi f * weightLo int4 ∨ v = xHi f * weightHi int4) :
    ∃ x w, (xLo f ≤ x ∧ x ≤ xHi f) ∧ (weightLo int4 ≤ w ∧ w ≤ weightHi int4) ∧ v = x * w := by
  have hx := xLo_le_xHi f
  have hw := weightLo_le_weightHi int4
  rcases h with (h | h) | h | h
  · exact ⟨_, _, ⟨le_rfl, hx⟩, ⟨le_rfl, hw⟩, h⟩
  · exact ⟨_, _, ⟨le_rfl, hx⟩, ⟨hw, le_rfl⟩, h⟩
  · exact ⟨_, _, ⟨hx, le_rfl⟩, ⟨le_rfl, hw⟩, h⟩
  · exact ⟨_, _, ⟨hx, le_rfl⟩, ⟨hw, le_rfl⟩, h⟩

theorem productLo_reached (int4 : Bool) (f : XFmt) :
    ∃ x w, (xLo f ≤ x ∧ x ≤ xHi f) ∧ (weightLo int4 ≤ w ∧ w ≤ weightHi int4) ∧ productLo int4 f = x * w :=
  product_of_corner (by unfold productLo; omega)

theorem productHi_reached (int4 : Bool) (f : XFmt) :
    ∃ x w, (xLo f ≤ x ∧ x ≤ xHi f) ∧ (weightLo int4 ≤ w ∧ w ≤ weightHi int4) ∧ productHi int4 f = x * w :=
  product_of_corner (by unfold productHi; omega)

/-- 64 products stay within 2^20, for UINT8 inputs within 2,088,960. -/
theorem product_magnitude (int4 : Bool) (f : XFmt) :
    (f ≠ .uint8 → -2 ^ 20 ≤ 64 * productLo int4 f ∧ 64 * productHi int4 f ≤ 2 ^ 20) ∧
      -2088960 ≤ 64 * productLo int4 f ∧ 64 * productHi int4 f ≤ 2088960 := by
  cases int4 <;> cases f <;> decide

/-- Settles O43: an output is 64 products, each between the corners of the input's and the weight's ranges; rows and inputs that hold one corner
throughout reach it. -/
theorem passOutputsStayWithinTheirExtremes : Obligations.PassOutputsStayWithinTheirExtremes := by
  intro int4 f e
  have he : e = (64 * productLo int4 f, 64 * productHi int4 f) := by cases int4 <;> cases f <;> rfl
  rw [he]
  obtain ⟨small, lo, hi⟩ := product_magnitude int4 f
  refine ⟨fun rows xs c hr hl hx hc => ?within, fun c hc => ?least, fun c hc => ?greatest⟩
  case within =>
    intro o
    have ho : o = dotChan int4 rows xs c := passChan_eq_dotChan int4 rows c hx
    obtain ⟨hlo, hhi⟩ := dotChan_bounds int4 c hr hl hx
    rw [← ho] at hlo hhi
    exact ⟨hlo, hhi, fun h => ⟨(small h).1.trans hlo, hhi.trans (small h).2⟩, lo.trans hlo, hhi.trans hi, by omega, by omega⟩
  case least =>
    obtain ⟨x, w, hx, hw, h⟩ := productLo_reached int4 f
    rw [h]
    exact passChan_reaches hc hx hw
  case greatest =>
    obtain ⟨x, w, hx, hw, h⟩ := productHi_reached int4 f
    rw [h]
    exact passChan_reaches hc hx hw

/-! ### The residue compare (R78 to R80) -/

/-- The sum of a pass's outputs: each input times the sum of its row's weights. -/
theorem passOut_sum (int4 : Bool) {f : XFmt} (rows : List (BitVec 512)) {xs : List Int} (hx : ∀ x ∈ xs, xLo f ≤ x ∧ x ≤ xHi f) :
    (passOut int4 f rows xs).sum =
      ((rows.zip xs).map fun t => t.2 * ((List.range (passCh int4)).map (weightOf int4 t.1)).sum).sum := by
  calc (passOut int4 f rows xs).sum
    _ = ∑ c ∈ Finset.range (passCh int4), 1 * ((rows.zip xs).map fun t => t.2 * weightOf int4 t.1 c).sum := by
        simp only [← dotChan_eq, one_mul, ← passChan_eq_dotChan int4 rows _ hx]
        rfl
    _ = ((rows.zip xs).map fun t => t.2 * ∑ c ∈ Finset.range (passCh int4), weightOf int4 t.1 c).sum := by
        rw [sum_mul_listSum]
        simp only [one_mul, Finset.mul_sum]

/-- The residues of the rows stand for their weights' sums modulo 3. -/
theorem residueQ_mod_three (int4 : Bool) {f : XFmt} (rows : List (BitVec 512)) {xs : List Int} (hx : ∀ x ∈ xs, xLo f ≤ x ∧ x ≤ xHi f) :
    residueQ int4 rows xs % 3 = (passOut int4 f rows xs).sum % 3 := by
  have row (t : BitVec 512 × Int) :
      t.2 * rowResidue int4 t.1 ≡ t.2 * ((List.range (passCh int4)).map (weightOf int4 t.1)).sum [ZMOD 3] := by
    rw [rowResidue, foldl_add_eq_sum]
    exact (Int.mod_modEq _ 3).mul_left t.2
  rw [passOut_sum int4 rows hx, residueQ, foldl_add_eq_sum]
  exact listSum_modEq row _

theorem residueOk_iff (int4 : Bool) {f : XFmt} (rows : List (BitVec 512)) {xs : List Int} (hx : ∀ x ∈ xs, xLo f ≤ x ∧ x ≤ xHi f)
    (outs : List Int) : residueOk int4 rows xs outs = true ↔ (outs.sum - (passOut int4 f rows xs).sum) % 3 = 0 := by
  rw [residueOk, decide_eq_true_iff, residueQ_mod_three int4 rows hx, foldl_add_eq_sum]
  exact Int.emod_eq_emod_iff_emod_sub_eq_zero

theorem two_pow_mod_three_ne_zero (k : Nat) : (2 : Int) ^ k % 3 ≠ 0 := fun h =>
  absurd (Int.prime_three.dvd_of_dvd_pow (Int.dvd_of_emod_eq_zero h)) (by decide)

/-- Settles O44: the compare passes exactly at a difference of a multiple of 3, and no power of 2 is one. -/
theorem residueCheckDetectsWhatIsNoMultipleOfThree : Obligations.ResidueCheckDetectsWhatIsNoMultipleOfThree := by
  intro int4 f rows xs hx
  have iff := residueOk_iff int4 rows hx
  refine ⟨(iff _).2 (by rw [sub_self]; rfl), iff, fun outs k h => Bool.eq_false_iff.2 fun hok => ?_⟩
  have hmod := (iff outs).1 hok
  have hk := two_pow_mod_three_ne_zero k
  omega

end Sys2Proof.Proofs
end

section
/-! Scratchpad accesses, corrected words, scrubs, spare tests and atomic adds (R88, R90, R113 to R115, R290 to R334, R577). -/

namespace Sys2Proof.Proofs

open Sys2Proof Sys2Proof.Machine Sys2Proof.Laws

section

variable {s : State} {g : Nat} (hf : frozen s = false)
include hf

/-! ### Accesses to a window (R290, R299, R305, R306, R322) -/

section

variable {x : SpadAcc} (hg : g = spadOf s x.die.val x.acre.val) (ha : spadAwake s g = true)
include hg ha

section

variable (ho : x.off < 0x200000) (hc : bankClosing s g (bankOf x.off) = false) (ht : x.task.val < 2)
  (hown : ownerAdmits s g (bankOf x.off) x.task.val = true) {addr : Nat}
  (haddr : addr = 0xC000000000 + x.die.val * 0x100000000 + x.acre.val * 0x4000000 + x.off)
include ho hc ht hown haddr

/-- An access of task 0 or 1 in the scratchpad proper that the bank's owner and a pair of the task admit is performed. -/
theorem spadAccess_admitted (hp : pairCovers s g x.task.val x.off x.len x.write = true) :
    spadAccess x s = doAccess g x x.off addr s := by
  unfold spadAccess
  rw [← hg, if_neg (Bool.eq_false_iff.1 hf), if_neg (by rw [ha]; decide), if_pos ho]
  unfold plainAccess
  rw [if_neg (Bool.eq_false_iff.1 hc), if_neg (Nat.not_le.2 ht), if_pos (by rw [hown, hp]; rfl), haddr]

/-- An admitted read over words without error answers their bytes. -/
theorem spadAccess_read (hw : x.write = false) (he : x.errs = []) (hp : pairCovers s g x.task.val x.off x.len false = true)
    (hr : readFault s addr x.len = none) :
    spadAccess x s = emit (.spad g x.off x.task.val (rdBytes s addr x.len) true) s := by
  rw [spadAccess_admitted hf hg ha ho hc ht hown haddr (hw ▸ hp)]
  unfold doAccess
  simp [hw, he, hr, wordErrs]

/-- An admitted write lands, and the write-backs that wait for its line are dropped. -/
theorem spadAccess_write (hw : x.write = true) (he : x.errs = []) (hp : pairCovers s g x.task.val x.off x.len true = true) :
    spadAccess x s = modAcre g (dropWb g x.off) (wrMem addr x.data s) := by
  rw [spadAccess_admitted hf hg ha ho hc ht hown haddr (hw ▸ hp)]
  unfold doAccess
  simp [hw, he, wordErrs]

end

/-- An admitted 64-bit OR or clear sets or clears the data's bits in its word. -/
theorem aliasWrite_admitted {off addr : Nat} (hoff : off = x.off % 0x200000 / 8 * 8)
    (haddr : addr = 0xC000000000 + x.die.val * 0x100000000 + x.acre.val * 0x4000000 + off) {old d : BitVec 64}
    (hold : old = BitVec.ofNat 64 (rdLE s addr 8)) (hd : d = BitVec.ofNat 64 (leVal x.data)) (hc : bankClosing s g (bankOf off) = false)
    (he : x.errs = []) (hown : ownerAdmits s g (bankOf off) x.task.val = true) (hp : pairCovers s g x.task.val off 8 true = true) (set : Bool) :
    aliasWrite x set s = modAcre g (dropWb g off) (wrLE addr 8 (if set then old ||| d else old &&& ~~~d).toNat s) := by
  subst haddr hold hd
  unfold aliasWrite
  rw [← hg, ← hoff, if_neg (Bool.eq_false_iff.1 hf), if_neg (by rw [ha]; decide), if_neg (Bool.eq_false_iff.1 hc), if_pos (by rw [hown, hp]; rfl), he]
  rfl

end

/-! ### Write-backs, column repairs and scrubs (R298, R322, R324, R326, R334) -/

theorem eccWriteback_running (w : Nat) : eccWriteback g w s = modAcre g (fun a => { a with wbPend := a.wbPend.erase w }) s := by
  unfold eccWriteback
  rw [if_neg (Bool.eq_false_iff.1 hf)]

/-- A bank's first column migration ends: it takes one of the bank's spares and is logged. -/
theorem columnDone_repairing {k : Nat} {c : Nat × Nat} {st : Word} (hst : st = statusWord 15 (bankIx g k) 6 0x46)
    (hc : (getAcre s g).colRepair.find? (fun c => c.1 = k) = some c) :
    columnDone g k s = lastEvt (spdB g) F.spdLastevtStatus st (logStatus st (bankIx g k) [c.2]
      (setF (spdB g) (colspareFld k) (getF s (spdB g) (colspareFld k) - 1)
        (modAcre g (fun a => { a with colRepair := a.colRepair.erase c, colErr := setK a.colErr (k * 1024 + c.2) [] [] }) s))) := by
  unfold columnDone
  rw [hc]
  dsimp only
  rw [if_neg (Bool.eq_false_iff.1 hf), hst]

/-- A management core's write of a word that waits too long is counted with KIND 2. -/
theorem mgmtTimeout_write (die la off : Nat) : mgmtTimeout die la off true s = countErr (spdB (physOf s die la)) 15 off true 2 s := by
  unfold mgmtTimeout
  rw [if_neg (Bool.eq_false_iff.1 hf)]
  rfl

theorem reservoirScrub_corrected (die line : Nat) (dirty : Bool) (loc : Option (Nat × Nat × Nat)) :
    reservoirScrub die line .corrected dirty loc s = bumpF (rsvB die) F.rsvEccCorrected 1 s := by
  unfold reservoirScrub
  rw [if_neg (Bool.eq_false_iff.1 hf)]

/-! ### Self-tests of spares and of acres (R88, R90, R577) -/

/-- Every spare that is neither mapped nor retired shows BUSY. -/
theorem spareTestStart_running : spareTestStart g s = setF (frwB g) F.frwSptestBusy
    (((macroSpares s g).filter (fun q => 64 ≤ q)).foldl (fun n q => n + 2 ^ (q - 64)) 0) s := by
  unfold spareTestStart
  rw [if_neg (Bool.eq_false_iff.1 hf)]

theorem spareSelfTest_due (hi : (s.counter - (getAcre s g).spTest) * 48 ≥ spareInterval s g) :
    spareSelfTest g s = setF (frwB g) F.frwSptestBusy
      (((macroSpares s g).filter (fun q => 64 ≤ q)).foldl (fun n q => n + 2 ^ (q - 64)) 0) s := by
  unfold spareSelfTest
  rw [if_pos hi, spareTestStart_running hf]

/-- A spare's test that passes ends its BUSY and clears its FAIL. -/
theorem spareTestDone_pass {sp busy was : Nat} (hbusy : busy = getF s (frwB g) F.frwSptestBusy) (hwas : was = getF s (frwB g) F.frwSptestFail)
    (hb : busy.testBit sp = true) :
    spareTestDone g sp false s = setF (frwB g) F.frwSptestFail (if was.testBit sp then was - 2 ^ sp else was)
      (modAcre g (fun a => { a with spTest := s.counter }) (setF (frwB g) F.frwSptestBusy (busy - 2 ^ sp) s)) := by
  subst hbusy hwas
  unfold spareTestDone
  rw [if_pos (by rw [hf, hb]; rfl)]
  rfl

/-- A request for one acre's test, which is neither queued, running nor planned, joins the queue. -/
theorem testRequest_one {data : Word} (hgo : fldOf F.rlyTestreqGo data = 1) (hall : fldOf F.rlyTestreqAll data = 0)
    (hacre : fldOf F.rlyTestreqAcre data < 68) (hg : g = fldOf F.rlyTestreqDie data * 68 + fldOf F.rlyTestreqAcre data)
    (hq : s.testQ.contains g = false) (ht : s.testing.contains g = false)
    (hs : s.swaps.any (fun j => j.old = g && j.why = .rotation) = false) {u : State}
    (hu : u = regSet (rlyB + 0x10C) (fldPut F.rlyTestreqAcre (fldOf F.rlyTestreqAcre data) (fldPut F.rlyTestreqDie (fldOf F.rlyTestreqDie data)
      (fldPut F.rlyTestreqAll 0 0))) s) :
    testRequest data s = serveTests { u with testQ := s.testQ ++ [g] } := by
  have new : [g].filter (fun g => !s.testQ.contains g && !s.testing.contains g && !s.swaps.any (fun j => j.old = g && j.why = .rotation)) = [g] :=
    List.filter_eq_self.2 fun y hy => by rw [List.mem_singleton.1 hy, hq, ht, hs]; rfl
  subst hu
  unfold testRequest
  dsimp only
  rw [hall, if_neg Nat.zero_ne_one, if_pos hacre, ← hg, new, if_pos ⟨hgo, Bool.eq_false_iff.1 hf⟩]
  rfl

/-! ### Atomic adds (R113 to R115, R332) -/

/-- The oldest add of an acre, of FP32 values, is applied and counted; the last of a drained course completes it. -/
theorem atomicAdd_fp {q : AtomicAdd} {rest : List AtomicAdd} (hq : (getAcre s g).atomics = q :: rest) (hfp : q.fp = true) :
    atomicAdd g s = finishIfDone g (wrLE q.addr 4 (fadd (BitVec.ofNat 32 (rdLE s q.addr 4)) q.val).toNat
      (modRun g (fun r => { r with act := actAdd (g / 68) actRsv 1 r.act }) (modAcre g (fun a => { a with atomics := rest }) s))) := by
  unfold atomicAdd
  rw [hq]
  dsimp only
  rw [if_neg (Bool.eq_false_iff.1 hf), if_pos hfp]

end

/-- The scrubber of a running acre passes to the next line of a pass that is not over (R324). -/
theorem scrubLine_clean {s : State} {g : Nat} (hl : acreLive s g = true) (hn : (getAcre s g).scrubLine < 4095) (cycle : Nat) :
    scrubLine g [] cycle s = modAcre g (fun x => { x with scrubLine := (getAcre s g).scrubLine + 1 }) s := by
  unfold scrubLine
  rw [if_pos (by rw [hl]; rfl)]
  dsimp only
  rw [if_neg (by omega), Nat.mod_eq_of_lt (by omega), List.foldl_nil]

/-- RUN in a write of FRW_SPTEST sets the interval and starts the test (R90). -/
theorem spareTestRun_run {s u : State} {g : Nat} {data : Word} (hrun : fldOf F.frwSptestRun data = 1)
    (hu : u = modAcre g (fun a => { a with spTest := s.counter }) (setF (frwB g) F.frwSptestIntervalLog2 (fldOf F.frwSptestIntervalLog2 data) s)) :
    Machine.spareTestRun g data s = spareTestStart g u := by
  unfold Machine.spareTestRun
  rw [if_pos hrun, hu]

/-- Settles O4: each clause is the equation of its command's meaning at a state that meets the premises. -/
theorem scratchpadAccessesAndScrubs : Obligations.ScratchpadAccessesAndScrubs := by
  refine ⟨?read, ?write, ?aliasWrite, ?eccWriteback, ?columnRepairDone, ?scrubLine, ?mgmtWordTimeout, ?reservoirScrub, ?spareTestRun,
    ?spareSelfTest, ?spareTestDone, ?acreTestRequest, ?atomicAdd⟩
  case read =>
    intro s x g hg hf ha ho hc ht hw he hown hp hr
    exact congrArg Host.Outcome.next (spadAccess_read hf hg ha ho hc ht hown rfl hw he hp hr)
  case write =>
    intro s x g hg hf ha ho hc ht hw he hown hp
    exact congrArg Host.Outcome.next (spadAccess_write hf hg ha ho hc ht hown rfl hw he hp)
  case aliasWrite =>
    intro s x set g off addr old d hg hoff haddr hold hd hf ha hc he hown hp
    exact congrArg Host.Outcome.next (aliasWrite_admitted hf hg ha hoff haddr hold hd hc he hown hp set)
  case eccWriteback =>
    intro s die acre w hf
    exact congrArg Host.Outcome.next (eccWriteback_running hf w)
  case columnRepairDone =>
    rintro s die acre bank _ c st rfl hst hf hc
    exact congrArg Host.Outcome.next (columnDone_repairing hf hst hc)
  case scrubLine =>
    rintro s die acre cycle _ rfl hl hn
    exact congrArg Host.Outcome.next (scrubLine_clean hl hn cycle)
  case mgmtWordTimeout =>
    intro s die acre off hf
    exact congrArg Host.Outcome.next (mgmtTimeout_write hf die.val acre.val off)
  case reservoirScrub =>
    intro s die line dirty loc hf
    exact congrArg Host.Outcome.next (reservoirScrub_corrected hf die.val line dirty loc)
  case spareTestRun =>
    rintro s p die acre data _ u rfl hu hg hrun hf
    exact congrArg Host.Outcome.next ((ownedWrite_ok _ _ hg).trans ((spareTestRun_run hrun hu).trans (spareTestStart_running hf)))
  case spareSelfTest =>
    rintro s die acre _ rfl hi hf
    exact congrArg Host.Outcome.next (spareSelfTest_due hf hi)
  case spareTestDone =>
    rintro s die acre sp _ busy was rfl hbusy hwas hf hb
    exact congrArg Host.Outcome.next (spareTestDone_pass hf hbusy hwas hb)
  case acreTestRequest =>
    intro s p data g u hw hgo hall hf hacre hg hq ht hs hu
    exact congrArg Host.Outcome.next ((ownedWrite_ok _ _ hw).trans (testRequest_one hf hgo hall hacre hg hq ht hs hu))
  case atomicAdd =>
    rintro s die acre _ q rest rfl hq hf hfp
    exact congrArg Host.Outcome.next (atomicAdd_fp hf hq hfp)

end Sys2Proof.Proofs
end

section
/-! Passes, residue compares and weight loads of an acre's Furrow macros (R59, R62, R69, R72, R73, R78, R81, R82). -/

namespace Sys2Proof.Proofs

open Sys2Proof Sys2Proof.Machine Sys2Proof.Laws

@[simp] theorem withSome_some {α : Type} (x : α) (f : α → State → State) (s : State) : withSome (some x) f s = f x s := rfl

/-- A fault of an acre stops the course that runs on it and is reported as that course's (R286). -/
theorem faultRun_running {s : State} {g : Nat} {c : CourseRun} (hr : (getAcre s g).run = some c) (code cls ix : Nat) :
    faultRun g code cls ix s = reportFault g code cls ix c (modAcre g (fun a => { clearFlight a with run := none }) s) := by
  rw [faultRun, hr, withSome_some]

/-- What the m-th of the macros puts out in a round of a course, the hardware's errors in it (R57, R78). -/
def macroOut (a : Acre) (c : CourseRun) (errs : List PassErr) (r : Round) (m : Nat) : List Int :=
  withErrs m errs (passOut (decide (dWfmt c.desc = 1)) (xfmtOf (dXfmt c.desc)) (setRows (roundRows a r m)) (r.xs.getD m []))

/-- Does an output of the m-th of the macros pass the round's residue compare (R78)? -/
def macroMatches (a : Acre) (c : CourseRun) (r : Round) (m : Nat) (out : List Int) : Bool :=
  residueOk (decide (dWfmt c.desc = 1)) (setRows (roundRows a r m)) (r.xs.getD m []) out

section

variable {s : State} {g : Nat} {a : Acre} (ha : a = getAcre s g) (hl : acreLive s g = true)
include ha hl

/-! ### Passes (R59, R73) -/

section

variable {c : CourseRun} {n tok : Nat} (hr : a.run = some c) (hk : dKind c.desc = 1)
  (hp : passPos a c (walkTiles c.desc c.bounds + 1) c.tile = some (n, tok))
include hr hk hp

/-- The next pass of a course that does not yield goes to all the macros once their sets and its input are there. -/
theorem furrowPass_issued (hh : a.held = false) {x : Acc} {q f xa : Nat} {sel : Bool} (hf : f = fillOf c.desc c.bounds n)
    (hx : x = getAcc a (accOf f)) (hq : q = weightTile c.desc c.bounds n) (hsel : sel = decide (q % 2 = 1))
    (hy : c.yielding = false) (hsets : setsReady a c.sn q = true) (hxt : xTile s c n = some xa) (stall : Nat) :
    furrowPass g stall s = bumpPair (acrB g) 0x108 stall
      (modRun g (fun y => { y with tile := n, act := actAdd (g / 68) (if xBits (xfmtOf (dXfmt c.desc)) = 8 then actPass8 else actPass4) 64 y.act })
        (setAcre g (putAcc (accOf f) { x with st := .fill, issued := x.issued + 1 }
          { a with
            rounds := a.rounds ++ [{ setB := sel, acc := accOf f, fill := f, tile := n, tok := tok
                                     xs := (List.range 64).map (passInput s c.desc (tilePos c.desc c.bounds n) xa tok x.e) }]
            macros := a.macros.map (fun (e : Nat × Macro) =>
              (e.1, { putSet sel { Machine.setOf e.2 sel with st := .active } e.2 with cset := sel })) }) s)) := by
  subst ha hf hx hq hsel
  unfold furrowPass
  simp only [hr]
  rw [if_pos (by rw [hl, hk, hh]; rfl), hp]
  dsimp only
  rw [if_neg (by rw [hy]; exact Bool.false_ne_true), if_pos hsets, hxt]

/-- A pass whose sets are not ready when its wait ends faults its course. -/
theorem setNotReady_waited (hsets : setsReady a c.sn (weightTile c.desc c.bounds n) = false) :
    setNotReady g s = reportFault g 0x4B 3 g c (modAcre g (fun a => { clearFlight a with run := none }) s) := by
  subst ha
  unfold setNotReady
  simp only [hr, hp]
  rw [if_pos (by rw [hl, hk, hsets]; rfl), faultRun_running hr]

end

/-! ### The residue compare and the repeat of a pass (R78, R81, R82) -/

section

variable {c : CourseRun} {r : Round} {rest : List Round} (hr : a.run = some c) (hrd : a.rounds = r :: rest)
include hr hrd

/-- The head round's compare: the macros that match hand over their outputs, and one that does not stops issue. -/
theorem passCompare_head (hh : a.held = false) (hc : r.compared = false) {errs : List PassErr} {res : List (Nat × List Int × Bool)} {r1 : Round}
    (hres : res = (List.range 64).map (fun m => (m, macroOut a c errs r m, macroMatches a c r m (macroOut a c errs r m))))
    (hr1 : r1 = { r with
      outs := (res.filter (fun t => t.2.2)).map (fun t => (t.1, t.2.1)), bad := (res.filter (fun t => !t.2.2)).map (fun t => t.1), compared := true }) :
    passCompare g errs s = if r1.bad.isEmpty
      then commitRound g (setAcre g { a with rounds := r1 :: rest, held := false } s)
      else setAcre g { a with rounds := r1 :: rest, held := true } s := by
  unfold macroOut macroMatches at hres
  subst ha
  unfold passCompare
  simp only [hr, hrd]
  rw [if_pos (by rw [hl, hh, hc]; rfl), ← hres]
  subst hr1
  cases hb : ((res.filter (fun t => !t.2.2)).map (fun t => t.1)).isEmpty <;> rfl

/-- A repeat that matches takes one off the bad macros of its round, which waits while others are still bad. -/
theorem repeatDone_matched {m : Nat} {errs : List PassErr} {cycle : Nat} {out : List Int} {bad : List Nat} (hm : r.bad.contains m = true)
    (hout : out = macroOut a c errs r m) (hok : macroMatches a c r m out = true)
    (ht : thirdTransient (getMacro a m).transients cycle = false) (hbad : bad = r.bad.filter (· ≠ m)) (hne : bad ≠ []) :
    repeatDone g m errs cycle s = macroEvent g (physMacro s g m) 0x48 (bumpF (frwB g) F.frwEvtTransients 1
      (setAcre g (setMacro m { getMacro a m with transients := (cycle :: (getMacro a m).transients).take 3 }
        { a with rounds := { r with outs := insertK r.outs m out, bad := bad } :: rest }) s)) := by
  unfold macroOut at hout
  unfold macroMatches at hok
  subst ha
  unfold repeatDone
  simp only [hr, hrd]
  rw [if_pos (by rw [hl, hm]; rfl), ← hout, ← hbad, if_pos hok, ht, if_neg Bool.false_ne_true, if_neg (by simpa using hne)]

end

/-! ### Weight loads (R69, R72) -/

/-- The chosen tile's load takes a set that is neither in use nor loading, from a source without poison. -/
theorem weightLoadStart_chosen {m : Nat} {c : CourseRun} {q : Nat} {sel : Bool} (hc : loadChoice a m = some (c, q)) (hsel : sel = decide (q % 2 = 1))
    (hact : (Machine.setOf (getMacro a m) sel).st ≠ .active) (hld : (Machine.setOf (getMacro a m) sel).st ≠ .loading)
    (hf : loadFault s (tilePos c.desc c.bounds (weightFirst c.desc c.bounds q)) m = none) :
    weightLoadStart g m s = modAcre g (setMacro m
      { putSet sel { st := .loading, int4 := dWfmt c.desc = 1, rows := [], tile := some (c.sn, q) } (getMacro a m) with rows := 1 }) s := by
  subst ha hsel
  unfold weightLoadStart
  simp only [hc]
  rw [if_pos (by rw [hl, decide_eq_true hact, decide_eq_true hld]; rfl), hf]

/-- Set A's load for the running course ends: its 64 rows hold the tile's weights and it is READY. -/
theorem weightLoadDone_setA {m : Nat} {c : CourseRun} {q : Nat} (hr : a.run = some c)
    (hst : (Machine.setOf (getMacro a m) false).st = .loading) (ht : (Machine.setOf (getMacro a m) false).tile = some (c.sn, q)) :
    weightLoadDone g m s = modRun g (fun y => { y with act := actAdd (g / 68) actLineRd 64 (actAdd (g / 68) actRow 64 y.act) })
      (modAcre g (setMacro m { putSet false { Machine.setOf (getMacro a m) false with
          st := .ready, rows := loadRows s c.desc (tilePos c.desc c.bounds (weightFirst c.desc c.bounds q)) m } (getMacro a m) with rows := 64 }) s) := by
  subst ha
  unfold weightLoadDone
  rw [if_pos hl]
  simp only [hst, ht, hr, if_true]

end

/-- Settles O5: each clause is the equation of its command's meaning at a state that meets the premises. -/
theorem furrowPassesAndWeightLoads : Obligations.FurrowPassesAndWeightLoads := by
  refine ⟨?furrowPass, ?passResidueCompare, ?residueRepeatDone, ?weightLoadStart, ?weightLoadDone, ?setNotReady⟩
  case furrowPass =>
    rintro s die acre stall _ n tok xa f q a c x sel rfl ha hr hl hk hh hp hf hx hq hsel hy hsets hxt
    exact congrArg Host.Outcome.next (furrowPass_issued ha hl hr hk hp hh hf hx hq hsel hy hsets hxt stall)
  case passResidueCompare =>
    rintro s die acre errs _ a c r r1 rest res rfl ha hr hrd hl hh hc hres hr1
    exact congrArg Host.Outcome.next (passCompare_head ha hl hr hrd hh hc hres hr1)
  case residueRepeatDone =>
    rintro s die acre m errs cycle _ a c r rest out bad rfl ha hr hrd hl hm hout hok ht hbad hne
    exact congrArg Host.Outcome.next (repeatDone_matched ha hl hr hrd hm hout hok ht hbad hne)
  case weightLoadStart =>
    rintro s die acre m _ q a c sel rfl ha hc hsel hl hact hld hf
    exact congrArg Host.Outcome.next (weightLoadStart_chosen ha hl hc hsel hact hld hf)
  case weightLoadDone =>
    rintro s die acre m _ q a c rfl ha hr hl hst ht
    exact congrArg Host.Outcome.next (weightLoadDone_setA ha hl hr hst ht)
  case setNotReady =>
    rintro s die acre _ n tok a c rfl ha hr hl hk hp hsets
    exact congrArg Host.Outcome.next (setNotReady_waited ha hl hr hk hp hsets)

end Sys2Proof.Proofs
end

section
/-! Trickle, the states of the acres, Idle and Deep (R76, R327, R488 to R497, R626). -/

namespace Sys2Proof.Proofs

open Sys2Proof Sys2Proof.Machine Sys2Proof.Laws

/-! ### Regulator alerts and Trickle -/

section

variable {s : State} {rail : Rail}

/-- A new alert on a rail that is on is latched; outside freeze and Deep it enters Trickle (R488, R598). -/
theorem regulatorAlert_new (hp : s.power.phase ≠ .off) (ha : s.ditch.alerts.contains rail = false) (ho : s.ditch.railsOff.contains rail = false) {u : State}
    (hu : u = setDitch (fun x => { x with alerts := x.alerts ++ [rail], exitDue := false }) s) :
    regulatorAlert rail s = if frozen u || inLevel 2 u then u else trickleEnter u := by
  unfold regulatorAlert
  rw [if_neg (by rw [decide_eq_false hp, ha, ho]; decide), hu]

theorem regulatorClear_latched (hp : s.power.phase ≠ .off) (ha : s.ditch.alerts.contains rail = true) :
    regulatorClear rail s = setDitch (fun x => { x with alerts := x.alerts.filter (· ≠ rail), clearAt := s.counter }) s := by
  unfold regulatorClear
  rw [if_pos (by rw [decide_eq_true hp, ha]; rfl)]

end

section

variable {s : State} (hf : frozen s = false)
include hf

/-- The hold has passed since the last alert cleared (R488). -/
theorem trickleHoldEnd_due (hl : inLevel 3 s = true) (ha : s.ditch.alerts = []) (hc : s.ditch.clearAt + 25000 ≤ s.counter) :
    trickleHoldEnd s = setDitch (fun x => { x with exitDue := true }) s := by
  unfold trickleHoldEnd
  rw [if_pos (by simp [hf, hl, ha, hc])]

section

variable {rail : Rail} (hl : inLevel 3 s = true) (ha : s.ditch.alerts.contains rail = true) (hr : rail ≠ .input)
include hl ha hr

/-- 2 ms after entry an alerting rail of the module loses its failing phase, once (R489). -/
theorem phaseDisable_due (hd : s.ditch.phaseDone.contains rail = false) (hc : s.ditch.trickleAt + 50000 ≤ s.counter) (phase : Nat) :
    phaseDisable rail phase s = retargetAll (showCap (setDitch (fun x => { x with
        phases := x.phases ++ (if x.phases.contains (rail, phase) then [] else [(rail, phase)]), phaseDone := x.phaseDone ++ [rail], capDue := true })
      (drdEvent 0x02 1 0 [railNum rail, phase] s))) := by
  unfold phaseDisable
  rw [if_pos (by rw [hf, hl, ha, hd, decide_eq_true hr, decide_eq_true hc]; rfl)]

/-- 8 ms after entry a rail that still alerts is turned off, and its units leave service (R489). -/
theorem railOff_due (hc : s.ditch.trickleAt + 200000 ≤ s.counter) :
    railOff rail s = setDitch (fun x => { x with exitDue := x.alerts.isEmpty }) (railUnits rail
      (setDitch (fun x => { x with alerts := x.alerts.filter (· ≠ rail), railsOff := x.railsOff ++ [rail] }) (drdEvent 0x03 1 0 [railNum rail] s))) := by
  unfold railOff
  rw [if_pos (by rw [hf, hl, ha, decide_eq_true hr, decide_eq_true hc]; rfl)]

end

/-! ### The states of an acre -/

variable {g : Nat}

/-- A still, quiet acre without a full gate entry dries: its memories are lost but for the retained banks (R327, R491). -/
theorem acreDry_quiet (hs : (getAcre s g).pw = .still) (hq : quiet s g = true) (hg : gatesFull s g = false) : acreDry g s = enterDry g s := by
  unfold acreDry
  rw [if_pos (by rw [hf, decide_eq_true hs, hq, hg]; rfl)]

theorem acreWake_targeted (hl : inLevel 2 s = false) (hi : inService s g = true) (hr : (getAcre s g).retired = false)
    (hs : (getClk s (g / 68)).still = none) : acreWake g s = wakeFor g s := by
  unfold acreWake
  rw [if_neg (by rw [hf, hl, hi, hr, hs]; decide)]

/-- A wake's end puts the acre in Flow, moves on the swaps that waited for it, and starts the wakes that may follow (R492, R493). -/
theorem acreWakeDone_waking (hw : (getAcre s g).wake.isSome = true) {u : State} (hu : u = modAcre g (fun a => { a with wake := none, pw := .flow }) s) :
    acreWakeDone g s = drainWakes u.wakeQ.length { u with swaps := u.swaps.map (fun j =>
      if j.new = g && decide (j.phase = .waking) then { j with phase := if j.why = .fault then .copying else .waiting } else j) } := by
  unfold acreWakeDone
  rw [if_neg (by rw [hf, ← Option.not_isSome, hw]; decide), hu]

/-! ### Idle and Deep -/

theorem idleEntry_quiet (hl : inLevel 0 s = true) (hb : busyModule s = false) :
    idleEntry s = setLevel 1 (((List.range 272).filter (fun g =>
      (decide ((getAcre s g).pw = .flow) || decide ((getAcre s g).pw = .still)) && quiet s g && !gatesFull s g)).foldl (fun t g => enterDry g t) s) := by
  unfold idleEntry
  rw [if_neg (by rw [hf, hl, hb]; decide)]

/-- A pending request meets an Idle module without work: every acre falls to Fallow and no wake stays (R497). -/
theorem deepEntry_pending (hl : inLevel 1 s = true) (hp : getF s drdB F.drdLevelPending ≠ 0) (hb : busyModule s = false) {u : State}
    (hu : u = ((List.range 272).filter (fun g => decide ((getAcre s g).pw ≠ .fallow))).foldl (fun t g => enterFallow g t) s) :
    deepEntry s = refreshClosed (setLevel 2 (setF drdB F.drdLevelPending 0 (setDitch (fun x => { x with deepWake := false })
      { u with acres := u.acres.map (fun e => (e.1, { e.2 with wake := none })), wakeQ := [] }))) := by
  unfold deepEntry
  rw [if_neg (by rw [hf, hl, hb, decide_eq_false hp]; decide), hu]

/-- The wake from Deep ends in Idle, and the acres in service start to wake from Fallow (R493, R497). -/
theorem deepWakeDone_waking (hl : inLevel 2 s = true) (hw : s.ditch.deepWake = true) {u : State}
    (hu : u = setLevel 1 (setDitch (fun x => { x with deepWake := false }) s)) :
    deepWakeDone s = refreshClosed (setF drdB F.drdLevelPending (getF u drdB F.drdLevelDeepReq)
      ((((List.range 4).flatMap (serviceAcres s)).filter (fun g => !(getAcre s g).retired)).foldl (fun t g => startWake g 2 t) u)) := by
  unfold deepWakeDone
  rw [if_neg (by rw [hf, hl, hw]; decide), hu]

end

theorem acreStill_quiet {s : State} {g : Nat} (hl : acreLive s g = true) (hq : quiet s g = true) :
    acreStill g s = modAcre g (fun a => { a with pw := .still }) s := by
  unfold acreStill
  rw [if_pos (by rw [hl, hq]; rfl)]

/-- The two commands of DRD_LEVEL tell apart the write that sets DEEP_REQ and the one that clears it (R497, R501). -/
theorem deepRequest_granted {s : State} {p : Path} {data : Word} {set : Bool} (hg : writeGrant s p drdB = .ok) (hd : data.getLsbD 2 = set) :
    deepRequest p set data s = levelWrite data s := by
  unfold deepRequest
  rw [if_pos hd, ownedWrite_ok _ _ hg]

/-- Settles O22: each clause is the equation of its command's meaning at a state that meets the premises. -/
theorem powerStates : Obligations.PowerStates := by
  refine ⟨?regulatorAlert, ?regulatorAlertClear, ?trickleHoldEnd, ?phaseDisable, ?railOff, ?acreStill, ?acreDry, ?acreWake, ?acreWakeDone,
    ?idleEntry, ?deepRequest, ?deepRequestEnd, ?deepEntry, ?deepWakeDone⟩
  case regulatorAlert =>
    intro s rail u hp ha ho hu
    exact congrArg Host.Outcome.next (regulatorAlert_new hp ha ho hu)
  case regulatorAlertClear =>
    intro s rail hp ha
    exact congrArg Host.Outcome.next (regulatorClear_latched hp ha)
  case trickleHoldEnd =>
    intro s hf hl ha hc
    exact congrArg Host.Outcome.next (trickleHoldEnd_due hf hl ha hc)
  case phaseDisable =>
    intro s rail phase hf hl ha hr hd hc
    exact congrArg Host.Outcome.next (phaseDisable_due hf hl ha hr hd hc phase)
  case railOff =>
    intro s rail hf hl ha hr hc
    exact congrArg Host.Outcome.next (railOff_due hf hl ha hr hc)
  case acreStill =>
    rintro s die acre _ rfl hl hq
    exact congrArg Host.Outcome.next (acreStill_quiet hl hq)
  case acreDry =>
    rintro s die acre _ rfl hf hs hq hg
    exact congrArg Host.Outcome.next (acreDry_quiet hf hs hq hg)
  case acreWake =>
    rintro s die acre _ rfl hf hl hi hr hs
    exact congrArg Host.Outcome.next (acreWake_targeted hf hl hi hr hs)
  case acreWakeDone =>
    rintro s u die acre _ rfl hf hw hu
    exact congrArg Host.Outcome.next (acreWakeDone_waking hf hw hu)
  case idleEntry =>
    intro s hf hl hb
    exact congrArg Host.Outcome.next (idleEntry_quiet hf hl hb)
  case deepRequest =>
    intro s p data hg hd
    exact congrArg Host.Outcome.next (deepRequest_granted hg hd)
  case deepRequestEnd =>
    intro s p data hg hd
    exact congrArg Host.Outcome.next (deepRequest_granted hg hd)
  case deepEntry =>
    intro s u hf hl hp hb hu
    exact congrArg Host.Outcome.next (deepEntry_pending hf hl hp hb hu)
  case deepWakeDone =>
    intro s u hf hl hw hu
    exact congrArg Host.Outcome.next (deepWakeDone_waking hf hl hw hu)

end Sys2Proof.Proofs
end

section
/-! Accumulators, the course slots of an acre, and the tiles of VECTOR courses (R94 to R129, R252 to R261, R307, R652, R654). -/

namespace Sys2Proof.Proofs

open Sys2Proof Sys2Proof.Machine Sys2Proof.Laws

/-! ### Accumulators (R100 to R104, R111) -/

section

variable {s : State} {g : Nat} (hl : acreLive s g = true)
include hl

/-- A fill without a preload source starts from zeros, at exponent 0 (R103, R104). -/
theorem accPreloadStart_zeros {c : CourseRun} (hr : (getAcre s g).run = some c) (hk : dKind c.desc = 1) (hy : c.yielding = false)
    (hn : c.nextFill < fillCount c.desc c.bounds) (hi : (getAcc (getAcre s g) (accOf c.nextFill)).st = .idle)
    (hz : fillKind c.desc c.bounds c.nextFill = 0) :
    accPreloadStart g s = modRun g (fun r => { r with
        nextFill := max r.nextFill (c.nextFill + 1), act := actAdd (g / 68) actAcc (preCycles r.desc r.bounds c.nextFill) r.act })
      (modAcre g (putAcc (accOf c.nextFill) { st := .preload, e := 0, eSrc := 0, ents := [], fill := c.nextFill }) s) := by
  have hp : preload s c c.nextFill 0 = .ents [] 0 := by
    unfold preload
    simp only [hz]
  unfold accPreloadStart
  rw [hr]
  dsimp only
  rw [if_pos (by simp [hl, hk, hy, hn, hi]), startPreload, hr]
  dsimp only
  rw [hp]
  rfl

theorem accPreloadDone_preloading {b : Bool} {x : Acc} (hx : x = getAcc (getAcre s g) b) (hst : x.st = .preload) :
    accPreloadDone g b s = modAcre g (putAcc b { x with st := .ready }) s := by
  subst hx
  unfold accPreloadDone
  rw [if_pos (by rw [hl, hst]; rfl)]

section

variable {b : Bool} {x : Acc} {c : CourseRun} (hx : x = getAcc (getAcre s g) b) (hr : (getAcre s g).run = some c)
include hx hr

/-- A fill that has committed drains to the park area or to its output's place, where no chain holds it back and it adds nothing
atomically (R100, R102). -/
theorem accDrain_committed (hst : x.st = .fill) (hc : x.commits = fillRounds c x.fill)
    (hout : toPark c.desc c.bounds x.fill = true ∨ coutSlot s c x.fill = none ∧ dRedmode c.desc ≠ 1) :
    accDrain g b s = releaseInputs c x.fill (modRun g (fun r => { r with act := actAdd (g / 68) actAcc 128 r.act })
      (modAcre g (putAcc b { x with st := .drain }) s)) := by
  subst hx
  unfold accDrain
  simp only [hr]
  rcases hout with hp | ⟨hs, hm⟩
  · rw [if_pos (by simp [hl, hst, hc, hp]), if_neg (by simp [hp])]
  · rw [if_pos (by simp [hl, hst, hc, hs]), if_neg (by simp [hm])]

theorem accDrainDone_draining (hst : x.st = .drain) :
    accDrainDone g b s = yieldIfDrained g (finishIfDone g (modRun g (fun r => { r with
        drained := r.drained + 1, spillExp := max r.spillExp x.e
        spillTiles := if (!toPark c.desc c.bounds x.fill && decide (x.e > 0)) = true then min 65535 (r.spillTiles + 1) else r.spillTiles })
      (modAcre g (putAcc b {}) (drainWrite c x s)))) := by
  subst hx
  unfold accDrainDone
  simp only [hr]
  rw [if_pos (by rw [hl, hst]; rfl)]

end

end

/-! ### The slots of an acre's courses (R94, R96, R254, R307) -/

/-- A course leaves the running slot only once both accumulators have drained (R96). -/
theorem yieldIfDrained_filling {t : State} {g : Nat} (h : (getAcre t g).acc0.st = .fill) : yieldIfDrained g t = t := by
  unfold yieldIfDrained
  cases hr : (getAcre t g).run with
  | none => simp only [hr]
  | some c => simp only [hr, h]; simp

section

variable {s : State} {g : Nat} {a : Acre} (hl : acreLive s g = true) (ha : a = getAcre s g)
include hl ha

/-- With one fill open and nothing preloaded, no fill is given back when the course begins to yield (R96). -/
theorem courseYield_filling {c p : CourseRun} (hr : a.run = some c) (hp : a.pend = some p) (hc : courseYields c = true)
    (hg : courseYields p = false) (hy : c.yielding = false) (h0 : a.acc0.st = .fill) (h1 : a.acc1.st = .idle) :
    courseYield g s = setAcre g { a with run := some { c with yielding := true } } s := by
  subst ha
  unfold courseYield
  simp only [hr, hp]
  rw [if_pos (by rw [hl, hc, hg, hy]; rfl)]
  simp only [h0, h1, List.foldl, reduceCtorEq, or_self, if_false]
  exact yieldIfDrained_filling (by rw [getAcre_setAcre_same, h0])

theorem courseResume_aside {c : CourseRun} (hr : a.run = none) (hp : a.pend = none) (hc : a.aside = some c) :
    courseResume g s = setAcre g { dropTiles a with
      aside := none
      run := some { c with yielded := false, tile := if dKind c.desc = 1 then firstTile c.desc c.bounds c.nextFill else c.tile } } s := by
  subst ha
  unfold courseResume
  simp only [hr, hp, hc]
  rw [if_pos hl]

theorem courseStart_pending {c : CourseRun} (hr : a.run = none) (hp : a.pend = some c) (hh : issueHeld s g = false) :
    courseStart g s = setAcre g { passPairs a with run := some c, pend := none } s := by
  subst ha
  unfold courseStart
  simp only [hr, hp]
  rw [if_pos (by rw [hl, hh]; rfl)]

end

/-- A course that its executor wants and the checks accept goes on to the executor (R254). -/
theorem issueCourse_accepted {s : State} {iss : Issue} {im : Image} {d : List Byte} {bs : List Nat} {want : Image → List Byte → Bool}
    (k : Image → List Byte → List Nat → State → State) (hd : courseDesc s iss = some (im, d)) (hw : want im d = true)
    (hc : issueCheck s iss im d = .ok bs) : issueCourse iss want k s = k im d bs (countIssue s) := by
  unfold issueCourse
  rw [hd]
  dsimp only
  rw [if_pos hw, hc]

theorem matmulCourse_accepted {s : State} {iss : Issue} {im : Image} {d : List Byte} {bs : List Nat}
    (hd : courseDesc s iss = some (im, d)) (hk : dKind d = 1) (hf : slotFree s d = true) (hc : issueCheck s iss im d = .ok bs)
    {u : State} (hu : u = countIssue s) {g : Nat} (hg : g = execAcre u d) :
    matmulCourse iss s = bumpSerial (writePairs g iss.image d
      { modAcre g (fun a => { a with pend := some (newRun u iss im d bs) }) u with issued := setK u.issued g (getK u.issued g 0 + 1) 0 }) := by
  subst hu hg
  exact issueCourse_accepted _ hd (by simp [hk, hf]) hc

/-- Settles O6: each clause is the equation of its command's meaning at a state that meets the premises. -/
theorem accumulatorsAndCourseSlots : Obligations.AccumulatorsAndCourseSlots := by
  refine ⟨?accPreloadStart, ?accPreloadDone, ?accDrainPark, ?accDrainOut, ?accDrainDone, ?courseYield, ?courseResume, ?courseStart, ?matmulCourse⟩
  case accPreloadStart =>
    rintro s die acre _ c rfl hr hl hk hy hn hi hz
    exact congrArg Host.Outcome.next (accPreloadStart_zeros hl hr hk hy hn hi hz)
  case accPreloadDone =>
    rintro s die acre acc1 _ x rfl hx hl hst
    exact congrArg Host.Outcome.next (accPreloadDone_preloading hl hx hst)
  case accDrainPark =>
    rintro s die acre acc1 _ x c rfl hx hr hl hst hc hp
    exact congrArg Host.Outcome.next (accDrain_committed hl hx hr hst hc (.inl hp))
  case accDrainOut =>
    rintro s die acre acc1 _ x c rfl hx hr hl hst hc _ hs hm
    exact congrArg Host.Outcome.next (accDrain_committed hl hx hr hst hc (.inr ⟨hs, hm⟩))
  case accDrainDone =>
    rintro s die acre acc1 _ x c rfl hx hr hl hst
    exact congrArg Host.Outcome.next (accDrainDone_draining hl hx hr hst)
  case courseYield =>
    rintro s die acre _ a c p rfl ha hr hp hl hc hg hy h0 h1
    exact congrArg Host.Outcome.next (courseYield_filling hl ha hr hp hc hg hy h0 h1)
  case courseResume =>
    rintro s die acre _ a c rfl ha hr hp hc hl
    exact congrArg Host.Outcome.next (courseResume_aside hl ha hr hp hc)
  case courseStart =>
    rintro s die acre _ a c rfl ha hr hp hl hh
    exact congrArg Host.Outcome.next (courseStart_pending hl ha hr hp hh)
  case matmulCourse =>
    intro s iss im d bs u g hd hk hf hc hu hg
    exact congrArg Host.Outcome.next (matmulCourse_accepted hd hk hf hc hu hg)

/-! ### The tiles of a VECTOR course (R124 to R129, R261, R652, R654) -/

section

variable {s : State} {g k x y : Nat} {c : CourseRun}

section

variable {p : TilePos} (hp : p = tilePos c.desc c.bounds c.tile) (hk : k = p.ext.getD 0 0) (hx : tileIn s c c.tile p.x = some x)
  (hfx : readFault s x (elemBytes (latFmtX (dXfmt c.desc)) k) = none)
include hp hk hx hfx

/-- A row or block is mapped and written once its gates let it through and neither source reads uncorrectable (R261, R652). -/
theorem mapTile_done (hy : tileOut s c c.tile p.y = some y) (f : State → List Byte → TilePos → List Word → List Word)
    (par : List Byte → TilePos → Nat → Nat × Nat) (hfp : readFault s (par c.desc p k).1 (par c.desc p k).2 = none)
    {xs : List Word} (hxs : xs = rdVec s (latFmtX (dXfmt c.desc)) x k) :
    mapTile g f par c c.tile s = .done (chargeTile g (vecCycles (dOp c.desc) k 1 ((dScales c.desc).testBit 2))
      (x, elemBytes (latFmtX (dXfmt c.desc)) k) (y, rowBytes c.desc k)
        (tileFilled c c.tile (tileDrained c c.tile (writeRow c.desc y (f s c.desc p xs) s)))) := by
  subst hk hp hxs
  unfold mapTile
  simp only [hx, hy, hfx, hfp]

/-- A softmax block goes on from what the row's earlier blocks left in the Lateral engine (R126). -/
theorem softTile_done (hy : tileOut s c c.tile p.y = some y) {m l al : Word}
    (hm : (m, l, al) = getK (getAcre s g).soft c.tile (f32NegInf, 0, 0)) {o : SoftOut}
    (ho : o = softBlock m l (rdVec s (latFmtX (dXfmt c.desc)) x k)) :
    softTile g c c.tile s = .done (chargeTile g (vecCycles 0x13 k 1 false) (x, elemBytes (latFmtX (dXfmt c.desc)) k) (y, k)
      (tileFilled c c.tile (tileDrained c c.tile
        (modAcre g (fun a => { a with soft := setK a.soft c.tile (o.m, o.l, o.alpha) (f32NegInf, 0, 0) })
          (wrMem y (o.pq.map (BitVec.ofNat 8)) s))))) := by
  subst hk hp ho
  unfold softTile
  simp only [hx, hy, hfx, ← hm]

/-- A token's routing record goes to its place at Y, and its choices are counted in the course's histogram (R127). -/
theorem routeTile_done {zs : List Word} (hzs : zs = rdVec s (latFmtX (dXfmt c.desc)) x k) :
    routeTile g c c.tile s = .done (chargeTile g (vecCycles 0x14 k (routeK c.desc) false)
      (x, elemBytes (latFmtX (dXfmt c.desc)) k) (physAddr (dY c.desc) + 80 * c.tile, 80)
        (tileDrained c c.tile (modRun g (fun r => { r with hist := histAdd (routeSel zs (routeK c.desc)) r.hist })
          (wrMem (physAddr (dY c.desc) + 80 * c.tile) (routeRecord zs (routeK c.desc)) s)))) := by
  subst hk hp hzs
  unfold routeTile
  simp only [hx, hfx]

end

/-- A row of logits gives its token by the row's record (R129). -/
theorem sampleTile_done {v : Nat} (hv : v = c.bounds.getD 0 0)
    (hx : tileIn s c c.tile (physAddr (dX c.desc) + 4 * v * c.tile) = some x)
    (hy : tileOut s c c.tile (physAddr (dY c.desc) + 4 * c.tile) = some y) (hfx : readFault s x (4 * v) = none)
    (hfp : readFault s (physAddr (dP c.desc) + 32 * c.tile) 32 = none) {zs : List Word} (hzs : zs = rdVec s .fp32 x v)
    {r : RowRec} (hr : r = rdRowRec s (physAddr (dP c.desc) + 32 * c.tile)) :
    sampleTile g c c.tile s = .done (chargeTile g (sampleCycles r zs) (x, 4 * v) (y, 4)
      (tileFilled c c.tile (tileDrained c c.tile (wrLE y 4 (sampleRow r zs) s)))) := by
  subst hv hzs hr
  unfold sampleTile
  simp only [hx, hy, hfx, hfp]

/-- Rows that belong to no stream have no token noted. -/
theorem stepSampleTile_nil (n : Nat) : stepSampleTile [] g c n s = sampleTile g c n s := by
  unfold stepSampleTile
  cases sampleTile g c n s <;> rfl

/-- A gather chain whose slots are all full is summed in ascending contributor index; floating partials have no exponent byte (R116). -/
theorem orderedTile_done {ch : Chain} {n : Nat} {slots : List Nat} (hch : getChain s c.issue.image (dCinIx c.desc) = some ch)
    (hy : tileOut s c 0 (physAddr (dY c.desc)) = some y) (hn : n = prodL c.bounds) (hs : slots = (List.range ch.slots).map (slotAddr ch))
    (hfull : (List.range ch.slots).all (fun k => (getGate s c.issue.image (dCinIx c.desc) k).full) = true)
    (hf : (List.range ch.slots).findSome? (fun k => readFault s (slotAddr ch k) (4 * n + 1)) = none) (hfmt : ch.fmt ≠ 0) (t : Nat) :
    orderedTile g c t s = .done (chargeTile g (lanePasses n * ch.slots) (slots.getD 0 0, 4 * n * ch.slots)
      (y, elemBytes (latFmtY (dYfmt c.desc)) n) (tileFilled c 0 ((List.range ch.slots).foldl (fun u k => gateDrain c.issue.image (dCinIx c.desc) k u)
        (writeRow c.desc y ((List.range n).map (fun i => orderedF32 (slots.map (fun a => rdF32 s (a + 4 * i))))) s)))) := by
  subst hn hs
  unfold orderedTile
  simp only [hch, hy]
  rw [if_pos hfull, hf]
  simp only [if_neg hfmt]

end

/-! ### The commands of a running VECTOR course (R252) -/

/-- A course without streams' rows is given no row records. -/
theorem fillRowRecs_nil (iss : Issue) (s : State) : fillRowRecs iss [] s = s := by
  unfold fillRowRecs
  cases courseDesc s iss with
  | none => rfl
  | some e => exact if_pos (by simp)

section

variable {s : State} {iss : Issue} {im : Image} {d : List Byte} {g : Nat} {c : CourseRun} (h : RunsOn s iss im d g c)
include h

/-- The command of a course whose rows are mapped one by one (R124, R125, R652). -/
theorem mapCourse_tile {op k x y : Nat} (hop : isVec op d = true) (hg : isGatherIn s iss d = false)
    (hn : c.tile < walkTiles c.desc c.bounds) {p : TilePos} (hp : p = tilePos c.desc c.bounds c.tile) (hk : k = p.ext.getD 0 0)
    (hx : tileIn s c c.tile p.x = some x) (hy : tileOut s c c.tile p.y = some y)
    (f : State → List Byte → TilePos → List Word → List Word) (par : List Byte → TilePos → Nat → Nat × Nat)
    (hfx : readFault s x (elemBytes (latFmtX (dXfmt c.desc)) k) = none) (hfp : readFault s (par c.desc p k).1 (par c.desc p k).2 = none)
    {xs : List Word} (hxs : xs = rdVec s (latFmtX (dXfmt c.desc)) x k) :
    vecCourse op (fun g => walkOf (mapTile g f par)) iss s = runTiles g (walkOf (mapTile g f par)) (walkTiles c.desc c.bounds)
      (modRun g (fun r => { r with tile := c.tile + 1 })
        (chargeTile g (vecCycles (dOp c.desc) k 1 ((dScales c.desc).testBit 2)) (x, elemBytes (latFmtX (dXfmt c.desc)) k) (y, rowBytes c.desc k)
          (tileFilled c c.tile (tileDrained c c.tile (writeRow c.desc y (f s c.desc p xs) s))))) :=
  vecCourse_tile op (fun g => walkOf (mapTile g f par)) h hop hg hn (mapTile_done hp hk hx hfx hy f par hfp hxs)

/-- The sampling command without streams' rows takes the next tile as the course's sampler gives it (R129). -/
theorem sampling_tile {t : State} (hop : isVec 0x17 d = true) (hg : isGatherIn s iss d = false)
    (hn : c.tile < walkTiles c.desc c.bounds) (ht : sampleTile g c c.tile s = .done t) :
    sampling iss [] s = runTiles g (walkOf (stepSampleTile [] g)) (walkTiles c.desc c.bounds)
      (modRun g (fun r => { r with tile := c.tile + 1 }) t) := by
  unfold sampling
  rw [fillRowRecs_nil]
  exact vecCourse_tile 0x17 (fun g => walkOf (stepSampleTile [] g)) h hop hg hn ((stepSampleTile_nil c.tile).trans ht)

/-- The summing course of a gather chain has one tile (R116, R268). -/
theorem orderedSum_tile {t : State} (hk : dKind d = 4) (hg : isGatherIn s iss d = true) (h0 : c.tile = 0)
    (ht : orderedTile g c c.tile s = .done t) :
    orderedSum iss s = runTiles g { total := fun _ => 1, tile := orderedTile g, last := noLast } 1
      (modRun g (fun r => { r with tile := c.tile + 1 }) t) := by
  unfold orderedSum
  have ⟨hd, hex, _⟩ := h
  rw [hd]
  dsimp only
  rw [← hex]
  exact laneCourse_tile _ { total := fun _ => 1, tile := orderedTile g, last := noLast } h (by simp [hk, hg])
    (by rw [h0]; exact Nat.one_pos) ht

end

/-- Settles O7: each clause is the equation of its command's meaning at a state that meets the premises. -/
theorem vectorCourses : Obligations.VectorCourses := by
  refine ⟨?rmsNormalisation, ?layerNormalisation, ?int8Quantisation, ?vectorAdd, ?vectorMultiply, ?softmaxBlock, ?routing, ?sampling, ?orderedSum⟩
  case rmsNormalisation | layerNormalisation | int8Quantisation | vectorAdd | vectorMultiply =>
    intro s iss im d g k x y c p xs h hop hg hn hp hk hx hy hfx hfp hxs
    exact congrArg Host.Outcome.next (mapCourse_tile h hop hg hn hp hk hx hy _ _ hfx hfp hxs)
  case softmaxBlock =>
    intro s iss im d g k x y c p m l al o h hop hg hn hp hk hx hy hfx hm ho
    exact congrArg Host.Outcome.next (vecCourse_tile 0x13 (fun g => walkOf (softTile g)) h hop hg hn (softTile_done hp hk hx hfx hy hm ho))
  case routing =>
    intro s iss im d g k x c p zs h hop hg hn hp hk hx hfx hzs
    exact congrArg Host.Outcome.next (vecCourse_tile 0x14 (fun g => { walkOf (routeTile g) with last := routeLast g }) h hop hg hn
      (routeTile_done hp hk hx hfx hzs))
  case sampling =>
    intro s iss im d g v x y c r zs h hop hg hn hv hx hy hfx hfp hzs hr
    exact congrArg Host.Outcome.next (sampling_tile h hop hg hn (sampleTile_done hv hx hy hfx hfp hzs hr))
  case orderedSum =>
    intro s iss im d g y n c ch slots h hk hg h0 hch hy hn hs hfull hf hfmt
    exact congrArg Host.Outcome.next (orderedSum_tile h hk hg h0 (orderedTile_done hch hy hn hs hfull hf hfmt c.tile))

end Sys2Proof.Proofs
end

section
/-! Weir groups, and the controllers of BASIN courses: passes, clip windows, reference slots, plots (R142 to R162, R253). -/

namespace Sys2Proof.Proofs

open Sys2Proof Sys2Proof.Machine Sys2Proof.Laws

/-! ### Weir groups (R142 to R144) -/

/-- The groups laid end to end: the open group, then every row whose element is not zero. -/
theorem weirScan_flatten (lim : Nat) (l : List (Nat × Int)) (cur : List Nat) :
    (weirScan lim l cur).flatten = cur.reverse ++ (l.filter (fun e => decide (e.2 ≠ 0))).map (·.1) := by
  fun_induction weirScan lim l cur with
  | case1 cur h => simp [List.isEmpty_iff.1 h]
  | case2 cur h => simp
  | case3 r t cur ih => simp [ih]
  | case4 r x t cur hx hl ih => simp [ih, hx]
  | case5 r x t cur hx hl ih => simp [ih, hx]

/-- A group closes at the limit, so an open group below the limit stays below it, and none is empty. -/
theorem weirScan_length {lim : Nat} (l : List (Nat × Int)) (cur : List Nat) (hc : cur.length < lim) :
    ∀ g ∈ weirScan lim l cur, 1 ≤ g.length ∧ g.length ≤ lim := by
  fun_induction weirScan lim l cur with
  | case1 cur h => simp
  | case2 cur h =>
    have hpos := List.length_pos_iff.2 (mt List.isEmpty_iff.2 h)
    simpa using ⟨hpos, hc.le⟩
  | case3 r t cur ih => exact ih hc
  | case4 r x t cur hx hl ih =>
    have hpos : 1 ≤ lim := Nat.zero_lt_of_lt hc
    exact List.forall_mem_cons.2 ⟨by simpa [hl] using hpos, ih hpos⟩
  | case5 r x t cur hx hl ih => exact ih (lt_of_le_of_ne hc hl)

/-- Only the end of the input closes a group below the limit, and that group is the last. -/
theorem weirScan_dropLast_length (lim : Nat) (l : List (Nat × Int)) (cur : List Nat) :
    ∀ g ∈ (weirScan lim l cur).dropLast, g.length = lim := by
  fun_induction weirScan lim l cur with
  | case1 cur h => simp
  | case2 cur h => simp
  | case3 r t cur ih => exact ih
  | case4 r x t cur hx hl ih =>
    cases hrest : weirScan lim t [] with
    | nil => simp
    | cons g gs =>
      rw [List.dropLast_cons_cons, ← hrest]
      exact List.forall_mem_cons.2 ⟨by simpa using hl, ih⟩
  | case5 r x t cur hx hl ih => exact ih

/-- The rows of a vector, each with its element. -/
theorem mapIdx_pair_eq (xs : List Int) : xs.mapIdx (fun r x => (r, x)) = (List.range xs.length).map (fun r => (r, xs.getD r 0)) :=
  List.ext_getElem (by simp) fun r h _ => by
    have h : r < xs.length := by simpa using h
    simp [h]

theorem weirGroups_flatten (lim : Nat) (xs : List Int) :
    (weirGroups lim xs).flatten = (List.range xs.length).filter (fun r => decide (xs.getD r 0 ≠ 0)) := by
  rw [weirGroups, weirScan_flatten, mapIdx_pair_eq, List.filter_map, List.map_map]
  exact List.map_id _

theorem weirGroups_length {lim : Nat} (hl : 1 ≤ lim) (xs : List Int) : ∀ g ∈ weirGroups lim xs, 1 ≤ g.length ∧ g.length ≤ lim :=
  weirScan_length _ [] hl

/-- A vector of zeros has no row to put in a group, and no group is empty. -/
theorem weirGroups_zeros {lim : Nat} (hl : 1 ≤ lim) {xs : List Int} (hz : ∀ x ∈ xs, x = 0) : weirGroups lim xs = [] := by
  have hrows : (weirGroups lim xs).flatten = [] := by
    rw [weirGroups_flatten, List.filter_eq_nil_iff]
    intro r hr
    have hr := List.mem_range.1 hr
    simp [hr, hz _ (List.getElem_mem hr)]
  refine List.eq_nil_iff_forall_not_mem.2 fun g hg => ?_
  have hlen := (weirGroups_length hl xs g hg).1
  rw [List.flatten_eq_nil_iff.1 hrows g hg] at hlen
  exact absurd hlen (by decide)

/-- Settles O45, by the scan's recursion: an element of zero is passed over, any other joins the open group, which closes at the limit. -/
theorem weirGroupsHoldTheNonZeroRowsInOrder : Obligations.WeirGroupsHoldTheNonZeroRowsInOrder := fun lim xs hl =>
  ⟨weirGroups_flatten lim xs, weirGroups_length hl xs, weirScan_dropLast_length lim _ [], weirGroups_zeros hl⟩

/-! ### BASIN courses and passes (R148, R152, R162, R253) -/

/-- A pass that the allotment does not stop runs where its input reads and no plot of its group holds weir groups. -/
theorem passOrPause_readable {s : State} {r : BasinRun} {x : Nat} {bs : List Nat} (die : Nat) (mask : Option (List Neuron)) (theta : Int)
    (hx : basinInput s r = some x) (hbs : bs = groupBasins s (tileBasin s r.c (basinTile r.c)))
    (hr : readFault s (x + r.tok * basinRowBytes r.c.desc bs.length) (basinRowBytes r.c.desc bs.length) = none)
    (hw : bs.any (fun b => weirHeld s (physBasin s b)) = false) :
    passOrPause die r mask theta false s = runPass die r x mask theta s := by
  subst hbs
  unfold passOrPause
  rw [hx]
  dsimp only
  rw [hr]
  dsimp only
  rw [if_neg (by simp [hw])]

section

variable {s : State} (hf : frozen s = false)
include hf

theorem basinCourse_accepted {iss : Issue} {im : Image} {d : List Byte} {bs : List Nat} (hd : courseDesc s iss = some (im, d)) (hk : dKind d = 2)
    (hn : (getRuns s (dDie d)).length < 1024) (hc : issueCheck s iss im d = .ok bs) {u : State} (hu : u = countIssue s) :
    basinCourse iss s = bumpSerial (setRuns (dDie d) (getRuns u (dDie d) ++ [{ c := newRun u iss im d bs }]) u) := by
  subst hu
  exact issueCourse_accepted _ hd (by simp [hk, hf, hn]) hc

theorem basinPass_first {die run : Nat} {r : BasinRun} (hr : (getRuns s die)[run]? = some r) (hp : r.paused = false) (hc : r.corr = false)
    (hg : groupFree s die r.c.sn r.c = true) (ht : r.tok < inToks (basinTile r.c)) (mask : Option (List Neuron)) (theta : Int) (hold : Bool) :
    basinPass die run mask theta hold s = passOrPause die r mask theta hold s := by
  unfold basinPass
  rw [hr]
  dsimp only
  rw [if_neg (by simp [hf, hp, hc, hg]), if_pos ht]

theorem weirGroupResume_paused {die run : Nat} {r : BasinRun} (hr : (getRuns s die)[run]? = some r) (hp : r.paused = true) :
    weirGroupResume die run s = passOrPause die { r with paused := false } r.mask r.theta false s := by
  unfold weirGroupResume
  rw [hr]
  dsimp only
  rw [if_neg (by simp [hf, hp])]

/-! ### Clip windows and reference slots (R155, R158 to R160) -/

/-- A window without a split closes with no entry in the log: the groups past it and their splits count for the next one. -/
theorem clipWindowClose_noSplit {b : Nat} {x : Basin} (hx : x = getBasin s b) (hw : 2 ^ 20 ≤ x.winGroups) (hn : x.winSplits = 0) :
    clipWindowClose b s = setBasin b { x with
      winGroups := x.winGroups - 2 ^ 20, winSplits := x.winCarry, winCarry := 0, windows := min 65535 (x.windows + 1) } s := by
  subst hx
  unfold clipWindowClose
  dsimp only
  rw [if_neg (by rw [hf, Bool.false_or, decide_eq_true_eq]; exact Nat.not_lt.2 hw), hn]
  rfl

/-- Fewer than 256 slots give the monitors of R200 no verdict: the slot is kept, and the trims are refitted from the latest 32. -/
theorem referenceSlot_due {b n : Nat} {x : Basin} {due : List Nat} (hx : x = getBasin s b) (hd : x.refDue = n :: due)
    {slot : RefSlot} (hs : slot = ⟨x.refB, n, (List.range 16).map (fun k =>
      Config.conversion (s.freeCtr + k) (if x.refB then 5 * (n : Int) else -6 * (n : Int)) x.s), (getPlot s (plotOf b)).temp⟩)
    {refs : List RefSlot} (hr : refs = (slot :: x.refs).take 256) (hn : refs.length ≠ 256)
    {base : NatMap Trim} (hb : base = (x.newTrims).getD x.trims) :
    referenceSlot b s = modBasin b (fun z => { z with mon1 := if x.mon1 ≤ 1 then 0 else x.mon1 - 1 })
      (setBasin b { x with refDue := due, refs := refs, refB := !x.refB, newTrims := some ((List.range 16).foldl
        (fun m k => setK m k (fitTrim x.s k (refs.take 32) (getK base k {})) {}) base) } { s with freeCtr := s.freeCtr + 16 }) := by
  subst hx hb
  unfold referenceSlot
  simp only [hd]
  rw [if_neg (by rw [hf]; exact Bool.false_ne_true), ← hs, ← hr, if_neg hn]
  rfl

/-! ### Plots (R161) -/

theorem plotTempRead_running (die : Nat) (rs : List (Nat × Nat)) :
    plotTempRead die rs s = (rs.filter (fun r => plotDie r.1 = die)).foldl (fun t r => plotReading die r.1 r.2 t) s := by
  unfold plotTempRead
  rw [if_neg (by rw [hf]; exact Bool.false_ne_true)]

theorem plotThrottledReport_due {p : Nat} {x : Plot} (hx : x = getPlot s p) (hl : 0 < x.limit) (hr : x.reported ≤ s.counter)
    {st : Word} (hst : st = statusWord x.owner p 0x0B 0x52) :
    plotThrottledReport p s = emit (.telemetry x.owner st p) (lastEvt (cstB (plotDie p)) F.cstLastevtStatus st
      (setPlot p { x with reported := s.counter + 25000000 } s)) := by
  subst hx hst
  unfold plotThrottledReport
  dsimp only
  rw [if_pos (by simp [hf, hl, hr])]

end

/-- Settles O9: each clause is the equation of its command's meaning at a state that meets the premises. -/
theorem cisternControllers : Obligations.CisternControllers := by
  refine ⟨?basinCourse, ?basinPass, ?weirGroupResume, ?clipWindowClose, ?referenceSlot, ?plotTempRead, ?plotThrottledReport⟩
  case basinCourse =>
    intro s iss im d bs u hd hk hf hn hc hu
    exact congrArg Host.Outcome.next (basinCourse_accepted hf hd hk hn hc hu)
  case basinPass =>
    rintro s die run x mask theta r _ bs hr hf hp hc hg ht hx hbs hrd hw rfl
    exact congrArg Host.Outcome.next ((basinPass_first hf hr hp hc hg ht _ theta false).trans (passOrPause_readable die.val _ theta hx hbs hrd hw))
  case weirGroupResume =>
    rintro s die run x r _ bs hr hf hp rfl hx hbs hrd hw
    exact congrArg Host.Outcome.next ((weirGroupResume_paused hf hr hp).trans (passOrPause_readable die.val r.mask r.theta hx hbs hrd hw))
  case clipWindowClose =>
    rintro s basin _ x rfl hx hf hw hn
    exact congrArg Host.Outcome.next (clipWindowClose_noSplit hf hx hw hn)
  case referenceSlot =>
    rintro s basin _ n x due slot base refs rfl hx hd hf hs hr hn hb
    exact congrArg Host.Outcome.next (referenceSlot_due hf hx hd hs hr hn hb)
  case plotTempRead =>
    intro s die rs hf
    exact congrArg Host.Outcome.next (plotTempRead_running hf die.val (rs.map (fun r => (r.1.toNat, r.2))))
  case plotThrottledReport =>
    rintro s plot _ x st rfl hx hf hl hr hst
    exact congrArg Host.Outcome.next (plotThrottledReport_due hf hx hl hr hst)

end Sys2Proof.Proofs
end

section
/-! Programming, swaps, spare tests and recalibration of basins (R171, R176, R180, R188 to R201). -/

namespace Sys2Proof.Proofs

open Sys2Proof Sys2Proof.Machine Sys2Proof.Laws

/-! ### Rows of a basin (R171, R180, R188, R190) -/

/-- A row with no new pin leaves the pins of its basin as they are. -/
theorem rowDone_nil_pins (x : Basin) (pulsed : List Nat) : (rowDone x [] pulsed).1.pins = x.pins := by unfold rowDone; rfl

theorem rowDone_row (x : Basin) (stops : List Stop) (pulsed : List Nat) : (rowDone x stops pulsed).1.row = x.row + 1 := by unfold rowDone; rfl

theorem rowDone_image (x : Basin) (stops : List Stop) (pulsed : List Nat) : (rowDone x stops pulsed).1.image = x.image := by unfold rowDone; rfl

/-- A row of a basin of no image that pins no cell, and is not the last, only stores the basin: there is no repair entry to keep, no
CELL_PINNED to log, and the count of pins passes no warning threshold. -/
theorem programRow_noStop {s : State} {b : Nat} {x : Basin} (hx : x = getBasin s b) (hm : rowMayStart s b = true) (hrow : x.row < 511)
    (hi : x.image = none) {stuck : List Stop} {pulsed : List Nat} (hs : rowStops x stuck pulsed = []) (range : Nat) :
    programRow b stuck pulsed range s = setBasin b (rowDone x [] pulsed).1 s := by
  subst hx
  have hlast : ¬ (rowDone (getBasin s b) [] pulsed).1.row = 512 := by rw [rowDone_row]; omega
  have hwarn (w : Nat) : (decide ((getBasin s b).pins.length ≤ w) && decide ((rowDone (getBasin s b) [] pulsed).1.pins.length > w)) = false := by
    rw [rowDone_nil_pins]
    simp
  unfold programRow
  rw [if_neg (by simp [hm])]
  dsimp only
  rw [hs, if_neg hlast, hwarn, rowDone_image, hi]
  rfl

section

variable {s : State} (hf : frozen s = false)
include hf

/-! ### Records of an image (R173, R176) -/

theorem basinRecord_arrived {h k e : Nat} {im : Image} (hi : getImage s h = some im) (hst : im.st = .programming) (ha : im.accepted = true)
    (hb : bulkAt im.sects im.freed = some (8, k, e)) (he : im.freed + 131136 ≤ e) (har : im.freed + 131136 ≤ im.arrived)
    {bs : List Byte} (hbs : bs = ctlBytes im im.freed 131136) :
    basinRecord h s = if recordOk im bs then takeRecord im bs s else failBasinRecord im s := by
  unfold basinRecord
  rw [hi, hbs]
  dsimp only
  rw [if_neg (by simp [hf, hst, ha]), hb]
  exact if_pos ⟨he, har⟩

/-! ### Swaps (R192, R197, R203) -/

section

variable {b sp : Nat} {x : Basin} (hx : x = getBasin s b) (hsp : spareFor s b = some sp)
include hx hsp

/-- The spare that was programmed takes the basin's place: while a recalibration refreshes the basin, or for good (R192, R197). -/
theorem basinSwap_bringIn (ha : x.armed = some .bringIn) :
    basinSwap b s = if x.recal then
        modBasin b (fun y => { y with armed := none, standIn := some sp, st := .mirrored, programming := true, row := 0, target := (getBasin s sp).target })
          (modBasin sp (fun y => { y with st := .spareIn, target := [], ageFrom := s.counter, ageH := 0 }) s)
      else modBasin b (fun y => { y with armed := none, standIn := some sp, st := .retired, retireDue := true, deferred := false })
        (modBasin sp (fun y => { y with st := .spareIn, target := [], ageFrom := s.counter, ageH := 0 }) s) := by
  subst hx
  unfold basinSwap
  dsimp only
  rw [if_neg (Bool.eq_false_iff.1 hf), ha, hsp]

/-- A refreshed basin serves again with its age at 0, its stand-in is free, and its plot's requests count it (R197, R201). -/
theorem basinSwap_bringBack (ha : x.armed = some .bringBack) :
    basinSwap b s = leaveReqs b true false (freeSpare sp (modBasin b (fun y => { y with
      armed := none, standIn := none, st := if y.home.isSome then .spareIn else .service, recal := false
      ageH := 0, ageFrom := s.counter, overdue := false, overdueN := 0 }) s)) := by
  subst hx
  unfold basinSwap
  dsimp only
  rw [if_neg (Bool.eq_false_iff.1 hf), ha, hsp]

end

/-! ### Spare tests (R195) -/

/-- A free spare is tested when its Cistern die had no test for a day; more than 16 unusable cells, or one off the grid, retire it. -/
theorem spareBasinTest_due {b cd : Nat} (hcd : cd = cdieOf b) (hfree : (cistSpares s cd).contains b = true)
    (hdue : getK s.cist.spareTests cd 0 + 24 * 90000000000 ≤ s.counter) {u : State}
    (hu : u = { s with cist := { s.cist with spareTests := setK s.cist.spareTests cd s.counter 0 } }) (unusable : Nat) (offgrid : Bool) :
    spareBasinTest b unusable offgrid s = if unusable > 16 ∨ offgrid then
      sparesLow cd (modBasin b (fun x => { x with st := .retired, offgrid := offgrid }) u) else u := by
  subst hcd hu
  unfold spareBasinTest
  dsimp only
  rw [if_neg (by rw [hf, hfree]; simpa using hdue)]

/-! ### Age and recalibration (R196, R197, R199) -/

section

variable {b : Nat} {x : Basin} (hx : x = getBasin s b) (hserv : serving s x = true)
include hx hserv

theorem recalDue_due (hr : x.recal = false) (hage : calInterval s b ≤ basinAge s x) : recalDue b s = queueDue b s := by
  subst hx
  exact if_pos (by simp [hf, hserv, hr, hage])

theorem calOverdue_due {i : Nat} (hi : i = calInterval s b) (hage : (3 + 2 * x.overdueN) * i ≤ 2 * basinAge s x) :
    calOverdue b s = irqRaise (cstB (basinDie b)) 32 (logBasin b 0x56 [basinAge s x / 90000000000] (monitorTrip b 6
      (modBasin b (fun y => { y with overdue := true, overdueN := x.overdueN + 1 }) s))) := by
  subst hx hi
  exact if_pos (by simp [hf, hserv, hage])

/-- The first queued basin of its Cistern die, whose every row is resolved, is mirrored onto the lowest free spare (R197). -/
theorem recalibration_resolved {cd sp : Nat} {sps : List Nat} (hcd : cd = cdieOf b) (hcores : s.rely.coresLost = false) (htr : inTrickle s = false)
    (hq : s.cist.queue.find? (fun q => cdieOf q = cd) = some b) (hr : x.recal = false) (ha : x.armed = none)
    (hmost : mirrors s cd < max 1 (getF s (cstB (basinDie b)) F.cstCalcfgMirrorMax)) (hsp : cistSpares s cd = sp :: sps)
    {m target : NatMap Nat} {rows : List (List Nat)} (hrows : resolveAll x m = some rows)
    (ht : target = rows.zipIdx.flatMap (fun e => ((e.1.take 512).zipIdx.map (fun z => (cellKey e.2 z.2, z.1))).filter (fun z => z.2 ≠ 8))) :
    recalibration b m s = takeSpare b sp target (modBasin b (fun y => { y with recal := true, worn := wornCells m rows }) (dequeue b s)) := by
  subst hx hcd ht
  unfold recalibration
  dsimp only
  rw [if_neg (by simp [hf, hcores, htr, hq, hserv, hr, ha, Nat.not_le.2 hmost]), hsp]
  dsimp only
  rw [hrows]

end

end

/-! ### Requests (R201) -/

/-- The board management controller, or the owner of a plot in use, has the plot's programmed basins queued. -/
theorem calRequest_taken {s t : State} {src : CmdSrc} {c : HostCmd} (ht : taken src 0x20 s = some (c, t))
    (hown : c.by_ < 4 → (getPlot t c.arg0).owner = c.by_ ∧ (getPlot t c.arg0).st ≠ .free ∧ c.arg0 < 2 ^ 13)
    {p : Nat} {bs : List Nat} (hp : p = c.arg0 % 2 ^ 13)
    (hbs : bs = ((List.range 256).map (fun i => p * 256 + i)).filter (fun b => serving t (getBasin t (physBasin t b)) || (getBasin t b).recal)) :
    calRequest src s = finishReqs p (bs.foldl (fun u b => if (getBasin u b).recal then u else queueCal (physBasin u b) u)
      (modPlot p (fun x => { x with reqs := x.reqs ++ [{ by_ := c.by_, qp := c.qp, left := bs }] }) (ack c t))) := by
  subst hbs hp
  have granted : ¬(c.by_ < 4 ∧ ((getPlot t (c.arg0 % 2 ^ 13)).owner ≠ c.by_ ∨ (getPlot t (c.arg0 % 2 ^ 13)).st = .free ∨ c.arg0 ≥ 2 ^ 13)) := by
    rintro ⟨hby, hbad⟩
    obtain ⟨howner, huse, hin⟩ := hown hby
    rw [Nat.mod_eq_of_lt hin] at hbad
    exact hbad.elim (absurd howner) (Or.elim · huse (Nat.not_le.2 hin))
  unfold calRequest
  rw [takeCmd_taken _ ht]
  exact if_neg granted

/-- Settles O12: each clause is the equation of its command's meaning at a state that meets the premises. -/
theorem basinProgramming : Obligations.BasinProgramming := by
  refine ⟨?basinRecord, ?programRow, ?bringIn, ?bringBack, ?spareBasinTest, ?recalDue, ?recalibration, ?calOverdue, ?calRequest⟩
  case basinRecord =>
    intro s h im k e bs hi hf hst ha hb he har hbs
    exact congrArg Host.Outcome.next (basinRecord_arrived hf hi hst ha hb he har hbs)
  case programRow =>
    rintro s basin range _ x rfl hx hm hrow hi _ _ _ hs
    exact congrArg Host.Outcome.next (programRow_noStop hx hm hrow hi hs range.val)
  case bringIn =>
    rintro s basin _ sp x rfl hx hf ha hsp
    exact congrArg Host.Outcome.next (basinSwap_bringIn hf hx hsp ha)
  case bringBack =>
    rintro s basin _ sp x rfl hx hf ha hsp
    exact congrArg Host.Outcome.next (basinSwap_bringBack hf hx hsp ha)
  case spareBasinTest =>
    rintro s basin unusable offgrid _ cd u rfl hcd hf hfree hdue hu
    exact congrArg Host.Outcome.next (spareBasinTest_due hf hcd hfree hdue hu unusable offgrid)
  case recalDue =>
    rintro s basin _ x rfl hx hf hserv hr hage
    exact congrArg Host.Outcome.next (recalDue_due hf hx hserv hr hage)
  case recalibration =>
    rintro s basin _ cd sp reads x sps rows _ target rfl hcd hx hf hcores htr hq hserv hr ha hmost hsp rfl hrows ht
    exact congrArg Host.Outcome.next (recalibration_resolved hf hx hserv hcd hcores htr hq hr ha hmost hsp hrows ht)
  case calOverdue =>
    rintro s basin _ i x rfl hx hi hf hserv hage
    exact congrArg Host.Outcome.next (calOverdue_due hf hx hserv hi hage)
  case calRequest =>
    intro s t src c p bs ht hown hp hbs
    exact congrArg Host.Outcome.next (calRequest_taken ht hown hp hbs)

end Sys2Proof.Proofs
end

section
/-! Correction steps of the Siphon, the lending of lanes, the predictor's switch and the re-arm (R206 to R222, R238 to R242). -/

namespace Sys2Proof.Proofs

open Sys2Proof Sys2Proof.Machine Sys2Proof.Laws

/-- A lane that still holds a channel keeps the walk's map from being empty. -/
theorem insertK_isEmpty {α : Type} (m : NatMap α) (k : Nat) (v : α) : (insertK m k v).isEmpty = false := by
  cases m with
  | nil => rfl
  | cons e es =>
    unfold insertK
    split
    · rfl
    · split <;> rfl

/-- The corrections sent, with one more channel's: they add to those already sent for the same channel (R206, R209). -/
def sendChan (rows : List (List Int)) (sent : NatMap (List Int)) (c : ListChan) : NatMap (List Int) :=
  insertK sent c.ch (match lookupK sent c.ch with | some o => o.zipWith (· + ·) (corrChan rows c.ents) | none => corrChan rows c.ents)

/-! ### Correction steps (R206, R207, R209, R221) -/

section

variable {s : State} {die : Die} {tgt : CorrTarget} {k : CorrFor} {x : CorrCtx} (hf : frozen s = false)
  (hfree : lookupK s.cist.steps die.val = none) (hk : corrFor s die tgt = some k) (hx : corrCtx s die.val k = some x) (hreps : x.reps = [])
include hf hfree hk hx hreps

/-- A step of a tile without repair entries: with lanes, where its list covers a channel, it starts, and the lanes of the walk hold its channels;
otherwise it sends them all, counts their products and ends. -/
theorem correctionStep_noRepairs {m : NatMap (List ListChan)} (hm : (if dList x.c.desc then readList s (physAddr (dL x.c.desc)) else some []) = some m)
    {cs : NatMap (List ListChan)} (hcs : cs = byLane s die.val (coverChans x m)) (lanes : Bool) (time : Nat) :
    correctionStep die tgt lanes false time s = if lanes && !cs.isEmpty then
        { s with cist := { s.cist with steps := insertK s.cist.steps die.val { for_ := k, left := cs } } }
      else corrFinish die.val k x ((cs.flatMap (·.2)).foldl (sendChan x.rows) []) time
        (countProducts die.val k (((cs.flatMap (·.2)).map (fun c => c.ents.length)).foldl (· + ·) 0 * x.rows.length) s) := by
  subst hcs
  unfold correctionStep
  rw [if_neg (by simp [hf, hfree]), hk]
  dsimp only
  rw [hx]
  simp only [Bool.false_and, Bool.false_eq_true, if_false]
  rw [hm]
  dsimp only
  rw [hreps, if_pos List.isEmpty_nil]
  rfl

/-- With lanes, a step over a list that covers a channel only starts: the lanes of the walk hold its channels. -/
theorem correctionStep_walk (hd : dList x.c.desc = true) {m : NatMap (List ListChan)} (hm : readList s (physAddr (dL x.c.desc)) = some m)
    {cs : NatMap (List ListChan)} (hcs : cs = byLane s die.val (coverChans x m)) (hne : cs.isEmpty = false) (time : Nat) :
    correctionStep die tgt true false time s =
      { s with cist := { s.cist with steps := insertK s.cist.steps die.val { for_ := k, left := cs } } } :=
  (correctionStep_noRepairs hf hfree hk hx hreps ((if_pos hd).trans hm) hcs true time).trans (if_pos (by simp [hne]))

/-- A tile with neither list nor repair is merged at once, with no channel sent and no product counted. -/
theorem correctionStep_noList (hd : dList x.c.desc = false) (time : Nat) :
    correctionStep die tgt false false time s = corrFinish die.val k x [] time (countProducts die.val k 0 s) := by
  have whole := correctionStep_noRepairs hf hfree hk hx hreps (if_neg (Bool.eq_false_iff.1 hd)) (cs := []) rfl false time
  have products : (([] : List ListChan).map (fun c => c.ents.length)).foldl (· + ·) 0 * x.rows.length = 0 := Nat.zero_mul _
  rw [List.flatMap_nil, products] at whole
  exact whole

end

/-! ### Lanes in a walk (R218, R219, R222) -/

section

variable {s : State} {die lane : Nat} {st : CorrStep} (hst : getStep s die = some st) (hf : frozen s = false)
include hst hf

/-- An idle lane in service takes the first offer among the lanes within 8, the nearest first and the lower first of two as near. -/
theorem laneBorrow_idle (hin : laneIn s die lane = true) (hidle : (getK st.left lane []).isEmpty = true) {walked : List (Nat × Nat)} {l ch : Nat}
    (hoffer : ((List.range 8).flatMap (fun i => (if lane ≥ i + 1 then [lane - (i + 1)] else []) ++ [lane + (i + 1)])).findSome? (fun n =>
      (offerOf st n (((walked.find? (fun e => e.1 = n)).map (·.2)).getD 1)).map (fun h => (n, h))) = some (l, ch)) :
    laneBorrow die lane walked s = bumpPair (sphB die) 0x108 1 (putStep die { st with
      lent := insertK st.lent lane (l, ch), taken := insertK st.taken l (getK st.taken l [] ++ [ch]) } s) := by
  unfold laneBorrow
  rw [hst]
  dsimp only
  rw [if_neg (by simp [hf, hin, hidle]), hoffer]

/-- A channel that passes its residue check at once, and is not its lane's last, is merged and its products are counted; what was lent of it returns. -/
theorem laneChannelSend_more {c : ListChan} {rest : List ListChan} (hleft : getK st.left lane [] = c :: rest) {x : CorrCtx}
    (hx : corrCtx s die st.for_ = some x) (hrest : rest ≠ []) (cycle time : Nat) :
    laneChannelSend die lane 0 cycle time s = putStep die { st with
      left := insertK st.left lane rest, sent := sendChan x.rows st.sent c, taken := eraseK st.taken lane
      lent := st.lent.filter (fun e => e.2.1 ≠ lane) } (countProducts die st.for_ (c.ents.length * x.rows.length) s) := by
  have more : rest.isEmpty = false := List.isEmpty_eq_false_iff.2 hrest
  unfold laneChannelSend
  rw [hst]
  dsimp only
  rw [hleft]
  dsimp only
  rw [hf, if_neg Bool.false_ne_true, hx]
  simp only [Nat.reduceEqDiff, more, Bool.false_eq_true, if_false, insertK_isEmpty]
  rfl

end

/-! ### The switch and the re-arm (R238, R239, R242) -/

/-- PREDICTOR with ARG0 0 or 1 marks the image's layer slots; the step boundary switches them. -/
theorem predictorSwitch_taken {s t : State} {src : CmdSrc} {c : HostCmd} {im : Image} (ht : taken src 0x21 s = some (c, t))
    (hi : ownImage t c.by_ c.handle = some im) {on : Bool} (harg : c.arg0 = on.toNat) :
    predictorSwitch on src s = ack c (mapLSlots (fun x => if x.used && x.image = im.handle then { x with offDue := some !on } else x) t) := by
  have asks : (decide (c.arg0 = 1) == on) = true := by rw [harg]; cases on <;> rfl
  have named : ¬c.arg0 ≥ 2 := by rw [harg]; cases on <;> decide
  have cmd := taken_cmd ht
  unfold predictorSwitch switchImage
  cases src with
  | host k =>
    dsimp only at cmd ⊢
    rw [cmd, Option.map_some, asks, if_pos rfl, takeCmd_taken _ ht, hi]
    exact if_neg named
  | board h a =>
    dsimp only at cmd ⊢
    rw [← cmd, asks, if_pos rfl, cmd, takeCmd_taken _ ht, hi]
    exact if_neg named

/-- REARM marks the tripped slots of the layer named, or of every layer; the step boundary re-arms them. -/
theorem rearm_taken {s t : State} {src : CmdSrc} {c : HostCmd} {im : Image} (ht : taken src 0x22 s = some (c, t))
    (hi : ownImage t c.by_ c.handle = some im) :
    rearm src s = ack c (mapLSlots (fun x =>
      if x.used && x.image = im.handle && (c.arg0 = 0xFFFFFFFF || x.layer = c.arg0) && (x.tripped || x.tripDue)
      then { x with rearmDue := true } else x) t) := by
  unfold rearm switchImage
  rw [takeCmd_taken _ ht, hi]

/-- Settles O13: each clause is the equation of its command's meaning at a state that meets the premises. -/
theorem outlierCorrections : Obligations.OutlierCorrections := by
  refine ⟨?walk, ?noList, ?laneBorrow, ?laneChannelSend, ?predictorOff, ?predictorOn, ?rearm⟩
  case walk =>
    intro s die tgt k x m cs time hf hfree hk hx hd hm hcs hreps hne
    exact congrArg Host.Outcome.next (correctionStep_walk hf hfree hk hx hreps hd hm hcs hne time)
  case noList =>
    intro s die tgt k x time hf hfree hk hx hd hreps
    exact congrArg Host.Outcome.next (correctionStep_noList hf hfree hk hx hreps hd time)
  case laneBorrow =>
    intro s die lane walked l ch st hst hf hin hidle hoffer
    exact congrArg Host.Outcome.next (laneBorrow_idle hst hf hin hidle hoffer)
  case laneChannelSend =>
    rintro s die lane cycle time st c rest x _ hst hleft hf hx hrest rfl
    exact congrArg Host.Outcome.next (laneChannelSend_more hst hf hleft hx hrest cycle time)
  case predictorOff =>
    intro s t src c im ht harg hi
    exact congrArg Host.Outcome.next (predictorSwitch_taken ht hi (on := false) harg)
  case predictorOn =>
    intro s t src c im ht harg hi
    exact congrArg Host.Outcome.next (predictorSwitch_taken ht hi (on := true) harg)
  case rearm =>
    intro s t src c im ht hi
    exact congrArg Host.Outcome.next (rearm_taken ht hi)

end Sys2Proof.Proofs
end

section
/-! The walk of a course's tiles (R261). -/

namespace Sys2Proof.Proofs

open Sys2Proof Sys2Proof.Machine Sys2Proof.Laws

theorem prodL_eq_prod (l : List Nat) : prodL l = l.prod := List.prod_eq_foldl.symm

theorem prodL_cons (it : Nat) (its : List Nat) : prodL (it :: its) = it * prodL its := by
  simp only [prodL_eq_prod, List.prod_cons]

theorem indexOf_cons {it : Nat} (h : 1 ≤ it) (its : List Nat) (n : Nat) :
    indexOf (it :: its) n = n % it :: indexOf its (n / it) := by
  rw [indexOf, if_neg (by omega)]

/-- One index for each level, each below its level's count. -/
def IndexVector (its idx : List Nat) : Prop := idx.length = its.length ∧ ∀ k (h : k < its.length), idx.getD k 0 < its[k]

theorem indexVector_cons {it i : Nat} {its idx : List Nat} : IndexVector (it :: its) (i :: idx) ↔ i < it ∧ IndexVector its idx := by
  constructor
  · rintro ⟨hl, h⟩
    exact ⟨h 0 (Nat.succ_pos _), Nat.succ.inj hl, fun k hk => h (k + 1) (Nat.succ_lt_succ hk)⟩
  · rintro ⟨hi, hl, h⟩
    refine ⟨congrArg Nat.succ hl, fun k hk => ?_⟩
    cases k with
    | zero => exact hi
    | succ k => exact h k (Nat.lt_of_succ_lt_succ hk)

theorem exists_cons_of_indexVector {it : Nat} {its idx : List Nat} (h : IndexVector (it :: its) idx) : ∃ i rest, idx = i :: rest :=
  List.exists_cons_of_length_eq_add_one h.1

/-- The number of the tile at an index vector: each index times the product of the counts of the levels below. -/
def tileNumber (its idx : List Nat) : Nat := ((List.range its.length).map (fun k => idx.getD k 0 * prodL (its.take k))).foldl (· + ·) 0

theorem tileNumber_cons (it i : Nat) (its idx : List Nat) : tileNumber (it :: its) (i :: idx) = i + it * tileNumber its idx := by
  have hterm (k : Nat) : idx.getD k 0 * prodL ((it :: its).take (k + 1)) = it * (idx.getD k 0 * prodL (its.take k)) := by
    rw [List.take_succ_cons, prodL_cons, Nat.mul_left_comm]
  simp only [tileNumber, foldl_add_eq_sum, List.length_cons, List.range_succ_eq_map, List.map_cons, List.map_map, List.sum_cons,
    Function.comp_def, List.getD_cons_succ, hterm, List.sum_map_mul_left]
  simp [prodL]

section

variable {its : List Nat} (hits : ∀ i ∈ its, 1 ≤ i)
include hits

/-- The index vector of a tile is one of the walk's, and its number is the tile's: `n = n % it + it * (n / it)` at each level. -/
theorem indexOf_spec {n : Nat} (hn : n < prodL its) : IndexVector its (indexOf its n) ∧ tileNumber its (indexOf its n) = n := by
  induction its generalizing n with
  | nil => exact ⟨⟨rfl, fun k hk => absurd hk (Nat.not_lt_zero k)⟩, (Nat.lt_one_iff.1 hn).symm⟩
  | cons it its ih =>
    obtain ⟨hit, hrest⟩ := List.forall_mem_cons.1 hits
    obtain ⟨hv, hno⟩ := ih hrest (Nat.div_lt_of_lt_mul (prodL_cons it its ▸ hn))
    rw [indexOf_cons hit, indexVector_cons, tileNumber_cons, hno]
    exact ⟨⟨Nat.mod_lt n hit, hv⟩, Nat.mod_add_div n it⟩

/-- Every index vector is that of the tile with its number, which is below the product of the counts. -/
theorem tileNumber_spec {idx : List Nat} (hv : IndexVector its idx) : tileNumber its idx < prodL its ∧ indexOf its (tileNumber its idx) = idx := by
  induction its generalizing idx with
  | nil => exact ⟨Nat.one_pos, (List.length_eq_zero_iff.1 hv.1).symm⟩
  | cons it its ih =>
    obtain ⟨hit, hrest⟩ := List.forall_mem_cons.1 hits
    obtain ⟨i, rest, rfl⟩ := exists_cons_of_indexVector hv
    obtain ⟨hi, hv⟩ := indexVector_cons.1 hv
    obtain ⟨hlt, hidx⟩ := ih hrest hv
    rw [prodL_cons, tileNumber_cons, indexOf_cons hit, Nat.add_mul_mod_self_left, Nat.mod_eq_of_lt hi, Nat.add_mul_div_left i _ hit,
      Nat.div_eq_of_lt hi, Nat.zero_add, hidx]
    refine ⟨?_, rfl⟩
    calc i + it * tileNumber its rest < it + it * tileNumber its rest := Nat.add_lt_add_right hi _
      _ = it * (tileNumber its rest + 1) := by rw [Nat.mul_succ, Nat.add_comm]
      _ ≤ it * prodL its := Nat.mul_le_mul_left it hlt

end

/-- Settles O52: the index vector of a tile and the tile number of an index vector are inverse to each other. -/
theorem walkVisitsEveryIndexVectorOnceInnermostFirst : Obligations.WalkVisitsEveryIndexVectorOnceInnermostFirst := by
  intro its hits
  refine ⟨fun n hn => ?_, fun m n hm hn h => ?_, fun idx hlen hidx => ?_⟩
  · obtain ⟨⟨hlen, hlt⟩, hno⟩ := indexOf_spec hits hn
    exact ⟨hlen, hlt, hno.symm⟩
  · rw [← (indexOf_spec hits hm).2, h, (indexOf_spec hits hn).2]
  · exact ⟨tileNumber its idx, tileNumber_spec hits ⟨hlen, hidx⟩⟩

end Sys2Proof.Proofs
end

section
/-! The tiles of MOVE courses, ATTEND courses and merges of partial states (R252, R261, R312, R313, R315, R352). -/

namespace Sys2Proof.Proofs

open Sys2Proof Sys2Proof.Machine Sys2Proof.Laws

/-! ### The tiles of a MOVE course (R312, R313, R315) -/

section

variable {s : State} {g k x y : Nat} {c : CourseRun} {p : TilePos} (hp : p = tilePos c.desc c.bounds c.tile) (hk : k = p.ext.getD 0 0)
include hp hk

/-- A fill only waits for its output's gate: it has no source (R312). -/
theorem fillTile_done (hy : tileOut s c c.tile p.y = some y) :
    fillTile g c c.tile s = .done (chargeTile g 0 (0, 0) (y, elemBytes (latFmtY (dYfmt c.desc)) k)
      (tileFilled c c.tile (clearPoison y (elemBytes (latFmtY (dYfmt c.desc)) k)
        (wrAt (latFmtY (dYfmt c.desc)) y
          ((List.range k).map (fun i => (i, (dParam c.desc).toNat % 2 ^ fmtBits (latFmtY (dYfmt c.desc))))) s)))) := by
  subst hk hp
  unfold fillTile
  simp only [hy]

variable (hx : tileIn s c c.tile p.x = some x) (hy : tileOut s c c.tile p.y = some y)
include hx hy

/-- A tile is moved once its gates let it through and its source reads without an uncorrectable word (R312). -/
theorem moveTile_done (span : List Byte → Nat → Nat) (elems : State → List Byte → Nat → Nat → List (Nat × Nat))
    (hf : readFault s x (span c.desc k) = none) {es : List (Nat × Nat)} (hes : es = elems s c.desc x k) :
    moveTile g span elems c c.tile s = .done (chargeTile g 0 (x, span c.desc k) (y, elemBytes (latFmtY (dYfmt c.desc)) es.length)
      (tileFilled c c.tile (tileDrained c c.tile
        (clearPoison y (if es.all (fun e => decide (e.1 < es.length)) then elemBytes (latFmtY (dYfmt c.desc)) es.length else 0)
          (wrAt (latFmtY (dYfmt c.desc)) y es s))))) := by
  subst hk hp hes
  unfold moveTile
  simp only [hx, hy, hf]

/-- A frame without a scale that passes its checks becomes its dense vector (R315). -/
theorem expandTile_done (hf : readFault s x (16 + k) = none) {fr : Frame} (hfr : readFrame s x k = some fr) (hsc : fr.scale = none) :
    expandTile g c c.tile s = .done (chargeTile g 0 (x, 16 + k) (y, elemBytes (latFmtY (dYfmt c.desc)) k)
      (tileFilled c c.tile (tileDrained c c.tile (clearPoison y (elemBytes (latFmtY (dYfmt c.desc)) k)
        (wrAt (latFmtY (dYfmt c.desc)) y (numbered (fr.elems.map (moveElem fr.fmt (latFmtY (dYfmt c.desc))))) s))))) := by
  subst hk hp
  unfold expandTile
  simp only [hx, hy, hf, hfr, hsc]

end

/-- A tile that takes no free value leaves the counter of free values as it is. -/
theorem tookFree_zero (r : TileRes) : tookFree 0 r = r := by
  cases r <;> rfl

/-- Elements that have a place in the transpose are moved, and none of them is a free value (R313). -/
theorem transTile_eq_moveTile {c : CourseRun} (hsh : transShape (latFmtX (dXfmt c.desc)) ≠ none) (g n : Nat) (s : State) :
    transTile g c n s = moveTile g spanPacked transElems c n s := by
  rw [transTile, if_neg (by rwa [Option.isNone_iff_eq_none]), tookFree_zero]

/-! ### The one tile of an ATTEND course and of a merge (R252, R352) -/

section

variable {s : State} {im : Image} {g y : Nat} {c : CourseRun} (him : getImage s c.issue.image = some im)
  (hy : tileOut s c 0 (physAddr (dY c.desc)) = some y)
include him hy

/-- The segments' appends reach their pages before the walk reads them; the rows of each segment are then written in turn (R350). -/
theorem attendTile_done {s1 : State} {n rows pages x : Nat} {qt : QTable} {own : State → Seg → Nat} {frames : List Nat}
    (hrows : rows = c.bounds.getD 0 0) (hpages : pages = (if dNlev c.desc ≥ 2 then c.bounds.getD 1 0 else 1)) (hn : n = im.kvd)
    (hqt : qt = rdQTable s (physAddr (dP c.desc)) (unitsOf n) rows)
    (hown : own = (fun t sg => (getStream t sg.stream).elim c.holding (fun z => z.holding)))
    (hx : tileIn s c 0 (physAddr (dX c.desc)) = some x)
    (hft : readFault s (physAddr (dP c.desc)) (0x40 + 32 * min (unitsOf n) (rdLE s (physAddr (dP c.desc)) 2) + 4 * rows) = none)
    (hfx : readFault s x (rows * n) = none) (hsegs : segsOk qt (unitsOf n) rows pages = true)
    (happ : qt.segs.foldl (fun o sg => o.bind (fun t =>
      appendSeg (dDie c.desc) (own t sg) n im.ctxP (winAddr c.desc sg.append) qt.h sg t)) (some s) = some s1)
    (hent : qt.segs.any (fun sg => (segPages sg).any (fun e => !entryOk s1 (dDie c.desc) n (own s1 sg) e.2)) = false)
    (hfr : frames = qt.segs.flatMap (fun sg => (segPages sg).map (fun e => frameAddr (dDie c.desc) n (rdEnt s1 e.2).frame)))
    (hff : frames.findSome? (fun f => readFault s1 f (kvBytes n)) = none) (t : Nat) :
    attendTile g c t s = .done (chargeTile g 0 (x, rows * n) (y, rows * n) (tileFilled c 0 (tileDrained c 0 (frameTraffic (dDie c.desc) n g frames
      (qt.segs.foldl (fun t sg => (List.range sg.nrows).foldl (fun w i =>
          if qt.partial_ then writePartial n y (sg.row0 + i) (walkRow s1 (dDie c.desc) n c.desc qt x (sg.row0 + i) sg) w
          else writeOut c.desc n rows y (sg.row0 + i) (rowOut (walkRow s1 (dDie c.desc) n c.desc qt x (sg.row0 + i) sg)) w) t)
        (modRun g (fun r => { r with
          act := attendAct (dDie c.desc) n qt.segs r.act, shares := qt.segs.map (fun sg => (sg.stream, sg.nrows * sg.npages)) }) s1)))))) := by
  subst hrows hpages hn hown hqt hfr
  unfold attendTile
  simp only [him, hx, hy, hft, hfx, hsegs, happ, hent, hff, Bool.not_true, Bool.false_eq_true, if_false]

/-- A merge takes its rows from the contributors' slots once all of them are full, and then empties them (R352). -/
theorem mergeTile_done {rows : Nat} (hrows : rows = c.bounds.getD 0 0) {ch : Chain} (hch : getChain s c.issue.image (dCinIx c.desc) = some ch)
    {slots : List Nat} (hs : slots = (List.range ch.slots).map (slotAddr ch))
    (hfull : (List.range ch.slots).all (fun k => (getGate s c.issue.image (dCinIx c.desc) k).full) = true)
    (hf : slots.findSome? (fun a => readFault s a (rows * partialBytes im.kvd)) = none) (t : Nat) :
    mergeTile g c t s = .done (chargeTile g (rows * ch.slots * lanePasses im.kvd) (slots.getD 0 0, ch.slots * rows * partialBytes im.kvd)
      (y, rows * im.kvd) (tileFilled c 0 ((List.range ch.slots).foldl (fun t k => gateDrain c.issue.image (dCinIx c.desc) k t)
        ((List.range rows).foldl (fun t r => writeOut c.desc im.kvd rows y r (rowOut (mergeRow s im.kvd slots r)) t) s)))) := by
  subst hrows hs
  unfold mergeTile
  simp only [him, hch, hy]
  rw [if_pos hfull, hf]

end

/-! ### The commands of a running ATTEND course (R252) -/

/-- A course whose query table stands is given none. -/
theorem fillTable_nil (iss : Issue) (s : State) : fillTable iss [] s = s := by
  unfold fillTable
  cases courseDesc s iss with
  | none => rfl
  | some e => exact if_pos (by simp)

section

variable {s t : State} {iss : Issue} {im : Image} {d : List Byte} {g : Nat} {c : CourseRun} (h : RunsOn s iss im d g c) (h0 : c.tile = 0)
include h h0

theorem attendCourse_tile (hk : dKind d = 3) (hm : (decide (dNlev d = 1) && isGatherIn s iss d) = false)
    (ht : attendTile g c c.tile s = .done t) :
    attendCourse iss [] s = runTiles g (oneTile (attendTile g)) 1 (modRun g (fun r => { r with tile := c.tile + 1 }) t) := by
  unfold attendCourse
  have ⟨hd, hex, _⟩ := h
  rw [hd]
  dsimp only
  rw [fillTable_nil, ← hex, if_neg (by simp [hk, hm])]
  exact laneCourse_tile _ (oneTile (attendTile g)) h (by simp [hk]) (by rw [h0]; exact Nat.one_pos) ht

theorem attendMerge_tile (hk : dKind d = 3) (hl : dNlev d = 1) (hg : isGatherIn s iss d = true) (ht : mergeTile g c c.tile s = .done t) :
    attendMerge iss s = runTiles g (oneTile (mergeTile g)) 1 (modRun g (fun r => { r with tile := c.tile + 1 }) t) := by
  unfold attendMerge
  have ⟨hd, hex, _⟩ := h
  rw [hd]
  dsimp only
  rw [← hex]
  exact laneCourse_tile _ (oneTile (mergeTile g)) h (by simp [hk, hl, hg]) (by rw [h0]; exact Nat.one_pos) ht

end

/-- Settles O8: each clause is the equation of its command's meaning at a state that meets the premises. -/
theorem moveAndAttendCourses : Obligations.MoveAndAttendCourses := by
  refine ⟨?fill, ?copy, ?stride, ?transpose, ?expand, ?attendCourse, ?attendMerge⟩
  case fill =>
    intro s iss im d g k y c p h hkd hop hn hp hk hy
    exact congrArg Host.Outcome.next (moveCourse_tile 0x20 fillTile h hkd hop hn (fillTile_done hp hk hy))
  case copy =>
    intro s iss im d g k x y c p es h hkd hop hn hp hk hx hy hf hes
    exact congrArg Host.Outcome.next (moveCourse_tile 0x21 copyTile h hkd hop hn (moveTile_done hp hk hx hy _ _ hf hes))
  case stride =>
    intro s iss im d g k x y c p es h hkd hop hn hp hk hx hy hf hes
    exact congrArg Host.Outcome.next (moveCourse_tile 0x23 strideTile h hkd hop hn (moveTile_done hp hk hx hy _ _ hf hes))
  case transpose =>
    intro s iss im d g k x y c p es h hkd hop hn hp hk hx hy hf hes hsh
    exact congrArg Host.Outcome.next (moveCourse_tile 0x22 transTile h hkd hop hn
      ((transTile_eq_moveTile hsh g c.tile s).trans (moveTile_done hp hk hx hy _ _ hf hes)))
  case expand =>
    intro s iss im d g k x y c p fr h hkd hop hn hp hk hx hy hf hfr hsc
    exact congrArg Host.Outcome.next (moveCourse_tile 0x24 expandTile h hkd hop hn (expandTile_done hp hk hx hy hf hfr hsc))
  case attendCourse =>
    intro s s1 iss im d g n rows pages x y c qt own frames h hk hm h0 him hrows hpages hn hqt hown hx hy hft hfx hsegs happ hent hfr hff
    exact congrArg Host.Outcome.next (attendCourse_tile h h0 hk hm
      (attendTile_done him hy hrows hpages hn hqt hown hx hft hfx hsegs happ hent hfr hff c.tile))
  case attendMerge =>
    intro s iss im d g rows y c ch slots h hk hl hg h0 him hrows hch hs hy hfull hf
    exact congrArg Host.Outcome.next (attendMerge_tile h h0 hk hl hg (mergeTile_done him hy hrows hch hs hfull hf c.tile))

end Sys2Proof.Proofs
end

section
/-! Gate waits that end with a fault of their course (R281, R282, R286, R319, R383). -/

namespace Sys2Proof.Proofs

open Sys2Proof Sys2Proof.Machine Sys2Proof.Laws

/-- A wait of a running course ends with the fault of its course, whatever the controllers' waits are. -/
theorem endWait_acre {s : State} {die : Die} {a : PAcre} {g : Nat} {c : CourseRun} (hg : g = acreIx die a)
    (hr : (getAcre s g).run = some c) (hl : acreLive s g = true) (hf : frozen s = false) {onAcre : Nat → CourseRun → Bool}
    (hw : onAcre g c = true) (code : Nat) (onCtl : BasinRun → Bool) :
    endWait (.acre die a) code onAcre onCtl s =
      reportFault g code 3 g c (modAcre g (fun a => { clearFlight a with run := none }) s) := by
  subst hg
  unfold endWait
  rw [if_neg (by rw [hf]; exact Bool.false_ne_true)]
  simp only [hr]
  rw [if_pos (by rw [hl, hw]; rfl), faultRun_running hr]

/-- Settles O10: each command ends the wait that its premises name. -/
theorem gateWaits : Obligations.GateWaits := by
  refine ⟨?readBeforeFill, ?overwriteBeforeDrain, ?chainBroken⟩
  case readBeforeFill =>
    intro s die a g c hg hr hl hf hw hh
    exact congrArg Host.Outcome.next (endWait_acre hg hr hl hf (by rw [hw, hh]; rfl) 0x40 _)
  case overwriteBeforeDrain =>
    intro s die a g c hg hr hl hf hw hh
    exact congrArg Host.Outcome.next (endWait_acre hg hr hl hf (by rw [hw, hh]; rfl) 0x41 _)
  case chainBroken =>
    intro s die a g c hg hr hl hf hb hw
    exact congrArg Host.Outcome.next (endWait_acre hg hr hl hf (by rw [hb, hw]; rfl) 0x42 _)

end Sys2Proof.Proofs
end

section
/-! Completion records, unreadable bounds and the training of adapters (R271, R390, R427, R436, R521). -/

namespace Sys2Proof.Proofs

open Sys2Proof Sys2Proof.Machine Sys2Proof.Laws

section

variable {s : State}

section

variable {rec : CourseRec} {rest : List CourseRec} {ws : List (Nat × Nat)} (hr : s.records = rec :: rest) (hf : frozen s = false)
  (hws : ws = if rec.shares.isEmpty then workShares { s with records := rest } rec.issue.work rec.holding else rec.shares)
include hr hf hws

/-- A record of a step that used no prediction: its fault is the step's (R427). -/
theorem courseRecord_step {k : Nat} (hk : stepOfWork rec.issue.work = some k) (hp : rec.pred = false) :
    courseRecord s = if isFault rec.status then stepFault k rec (noteSpill rec (chargeAct ws rec.act { s with records := rest }))
      else noteSpill rec (chargeAct ws rec.act { s with records := rest }) := by
  subst hws
  unfold courseRecord
  simp only [hr, hf, hk, hp, Bool.not_eq_true', Bool.false_eq_true, if_false]
  cases rec.shares.isEmpty <;> rfl

/-- A record outside the steps changes nothing more, unless it is a fault of training (R390). -/
theorem courseRecord_noStep (hk : stepOfWork rec.issue.work = none) (hq : rec.issue.work ≠ .train ∨ isFault rec.status = false) :
    courseRecord s = noteSpill rec (chargeAct ws rec.act { s with records := rest }) := by
  subst hws
  have hn : ¬ (rec.issue.work = .train ∧ isFault rec.status = true) := by
    rcases hq with hq | hq <;> simp [hq]
  unfold courseRecord
  simp only [hr, hf, hk, if_neg hn, Bool.not_eq_true', Bool.false_eq_true, if_false]
  cases rec.shares.isEmpty <;> rfl

end

section

variable (hf : frozen s = false)
include hf

theorem boundUnreadable_course {iss : Issue} {im : Image} {d : List Byte} (hd : courseDesc s iss = some (im, d))
    (hh : issueCheck s iss im d = .held) : boundUnreadable iss false s = refuseCourse iss im.owner d 0x2B (countIssue s) := by
  unfold boundUnreadable
  simp only [hf, hd, Bool.false_eq_true, if_false]
  rw [if_pos hh]

theorem boundUnreadable_coll {iss : Issue} {im : Image} {r : List Byte} (hd : collDesc s iss = some (im, r))
    (hh : collCheck s iss im r = .held) : boundUnreadable iss true s = refuseColl iss im.owner 0x2B r (countIssue s) := by
  unfold boundUnreadable
  simp only [hf, hd, Bool.false_eq_true, if_false, if_true]
  rw [if_pos hh]

/-- A step of training that has ended without a fault counts; after the last one the command is answered (R390). -/
theorem trainStep_ended {t : Training} (ht : s.eng.training = some t) (hb : trainBusy s = false) (h0 : t.fault = 0) (src : CmdSrc)
    {u : Training} (hu : u = { t with left := t.left - 1, ran := t.ran + 1 }) :
    trainStep src true s = if u.left = 0 then trainEnd u s
      else mendChains .train (setEng (fun e => { e with training := some u }) s) := by
  subst hu
  unfold trainStep
  rw [if_pos rfl, ht]
  dsimp only
  rw [if_neg (by simp [hf, hb]), if_neg (not_not.2 h0)]

end

/-- The command starts the training of an adapter of its own sender, for at least one step (R390). -/
theorem trainStep_taken {t : State} {src : CmdSrc} {c : HostCmd} {a : Adapter} (hn : s.eng.training = none)
    (ht : taken src 0x1A s = some (c, t)) (ha : lookupK t.eng.adapters c.handle = some a) (ho : a.owner = c.by_)
    (hrel : a.released = false) (hne : c.arg1 ≠ 0) :
    trainStep src false s = setEng (fun e => { e with training := some { cmd := c, left := c.arg1 } }) t := by
  unfold trainStep
  rw [if_neg Bool.false_ne_true, hn, if_neg (by simp), takeCmd_taken _ ht, ha]
  dsimp only
  rw [if_neg (by simp [ho, hrel]), if_neg hne]

end

/-- Settles O19: each clause is the equation of its command's meaning at a state that meets the premises. -/
theorem recordsAndTraining : Obligations.RecordsAndTraining := by
  refine ⟨?recordOfStep, ?recordOutsideSteps, ?boundOfCourse, ?boundOfCollective, ?trainStart, ?trainStepEnd⟩
  case recordOfStep =>
    rintro s rec rest ws k _ hr hf hws hk hp rfl
    exact congrArg Host.Outcome.next (courseRecord_step hr hf hws hk hp)
  case recordOutsideSteps =>
    intro s rec rest ws hr hf hws hk hq
    exact congrArg Host.Outcome.next (courseRecord_noStep hr hf hws hk hq)
  case boundOfCourse =>
    intro s iss im d hd hf hh
    exact congrArg Host.Outcome.next (boundUnreadable_course hf hd hh)
  case boundOfCollective =>
    intro s iss im r hd hf hh
    exact congrArg Host.Outcome.next (boundUnreadable_coll hf hd hh)
  case trainStart =>
    intro s t src c a hn ht ha ho hrel hne
    exact congrArg Host.Outcome.next (trainStep_taken hn ht ha ho hrel hne)
  case trainStepEnd =>
    intro s src t u ht hf hb h0 hu
    exact congrArg Host.Outcome.next (trainStep_ended hf ht hb h0 src hu)

end Sys2Proof.Proofs
end

section
/-! The bytes that an admitted write of a scratchpad's window reaches, and those that it leaves (R290, R291, R300, R306, R602). -/

namespace Sys2Proof.Proofs

open Sys2Proof Sys2Proof.Machine Sys2Proof.Laws

/-- An offset of the scratchpad proper in a logical acre's window lies in the scratchpad that the window shows, a doubled acre's
included (R290, R578). -/
theorem locate_window (s : State) (die : Die) (acre : LAcre) {off : Nat} (ho : off < 0x200000) :
    locate s (0xC000000000 + die.val * 0x100000000 + acre.val * 0x4000000 + off) = .spad (spadOf s die.val acre.val) off := by
  have hd := die.isLt
  have ha := acre.isLt
  generalize haddr : 0xC000000000 + die.val * 0x100000000 + acre.val * 0x4000000 + off = addr
  have hdie : (addr - 0xC000000000) / 0x100000000 = die.val := by omega
  have hacre : (addr - 0xC000000000) % 0x100000000 / 0x4000000 = acre.val := by omega
  have hoff : (addr - 0xC000000000) % 0x100000000 % 0x4000000 = off := by omega
  unfold locate spadOf
  rw [if_neg (by omega), if_neg (by omega), if_pos (by omega)]
  dsimp only
  rw [hdie, hacre, hoff, if_pos ho]
  cases lookupK s.doubled (die.val * 64 + acre.val) <;> rfl

theorem modAcre_sameMemory (g : Nat) (f : Acre → Acre) (s : State) : SameMemory s (modAcre g f s) := sameMemory_of rfl rfl rfl rfl

theorem modAcre_regs (g : Nat) (f : Acre → Acre) (s : State) : (modAcre g f s).regs = s.regs := rfl

theorem clearPoison_regs (a n : Nat) (s : State) : (clearPoison a n s).regs = s.regs := by
  unfold clearPoison
  split <;> rfl

theorem wrBytes_regs (a : Nat) (bs : List Byte) (s : State) : (wrBytes a bs s).regs = s.regs := by
  obtain ⟨m, n, h⟩ := wrBytes_only a bs s
  rw [h]

theorem wrMem_regs (a : Nat) (bs : List Byte) (s : State) : (wrMem a bs s).regs = s.regs :=
  (clearPoison_regs ..).trans (wrBytes_regs ..)

/-- What a write of a byte string leaves in memory is its bytes: the poison that it ends is none of memory's bytes. -/
theorem rdByte_wrMem (a : Nat) (bs : List Byte) (s : State) (y : Nat) : rdByte (wrMem a bs s) y = rdByte (wrBytes a bs s) y :=
  clearPoison_sameMemory a bs.length (wrBytes a bs s) y

section

variable {s : State} {die : Die} {acre : LAcre} {off A : Nat} (hA : A = 0xC000000000 + die.val * 0x100000000 + acre.val * 0x4000000 + off)
  {bs : List Byte} (hfit : off + bs.length ≤ 0x200000)
include hA hfit

/-- Byte i of a string that fits into the scratchpad lies i behind its offset. -/
theorem locate_windowByte {i : Nat} (hi : i < bs.length) : locate s (A + i) = .spad (spadOf s die.val acre.val) (off + i) := by
  rw [hA, Nat.add_assoc]
  exact locate_window s die acre (by omega)

/-- A string that fits into the scratchpad reads back from the window, since its bytes lie at offsets of their own. -/
theorem rdByte_wrMem_window {i : Nat} (hi : i < bs.length) : rdByte (wrMem A bs s) (A + i) = bs[i] := by
  have hloc := locate_windowByte (s := s) hA hfit hi
  rw [rdByte_wrMem]
  refine rdByte_wrBytes_at A bs s i hi (by rw [hloc]; exact Loc.noConfusion) fun j hj hji hsame => ?_
  rw [hloc, locate_windowByte hA hfit hj] at hsame
  injection hsame with _ hoff
  omega

end

/-- Settles O54: the access is one write of its data at its window's address, and that write's bytes lie at offsets of their own. -/
theorem scratchpadStoreReachesItsBytesOnly : Obligations.ScratchpadStoreReachesItsBytesOnly := by
  intro s x g A hg hA hf ha hfit hne hc ht hw he hown hp
  have ho : x.off < 0x200000 := by
    have := List.length_pos_iff.2 hne
    omega
  refine ⟨_, congrArg Host.Outcome.next (spadAccess_write hf hg ha ho hc ht hown hA hw he hp), fun i hi => ?stored, fun y hy => ?elsewhere, fun a _ => ?regs⟩
  case stored => exact (modAcre_sameMemory _ _ _ _).trans (rdByte_wrMem_window hA hfit hi)
  case elsewhere => exact (modAcre_sameMemory _ _ _ _).trans ((rdByte_wrMem ..).trans (rdByte_wrBytes_other _ _ _ _ hy))
  case regs => exact regGet_congr ((modAcre_regs ..).trans (wrMem_regs ..)) a

end Sys2Proof.Proofs
end

section
/-! The Sluice, the bank self-test and the circular ports (R303, R309 to R311). -/

namespace Sys2Proof.Proofs

open Sys2Proof Sys2Proof.Machine Sys2Proof.Laws

/-! ### Writes of SPD_SLUICE and SPD_BIST -/

section

variable {s : State} {g k : Nat} {data : Word}

/-- GO starts the handover that it names, where no handover is in progress and none of its refusals holds (R303, R304). -/
theorem sluiceGo_started {dst : BankOwner} (hk : k = fldOf F.spdSluiceBank data) (hdst : dst = ownerOf (fldOf F.spdSluiceTo data))
    (hgo : fldOf F.spdSluiceGo data = 1) (hidle : (getAcre s g).sluice = none)
    (hserves : ¬((getBank s g k).owner = .seq ∧ dst ≠ .seq ∧ inService s g = true)) (hfull : bankHasFull s g k = false)
    (hcirc : ¬(fldOf F.spdSluiceCirc data = 1 ∧ (dst = .seq ∨ dst = .none_))) :
    sluiceGo g data s = setF (spdB g) F.spdSluiceResult 1
      (modAcre g (fun a => { a with sluice := some (k, dst, decide (fldOf F.spdSluiceCirc data = 1)) })
        (regSet (spdB g + 0x100) (fldPut F.spdSluiceBank k (fldPut F.spdSluiceTo (fldOf F.spdSluiceTo data)
          (fldPut F.spdSluiceCirc (fldOf F.spdSluiceCirc data) (regGet s (spdB g + 0x100))))) s)) := by
  subst hk hdst
  unfold sluiceGo
  dsimp only
  rw [if_neg (by simp [hgo, hidle]), if_neg (by rw [hfull]; tauto)]

/-- RUN starts the test of a circular bank that TEST owns, where no test runs (R311). -/
theorem bistRun_started (hk : k = fldOf F.spdBistBank data) (hrun : fldOf F.spdBistRun data = 1) (hidle : (getAcre s g).bist = none)
    (hown : (getBank s g k).owner = .test) (hcirc : (getBank s g k).circ = true) :
    bistRun g data s = setF (spdB g) F.spdBistBusy 1 (modAcre g (fun a => { a with bist := some k }) (setF (spdB g) F.spdBistBank k s)) := by
  subst hk
  unfold bistRun
  dsimp only
  rw [if_neg (by simp [hidle]), if_pos ⟨hrun, hown, hcirc⟩]

end

/-! ### The end of a handover and of a test, and the circular ports -/

section

variable {s : State} {g k : Nat} (hf : frozen s = false)
include hf

/-- The bank takes the owner and the mode of its handover; a bank that becomes circular starts empty (R303, R309). -/
theorem sluiceComplete_running {dst : BankOwner} {circ : Bool} (hs : (getAcre s g).sluice = some (k, dst, circ)) :
    sluiceComplete g s = irqRaise (spdB g) 4 (setF (spdB g) F.spdSluiceResult 2
      (modAcre g (fun a => { a with sluice := none }) (setBank g k
        (if circ && !(getBank s g k).circ then { owner := dst, circ := true } else { getBank s g k with owner := dst, circ := circ }) s))) := by
  unfold sluiceComplete
  simp only [hs]
  rw [if_neg (Bool.eq_false_iff.1 hf)]

/-- A test without a failing column passes, and its last pattern covers the bank (R311). -/
theorem bistDone_pass (hb : (getAcre s g).bist = some k) :
    bistDone g none s = irqRaise (spdB g) 8 (setF (spdB g) F.spdBistBusy 0 (setB (spdB g) F.spdBistPass true
      (setF (spdB g) F.spdBistFailcol 0x3FF (fillBank g k (BitVec.ofNat 8 (Config.freeWord s.freeCtr).toNat)
        { (modAcre g (fun a => { a with bist := none }) s) with freeCtr := s.freeCtr + 1 })))) := by
  unfold bistDone
  simp only [hb]
  rw [if_neg (Bool.eq_false_iff.1 hf)]
  rfl

section

variable {b : BankSt} (hb : b = getBank s g k) (hc : bankClosing s g k = false) (hcirc : b.circ = true) (hown : b.owner = .mgmt)
include hb hc hcirc hown

/-- A write of a line or of a word that the ring has room for appends at WPTR (R309, R310). -/
theorem circWrite_room {data : List Byte} {n : Nat} (hn : n = if data.length = 64 then 8 else 1) (hroom : b.cnt + n ≤ 32768) :
    circWrite g k data s = setBank g k { b with wptr := (b.wptr + n) % 32768, cnt := b.cnt + n }
      (wrBankBytes g k (b.wptr * 8) ((data ++ List.replicate 8 0).take (8 * n)) s) := by
  subst hb hn
  unfold circWrite
  dsimp only
  rw [if_neg (by simp [hf, hc]), if_neg (by simp [hcirc, hown]), if_neg (Nat.not_lt.2 hroom)]

/-- A read of a line or of a word that the ring holds takes from RPTR (R309, R310). -/
theorem circRead_filled {line : Bool} {n : Nat} (hn : n = if line then 8 else 1) (hfill : n ≤ b.cnt) :
    circRead g k line s = setBank g k { b with rptr := (b.rptr + n) % 32768, cnt := b.cnt - n }
      (emit (.spad g (0x800000 + k * 0x40000) 3 ((List.range (8 * n)).map (fun i => rdBankByte s g k (b.rptr * 8 + i))) true) s) := by
  subst hb hn
  unfold circRead
  dsimp only
  rw [if_neg (by simp [hf, hc]), if_neg (by simp [hcirc, hown]), if_neg (Nat.not_lt.2 hfill)]

end

end

/-- Settles O3: each clause is the equation of its command's meaning at a state that meets the premises. -/
theorem scratchpadHandoverAndTest : Obligations.ScratchpadHandoverAndTest := by
  refine ⟨?sluiceGo, ?sluiceComplete, ?bistRun, ?bistDone, ?circWrite, ?circRead⟩
  case sluiceGo =>
    rintro s p die acre data _ k dst rfl hk hdst hw hgo hidle hserves hfull hcirc
    exact congrArg Host.Outcome.next ((ownedWrite_ok _ _ hw).trans (sluiceGo_started hk hdst hgo hidle hserves hfull hcirc))
  case sluiceComplete =>
    rintro s die acre _ k dst circ rfl hf hs
    exact congrArg Host.Outcome.next (sluiceComplete_running hf hs)
  case bistRun =>
    rintro s p die acre data _ k rfl hk hw hrun hidle hown hcirc
    exact congrArg Host.Outcome.next ((ownedWrite_ok _ _ hw).trans (bistRun_started hk hrun hidle hown hcirc))
  case bistDone =>
    rintro s die acre _ k rfl hf hb
    exact congrArg Host.Outcome.next (bistDone_pass hf hb)
  case circWrite =>
    rintro s die acre bank data _ n b rfl hb hn hf hc hcirc hown hroom
    exact congrArg Host.Outcome.next (circWrite_room hf hb hc hcirc hown hn hroom)
  case circRead =>
    rintro s die acre bank line _ n b rfl hb hn hf hc hcirc hown hfill
    exact congrArg Host.Outcome.next (circRead_filled hf hb hc hcirc hown hn hfill)

end Sys2Proof.Proofs
end

section
/-! Register writes that do more than store their word (R307, R481, R508, R512, R522, R608, R609, R613, R614). -/

namespace Sys2Proof.Proofs

open Sys2Proof Sys2Proof.Machine Sys2Proof.Laws

/-! ### A path's own copy of a select (R609) -/

theorem pathNum_lt (p : Path) : pathNum p < 8 := by
  cases p with
  | host n => exact Nat.lt_trans n.isLt (by decide)
  | cores | mgmt | tap => decide

theorem pathNum_injective {p q : Path} (h : pathNum p = pathNum q) : p = q := by
  cases p with
  | host m =>
    have := m.isLt
    cases q with
    | host n => exact congrArg Path.host (Fin.ext h)
    | cores | mgmt | tap =>
      simp only [pathNum] at h
      omega
  | cores | mgmt | tap =>
    cases q with
    | host n =>
      have := n.isLt
      simp only [pathNum] at h
      omega
    | cores | mgmt | tap =>
      revert h
      decide

/-- A path's copy of a select has a key of its own. -/
theorem selKey_injective {p q : Path} {a b : Nat} (h : selKey p a = selKey q b) : p = q ∧ a = b := by
  have hp := pathNum_lt p
  have hq := pathNum_lt q
  unfold selKey at h
  exact ⟨pathNum_injective (by omega), by omega⟩

/-- A write of one copy leaves every other path's copy and every other select. -/
theorem selGet_selSet_other {p q : Path} {a b : Nat} (w : Word) (s : State) (h : q ≠ p ∨ b ≠ a) :
    selGet (selSet p a w s) q b = selGet s q b :=
  getK_setK_other _ _ _ _ _ _ fun e => h.elim (fun hp => hp (selKey_injective e).1) (fun ha => ha (selKey_injective e).2)

theorem regGet_selSet (p : Path) (a : Nat) (w : Word) (s : State) (b : Nat) : regGet (selSet p a w s) b = regGet s b :=
  regGet_congr (selSet_regs ..) b

theorem sameMemory_selSet (p : Path) (a : Nat) (w : Word) (s : State) : SameMemory s (selSet p a w s) :=
  sameMemory_of (selSet_amap ..) (selSet_doubled ..) (selSet_hbm ..) (selSet_spad ..)

/-- The selects lie behind the header, and a plain write of one only stores it. -/
theorem isSel_stores {tag : BlkTag} {off : Nat} (h : isSel tag off = true) : 0x100 ≤ off ∧ actsOnWrite tag off = false := by
  unfold isSel at h
  split at h
  case h_12 => exact Bool.noConfusion h
  all_goals exact ⟨by decide, rfl⟩

/-! ### Permitted plain writes, by register -/

section

variable {s : State} {p : Path} {addr base off : Nat} {b : Blk}

/-- A register behind the header that does nothing more on a plain write takes on its rw fields. -/
theorem regWrite_apply (data : Word) (h : MayWrite s p addr base b 0) (hoff : addr % 0x1000 = off) (ho : 0x100 ≤ off)
    (ha : actsOnWrite b.tag off = false) : regWrite p addr data 15 s = applyRw p base b off data s := by
  rw [regWrite_plain data h, hoff, plainWrite_apply off data (by omega) (by omega) (by omega) ha]

theorem applyRw_sel (data : Word) (h : isSel b.tag off = true) :
    applyRw p base b off data s = selSet p (base + off) (mergeRw (rwMask b.tag off) (selGet s p (base + off)) data) s := by
  have ho := (isSel_stores h).1
  unfold applyRw
  dsimp only
  rw [if_neg (by omega), if_pos h]

theorem regGet_storeRw_same (tag : BlkTag) (w : Word) (u : State) :
    regGet (storeRw base tag off w u) (base + off) = mergeRw (rwMask tag off) (regGet u (base + off)) w := regGet_regSet_same ..

theorem regGet_storeRw_other (tag : BlkTag) (w : Word) (u : State) {a : Nat} (h : a ≠ base + off) :
    regGet (storeRw base tag off w u) a = regGet u a := regGet_regSet_other _ _ _ _ h

theorem sameMemory_storeRw (tag : BlkTag) (w : Word) (u : State) : SameMemory u (storeRw base tag off w u) :=
  sameMemory_of (regSet_amap ..) (regSet_doubled ..) (regSet_hbm ..) (regSet_spad ..)

/-- IRQ_EN, and BLK_CTRL without ERR_CLR, take on their rw fields under the interrupt gate (R611, R613, R614). -/
theorem regWrite_gated (data : Word) (h : MayWrite s p addr base b 0) (hoff : addr % 0x1000 = off)
    (ho : off = 0x18 ∨ (off = 0x0C ∧ data.getLsbD 8 = false)) :
    regWrite p addr data 15 s = irqGate base (storeRw base b.tag off data) s := by
  rw [regWrite_plain data h, hoff]
  rcases ho with rfl | ⟨rfl, hclr⟩
  · exact plainWrite_enable data
  · rw [plainWrite_ctrl]
    unfold ctrlWrite
    dsimp only
    rw [hclr, if_neg Bool.false_ne_true]

/-- The interrupt gate signals where the enabled pending bits of an HQ block become non-zero (R614). -/
theorem irqGate_of (hb : blkOf base = some b) (f : State → State) :
    irqGate base f s = if b.tag = .hq ∧ irqActive s base = 0 ∧ irqActive (f s) base ≠ 0
      then signalVec b.inst (getF (f s) base F.hqIrqcfgVector) (f s) else f s := hqIrqEdge_of hb _ _

/-- HQ_COAL of an HQ block has an operation of its own (R512). -/
theorem regWrite_coal (data : Word) (ht : b.tag = .hq) (h : MayWrite s p addr base b 0) (hoff : addr % 0x1000 = 0x118) :
    regWrite p addr data 15 s = writeCoal b.inst data s := by
  obtain ⟨tag, inst, die, owner⟩ := b
  cases ht
  exact regWrite_apply data h hoff (by decide) rfl

/-- HQ_LCFG of an HQ block has an operation of its own (R522). -/
theorem regWrite_lcfg (data : Word) (ht : b.tag = .hq) (h : MayWrite s p addr base b 0) (hoff : addr % 0x1000 = 0x124) :
    regWrite p addr data 15 s = writeLcfg b.inst data s := by
  obtain ⟨tag, inst, die, owner⟩ := b
  cases ht
  exact regWrite_apply data h hoff (by decide) rfl

end

/-! ### The bases of an HQ block (R508, R522, R608) -/

section

variable {s : State} {p : Path} {h q : Nat}

/-- A base of a disabled pair takes on what is written (R508). -/
theorem setQBase_disabled (hd : (getQP s h q).en = false) (f : Nat → Nat) :
    setQBase h q true f s = setQP h q { getQP s h q with cqb := f (getQP s h q).cqb } s := by
  unfold setQBase
  dsimp only
  rw [if_neg (by rw [hd]; exact Bool.false_ne_true), if_pos rfl]

/-- The low half of a base and then its high half make up the whole base, whose low 12 bits are reserved. -/
theorem putHalf_both (lo hi : Word) (v : Nat) :
    putHalf true hi (putHalf false lo v) = lo.toNat / 4096 * 4096 + hi.toNat * 2 ^ 32 := by
  have := lo.isLt
  unfold putHalf
  rw [if_pos rfl, if_neg Bool.false_ne_true]
  omega

/-- A write of HQ_CQB_HI while the selected pair is disabled: its completion base takes the low half and then the high half, and the staged
LO is dropped (R508, R608). -/
theorem pairWrite_cqb {b : Blk} (ht : b.tag = .hq) (hi : b.inst = h) (hq : q = selQP s p h) (hd : (getQP s h q).en = false) (w : Word) {v : Nat}
    (hv : v = pairValue p (hqB h + 0x10C) (liveWord s p (hqB h) b 0x10C) w s) :
    pairWrite p (hqB h) b 0x10C w s = unstage p (hqB h + 0x10C)
      (setQP h q { getQP s h q with cqb := v % 2 ^ 32 / 4096 * 4096 + w.toNat * 2 ^ 32 }
        (setQP h q { getQP s h q with cqb := putHalf false (BitVec.ofNat 32 v) (getQP s h q).cqb } s)) := by
  obtain ⟨tag, inst, die, owner⟩ := b
  cases ht
  cases hi
  subst hq hv
  have hlo (x : Word) : applyRw p (hqB inst) ⟨.hq, inst, die, owner⟩ 0x10C x s = setQBase inst (selQP s p inst) true (putHalf false x) s := rfl
  have hhi (u : State) : applyRw p (hqB inst) ⟨.hq, inst, die, owner⟩ 0x110 w u = setQBase inst (selQP u p inst) true (putHalf true w) u := rfl
  have hsel (x : QPSt) : selQP (setQP inst (selQP s p inst) x s) p inst = selQP s p inst := rfl
  unfold pairWrite
  dsimp only
  rw [hlo, setQBase_disabled hd, hhi, hsel, setQBase_disabled (by rw [getQP_setQP_same]; exact hd), getQP_setQP_same]
  dsimp only
  rw [putHalf_both, BitVec.toNat_ofNat]

/-- A write of HQ_LDB_HI stores the ledger base half by half and drops the staged LO (R522, R608). -/
theorem pairWrite_ldb {base : Nat} {b : Blk} (ht : b.tag = .hq) (w : Word) {v : Nat}
    (hv : v = pairValue p (base + 0x11C) (liveWord s p base b 0x11C) w s) :
    pairWrite p base b 0x11C w s =
      unstage p (base + 0x11C) (storeRw base .hq 0x120 w (storeRw base .hq 0x11C (BitVec.ofNat 32 v) s)) := by
  obtain ⟨tag, inst, die, owner⟩ := b
  cases ht
  subst hv
  rfl

/-- A HI write of the completion or the ledger base pair of an HQ block takes the pair's value, and the staged LO is dropped (R608). -/
theorem hiWrite_pair {addr base lo : Nat} {b : Blk} (data : Word) (hm : MayWrite s p addr base b 0) (ht : b.tag = .hq)
    (hoff : addr % 0x4000 = lo + 4) (hlo : lo = 0x10C ∨ lo = 0x11C) :
    atOffset (fun b o => isHi b.tag o) addr (regWrite p addr data 15) s = pairWrite p base b lo data s := by
  have hplain := regWrite_plain data hm
  obtain ⟨hp, -⟩ := hm
  have hreg : addr % 0x1000 = lo + 4 := by omega
  obtain ⟨tag, inst, die, owner⟩ := b
  cases ht
  rw [atOffset_ok _ _ hp (by rw [hoff]; rcases hlo with rfl | rfl <;> rfl), hplain, hreg]
  rcases hlo with rfl | rfl <;> rfl

theorem sameMemory_setQP (x : QPSt) (u : State) : SameMemory u (setQP h q x u) :=
  sameMemory_of (setQP_amap ..) (setQP_doubled ..) (setQP_hbm ..) (setQP_spad ..)

theorem regGet_setQP (x : QPSt) (u : State) (a : Nat) : regGet (setQP h q x u) a = regGet u a := regGet_congr (setQP_regs ..) a

/-- Dropping a staged LO touches the latch alone. -/
theorem sameMemory_unstage (lo : Nat) (u : State) : SameMemory u (unstage p lo u) :=
  sameMemory_of (setLatch_amap ..) (setLatch_doubled ..) (setLatch_hbm ..) (setLatch_spad ..)

theorem regGet_unstage (lo : Nat) (u : State) (a : Nat) : regGet (unstage p lo u) a = regGet u a := regGet_congr (setLatch_regs ..) a

theorem getQP_unstage (lo : Nat) (u : State) (k j : Nat) : getQP (unstage p lo u) k j = getQP u k j :=
  getQP_congr (setLatch_qps ..) k j

theorem unstage_staged (lo : Nat) (u : State) : (getLatch (unstage p lo u) p lo).staged = none :=
  congrArg PairLatch.staged (getLatch_setLatch_same ..)

end

/-! ### The pairs of task 3 (R307) -/

/-- SPD_TBASE and SPD_TBOUND write the selected pair where the selected task is 3; task 3's pairs are numbered from 12 on. -/
theorem writePair_selected {s : State} {p : Path} {g k : Nat} {bound : Bool} {data t : Word} {x y : Pair}
    (ht : t = selGet s p (spdB g + 0x110)) (hk : k = 12 + fldOf F.spdTselPair t) (hx : x = getK (getAcre s g).pairs k {})
    (hy : y = if bound then
          { x with bound := 64 * min 0x8000 (fldOf F.spdTboundBound data), r := decide (fldOf F.spdTboundR data = 1),
                   w := decide (fldOf F.spdTboundW data = 1), valid := decide (fldOf F.spdTboundValid data = 1) }
        else { x with base := 64 * fldOf F.spdTbaseBase data }) :
    writePair p g bound data s =
      if fldOf F.spdTselTask t = 3 then modAcre g (fun a => { a with pairs := setK a.pairs k y {} }) s else s := by
  subst ht hk hx hy
  unfold writePair
  dsimp only
  by_cases h3 : fldOf F.spdTselTask (selGet s p (spdB g + 0x110)) = 3
  · rw [if_pos h3, if_pos h3, h3]
  · rw [if_neg h3, if_neg h3]

/-- Settles O56: each register's write is the operation of its chapter, on the state that meets the premises. -/
theorem registerWritesWithFurtherEffect : Obligations.RegisterWritesWithFurtherEffect := by
  refine ⟨?select, ?interrupt, ?coalesce, ?ledger, ?cistern, ?taskPair, ?completionBase, ?ledgerBase⟩
  case select =>
    intro s p addr data base b hm hsel
    obtain ⟨ho, ha⟩ := isSel_stores hsel
    exact ⟨_, congrArg Host.Outcome.next ((regWrite_apply data hm rfl ho ha).trans (applyRw_sel data hsel)), selGet_selSet_same ..,
      fun q a => selGet_selSet_other _ s, fun a _ => regGet_selSet _ _ _ _ a, sameMemory_selSet _ _ _ _⟩
  case interrupt =>
    rintro s _ p addr data base b off hm hoff ho rfl
    refine ⟨_, congrArg Host.Outcome.next ((regWrite_gated data hm hoff ho).trans (irqGate_of (blkOf_of_placeOf hm.1).2 _)), rfl,
      fun a ha => ?regs, fun a => ?memory⟩
    case regs => exact (regGet_signalIf ..).trans (regGet_storeRw_other _ _ _ fun e => ha (List.mem_singleton.2 e))
    case memory => exact (sameMemory_signalIf _ _ _ _ a).trans (sameMemory_storeRw _ _ _ a)
  case coalesce =>
    rintro s _ p addr data b h hm hoff ht hi rfl
    have hw := regWrite_coal data ht hm hoff
    rw [hi] at hw
    exact congrArg Host.Outcome.next hw
  case ledger =>
    rintro s _ p addr data b h hm hoff ht hi rfl
    have hw := regWrite_lcfg data ht hm hoff
    rw [hi] at hw
    exact congrArg Host.Outcome.next hw
  case cistern =>
    intro s p addr data hm hoff
    exact congrArg Host.Outcome.next (regWrite_apply data hm hoff (by decide) rfl)
  case taskPair =>
    rintro s p addr data die acre g k _ t bound x y hg rfl hm hoff ht hk hx hy
    have hw := writePair_selected ht hk hx hy
    subst hg
    cases bound <;> exact congrArg Host.Outcome.next ((regWrite_apply data hm hoff (by decide) rfl).trans hw)
  case completionBase =>
    intro s p addr data h b hm ht hi hoff hd lo
    refine ⟨_, congrArg Host.Outcome.next ((hiWrite_pair data hm ht hoff (.inl rfl)).trans (pairWrite_cqb ht hi rfl hd data rfl)), ?base,
      unstage_staged _ _, fun a _ => ?regs, fun a => ?memory⟩
    case base => rw [getQP_unstage, getQP_setQP_same]
    case regs => rw [regGet_unstage, regGet_setQP, regGet_setQP]
    case memory => rw [sameMemory_unstage, sameMemory_setQP, sameMemory_setQP]
  case ledgerBase =>
    intro s p addr data b h v hm ht hoff hv
    refine ⟨_, congrArg Host.Outcome.next ((hiWrite_pair data hm ht hoff (.inr rfl)).trans (pairWrite_ldb ht data hv)), ?low, ?high,
      unstage_staged _ _, fun a ha => ?regs, fun a => ?memory⟩
    case low => rw [regGet_unstage, regGet_storeRw_other _ _ _ (by omega), regGet_storeRw_same]
    case high => rw [regGet_unstage, regGet_storeRw_same, regGet_storeRw_other _ _ _ (by omega)]
    case regs =>
      simp only [List.mem_cons, List.not_mem_nil, or_false, not_or] at ha
      rw [regGet_unstage, regGet_storeRw_other _ _ _ ha.2, regGet_storeRw_other _ _ _ ha.1]
    case memory => rw [sameMemory_unstage, sameMemory_storeRw, sameMemory_storeRw]

end Sys2Proof.Proofs
end

section
/-! The bytes of a page's elements in its frame (R339). -/

namespace Sys2Proof.Proofs

open Sys2Proof Sys2Proof.Machine

/-- Row and column of a row-major place with columns below `n` are its quotient and remainder by `n`. -/
theorem rowMajor_inj {n i j i' j' : Nat} (hj : j < n) (hj' : j' < n) (h : n * i + j = n * i' + j') : i = i' ∧ j = j' := by
  have hn : 0 < n := Nat.zero_lt_of_lt hj
  obtain ⟨hi, hr⟩ := (Nat.div_mod_unique hn).2 ⟨Nat.add_comm j (n * i), hj⟩
  obtain ⟨hi', hr'⟩ := (Nat.div_mod_unique hn).2 ⟨(Nat.add_comm j' (n * i')).trans h.symm, hj'⟩
  exact ⟨hi.symm.trans hi', hr.symm.trans hr'⟩

section

variable {d r t : Nat}

/-- K bytes: a row of 64 positions for each dimension. -/
theorem kvOff_key : kvOff d false r t = 64 * r + t := rfl

/-- V bytes: after the K bytes, a row of d dimensions for each position. -/
theorem kvOff_value : kvOff d true r t = 64 * d + (d * t + r) := Nat.add_assoc ..

variable (hr : r < d) (ht : t < 64)
include hr ht

theorem kvOff_key_lt : kvOff d false r t < 64 * d := by
  rw [kvOff_key, Nat.mul_comm 64 d]
  exact Nat.mul_add_lt_mul_of_lt_of_lt hr ht

theorem kvOff_value_lt : kvOff d true r t < 128 * d := by
  have hlt : d * t + r < 64 * d := Nat.mul_add_lt_mul_of_lt_of_lt ht hr
  rw [kvOff_value]
  omega

/-- The bytes of K lie below 64d, those of V from there on, and each half is row-major. -/
theorem kvOff_inj {r' t' : Nat} (hr' : r' < d) (ht' : t' < 64) {v w : Bool} (h : kvOff d v r t = kvOff d w r' t') :
    v = w ∧ r = r' ∧ t = t' := by
  cases v <;> cases w
  case false.false => exact ⟨rfl, rowMajor_inj ht ht' h⟩
  case false.true =>
    have hlt := kvOff_key_lt hr ht
    rw [h, kvOff_value] at hlt
    omega
  case true.false =>
    have hlt := kvOff_key_lt hr' ht'
    rw [← h, kvOff_value] at hlt
    omega
  case true.true =>
    rw [kvOff_value, kvOff_value] at h
    exact ⟨rfl, (rowMajor_inj hr hr' (Nat.add_left_cancel h)).symm⟩

end

/-- Settles O51: the K half and the V half of a frame are disjoint, and each is row-major. -/
theorem frameBytesOfPagesDoNotOverlap : Obligations.FrameBytesOfPagesDoNotOverlap := by
  intro d r t v hr ht
  refine ⟨rfl, ?_, ?_, fun w r' t' hr' ht' h => kvOff_inj hr ht hr' ht' h⟩
  · cases v with
    | false => exact Nat.zero_le _
    | true => exact (Nat.le_add_right ..).trans_eq kvOff_value.symm
  · cases v with
    | false => exact kvOff_key_lt hr ht
    | true => exact kvOff_value_lt hr ht

end Sys2Proof.Proofs
end

section
/-! The stream commands of a holding: admission, the commands on a named stream, LIST, the end of an ID's hold (R400 to R408, R420, R421, R425, R516,
R517). -/

namespace Sys2Proof.Proofs

open Sys2Proof Sys2Proof.Machine Sys2Proof.Laws

/-! ### ADMIT (R406, R408, R516, R517) -/

/-- The state with the new stream of an admission: its ID's next generation, the last ID allocated, the number of admissions and the context cache. -/
def withNewStream (x : Machine.Stream) (u : State) : State :=
  putStream x (setEng (fun e => { e with
    gens := setK e.gens x.id x.gen 0, lastId := x.id, admits := e.admits + 1, cache := evict u (x.id :: e.cache.erase x.id) }) u)

/-- The import's channel, where its descriptor names one, is bound to the stream. -/
def bindImport (c : HostCmd) (d : AdmitDesc) (x : Machine.Stream) (v : State) : State :=
  match xchanOf v c.by_ .kvIn 0 d.xchan with
  | some ch => modChan ch (fun y => { y with bind := bindOf x }) v
  | none => v

theorem bindImport_named {c : HostCmd} {d : AdmitDesc} {v : State} {ch : Nat} (h : xchanOf v c.by_ .kvIn 0 d.xchan = some ch) (x : Machine.Stream) :
    bindImport c d x v = modChan ch (fun y => { y with bind := bindOf x }) v := by
  unfold bindImport
  rw [h]

/-- An ADMIT that passes every check makes its stream; an import is answered at once, with its channel bound, and a prompt is awaited. -/
theorem admitStream_accepted {import_ : Bool} {s t u : State} {k id gen : Nat} {desc : List Byte} {c : HostCmd} {d : AdmitDesc} {x : Machine.Stream}
    {ms : List Nat} {rs : List (Nat × Nat)} {buf : Option (Nat × Nat)} (hd : d = parseAdmit desc) (hlen : desc.length = 128)
    (hi : d.import_ = import_) (ht : taken (.host k) 0x01 s = some (c, t)) (hgate : admitGate t c d = none) (hfirst : admitFirst t c d = none)
    (hsteps : admitSteps t c d = .inr id)
    (hpages : admitPages c.by_ ((getImage t d.image).elim ⟨0, 0, 64, 0⟩ imageDims) d t = .inr (ms, rs, buf, u)) (hring : ringHigh u c.by_ = false)
    (hgen : gen = (getK u.eng.gens id 0 + 1) % 4096) (hx : x = newStream u c d id gen ms rs buf) :
    admitStream import_ k desc s = if import_ then respond c 0 (handleOf x) 0 0 0 (bindImport c d x (withNewStream x u)) else withNewStream x u := by
  subst hd hx hgen
  have good : ¬(desc.length ≠ 128 ∨ (parseAdmit desc).import_ ≠ import_) := by simp [hlen, hi]
  unfold admitStream
  rw [if_neg good, takeCmd_taken _ ht, hgate, hfirst, hsteps]
  dsimp only
  rw [hpages]
  dsimp only
  rw [hring, if_neg Bool.false_ne_true, hi]
  cases import_ <;> rfl

/-- The prompt of an ADMIT that waits for it goes to its buffer; the stream then waits for a slot, or is CACHED, and the ADMIT is answered. -/
theorem promptStaged_staging {s : State} {id : Nat} {toks : List Word} {x : Machine.Stream} {c : HostCmd} (hx : getStream s id = some x)
    (hc : x.admitCmd = some c) (hf : frozen s = false) (hst : x.st = .staging) (hlen : toks.length = x.promptLen) :
    promptStaged id toks s = respond c 0 (handleOf x) 0 0 0
      (setStreamSt id (if moduleRole s = 3 then .cached else .waiting) (modStream id (fun y => { y with admitCmd := none })
        (wrMem x.promptBuf (toks.flatMap (fun w => leBytes 4 w.toNat)) (chargeBytes id (128 + 4 * x.promptLen) s)))) := by
  have due : ¬(frozen s || x.st ≠ .staging || toks.length ≠ x.promptLen) = true := by simp [hf, hst, hlen]
  unfold promptStaged
  rw [hx]
  dsimp only
  rw [hc]
  exact if_neg due

/-! ### Commands on a named stream (R399, R405, R420, R421, R425) -/

section

variable {s t : State} {src : CmdSrc} {c : HostCmd} {x : Machine.Stream}

/-- A command that names a stream of its holding runs on that stream, whose context it has read. -/
theorem onStream_taken {op : Nat} (f : HostCmd → Machine.Stream → State → State) (ht : taken src op s = some (c, t))
    (hn : namedStream t c = some x) : onStream src op f s = f c x (touch x.id t) := by
  unfold onStream
  rw [takeCmd_taken _ ht, hn]

/-- A stream at work is aborted at its next boundary. -/
theorem abort_atWork (ht : taken src 0x02 s = some (c, t)) (hn : namedStream t c = some x) (hst : x.st = .active ∨ x.st = .prompt) :
    abort src s = modStream x.id (fun y => { y with abortDue := true, abortCmds := y.abortCmds ++ [c] }) (touch x.id t) := by
  unfold abort
  rw [onStream_taken _ ht hn]
  rcases hst with hst | hst <;> rw [hst]

/-- A stream that neither works nor has ended is aborted at once, what it was exporting given up first. -/
theorem abort_atRest (ht : taken src 0x02 s = some (c, t)) (hn : namedStream t c = some x) (hst : ¬(x.st = .active ∨ x.st = .prompt))
    (hd : x.st ≠ .done) : abort src s =
      endStream x.id 0x02 (modStream x.id (fun y => { y with abortCmds := y.abortCmds ++ [c] }) (abandonExport x.id (touch x.id t))) := by
  unfold abort
  rw [onStream_taken _ ht hn]
  split
  next h => exact absurd h hd
  next h => exact absurd (.inl h) hst
  next h => exact absurd (.inr h) hst
  next => rfl

theorem parkCmd_taken (ht : taken src 0x03 s = some (c, t)) (hn : namedStream t c = some x)
    (hst : x.st = .waiting ∨ x.st = .prompt ∨ x.st = .active) (he : x.ending = none) :
    parkCmd src s = ack c (modStream x.id (fun y => { y with parkDue := true }) (touch x.id t)) := by
  unfold parkCmd
  rw [onStream_taken _ ht hn]
  exact if_pos ⟨hst, Option.isNone_iff_eq_none.2 he⟩

/-- A parked stream whose state is kept and that the role serves loses its causes HOST and FAULT. -/
theorem resumeCmd_taken (ht : taken src 0x04 s = some (c, t)) (hn : namedStream t c = some x) (hst : x.st = .parked) (hl : x.lost = false)
    (he : x.ending = none) (hr : roleServes (moduleRole (touch x.id t)) x = true) :
    resumeCmd src s = ack c (unpark x.id (modStream x.id (fun y => { y with
      causes := y.causes.filter (fun k => k ≠ .host && k ≠ .fault) }) (touch x.id t))) := by
  have parked : ¬(x.st ≠ .parked ∨ x.lost = true ∨ x.ending.isSome = true) := by simp [hst, hl, he]
  unfold resumeCmd
  rw [onStream_taken _ ht hn, if_neg parked, hr]
  rfl

theorem exportCmd_taken {k : Nat} (ht : taken src 0x05 s = some (c, t)) (hn : namedStream t c = some x)
    (hk : xchanOf (touch x.id t) c.by_ .kvOut (bindOf x) c.arg0 = some k) (hst : x.st = .parked ∨ x.st = .cached) (hl : x.lost = false)
    (he : x.ending = none) : exportCmd src s = ack c (startExport x.id k c.arg0 (touch x.id t)) := by
  unfold exportCmd
  rw [onStream_taken _ ht hn, hk]
  exact if_pos ⟨hst, Bool.eq_false_iff.1 hl, Option.isNone_iff_eq_none.2 he⟩

theorem query_taken {u : State} (ht : taken src 0x06 s = some (c, t)) (hn : namedStream t c = some x) (hu : u = settleNow x.id (touch x.id t)) :
    query src s = ack c (chargeBytes (holdKey c.by_) 256
      (emit (.hostWrite c.by_ c.addr (contextBytes u ((getStream u x.id).getD x) 0)) u)) := by
  subst hu
  exact onStream_taken _ ht hn

/-! ### LIST and the end of an ID's hold (R404) -/

/-- A LIST that finds streams writes the handles that fit and answers their number and the ID to go on from. -/
theorem listCmd_taken {all out : List Machine.Stream} (ht : taken src 0x07 s = some (c, t))
    (hall : all = (streamsOf t c.by_).filter (fun x => decide (x.id ≥ c.arg0) && (c.arg1 % 256).testBit (stateCode x.st - 1)))
    (hout : out = all.take (c.len / 4)) (hne : out ≠ []) :
    listCmd src s = respond c 0 0 out.length (((all.drop (c.len / 4)).head?).elim (2 ^ 20) (fun x => x.id)) 0
      (emit (.hostWrite c.by_ c.addr (out.flatMap (fun x => leBytes 4 (handleOf x)))) t) := by
  have found : (!out.isEmpty) = true := by rw [List.isEmpty_eq_false_iff.2 hne]; rfl
  subst hall hout
  unfold listCmd
  rw [takeCmd_taken _ ht]
  dsimp only
  rw [whenB, if_pos found]

end

/-- An ID whose hold has passed and whose Tally record is written is free again. -/
theorem doneHoldExpire_elapsed {s : State} {id : Nat} {x : Machine.Stream} (hx : getStream s id = some x) (hf : frozen s = false)
    (hst : x.st = .done) (hh : x.stateCtr + 25000 * 2 ^ (min 16 (getF s strB F.strCfgDoneHoldLog2)) ≤ s.counter)
    (ht : s.tally.terms.any (fun e => e.strm.id = id) = false) :
    doneHoldExpire id s = setEng (fun e => { e with streams := eraseK e.streams id, cache := e.cache.erase id }) s := by
  unfold doneHoldExpire
  rw [hx]
  dsimp only
  rw [hf, hst, ht, decide_eq_true hh]
  rfl

/-- Settles O14: each clause is the equation of its command's meaning at a state that meets the premises. -/
theorem streamCommands : Obligations.StreamCommands := by
  refine ⟨?admitPrompt, ?admitImport, ?promptStaged, ?abort, ?park, ?resume, ?exportStream, ?query, ?list, ?doneHoldExpire⟩
  case admitPrompt =>
    rintro s t u _ k desc c d id gen ms rs buf hd hlen hi ht hgate hfirst hsteps hpages hring hgen rfl
    exact congrArg Host.Outcome.next (admitStream_accepted hd hlen hi ht hgate hfirst hsteps hpages hring hgen rfl)
  case admitImport =>
    rintro s t u _ k ch desc c d x id gen ms rs buf hd hlen hi ht hgate hfirst hsteps hpages hring hgen rfl rfl hch
    exact congrArg Host.Outcome.next ((admitStream_accepted hd hlen hi ht hgate hfirst hsteps hpages hring hgen rfl).trans
      (congrArg (respond c 0 _ 0 0 0) (bindImport_named hch _)))
  case promptStaged =>
    rintro s stream _ toks x c rfl hx hc hf hst hlen
    exact congrArg Host.Outcome.next (promptStaged_staging hx hc hf hst hlen)
  case abort =>
    intro s t src c x ht hn hd
    refine congrArg Host.Outcome.next ?_
    split
    next h => exact abort_atWork ht hn h
    next h => exact abort_atRest ht hn h hd
  case park =>
    intro s t src c x ht hn hst he
    exact congrArg Host.Outcome.next (parkCmd_taken ht hn hst he)
  case resume =>
    intro s t src c x ht hn hst hl he hr
    exact congrArg Host.Outcome.next (resumeCmd_taken ht hn hst hl he hr)
  case exportStream =>
    intro s t src c x k ht hn hk hst hl he
    exact congrArg Host.Outcome.next (exportCmd_taken ht hn hk hst hl he)
  case query =>
    intro s t u src c x ht hn hu
    exact congrArg Host.Outcome.next (query_taken ht hn hu)
  case list =>
    intro s t src c all out ht hall hout hne
    exact congrArg Host.Outcome.next (listCmd_taken ht hall hout hne)
  case doneHoldExpire =>
    rintro s stream _ x rfl hx hf hst hh ht
    exact congrArg Host.Outcome.next (doneHoldExpire_elapsed hx hf hst hh ht)

end Sys2Proof.Proofs
end

section
/-! The import of a stream's key/value pages: its header and its page records (R356 to R360, R416, R527). -/

namespace Sys2Proof.Proofs

open Sys2Proof Sys2Proof.Machine

section

variable {s : State} {id k : Nat} {x : Machine.Stream} (hx : getStream s id = some x) (hf : frozen s = false) (hst : x.st = .staging)
  (he : x.ending = none) (hk : importChan s x = some k)
include hx hf hst he hk

/-- An import's header without a fault is handed on and charged, and says how many records and tokens follow. -/
theorem kvImportHeader_accepted {im : Image} {h : List Byte} (himp : x.imported = true) (hh : x.impHdr = none)
    (him : getImage s x.image = some im) (hp : peekBytes k 128 s = some h) (hb : importHeaderBad s x im h = none) :
    kvImportHeader id s = importDone id k (modStream id (fun y => { y with
      impHdr := some (fieldLE h 0x30 4, fieldLE h 0x28 4), impNext := 0, promptComplete := (fieldLE h 6 2).testBit 0 })
        (passTo k 128 (dropBytes k 128 (chargeBytes id 128 s)))) := by
  have due : ¬(frozen s || x.st ≠ .staging || !x.imported || x.impHdr.isSome || x.ending.isSome) = true := by simp [hf, hst, himp, hh, he]
  unfold kvImportHeader
  rw [hx]
  dsimp only
  rw [if_neg due, hk, him]
  dsimp only
  rw [hp]
  dsimp only
  rw [hb]

/-- A page record that has arrived whole, with a good CRC and header, is handed on and its page is taken. -/
theorem kvImportRecord_accepted {r : List Byte} {c : Chan} (hh : x.impHdr.isSome = true)
    (hp : peekBytes k (64 + kvBytes (kvDims s x).d) s = some r) (hc : getChan s k = some c) (hcrc : recordCrcOk r = true)
    (hhead : recordHeadOk (kvDims s x) r = true) :
    kvImportRecord id s = takePage id k x r (passTo k (c.handed + (64 + kvBytes (kvDims s x).d))
      (dropBytes k (64 + kvBytes (kvDims s x).d) s)) := by
  have due : ¬(frozen s || x.st ≠ .staging || x.impHdr.isNone || x.ending.isSome) = true := by
    simp [hf, hst, he, Option.isSome_iff_ne_none.1 hh]
  unfold kvImportRecord
  rw [hx]
  dsimp only
  rw [if_neg due, hk]
  dsimp only
  rw [hp, hc]
  dsimp only
  rw [hcrc, hhead]
  rfl

end

/-- Settles O16: each clause is the equation of its event's meaning at a state that meets the premises. -/
theorem importedPages : Obligations.ImportedPages := by
  refine ⟨?kvImportHeader, ?kvImportRecord⟩
  case kvImportHeader =>
    rintro s stream _ k x im h rfl hx hf hst himp hh he hk him hp hb
    exact congrArg Host.Outcome.next (kvImportHeader_accepted hx hf hst he hk himp hh him hp hb)
  case kvImportRecord =>
    rintro s stream _ k x r c rfl hx hf hst hh he hk hp hc hcrc hhead
    exact congrArg Host.Outcome.next (kvImportRecord_accepted hx hf hst he hk hh hp hc hcrc hhead)

end Sys2Proof.Proofs
end

section
/-! Collectives and fences of the ring: issue, arrivals, completion and the skew window (R366, R368, R380 to R386). -/

namespace Sys2Proof.Proofs

open Sys2Proof Sys2Proof.Machine

/-- A collective whose checks pass joins the ring with its channel and serial number, unless the ring is split. -/
theorem issueColl_accepted {s s1 : State} {iss : Issue} {im : Image} {r : List Byte} {bs : List Nat} {c : CollRun} {t : Nat}
    (hd : collDesc s iss = some (im, r)) (hf : frozen s = false) (ht : cType r = t) (hb : collCheck s iss im r = .ok bs)
    (hc : c = { sn := s.serial, issue := iss, holding := im.owner, desc := r, vc := vcOf s iss r, tokens := bs.getD 0 0, startCtr := s.counter })
    (h1 : s1 = showVcs (modRing (fun x => { x with colls := x.colls ++ [c] }) (bumpSerial (countIssue s)))) (hs : ringSplit s1 = false) :
    issueColl t iss s = s1 := by
  subst hc h1
  unfold issueColl
  rw [hd]
  dsimp only
  rw [if_neg (by simp [hf, ht]), hb]
  dsimp only
  rw [if_neg (by rw [hs]; exact Bool.false_ne_true)]

section

variable {s : State} {k : Nat} {c : CollRun} (hk : s.ring.colls[k]? = some c) (hf : frozen s = false)
include hk hf

/-- A die whose turn has come sends its arrival, as a break mark where a course list on it faulted or was refused (R380, R384). -/
theorem fenceArrival_due {d : Nat} (hl : inLevel 2 s = false) (hm : c.moving = false) (hn : c.sent.any (fun e => e.1 = d) = false)
    (ho : onTurn s c = true) (h : brokenOn s c d = true ∨ arrived s c d = true) :
    fenceArrival k d s = modColl c.sn (fun x => { x with sent := x.sent ++ [(d, s.counter, brokenOn s c d)] }) s := by
  unfold fenceArrival
  rw [hk]
  dsimp only
  rw [if_neg (by rw [hf, hl, hm, hn, ho]; decide)]
  cases hb : brokenOn s c d with
  | true => rfl
  | false =>
    have ha : arrived s c d = true := h.resolve_left (by rw [hb]; exact Bool.false_ne_true)
    rw [if_neg Bool.false_ne_true, if_pos ha]

/-- The message of a die becomes known once; the fourth completes the fence (R381). -/
theorem fenceMessage_sent {d : Nat} {m : Nat × Nat × Bool} {c1 : CollRun} (hm : c.sent.find? (fun e => e.1 = d) = some m)
    (hv : c.moving = false) (hn : c.known.any (fun e => e.1 = d) = false) (h1 : c1 = { c with known := c.known ++ [m] }) :
    fenceMessage k d s = if c1.known.length = 4 then fenceComplete c1 (modColl c.sn (fun _ => c1) s) else modColl c.sn (fun _ => c1) s := by
  subst h1
  unfold fenceMessage
  rw [hk]
  dsimp only
  rw [hm]
  dsimp only
  rw [if_neg (by rw [hf, hv, hn]; decide)]

/-- A moving collective fills the empty output slot of a die; the fourth die finishes it (R385). -/
theorem collectiveDone_moving {d a : Nat} {c1 : CollRun} {s1 : State} (hm : c.moving = true) (hn : c.done.contains d = false)
    (hg : (getGate s c.issue.image (cCout c.desc d) 0).full = false) (ha : slot0 s c.issue.image (cCout c.desc d) = some a)
    (h1 : c1 = { c with done := c.done ++ [d] })
    (hs : s1 = modColl c.sn (fun _ => c1) (gateFill c.issue.image (cCout c.desc d) 0 (wrMem a (getK c.outs d []) s))) :
    collectiveDone k d s = if c1.done.length = 4 then collFinish c1 s1 else s1 := by
  subst h1 hs
  unfold collectiveDone
  rw [hk]
  dsimp only
  rw [if_neg (by rw [hf, hm, hn, hg]; decide), ha]

end

/-- Without a frequency-limited die nothing is matched: the window's sums are reported and the next window opens (R386). -/
theorem skewWindow_unlimited {s s1 : State} {late top : Nat} (hf : frozen s = false) (hw : s.ring.winFrom + 25000 ≤ s.counter)
    (hl : ∀ d < 4, freqLimited s d = false) (ht : top = (List.range 4).foldl (fun m d => max m (getK s.ring.skew d 0)) 0)
    (hd : late = ((List.range 4).find? (fun d => getK s.ring.skew d 0 = top)).getD 0)
    (h1 : s1 = onDies (fun d t => setF (rngB d) F.rngSkewFences (min 255 s.ring.winFences) (setF (rngB d) F.rngSkewLateDie late
        (setF (rngB d) F.rngSkewSum (min 65535 top) t))) s) :
    skewWindow s = modRing (fun r => { r with skew := [], winFrom := s.counter, winFences := 0 }) s1 := by
  subst h1 hd ht
  have hslow (p : Nat → Bool) : (List.range 4).filter (fun d => p d && freqLimited s d) = [] :=
    List.filter_eq_nil_iff.2 fun d h => by simp [hl d (List.mem_range.1 h)]
  unfold skewWindow
  rw [if_neg (by simp [hf, hw])]
  dsimp only
  rw [hslow]
  rfl

/-- Settles O17: each clause is the equation of its command's meaning at a state that meets the premises; the five types share one issue. -/
theorem ringCollectives : Obligations.RingCollectives := by
  refine ⟨?allReduce, ?reduceScatter, ?allGather, ?broadcast, ?fenceRecord, ?fenceArrival, ?fenceMessage, ?collectiveDone, ?managementFence,
    ?skewWindowClose⟩
  case allReduce | reduceScatter | allGather | broadcast | fenceRecord =>
    intro s s1 iss im r bs c hd hf ht hb hc h1 hs
    exact congrArg Host.Outcome.next (issueColl_accepted hd hf ht hb hc h1 hs)
  case fenceArrival =>
    intro s k die c hk hf hl hm hn ho h
    exact congrArg Host.Outcome.next (fenceArrival_due hk hf hl hm hn ho h)
  case fenceMessage =>
    intro s k die c d m hk hm hf hv hn hd
    exact congrArg Host.Outcome.next (fenceMessage_sent hk hf hm hv hn hd)
  case collectiveDone =>
    intro s s1 k a die c d hk hf hm hn hg ha hd h1
    exact congrArg Host.Outcome.next (collectiveDone_moving hk hf hm hn hg ha hd h1)
  case managementFence =>
    intro s h
    exact congrArg Host.Outcome.next (if_pos h)
  case skewWindowClose =>
    intro s s1 late top hf hw hl ht hd h1
    exact congrArg Host.Outcome.next (skewWindow_unlimited hf hw hl ht hd h1)

end Sys2Proof.Proofs
end

section
/-! What every step keeps: the queue behind the front command, and the canonical forms of memory and registers (R604, R611, R621). -/

namespace Sys2Proof.Proofs

open Sys2Proof Sys2Proof.Machine Sys2Proof.Laws

/-- Settles O32: `step` is defined by the front of the queue. -/
theorem stepTakesTheFrontCommand : Obligations.StepTakesTheFrontCommand := by
  intro c rest s h
  unfold step
  rw [h]

/-- Settles O34: every meaning's frame has the queue in it. -/
theorem everyCommandAnswersAndLeavesTheQueue : Obligations.EveryCommandAnswersAndLeavesTheQueue := by
  intro c s
  obtain ⟨t, ht, hk⟩ := keeps_exec c s
  exact ⟨t, ht, hk.queue⟩

/-- Every step keeps the canonical forms: one of the clock does, and one of a command does on the queue's rest. -/
theorem step_keeps {s t : State} (h : step s = .next t) :
    (memWf s = true → memWf t = true) ∧ (RegsWf s → RegsWf t) := by
  cases hq : s.pending with
  | nil =>
    obtain rfl : tick s = t := by rw [step_idle hq] at h; exact Host.Outcome.next.inj h
    have hk := keeps_tick (Keeps.refl s)
    exact ⟨hk.memWf, hk.regs⟩
  | cons c rest =>
    rw [stepTakesTheFrontCommand c rest s hq] at h
    have hk := keeps_of_exec h
    exact ⟨hk.memWf, hk.regs⟩

/-- Settles O36. -/
theorem everyStepKeepsMemoryCanonical : Obligations.EveryStepKeepsMemoryCanonical :=
  fun _ _ hs h => (step_keeps h).1 hs

/-- Settles O37. -/
theorem everyStepKeepsRegistersCanonical : Obligations.EveryStepKeepsRegistersCanonical :=
  fun _ _ hs h => (step_keeps h).2 hs

/-- Settles O38: the reset state lists no byte and no register. -/
theorem resetIsCanonicalAndReadsResetValues : Obligations.ResetIsCanonicalAndReadsResetValues :=
  ⟨rfl, ⟨rfl, fun _ h => absurd h List.not_mem_nil⟩, rfl, fun _ => rfl⟩

end Sys2Proof.Proofs
end

section
/-! The allocator of stream IDs (R400), and a plot share above the module's (R424). -/

namespace Sys2Proof.Proofs

open Sys2Proof Sys2Proof.Machine Sys2Proof.Laws

/-- What the search for an ID answers is free, and what it passed over is in use. -/
theorem nextId_some {s : State} {n i k : Nat} (h : nextId s n i = some k) :
    ∃ m, k = (i + 1 + m) % 2 ^ 20 ∧ getStream s k = none ∧ ∀ j, j < m → (getStream s ((i + 1 + j) % 2 ^ 20)).isSome = true := by
  induction n generalizing i with
  | zero => cases h
  | succ n ih =>
    unfold nextId at h
    dsimp only at h
    split at h
    · next hfree =>
      obtain rfl := Option.some.inj h
      exact ⟨0, rfl, Option.isNone_iff_eq_none.1 hfree, fun j hj => absurd hj (Nat.not_lt_zero j)⟩
    · next hused =>
      obtain ⟨m, hk, hnone, hall⟩ := ih h
      refine ⟨m + 1, by omega, hnone, fun j hj => ?_⟩
      cases j with
      | zero => exact Option.isSome_iff_ne_none.2 fun hn => hused (Option.isNone_iff_eq_none.2 hn)
      | succ j =>
        have hsame : (i + 1 + (j + 1)) % 2 ^ 20 = ((i + 1) % 2 ^ 20 + 1 + j) % 2 ^ 20 := by omega
        rw [hsame]
        exact hall j (by omega)

/-- Settles O49. -/
theorem nextStreamIdIsTheNextFreeOne : Obligations.NextStreamIdIsTheNextFreeOne := by
  intro s k h
  unfold freeId at h
  split at h
  · cases h
  · exact nextId_some h

/-- A holding reads back what was written to it, and every other holding what it was. -/
theorem getHold_setHold (h k : Nat) (v : Hold) (s : State) : getHold (setHold h v s) k = if k = h then v else getHold s k := by
  split
  · next e => rw [e, getHold_setHold_same]
  · next e => exact getK_setK_other _ _ _ _ _ _ e

/-- STR_LASTSHR shows the status of the last share write. -/
theorem getF_shareResult (h code : Nat) (s : State) :
    getF (shareResult h code s) strB F.strLastshrStatus = (statusWord h h 0 code).toNat := by
  unfold shareResult lastEvt
  rw [getF_irqRaise _ _ _ _ _ (by decide), getF_setF_same _ _ _ _ (by decide)]
  exact Nat.mod_eq_of_lt (BitVec.isLt _)

/-- The share asked for is at most the clamped one, so what exceeds the module unclamped is refused. -/
theorem plotShare_above {s : State} {h v : Nat}
    (hsum : v + (((List.range 4).filter (fun k => k ≠ h)).map (fun k => (getHold s k).shPlots)).foldl (· + ·) 0 > 7680) :
    plotShare s h v = ((getHold s h).shPlots, 0x62) := by
  have hclamp := Nat.le_max_left v (plotsOf s h)
  unfold plotShare
  dsimp only
  rw [if_pos (by omega)]

/-- A write of STR_SHR3 stores the plot share that it gives and the budget's two bits, and shows its status. -/
theorem writeShare_plots {s : State} {h p code : Nat} {w : Word} (hp : plotShare s h (fldOf F.strShr3Plots w) = (p, code)) :
    writeShare h 3 w s = shareResult h code (setHold h { getHold s h with
      shPlots := p, budgetEn := fldOf F.strShr3BudgetEn w = 1, hardBudget := fldOf F.strShr3HardBudget w = 1 } s) := by
  simp only [writeShare, hp]

/-- Settles O47. -/
theorem plotShareAboveTheModuleIsRefused : Obligations.PlotShareAboveTheModuleIsRefused := by
  intro s p data hg hsum
  refine ⟨_, congrArg Host.Outcome.next ((ownedWrite_ok _ _ hg).trans (writeShare_plots (plotShare_above hsum))), fun k => ?_, getF_shareResult ..⟩
  unfold shareResult
  rw [getHold_congr (lastEvt_holds ..), getHold_setHold]
  split
  · next e => rw [e]
  · rfl

end Sys2Proof.Proofs
end

section
/-! Step and sweep boundaries, share writes and the change of role (R412, R415, R418, R419, R422, R424, R427, R460, R622). -/

namespace Sys2Proof.Proofs

open Sys2Proof Sys2Proof.Machine Sys2Proof.Laws

/-- A step that has faulted for the first time is issued again (R427). -/
theorem stepBoundary_firstFault {s : State} {m : Nat} (hr : stepReached s m = true) (hrun : (stepRun s m).running = true)
    (hf : (stepRun s m).faulted = true) (hrep : (stepRun s m).repeat_ = false) (hsp : (stepRun s m).split = false) :
    stepBoundary m s = reissue m s := by
  unfold stepBoundary
  rw [if_neg (by rw [hr]; decide), if_pos (by rw [hrun, hf, hrep, hsp]; rfl)]

/-- The work of a boundary whose step has not faulted, in its order (R412). -/
theorem stepBoundary_reached {s s1 s2 s3 s4 s6 : State} {m : Nat} (hr : stepReached s m = true) (hf : (stepRun s m).faulted = false)
    (h1 : s1 = retryEnds (subtractBudgets s))
    (h2 : s2 = ((slotOrder s1 m).filter (fun id => (getStream s1 id).any (fun x => x.abortDue))).foldl (fun t id => endStream id 0x02 t) s1)
    (h3 : s3 = (slotOrder s2 m).foldl (fun t id => match lookupK (stepRun s m).toks id with
      | some tok => if (stepRun s m).streams.contains id then takeToken id tok t else t | none => t) s2)
    (h4 : s4 = applyParks m (fun x => x.mb = m && (x.st = .waiting || x.st = .active)) s3)
    (h6 : s6 = roleStep (fillSlots m (reserveStep m (boundaryActions (workOf m) (autoResumes s4))))) :
    stepBoundary m s = issueStep m ((slotOrder s6 m).filter (fun id => (getStream s6 id).any (fun x => x.ending.isNone))) s6 := by
  subst h1 h2 h3 h4 h6
  unfold stepBoundary
  rw [if_neg (by rw [hr]; decide), if_neg (by simp [hf])]
  rw [hf]
  rfl

/-- The work of the sweep's boundary whose sweep has not faulted, in its order (R415). -/
theorem sweepBoundary_reached {s s1 s2 s3 s4 s5 : State} (hr : stepReached s 4 = true) (hf : (stepRun s 4).faulted = false)
    (h1 : s1 = retryEnds (subtractBudgets s))
    (h2 : s2 = ((allStreams s1).filter (fun x => x.st = .prompt && x.abortDue)).foldl (fun t x => endStream x.id 0x02 t) s1)
    (h3 : s3 = (stepRun s 4).streams.foldl (fun t id => takeChunk id (stepRun s 4) t) s2)
    (h4 : s4 = applyParks 4 (fun x => x.st = .prompt || (x.st = .waiting && ((stepRun s 4).streams.contains x.id || moduleRole s = 1))) s3)
    (h5 : s5 = boundaryActions .sweep (autoResumes s4)) :
    sweepBoundary s = issueStep 4 (fixSweep s5).1 (roleStep (fixSweep s5).2) := by
  subst h1 h2 h3 h4 h5
  unfold sweepBoundary
  rw [if_neg (by rw [hr]; decide), if_neg (by simp [hf])]

/-- A request for another role than the current one, with none waiting, closes admission (R418). -/
theorem roleRequest_other {s : State} {data : Word} (hn : s.eng.roleTo = none) (hr : fldOf F.modRoleReq data ≠ moduleRole s) :
    roleRequest data s = roleStep (refreshClosed (setEng (fun e => { e with roleTo := some (fldOf F.modRoleReq data) })
      (setF modB F.modRoleStep 2 (setF modB F.modRoleChanging 1 (setF modB F.modRoleReq (fldOf F.modRoleReq data) s))))) := by
  unfold roleRequest
  rw [if_neg (by rw [hn]; decide), if_neg hr]

/-- With no work out, the role that was asked for becomes the current one (R418, R622). -/
theorem roleSwitch_idle {s : State} {r : Nat} (hr : s.eng.roleTo = some r) (hf : frozen s = false) (hw : anyWork s = false)
    (hs : (allStreams s).any (fun x => x.st = .active || x.st = .prompt) = false) :
    roleSwitch s = irqRaise modB 4 (refreshClosed (setEng (fun e => { e with roleTo := none })
      (setF modB F.modRoleStep 0 (setF modB F.modRoleChanging 0 (setF modB F.modRoleCurrent r s))))) := by
  unfold roleSwitch
  rw [hr]
  dsimp only
  rw [if_neg (by rw [hf, hw, hs]; decide)]

/-- Settles O15: each clause is the equation of its command's meaning at a state that meets the premises. -/
theorem stepsSharesAndRoles : Obligations.StepsSharesAndRoles := by
  refine ⟨?firstFault, ?step, ?sweep, ?share, ?request, ?switch⟩
  case firstFault =>
    rintro s m _ rfl hr hrun hf hrep hsp
    exact congrArg Host.Outcome.next (stepBoundary_firstFault hr hrun hf hrep hsp)
  case step =>
    rintro s s1 s2 s3 s4 s6 m _ rfl hr hf h1 h2 h3 h4 h6
    exact congrArg Host.Outcome.next (stepBoundary_reached hr hf h1 h2 h3 h4 h6)
  case sweep =>
    rintro s s1 s2 s3 s4 s5 _ rfl hr hf h1 h2 h3 h4 h5
    exact congrArg Host.Outcome.next (sweepBoundary_reached hr hf h1 h2 h3 h4 h5)
  case share =>
    intro s p reg data hg
    exact congrArg Host.Outcome.next (ownedWrite_ok _ _ hg)
  case request =>
    intro s p data hg hn hr
    exact congrArg Host.Outcome.next ((ownedWrite_ok _ _ hg).trans (roleRequest_other hn hr))
  case switch =>
    intro s r hr hf hw hs
    exact congrArg Host.Outcome.next (roleSwitch_idle hr hf hw hs)

end Sys2Proof.Proofs
end

section
/-! Attribution epochs, pages, signatures and the ledger queues (R436, R446, R449, R450, R451, R456, R457, R522, R590). -/

namespace Sys2Proof.Proofs

open Sys2Proof Sys2Proof.Machine Sys2Proof.Laws

/-- An index below q_res is durable already (R451). -/
theorem reserveIndex_reserved {s : State} (ws : List (Bool × Bool)) (hq : s.tally.q < s.tally.qRes) : reserveIndex ws s = (true, s) := by
  unfold reserveIndex
  rw [if_pos hq]

section

variable {s : State} (hf : frozen s = false)
include hf

/-- An epoch that has passed settles every stream, divides its energy and completes its terminal events (R436). -/
theorem attributionEpoch_passed {ein : Nat} {ed volts : List Nat} (he : s.tally.lastEpoch < s.counter / 25000) :
    attributionEpoch ein ed volts s = completeTerms (setTally (fun t => { t with lastEpoch := s.counter / 25000 })
      (attributeEpoch ein ed volts ((s.eng.streams.map (·.1)).foldl (fun u id => settle id (25000 * (s.counter / 25000)) u) s))) := by
  unfold attributionEpoch
  dsimp only
  rw [if_neg (by simp [hf, he])]

theorem pageCloseTime_due (ht : s.tally.page.openCtr + 6250000 ≤ s.counter) : pageCloseTime s = closePage 1 s := by
  unfold pageCloseTime
  rw [if_pos (by simp [hf, ht])]

theorem shutdownRequest_running : shutdownRequest s = closePage 2 s := by
  unfold shutdownRequest
  rw [if_neg (Bool.eq_false_iff.1 hf)]

theorem lmsTreeBuilt_running : lmsTreeBuilt s = setF tlyB F.tlyStatBottomReady 1 s := by
  unfold lmsTreeBuilt
  rw [if_neg (Bool.eq_false_iff.1 hf)]

/-- A unit in service signs the oldest closed page with the next index, which is reserved and far from the last (R449, R451). -/
theorem pageSign_reserved {k : Nat} (cycle : Nat) (ws : List (Bool × Bool)) {p : Page} {rest : List Page} (hc : s.tally.closed = p :: rest)
    (hk : signerOn s k = true) (hs : s.tally.signing = none) (hq : s.tally.q < s.tally.qRes) (hlow : s.tally.q + 2 ^ 32 < 2 ^ 40)
    (htree : s.tally.q % 2 ^ 20 ≠ 0) :
    pageSign k 0 cycle ws s =
      setF tlyB F.tlyStatSigning 1 { (signPage p s).2 with tally := { (signPage p s).2.tally with closed := rest, signing := some (signPage p s).1 } } := by
  have far : ¬ s.tally.q + 1 + 2 ^ 32 > 2 ^ 40 := by omega
  unfold pageSign
  rw [hc]
  dsimp only
  rw [if_neg (by simp [hf, hk, hs]; omega), reserveIndex_reserved ws hq]
  simp only [Bool.not_true, Bool.false_eq_true, if_false, ge_iff_le, Nat.reduceLeDiff, zero_ne_one, decide_eq_false htree, whenB]
  exact if_neg fun h => far (of_decide_eq_true (Bool.and_elim_right h))

/-- A signed page is released to the management port and its records to the holdings' rings and queues (R456, R457). -/
theorem pageSigned_signing {p : Page} (hs : s.tally.signing = some p) :
    pageSigned s = (List.range 4).foldl (fun u h =>
      let w := deliverAll h (setTally (fun t => { t with
        rings := setK t.rings h (getK t.rings h [] ++ (pageElements p h).map (fun e => (p.seq, e))) [] }) u)
      if ringHigh w h ∧ !w.tally.fullLogged.contains h then
        tallyEvent h 0x7B [] (setTally (fun t => { t with fullLogged := t.fullLogged ++ [h] }) w)
      else w)
      (emit (.mgmtData (p.header ++ (p.recs.drop (p.recs.length - 5)).flatMap id))
        (setF tlyB F.tlyStatSigning 0 (setTally (fun t => { t with signing := none, signed := t.signed ++ [p] }) s))) := by
  unfold pageSigned
  rw [hs]
  dsimp only
  rw [if_neg (Bool.eq_false_iff.1 hf)]

/-- The signature block of a page that no ring holds reads as no bytes (R457). -/
theorem signatureBlockRead_running (seq : Nat) :
    signatureBlockRead seq s = emit (.mgmtData ((s.tally.signed.find? (fun p => p.seq = seq)).elim [] (·.sigs))) s := by
  unfold signatureBlockRead
  split <;> next hfind => rw [if_neg (Bool.eq_false_iff.1 hf), hfind]; rfl

/-- A second of epochs out of range is reported, unless a report went out less than an hour ago (R590). -/
theorem meterCheck_due (ho : 1000 ≤ s.tally.outRun) (hd : ∀ c, s.tally.meterAt = some c → c + 90000000000 ≤ s.counter) :
    meterCheck s = logEv 0x30 0x11 0 [] (setTally (fun t => { t with meterAt := some s.counter }) s) := by
  unfold meterCheck
  cases hm : s.tally.meterAt with
  | none => simp [hf, ho]
  | some c => simp [hf, ho, hd c hm]

/-- A head inside the ledger queue lets the entries that wait go (R522). -/
theorem ledgerDoorbell_inside {h : Nat} {data : Word} (hi : ideBlocked s h = false) (ho : ledOn s h = true)
    (hd : data.toNat % 2 ^ 26 < ledUnits s h) :
    ledgerDoorbell h data s = retryEnds (deliverAll h { s with ledq := setK s.ledq h { getK s.ledq h {} with head := data.toNat % 2 ^ 26 } {} }) := by
  unfold ledgerDoorbell
  dsimp only
  rw [if_neg (Bool.eq_false_iff.1 hf), if_neg (Bool.eq_false_iff.1 hi), if_neg (by simp [ho]), if_neg (Nat.not_le.2 hd)]

end

/-- Settles O20: each clause is the equation of its command's meaning at a state that meets the premises. -/
theorem meteringAndLedger : Obligations.MeteringAndLedger := by
  refine ⟨?epoch, ?closeTime, ?shutdown, ?sign, ?signed, ?tree, ?block, ?meter, ?doorbell⟩
  case epoch =>
    intro s ein ed volts hf he
    exact congrArg Host.Outcome.next (attributionEpoch_passed hf he)
  case closeTime =>
    intro s hf ht
    exact congrArg Host.Outcome.next (pageCloseTime_due hf ht)
  case shutdown =>
    intro s hf
    exact congrArg Host.Outcome.next (shutdownRequest_running hf)
  case sign =>
    rintro s unit cycle ws p rest _ hc hf hk hs hq hlow htree rfl
    exact congrArg (fun t => Host.Outcome.next (retryEnds t)) (pageSign_reserved hf cycle ws hc hk hs hq hlow htree)
  case signed =>
    rintro s p _ hs hf rfl
    exact congrArg (fun t => Host.Outcome.next (retryEnds t)) (pageSigned_signing hf hs)
  case tree =>
    intro s hf
    exact congrArg Host.Outcome.next (lmsTreeBuilt_running hf)
  case block =>
    intro s seq hf
    exact congrArg Host.Outcome.next (signatureBlockRead_running hf seq)
  case meter =>
    intro s hf ho hd
    exact congrArg Host.Outcome.next (meterCheck_due hf ho hd)
  case doorbell =>
    intro s h data hf hi ho hd
    exact congrArg Host.Outcome.next (ledgerDoorbell_inside hf hi ho hd)

end Sys2Proof.Proofs
end

section
/-! Junctions, thermal limits, caps, droops, coolant and ageing (R471, R475, R479, R480, R482, R483, R484, R486, R487, R498). -/

namespace Sys2Proof.Proofs

open Sys2Proof Sys2Proof.Machine Sys2Proof.Laws

section

variable {s : State} (hf : frozen s = false)
include hf

/-! ### Thermal limits (R482, R483, R484) -/

theorem junctionRead_running (d hot h0 h1 h2 head : Nat) {u : State}
    (hu : u = stackReading d 2 h2 (stackReading d 1 h1 (stackReading d 0 h0 (acreReading d hot s)))) :
    junctionRead d hot h0 h1 h2 head s = setDitch (fun x => { x with
        headHot := if head ≥ 840 then true else if head < 800 then false else x.headHot })
      (setF (dpwB d) F.dpwThermHbmLimit ((List.range 3).foldl (fun m k => max m (getK u.ditch.hbm (3 * d + k) {}).limit) 0)
        (setF (dpwB d) F.dpwThermHotHbm (min 1023 (max h0 (max h1 h2))) u)) := by
  subst hu
  unfold junctionRead
  rw [if_neg (Bool.eq_false_iff.1 hf)]

/-- A die that has been cool for 1 ms since its last step rises by 25 MHz (R482). -/
theorem thermalStep_due {d t0 : Nat} (hc : (getClk s d).cool = some t0) (ht : (getClk s d).trip = false) (hlow : (getClk s d).therm < 1200)
    (hd : t0 + 25000 ≤ s.counter) :
    thermalStep d s = retarget d (modClk d (fun x => { x with
      therm := if (getClk s d).therm + 25 ≥ permitted s d then 1200 else (getClk s d).therm + 25, cool := some s.counter }) s) := by
  unfold thermalStep
  dsimp only
  rw [hc]
  dsimp only
  rw [if_pos (by simp [hf, ht, hlow, hd])]

theorem thermalStillTimeout_due {d t0 : Nat} (hc : (getClk s d).still = some t0) (hl : (getClk s d).stillLogged = false)
    (hd : t0 + 250000 < s.counter) :
    thermalStillTimeout d s = modClk d (fun x => { x with stillLogged := true }) (drdEvent 0x07 2 d [1] s) := by
  unfold thermalStillTimeout
  dsimp only
  rw [hc]
  dsimp only
  rw [if_pos (by simp [hf, hl, hd])]

theorem coolantOut_bad (hb : coolBad s = true) (ho : s.ditch.coolOut = false) :
    coolantOut s = drdEvent 0x0C 1 0 [s.ditch.inlet, s.ditch.flow] (setDitch (fun x => { x with coolOut := true }) s) := by
  unfold coolantOut
  rw [if_pos (by simp [hf, hb, ho])]

/-! ### Power means and the cap (R475, R479) -/

/-- A mean within the supply's 3,600 W clears the excursion timer and is shown with the mean of the last millisecond (R475). -/
theorem powerMean_within {p m eff : Nat} {ms : List Nat} {u : State} (hp : p ≤ 3600) (hms : ms = (p :: s.ditch.means).take 100)
    (hm : m = ms.foldl (· + ·) 0 / ms.length) (heff : eff = (effectiveCap s).1)
    (hu : u = setDitch (fun x => { x with
        means := ms, low := if 100 * m < 97 * eff then some (x.low.getD s.counter) else none
        above := if m > eff ∧ lowestPoint s = true then some (x.above.getD s.counter) else none })
      (setF drdB F.drdExcurTimer 0 (setF drdB F.drdPowerP1ms (min 8191 m) (setF drdB F.drdPowerP10us p s)))) :
    powerMean p s = if m ≤ eff then setF drdB F.drdCapUnreach 0 u else u := by
  have shown : min 8191 p = p := by omega
  have quiet : ¬ p > 3600 := by omega
  have safe : decide (p > 4200) = false := decide_eq_false (by omega)
  subst hu hm heff hms
  unfold powerMean
  rw [if_neg (Bool.eq_false_iff.1 hf)]
  simp only [shown, if_neg quiet, safe, whenB, Bool.false_eq_true, if_false, Bool.and_eq_true, decide_eq_true_eq]

theorem capUnreachable_due {c : Nat} (ha : s.ditch.above = some c) (hd : c + 250000 ≤ s.counter) (h0 : getF s drdB F.drdCapUnreach = 0) :
    capUnreachable s = drdEvent 0x05 1 0 [] (irqRaise drdB 8 (setF drdB F.drdCapUnreach 1 s)) := by
  unfold capUnreachable
  rw [ha]
  dsimp only
  rw [if_pos (by simp [hf, hd, h0])]

/-! ### Droop and ageing (R471, R486, R487) -/

/-- A short and shallow droop only stretches the clock (R486). -/
theorem droopDetect_stretch {d mv ns : Nat} (hlow : 40 < mv) (hmv : mv ≤ 80) (hns : ns ≤ 10000) :
    droopDetect d mv ns s = bumpF (dpwB d) F.dpwDroopStretch 1 s := by
  unfold droopDetect
  rw [if_neg (by simp [hf, hlow]), if_neg (by omega)]

/-- A deep or long one lowers the die by 100 MHz for a millisecond (R487). -/
theorem droopDetect_emergency {d mv ns : Nat} (hlow : 40 < mv) (hbad : 80 < mv ∨ 10000 < ns) :
    droopDetect d mv ns s = retarget d (modClk d (fun c => { c with
        droop := max 300 (c.f - 100), droopTo := s.counter + 25000, droopEnd := false })
      (bumpF (dpwB d) F.dpwDroopEmerg 1 (drdEvent 0x09 2 d [mv, ns] (bumpF (dpwB d) F.dpwDroopStretch 1 s)))) := by
  unfold droopDetect
  rw [if_neg (by simp [hf, hlow]), if_pos hbad]

theorem droopHoldEnd_due {d : Nat} (hd : (getClk s d).droop < 1200) (ht : (getClk s d).droopTo ≤ s.counter) :
    droopHoldEnd d s = modClk d (fun x => { x with droopEnd := true }) s := by
  unfold droopHoldEnd
  dsimp only
  rw [if_pos (by simp [hf, hd, ht])]

section

variable {g : Nat} (hw : (getAcre s g).pw = .flow)
include hw

/-- An acre of fewer than five guard steps takes one more (R471). -/
theorem ageing_guard (hg : (getAcre s g).guard < 5) :
    ageing g s = retarget (g / 68) (modAcre g (fun x => { x with guard := x.guard + 1 }) s) := by
  unfold ageing
  dsimp only
  rw [if_neg (by simp [hf, hw]), if_pos hg]

/-- With the fifth used up the acre's life fmax falls by 25 MHz (R471). -/
theorem ageing_slower (hg : 5 ≤ (getAcre s g).guard) :
    ageing g s = slowAcre g (drdEvent 0x0A 3 g [(getAcre s g).life - 25]
      (modAcre g (fun x => { x with guard := 0, life := x.life - 25 }) s)) := by
  unfold ageing
  dsimp only
  rw [if_neg (by simp [hf, hw]), if_neg (Nat.not_lt.2 hg)]

end

end

/-- A holding's own power share comes into force, and the answer shows what it leaves (R480). -/
theorem powerShare_taken {s t u : State} {k : Nat} {c : HostCmd} (ht : taken (.host k) 0x23 s = some (c, t))
    (hu : u = setHold c.by_ { getHold t c.by_ with ownPower := some c.arg0 } t) :
    powerShare (.host k) s = respond c 0 c.handle (powerShareOf u c.by_) 0 0 u := by
  subst hu
  exact takeCmd_taken _ ht

/-- Settles O21: each clause is the equation of its command's meaning at a state that meets the premises. -/
theorem powerAndThermalLimits : Obligations.PowerAndThermalLimits := by
  refine ⟨?junction, ?recovery, ?still, ?mean, ?unreachable, ?stretch, ?emergency, ?holdEnd, ?coolant, ?guard, ?slower, ?cap, ?share⟩
  case junction =>
    intro s u die hot h0 h1 h2 head hf hu
    exact congrArg Host.Outcome.next (junctionRead_running hf die.val hot h0 h1 h2 head hu)
  case recovery =>
    rintro s die _ t0 _ rfl hc hf ht hlow hd rfl
    exact congrArg Host.Outcome.next (thermalStep_due hf hc ht hlow hd)
  case still =>
    rintro s die _ t0 rfl hc hf hl hd
    exact congrArg Host.Outcome.next (thermalStillTimeout_due hf hc hl hd)
  case mean =>
    intro s u watts m eff ms hf hp hms hm heff hu
    exact congrArg Host.Outcome.next (powerMean_within hf hp hms hm heff hu)
  case unreachable =>
    intro s c ha hf hd h0
    exact congrArg Host.Outcome.next (capUnreachable_due hf ha hd h0)
  case stretch =>
    intro s die mv ns hf hlow hmv hns
    exact congrArg Host.Outcome.next (droopDetect_stretch hf hlow hmv hns)
  case emergency =>
    intro s die mv ns hf hlow hbad
    exact congrArg Host.Outcome.next (droopDetect_emergency hf hlow hbad)
  case holdEnd =>
    intro s die hf hd ht
    exact congrArg Host.Outcome.next (droopHoldEnd_due hf hd ht)
  case coolant =>
    intro s hf hb ho
    exact congrArg Host.Outcome.next (coolantOut_bad hf hb ho)
  case guard =>
    rintro s die acre _ rfl hf hw hg
    exact congrArg Host.Outcome.next (ageing_guard hf hw hg)
  case slower =>
    rintro s die acre _ rfl hf hw hg
    exact congrArg Host.Outcome.next (ageing_slower hf hw hg)
  case cap =>
    intro s p data hg
    exact congrArg Host.Outcome.next (ownedWrite_ok _ _ hg)
  case share =>
    intro s t u k c ht hu
    exact congrArg Host.Outcome.next (powerShare_taken ht hu)

end Sys2Proof.Proofs
end

section
/-! Cold power-on, the rails, the input, the reference and the module reset (R485, R625, R626, R628, R630, R631, R634, R636, R637, R638, R641, R643). -/

namespace Sys2Proof.Proofs

open Sys2Proof Sys2Proof.Machine Sys2Proof.Laws

/-! ### Start-up (R630, R636, R638, R641) -/

theorem coldPowerOn_closed {s : State} (h : s.power.opened = false) (pins : Nat) (ref : Bool) (inlet flow : Nat) :
    coldPowerOn pins ref inlet flow s = coldStart pins ref inlet flow s := by
  unfold coldPowerOn
  rw [if_neg (Bool.eq_false_iff.1 h)]

theorem overvoltageRestart_opened {s : State} (h : s.power.opened = true) (pins : Nat) (ref : Bool) (inlet flow : Nat) :
    overvoltageRestart pins ref inlet flow s = coldStart pins ref inlet flow s := by
  unfold overvoltageRestart
  rw [if_pos h]

section

variable {s : State} (hf : isFrozen s = false)
include hf

section

variable (hp : s.power.phase = .starting) (hw : s.power.wait = false)
include hp hw

/-- The rails of a step but the third, which starts the Headgate, let the next step run, the last one the module (R630). -/
theorem railGood_next {step : Nat} {u : State} (hs : step = s.power.step + 1) (h3 : step ≠ 3) (hu : u = setPower (fun p => { p with step := step }) s) :
    railGood step s = if step = 6 then enterService u else seqGate u := by
  have hstart : u.power.phase = .starting := by rw [hu]; exact hp
  unfold railGood
  rw [if_neg (by simp [hf, hp, hw, hs])]
  dsimp only
  rw [if_neg h3, ← hu, if_neg (not_not.2 hstart)]

theorem railTimeout_next {rail : Rail} (hr : railStep rail = s.power.step + 1) :
    railTimeout rail s = logEv 0x31 1 (railNum rail) [railNum rail] (setDitch (fun x => { x with railsOff := x.railsOff ++ [rail] })
      (drdEvent 0x03 1 0 [railNum rail] (setPower (fun p => { p with phase := .railStop }) s))) := by
  unfold railTimeout
  rw [if_neg (by simp [hf, hp, hw, hr])]

end

theorem coolantResume_clear (hp : s.power.phase ≠ .off) (hw : s.power.wait = true) (hm : mustWait s = false) :
    coolantResume s = setPower (fun p => { p with wait := false, phase := if p.phase = .hold then .starting else p.phase }) s := by
  unfold coolantResume seqResume
  rw [if_neg (Bool.eq_false_iff.1 hf), if_pos (by simp [hp, hw, hm])]

end

/-! ### The input, the reference and the sensors (R485, R625, R626, R628, R631, R634) -/

section

variable {s : State} (hp : s.power.phase ≠ .off)
include hp

theorem inputPowerLoss_on : inputPowerLoss s = powerOff s := by
  unfold inputPowerLoss
  rw [if_neg hp]

theorem inputUndervoltage_new (ha : s.ditch.alerts.contains .input = false) :
    inputUndervoltage s = regulatorAlert .input (if isFrozen s then s else drdEvent 0x0E 1 0 [] s) := by
  unfold inputUndervoltage
  rw [if_neg (by rw [ha, decide_eq_false hp]; decide)]

theorem refclkReturn_on : refclkReturn s = setPower (fun p => { p with osc := false }) s := by
  unfold refclkReturn
  rw [if_neg hp]

section

variable (hf : isFrozen s = false)
include hf

theorem inputHighSeen_first (hh : s.ditch.inputHigh = false) :
    inputHighSeen s = drdEvent 0x0F 1 0 [] (setDitch (fun x => { x with inputHigh := true }) s) := by
  unfold inputHighSeen
  rw [if_neg (by simp [hf, hp, hh])]

/-- A fuse pair that opens is a phase loss of the input, and the second pair the loss of it (R628). -/
theorem bladeFuse_new {pair : Nat} (hb : s.ditch.blades.contains pair = false) {u : State}
    (hu : u = drdEvent 0x02 1 0 [railNum .input, pair] (showCap (setDitch (fun x => { x with blades := x.blades ++ [pair], capDue := true }) s))) :
    bladeFuse pair s = if u.ditch.blades.length ≥ 2 then powerOff u else u := by
  subst hu
  unfold bladeFuse
  rw [if_neg (by rw [hb, decide_eq_false hp]; decide), hf]
  rfl

/-- Without the reference the internal oscillator takes over, and MOD_ALERT_N goes low (R634). -/
theorem refclkLost_running (ho : s.power.osc = false) :
    refclkLost s = setF modB F.modAlertAsserted 1 (drdEvent 0x0D 1 0 [] (setPower (fun p => { p with osc := true }) s)) := by
  unfold refclkLost
  rw [if_neg (by simp [hp, ho])]
  dsimp only
  rw [if_neg (Bool.eq_false_iff.1 hf)]

/-- During start-up a reading only shows what the coolant allows (R638). -/
theorem coolantReading_startup (hs : s.power.phase ≠ .service) (inlet flow : Nat) :
    coolantReading inlet flow s = showCap (setDitch (fun x => { x with inlet := inlet, flow := flow }) s) := by
  unfold coolantReading
  rw [if_neg (by simp [hf, hp]), if_neg hs]

theorem configRequest_on {h : Nat} (ho : portOn s h = true) : configRequest h s = emit (.config h (!configUp s)) s := by
  unfold configRequest
  rw [if_neg (by simp [hf, hp, ho])]

end

end

section

variable {s : State} (hf : isFrozen s = false) (hp : s.power.phase = .service)
include hf hp

theorem coolantReading_service (inlet flow : Nat) : coolantReading inlet flow s = coolantSensors inlet flow s := by
  unfold coolantReading
  rw [if_neg (by simp [hf, hp]), if_pos hp]

/-- A module reset in Service completes through the boot chain (R643). -/
theorem moduleReset_service (hc : s.rely.coresLost = false) {u : State}
    (hu : u = warmBoot (setF drdB F.drdLevelPending 0 (setF drdB F.drdLevelLevel 0 (moduleResetState (resetPrepare s))))) :
    moduleReset s = emit (.mgmt 0x203 0 0 0 0 0) (refreshClosed (if u.power.phase = .starting then seqGate u else u)) := by
  subst hu
  unfold moduleReset
  rw [if_neg (by simp [hf, hc]), hp]

end

/-- Settles O31: each clause is the equation of its command's meaning at a state that meets the premises. -/
theorem powerOnAndReset : Obligations.PowerOnAndReset := by
  refine ⟨?cold, ?restart, ?railGood, ?railTimeout, ?resume, ?loss, ?overvoltage, ?undervoltage, ?underClear, ?high, ?fuse, ?refLost, ?refReturn,
    ?service, ?startup, ?reset, ?config⟩
  case cold =>
    intro s pins ref inlet flow h
    exact congrArg Host.Outcome.next (coldPowerOn_closed h pins.val ref inlet flow)
  case restart =>
    intro s pins ref inlet flow h
    exact congrArg Host.Outcome.next (overvoltageRestart_opened h pins.val ref inlet flow)
  case railGood =>
    intro s u step hf hp hw hs h3 hu
    exact congrArg Host.Outcome.next (railGood_next hf hp hw hs h3 hu)
  case railTimeout =>
    intro s rail hf hp hw hr
    exact congrArg Host.Outcome.next (railTimeout_next hf hp hw hr)
  case resume =>
    intro s hf hp hw hm
    exact congrArg Host.Outcome.next (coolantResume_clear hf hp hw hm)
  case loss =>
    intro s hp
    exact congrArg Host.Outcome.next (inputPowerLoss_on hp)
  case overvoltage => exact fun s => rfl
  case undervoltage =>
    intro s hp ha
    exact congrArg Host.Outcome.next (inputUndervoltage_new hp ha)
  case underClear => exact fun s => rfl
  case high =>
    intro s hf hp hh
    exact congrArg Host.Outcome.next (inputHighSeen_first hp hf hh)
  case fuse =>
    intro s u pair hf hp hb hu
    exact congrArg Host.Outcome.next (bladeFuse_new hp hf hb hu)
  case refLost =>
    intro s hp ho hf
    exact congrArg Host.Outcome.next (refclkLost_running hp hf ho)
  case refReturn =>
    intro s hp
    exact congrArg Host.Outcome.next (refclkReturn_on hp)
  case service =>
    intro s inlet flow hf hp
    exact congrArg Host.Outcome.next (coolantReading_service hf hp inlet flow)
  case startup =>
    intro s inlet flow hf hp hs
    exact congrArg Host.Outcome.next (coolantReading_startup hp hf hs inlet flow)
  case reset =>
    intro s u hf hc hp hu
    exact congrArg Host.Outcome.next (moduleReset_service hf hp hc hu)
  case config =>
    intro s h hf hp ho
    exact congrArg Host.Outcome.next (configRequest_on hp hf ho)

end Sys2Proof.Proofs
end

section
/-! Commands of the submission queues: their order and their fences (R510). -/

namespace Sys2Proof.Proofs

open Sys2Proof Sys2Proof.Machine Sys2Proof.Laws

/-- The sender of a command of *Table: Command set*. -/
def cmdSender : Instr → Option CmdSrc
  | .imageOpen c | .calRequest c | .imageActivate c | .imageRelease c | .imageStatus c | .predictorOff c | .predictorOn c
  | .rearm c | .trainStep c false | .abort c | .park c | .resume c | .exportStream c | .query c | .list c | .powerShare c
  | .adapterLoad c | .adapterRelease c | .telemetry c | .channelClose c => some c
  | .admitPrompt k _ | .admitImport k _ | .channelOpen k _ => some (.host k)
  | _ => none

/-- A command that takes the k-th waiting entry has it for its sender. -/
theorem cmdSender_of_hostTakes {c : Instr} {k : Nat} (h : hostTakes c = some k) : cmdSender c = some (.host k) := by
  have host {src : CmdSrc} (h : srcEntry src = some k) : src = .host k := by
    cases src with
    | host j => exact congrArg CmdSrc.host (Option.some.inj h)
    | board => cases h
  unfold hostTakes at h
  split at h
  case h_24 => cases h
  all_goals exact congrArg some (host h)

/-- No command of a sender can be taken. -/
def Untaken (src : CmdSrc) (s : State) : Prop := ∀ (op : Nat) (f : HostCmd → State → State), takeCmd src op f s = s

theorem admitStream_untaken {s : State} {k : Nat} (h : Untaken (.host k) s) (imp : Bool) (desc : List Byte) : admitStream imp k desc s = s := by
  unfold admitStream
  dsimp only
  split
  · rfl
  · exact h _ _

theorem predictorSwitch_untaken {s : State} {src : CmdSrc} (h : Untaken src s) (on : Bool) : predictorSwitch on src s = s := by
  unfold predictorSwitch
  exact ite_eq_right_iff.2 fun _ => h _ _

theorem trainStep_untaken {s : State} {src : CmdSrc} (h : Untaken src s) : trainStep src false s = s := by
  unfold trainStep
  rw [if_neg Bool.false_ne_true]
  split
  · rfl
  · exact h _ _

theorem powerShare_untaken {s : State} {src : CmdSrc} (h : Untaken src s) : powerShare src s = s := by
  unfold powerShare
  split
  · rfl
  · exact h _ _

/-- What stays when a sender's commands cannot be taken, for the sender that the command names. -/
theorem next_untaken {src src' : CmdSrc} {s t : State} (hc : some src' = some src) (h : Untaken src s) (ht : Untaken src' s → t = s) :
    (Host.Outcome.next t : Out) = .next s :=
  congrArg Host.Outcome.next (ht (Option.some.inj hc ▸ h))

/-- A command whose sender's commands cannot be taken changes nothing. -/
theorem exec_untaken {c : Instr} {src : CmdSrc} {s : State} (hc : cmdSender c = some src) (h : Untaken src s) : exec c s = .next s := by
  cases c with
  | imageOpen | calRequest | imageActivate | imageRelease | imageStatus | rearm | abort | park | resume | exportStream | query | list
  | adapterLoad | adapterRelease | telemetry | channelClose | channelOpen => exact next_untaken hc h fun h => h _ _
  | predictorOff | predictorOn => exact next_untaken hc h fun h => predictorSwitch_untaken h _
  | admitPrompt | admitImport => exact next_untaken hc h fun h => admitStream_untaken h _ _
  | powerShare => exact next_untaken hc h powerShare_untaken
  | trainStep src' ended =>
    cases ended with
    | false => exact next_untaken hc h trainStep_untaken
    | true => cases hc
  | _ => cases hc

/-- An entry behind another of its queue, or a FENCE entry with a command of its queue open, is not taken. -/
theorem mayTake_behind {s : State} {k : Nat} {x : HostCmd}
    (h : (∃ (j : Nat) (y : HostCmd), j < k ∧ s.hostCmds[j]? = some y ∧ y.by_ = x.by_ ∧ y.qp = x.qp) ∨
      (x.fence = true ∧ ∃ y ∈ s.openCmds, y.by_ = x.by_ ∧ y.qp = x.qp)) : mayTake s k x = false := by
  refine Bool.eq_false_iff.2 fun hm => ?_
  simp only [mayTake, Bool.and_eq_true, Bool.or_eq_true, List.all_eq_true, Bool.not_eq_true', Bool.and_eq_false_iff, decide_eq_false_iff_not] at hm
  obtain ⟨⟨⟨-, hfront⟩, hfence⟩, -⟩ := hm
  rcases h with ⟨j, y, hj, hy, hby, hqp⟩ | ⟨hx, y, hy, hby, hqp⟩
  · have mem : y ∈ s.hostCmds.take k := List.mem_of_getElem? (by rw [List.getElem?_take_of_lt hj]; exact hy)
    exact (hfront y mem).elim (· hby) (· hqp)
  · rcases hfence with hn | hopen
    · rw [hx] at hn; cases hn
    · exact (hopen y hy).elim (· hby) (· hqp)

theorem untaken_of_mayTake {s : State} {k : Nat} {x : HostCmd} (hx : s.hostCmds[k]? = some x) (hm : mayTake s k x = false) :
    Untaken (.host k) s := by
  intro op f
  unfold takeCmd
  dsimp only
  rw [hx]
  dsimp only
  rw [hm, Bool.and_false]
  rfl

/-- Settles O46. -/
theorem commandsOfAQueueAreTakenInOrderAndBehindFences : Obligations.CommandsOfAQueueAreTakenInOrderAndBehindFences := by
  intro c s k x hc hx h
  exact exec_untaken (cmdSender_of_hostTakes hc) (untaken_of_mayTake hx (mayTake_behind h))

end Sys2Proof.Proofs
end

section
/-! A reset of a host port, and what stays outside its holding's view (R506, R507, R621). -/

namespace Sys2Proof.Proofs

open Sys2Proof Sys2Proof.Machine Sys2Proof.Laws

/-- A block's reset leaves every register outside it. -/
theorem regGet_resetBlock_outside (base : Nat) (s : State) {a : Nat} (h : a < base ∨ base + 0x4000 ≤ a) :
    regGet (resetBlock base s) a = regGet s a := by
  rw [regGet_eq, regGet_eq]
  unfold resetBlock getK
  rw [lookupK_filter_keep _ _ _ (fun _ => by simp; omega)]

/-- Every register of a block that is reset reads its reset value (R621). -/
theorem regGet_resetBlock_inside (base : Nat) (s : State) {a : Nat} (h1 : base ≤ a) (h2 : a < base + 0x4000) :
    regGet (resetBlock base s) a = resetAt a := by
  rw [regGet_eq]
  unfold resetBlock getK
  rw [lookupK_filter_drop _ _ _ (fun _ => by simp; omega)]
  rfl

/-- The key of a queue pair names its holding. -/
theorem qpKey_holding (k : Nat) {q : Nat} (hq : q < 64) : qpKey k q / 64 = k := by
  unfold qpKey
  omega

/-- A port's reset leaves the queue pairs of every other holding (R506). -/
theorem getQP_portReset_other (s : State) {h k q : Nat} (hk : k ≠ h) (hq : q < 64) : getQP (portReset h s) k q = getQP s k q := by
  unfold getQP portReset resetBlock getK
  rw [lookupK_filter_keep _ _ _ (fun _ => by simp [qpKey_holding k hq, hk])]

/-- Every queue pair of the holding is disabled and empty (R507). -/
theorem getQP_portReset_same (s : State) (h : Nat) {q : Nat} (hq : q < 64) : getQP (portReset h s) h q = {} := by
  unfold getQP portReset resetBlock getK
  rw [lookupK_filter_drop _ _ _ (fun _ => by simp [qpKey_holding h hq])]
  rfl

theorem mem_hostLink_portReset (s : State) (h k : Nat) : k ∈ (portReset h s).hostLink ↔ k ∈ s.hostLink ∧ k ≠ h := by
  simp [portReset, resetBlock]

/-- Settles O50. -/
theorem portResetTouchesOnlyItsHolding : Obligations.PortResetTouchesOnlyItsHolding := by
  intro s h
  refine ⟨portReset h.val s, rfl, ?outside, ?inside, ?otherPairs, ?ownPairs, ?linkDown, ?otherLinks, ?memory,
    rfl, rfl, rfl, rfl, rfl, rfl, rfl, rfl, rfl⟩
  case outside => exact fun a ha => regGet_resetBlock_outside _ _ ha
  case inside => exact fun a h1 h2 => regGet_resetBlock_inside _ _ h1 h2
  case otherPairs => exact fun k q hk hq => getQP_portReset_other s hk hq
  case ownPairs => exact fun q hq => getQP_portReset_same s h.val hq
  case linkDown => exact fun hm => ((mem_hostLink_portReset s _ _).1 hm).2 rfl
  case otherLinks => exact fun k hk => ⟨fun hm => ((mem_hostLink_portReset s _ _).1 hm).1, fun hm => (mem_hostLink_portReset s _ _).2 ⟨hm, hk⟩⟩
  case memory => exact fun a => rfl

end Sys2Proof.Proofs
end

section
/-! Queue pairs, doorbells, submission entries, timeouts, adapters and telemetry (R506 to R519, R531). -/

namespace Sys2Proof.Proofs

open Sys2Proof Sys2Proof.Machine Sys2Proof.Laws

section

variable {s : State} (hf : frozen s = false)
include hf

section

variable {h q : Nat} {x : QPSt} (hx : x = getQP s h q)
include hx

/-! ### Doorbells and entries (R509, R512, R514) -/

/-- A tail inside the submission ring of an enabled pair is taken (R509). -/
theorem sqDoorbell_inside {data : Word} (hi : ideBlocked s h = false) (he : x.en = true) (hb : x.busy = false) (hd : data.toNat % 4096 < x.depth) :
    sqDoorbell h q data s = setQP h q { x with sqTail := data.toNat % 4096 } (idleExit s) := by
  subst hx
  unfold sqDoorbell
  dsimp only
  rw [if_neg (Bool.eq_false_iff.1 hf), if_neg (Bool.eq_false_iff.1 hi), if_neg (by simp [he, hb]), if_neg (Nat.not_le.2 hd)]

/-- An entry that passes the checks joins the waiting commands (R510, R514). -/
theorem submissionEntry_good {bs : List Byte} {u : State} (he : x.en = true) (hr : x.sqRead ≠ x.sqTail) (hl : bs.length = 64)
    (hi : ideBlocked s h = false)
    (hu : u = setQP h q { x with sqRead := (x.sqRead + 1) % x.depth, consumed := (x.consumed + 1) % 65536 } s)
    (hc : entryCheck u bs (subCmd h q bs) = none) :
    submissionEntry h q bs s = { u with hostCmds := u.hostCmds ++ [subCmd h q bs] } := by
  subst hx hu
  unfold submissionEntry
  dsimp only
  rw [if_neg (by simp [hf, he, hr, hl, hi]), hc]

/-- A head inside the completion ring lets the answers that wait go (R511). -/
theorem cqDoorbell_inside {data : Word} {u : State} (hi : ideBlocked s h = false) (he : x.en = true) (hd : data.toNat % 4096 < x.depth)
    (hu : u = setQP h q { x with cqHead := data.toNat % 4096 } s) :
    cqDoorbell h q data s = flushBuf h q s.respBuf.length u := by
  subst hx hu
  unfold cqDoorbell
  dsimp only
  rw [if_neg (Bool.eq_false_iff.1 hf), if_neg (Bool.eq_false_iff.1 hi), if_neg (by simp [he]), if_neg (Nat.not_le.2 hd)]

theorem coalesceTimeout_due (hn : 0 < x.unsig) (ht : x.unsigAt + 25 * getF s (hqB h) F.hqCoalCoalT ≤ s.counter) :
    coalesceTimeout h q s = signalQP h q s := by
  subst hx
  unfold coalesceTimeout
  dsimp only
  rw [if_pos (by simp [hf, hn, ht])]

end

theorem queueDisableDone_busy {h q : Nat} (hb : (getQP s h q).busy = true) : queueDisableDone h q s = disableQP h q s := by
  unfold queueDisableDone
  rw [if_pos (by simp [hf, hb])]

theorem hostPortLinkUp_down {h : Nat} (hl : s.hostLink.contains h = false) (ho : portOn s h = true) :
    hostPortLinkUp h s = { s with hostLink := s.hostLink ++ [h] } := by
  unfold hostPortLinkUp
  rw [if_neg (by rw [hf, hl, ho]; decide)]

/-- A prompt that cannot be read fails, and AER reports the read (R517). -/
theorem hostReadTimeout_prompt {id : StreamId} {x : Machine.Stream} (hx : getStream s id.toNat = some x) (ha : x.admitCmd.isSome = true) :
    hostReadTimeout (.prompt id) s = promptFailed id.toNat (emit (.aer x.holding) s) := by
  unfold hostReadTimeout
  dsimp only
  rw [hx]
  dsimp only
  rw [if_pos (by simp [hf, ha])]

end

/-! ### Enable and disable (R508) -/

section

variable {s : State} {h q : Nat} {data : Word} {x : QPSt} (hx : x = getQP s h q)
include hx

theorem enableQP_disabled (hen : fldOf F.hqQcfgEn data = 1) (he : x.en = false) (h2 : 2 ≤ fldOf F.hqQcfgDepth data)
    (h4 : fldOf F.hqQcfgDepth data ≤ 4096) :
    enableQP h q data s = setQP h q { x with
      vector := fldOf F.hqQcfgVector data, depth := fldOf F.hqQcfgDepth data, en := true, busy := false, sqTail := 0, sqRead := 0, consumed := 0
      cqTail := 0, cqHead := 0, phase := true, unsig := 0 } s := by
  subst hx
  unfold enableQP
  dsimp only
  rw [if_neg (by rw [hen]; decide), if_neg (Bool.eq_false_iff.1 he), if_pos ⟨h2, h4⟩]

/-- A pair with reads in flight stays busy until they end. -/
theorem requestDisableQP_enabled {y : QPSt} (hen : fldOf F.hqQcfgEn data = 0) (he : x.en = true) (hy : y = { x with vector := fldOf F.hqQcfgVector data }) :
    requestDisableQP h q data s =
      if x.sqRead ≠ x.sqTail then setQP h q { y with busy := true } s else disableQP h q (setQP h q y s) := by
  subst hx hy
  unfold requestDisableQP
  dsimp only
  rw [if_neg (by rw [hen]; decide), he]
  simp

end

/-! ### Commands (R517 to R519, R531) -/

section

variable {s t : State} {src : CmdSrc} {c : HostCmd}

/-- The command that needed a read which failed is refused (R519). -/
theorem hostReadTimeout_command {k : Nat} (hk : s.hostCmds[k]? = some c) (ho : c.op = 0x01 ∨ c.op = 0x28)
    (ht : taken (.host k) c.op s = some (c, t)) : hostReadTimeout (.command k) s = refuseCmd c 0x38 (emit (.aer c.by_) t) := by
  unfold hostReadTimeout
  dsimp only
  rw [hk]
  dsimp only
  rw [if_pos ho]
  exact takeCmd_taken _ ht

theorem adapterLoad_taken (ht : taken src 0x18 s = some (c, t)) {im : Image} {k a : Nat} (hi : ownImage t c.by_ c.handle = some im)
    (hk : keyOfWire (c.arg0 % 65536) = some k) (ha : freeAdapter t = some a) (h0 : c.arg0 < 65536)
    (hch : (getChan t k).any (fun ch => ch.kind = .region && ch.st = .open_ && decide (ch.bind = im.handle)) = true) (hown : k / 256 = c.by_) :
    adapterLoad src s = respond c 0 a a 0 0 (setEng (fun e => { e with
      adapters := insertK e.adapters a { image := im.handle, owner := c.by_, chan := k } }) t) := by
  unfold adapterLoad
  rw [takeCmd_taken _ ht, hi, hk, ha]
  dsimp only
  rw [if_pos (by rw [hch, decide_eq_true h0, decide_eq_true hown]; rfl)]

theorem adapterRelease_taken (ht : taken src 0x19 s = some (c, t)) {x : Adapter} (hx : lookupK t.eng.adapters c.handle = some x)
    (ho : x.owner = c.by_) (hr : x.released = false) :
    adapterRelease src s = Machine.ack c (setEng (fun e => { e with
      adapters := if adapterUsed t c.handle then insertK e.adapters c.handle { x with released := true } else eraseK e.adapters c.handle }) t) := by
  unfold adapterRelease
  rw [takeCmd_taken _ ht, hx]
  dsimp only
  rw [if_pos (by simp [ho, hr])]

section

variable (ht : taken src 0x24 s = some (c, t))
include ht

/-- A holding's report goes to its memory (R531). -/
theorem telemetry_holding (hb : c.by_ ≠ 15) {out : List Byte} (ho : out = (reportBytes t c.by_).1.take c.len) :
    telemetry src s = respond c 0 0 out.length 0 0 (emit (.hostWrite c.by_ c.addr out)
      (chargeBytes (holdKey c.by_) out.length { t with freeCtr := t.freeCtr + 2 * (reportBytes t c.by_).2 })) := by
  subst ho
  unfold telemetry
  rw [takeCmd_taken _ ht]
  dsimp only
  rw [if_neg hb]

/-- The board management controller's goes over the management port (R531). -/
theorem telemetry_board (hb : c.by_ = 15) :
    telemetry src s = respond c 0 0 (reportBytes t 15).1.length 0 0 (emit (.mgmtData (reportBytes t 15).1)
      { t with freeCtr := t.freeCtr + 2 * (reportBytes t 15).2 }) := by
  unfold telemetry
  rw [takeCmd_taken _ ht]
  dsimp only
  rw [if_pos hb, hb]

end

end

/-- Settles O23: each clause is the equation of its command's meaning at a state that meets the premises. -/
theorem hostPorts : Obligations.HostPorts := by
  refine ⟨?reset, ?sq, ?entry, ?cq, ?coalesce, ?enable, ?disable, ?disabled, ?linkUp, ?failedCommand, ?failedPrompt, ?load, ?release, ?report, ?boardReport⟩
  case reset => exact fun s h => rfl
  case sq =>
    intro s h qp data x hx hf hi he hb hd
    exact congrArg Host.Outcome.next (sqDoorbell_inside hf hx hi he hb hd)
  case entry =>
    intro s u h qp bs x hx hf he hr hl hi hu hc
    exact congrArg Host.Outcome.next (submissionEntry_good hf hx he hr hl hi hu hc)
  case cq =>
    intro s u h qp data x hx hf hi he hd hu
    exact congrArg (fun v => Host.Outcome.next (serveQP h.val qp.val v)) (cqDoorbell_inside hf hx hi he hd hu)
  case coalesce =>
    intro s h qp x hx hf hn ht
    exact congrArg Host.Outcome.next (coalesceTimeout_due hf hx hn ht)
  case enable =>
    rintro s p h data _ x hg rfl hx hen he h2 h4
    exact congrArg Host.Outcome.next ((ownedWrite_ok _ _ hg).trans (congrArg (serveQP h.val _) (enableQP_disabled hx hen he h2 h4)))
  case disable =>
    rintro s p h data _ x y hg rfl hx hen he hy
    exact congrArg Host.Outcome.next ((ownedWrite_ok _ _ hg).trans (requestDisableQP_enabled hx hen he hy))
  case disabled =>
    intro s h qp hf hb
    exact congrArg Host.Outcome.next (queueDisableDone_busy hf hb)
  case linkUp =>
    intro s h hf hl ho
    exact congrArg Host.Outcome.next (hostPortLinkUp_down hf hl ho)
  case failedCommand =>
    intro s t k c hk ho ht
    exact congrArg Host.Outcome.next (hostReadTimeout_command hk ho ht)
  case failedPrompt =>
    intro s id x hx hf ha
    exact congrArg Host.Outcome.next (hostReadTimeout_prompt hf hx ha)
  case load =>
    intro s t src c im k a ht hi hk ha h0 hch hown
    exact congrArg Host.Outcome.next (adapterLoad_taken ht hi hk ha h0 hch hown)
  case release =>
    intro s t src c x ht hx ho hr
    exact congrArg Host.Outcome.next (adapterRelease_taken ht hx ho hr)
  case report =>
    intro s t src c out ht hb ho
    exact congrArg Host.Outcome.next (telemetry_holding ht hb ho)
  case boardReport =>
    intro s t src c ht hb
    exact congrArg Host.Outcome.next (telemetry_board ht hb)

end Sys2Proof.Proofs
end

section
/-! Management messages, the event log and firmware updates (R529, R543, R547, R560 to R565, R587, R595). -/

namespace Sys2Proof.Proofs

open Sys2Proof Sys2Proof.Machine Sys2Proof.Laws

/-! ### Reports (R529, R587) -/

section

variable {s : State} (hm : mgmtUp s = true)
include hm

theorem mctpControl_discovery :
    mctpControl .discovery s = emit (.mgmtData [BitVec.ofNat 8 s.power.eid, BitVec.ofNat 8 (0x30 + s.power.addr)]) s := by
  unfold mctpControl
  rw [if_neg (by simp [hm])]

theorem mctpControl_assignEid (e : Byte) : mctpControl (.assignEid e) s =
    emit (.mgmtData [e, BitVec.ofNat 8 (0x30 + s.power.addr)]) { s with power := { s.power with eid := e.toNat } } := by
  unfold mctpControl
  rw [if_neg (by simp [hm])]

end

theorem sensorRead_running {s : State} (hf : frozen s = false) (x : Sensor) :
    sensorRead x s = emit (.mgmtData (leBytes 4 (sensorValue s x))) (idleExit s) := by
  unfold sensorRead
  rw [if_neg (Bool.eq_false_iff.1 hf)]

/-- The log answers while frozen and while the Headgate runs (R587, R595). -/
theorem logRead_served {s : State} (h : isFrozen s = true ∨ headgateUp s false = true) (seq n : Nat) :
    logRead seq n s = emit (.mgmtData (((s.log.reverse.filter (fun e => decide (e.seq ≥ seq))).take (min n 64)).flatMap logBytes)) s := by
  unfold logRead
  rw [if_pos (Bool.or_eq_true_iff.2 h)]

/-- Settles O25: each clause is the equation of its command's meaning at a state that meets the premises. -/
theorem managementReports : Obligations.ManagementReports := by
  refine ⟨?discovery, ?assign, ?sensor, ?log⟩
  case discovery =>
    intro s hm
    exact congrArg Host.Outcome.next (mctpControl_discovery hm)
  case assign =>
    intro s e hm
    exact congrArg Host.Outcome.next (mctpControl_assignEid hm e)
  case sensor =>
    intro s x hf
    exact congrArg Host.Outcome.next (sensorRead_running hf x)
  case log =>
    intro s seq n h
    exact congrArg Host.Outcome.next (logRead_served h seq n)

/-! ### Slots and activation (R543, R560 to R563) -/

section

variable {s : State} {k : Nat} (hk : k = 1 - committedSlot s) (hp : pldmUp s = true) (hc : s.rely.coresLost = false) (hu : s.trust.update = none)
include hk hp hc hu

/-- The slot that is not committed takes the bytes; it is good, or answered with what its checks found (R543). -/
theorem stageFirmware_served {bs : List Byte} {u : State} (he : u = setTrust (fun t => { t with slots := insertK t.slots k bs, trial := none }) s) :
    stageFirmware bs s = match slotBad u bs with
      | none => emit (.mgmt 0x201 0 k 0 0 0) (setF fwuB (slotFld k) 2 u)
      | some c => emit (.mgmt 0x201 (statusWord 15 0 1 c) k 0 0 0) (setF fwuB (slotFld k) 6 (trustEvent 15 c [k] u)) := by
  subst he hk
  unfold stageFirmware
  rw [if_neg (by simp [hp, hc]), if_neg (by simp [hu])] <;> rfl

/-- A staged or reverted slot is checked again; a bad one is rejected, a good one begins its update at the standby or at the next fence (R560, R561). -/
theorem activateFirmware_served {u : Update} (he : u = updateOf s k) (hs : u.hg = true → standby s = 0)
    (hst : getF s fwuB (slotFld k) = 2 ∨ getF s fwuB (slotFld k) = 5) (hph : s.power.phase = .service) :
    activateFirmware s = match slotBad s (slotBytes s k) with
      | some c => emit (.mgmt 0x202 (statusWord 15 0 1 0x70) k 0 0 0) (rejectSlot k c s)
      | none => emit (.mgmt 0x202 0 k 0 0 0) (if u.hg
          then setPhase 2 (setStandby 1 (setF fwuB (slotFld k) 3 (setTrust (fun t => { t with update := some u, trial := some k, tried := true }) s)))
          else setPhase 3 (setF fwuB (slotFld k) 3 (setTrust (fun t => { t with update := some u, trial := some k, tried := true }) s))) := by
  subst he hk
  unfold activateFirmware
  dsimp only
  rw [if_neg (by simp [hp, hc]), if_neg (by simpa [hu, hph] using ⟨hs, fun h => hst.resolve_left h⟩)] <;> rfl

end

/-! ### The standby and the health window (R547, R561 to R563) -/

section

variable {s : State} (hf : frozen s = false)
include hf

theorem standbyBooted_booting (hb : standby s = 1) : standbyBooted s =
    if fwPhase s = 2 then setPhase 3 (setF fwuB F.fwuStatStandbyReady 1 (setStandby 0 s)) else setStandby 0 s := by
  unfold standbyBooted
  rw [if_neg (by simp [hf, hb])]

section

variable {u : Update} (hu : s.trust.update = some u) (hp : fwPhase s = 4)
include hu hp

theorem healthExpire_closed (he : u.endAt ≤ s.counter) : healthExpire s = commitUpdate u s := by
  unfold healthExpire
  rw [hu]
  dsimp only
  rw [if_pos (by simp [hf, hp, he])]

omit hf in
theorem revertUpdate_trial : revertUpdate s = setPhase 5 (setF fwuB (slotFld u.slot) 5 (trustEvent 15 0x76 [u.slot]
    (setTrust (fun t => { t with trial := none }) s))) := by
  unfold revertUpdate
  rw [hu]
  dsimp only
  rw [if_pos hp]

end

end

/-- Settles O26: each clause is the equation of its command's meaning at a state that meets the premises. -/
theorem firmwareUpdates : Obligations.FirmwareUpdates := by
  refine ⟨?stage, ?activate, ?booted, ?expire, ?watchdog⟩
  case stage =>
    intro s u bs k hp hc hu hk he
    exact congrArg Host.Outcome.next (stageFirmware_served hk hp hc hu he)
  case activate =>
    intro s k u hk he hp hc hu hs hst hph
    exact congrArg Host.Outcome.next (activateFirmware_served hk hp hc hu he hs hst hph)
  case booted =>
    intro s hf hb
    exact congrArg Host.Outcome.next (standbyBooted_booting hf hb)
  case expire =>
    intro s u hu hf hp he
    exact congrArg Host.Outcome.next (healthExpire_closed hf hu hp he)
  case watchdog =>
    intro s u hf hu hp
    exact congrArg Host.Outcome.next ((if_neg (Bool.eq_false_iff.1 hf)).trans (revertUpdate_trial hu hp))

end Sys2Proof.Proofs
end

section
/-! SPDM requests of a connection, the ALIAS keys and IDE (R541, R549, R550, R551, R554). -/

namespace Sys2Proof.Proofs

open Sys2Proof Sys2Proof.Machine Sys2Proof.Laws

section

variable {s : State} {p : SpdmPort} {c : Nat} (hc : c = connNum p) (hu : spdmUp s c = true)
include hc hu

/-! ### Requests in the stage and session that they need (R549, R550) -/

/-- A request of a served connection that has reached its stage is answered. -/
theorem spdmReq_reached {stage : Nat} {ok : SpdmConn → Bool} (hs : stage ≤ (getConn s c).stage) (ho : ok (getConn s c) = true)
    (req : Nat) (f : Nat → State → State) : spdmReq p req stage ok f s = f c s := by
  subst hc
  unfold spdmReq
  dsimp only
  rw [if_neg (by simp [hu]), if_neg (by simp [ho, hs])]

theorem spdmPlain_reached {stage : Nat} {ok : SpdmConn → Bool} (hs : stage ≤ (getConn s c).stage) (ho : ok (getConn s c) = true)
    (req : Nat) (msg : List Byte) (f : SpdmConn → SpdmConn) :
    spdmPlain p req stage msg ok f s = spdmReply c req msg (spdmFresh req msg s).1 f (spdmFresh req msg s).2 :=
  spdmReq_reached hc hu hs ho req _

theorem getVersion_served (msg : List Byte) : getVersion p msg s =
    spdmReply c 0x84 msg (spdmFresh 0x84 msg s).1 (fun x => { x with stage := 1 }) (setConn c {} (spdmFresh 0x84 msg s).2) :=
  spdmReq_reached hc hu (Nat.zero_le _) rfl _ _

section

variable (hs : 3 ≤ (getConn s c).stage)
include hs

/-- A request in a session of the phase that it needs. -/
theorem spdmPlain_session {n : Nat} (hn : (getConn s c).session = n) (req : Nat) (msg : List Byte) (f : SpdmConn → SpdmConn) :
    spdmPlain p req 3 msg (inSession n) f s = spdmReply c req msg (spdmFresh req msg s).1 f (spdmFresh req msg s).2 :=
  spdmPlain_reached hc hu hs (decide_eq_true hn) req msg f

theorem getDigests_served (msg : List Byte) :
    getDigests p msg s = spdmReply c 0x81 msg (sha384 (certChain s 0 false) ++ sha384 (certChain s 1 false)) id s :=
  spdmReq_reached hc hu hs rfl _ _

theorem getCertificate_provisioned (msg : List Byte) {slot : Nat} (hl : slot < 2) :
    getCertificate p msg slot s = spdmReply c 0x82 msg (certChain s slot false) id s :=
  (spdmReq_reached hc hu hs rfl _ _).trans (if_pos hl)

/-! ### Requests that the ALIAS keys answer (R541, R551) -/

/-- The measurements that the index names, signed where asked (R551). -/
theorem getMeasurements_some (msg : List Byte) {index : Option Nat} {signed : Bool} (ht : signed = true → s.trust.treeUp = true)
    {es : List (Nat × List Byte)} {body : List Byte} (he : es = (visible s c).filter (fun e => index.all (fun i => e.1 = i))) (hn : es ≠ [])
    (hb : body = leBytes 1 es.length ++ es.flatMap measBlock) :
    getMeasurements p msg index signed s = if signed then spdmSigned c 0xE0 msg body id s else spdmReply c 0xE0 msg body id s := by
  have some_ : ¬ es.isEmpty = true := by simpa using hn
  subst hb he
  unfold getMeasurements needAlias
  cases signed with
  | false =>
    rw [if_neg Bool.false_ne_true, spdmReq_reached hc hu hs rfl]
    dsimp only
    rw [if_neg some_]
  | true =>
    rw [if_pos rfl, spdmReq_reached hc hu hs rfl]
    dsimp only
    rw [if_pos (ht rfl), if_neg some_]

section

variable (ht : s.trust.treeUp = true)
include ht

/-- With the tree of the ALIAS key up, a request that needs it is answered. -/
theorem needAlias_up (req : Nat) (f : Nat → State → State) : needAlias p req f s = f c s :=
  (spdmReq_reached hc hu hs rfl _ _).trans (if_pos ht)

theorem challenge_served (msg : List Byte) : challenge p msg s =
    spdmSigned c 0x83 msg (sha384 (certChain s 0 false) ++ ((List.range 7).flatMap (fun i => measure s (i + 1))) ++ (spdmFresh 0x83 msg s).1) id
      (spdmFresh 0x83 msg s).2 :=
  needAlias_up hc hu hs ht _ _

theorem keyExchange_served (msg : List Byte) {u : State} {b m : List Byte} (hb : b = (spdmFresh 0xE4 msg s).1)
    (he : u = (spdmFresh 0xE4 msg s).2) (hm : m = signedMsg 0xE4 ((getConn u c).trans ++ msg ++ b)) :
    keyExchange p msg s = spdmReply c 0xE4 msg (b ++ fixLen 96 (Config.ecdsaSign (derivedKey s (keyAlias s)) m (nextFree u).1))
      (fun x => { x with session := 1, keyGen := 0 }) (nextFree u).2 := by
  subst hm hb he
  exact needAlias_up hc hu hs ht _ _

theorem hssChain_served (msg : List Byte) : hssChain p msg s = spdmReply c 0xFE msg (certChain s 0 true ++ certChain s 1 true) id s :=
  needAlias_up hc hu hs ht _ _

/-- The signature over the latest signed response takes a reserved index (R541). -/
theorem hssSign_reserved (msg : List Byte) (ws : List (Bool × Bool)) {m : List Byte} (hm : (getConn s c).signed = some m)
    (hq : s.trust.aliasQ < s.trust.aliasRes) {n : Nat} {u : State} (hn : n = s.freeCtr) (he : u = (nextFree s).2) :
    hssSign p msg ws s = keysLowCheck (spdmReply c 0xFF msg (fixLen 5396 (Config.hssSign (derivedKey u (keyAlias u)) u.trust.aliasQ m n)) id
      (setTrust (fun x => { x with aliasQ := x.aliasQ + 1 }) u)) := by
  have reserved : reserveAlias ws s = (true, s) := if_pos hq
  subst hn he
  unfold hssSign
  rw [spdmReq_reached hc hu hs (by rw [hm]; rfl)]
  dsimp only
  rw [hm]
  dsimp only
  rw [if_neg (by simp [ht]), reserved]
  rfl

end

end

end

theorem aliasBuilt_running {s : State} (hf : isFrozen s = false) (hp : s.power.phase ≠ .off) :
    aliasBuilt s = setTrust (fun t => { t with treeUp := true }) s := by
  unfold aliasBuilt
  rw [if_neg (by simp [hf, hp])]

/-! ### IDE keys (R554) -/

section

variable {s : State} {h : Nat} (hu : spdmUp s h = true) (hs : (getConn s h).session = 2)
include hu hs

theorem ideKeys_program (k : Nat) (set_ : Fin 2) : ideKeys h k (.program set_) s =
    modIde h k (fun x => { x with programmed := x.programmed ++ (if x.programmed.contains set_.val then [] else [set_.val]) }) s := by
  unfold ideKeys
  rw [if_neg (by simp [hu, hs])]

theorem ideKeys_go {k : Nat} {set_ : Fin 2} (hk : (getK s.ide (h * 2 + k) {}).programmed.contains set_.val = true) :
    ideKeys h k (.go set_) s = servePort h (modIde h k (fun x => { x with active := true }) s) := by
  unfold ideKeys
  rw [if_neg (by simp [hu, hs])]
  dsimp only
  rw [if_pos hk]

theorem ideKeys_stop (k : Nat) : ideKeys h k .stop s = modIde h k (fun x => { x with active := false, programmed := [] }) s := by
  unfold ideKeys
  rw [if_neg (by simp [hu, hs])]

end

/-- Settles O27: each clause is the equation of its command's meaning at a state that meets the premises. -/
theorem spdmRequests : Obligations.SpdmRequests := by
  refine ⟨?capabilities, ?algorithms, ?finish, ?keyUpdate, ?heartbeat, ?endSession, ?version, ?digests, ?certificate, ?challenge, ?measurements,
    ?keyExchange, ?hssChain, ?hssSign, ?aliasTree, ?program, ?go, ?stop⟩
  case capabilities | algorithms =>
    intro s conn msg c hc hu hs
    exact congrArg Host.Outcome.next (spdmPlain_reached hc hu hs rfl _ msg _)
  case finish | keyUpdate | heartbeat | endSession =>
    intro s conn msg c hc hu hs hn
    exact congrArg Host.Outcome.next (spdmPlain_session hc hu hs hn _ msg _)
  case version =>
    intro s conn msg c hc hu
    exact congrArg Host.Outcome.next (getVersion_served hc hu msg)
  case digests =>
    intro s conn msg c hc hu hs
    exact congrArg Host.Outcome.next (getDigests_served hc hu hs msg)
  case certificate =>
    intro s conn msg slot c hc hu hs hl
    exact congrArg Host.Outcome.next (getCertificate_provisioned hc hu hs msg hl)
  case challenge =>
    intro s conn msg c hc hu hs ht
    exact congrArg Host.Outcome.next (challenge_served hc hu hs ht msg)
  case measurements =>
    intro s conn msg index signed c es body hc hu hs ht he hn hb
    exact congrArg Host.Outcome.next (getMeasurements_some hc hu hs msg ht he hn hb)
  case keyExchange =>
    intro s u conn msg b m c hc hu hs ht hb he hm
    exact congrArg Host.Outcome.next (keyExchange_served hc hu hs ht msg hb he hm)
  case hssChain =>
    intro s conn msg c hc hu hs ht
    exact congrArg Host.Outcome.next (hssChain_served hc hu hs ht msg)
  case hssSign =>
    intro s u conn msg m ws c n hc hu hs hm ht hq hn he
    exact congrArg Host.Outcome.next (hssSign_reserved hc hu hs ht msg ws hm hq hn he)
  case aliasTree =>
    intro s hf hp
    exact congrArg Host.Outcome.next (aliasBuilt_running hf hp)
  case program =>
    intro s h stream k hu hs
    exact congrArg Host.Outcome.next (ideKeys_program hu hs stream.val k)
  case go =>
    intro s h stream k hu hs hk
    exact congrArg Host.Outcome.next (ideKeys_go hu hs hk)
  case stop =>
    intro s h stream hu hs
    exact congrArg Host.Outcome.next (ideKeys_stop hu hs stream.val)

end Sys2Proof.Proofs
end

section
/-! Nonces, authorisation tokens, the freeze, its readout and the thaw (R555 to R558, R593 to R598). -/

namespace Sys2Proof.Proofs

open Sys2Proof Sys2Proof.Machine Sys2Proof.Laws

/-! ### Nonces (R555) -/

theorem getNonce_served {s : State} (hu : tokenUp s = true) {v : List Byte} (hv : v = fixLen 32 (Config.freshBytes (nextFree s).1 32)) :
    getNonce s = emit (.mgmtData v) (setTrust (fun x => { x with nonce := some (v, s.counter) }) (nextFree s).2) := by
  subst hv
  unfold getNonce
  rw [if_pos hu]
  rfl

theorem nonceExpire_due {s : State} {v : List Byte} {c : Nat} (hp : s.power.phase ≠ .off) (hn : s.trust.nonce = some (v, c))
    (hd : c + 1500000000 ≤ s.counter) : nonceExpire s = setTrust (fun x => { x with nonce := none }) s := by
  unfold nonceExpire
  rw [hn]
  dsimp only
  rw [if_pos (by simp [hp, hd])]

/-! ### Tokens (R556, R557) -/

/-- The answer to a token: its request number with the status word of a code. -/
def tokenAnswer (kind code : Nat) (s : State) : State :=
  emit (.mgmt (0x100 + kind) (if code = 0 then 0 else statusWord 15 0 1 code) 0 0 0 0) s

section

variable {s u : State} {b : List Byte} (hup : tokenUp s = true)
include hup

/-- A token of its kind uses its nonce up; it is refused where a check fails, denied where the Charter forbids the act, and carried out otherwise. -/
theorem token_served {kind : Nat} (hk : fieldLE b 6 1 = kind) (hu : u = useNonce b s) (permit : State → Bool) (act : State → State) :
    token kind permit act b s =
      if tokenOk s b = false then tokenAnswer kind 0x74 (trustEvent 15 0x74 [kind] u)
      else if permit s = true then tokenAnswer kind 0 (act u)
      else tokenAnswer kind 0x75 (trustEvent 15 0x75 [kind] u) := by
  subst hu
  unfold token tokenAnswer
  rw [if_neg (by simp [hup, hk])]
  cases tokenOk s b with
  | false => simp only [Bool.not_false, if_true]
  | true =>
    cases permit s with
    | false => simp only [Bool.not_true, Bool.not_false, Bool.false_eq_true, Bool.true_eq_false, if_false, if_true]
    | true => simp only [Bool.not_true, Bool.false_eq_true, Bool.true_eq_false, if_false, if_true]

/-- The same for an act that a decidable condition permits. -/
theorem token_decided {kind : Nat} (hk : fieldLE b 6 1 = kind) (hu : u = useNonce b s) (permit : State → Prop) [∀ t, Decidable (permit t)]
    (act : State → State) :
    token kind (fun t => decide (permit t)) act b s =
      if tokenOk s b = false then tokenAnswer kind 0x74 (trustEvent 15 0x74 [kind] u)
      else if permit s then tokenAnswer kind 0 (act u)
      else tokenAnswer kind 0x75 (trustEvent 15 0x75 [kind] u) := by
  rw [token_served hup hk hu]
  simp only [decide_eq_true_eq]

theorem fullDebugToken_served (hk : fieldLE b 6 1 = 3) (hu : u = useNonce b s) : fullDebugToken b s =
    if tokenOk s b = false then tokenAnswer 3 0x74 (trustEvent 15 0x74 [3] u)
    else if policy s F.chtLifeDebug = 0 ∧ lifecycle s ≠ 1 then tokenAnswer 3 0 { u with fullDebug := true }
    else tokenAnswer 3 0x75 (trustEvent 15 0x75 [3] u) := by
  refine (token_served hup hk hu _ _).trans ?_
  simp only [Bool.and_eq_true, decide_eq_true_eq]

/-- The Charter forbids no restriction of itself. -/
theorem restrictionToken_served (hk : fieldLE b 6 1 = 5) (hu : u = useNonce b s) : restrictionToken b s =
    if tokenOk s b then tokenAnswer 5 0 (restricted (blow F.chtLifeIdeReq (fieldLE b 0x48 2 / 64 % 16) (blow F.chtLifeHoldings (fieldLE b 0x48 2 / 16 % 4)
      (blow F.chtLifeFreeze (fieldLE b 0x48 2 / 4 % 4) (blow F.chtLifeDebug (fieldLE b 0x48 2 % 4) u)))))
    else tokenAnswer 5 0x74 (trustEvent 15 0x74 [5] u) := by
  unfold restrictionToken
  rw [token_served hup hk hu]
  cases tokenOk s b with
  | false => rw [if_pos rfl, if_neg Bool.false_ne_true]
  | true => rw [if_neg (by decide), if_pos rfl, if_pos rfl]

end

/-! ### The freeze and the thaw (R558, R593, R594, R597, R598) -/

/-- Where the Charter heeds the pin, an edge that samples it low freezes the module. -/
theorem freezeCapture_pin {s u : State} (hu : u = { s with rely := { s.rely with pinLow := true } }) (hp : policy s F.chtLifeFreeze = 0)
    (hs : 3 ≤ s.power.step) : freezeCapture true s = freezeNow (setF rlyB F.rlyFreezeByPin 1 u) := by
  subst hu
  unfold freezeCapture
  rw [if_pos rfl, if_pos ⟨hp, hs⟩]

theorem freezeCapture_command {s : State} (hc : getF s rlyB F.rlyFreezeByCmd = 1) (hp : s.power.phase ≠ .off) :
    freezeCapture false s = freezeNow s := by
  unfold freezeCapture
  rw [if_neg Bool.false_ne_true, if_pos ⟨hc, hp⟩]

section

variable {s : State} (hf : isFrozen s = true)
include hf

theorem hbmFreezeStop_frozen : hbmFreezeStop s = { s with rely := { s.rely with hbmDown := true } } := if_pos hf

theorem freezeRelease_frozen : freezeRelease s = startThaw (setF rlyB F.rlyFreezeByCmd 0 s) := if_pos hf

theorem thawClock_thawing (ht : s.rely.thawing = true) :
    thawClock s = latchedAlerts (whenB s.ditch.capDue showCap (retrainRing (clocksRun s))) := by
  unfold thawClock
  rw [if_neg (by simp [hf, ht])]

/-! ### Readout (R595) -/

theorem tapReadout_log (seq : Nat) :
    tapReadout (.log seq) s = emit (.mgmtData ((s.log.filter (fun e => e.seq = seq)).flatMap logBytes)) s := by
  unfold tapReadout
  rw [if_neg (by simp [hf])]

section

variable (ho : s.readout = true ∨ s.fullDebug = true)
include ho

/-- With a token every implemented register is read. -/
theorem tapReadout_reg {addr : PAddr} {base : Nat} {b : Blk} (hb : placeOf addr.toNat = .block base b)
    (hi : implemented b.tag (addr.toNat % 0x1000) = true) :
    tapReadout (.reg addr) s = emit (.read .tap addr.toNat (liveWord s .tap base b (addr.toNat % 0x1000))) s := by
  unfold tapReadout
  rw [if_neg (by simp [hf])]
  simp only [hb]
  rw [if_pos (by simpa [hi] using .inl ho)]

/-- With a token every word of a scratchpad is read. -/
theorem tapReadout_spad (die : Die) (acre : PAcre) (off : Fin 2097152) : tapReadout (.spad die acre off) s =
    emit (.mgmtData ((List.range 8).map (fun i => getK s.spad (spadKey (acreIx die acre) (off.val / 8 * 8 + i)) memDefault))) s := by
  unfold tapReadout
  rw [if_neg (by simp [hf])]
  dsimp only
  rw [if_pos (by simpa using ho)]

end

end

/-- Settles O28: each clause is the equation of its command's meaning at a state that meets the premises. -/
theorem tokensAndTheFreeze : Obligations.TokensAndTheFreeze := by
  refine ⟨?nonce, ?expire, ?freeze, ?readout, ?debug, ?owner, ?restrict, ?return_, ?pin, ?command, ?stop, ?thaw, ?release, ?clocks, ?log, ?reg, ?spad⟩
  case nonce =>
    intro s v hu hv
    exact congrArg Host.Outcome.next (getNonce_served hu hv)
  case expire =>
    intro s v c hp hn hd
    exact congrArg Host.Outcome.next (nonceExpire_due hp hn hd)
  case freeze | readout | owner =>
    intro s u b hup hk hu
    exact congrArg Host.Outcome.next (token_decided hup hk hu _ _)
  case debug =>
    intro s u b hup hk hu
    exact congrArg Host.Outcome.next (fullDebugToken_served hup hk hu)
  case restrict =>
    intro s u b hup hk hu
    exact congrArg Host.Outcome.next (restrictionToken_served hup hk hu)
  case return_ =>
    intro s u b hup hk hu
    exact congrArg Host.Outcome.next (token_served hup hk hu _ _)
  case pin =>
    intro s u hu hp hs
    exact congrArg Host.Outcome.next (freezeCapture_pin hu hp hs)
  case command =>
    intro s hc hp
    exact congrArg Host.Outcome.next (freezeCapture_command hc hp)
  case stop =>
    intro s hf
    exact congrArg Host.Outcome.next (hbmFreezeStop_frozen hf)
  case thaw => exact fun s => rfl
  case release =>
    intro s hf
    exact congrArg Host.Outcome.next (freezeRelease_frozen hf)
  case clocks =>
    intro s hf ht
    exact congrArg Host.Outcome.next (thawClock_thawing hf ht)
  case log =>
    intro s seq hf
    exact congrArg Host.Outcome.next (tapReadout_log hf seq)
  case reg =>
    intro s addr base b hf hb ho hi
    exact congrArg Host.Outcome.next (tapReadout_reg hf ho hb hi)
  case spad =>
    intro s die acre off hf ho
    exact congrArg Host.Outcome.next (tapReadout_spad hf ho die acre off)

end Sys2Proof.Proofs
end

section
/-! Parity errors, swaps and tests of acres, and the core pairs (R563, R569 to R571, R574 to R577, R580). -/

namespace Sys2Proof.Proofs

open Sys2Proof Sys2Proof.Machine Sys2Proof.Laws

/-! ### Parity errors (R570, R571) -/

section

variable {s : State} {g : Nat} (hl : acreLive s g = true)
include hl

section

variable (hr : (getAcre s g).run.isSome = true)
include hr

/-- An error of a running course's unit repeats its work, unless the repeat failed too or it is the third transient. -/
theorem parityError_running (stamps : Acre → List Nat) (put : List Nat → Acre → Acre) (again : Bool) (cycle : Nat) (repeat_ : State → State) :
    parityError g stamps put again cycle repeat_ s =
      if again = true ∨ thirdTransient (stamps (getAcre s g)) cycle = true then replaceAcre g s
      else repeat_ (modAcre g (put ((cycle :: stamps (getAcre s g)).take 3)) s) := by
  unfold parityError
  dsimp only
  rw [if_neg (by simp [hl, Option.isSome_iff_ne_none.1 hr])]
  simp only [Bool.or_eq_true]

theorem accParity_first {b : Bool} {cycle : Nat} {x : Acc} (hx : x = getAcc (getAcre s g) b) (hi : x.st ≠ .idle)
    (ht : thirdTransient (getAcre s g).accTrans cycle = false) :
    accParity g b false cycle s = refill g x.fill x.e (modAcre g (fun a => { a with accTrans := (cycle :: (getAcre s g).accTrans).take 3 }) s) := by
  subst hx
  unfold accParity
  dsimp only
  rw [if_neg hi, parityError_running hl hr, if_neg (by simp [ht])]

end

/-- A sequencer's first error in a course runs it again from its start on the same acre. -/
theorem sequencerError_first {cycle : Nat} {c : CourseRun} (hr : (getAcre s g).run = some c) (hs : (getAcre s g).seqRep ≠ some c.sn)
    (ht : thirdTransient (getAcre s g).seqTrans cycle = false) :
    sequencerError g cycle s = modAcre g (fun y => { releaseSets (clearFlight y) with
      run := some { restart c with replaced := c.replaced }, seqTrans := (cycle :: y.seqTrans).take 3, seqRep := some c.sn }) s := by
  unfold sequencerError
  dsimp only
  rw [hr]
  dsimp only
  rw [if_neg (by simp [hl]), if_neg (by simp [hs, ht])]

end

section

variable {s : State} (hf : frozen s = false)
include hf

/-! ### Swaps (R574, R575) -/

theorem acreSwap_idle {g : Nat} (hr : (getAcre s g).run = none) (ha : (getAcre s g).aside = none) :
    acreSwap g s = { s with swaps := s.swaps.map (fun j => if j.old = g && j.phase = .waiting then { j with phase := .copying } else j) } := by
  unfold acreSwap
  dsimp only
  rw [if_neg (by simp [hf, hr, ha])]

section

variable {g : Nat} {j : SwapJob} {u : State} (hj : s.swaps.find? (fun j => j.old = g && j.phase = .copying) = some j)
  (hu : u = enterFallow g (remapAcre g j.new { s with swaps := s.swaps.filter (fun k => k ≠ j) }))
include hj hu

/-- A slow acre whose copy is done becomes a spare. -/
theorem copyDone_slow (hw : j.why = .slow) : copyDone g s = serveTests (countSpares (g / 68) (logEv 0x20 3 g [j.new] u)) := by
  subst hu
  unfold copyDone
  rw [hj]
  dsimp only
  rw [if_neg (Bool.eq_false_iff.1 hf), hw]

/-- A faulty one is retired. -/
theorem copyDone_fault (hw : j.why = .fault) :
    copyDone g s = serveTests (countSpares (g / 68) (logEv 0x21 3 g [j.new] (modAcre g (fun a => { a with retired := true }) u))) := by
  subst hu
  unfold copyDone
  rw [hj]
  dsimp only
  rw [if_neg (Bool.eq_false_iff.1 hf), hw]

end

/-! ### Tests (R576, R577) -/

/-- An acre in service whose test is due is swapped for a spare that is not slow. -/
theorem bistRotation_due {g sp n : Nat} (hc : s.rely.coresLost = false) (hn : bistInterval s = some n)
    (hd : n ≤ (getAcre s g).bistAge + (s.counter - (getAcre s g).testedAt)) (hi : inService s g = true)
    (hs : s.swaps.any (fun j => j.old = g) = false) (hb : bestSpare s (g / 68) = some sp)
    (hfast : (getClk s (g / 68)).fmax < (getAcre s sp).life + slowGap s) :
    bistRotation g s = showTests (planSwap g sp .rotation { s with testQ := s.testQ.filter (· ≠ g) }) := by
  have due : (bistInterval s).any (fun n => decide ((getAcre s g).bistAge + (s.counter - (getAcre s g).testedAt) ≥ n)) = true := by
    rw [hn]
    exact decide_eq_true hd
  unfold bistRotation
  dsimp only
  rw [if_neg (by rw [hf, hc, due, hi, hs]; decide), hb]
  dsimp only
  rw [if_pos hfast]

theorem selfTestDone_testing {g : Nat} {res : TestRes} {u v : State} (ht : s.testing.contains g = true)
    (hu : u = { s with testing := s.testing.filter (· ≠ g) })
    (hv : v = setF rlyB F.rlyTeststatLastAcre (g % 68) (setF rlyB F.rlyTeststatLastDie (g / 68) (setF rlyB F.rlyTeststatResult (testResult g res u).1
      (modAcre g (fun a => { a with bistAge := 0, testedAt := s.counter }) (testResult g res u).2)))) :
    selfTestDone g res s = serveTests (countSpares (g / 68) (irqRaise rlyB 8 (logEv 0x23 3 g [(testResult g res u).1] v))) := by
  subst hv hu
  unfold selfTestDone
  rw [if_neg (by rw [hf, ht]; decide)]

/-! ### Core pairs (R563, R569, R580) -/

section

variable (hc : s.rely.coresLost = false)
include hc

section

variable (h2 : standby s ≠ 2) (h3 : standby s ≠ 3)
include h2 h3

/-- A mismatch of the active pair hands over to the standby. -/
theorem lockstep_active {pair : Nat} (hp : pair = getF s rlyB F.rlyCoresActive) :
    lockstep pair s = takeover (if fwPhase s = 2 ∨ fwPhase s = 3 then abandonUpdate s else s) := by
  unfold lockstep
  rw [if_neg (by simp [hf, hc]), if_neg (not_not.2 hp), if_neg (by simp [h2, h3])]
  simp only [Bool.or_eq_true, decide_eq_true_eq]

/-- A mismatch of the standby starts its self-test. -/
theorem lockstep_standby {pair : Nat} (hp : pair ≠ getF s rlyB F.rlyCoresActive) :
    lockstep pair s = setStandby 2 (if fwPhase s = 2 ∨ fwPhase s = 3 then abandonUpdate s else s) := by
  unfold lockstep
  rw [if_neg (by simp [hf, hc]), if_pos hp, if_neg (by simp [h2, h3])]
  simp only [Bool.or_eq_true, decide_eq_true_eq]

end

theorem checkpoint_due (hd : s.rely.ckpt + 25000 ≤ s.counter) : checkpoint s = setRely (fun r => { r with ckpt := s.counter }) s := by
  unfold checkpoint
  rw [if_pos (by simp [hf, hc, hd])]

end

theorem coreTestDone_testing (hs : standby s = 2) (ok : Bool) :
    coreTestDone ok s = if ok then setStandby 0 s else logEv 0x2D 1 (1 - getF s rlyB F.rlyCoresActive) [] (setStandby 3 s) := by
  unfold coreTestDone
  rw [if_neg (by simp [hf, hs])]

end

/-- Settles O29: each clause is the equation of its command's meaning at a state that meets the premises. -/
theorem acreReliability : Obligations.AcreReliability := by
  refine ⟨?lateral, ?acc, ?sequencer, ?watchdog, ?swap, ?slow, ?fault, ?rotation, ?tested, ?active, ?standby, ?checkpoint, ?coreTest⟩
  case lateral =>
    rintro s die acre again cycle _ rfl hl hr
    exact congrArg Host.Outcome.next (parityError_running hl hr ..)
  case acc =>
    rintro s die acre acc _ cycle _ x rfl hx hi hl hr rfl ht
    exact congrArg Host.Outcome.next (accParity_first hl hr hx hi ht)
  case sequencer | watchdog =>
    rintro s die acre cycle _ c rfl hr hl hs ht
    exact congrArg Host.Outcome.next (sequencerError_first hl hr hs ht)
  case swap =>
    rintro s die acre _ rfl hf hr ha
    exact congrArg Host.Outcome.next (acreSwap_idle hf hr ha)
  case slow =>
    rintro s u die acre _ j rfl hj hf hu hw
    exact congrArg Host.Outcome.next (copyDone_slow hf hj hu hw)
  case fault =>
    rintro s u die acre _ j rfl hj hf hu hw
    exact congrArg Host.Outcome.next (copyDone_fault hf hj hu hw)
  case rotation =>
    rintro s die acre _ sp n rfl hf hc hn hd hi hs hb hfast
    exact congrArg Host.Outcome.next (bistRotation_due hf hc hn hd hi hs hb hfast)
  case tested =>
    rintro s u v die acre res _ rfl hf ht hu hv
    exact congrArg Host.Outcome.next (selfTestDone_testing hf ht hu hv)
  case active =>
    intro s pair hf hc hp h2 h3
    exact congrArg Host.Outcome.next (lockstep_active hf hc h2 h3 hp)
  case standby =>
    intro s pair hf hc hp h2 h3
    exact congrArg Host.Outcome.next (lockstep_standby hf hc h2 h3 hp)
  case checkpoint =>
    intro s hf hc hd
    exact congrArg Host.Outcome.next (checkpoint_due hf hc hd)
  case coreTest =>
    intro s ok hf hs
    exact congrArg Host.Outcome.next (coreTestDone_testing hf hs ok)

end Sys2Proof.Proofs
end

section
/-! HBM reads and pages, the scrubs and the imbalance monitor (R581, R582, R585, R586, R592, R598). -/

namespace Sys2Proof.Proofs

open Sys2Proof Sys2Proof.Machine Sys2Proof.Laws

section

variable {s : State} (hf : frozen s = false)
include hf

/-! ### Reads of HBM (R581) -/

section

variable {addr : Nat} (ha : addr < 0x9000000000)
include ha

/-- A codeword that is not lost is counted where it was corrected. -/
theorem hbmRead_corrected {err : ReadErr} {stack : Nat} (hs : stack = hbmStack s addr) (he : err ≠ .lasting) :
    hbmRead addr err none s = if err = .corrected then countCorrected stack (addr / 0x200000) s else s := by
  subst hs
  unfold hbmRead
  rw [if_neg (by simp [hf, ha])]
  cases err with
  | lasting => exact absurd rfl he
  | clean | transient | corrected => rfl

/-- A lost one poisons its block, retires its page and faults the course that read it. -/
theorem hbmRead_lasting {stack : Nat} (hs : stack = hbmStack s addr) (ex : Executor) :
    hbmRead addr .lasting (some ex) s = faultExec ex 0x43 0x0C stack (retirePage stack (addr / 0x200000) (poisonBlock stack addr s)) := by
  subst hs
  unfold hbmRead
  rw [if_neg (by simp [hf, ha])]
  rfl

/-- A codeword of a patrol that does not end its pass is counted (R582). -/
theorem patrolScrub_within {stack n : Nat} {err : ReadErr} {u : State} (hs : hbmStack s addr = stack) (hu : u = codewordRead stack addr err s)
    (hn : n = getK u.rely.patrol stack 0 + 1) (hl : n ≠ 1610612736) :
    patrolScrub stack addr err s = setRely (fun r => { r with patrol := setK r.patrol stack n 0 }) u := by
  subst hn hu
  unfold patrolScrub
  rw [if_neg (by simp [hf, ha, hs])]
  dsimp only
  rw [if_neg hl]

end

/-! ### Pages that move (R582, R598) -/

theorem migrateDone_migrating {page sp stack : Nat} {poisoned : List Nat} {u : State} (hm : s.rely.migrating.contains page = true)
    (hsp : sp = getK s.rely.moved page 0) (hs : stack = if sp ≥ 2 ^ 20 then (sp - 2 ^ 20) / 64 else 3 * (page / 73728))
    (hu : u = { s with hbmPoison := (poisoned.filter (fun a => a / 0x200000 = page)).foldl (fun m a => setK m (a / 64) true false) s.hbmPoison }) :
    migrateDone page poisoned s = logEv 0x24 0x0C stack [page] (setRely (fun r => { r with
      migrating := r.migrating.filter (· ≠ page), retired := setK r.retired stack (getK r.retired stack 0 + 1) 0
      pageErr := r.pageErr.filter (fun e => e.1 % 2 ^ 20 ≠ page) }) u) := by
  subst hu hs hsp
  unfold migrateDone
  rw [if_neg (by rw [hf, hm]; decide)]

/-! ### The stream cache (R585, R586) -/

/-- A location of the stream cache that is stuck is disabled, and what it held is fetched again. -/
theorem sramScrub_stuck {loc : Nat} {u : State} (ho : s.rely.cacheOff.contains loc = false) (hl : loc < 65536)
    (hu : u = logEv 0x26 0x10 0 [loc] (setRely (fun r => { r with cacheOff := r.cacheOff ++ [loc] }) s)) :
    sramScrub true loc .lasting true s = setEng (fun e => { e with cache := evict u e.cache }) u := by
  subst hu
  unfold sramScrub
  rw [if_neg (by rw [hf, ho, decide_eq_false (Nat.not_le.2 hl)]; decide)]

/-! ### The imbalance monitor (R592) -/

/-- A channel above four times its share is logged, when the die has none logged. -/
theorem imbalance_high {die chan busiest total region ratio : Nat} {u : State} (ht : 0 < total) (hr : ratio = min 4095 (busiest * 16 * 96 / total))
    (hmax : getF s rlyB F.rlyImbalRatio ≤ ratio)
    (hu : u = setF rlyB F.rlyImbalRatio ratio (setF rlyB F.rlyImbalChannel chan (setF rlyB F.rlyImbalDie die s)))
    (hb : 4 * total < busiest * 96) (hn : getK s.rely.imbAt die 0 = 0) :
    imbalance die chan busiest total region s = logEv 0x2F 0x0C die [chan, region]
      (setRely (fun r => { r with imbAt := setK r.imbAt die (s.counter + 1) 0 }) u) := by
  subst hu hr
  unfold imbalance
  rw [if_neg (by simp [hf]; omega)]
  dsimp only
  rw [if_pos hb, if_pos (.inl hn), if_pos (.inl hmax)]

end

/-- Settles O30: each clause is the equation of its command's meaning at a state that meets the premises. -/
theorem memoryReliability : Obligations.MemoryReliability := by
  refine ⟨?read, ?lasting, ?migrated, ?patrol, ?sram, ?imbalance⟩
  case read =>
    intro s addr err stack hf ha hs he
    exact congrArg Host.Outcome.next (hbmRead_corrected hf ha hs he)
  case lasting =>
    intro s addr ex stack hf ha hs
    exact congrArg Host.Outcome.next (hbmRead_lasting hf ha hs ex)
  case migrated =>
    intro s u page sp stack poisoned hf hm hsp hs hu
    exact congrArg Host.Outcome.next (migrateDone_migrating hf hm hsp hs hu)
  case patrol =>
    intro s u stack addr err n hf ha hs hu hn hl
    exact congrArg Host.Outcome.next (patrolScrub_within hf ha hs hu hn hl)
  case sram =>
    intro s u loc hf ho hl hu
    exact congrArg Host.Outcome.next (sramScrub_stuck hf ho hl hu)
  case imbalance =>
    intro s u die chan busiest total region ratio hf ht hr hmax hu hb hn
    exact congrArg Host.Outcome.next (imbalance_high hf ht hr hmax hu hb hn)

end Sys2Proof.Proofs
end

section
/-! Reads of a frozen module (R595, R607). -/

namespace Sys2Proof.Proofs

open Sys2Proof Sys2Proof.Machine Sys2Proof.Laws

/-- Nothing but answers sent differs. -/
def OnlyAnswers (s t : State) : Prop := ∃ es, t = { s with emitted := s.emitted ++ es }

theorem OnlyAnswers.refl (s : State) : OnlyAnswers s s := ⟨[], by rw [List.append_nil]⟩

theorem onlyAnswers_emit (e : Emit) (s : State) : OnlyAnswers s (emit e s) := ⟨[e], rfl⟩

section

variable {s : State} (hf : isFrozen s = true)
include hf

/-- A discarded read is not counted while frozen. -/
theorem refusedRead_frozen (p : Path) (base addr kind : Nat) : OnlyAnswers s (refusedRead p base addr kind s) := by
  unfold refusedRead
  rw [if_pos hf]
  exact onlyAnswers_emit _ _

/-- A read that any path makes while frozen works no latch, counts and logs nothing. -/
theorem regRead_frozen (p : Path) (addr : Nat) : OnlyAnswers s (regRead p addr s) := by
  unfold regRead
  split
  case h_1 => exact .refl s
  case h_2 =>
    split
    · exact .refl s
    · rw [if_pos hf]
      exact onlyAnswers_emit _ _
  case h_3 =>
    split
    · exact .refl s
    · exact refusedRead_frozen hf _ _ _ _
  case h_4 base b _ =>
    dsimp only
    split
    · exact .refl s
    · exact refusedRead_frozen hf _ _ _ _
    · split
      · exact refusedRead_frozen hf _ _ _ _
      split
      · exact refusedRead_frozen hf _ _ _ _
      split
      · exact refusedRead_frozen hf _ _ _ _
      · rw [if_neg (by simp [hf])]
        exact onlyAnswers_emit _ _

/-- A readout of anything but an engine's state takes no free value. -/
theorem tapReadout_frozen {what : Readout} (hw : ∀ x, what ≠ .engine x) : OnlyAnswers s (tapReadout what s) := by
  have guarded (c : Bool) (e : Emit) : OnlyAnswers s (if c = true then emit e s else s) := by
    cases c
    · exact .refl s
    · exact onlyAnswers_emit e s
  unfold tapReadout
  rw [if_neg (by simp [hf])]
  cases what with
  | reg addr =>
    dsimp only
    split
    · exact guarded _ _
    · exact .refl s
  | log => exact onlyAnswers_emit _ _
  | spad | acc | weights => exact guarded _ _
  | engine x => exact absurd rfl (hw x)

end

/-- A read at certain offsets only answers where the read does. -/
theorem atOffset_onlyAnswers (ok : Blk → Nat → Bool) (addr : Nat) {f : State → State} {s : State} (h : OnlyAnswers s (f s)) :
    OnlyAnswers s (atOffset ok addr f s) := by
  unfold atOffset
  split
  · split
    · exact h
    · exact .refl s
  · exact .refl s

theorem exec_onlyAnswers {s t : State} (h : OnlyAnswers s t) : ∃ es, (Host.Outcome.next t : Out) = .next { s with emitted := s.emitted ++ es } :=
  let ⟨es, he⟩ := h
  ⟨es, congrArg Host.Outcome.next he⟩

/-- Settles O41. -/
theorem readoutOfAFrozenModuleChangesNothing : Obligations.ReadoutOfAFrozenModuleChangesNothing := by
  rintro c s hf (⟨p, addr, rfl | rfl | rfl⟩ | ⟨seq, n, rfl⟩ | ⟨what, rfl, hw⟩)
  · exact exec_onlyAnswers (regRead_frozen hf p addr.toNat)
  · exact exec_onlyAnswers (atOffset_onlyAnswers _ _ (regRead_frozen hf p addr.toNat))
  · exact exec_onlyAnswers (atOffset_onlyAnswers _ _ (regRead_frozen hf p addr.toNat))
  · exact ⟨_, congrArg Host.Outcome.next (logRead_served (.inl hf) seq n)⟩
  · exact exec_onlyAnswers (tapReadout_frozen hf hw)

end Sys2Proof.Proofs
end

section
/-! Operations that leave the state as it is while the units stand, behind the record that they would work on (R594, R595, R630, R631). -/

namespace Sys2Proof.Proofs

open Sys2Proof Sys2Proof.Machine Sys2Proof.Laws

section

variable {s : State} (hz : frozen s = true)
include hz

/-! ### Macros and course slots of an acre -/

theorem furrowPass_still (g stall : Nat) : furrowPass g stall s = s := by
  unfold furrowPass
  dsimp only
  split
  · rfl
  · exact if_neg (by simp [acreLive_still hz])

theorem passCompare_still (g : Nat) (errs : List PassErr) : passCompare g errs s = s := by
  unfold passCompare
  dsimp only
  split
  · exact if_neg (by simp [acreLive_still hz])
  · rfl

theorem repeatDone_still (g m : Nat) (errs : List PassErr) (cycle : Nat) : repeatDone g m errs cycle s = s := by
  unfold repeatDone
  dsimp only
  split
  · exact if_neg (by simp [acreLive_still hz])
  · rfl

theorem weightLoadStart_still (g m : Nat) : weightLoadStart g m s = s := by
  unfold weightLoadStart
  dsimp only
  split
  · rfl
  · exact if_neg (by simp [acreLive_still hz])

theorem setNotReady_still (g : Nat) : setNotReady g s = s := by
  unfold setNotReady
  dsimp only
  split
  · rfl
  · split
    · rfl
    · exact if_neg (by simp [acreLive_still hz])

theorem accPreloadStart_still (g : Nat) : accPreloadStart g s = s := by
  unfold accPreloadStart
  split
  · rfl
  · exact if_neg (by simp [acreLive_still hz])

theorem accDrain_still (g : Nat) (b : Bool) : accDrain g b s = s := by
  unfold accDrain
  dsimp only
  split
  · rfl
  · exact if_neg (by simp [acreLive_still hz])

theorem accDrainDone_still (g : Nat) (b : Bool) : accDrainDone g b s = s := by
  unfold accDrainDone
  dsimp only
  split
  · rfl
  · exact if_neg (by simp [acreLive_still hz])

theorem courseYield_still (g : Nat) : courseYield g s = s := by
  unfold courseYield
  dsimp only
  split
  · exact if_neg (by simp [acreLive_still hz])
  · rfl

theorem courseResume_still (g : Nat) : courseResume g s = s := by
  unfold courseResume
  dsimp only
  split
  · exact if_neg (by simp [acreLive_still hz])
  · rfl

theorem parityError_still (g : Nat) (stamps : Acre → List Nat) (put : List Nat → Acre → Acre) (again : Bool) (cycle : Nat)
    (repeat_ : State → State) : parityError g stamps put again cycle repeat_ s = s :=
  if_pos (by simp [acreLive_still hz])

theorem accParity_still (g : Nat) (b again : Bool) (cycle : Nat) : accParity g b again cycle s = s := by
  unfold accParity
  dsimp only
  split
  · rfl
  · exact parityError_still hz ..

theorem sequencerError_still (g cycle : Nat) : sequencerError g cycle s = s := by
  unfold sequencerError
  dsimp only
  split
  · rfl
  · exact if_pos (by simp [acreLive_still hz])

theorem copyDone_still (g : Nat) : copyDone g s = s := by
  unfold copyDone
  split
  · rfl
  · exact if_pos hz

/-! ### Scratchpads -/

theorem sluiceComplete_still (g : Nat) : sluiceComplete g s = s := by
  unfold sluiceComplete
  split
  · rfl
  · exact if_pos hz

theorem bistDone_still (g : Nat) (fail : Option Nat) : bistDone g fail s = s := by
  unfold bistDone
  split
  · rfl
  · exact if_pos hz

theorem spareSelfTest_still (g : Nat) : spareSelfTest g s = s := ite_eq_right_iff.2 fun _ => if_pos hz

theorem columnDone_still (g k : Nat) : columnDone g k s = s := by
  unfold columnDone
  split
  · rfl
  · exact if_pos hz

theorem atomicAdd_still (g : Nat) : atomicAdd g s = s := by
  unfold atomicAdd
  split
  · rfl
  · exact if_pos hz

/-! ### Courses and collectives -/

theorem matmulCourse_still (iss : Issue) : matmulCourse iss s = s :=
  issueCourse_still hz _ _ _ fun _ d => by simp [slotFree_still hz]

theorem basinCourse_still (iss : Issue) : basinCourse iss s = s :=
  issueCourse_still hz _ _ _ fun _ d => by simp [hz]

theorem attendCourse_still (iss : Issue) (table : List Byte) : attendCourse iss table s = s := by
  unfold attendCourse
  split
  · exact refuseUnknown_still hz _
  · dsimp only
    split
    · rfl
    · rw [fillTable_still hz]
      exact laneCourse_still hz ..

theorem attendMerge_still (iss : Issue) : attendMerge iss s = s := by
  unfold attendMerge
  split
  · exact refuseUnknown_still hz _
  · exact laneCourse_still hz ..

theorem sampling_still (iss : Issue) (rows : List Nat) : sampling iss rows s = s := by
  unfold sampling
  rw [fillRowRecs_still hz]
  exact vecCourse_still hz ..

theorem orderedSum_still (iss : Issue) : orderedSum iss s = s := by
  unfold orderedSum
  split
  · exact refuseUnknown_still hz _
  · exact laneCourse_still hz ..

theorem moveCourse_still (op : Nat) (tile : Nat → CourseRun → Nat → State → TileRes) (iss : Issue) : moveCourse op tile iss s = s := by
  unfold moveCourse
  split
  · exact refuseUnknown_still hz _
  · exact laneCourse_still hz ..

theorem issueColl_still (t : Nat) (iss : Issue) : issueColl t iss s = s := by
  unfold issueColl
  split
  · exact refuseUnknown_still hz _
  · exact if_pos (by simp [hz])

theorem fenceArrival_still (k d : Nat) : fenceArrival k d s = s := by
  unfold fenceArrival
  split
  · rfl
  · exact if_pos (by simp [hz])

theorem fenceMessage_still (k d : Nat) : fenceMessage k d s = s := by
  unfold fenceMessage
  split
  · rfl
  · split <;> simp [hz]

theorem collectiveDone_still (k d : Nat) : collectiveDone k d s = s := by
  unfold collectiveDone
  split
  · rfl
  · exact if_pos (by simp [hz])

theorem mayFence_still : mayFence s = false := by
  unfold mayFence
  rw [hz]
  rfl

/-- The end of a training step waits. -/
theorem trainStep_still (src : CmdSrc) : trainStep src true s = s := by
  unfold trainStep
  rw [if_pos rfl]
  split
  · rfl
  · exact if_pos (by simp [hz])

theorem courseRecord_still : courseRecord s = s := by
  unfold courseRecord
  split
  · rfl
  · exact if_pos hz

/-! ### Basins, images and corrections -/

theorem basinPass_still (die k : Nat) (mask : Option (List Machine.Neuron)) (theta : Int) (hold : Bool) : basinPass die k mask theta hold s = s := by
  unfold basinPass
  split
  · rfl
  · exact if_pos (by simp [hz])

theorem weirGroupResume_still (die k : Nat) : weirGroupResume die k s = s := by
  unfold weirGroupResume
  split
  · rfl
  · exact if_pos (by simp [hz])

theorem referenceSlot_still (b : Nat) : referenceSlot b s = s := by
  unfold referenceSlot
  dsimp only
  split
  · rfl
  · exact if_pos hz

theorem imageControlCheck_still (image : Nat) : imageControlCheck image s = s := by
  unfold imageControlCheck
  split
  · rfl
  · exact if_pos (by simp [hz])

theorem basinRecord_still (image : Nat) : basinRecord image s = s := by
  unfold basinRecord
  split
  · rfl
  · exact if_pos (by simp [hz])

theorem rowMayStart_still (b : Nat) : rowMayStart s b = false := by
  unfold rowMayStart
  simp [hz]

theorem recalibration_still (b : Nat) (reads : NatMap Nat) : recalibration b reads s = s := by
  unfold recalibration
  dsimp only
  rw [hz]
  rfl

theorem laneBorrow_still (die lane : Nat) (walked : List (Nat × Nat)) : laneBorrow die lane walked s = s := by
  unfold laneBorrow
  split
  · rfl
  · exact if_pos (by simp [hz])

theorem laneChannelSend_still (die lane bad cycle time : Nat) : laneChannelSend die lane bad cycle time s = s := by
  unfold laneChannelSend
  split
  · rfl
  · split
    · rfl
    · rw [if_pos hz]

/-! ### Streams and the ledger -/

theorem kvImportHeader_still (id : Nat) : kvImportHeader id s = s := by
  unfold kvImportHeader
  split
  · rfl
  · exact if_pos (by simp [hz])

theorem kvImportRecord_still (id : Nat) : kvImportRecord id s = s := by
  unfold kvImportRecord
  split
  · rfl
  · exact if_pos (by simp [hz])

theorem promptStaged_still (id : Nat) (toks : List Word) : promptStaged id toks s = s := by
  unfold promptStaged
  split
  · rfl
  · split
    · rfl
    · exact if_pos (by simp [hz])

theorem roleSwitch_still : roleSwitch s = s := by
  unfold roleSwitch
  split
  · rfl
  · exact if_pos (by simp [hz])

/-- No boundary is reached. -/
theorem stepReached_still (k : Nat) : stepReached s k = false := by
  unfold stepReached
  simp [hz]

theorem doneHoldExpire_still (id : Nat) : doneHoldExpire id s = s := by
  unfold doneHoldExpire
  split
  · rfl
  · exact if_neg (by simp [hz])

theorem pageSign_still (k bad cycle : Nat) (ws : List (Bool × Bool)) : pageSign k bad cycle ws s = s := by
  unfold pageSign
  split
  · rfl
  · exact if_pos (by simp [hz])

theorem pageSigned_still : pageSigned s = s := by
  unfold pageSigned
  split
  · rfl
  · exact if_pos hz

theorem signatureBlockRead_still (seq : Nat) : signatureBlockRead seq s = s := by
  unfold signatureBlockRead
  split <;> exact if_pos hz

/-! ### Limits, channels and updates -/

theorem thermalStep_still (d : Nat) : thermalStep d s = s := by
  unfold thermalStep
  dsimp only
  split
  · exact if_neg (by simp [hz])
  · rfl

theorem thermalStillTimeout_still (d : Nat) : thermalStillTimeout d s = s := by
  unfold thermalStillTimeout
  dsimp only
  split
  · exact if_neg (by simp [hz])
  · rfl

theorem capUnreachable_still : capUnreachable s = s := by
  unfold capUnreachable
  split
  · exact if_neg (by simp [hz])
  · rfl

/-- A command whose read fails stays with its entry, and a prompt with its stream. -/
theorem hostReadTimeout_still (r : HostRead) : hostReadTimeout r s = s := by
  unfold hostReadTimeout
  cases r with
  | command k =>
    dsimp only
    split
    · exact ite_eq_right_iff.2 fun _ => takeCmd_still hz ..
    · rfl
  | prompt id =>
    dsimp only
    split
    · exact if_neg (by simp [hz])
    · rfl

theorem ackTimer_still (k : Nat) : ackTimer k s = s := by
  unfold ackTimer
  split
  · rfl
  · exact if_neg (by simp [hz])

theorem retransmit_still (k seq : Nat) : retransmit k seq s = s := by
  unfold retransmit
  split
  · rfl
  · split
    · rfl
    · exact if_pos (by simp [hz])

theorem ackTimeout_still (k : Nat) : ackTimeout k s = s := by
  unfold ackTimeout
  split
  · rfl
  · exact if_neg (by simp [hz])

theorem healthExpire_still : healthExpire s = s := by
  unfold healthExpire
  split
  · exact if_neg (by simp [hz])
  · rfl

end

/-! ### Units that start-up serves before the module is in service -/

section

variable {s : State} (h : Shut s)
include h

/-- No step of the sequence is under way. -/
theorem notStarting_shut : isFrozen s = true ∨ s.power.phase ≠ .starting := h.1.imp_right fun hp => by rw [hp]; decide

theorem railGood_shut (step : Nat) : railGood step s = s :=
  if_pos (by rcases notStarting_shut h with hf | hp <;> simp [*])

theorem railTimeout_shut (rail : Rail) : railTimeout rail s = s :=
  if_pos (by rcases notStarting_shut h with hf | hp <;> simp [*])

theorem coolantResume_shut : coolantResume s = s := by
  unfold coolantResume
  rcases h.1 with hf | hp
  · exact if_pos hf
  · exact ite_eq_left_iff.2 fun _ => if_neg (by simp [hp])

theorem inputHighSeen_shut : inputHighSeen s = s := if_pos (by rcases h.1 with hf | hp <;> simp [*])

theorem coolantReading_shut (inlet flow : Nat) : coolantReading inlet flow s = s := if_pos (by rcases h.1 with hf | hp <;> simp [*])

theorem configRequest_shut (k : Nat) : configRequest k s = s := if_pos (by rcases h.1 with hf | hp <;> simp [*])

theorem aliasBuilt_shut : aliasBuilt s = s := if_pos (by rcases h.1 with hf | hp <;> simp [*])

theorem moduleReset_shut : moduleReset s = s := by
  unfold moduleReset
  rcases h.1 with hf | hp
  · exact if_pos (by simp [hf])
  · rw [hp]
    exact ite_self s

theorem stageFirmware_shut (bs : List Byte) : stageFirmware bs s = s := if_pos (by simp [pldmUp_shut h])

theorem activateFirmware_shut : activateFirmware s = s := if_pos (by simp [pldmUp_shut h])

theorem needAlias_shut (p : SpdmPort) (req : Nat) (f : Nat → State → State) : needAlias p req f s = s := spdmReq_shut h ..

theorem getMeasurements_shut (p : SpdmPort) (msg : List Byte) (index : Option Nat) (signed : Bool) :
    getMeasurements p msg index signed s = s := by
  unfold getMeasurements
  dsimp only
  split
  · exact needAlias_shut h ..
  · exact spdmReq_shut h ..

theorem ideKeys_shut (k stream : Nat) (msg : IdeMsg) : ideKeys k stream msg s = s := if_pos (by simp [spdmUp_shut h])

theorem deepRequest_shut (p : Path) (set : Bool) (data : Word) : deepRequest p set data s = s :=
  ite_eq_right_iff.2 fun _ => ownedWrite_shut h ..

end

end Sys2Proof.Proofs
end

section
/-! The module frozen or without power: what no longer acts (R594, R595, R625, R631). -/

namespace Sys2Proof.Proofs

open Sys2Proof Sys2Proof.Machine Sys2Proof.Laws

theorem next_stay {s t : State} (h : t = s) : (Host.Outcome.next t : Out) = .next s := congrArg Host.Outcome.next h

/-- A command whose unit's clock has stopped changes nothing. -/
theorem exec_shut {c : Instr} {s : State} (h : Shut s) (hc : freezeServes c = false) : exec c s = .next s := by
  have hz : frozen s = true := h.frozen
  cases c with
  | imageOpen | calRequest | imageActivate | imageRelease | imageStatus | rearm | abort | park | resume | exportStream | query | list
  | adapterLoad | adapterRelease | telemetry | channelClose | channelOpen | predictorOff | predictorOn | admitPrompt | admitImport
  | powerShare => exact exec_untaken rfl fun op f => takeCmd_still hz _ op f
  | trainStep src ended =>
    cases ended with
    | true => exact next_stay (trainStep_still hz src)
    | false => exact exec_untaken rfl fun op f => takeCmd_still hz _ op f
  -- the register paths
  | registerWrite => exact next_stay (regWrite_shut h ..)
  | registerAliasWrite | loWrite | hiWrite | irqStatClear | irqForce | errClr => exact next_stay (atOffset_stay _ _ _ (regWrite_shut h ..))
  | strCredit | roleRequest | modAlertClear | shareWrite | capWrite | sluiceGo | bistRun | spareTestRun | acreTestRequest | queueEnable
  | queueDisable => exact next_stay (ownedWrite_shut h ..)
  | deepRequest | deepRequestEnd => exact next_stay (deepRequest_shut h ..)
  -- scratchpads and acres
  | scratchpadAccess | scratchpadAliasWrite | eccWriteback | mgmtWordTimeout => exact next_stay (if_pos hz)
  | circWrite | circRead | acreSwap | acreBistRotation | acreSelfTestDone | ageingMonitor | acreWake | acreWakeDone =>
    exact next_stay (if_pos (by simp [hz]))
  | spareTestDone | acreDry => exact next_stay (if_neg (by simp [hz]))
  | weightLoadDone | accPreloadDone | acreStill => exact next_stay (if_neg (by simp [acreLive_still hz]))
  | scrubLine => exact next_stay (by unfold scrubLine; simp [hz, acreLive_still hz])
  | sluiceComplete => exact next_stay (sluiceComplete_still hz _)
  | bistDone => exact next_stay (bistDone_still hz ..)
  | spareSelfTest => exact next_stay (spareSelfTest_still hz _)
  | columnRepairDone => exact next_stay (columnDone_still hz ..)
  | atomicAdd => exact next_stay (atomicAdd_still hz _)
  | furrowPass => exact next_stay (furrowPass_still hz ..)
  | passResidueCompare => exact next_stay (passCompare_still hz ..)
  | residueRepeatDone => exact next_stay (repeatDone_still hz ..)
  | weightLoadStart => exact next_stay (weightLoadStart_still hz ..)
  | setNotReady => exact next_stay (setNotReady_still hz _)
  | accPreloadStart => exact next_stay (accPreloadStart_still hz _)
  | accDrain => exact next_stay (accDrain_still hz ..)
  | accDrainDone => exact next_stay (accDrainDone_still hz ..)
  | lateralParityError => exact next_stay (parityError_still hz ..)
  | accParityError => exact next_stay (accParity_still hz ..)
  | sequencerParityError | sequencerWatchdog => exact next_stay (sequencerError_still hz ..)
  | acreCopyDone => exact next_stay (copyDone_still hz _)
  -- courses and collectives
  | courseYield => exact next_stay (courseYield_still hz _)
  | courseResume => exact next_stay (courseResume_still hz _)
  | courseStart => exact next_stay (courseStart_still hz _)
  | matmulCourse => exact next_stay (matmulCourse_still hz _)
  | basinCourse => exact next_stay (basinCourse_still hz _)
  | attendCourse => exact next_stay (attendCourse_still hz ..)
  | attendMerge => exact next_stay (attendMerge_still hz _)
  | rmsNormalisation | layerNormalisation | int8Quantisation | softmaxBlock | routing | vectorAdd | vectorMultiply =>
    exact next_stay (vecCourse_still hz ..)
  | sampling => exact next_stay (sampling_still hz ..)
  | orderedSum => exact next_stay (orderedSum_still hz _)
  | fill | copy | transpose | stride | expand => exact next_stay (moveCourse_still hz ..)
  | allReduce | reduceScatter | allGather | broadcast | fenceRecord => exact next_stay (issueColl_still hz ..)
  | fenceArrival => exact next_stay (fenceArrival_still hz ..)
  | fenceMessage => exact next_stay (fenceMessage_still hz ..)
  | collectiveDone => exact next_stay (collectiveDone_still hz ..)
  | managementFence => exact next_stay (if_neg (by simp [mayFence_still hz]))
  | courseRecordReceived => exact next_stay (courseRecord_still hz)
  | boundUnreadable => exact next_stay (if_pos hz)
  | readBeforeFill | overwriteBeforeDrain | chainBroken | skewWindowClose | ringFlitReceive | linkRetrainDone =>
    exact next_stay (if_pos (by simp [hz]))
  -- basins, images and corrections
  | basinPass => exact next_stay (basinPass_still hz ..)
  | weirGroupResume => exact next_stay (weirGroupResume_still hz ..)
  | referenceSlot => exact next_stay (referenceSlot_still hz _)
  | imageControlCheck => exact next_stay (imageControlCheck_still hz _)
  | basinRecord => exact next_stay (basinRecord_still hz _)
  | programRow => exact next_stay (if_pos (by simp [rowMayStart_still hz]))
  | recalibration => exact next_stay (recalibration_still hz ..)
  | laneBorrow => exact next_stay (laneBorrow_still hz ..)
  | laneChannelSend => exact next_stay (laneChannelSend_still hz ..)
  | plotTempRead | basinSwap | moduleImageOpen | moduleImageActivate | holdingMaskWrite => exact next_stay (if_pos hz)
  | clipWindowClose | spareBasinTest | correctionStep => exact next_stay (if_pos (by simp [hz]))
  | plotThrottledReport | recalDue | calOverdue => exact next_stay (if_neg (by simp [hz]))
  -- streams and the ledger
  | kvImportHeader => exact next_stay (kvImportHeader_still hz _)
  | kvImportRecord => exact next_stay (kvImportRecord_still hz _)
  | promptStaged => exact next_stay (promptStaged_still hz ..)
  | roleSwitch => exact next_stay (roleSwitch_still hz)
  | stepBoundary | sweepBoundary => exact next_stay (if_pos (by simp [stepReached_still hz]))
  | doneHoldExpire => exact next_stay (doneHoldExpire_still hz _)
  | pageSign => exact next_stay ((congrArg retryEnds (pageSign_still hz ..)).trans (retryEnds_still hz))
  | pageSigned => exact next_stay ((congrArg retryEnds (pageSigned_still hz)).trans (retryEnds_still hz))
  | signatureBlockRead => exact next_stay (signatureBlockRead_still hz _)
  | lmsTreeBuilt => exact next_stay (if_pos hz)
  | attributionEpoch => exact next_stay (if_pos (by simp [hz]))
  | pageCloseTime | meterCheck => exact next_stay (if_neg (by simp [hz]))
  -- limits, rails and levels
  | junctionRead | power10usMean => exact next_stay (if_pos hz)
  | droopDetect | idleEntry | deepEntry | deepWakeDone => exact next_stay (if_pos (by simp [hz]))
  | droopHoldEnd | trickleHoldEnd | phaseDisable | railOff | coolantOutOfSpec => exact next_stay (if_neg (by simp [hz]))
  | thermalRecoveryStep => exact next_stay (thermalStep_still hz _)
  | thermalStillTimeout => exact next_stay (thermalStillTimeout_still hz _)
  | capUnreachable => exact next_stay (capUnreachable_still hz)
  | railGood => exact next_stay (railGood_shut h _)
  | railTimeout => exact next_stay (railTimeout_shut h _)
  | coolantResume => exact next_stay (coolantResume_shut h)
  | coolantReading => exact next_stay (coolantReading_shut h ..)
  | inputHigh => exact next_stay (inputHighSeen_shut h)
  | moduleReset => exact next_stay (moduleReset_shut h)
  | configRequest => exact next_stay (configRequest_shut h _)
  | shutdownRequest => exact next_stay (if_pos hz)
  -- host ports and channels
  | sqDoorbell | ledgerDoorbell | moduleChannelOpen => exact next_stay (if_pos hz)
  | submissionEntry | hostPortLinkUp | flumeLinkUp | flumeLinkDown => exact next_stay (if_pos (by simp [hz]))
  | flumeWrite | flumeReadReq | flumeReadData | flumeAck | flumeNak | flumeOpen | flumeOpenAck | flumeClose =>
    exact next_stay (if_pos (by simp [hz]))
  | coalesceTimeout | queueDisableDone => exact next_stay (if_neg (by simp [hz]))
  | cqDoorbell => exact next_stay ((congrArg (serveQP _ _) (if_pos hz)).trans (serveQP_still hz ..))
  | hostReadTimeout => exact next_stay (hostReadTimeout_still hz _)
  | ackTimer => exact next_stay (ackTimer_still hz _)
  | retransmitTimeout => exact next_stay (retransmit_still hz ..)
  | channelAckTimeout => exact next_stay (ackTimeout_still hz _)
  -- management, firmware and security
  | pldmSensorRead | firmwareWatchdogExpiry => exact next_stay (if_pos hz)
  | standbyBootDone => exact next_stay (if_pos (by simp [hz]))
  | pldmFirmwareStage => exact next_stay (stageFirmware_shut h _)
  | activateFirmware => exact next_stay (activateFirmware_shut h)
  | healthWindowExpire => exact next_stay (healthExpire_still hz)
  | getVersion | getCapabilities | negotiateAlgorithms | getDigests | getCertificate | finish | keyUpdate | heartbeat | endSession | hssSign =>
    exact next_stay (spdmReq_shut h ..)
  | challenge | keyExchange | hssChain => exact next_stay (needAlias_shut h ..)
  | getMeasurements => exact next_stay (getMeasurements_shut h ..)
  | aliasTreeBuilt => exact next_stay (aliasBuilt_shut h)
  | ideKeyManagement => exact next_stay (ideKeys_shut h ..)
  -- memory and the cores
  | reservoirScrub | lockstepMismatch | corePairSelfTestDone | hbmRead | hbmPageMigrateDone | hbmPatrolScrub | sramScrub | imbalanceWindow =>
    exact next_stay (if_pos (by simp [hz]))
  | mgmtCheckpoint => exact next_stay (if_neg (by simp [hz]))
  -- the commands that a freeze leaves
  | _ => cases hc

/-- Settles O39. -/
theorem frozenModuleStandsStill : Obligations.FrozenModuleStandsStill :=
  fun _ _ hf hd hc => exec_shut ⟨.inl hf, hd⟩ hc

section

variable {s : State} (hp : s.power.phase = .off)
include hp

theorem isFrozen_off : isFrozen s = false := by simp [isFrozen, hp]

theorem tokenUp_off : tokenUp s = false := by simp [tokenUp, isFrozen_off hp, headgateUp, hp]

theorem token_off (kind : Nat) (allowed : State → Bool) (act : State → State) (b : List Byte) : token kind allowed act b s = s :=
  if_pos (by simp [tokenUp_off hp])

theorem restrictionToken_off (b : List Byte) : restrictionToken b s = s := by
  unfold restrictionToken
  exact token_off hp ..

theorem nonceExpire_off : nonceExpire s = s := by
  unfold nonceExpire
  split
  · exact if_neg (by simp [hp])
  · rfl

theorem regulatorClear_off (r : Rail) : regulatorClear r s = s := if_neg (by simp [hp])

theorem seqResume_off : seqResume s = s := if_neg (by simp [hp])

/-- What a freeze leaves does nothing either while the module is off. -/
theorem exec_off {c : Instr} (hc : offServes c = false) (hs : freezeServes c = true) : exec c s = .next s := by
  cases c with
  | tapReadout => exact next_stay (if_pos (by simp [isFrozen_off hp]))
  | eventLogRead => exact next_stay (if_neg (by simp [isFrozen_off hp, headgateUp, hp]))
  | mctpControl => exact next_stay (if_pos (by simp [mgmtUp, hp]))
  | getNonce => exact next_stay (if_neg (by simp [tokenUp_off hp]))
  | nonceExpire => exact next_stay (nonceExpire_off hp)
  | freezeToken | debugReadoutToken | fullDebugToken | ownerChangeToken | enterReturnToken =>
    exact next_stay (token_off hp ..)
  | charterRestrictionToken => exact next_stay (restrictionToken_off hp _)
  | freezeReleaseCommand | hbmFreezeStop => exact next_stay (if_neg (by simp [isFrozen_off hp]))
  | thawClockStart => exact next_stay (if_pos (by simp [isFrozen_off hp]))
  | inputPowerLoss | refclkReturn => exact next_stay (if_pos hp)
  | inputUndervoltage | bladeFuseOpen | refclkLost | regulatorAlert => exact next_stay (if_pos (by simp [hp]))
  | inputUndervoltageClear => exact next_stay ((congrArg seqResume (regulatorClear_off hp _)).trans (seqResume_off hp))
  | regulatorAlertClear => exact next_stay (regulatorClear_off hp _)
  | coldPowerOn | inputOvervoltage | overvoltageRestart | freezeCapture | thaw | portReset | loRead | hiRead | registerRead => cases hc
  | _ => cases hs

end

/-- Settles O40. -/
theorem offModuleIsInert : Obligations.OffModuleIsInert := by
  intro c s hp hd hc
  cases hs : freezeServes c with
  | false => exact exec_shut ⟨.inr hp, hd⟩ hs
  | true => exact exec_off hp hc hs

end Sys2Proof.Proofs
end

section
/-! Reads of register pairs and their latches (R607). -/

namespace Sys2Proof.Proofs

open Sys2Proof Sys2Proof.Machine Sys2Proof.Laws

/-- A path's latch of a pair has a key of its own. -/
theorem latchKey_injective {p q : Path} {a b : Nat} (h : latchKey p a = latchKey q b) : p = q ∧ a = b := by
  have hp := pathNum_lt p
  have hq := pathNum_lt q
  unfold latchKey at h
  exact ⟨pathNum_injective (by omega), by omega⟩

theorem getLatch_setLatch_other {p q : Path} {a b : Nat} (v : PairLatch) (s : State) (h : q ≠ p ∨ b ≠ a) :
    getLatch (setLatch p a v s) q b = getLatch s q b :=
  getK_setK_other _ _ _ _ _ _ fun e => h.elim (fun hp => hp (latchKey_injective e).1) (fun ha => ha (latchKey_injective e).2)

theorem regGet_setLatch (p : Path) (a : Nat) (v : PairLatch) (s : State) (r : Nat) : regGet (setLatch p a v s) r = regGet s r :=
  regGet_congr (setLatch_regs ..) r

theorem sameMemory_setLatch (p : Path) (a : Nat) (v : PairLatch) (s : State) : SameMemory s (setLatch p a v s) :=
  sameMemory_of (setLatch_amap ..) (setLatch_doubled ..) (setLatch_hbm ..) (setLatch_spad ..)

section

variable {s : State} {p : Path} {addr base : Nat} {b : Blk} (h : MayRead s p addr base b)
include h

/-- A register of no pair answers its word. -/
theorem regRead_single (hlo : isLo b.tag (addr % 0x1000) = false) (hhi : isHi b.tag (addr % 0x1000) = false) :
    regRead p addr s = emit (.read p addr (liveWord s p base b (addr % 0x1000))) s := by
  rw [regRead_ok h]
  unfold readWord readLatch
  rw [hlo, hhi, if_neg Bool.false_ne_true, if_neg Bool.false_ne_true, if_neg Bool.false_ne_true]

/-- A LO register answers its word, and HI of the same moment stays in the latch. -/
theorem regRead_lo (hlo : isLo b.tag (addr % 0x1000) = true) (hhi : isHi b.tag (addr % 0x1000) = false) :
    regRead p addr s = emit (.read p addr (liveWord s p base b (addr % 0x1000)))
      (setLatch p (base + addr % 0x1000)
        { getLatch s p (base + addr % 0x1000) with hi := some (liveWord s p base b (addr % 0x1000 + 4)) } s) := by
  rw [regRead_ok h]
  unfold readWord readLatch
  rw [hlo, hhi, if_neg Bool.false_ne_true, if_pos rfl]

/-- A HI register answers the latch where it holds a word, and empties it. -/
theorem regRead_hi (hlo : isLo b.tag (addr % 0x1000) = false) (hhi : isHi b.tag (addr % 0x1000) = true) :
    regRead p addr s =
      emit (.read p addr (((getLatch s p (base + addr % 0x1000 - 4)).hi).getD (liveWord s p base b (addr % 0x1000))))
        (setLatch p (base + addr % 0x1000 - 4) { getLatch s p (base + addr % 0x1000 - 4) with hi := none } s) := by
  rw [regRead_ok h]
  unfold readWord readLatch
  rw [hlo, hhi, if_pos rfl, if_neg Bool.false_ne_true, if_pos rfl]

end

/-- What a path may read does not depend on the latches or on the answers sent. -/
theorem mayRead_latched {s : State} {p q : Path} {addr base a : Nat} {b : Blk} {v : PairLatch} {e : Emit} (h : MayRead s p addr base b) :
    MayRead (emit e (setLatch q a v s)) p addr base b := h

/-- The path's latch after an answer. -/
theorem getLatch_answered_same (p : Path) (a : Nat) (v : PairLatch) (e : Emit) (s : State) :
    getLatch (emit e (setLatch p a v s)) p a = v := getLatch_setLatch_same ..

theorem getLatch_answered_other {p q : Path} {a b : Nat} (v : PairLatch) (e : Emit) (s : State) (h : q ≠ p ∨ b ≠ a) :
    getLatch (emit e (setLatch p a v s)) q b = getLatch s q b := getLatch_setLatch_other v s h

/-- Settles O48. -/
theorem pairReadsAnswerOneSample : Obligations.PairReadsAnswerOneSample := by
  intro s p lo hi base b hrlo hrhi hoff hlo hhi hlo' hhi'
  have hat : base + hi.toNat % 0x1000 - 4 = base + lo.toNat % 0x1000 := by omega
  have first := regRead_lo hrlo hlo hlo'
  rw [← hoff] at first
  have second {t : State} (ht : MayRead t p hi.toNat base b) := regRead_hi ht hhi' hhi
  rw [hat] at second
  refine ⟨⟨_, congrArg Host.Outcome.next first, rfl, congrArg PairLatch.hi (getLatch_answered_same ..),
      fun q a => getLatch_answered_other _ _ s, _, congrArg Host.Outcome.next (second (mayRead_latched hrhi)), ?answer⟩,
    _, congrArg Host.Outcome.next (second hrhi), rfl, congrArg PairLatch.hi (getLatch_answered_same ..),
    fun q a => getLatch_answered_other _ _ s⟩
  case answer =>
    rw [getLatch_answered_same]
    rfl

end Sys2Proof.Proofs
end

section
/-! Plain register writes, bit-set and bit-clear writes, and reads, whatever the block (R604, R606, R607, R608). -/

namespace Sys2Proof.Proofs

open Sys2Proof Sys2Proof.Machine Sys2Proof.Laws

section

variable {s : State} {p : Path} {addr base off : Nat} {b : Blk}

/-- A register that means no more to its block than its value stores its rw fields on a plain write. -/
theorem regWrite_store (data : Word) (h : MayWrite s p addr base b 0) (ho : 0x100 ≤ addr % 0x1000) (hsel : isSel b.tag (addr % 0x1000) = false)
    (hw : actsOnWrite b.tag (addr % 0x1000) = false) (hs : actsOnStore b.tag (addr % 0x1000) = false) :
    regWrite p addr data 15 s = storeRw base b.tag (addr % 0x1000) data s := by
  rw [regWrite_apply data h rfl ho hw, applyRw_store _ _ ho hsel hs]

theorem sameRegsBut_storeRw (tag : BlkTag) (w : Word) (u : State) : SameRegsBut [base + off] u (storeRw base tag off w u) :=
  fun _ ha => regGet_storeRw_other _ _ _ fun e => ha (List.mem_singleton.2 e)

/-! ### The aliases (R606) -/

/-- The command of a permitted bit-set or bit-clear write. -/
theorem aliasWrite_permitted (data : Word) (set : Bool) (h : MayWrite s p addr base b (if set then 1 else 2)) :
    atOffset (fun _ o => decide (0x1000 ≤ o) && decide (o < 0x3000)) addr (regWrite p addr data 15) s =
      aliasOf set p base b (addr % 0x1000) data s := by
  have hw := regWrite_alias data set h
  obtain ⟨hp, -, -, hr, -⟩ := h
  have hreg : addr % 0x4000 / 0x1000 = 1 ∨ addr % 0x4000 / 0x1000 = 2 := by cases set <;> simp_all
  rw [atOffset_ok _ _ hp (by simp only [Bool.and_eq_true, decide_eq_true_eq]; omega), hw]

/-- The word that a bit-set or bit-clear write makes of the one in force. -/
def aliasWord (set : Bool) (old data : Word) : Word := if set then old ||| data else old &&& ~~~data

/-- The LO register of the pair that a register belongs to, where it belongs to one. -/
def pairLo (tag : BlkTag) (off : Nat) : Nat := if isHi tag off then off - 4 else off

theorem aliasOf_plain (set : Bool) (data : Word) (hm : rwMask b.tag off ≠ 0) (hp : writablePair b.tag (pairLo b.tag off) = false) :
    aliasOf set p base b off data s =
      applyRw p base b off (mergeRw (rwMask b.tag off) (liveWord s p base b off) (aliasWord set (liveWord s p base b off) data)) s := by
  unfold pairLo at hp
  unfold aliasOf aliasWord
  dsimp only
  rw [hp, if_neg Bool.false_ne_true, if_neg hm]

theorem aliasOf_readOnly (set : Bool) (data : Word) (hm : rwMask b.tag off = 0) :
    aliasOf set p base b off data s =
      if writablePair b.tag (pairLo b.tag off) then unstage p (base + pairLo b.tag off) s else s := if_pos hm

/-- A register that does nothing more on a plain write belongs to no writable pair. -/
theorem writablePair_pairLo (h : actsOnWrite b.tag off = false) : writablePair b.tag (pairLo b.tag off) = false := by
  refine Bool.eq_false_iff.2 fun hw => ?_
  obtain ⟨hlo, hhi⟩ := actsOnWrite_pair hw
  unfold pairLo at hlo hhi
  split at hlo
  · next hh =>
    obtain ⟨o, -, ho⟩ := List.any_eq_true.1 hh
    have e : off - 4 + 4 = off := Nat.sub_add_cancel (by have := of_decide_eq_true ho; omega)
    rw [if_pos hh, e, h] at hhi
    cases hhi
  · rw [h] at hlo
    cases hlo

/-- The plain register that a bit-set or bit-clear address stands for. -/
theorem mayWrite_plain {plain : Nat} {set : Bool} (h : MayWrite s p addr base b (if set then 1 else 2))
    (ha : addr = plain + (if set then 0x1000 else 0x2000)) : MayWrite s p plain base b 0 ∧ plain % 0x1000 = addr % 0x1000 := by
  obtain ⟨hp, hg, h4, hr, hi⟩ := h
  have hslot : plain / 0x4000 * 0x4000 = addr / 0x4000 * 0x4000 ∧ plain % 0x4000 / 0x1000 = 0 ∧ plain % 0x1000 = addr % 0x1000 ∧ plain % 4 = addr % 4 := by
    cases set
    · rw [if_neg Bool.false_ne_true] at ha hr
      omega
    · rw [if_pos rfl] at ha hr
      omega
  obtain ⟨hbase, hregion, hoff, halign⟩ := hslot
  obtain ⟨hb, hblk⟩ := blkOf_of_placeOf hp
  refine ⟨⟨?_, hg, halign.trans h4, hregion, hoff ▸ hi⟩, hoff⟩
  unfold placeOf
  dsimp only
  rw [hbase, ← hb, hblk]

end

/-! ### The pairs of an HQ block (R608) -/

section

variable {s : State} {p : Path} {h q : Nat}

/-- A LO write of a writable pair is only staged. -/
theorem plainWrite_lo {base off : Nat} {b : Blk} (data : Word) (hw : writablePair b.tag off = true) :
    plainWrite p base b off data s = setLatch p (base + off) { getLatch s p (base + off) with staged := some data } s := if_pos hw

theorem setQBase_sq (hd : (getQP s h q).en = false) (f : Nat → Nat) :
    setQBase h q false f s = setQP h q { getQP s h q with sqb := f (getQP s h q).sqb } s := by
  unfold setQBase
  dsimp only
  rw [if_neg (by rw [hd]; exact Bool.false_ne_true), if_neg Bool.false_ne_true]

/-- A write of HQ_SQB_HI while the selected pair is disabled: its submission base takes the low half and then the high half. -/
theorem pairWrite_sqb {b : Blk} (ht : b.tag = .hq) (hi : b.inst = h) (hq : q = selQP s p h) (hd : (getQP s h q).en = false) (w : Word) {v : Nat}
    (hv : v = pairValue p (hqB h + 0x104) (liveWord s p (hqB h) b 0x104) w s) :
    pairWrite p (hqB h) b 0x104 w s = unstage p (hqB h + 0x104)
      (setQP h q { getQP s h q with sqb := v % 2 ^ 32 / 4096 * 4096 + w.toNat * 2 ^ 32 }
        (setQP h q { getQP s h q with sqb := putHalf false (BitVec.ofNat 32 v) (getQP s h q).sqb } s)) := by
  obtain ⟨tag, inst, die, owner⟩ := b
  cases ht
  cases hi
  subst hq hv
  have hlo (x : Word) : applyRw p (hqB inst) ⟨.hq, inst, die, owner⟩ 0x104 x s = setQBase inst (selQP s p inst) false (putHalf false x) s := rfl
  have hhi (u : State) : applyRw p (hqB inst) ⟨.hq, inst, die, owner⟩ 0x108 w u = setQBase inst (selQP u p inst) false (putHalf true w) u := rfl
  have hsel (x : QPSt) : selQP (setQP inst (selQP s p inst) x s) p inst = selQP s p inst := rfl
  unfold pairWrite
  dsimp only
  rw [hlo, setQBase_sq hd, hhi, hsel, setQBase_sq (by rw [getQP_setQP_same]; exact hd), getQP_setQP_same]
  dsimp only
  rw [putHalf_both, BitVec.toNat_ofNat]

/-- A HI write of the submission base pair takes the pair's value. -/
theorem hiWrite_sqb {addr base : Nat} {b : Blk} (data : Word) (hm : MayWrite s p addr base b 0) (ht : b.tag = .hq) (hoff : addr % 0x4000 = 0x108) :
    atOffset (fun b o => isHi b.tag o) addr (regWrite p addr data 15) s = pairWrite p base b 0x104 data s := by
  have hplain := regWrite_plain data hm
  obtain ⟨hp, -⟩ := hm
  have hreg : addr % 0x1000 = 0x108 := by omega
  obtain ⟨tag, inst, die, owner⟩ := b
  cases ht
  rw [atOffset_ok _ _ hp (by rw [hoff]; rfl), hplain, hreg]
  rfl

end

/-- An answer, and the path's latch with it, leave the registers and the memories. -/
theorem sameRegs_answered (p : Path) (a : Nat) (v : PairLatch) (e : Emit) (s : State) : SameRegsBut [] s (emit e (setLatch p a v s)) :=
  fun r _ => regGet_setLatch p a v s r

theorem sameMemory_answered (p : Path) (a : Nat) (v : PairLatch) (e : Emit) (s : State) : SameMemory s (emit e (setLatch p a v s)) :=
  sameMemory_setLatch p a v s

/-- A permitted read lies at its register's offset of the slot. -/
theorem offset_of_mayRead {s : State} {p : Path} {addr base : Nat} {b : Blk} (h : MayRead s p addr base b) : addr % 0x1000 = addr % 0x4000 := by
  obtain ⟨-, -, -, hr, -, -⟩ := h
  omega

/-- Settles O1. -/
theorem registerCommandsTakeEffect : Obligations.RegisterCommandsTakeEffect := by
  refine ⟨?plain, ?aliasIsPlain, ?aliasStore, ?aliasIgnored, ?single, ?lo, ?hi, ?staged, ?base⟩
  case plain =>
    intro s p addr data base b hm ho hsel hw hs
    exact ⟨_, congrArg Host.Outcome.next (regWrite_store data hm ho hsel hw hs), regGet_storeRw_same .., sameRegsBut_storeRw _ _ _, sameMemory_storeRw _ _ _⟩
  case aliasIsPlain =>
    intro s p addr plain data base b set hm ha ho hw hmask old
    obtain ⟨hplain, hoff⟩ := mayWrite_plain hm ha
    exact ⟨_, congrArg Host.Outcome.next ((aliasWrite_permitted data set hm).trans (aliasOf_plain set data hmask (writablePair_pairLo hw))),
      congrArg Host.Outcome.next (regWrite_apply _ hplain hoff ho hw)⟩
  case aliasStore =>
    intro s p addr data base b set hm ho hsel hmask hs hpair old
    exact ⟨_, congrArg Host.Outcome.next (((aliasWrite_permitted data set hm).trans (aliasOf_plain set data hmask hpair)).trans
      (applyRw_store _ _ ho hsel hs)), regGet_storeRw_same .., sameRegsBut_storeRw _ _ _, sameMemory_storeRw _ _ _⟩
  case aliasIgnored =>
    rintro s p addr data base b set _ hm hmask rfl
    exact congrArg Host.Outcome.next ((aliasWrite_permitted data set hm).trans (aliasOf_readOnly set data hmask))
  case single =>
    intro s p addr base b hm hlo hhi
    exact congrArg Host.Outcome.next (regRead_single hm hlo hhi)
  case lo =>
    intro s p addr base b hm hlo hhi
    have hlo' : isLo b.tag (addr.toNat % 0x1000) = true := (offset_of_mayRead hm).symm ▸ hlo
    exact ⟨_, congrArg Host.Outcome.next ((atOffset_ok _ _ hm.1 hlo).trans (regRead_lo hm hlo' hhi)), rfl,
      congrArg PairLatch.hi (getLatch_answered_same ..), sameRegs_answered _ _ _ _ _, sameMemory_answered _ _ _ _ _⟩
  case hi =>
    intro s p addr base b hm hhi hlo
    have hhi' : isHi b.tag (addr.toNat % 0x1000) = true := (offset_of_mayRead hm).symm ▸ hhi
    exact ⟨_, congrArg Host.Outcome.next ((atOffset_ok _ _ hm.1 hhi).trans (regRead_hi hm hlo hhi')), rfl,
      congrArg PairLatch.hi (getLatch_answered_same ..), sameRegs_answered _ _ _ _ _, sameMemory_answered _ _ _ _ _⟩
  case staged =>
    intro s p addr data base b hm hlo hpair
    exact ⟨_, congrArg Host.Outcome.next (((atOffset_ok _ _ hm.1 hlo).trans (regWrite_plain data hm)).trans (plainWrite_lo data hpair)),
      congrArg PairLatch.staged (getLatch_setLatch_same ..), fun _ _ => regGet_setLatch .., rfl, rfl, sameMemory_setLatch _ _ _ _⟩
  case base =>
    intro s p addr data h b hm ht hi hoff hd lo
    refine ⟨_, congrArg Host.Outcome.next ((hiWrite_sqb data hm ht hoff).trans (pairWrite_sqb ht hi rfl hd data rfl)), ?base,
      unstage_staged _ _, fun a _ => ?regs, fun a => ?memory⟩
    case base => rw [getQP_unstage, getQP_setQP_same]
    case regs => rw [regGet_unstage, regGet_setQP, regGet_setQP]
    case memory => rw [sameMemory_unstage, sameMemory_setQP, sameMemory_setQP]

end Sys2Proof.Proofs
end

section
/-! Pending bits, the error record, the credit and the alert pin (R608, R611, R612, R614, R623). -/

namespace Sys2Proof.Proofs

open Sys2Proof Sys2Proof.Machine Sys2Proof.Laws

section

variable {s : State} {p : Path} {addr base off : Nat} {b : Blk}

/-- The command of a header register at an offset is the register's plain write. -/
theorem headerWrite (ok : Blk → Nat → Bool) (data : Word) (h : MayWrite s p addr base b 0) (hoff : addr % 0x4000 = off) (hok : ok b off = true) :
    atOffset ok addr (regWrite p addr data 15) s = plainWrite p base b off data s := by
  have hplain := regWrite_plain data h
  obtain ⟨hp, -, -, hr, -⟩ := h
  have hreg : addr % 0x1000 = off := by omega
  rw [atOffset_ok _ _ hp (by rw [hoff]; exact hok), hplain, hreg]

/-- Raising sources of a block of any kind (R612, R614). -/
theorem irqRaise_block (hb : blkOf base = some b) (bits : Nat) {u : State}
    (hu : u = setF base F.irqStatPend (Nat.lor (getF s base F.irqStatPend) (Nat.land bits (irqImpl b.tag))) s) :
    irqRaise base bits s =
      if b.tag = .hq ∧ irqActive s base = 0 ∧ irqActive u base ≠ 0 then signalVec b.inst (getF u base F.hqIrqcfgVector) u else u := by
  unfold irqRaise
  rw [hb]
  dsimp only
  rw [← hu, hqIrqEdge_of hb]

/-- Whether or not the block sends its message, the pending bits hold what is written to them, and no other register changes. -/
theorem getF_pend_signalIf (c : Prop) [Decidable c] (h k v : Nat) (hv : v < 2 ^ 16) :
    getF (if c then signalVec h k (setF base F.irqStatPend v s) else setF base F.irqStatPend v s) base F.irqStatPend = v := by
  unfold getF
  rw [regGet_signalIf]
  exact (getF_setF_same base F.irqStatPend v s (by decide)).trans (Nat.mod_eq_of_lt hv)

theorem sameRegsBut_signalIf (c : Prop) [Decidable c] (h k v : Nat) :
    SameRegsBut [base + 0x14] s (if c then signalVec h k (setF base F.irqStatPend v s) else setF base F.irqStatPend v s) :=
  fun _ ha => (regGet_signalIf ..).trans (regGet_setF_other _ _ _ _ _ fun e => ha (List.mem_singleton.2 e))

theorem sameMemory_setF (c : Nat) (f : Fld) (v : Nat) (u : State) : SameMemory u (setF c f v u) :=
  sameMemory_of (regSet_amap ..) (regSet_doubled ..) (regSet_hbm ..) (regSet_spad ..)

theorem sameMemory_pendIf (c : Prop) [Decidable c] (h k v : Nat) :
    SameMemory s (if c then signalVec h k (setF base F.irqStatPend v s) else setF base F.irqStatPend v s) :=
  fun a => (sameMemory_signalIf c h k _ a).trans (sameMemory_setF _ _ _ _ a)

/-! ### The error record (R611) -/

/-- The error record of a block with its three registers at 0. -/
def clearRecord (base : Nat) (s : State) : State := regSet (base + 0x20) 0 (regSet (base + 0x24) 0 (regSet (base + 0x28) 0 s))

theorem regGet_clearRecord (u : State) (a : Nat) :
    regGet (clearRecord base u) a = if a = base + 0x20 ∨ a = base + 0x24 ∨ a = base + 0x28 then 0 else regGet u a := by
  unfold clearRecord
  by_cases h20 : a = base + 0x20
  · rw [if_pos (.inl h20), h20, regGet_regSet_same]
  · rw [regGet_regSet_other _ _ _ _ h20]
    by_cases h24 : a = base + 0x24
    · rw [if_pos (.inr (.inl h24)), h24, regGet_regSet_same]
    · rw [regGet_regSet_other _ _ _ _ h24]
      by_cases h28 : a = base + 0x28
      · rw [if_pos (.inr (.inr h28)), h28, regGet_regSet_same]
      · rw [regGet_regSet_other _ _ _ _ h28, if_neg (by simp [h20, h24, h28])]

theorem sameMemory_clearRecord (u : State) : SameMemory u (clearRecord base u) :=
  sameMemory_of rfl rfl rfl rfl

/-- BLK_CTRL with ERR_CLR takes on its rw fields under the interrupt gate and zeroes the record. -/
theorem ctrlWrite_clear (tag : BlkTag) (data : Word) (hd : data.getLsbD 8 = true) :
    ctrlWrite base tag data s = clearRecord base (irqGate base (storeRw base tag 0x0C data) s) := if_pos hd

/-! ### STR_CREDIT and MOD_ALERT -/

theorem credit_eq (data : Word) {v : Int}
    (hv : v = sext 64 (((getLatch s p (strB + 0x120)).staged.getD 0).toNat + data.toNat * 2 ^ 32)) :
    credit p data s = unstage p (strB + 0x120)
      (setHold (selHold s p) { getHold s (selHold s p) with balance := satAdd64 (getHold s (selHold s p)).balance v } s) := by
  subst hv
  rfl

theorem getHold_unstage (lo : Nat) (u : State) (k : Nat) : getHold (unstage p lo u) k = getHold u k := getHold_congr (setLatch_holds ..) k

theorem alertWrite_clear (data : Word) (hd : data.getLsbD 1 = true) :
    alertWrite data s = setF modB F.modAlertAsserted 0 (setF modB F.modAlertSevMin (fldOf F.modAlertSevMin data) s) := if_pos hd

end

/-- Settles O2. -/
theorem interruptAndCreditWrites : Obligations.InterruptAndCreditWrites := by
  refine ⟨?clear, ?force, ?record, ?credit, ?alert⟩
  case clear =>
    rintro s _ p addr data base b hm hoff rfl
    have hb := (blkOf_of_placeOf hm.1).2
    exact ⟨_, congrArg Host.Outcome.next (((headerWrite _ data hm hoff rfl).trans (plainWrite_stat data)).trans (statClear_of hb data _ rfl)), rfl,
      getF_pend_signalIf _ _ _ _ (Nat.lt_of_le_of_lt (Nat.sub_le ..) (getF_lt s base F.irqStatPend)), sameRegsBut_signalIf _ _ _ _,
      sameMemory_pendIf _ _ _ _⟩
  case force =>
    rintro s _ p addr data base b hm hoff rfl
    have hb := (blkOf_of_placeOf hm.1).2
    have hbits : Nat.land (data.toNat % 65536) (irqImpl b.tag) < 2 ^ 16 := Nat.lt_of_le_of_lt Nat.and_le_left (Nat.mod_lt _ (by decide))
    exact ⟨_, congrArg Host.Outcome.next (((headerWrite _ data hm hoff rfl).trans (plainWrite_force data)).trans (irqRaise_block hb _ rfl)), rfl,
      getF_pend_signalIf _ _ _ _ (Nat.or_lt_two_pow (getF_lt s base F.irqStatPend) hbits), sameRegsBut_signalIf _ _ _ _,
      sameMemory_pendIf _ _ _ _⟩
  case record =>
    rintro s _ _ p addr data base b hm hoff hd rfl rfl
    have hb := (blkOf_of_placeOf hm.1).2
    refine ⟨_, congrArg Host.Outcome.next ((((headerWrite _ data hm hoff (by rw [hd]; rfl)).trans (plainWrite_ctrl data)).trans
      (ctrlWrite_clear _ data hd)).trans (congrArg (clearRecord base) (irqGate_of hb _))), rfl, ?cnt, ?first, ?last, fun a ha => ?regs, fun a => ?memory⟩
    case cnt => rw [regGet_clearRecord, if_pos (.inl rfl)]
    case first => rw [regGet_clearRecord, if_pos (.inr (.inl rfl))]
    case last => rw [regGet_clearRecord, if_pos (.inr (.inr rfl))]
    case regs =>
      simp only [List.mem_cons, List.not_mem_nil, or_false, not_or] at ha
      obtain ⟨hctrl, hrec⟩ := ha
      rw [regGet_clearRecord, if_neg (by simp [hrec]), regGet_signalIf, regGet_storeRw_other _ _ _ hctrl]
    case memory => exact ((sameMemory_clearRecord _ a).trans (sameMemory_signalIf _ _ _ _ a)).trans (sameMemory_storeRw _ _ _ a)
  case credit =>
    intro s p data hg v
    refine ⟨_, congrArg Host.Outcome.next ((ownedWrite_ok _ _ hg).trans (credit_eq data rfl)), ?balance, fun k hk => ?others, unstage_staged _ _,
      fun a _ => ?regs, fun a => ?memory⟩
    case balance => rw [getHold_unstage, getHold_setHold_same]
    case others => rw [getHold_unstage, getHold_setHold, if_neg hk]
    case regs => exact (regGet_unstage _ _ a).trans (regGet_congr (setHold_regs ..) a)
    case memory => exact (sameMemory_unstage _ _ a).trans (sameMemory_of (setHold_amap ..) (setHold_doubled ..) (setHold_hbm ..) (setHold_spad ..) a)
  case alert =>
    intro s p data hg hd
    refine ⟨_, congrArg Host.Outcome.next ((ownedWrite_ok _ _ hg).trans (alertWrite_clear data hd)), ?pin, ?level, fun a ha => ?regs, fun a => ?memory⟩
    case pin => exact getF_setF_same _ _ _ _ (by decide)
    case level =>
      rw [getF_setF_beside modB F.modAlertAsserted F.modAlertSevMin 0 _ rfl (by decide) (by decide), getF_setF_same _ _ _ _ (by decide)]
      exact Nat.mod_eq_of_lt (fldOf_lt ..)
    case regs =>
      have hne : a ≠ modB + 0x11C := fun e => ha (List.mem_singleton.2 e)
      rw [regGet_setF_other _ _ _ _ _ hne, regGet_setF_other _ _ _ _ _ hne]
    case memory => rw [sameMemory_setF, sameMemory_setF]

end Sys2Proof.Proofs
end

section
/-! Registers with a row of their own in the command table: a plain write is that command (R604, R608). -/

namespace Sys2Proof.Proofs

open Sys2Proof Sys2Proof.Machine Sys2Proof.Laws

/-! ### Where a register lies (R600, R615, R616) -/

theorem placeOf_slot {base off : Nat} {b : Blk} (hb : blkOf base = some b) (hbase : base % 0x4000 = 0) (ho : off < 0x4000) :
    placeOf (base + off) = .block base b := by
  have hslot : (base + off) / 0x4000 * 0x4000 = base := by omega
  unfold placeOf
  dsimp only
  rw [hslot, hb]

/-- A whole plain write of a register with a row of its own. -/
theorem regWrite_own {s : State} {p : Path} {addr base off : Nat} {b : Blk} {data : Word} (haddr : addr = base + off)
    (hb : blkOf base = some b) (hbase : base % 0x4000 = 0) (h0 : off < 0x1000) (h4 : off % 4 = 0) (hi : implemented b.tag off = true)
    {f : State → State} (hf : plainWrite p base b off data s = f s) : regWrite p addr data 15 s = ownedWrite p base off f s := by
  subst haddr
  exact regWrite_row (placeOf_slot hb hbase (by omega)) data off (by omega) h0 h4 hi f hf

theorem blkOf_hq (h : Holding) : blkOf (hqB h.val) = some ⟨.hq, h.val, 15, h.val⟩ := by
  revert h
  decide

/-- The base of a block of an acre, by die and physical acre. -/
theorem acreBase_acreIx (die : Die) (acre : PAcre) (k : Nat) :
    acreBase (acreIx die acre) k = 0xF100000000 + die.val * 0x1000000 + (0x100000 + acre.val * 0x10000 + k * 0x4000) := by
  have hd := die.isLt
  have ha := acre.isLt
  have hdie : acreIx die acre / 68 = die.val := by unfold acreIx; omega
  have hacre : acreIx die acre % 68 = acre.val := by unfold acreIx; omega
  unfold acreBase fdBase
  rw [hdie, hacre]

theorem acreBase_aligned (die : Die) (acre : PAcre) (k : Nat) : acreBase (acreIx die acre) k % 0x4000 = 0 := by
  rw [acreBase_acreIx]
  omega

/-- The four kinds of block of an acre, as their slots follow one another. -/
def acreTag : Nat → BlkTag
  | 0 => .frw | 1 => .acr | 2 => .crs | _ => .spd

theorem blkOf_acre (die : Die) (acre : PAcre) {k : Nat} (hk : k < 4) :
    blkOf (acreBase (acreIx die acre) k) = some ⟨acreTag k, acre.val, die.val, 15⟩ := by
  have hd := die.isLt
  have ha := acre.isLt
  rw [acreBase_acreIx]
  generalize hO : 0x100000 + acre.val * 0x10000 + k * 0x4000 = O
  generalize hB : 0xF100000000 + die.val * 0x1000000 + O = B
  have hdie : (B - 0xF100000000) / 0x1000000 = die.val := by omega
  have hoff : (B - 0xF100000000) % 0x1000000 = O := by omega
  have hin : O - 0x100000 = acre.val * 0x10000 + k * 0x4000 := by omega
  have hacre : (O - 0x100000) / 0x10000 = acre.val := by rw [hin]; omega
  have hslot : O / 0x4000 % 4 = k := by omega
  unfold blkOf
  dsimp only
  rw [if_neg (by omega), if_neg (by omega), if_neg (by omega), if_pos (by omega), hdie, hoff, if_neg (by omega), if_neg (by omega),
    if_pos (by omega), hacre, hslot]
  interval_cases k <;> rfl

/-- A register of an acre's block with a row of its own. -/
theorem regWrite_acre {s : State} {p : Path} {addr off k : Nat} {data : Word} {die : Die} {acre : PAcre} (hk : k < 4)
    (haddr : addr = acreBase (acreIx die acre) k + off) (h0 : off < 0x1000) (h4 : off % 4 = 0) (hi : implemented (acreTag k) off = true)
    {f : State → State} (hf : plainWrite p (acreBase (acreIx die acre) k) ⟨acreTag k, acre.val, die.val, 15⟩ off data s = f s) :
    regWrite p addr data 15 s = ownedWrite p (acreBase (acreIx die acre) k) off f s :=
  regWrite_own haddr (blkOf_acre die acre hk) (acreBase_aligned die acre k) h0 h4 hi hf

/-! ### The registers -/

section

variable {s : State} {p : Path} {addr : Nat} {data : Word}

theorem regWrite_share (reg : Fin 4) (h : addr = strB + 0x108 + 4 * reg.val) :
    regWrite p addr data 15 s = ownedWrite p strB (0x108 + 4 * reg.val) (writeShare (selHold s p) reg.val data) s := by
  have hr := reg.isLt
  refine regWrite_own (h.trans (Nat.add_assoc ..)) (b := ⟨.str, 0, 15, 15⟩) rfl rfl (by omega) (by omega) ?_ ?_
  · exact (by decide : ∀ r : Fin 4, implemented .str (0x108 + 4 * r.val) = true) reg
  · match reg with
    | 0 => rfl
    | 1 => rfl
    | 2 => rfl
    | 3 => rfl

/-- DRD_CAP has one rw field, BMC_CAP. -/
theorem regWrite_cap (h : addr = drdB + 0x100) : regWrite p addr data 15 s = capWrite p data s := by
  have hmask : rwMask .drd 0x100 = 2 ^ F.drdCapBmcCap.w - 1 := by decide
  have stored : storeRw drdB .drd 0x100 data s = setF drdB F.drdCapBmcCap (fldOf F.drdCapBmcCap data) s := by
    unfold storeRw setF
    rw [hmask, mergeRw_low _ _ F.drdCapBmcCap _ rfl rfl (by decide)]
    rfl
  exact regWrite_own h (b := ⟨.drd, 0, 15, 15⟩) rfl rfl (by decide) (by decide) (by decide) (congrArg (setDitch fun x => { x with capDue := true }) stored)

/-- DRD_LEVEL is the request of Deep or its end, by DEEP_REQ. -/
theorem regWrite_level (h : addr = drdB + 0x104) : regWrite p addr data 15 s = deepRequest p (data.getLsbD 2) data s :=
  (regWrite_own h (b := ⟨.drd, 0, 15, 15⟩) rfl rfl (by decide) (by decide) (by decide) (f := levelWrite data) rfl).trans (if_pos rfl).symm

/-- HQ_QCFG enables the selected pair or requests its end, by EN. -/
theorem regWrite_qcfg (h : Holding) (ha : addr = hqB h.val + 0x114) :
    regWrite p addr data 15 s = ownedWrite p (hqB h.val) 0x114
      (if fldOf F.hqQcfgEn data = 1 then fun t => serveQP h.val (selQP s p h.val) (enableQP h.val (selQP s p h.val) data t)
        else requestDisableQP h.val (selQP s p h.val) data) s := by
  refine regWrite_own ha (blkOf_hq h) (by unfold hqB hgBase; omega) (by decide) (by decide) rfl ?_
  rw [ite_apply]
  rfl

end

/-- Settles O55. -/
theorem registerWritesAreTheirRows : Obligations.RegisterWritesAreTheirRows := by
  refine ⟨?share, ?credit, ?role, ?alert, ?level, ?cap, ?test, ?sluice, ?bist, ?spare, ?queue⟩
  case share => exact fun s p addr data reg h => congrArg Host.Outcome.next (regWrite_share reg h)
  case credit =>
    exact fun s p addr data h => congrArg Host.Outcome.next
      (regWrite_own h (b := ⟨.str, 0, 15, 15⟩) rfl rfl (by decide) (by decide) (by decide) rfl)
  case role =>
    exact fun s p addr data h => congrArg Host.Outcome.next
      (regWrite_own h (b := ⟨.mod, 0, 15, 15⟩) rfl rfl (by decide) (by decide) (by decide) rfl)
  case alert =>
    exact fun s p addr data h => congrArg Host.Outcome.next
      (regWrite_own h (b := ⟨.mod, 0, 15, 15⟩) rfl rfl (by decide) (by decide) (by decide) rfl)
  case level =>
    intro s p addr data h
    have hw := regWrite_level (p := p) (data := data) (s := s) h
    cases hd : data.getLsbD 2 with
    | true => exact congrArg Host.Outcome.next (hd ▸ hw)
    | false => exact congrArg Host.Outcome.next (hd ▸ hw)
  case cap => exact fun s p addr data h => congrArg Host.Outcome.next (regWrite_cap h)
  case test =>
    exact fun s p addr data h => congrArg Host.Outcome.next
      (regWrite_own h (b := ⟨.rly, 0, 15, 15⟩) rfl rfl (by decide) (by decide) (by decide) rfl)
  case sluice =>
    exact fun s p addr data die acre h => congrArg Host.Outcome.next (regWrite_acre (k := 3) (by decide) h (by decide) (by decide) (by decide) rfl)
  case bist =>
    exact fun s p addr data die acre h => congrArg Host.Outcome.next (regWrite_acre (k := 3) (by decide) h (by decide) (by decide) (by decide) rfl)
  case spare =>
    exact fun s p addr data die acre h => congrArg Host.Outcome.next (regWrite_acre (k := 0) (by decide) h (by decide) (by decide) (by decide) rfl)
  case queue =>
    intro s p addr data h ha
    have hw := regWrite_qcfg (p := p) (data := data) (s := s) h ha
    split
    · next he =>
      rw [if_pos he] at hw
      exact congrArg Host.Outcome.next hw
    · next he =>
      rw [if_neg he] at hw
      exact congrArg Host.Outcome.next hw

end Sys2Proof.Proofs
end
